-- ==== Sys2Proof/Word.lean ====
section
/-! DEFINITION. The word types of the machine (R2, R25, R143) and their plainest arithmetic. -/

namespace Sys2Proof

/-- A 64-bit scalar value (R143). -/
abbrev Word := BitVec 64

/-- One byte of any store. -/
abbrev Byte := BitVec 8

/-- A 64-byte vector value (R143). -/
abbrev VWord := BitVec 512

/-- A 16-bit instruction parcel (R25). -/
abbrev Parcel := BitVec 16

end Sys2Proof
end

