-- ==== Sys2Proof/Config.lean ====
section
/-! DEFINITION. The values that the spec leaves open, as constants without a body: no proof can see what they
are, so a claim holds whatever they are (the assumption log names each). -/

namespace Sys2Proof.Config

/-- The cipher of a core's local memory (R88): under key number `key`, for block `blk` of the 64-byte line `line`, whose tweak
names the core. Enciphering is a permutation of the 128-bit blocks. [DEDUCED, log 15] -/
opaque coreCipher (key core line blk : Nat) : Equiv.Perm (BitVec 128)

/-- The cipher of a cluster's memory (R90), in the same form. [DEDUCED, log 15] -/
opaque cluCipher (key cl line blk : Nat) : Equiv.Perm (BitVec 128)

/-- Which of the results within the bound a lane function of R196 gives: function 0 VRCP, 1 VRSQ, 2 VEXP2,
3 VLOG2, and the bits of the binary32 input. [DESIGN CHOICE, log 12] -/
opaque approx (fn : Nat) (x : BitVec 32) : Nat

/-- A key agreed in a secured session (R376). [DESIGN CHOICE, log 16] -/
opaque sessionKey (draw req : Nat) : BitVec 256

/-- The SHA3 digest that evidence carries (R377), over an encoding of what is measured. [DESIGN CHOICE, log 16] -/
opaque measure (data : List Byte) : VWord

/-- The ML-DSA-87 signature of evidence (R377), 4,627 bytes. [DESIGN CHOICE, log 16] -/
opaque signature (data : List Byte) (k : Nat) : Byte

/-- The SVN that a staged image states (R378), from the bytes of the staging window. [DESIGN CHOICE, log 16] -/
opaque imageSvn (data : List Byte) : Nat

/-- Whether a staged image's signature is good (R378), from its SVN and its content. [DESIGN CHOICE, log 16] -/
opaque signed (svn image : Nat) : Bool

/-- What a twin's atomic or LAUNCH gives when its operation has been discarded (R366). [DESIGN CHOICE, log 14] -/
opaque freeWord (draw : Nat) : Word

/-- A vector that an instruction reads where the spec names none: a VSCT's data under a staggered X that has passed v14.
[DESIGN CHOICE, log 101] -/
opaque freeVec (draw : Nat) : VWord

end Sys2Proof.Config
end

