-- ==== Sys2Proof/Syntax.lean ====
section
/-! DEFINITION. The instructions (R25 to R33, R39, R40) and the device's own steps (the rows of the
opcode table that have no encoding): one constructor of `Instr` for each row. -/

namespace Sys2Proof

/-- The fields of a MOD parcel (R32). -/
structure ModFields where
  /-- Scope or type, bits 8:6. -/
  t : BitVec 3
  /-- Rounding mode, bits 5:4. -/
  rm : BitVec 2
  /-- Saturate or stochastic rounding, bit 3. -/
  s : Bool
  /-- Forward-on-pop, bit 2. -/
  f : Bool
  /-- Ordering, bits 1:0. -/
  o : BitVec 2
  deriving DecidableEq, Repr

/-- The fields of a REG parcel (R30). -/
structure RegFields where
  /-- Bits 5:4 of the name in X. -/
  xh : BitVec 2
  /-- Bits 5:4 of the name in Y. -/
  yh : BitVec 2
  /-- Whether the Z operand is present. -/
  zp : Bool
  /-- The Z operand. -/
  z : BitVec 4
  deriving DecidableEq, Repr

/-- What an instruction's parcels hold beside its opcode: the parcels that stand in front of the base
parcel, in the order PAGE, MOD, REG, IMM (R33), and the fields X and Y of the base parcel (R26). -/
structure Fields where
  /-- A PAGE parcel that selects the instruction's own page (R31). -/
  page : Bool
  /-- The MOD parcel, if there is one (R32). -/
  mod : Option ModFields
  /-- The REG parcel, if there is one (R30). -/
  reg : Option RegFields
  /-- The IMM chain, most significant chunk first (R29). -/
  imms : List (BitVec 9)
  /-- Bits 7:4 of the base parcel. -/
  x : BitVec 4
  /-- Bits 3:0 of the base parcel. -/
  y : BitVec 4
  deriving DecidableEq, Repr

/-- The queue heads on which a context assembles a record word by word (R70, R245, R255). -/
inductive AsmQueue where
  /-- Copy requests, through qcopy. -/
  | copy
  /-- Matrix commands, through qmat. -/
  | mat
  /-- Rule commands, through qrule. -/
  | rule
  deriving DecidableEq, Repr

/-- The instructions and the device's steps, one constructor for each row of the opcode table. An
instruction carries its `Fields`; BR, BZ and BNZ also carry the MIN bits of their offset (R39). A step
carries the numbers that say which agent takes it and, where the spec fixes no order or choice, the
choice that is made. -/
inductive Instr where
  /-- ADD (R182): Adds two scalars modulo 2^64. -/
  | add (e : Fields)
  /-- SUB (R182): Subtracts two scalars modulo 2^64. -/
  | sub (e : Fields)
  /-- AND (R182): Bitwise AND of two scalars. -/
  | and (e : Fields)
  /-- OR (R182): Bitwise OR of two scalars. -/
  | or (e : Fields)
  /-- XOR (R182): Bitwise XOR of two scalars. -/
  | xor (e : Fields)
  /-- SHL (R182): Shifts a scalar left by the low six bits of the other. -/
  | shl (e : Fields)
  /-- SHR (R182): Shifts a scalar right logically. -/
  | shr (e : Fields)
  /-- SRA (R182): Shifts a scalar right arithmetically. -/
  | sra (e : Fields)
  /-- MUL (R182): Low 64 bits of the product. -/
  | mul (e : Fields)
  /-- MULH (R182): High 64 bits of the signed product. -/
  | mulh (e : Fields)
  /-- MULHU (R182): High 64 bits of the unsigned product. -/
  | mulhu (e : Fields)
  /-- MIN (R182): Signed minimum of two scalars. -/
  | min (e : Fields)
  /-- MAX (R182): Signed maximum of two scalars. -/
  | max (e : Fields)
  /-- MINU (R182): Unsigned minimum of two scalars. -/
  | minu (e : Fields)
  /-- MAXU (R182): Unsigned maximum of two scalars. -/
  | maxu (e : Fields)
  /-- ANDN (R182): a AND NOT b. -/
  | andn (e : Fields)
  /-- ADDI (R183): Adds a sign-extended immediate. -/
  | addi (e : Fields)
  /-- ANDI (R183): ANDs a sign-extended immediate. -/
  | andi (e : Fields)
  /-- ORI (R183): ORs a zero-extended immediate. -/
  | ori (e : Fields)
  /-- XORI (R183): XORs a zero-extended immediate. -/
  | xori (e : Fields)
  /-- SHLI (R183): Shifts left by an immediate. -/
  | shli (e : Fields)
  /-- SHRI (R183): Shifts right logically by an immediate. -/
  | shri (e : Fields)
  /-- SRAI (R183): Shifts right arithmetically by an immediate. -/
  | srai (e : Fields)
  /-- MOVI (R183): Writes a sign-extended immediate. -/
  | movi (e : Fields)
  /-- SEQ (R184): Sets 1 when the operands are equal. -/
  | seq (e : Fields)
  /-- SNE (R184): Sets 1 when the operands differ. -/
  | sne (e : Fields)
  /-- SLT (R184): Sets 1 when a < b signed. -/
  | slt (e : Fields)
  /-- SLTU (R184): Sets 1 when a < b unsigned. -/
  | sltu (e : Fields)
  /-- SLE (R184): Sets 1 when a <= b signed. -/
  | sle (e : Fields)
  /-- SLEU (R184): Sets 1 when a <= b unsigned. -/
  | sleu (e : Fields)
  /-- SEL (R184): Selects a or b by d1. -/
  | sel (e : Fields)
  /-- MOV (R184): Copies Src(Y) to X. -/
  | mov (e : Fields)
  /-- CLZ (R185): Counts leading zero bits. -/
  | clz (e : Fields)
  /-- CTZ (R185): Counts trailing zero bits. -/
  | ctz (e : Fields)
  /-- POPC (R185): Counts one bits. -/
  | popc (e : Fields)
  /-- SEXT.B (R185): Sign-extends bits 7:0. -/
  | sextB (e : Fields)
  /-- SEXT.H (R185): Sign-extends bits 15:0. -/
  | sextH (e : Fields)
  /-- SEXT.W (R185): Sign-extends bits 31:0. -/
  | sextW (e : Fields)
  /-- ZEXT.H (R185): Zero-extends bits 15:0. -/
  | zextH (e : Fields)
  /-- ZEXT.W (R185): Zero-extends bits 31:0. -/
  | zextW (e : Fields)
  /-- ADDSH1 (R186): Adds Src(Y) shifted left by 1. -/
  | addsh1 (e : Fields)
  /-- ADDSH2 (R186): Adds Src(Y) shifted left by 2. -/
  | addsh2 (e : Fields)
  /-- ADDSH3 (R186): Adds Src(Y) shifted left by 3. -/
  | addsh3 (e : Fields)
  /-- ADDSH4 (R186): Adds Src(Y) shifted left by 4. -/
  | addsh4 (e : Fields)
  /-- BFX (R187): Extracts a bit field, optionally signed. -/
  | bfx (e : Fields)
  /-- BFI (R187): Inserts a bit field. -/
  | bfi (e : Fields)
  /-- LPC (R188): Writes PC plus a parcel offset. -/
  | lpc (e : Fields)
  /-- PWLD (R104): Loads 8 bytes from a parameter window through the window cache. -/
  | pwld (e : Fields)
  /-- LD.B (R102): Loads a sign-extended byte. -/
  | ldB (e : Fields)
  /-- LD.BU (R102): Loads a zero-extended byte. -/
  | ldBu (e : Fields)
  /-- LD.H (R102): Loads a sign-extended half-word. -/
  | ldH (e : Fields)
  /-- LD.HU (R102): Loads a zero-extended half-word. -/
  | ldHu (e : Fields)
  /-- LD.W (R102): Loads a sign-extended word. -/
  | ldW (e : Fields)
  /-- LD.WU (R102): Loads a zero-extended word. -/
  | ldWu (e : Fields)
  /-- LD.D (R102): Loads 8 bytes. -/
  | ldD (e : Fields)
  /-- LDA (R103): Load-acquire of 8 aligned bytes at a scope. -/
  | lda (e : Fields)
  /-- ST.B (R105): Stores one byte. -/
  | stB (e : Fields)
  /-- ST.H (R105): Stores two bytes. -/
  | stH (e : Fields)
  /-- ST.W (R105): Stores four bytes. -/
  | stW (e : Fields)
  /-- ST.D (R105): Stores eight bytes. -/
  | stD (e : Fields)
  /-- STL (R106): Store-release of 8 aligned bytes at a scope. -/
  | stl (e : Fields)
  /-- VLD (R107): Loads 64 bytes into a vector. -/
  | vld (e : Fields)
  /-- VST (R107): Stores 64 bytes of a vector. -/
  | vst (e : Fields)
  /-- VLDS (R108): Loads one element and broadcasts it. -/
  | vlds (e : Fields)
  /-- AMO.ADD (R113): Atomic add returning the old value. -/
  | amoAdd (e : Fields)
  /-- AMO.AND (R113): Atomic AND returning the old value. -/
  | amoAnd (e : Fields)
  /-- AMO.OR (R113): Atomic OR returning the old value. -/
  | amoOr (e : Fields)
  /-- AMO.XOR (R113): Atomic XOR returning the old value. -/
  | amoXor (e : Fields)
  /-- AMO.MIN (R113): Atomic signed minimum. -/
  | amoMin (e : Fields)
  /-- AMO.MAX (R113): Atomic signed maximum. -/
  | amoMax (e : Fields)
  /-- AMO.SWP (R113): Atomic swap. -/
  | amoSwp (e : Fields)
  /-- AMO.CAS (R113): Atomic compare-and-swap with the expected value in Z. -/
  | amoCas (e : Fields)
  /-- AMO.MINU (R113): Atomic unsigned minimum. -/
  | amoMinu (e : Fields)
  /-- AMO.MAXU (R113): Atomic unsigned maximum. -/
  | amoMaxu (e : Fields)
  /-- AMO.FADD (R113): Atomic binary32 add. -/
  | amoFadd (e : Fields)
  /-- RED.ADD (R114): Reduction add returning no value. -/
  | redAdd (e : Fields)
  /-- RED.MIN (R114): Reduction signed minimum. -/
  | redMin (e : Fields)
  /-- RED.MAX (R114): Reduction signed maximum. -/
  | redMax (e : Fields)
  /-- RED.FADD (R114): Reduction binary32 add. -/
  | redFadd (e : Fields)
  /-- VSTS (R109): Stores the lanes that k1 selects. -/
  | vsts (e : Fields)
  /-- FENCE (R115): Orders accesses at a scope. -/
  | fence (e : Fields)
  /-- MWAIT (R121): Waits until the mailbox holds an entry and returns the count. -/
  | mwait (e : Fields)
  /-- MBSEND (R122): Sends a message through a handle, reserving a return entry. -/
  | mbsend (e : Fields)
  /-- MBPEEK (R124): Returns the mailbox head descriptor. -/
  | mbpeek (e : Fields)
  /-- BBSET (R125): Sets a byte barrier's target and pending word. -/
  | bbset (e : Fields)
  /-- BBADD (R125): Adds to a byte barrier's target and pending word. -/
  | bbadd (e : Fields)
  /-- BBWAIT (R125): Waits until a byte barrier is satisfied or failed. -/
  | bbwait (e : Fields)
  /-- BBRD (R125): Reads a byte barrier's pending word or target. -/
  | bbrd (e : Fields)
  /-- CPQ (R116): Pushes a whole copy request from memory, waiting for room. -/
  | cpq (e : Fields)
  /-- CPQT (R116): Tries to push a copy request and returns a busy code. -/
  | cpqt (e : Fields)
  /-- CPCAN (R117): Cancels waiting copy requests with a matching tag. -/
  | cpcan (e : Fields)
  /-- CPST (R118): Returns a snapshot of the core's copy state. -/
  | cpst (e : Fields)
  /-- VGTH (R110): Gathers elements through a vector of offsets. -/
  | vgth (e : Fields)
  /-- VSCT (R111): Scatters elements through a vector of offsets. -/
  | vsct (e : Fields)
  /-- FADD (R190): Scalar floating-point add. -/
  | fadd (e : Fields)
  /-- FSUB (R190): Scalar floating-point subtract. -/
  | fsub (e : Fields)
  /-- FMUL (R190): Scalar floating-point multiply. -/
  | fmul (e : Fields)
  /-- FDIV (R190): Scalar floating-point divide. -/
  | fdiv (e : Fields)
  /-- FMIN (R190): Scalar floating-point minimum. -/
  | fmin (e : Fields)
  /-- FMAX (R190): Scalar floating-point maximum. -/
  | fmax (e : Fields)
  /-- FSQRT (R190): Scalar floating-point square root. -/
  | fsqrt (e : Fields)
  /-- FFMA (R190): Fused multiply-add with one rounding. -/
  | ffma (e : Fields)
  /-- FEQ (R192): Floating-point equality compare. -/
  | feq (e : Fields)
  /-- FLT (R192): Floating-point less-than compare. -/
  | flt (e : Fields)
  /-- FLE (R192): Floating-point less-or-equal compare. -/
  | fle (e : Fields)
  /-- FCLS (R192): Classifies a floating-point value. -/
  | fcls (e : Fields)
  /-- FABS (R192): Clears the sign bit. -/
  | fabs (e : Fields)
  /-- FNEG (R192): Inverts the sign bit. -/
  | fneg (e : Fields)
  /-- FSGNJ (R192): Replaces the sign bit with another's. -/
  | fsgnj (e : Fields)
  /-- FCVT (R193): Converts between floating-point formats. -/
  | fcvt (e : Fields)
  /-- FTOI (R194): Float to signed 64-bit integer. -/
  | ftoi (e : Fields)
  /-- FTOU (R194): Float to unsigned 64-bit integer. -/
  | ftou (e : Fields)
  /-- ITOF (R194): Signed integer to float. -/
  | itof (e : Fields)
  /-- UTOF (R194): Unsigned integer to float. -/
  | utof (e : Fields)
  /-- FRND (R194): Rounds to an integral float value. -/
  | frnd (e : Fields)
  /-- BEQ (R270): Branches when equal. -/
  | beq (e : Fields)
  /-- BNE (R270): Branches when not equal. -/
  | bne (e : Fields)
  /-- BLT (R270): Branches when less, signed. -/
  | blt (e : Fields)
  /-- BGE (R270): Branches when greater or equal, signed. -/
  | bge (e : Fields)
  /-- BLTU (R270): Branches when less, unsigned. -/
  | bltu (e : Fields)
  /-- BGEU (R270): Branches when greater or equal, unsigned. -/
  | bgeu (e : Fields)
  /-- BBS (R270): Branches when a bit is set. -/
  | bbs (e : Fields)
  /-- BBC (R270): Branches when a bit is clear. -/
  | bbc (e : Fields)
  /-- BR (R270): Branches always. -/
  | br (e : Fields) (h : BitVec 3)
  /-- BZ (R270): Branches when a scalar is zero. -/
  | bz (e : Fields) (h : BitVec 3)
  /-- BNZ (R270): Branches when a scalar is non-zero. -/
  | bnz (e : Fields) (h : BitVec 3)
  /-- JAL (R271): PC-relative call writing a link. -/
  | jal (e : Fields)
  /-- JALR (R271): Register-indirect call writing a link. -/
  | jalr (e : Fields)
  /-- RET (R271): Returns to the address in a register. -/
  | ret (e : Fields)
  /-- LOOP (R272): Starts a hardware loop with a register count. -/
  | loop (e : Fields)
  /-- LOOPI (R272): Starts a hardware loop with an immediate count. -/
  | loopi (e : Fields)
  /-- LBRK (R272): Breaks out of a hardware loop. -/
  | lbrk (e : Fields)
  /-- REP (R273): Repeats the next instruction with staggering. -/
  | rep (e : Fields)
  /-- VADD (R195): Vector floating-point add. -/
  | vadd (e : Fields)
  /-- VSUB (R195): Vector floating-point subtract. -/
  | vsub (e : Fields)
  /-- VMUL (R195): Vector floating-point multiply. -/
  | vmul (e : Fields)
  /-- VFMA (R195): Vector fused multiply-add into the destination. -/
  | vfma (e : Fields)
  /-- VMIN (R195): Vector floating-point minimum. -/
  | vmin (e : Fields)
  /-- VMAX (R195): Vector floating-point maximum. -/
  | vmax (e : Fields)
  /-- VSEL (R195): Selects lanes by k1. -/
  | vsel (e : Fields)
  /-- VMOV (R195): Vector move. -/
  | vmov (e : Fields)
  /-- VRCP (R196): Vector reciprocal approximation. -/
  | vrcp (e : Fields)
  /-- VRSQ (R196): Vector reciprocal square root approximation. -/
  | vrsq (e : Fields)
  /-- VEXP2 (R196): Vector base-2 exponential. -/
  | vexp2 (e : Fields)
  /-- VLOG2 (R196): Vector base-2 logarithm. -/
  | vlog2 (e : Fields)
  /-- VABS (R197): Vector absolute value. -/
  | vabs (e : Fields)
  /-- VNEG (R197): Vector negation. -/
  | vneg (e : Fields)
  /-- VCVT (R198): Vector lane conversion. -/
  | vcvt (e : Fields)
  /-- VCMP (R199): Vector compare writing k1. -/
  | vcmp (e : Fields)
  /-- VIADD (R200): Vector integer add. -/
  | viadd (e : Fields)
  /-- VISUB (R200): Vector integer subtract. -/
  | visub (e : Fields)
  /-- VIMUL (R200): Vector integer multiply. -/
  | vimul (e : Fields)
  /-- VAND (R200): Vector bitwise AND. -/
  | vand (e : Fields)
  /-- VOR (R200): Vector bitwise OR. -/
  | vor (e : Fields)
  /-- VXOR (R200): Vector bitwise XOR. -/
  | vxor (e : Fields)
  /-- VSHL (R200): Vector shift left. -/
  | vshl (e : Fields)
  /-- VSHR (R200): Vector logical shift right. -/
  | vshr (e : Fields)
  /-- VRED (R202): Reduces vector lanes by a fixed tree. -/
  | vred (e : Fields)
  /-- VBCST (R201): Broadcasts one lane. -/
  | vbcst (e : Fields)
  /-- VPERM (R201): Permutes lanes by index. -/
  | vperm (e : Fields)
  /-- VEXTR (R201): Extracts one lane to a scalar. -/
  | vextr (e : Fields)
  /-- VINS (R201): Inserts a scalar into one lane. -/
  | vins (e : Fields)
  /-- VDOT (R203): Dot product by a fixed tree into a scalar. -/
  | vdot (e : Fields)
  /-- VPACK (R201): Packs alternate lanes of two vectors. -/
  | vpack (e : Fields)
  /-- VUNPK (R201): Interleaves lanes of two vectors. -/
  | vunpk (e : Fields)
  /-- VMXQ (R204): Quantises one MX block. -/
  | vmxq (e : Fields)
  /-- VNQQ (R205): Quantises one NQ4 block. -/
  | vnqq (e : Fields)
  /-- VSRS (R206): Seeds the stochastic-rounding generator. -/
  | vsrs (e : Fields)
  /-- KMOV (R207): Reads or writes a lane mask. -/
  | kmov (e : Fields)
  /-- MSTR (R247): Pushes a normal-mode strip command. -/
  | mstr (e : Fields)
  /-- MSTRT (R247): Pushes a transposed-mode strip command. -/
  | mstrt (e : Fields)
  /-- MDRN (R248): Pushes a tile drain command. -/
  | mdrn (e : Fields)
  /-- MACZ (R249): Pushes a tile clear command. -/
  | macz (e : Fields)
  /-- MBLD (R250): Pushes a bank load command. -/
  | mbld (e : Fields)
  /-- MBREL (R251): Pushes a bank release command. -/
  | mbrel (e : Fields)
  /-- MCFG (R252): Pushes a format-context load command. -/
  | mcfg (e : Fields)
  /-- MACCP (R249): Pushes a tile copy or add command. -/
  | maccp (e : Fields)
  /-- BARV (R279): Arrives at a barrier without waiting. -/
  | barv (e : Fields)
  /-- BWT (R279): Waits for the release of an earlier arrival. -/
  | bwt (e : Fields)
  /-- BARW (R279): Arrives at a barrier and waits for release. -/
  | barw (e : Fields)
  /-- BSTEP (R281): Arrives with a quiet condition and waits for release. -/
  | bstep (e : Fields)
  /-- TRIG (R283): Marks the group triggered for early trigger. -/
  | trig (e : Fields)
  /-- EXIT (R284): Ends the group after its work completes. -/
  | exit (e : Fields)
  /-- TIME (R285): Reads the reference timer. -/
  | time (e : Fields)
  /-- CYC (R285): Reads the cycle counter. -/
  | cyc (e : Fields)
  /-- HSTART (R274): Starts the lowest free helper context. -/
  | hstart (e : Fields)
  /-- HEND (R275): Ends a helper with an end word. -/
  | hend (e : Fields)
  /-- HJOIN (R275): Waits for a helper to end and returns its end word. -/
  | hjoin (e : Fields)
  /-- FUSE (R276): Joins cores of a cluster into a gang. -/
  | fuse (e : Fields)
  /-- SPLIT (R277): Splits a gang into independent contexts. -/
  | split (e : Fields)
  /-- REJOIN (R156): Waits for named members and re-fuses them. -/
  | rejoin (e : Fields)
  /-- JMSK (R277): Reads or writes a rejoin mask. -/
  | jmsk (e : Fields)
  /-- GSTAT (R277): Reads CTX.GANG. -/
  | gstat (e : Fields)
  /-- SRD (R286): Reads a system register. -/
  | srd (e : Fields)
  /-- SWR (R286): Writes a system register that has no behaviour of its own. -/
  | swr (e : Fields)
  /-- TRAP (R288): Enters the resident handler with cause SOFT, or parks at S level. -/
  | trap (e : Fields)
  /-- ERET (R326): Returns from the handler, reloading the shadow and optionally replaying. -/
  | eret (e : Fields)
  /-- PARK (R288): Stops the context and sends a PARK trap message. -/
  | park (e : Fields)
  /-- NOP (R288): Does nothing. -/
  | nop (e : Fields)
  /-- RLUPD (R256): Pushes a rule update over a range of blocks. -/
  | rlupd (e : Fields)
  /-- RLTAPE (R257): Prepares and registers a tape. -/
  | rltape (e : Fields)
  /-- RLREV (R258): Pushes a reverse sweep over a tape. -/
  | rlrev (e : Fields)
  /-- RLSTAT (R260): Returns the core's rule-command state. -/
  | rlstat (e : Fields)
  /-- RLVER (R261): Returns a rule slot's versions. -/
  | rlver (e : Fields)
  /-- RLSW (R262): Requests a slot's bank exchange at the next device-domain boundary. -/
  | rlsw (e : Fields)
  /-- RLWR (R263): Writes the inactive bank of a slot on all slices. -/
  | rlwr (e : Fields)
  /-- RLRD (R263): Reads rule memory into local or cluster memory. -/
  | rlrd (e : Fields)
  /-- RDREG (R264): Registers or deregisters blocks for digests. -/
  | rdreg (e : Fields)
  /-- RDGET (R265): Reads the partition's digest. -/
  | rdget (e : Fields)
  /-- RDCMP (R266): Pushes a replica digest comparison. -/
  | rdcmp (e : Fields)
  /-- ACT.OPN (R289): Opens the lowest free activity ID. -/
  | actOpn (e : Fields)
  /-- ACT.CP (R290): Pushes a compensation entry onto the Chestnut stack. -/
  | actCp (e : Fields)
  /-- ACT.CMT (R289): Commits an activity and frees its ID. -/
  | actCmt (e : Fields)
  /-- ACT.ABN (R291): Starts abandonment of one or more activities. -/
  | actAbn (e : Fields)
  /-- ACT.RET (R292): Ends a compensation routine with a status. -/
  | actRet (e : Fields)
  /-- ACT.RTY (R355): Reruns the failed entry of a frozen activity. -/
  | actRty (e : Fields)
  /-- ACT.SKP (R355): Discards the failed entry of a frozen activity. -/
  | actSkp (e : Fields)
  /-- ACT.ST (R289): Returns an activity's state word. -/
  | actSt (e : Fields)
  /-- LAUNCH (R293): Adds a launch record to the partition's launch queue. -/
  | launch (e : Fields)
  /-- CKPT (R294): Replaces the checkpoint configuration. -/
  | ckpt (e : Fields)
  /-- CPQZ (R295): Quiesces the copy engine for the core and returns waiting requests. -/
  | cpqz (e : Fields)
  /-- BMEM (R296): Sets a barrier channel's membership. -/
  | bmem (e : Fields)
  /-- LKCFG (R297): Swaps CORE.LNK, enabling or disabling neighbour links. -/
  | lkcfg (e : Fields)
  /-- MSTAT (R253): Returns a snapshot of a bank or the MU summary. -/
  | mstat (e : Fields)
  /-- PREQ (R298): Posts a pre-emption request to a logical core. -/
  | preq (e : Fields)
  /-- TWCFG (R299): Writes the long-wait limit of one or all cores. -/
  | twcfg (e : Fields)
  /-- DIV (R189): Signed division. -/
  | div (e : Fields)
  /-- DIVU (R189): Unsigned division. -/
  | divu (e : Fields)
  /-- REM (R189): Signed remainder. -/
  | rem (e : Fields)
  /-- REMU (R189): Unsigned remainder. -/
  | remu (e : Fields)
  /-- REP_REISSUE (R160): The repetition buffer issues the next reissue of the repeated instruction. -/
  | repReissue
  /-- COPY (R71): Copy request OP 0x01 moving bytes between spaces. -/
  | copy (cl slot unit : Nat)
  /-- NETWORK_SEND (R77): Copy request OP 0x02 sending the walked byte stream to a send queue. -/
  | networkSend (cl slot : Nat)
  /-- FILL (R76): Copy request OP 0x03 writing a fill pattern. -/
  | fill (cl slot unit : Nat)
  /-- COPY_ASSEMBLY_DISCARD (R70): An assembling context issues 16 instructions without a push and its partial request is discarded. -/
  | copyAssemblyDiscard (core : Nat) (q : AsmQueue)
  /-- COPY_START (R69): The engine starts the next FIFO head when a slot is free. -/
  | copyStart (cl : Nat)
  /-- COPY_LANDING (R83): Bytes of a copy land and credit the byte barrier. -/
  | copyLanding (cl slot unit : Nat)
  /-- COPY_COMPLETION (R79): A copy ends and posts its completion message. -/
  | copyCompletion (cl slot : Nat)
  /-- MAILBOX_DEFERRED_POST (R393): A completion or event waiting for mailbox room enters the mailbox. -/
  | mailboxDeferredPost (k : Nat)
  /-- MESSAGE_ARRIVAL (R122): A message reaches its destination and is accepted or refused. -/
  | messageArrival (k : Nat)
  /-- MESSAGE_RETURN (R122): A refused message returns into the sender's reserved entry. -/
  | messageReturn (k : Nat)
  /-- MESSAGE_ACCEPT_NOTICE (R122): An acceptance reaches the sender and releases its reservation. -/
  | messageAcceptNotice (k : Nat)
  /-- LINK_WORD_ARRIVAL (R12): A pushed word becomes poppable at the neighbour. -/
  | linkWordArrival (k : Nat)
  /-- HEARTBEAT (R12): The NI emitter sends a heartbeat every 4,096 cycles. -/
  | heartbeat (core : Nat)
  /-- HEARTBEAT_WINDOW_END (R362): The cluster unit checks a heartbeat window and may declare a core dead. -/
  | heartbeatWindowEnd (core : Nat)
  /-- GLOBAL_REQUEST_ARRIVAL (R57): A request reaches its translating home slice, is translated, checked and served or forwarded. -/
  | globalRequestArrival (k : Nat)
  /-- TRANSLATION_WALK (R61): A walker starts a page-table walk when one is free. -/
  | translationWalk (k : Nat)
  /-- GLOBAL_RESPONSE (R21): A response or fault response returns to the requester. -/
  | globalResponse (k : Nat)
  /-- XLAT_INV (R64): SWR to XLAT.INV invalidates cached translations on all stations. -/
  | xlatInv (core : Nat)
  /-- XLAT_INV_DONE (R64): All stations have removed matching entries and the SWR completes. -/
  | xlatInvDone (core : Nat)
  /-- WINDOW_CACHE_FILL (R93): A window-cache miss fills a line from backing memory. -/
  | windowCacheFill (core : Nat) (w off : Nat)
  /-- TRAP_MESSAGE_HOP (R332): A trap message advances west to its row collector. -/
  | trapMessageHop (k : Nat)
  /-- COLLECTOR_POST (R332): A collector posts a buffered message into a supervisor mailbox. -/
  | collectorPost (die row : Nat)
  /-- MATRIX_COMMAND_START (R224): The MU arbitrates and starts a queued command. -/
  | matrixCommandStart (cl : Nat)
  /-- MATRIX_COMMAND_COMPLETE (R222): A matrix command ends and pushes its completion element. -/
  | matrixCommandComplete (cl k : Nat)
  /-- REU_UPDATE (R233): An REU updates one block under the rule. -/
  | reuUpdate (k blk : Nat)
  /-- RULE_UPDATE_COMPLETION (R236): The collecting REU posts the rule update completion. -/
  | ruleUpdateCompletion (k : Nat)
  /-- RULE_INVALID_OP (R255): A qrule record with an unknown OP completes ILLFORM. -/
  | ruleInvalidOp (k : Nat)
  /-- RLTAPE_COMPLETION (R259): RLTAPE ends and posts its completion. -/
  | rltapeCompletion (k : Nat)
  /-- RLREV_COMPLETION (R259): The reverse sweep ends and posts its completion. -/
  | rlrevCompletion (k : Nat)
  /-- RDREG_COMPLETION (R264): Registration ends and posts its completion. -/
  | rdregCompletion (k : Nat)
  /-- RDCMP_END (R267): The digest comparison ends and sets the update gate. -/
  | rdcmpEnd (k : Nat)
  /-- ALL_REDUCE (R357): Collective CKIND 0 sums BUF in rank order. -/
  | allReduce (k : Nat)
  /-- ALL_GATHER (R382): Collective CKIND 1 gathers each rank's block. -/
  | allGather (k : Nat)
  /-- REDUCE_SCATTER (R382): Collective CKIND 2 sums this rank's block in rank order. -/
  | reduceScatter (k : Nat)
  /-- COLLECTIVE_COMPLETION (R357): A collective ends and posts its KIND 0x07 completion. -/
  | collectiveCompletion (k : Nat)
  /-- BARRIER_RELEASE (R278): A channel releases once all arrivals and quiet conditions hold. -/
  | barrierRelease (ch : Nat)
  /-- CHECKPOINT_TIMER (R368): TICKS elapse and a checkpoint trigger is armed. -/
  | checkpointTimer (part : Nat)
  /-- CHECKPOINT_PAGE_COPY (R370): A slice copies a registered block page into the checkpoint half. -/
  | checkpointPageCopy (part blk : Nat)
  /-- CHECKPOINT_COMPLETE (R371): A checkpoint half completes and a KIND 0x0F event is posted. -/
  | checkpointComplete (part : Nat)
  /-- COMPENSATION_START (R353): A runnable Chestnut entry starts its routine on a helper. -/
  | compensationStart (die seq : Nat)
  /-- INBOX_RECORD_INTAKE (R307): The distributor takes a record from a virtual function's inbox. -/
  | inboxRecordIntake (part : Nat)
  /-- WINDOW_TABLE_READ (R305): The distributor reads a launch's window table when it becomes eligible. -/
  | windowTableRead (part lid : Nat)
  /-- AGEING_STEP (R308): An eligible launch's effective level rises every 2^20 cycles. -/
  | ageingStep (part lid : Nat)
  /-- LAUNCH_START (R308): The distributor starts the highest eligible launch and deals its groups. -/
  | launchStart (part : Nat)
  /-- GROUP_START (R313): A unit starts its next group with the start state. -/
  | groupStart (core : Nat)
  /-- LAUNCH_COMPLETE (R314): A launch completes; verdict and SEQ are stored. -/
  | launchComplete (part lid : Nat)
  /-- SLICE_EXPIRY (R315): A group has run SLICE cycles and is pre-empted. -/
  | sliceExpiry (core : Nat)
  /-- LONG_WAIT_EXPIRY (R316): A counted wait reaches LIM and its gang is swapped. -/
  | longWaitExpiry (core : Nat)
  /-- SWAP_RESUME (R316): A swapped group resumes after the interposed share. -/
  | swapResume (core : Nat)
  /-- PREEMPT_ENTRY (R334): A pending pre-emption enters the handler once its conditions hold. -/
  | preemptEntry (core : Nat)
  /-- LATE_FAULT_ENTRY (R330): A late vector or matrix fault stops the context at the next boundary. -/
  | lateFaultEntry (core : Nat)
  /-- DIVERGE_ENTRY (R322): The RDCMP's context takes the DIVERGE asynchronous entry. -/
  | divergeEntry (core : Nat)
  /-- RESUME_MESSAGE (R333): A message to a control endpoint resumes or ends a stopped context. -/
  | resumeMessage (k : Nat)
  /-- MSB_SAVE (R336): CORE.MSB OP 1 saves the context and spills the NI. -/
  | msbSave (core : Nat)
  /-- MSB_RESTORE (R336): CORE.MSB OP 2 restores the context and refills the NI. -/
  | msbRestore (core : Nat)
  /-- L2P_REMAP (R279): A write of PART.L2P moves a logical core with its arrivals and memberships. -/
  | l2pRemap (part lpid : Nat) (entry : Word)
  /-- PAIRED_OP_ARRIVAL (R365): A paired operation's copy reaches its router and is compared. -/
  | pairedOpArrival (k : Nat)
  /-- PAIRED_OP_TIMEOUT (R365): A twin's copy does not arrive within 4,096 cycles. -/
  | pairedOpTimeout (k : Nat)
  /-- CLUSTER_SCRUB (R97): An idle cluster is scrubbed under new keys before grant. -/
  | clusterScrub (cl : Nat)
  /-- CLUSTER_CLKOFF (R389): A cluster idle for 1 ms enters CLKOFF. -/
  | clusterClkoff (cl : Nat)
  /-- SERVICE_CONTROLLER_TICK (R317): At each millisecond the controller compares partitions and may start a border move. -/
  | serviceControllerTick
  /-- BORDER_MOVE_GRANT (R318): A moving cluster becomes idle, is scrubbed and granted. -/
  | borderMoveGrant (cl : Nat)
  /-- EVIDENCE_REQUEST (R377): A GO word makes Markhor answer with signed evidence. -/
  | evidenceRequest (fn : Nat)
  /-- FIRMWARE_ACTIVATE (R378): The ACTIVATE word starts live activation of a staged image. -/
  | firmwareActivate
  /-- FUNCTION_LEVEL_RESET (R380): An FLR of a virtual function resets its partition. -/
  | functionLevelReset (part : Nat)
  /-- PACKET_RETRANSMIT (R381): An unacknowledged packet is retransmitted or the copy stops NETERR. -/
  | packetRetransmit (k : Nat)
  /-- PACKET_ACK (R381): The transport acknowledges delivered bytes. -/
  | packetAck (k : Nat)
  /-- SAHDAN_CRC_REPLAY (R383): A flit that fails its CRC is replayed from the sender's buffer. -/
  | sahdanCrcReplay (lane : Nat)
  /-- CLOCK_STEP (R385): A write of CLKREQ.SET stops the die clock and starts a relock. -/
  | clockStep (die : Nat) (set : Nat)
  /-- CLOCK_RELOCK_DONE (R385): The PLL relocks and the die restarts at the new clock. -/
  | clockRelockDone (die : Nat)
  /-- POWER_SAMPLE (R390): Markhor samples package power each millisecond and steps the dies. -/
  | powerSample (watts : Nat)
  /-- THERMAL_STEPDOWN (R391): A junction at or above 100 C steps its die down each ms. -/
  | thermalStepdown (die celsius : Nat)
  /-- THERMAL_TRIP (R391): A junction at or above 115 C resets the module. -/
  | thermalTrip (die celsius : Nat)
  /-- COLD_RESET (R386): A cold reset runs the boot sequence and clears main memory. -/
  | coldReset
  /-- WARM_RESET (R386): A warm reset runs the boot sequence and resumes any HBM scrub. -/
  | warmReset
  /-- HBM_SCRUB_CHUNK (R388): A slice finishes a 64 MiB scrub chunk and journals the next. -/
  | hbmScrubChunk (slice : Nat)
  /-- RESULT_DELIVERY (R146): A value left pending by a local or cluster load, a pop, a vector or long-latency instruction arrives in its window entry and retires its dispatch-ring entry. -/
  | resultDelivery (core id : Nat)
  /-- LOSS_OF_POWER (R386): Power-off makes every agent, Markhor included, lose its state, along with HBM4E and LPDDR-6 contents. -/
  | lossOfPower
  /-- SECURED_SESSION_OPEN (R376): A requester opens a secured session with Markhor, agreeing a shared key through ML-KEM-1024. -/
  | securedSessionOpen (req : Nat)
  /-- SECURED_SESSION_CLOSE (R376): A requester closes its secured session with Markhor. -/
  | securedSessionClose (req : Nat)
  /-- KEY_DELIVERY (R376): The host delivers a partition's digest key encrypted to the device key, and Markhor installs it with the group grant. -/
  | keyDelivery (part req : Nat) (h m : BitVec 128)
  /-- PART_RLS_WRITE (R231): An F-level write to PART.RLS changes a partition's rule slots, and a slot that leaves has both banks zeroed on every slice. -/
  | partRlsWrite (part : Nat) (slots : BitVec 8)
  /-- CLUSTER_GATE (R389): Firmware moves an idle CLKOFF cluster into the GATED power state, losing its on-chip state. -/
  | clusterGate (cl : Nat)
  /-- RANGE_ZEROING (R388): A physical range whose range entry passes to another partition is zeroed by its owning slices, and is refused meanwhile, before the new entry takes effect. -/
  | rangeZeroing (k : Nat)
  deriving DecidableEq, Repr

end Sys2Proof
end

