-- ==== Sys2Proof/Decode.lean ====
section
/-! DEFINITION. Parcels to instructions and back (R25 to R44): the opcode map, the form that each entry
accepts, the subcauses of R42, the decoder and the encoder. -/

namespace Sys2Proof

/-- What an instruction does with a field of its base parcel. -/
inductive Use where
  /-- A reserved field: it must be 0 (R26). -/
  | none
  /-- The instruction's own number, no operand name. -/
  | own
  /-- Names a source. -/
  | src
  /-- Names the destination. -/
  | dst
  /-- Names the destination and a source. -/
  | both
  deriving DecidableEq, Repr

/-- Whether the Z operand is accepted (R30). -/
inductive ZUse where
  /-- Not accepted. -/
  | none
  /-- The destination, if present. -/
  | dst
  /-- The destination, required (VDOT). -/
  | req
  /-- A third source (FFMA, AMO.CAS). -/
  | src
  deriving DecidableEq, Repr

/-- Whether an IMM chain is accepted (R29). -/
inductive ImmUse where
  /-- Not accepted. -/
  | none
  /-- Accepted. -/
  | opt
  /-- Required. -/
  | req
  deriving DecidableEq, Repr

/-- The own field below the IMM chain (R41). -/
inductive Own where
  /-- None. -/
  | none
  /-- Y. -/
  | y4
  /-- MIN:X:Y. -/
  | br
  /-- MIN:Y. -/
  | bz
  deriving DecidableEq, Repr

/-- The fields of an instruction as its entry reads them: operand names as codes of R34, own fields as
plain numbers, the immediate extended to 64 bits (R29). -/
structure Opnds where
  /-- Name or own number in X. -/
  x : Nat
  /-- Name or own number in Y. -/
  y : Nat
  /-- Name in Z, 0 (s0) without it. -/
  z : Nat
  /-- Z is present. -/
  zp : Bool
  /-- YH. -/
  yh : Nat
  /-- The immediate. -/
  imm : Word
  /-- MOD T. -/
  t : Nat
  /-- MOD RM. -/
  rm : Nat
  /-- MOD S. -/
  s : Bool
  /-- MOD F. -/
  f : Bool
  /-- MOD O. -/
  o : Nat
  /-- Length in bytes. -/
  len : Nat
  deriving DecidableEq, Repr

/-- What an entry accepts: the use and position (scalar or vector, R35) of each field, the MOD fields it
reads, its immediate, and the further limits that the entry states with their subcauses. -/
structure Shape where
  /-- Use of X. -/
  x : Use := .none
  /-- X is a vector position. -/
  xv : Bool := false
  /-- Use of Y. -/
  y : Use := .none
  /-- Y is a vector position. -/
  yv : Bool := false
  /-- Use of Z. -/
  z : ZUse := .none
  /-- Z reads through the vector base map. -/
  zv : Bool := false
  /-- Y[2] = 1 makes X a source (KMOV, JMSK). -/
  wbit : Bool := false
  /-- YH may take any value (BBS, BBC). -/
  yh : Bool := false
  /-- T is a scope. -/
  scope : Bool := false
  /-- T is a type, one of these codes. -/
  types : Option (List Nat) := .none
  /-- RM is used. -/
  rm : Bool := false
  /-- S is used. -/
  s : Bool := false
  /-- O is used. -/
  o : Bool := false
  /-- F must be 0 whatever the operands name (R113). -/
  nof : Bool := false
  /-- The IMM chain. -/
  imm : ImmUse := .none
  /-- The immediate is sign-extended. -/
  signed : Bool := false
  /-- The own field. -/
  own : Own := .none
  /-- Further subcauses that the entry's own limits give. -/
  extra : Opnds → List Nat := fun _ => []
  /-- The mask register that it writes, by Y (VCMP, KMOV). -/
  kOut : Nat → Option Nat := fun _ => .none
  /-- What it reads beside its fields, by X (R109, R111): a register's name, or 64 + n for mask register kn. -/
  also : Nat → List Nat := fun _ => []

/-- One subcause if the condition holds. -/
def subIf (b : Bool) (n : Nat) : List Nat := if b then [n] else []

/-- Bytes of a lane of type code `t` (R179). -/
def laneBytes (t : Nat) : Nat :=
  match t with
  | 0 => 4
  | 1 => 8
  | 2 => 2
  | 3 => 2
  | 4 => 1
  | 5 => 1
  | 6 => 4
  | _ => 1

/-- Lanes of a vector of type code `t`. -/
def lanesOf (t : Nat) : Nat := 64 / laneBytes t

/-- A name is one of v0 to v15. -/
def isVecName (n : Nat) : Bool := 32 ≤ n && n ≤ 47

/-- The destination's name: Z when present, X otherwise (R99; FFMA and AMO.CAS take X always). -/
def Opnds.dst (o : Opnds) : Nat := if o.zp then o.z else o.x

/-- All type codes. -/
def allTypes : List Nat := [0, 1, 2, 3, 4, 5, 6, 7]

/-- The four arithmetic formats f32, f64, bf16, f16. -/
def floatTypes : List Nat := [0, 1, 2, 3]

/-- The formats that stochastic rounding may write: bf16, e4m3, e5m2, with RM = 0 (R193, R198). -/
def srBad (o : Opnds) : Bool := o.s && (!(o.t == 2 || o.t == 4 || o.t == 5) || o.rm != 0)

/-- The indices that name a system register (R286, R328). -/
def sysIndexOk (i : Nat) : Bool :=
  i ≤ 1 || (0x10 ≤ i && i ≤ 0x1B) || (0x20 ≤ i && i ≤ 0x22) || (0x30 ≤ i && i ≤ 0x31)
    || (0x40 ≤ i && i ≤ 0x42) || (0x50 ≤ i && i ≤ 0x51) || i == 0x58 || (0x60 ≤ i && i ≤ 0x6B)
    || (0xC0 ≤ i && i ≤ 0xEA) || (0xF0 ≤ i && i ≤ 0x9FF)

/-- Two scalar sources, destination X or Z (R182, R184, R186, R189, R274). -/
def Shape.alu : Shape := { x := .both, y := .src, z := .dst }
/-- X and a sign-extended immediate (R183). -/
def Shape.aluImm : Shape := { x := .both, y := .own, z := .dst, imm := .opt, signed := true, own := .y4 }
/-- X and a zero-extended immediate (R183). -/
def Shape.aluImmZ : Shape := { x := .both, y := .own, z := .dst, imm := .opt, own := .y4 }
/-- A shift by an immediate of 0 to 63 (R183). -/
def Shape.shiftImm : Shape :=
  { x := .both, y := .own, z := .dst, imm := .opt, own := .y4, extra := fun o => subIf (63 < o.imm.toNat) 8 }
/-- MOVI (R183). -/
def Shape.movImm : Shape := { x := .dst, y := .own, imm := .opt, signed := true, own := .y4 }
/-- Destination X, source Y. -/
def Shape.unary : Shape := { x := .dst, y := .src }
/-- The limits that BFX and BFI share (R187). -/
def Shape.fieldBad (o : Opnds) : Bool :=
  o.imm.toNat / 8192 != 0 || 64 < o.imm.toNat % 64 + (o.imm.toNat / 64 % 64 + 1)
/-- BFX (R187). -/
def Shape.bfxShape : Shape := { x := .dst, y := .src, imm := .opt, extra := fun o => subIf (fieldBad o) 8 }
/-- BFI (R187). -/
def Shape.bfiShape : Shape :=
  { x := .both, y := .src, z := .dst, imm := .opt,
    extra := fun o => subIf (fieldBad o || o.imm.getLsbD 12) 8 }
/-- LPC (R188). -/
def Shape.lpcShape : Shape := { x := .dst, imm := .opt, signed := true }
/-- Destination X, base Y, signed offset (R102, R104, R116, R271, R293, R294, R296). -/
def Shape.load : Shape := { x := .dst, y := .src, imm := .opt, signed := true }
/-- LDA (R103). -/
def Shape.loadAcq : Shape :=
  { x := .dst, y := .src, imm := .opt, signed := true, scope := true, o := true,
    extra := fun o => subIf (o.o == 2) 6 }
/-- Source X, base Y, signed offset (R105). -/
def Shape.store : Shape := { x := .src, y := .src, imm := .opt, signed := true }
/-- STL (R106). -/
def Shape.storeRel : Shape :=
  { x := .src, y := .src, imm := .opt, signed := true, scope := true, o := true,
    extra := fun o => subIf (o.o == 1) 6 }
/-- VLD (R107). -/
def Shape.vload : Shape := { x := .dst, xv := true, y := .src, imm := .opt, signed := true }
/-- VST (R107). -/
def Shape.vstore : Shape := { x := .src, xv := true, y := .src, imm := .opt, signed := true }
/-- VLDS (R108). -/
def Shape.vloads : Shape :=
  { x := .dst, xv := true, y := .src, imm := .opt, signed := true, types := some allTypes }
/-- VSTS (R109). -/
def Shape.vstores : Shape :=
  { x := .src, xv := true, y := .src, imm := .opt, signed := true, types := some allTypes, also := fun _ => [65] }
/-- The AMO forms (R113). -/
def Shape.amo : Shape :=
  { x := .both, y := .src, z := .dst, imm := .opt, signed := true, scope := true, o := true, nof := true }
/-- AMO.FADD (R113). -/
def Shape.amoF : Shape := { amo with rm := true }
/-- AMO.CAS (R113). -/
def Shape.amoC : Shape := { amo with z := .src }
/-- The RED forms (R113). -/
def Shape.red : Shape :=
  { x := .src, y := .src, imm := .opt, signed := true, scope := true, o := true, nof := true,
    extra := fun o => subIf (o.o % 2 == 1) 6 }
/-- RED.FADD (R113). -/
def Shape.redF : Shape := { red with rm := true }
/-- FENCE (R115). -/
def Shape.fenceShape : Shape := { scope := true, o := true }
/-- Destination X alone. -/
def Shape.dest : Shape := { x := .dst }
/-- MBSEND (R122). -/
def Shape.send : Shape := { x := .src, y := .src, scope := true }
/-- BBSET and BBADD (R125). -/
def Shape.bbY : Shape := { x := .own, y := .src, extra := fun o => subIf (8 ≤ o.x) 8 }
/-- BBWAIT (R125). -/
def Shape.bbN : Shape := { x := .own, extra := fun o => subIf (8 ≤ o.x) 8 }
/-- BBRD (R125). -/
def Shape.bbR : Shape := { x := .dst, y := .own }
/-- CPQ (R116). -/
def Shape.memY : Shape := { y := .src, imm := .opt, signed := true }
/-- VGTH (R110). -/
def Shape.gather : Shape :=
  { x := .both, xv := true, y := .src, z := .dst, zv := true, imm := .opt, signed := true,
    types := some [0, 1, 6] }
/-- VSCT (R111). -/
def Shape.scatter : Shape :=
  { x := .src, xv := true, y := .src, imm := .opt, signed := true, types := some [0, 1, 6],
    extra := fun o => subIf (!(isVecName o.x) || o.x % 2 == 1) 7, also := fun x => [x + 1] }
/-- FADD to FDIV (R190): F is not used. -/
def Shape.fp2 : Shape := { x := .both, y := .src, z := .dst, types := some floatTypes, rm := true, nof := true }
/-- Two floating-point sources, no rounding (R192). -/
def Shape.fpTwo : Shape := { x := .both, y := .src, z := .dst, types := some floatTypes }
/-- FMIN and FMAX (R190): F is not used. -/
def Shape.fpMin : Shape := { fpTwo with nof := true }
/-- FRND (R194). -/
def Shape.fp1 : Shape := { x := .dst, y := .src, types := some floatTypes, rm := true }
/-- FSQRT (R190): F is not used. -/
def Shape.fpRoot : Shape := { fp1 with nof := true }
/-- FFMA (R190). -/
def Shape.ffmaShape : Shape := { x := .both, y := .src, z := .src, types := some floatTypes, rm := true, nof := true }
/-- FCLS, FABS, FNEG (R192). -/
def Shape.fpBits : Shape := { x := .dst, y := .src, types := some floatTypes }
/-- FCVT (R193). -/
def Shape.fcvtShape : Shape :=
  { x := .dst, y := .src, types := some [0, 1, 2, 3, 4, 5], rm := true, s := true, imm := .opt,
    extra := fun o => subIf (srBad o) 6 ++ subIf (5 < o.imm.toNat) 8 }
/-- FTOI and FTOU (R194). -/
def Shape.toInt : Shape := { x := .dst, y := .src, types := some [0, 1, 2, 3, 4, 5], rm := true }
/-- ITOF and UTOF (R194). -/
def Shape.fromInt : Shape :=
  { x := .dst, y := .src, types := some [0, 1, 2, 3, 4, 5], rm := true, s := true,
    extra := fun o => subIf (srBad o) 6 }
/-- BEQ to BGEU (R270). -/
def Shape.branch : Shape := { x := .src, y := .src, imm := .req, signed := true }
/-- BBS and BBC (R270). -/
def Shape.branchBit : Shape := { x := .src, y := .own, yh := true, imm := .req, signed := true }
/-- BR (R270). -/
def Shape.brShape : Shape := { x := .own, y := .own, imm := .opt, signed := true, own := .br }
/-- BZ and BNZ (R270). -/
def Shape.bzShape : Shape := { x := .src, y := .own, imm := .opt, signed := true, own := .bz }
/-- JAL (R271). -/
def Shape.jalShape : Shape := { x := .dst, y := .own, imm := .opt, signed := true, own := .y4 }
/-- RET (R271). -/
def Shape.retShape : Shape := { y := .src }
/-- The loop end must lie beyond the next instruction (R272): the parcel offset exceeds the length. -/
def Shape.loopBad (o : Opnds) : Bool := decide (2 * o.imm.toInt ≤ (o.len : Int))
/-- LOOP (R272). -/
def Shape.loopShape : Shape :=
  { x := .src, y := .own, imm := .req, signed := true,
    extra := fun o => subIf (4 ≤ o.y || loopBad o) 8 }
/-- LOOPI (R272). -/
def Shape.loopiShape : Shape :=
  { x := .own, y := .own, imm := .req, signed := true, extra := fun o => subIf (loopBad o) 8 }
/-- LBRK (R272). -/
def Shape.lbrkShape : Shape := { y := .own, extra := fun o => subIf (4 ≤ o.y) 8 }
/-- X and Y both own fields (R273). -/
def Shape.ownXY : Shape := { x := .own, y := .own }
/-- VADD, VSUB, VMUL (R195). -/
def Shape.vec2 : Shape :=
  { x := .both, xv := true, y := .src, yv := true, z := .dst, zv := true, types := some floatTypes, rm := true }
/-- VFMA (R195): the destination is a vector register. -/
def Shape.vfmaShape : Shape := { vec2 with extra := fun o => subIf (!(isVecName o.dst)) 7 }
/-- VMIN and VMAX (R195). -/
def Shape.vmin : Shape := { vec2 with rm := false }
/-- VSEL (R195) and VPERM (R201). -/
def Shape.vecAny : Shape := { vec2 with rm := false, types := some allTypes }
/-- VMOV (R195), VABS and VNEG (R197). -/
def Shape.vmovShape : Shape := { x := .dst, xv := true, y := .src, yv := true, types := some allTypes }
/-- VRCP, VRSQ, VEXP2, VLOG2 (R196). -/
def Shape.vapprox : Shape := { x := .dst, xv := true, y := .src, yv := true, types := some [0, 2, 3] }
/-- VCVT's selector (R198): imm[63:7], and PART against the lane counts; a queue head as the destination
of a partial result. -/
def Shape.vcvtBad (o : Opnds) : List Nat :=
  let ls := lanesOf (o.imm.toNat % 8)
  let ld := lanesOf o.t
  let n := min ls ld
  subIf (52 ≤ o.x && (n < ld || o.imm.getLsbD 4)) 7
    ++ subIf (o.imm.toNat / 128 != 0 || max ls ld / n ≤ o.imm.toNat / 32 % 4) 8
/-- VCVT (R198). -/
def Shape.vcvtShape : Shape :=
  { x := .dst, xv := true, y := .src, yv := true, types := some allTypes, rm := true, s := true, imm := .opt,
    extra := fun o => subIf (srBad o) 6 ++ vcvtBad o }
/-- VCMP (R199). -/
def Shape.vcmpShape : Shape :=
  { x := .src, xv := true, y := .src, yv := true, types := some [0, 1, 2, 3, 6, 7], imm := .opt,
    extra := fun o => subIf (15 < o.imm.toNat || (o.imm.getLsbD 3 && o.t < 4)) 8, kOut := fun _ => some 1 }
/-- Vector integer forms (R200). -/
def Shape.vint : Shape :=
  { x := .both, xv := true, y := .src, yv := true, z := .dst, zv := true, types := some [6, 7] }
/-- VIADD and VISUB (R200). -/
def Shape.vintSat : Shape := { vint with s := true }
/-- VRED (R202). -/
def Shape.vredShape : Shape :=
  { x := .dst, y := .src, yv := true, types := some [0, 1, 2, 3, 6, 7], rm := true, imm := .opt,
    extra := fun o => subIf (o.rm != 0 && (o.imm.toNat % 4 == 1 || o.imm.toNat % 4 == 2)) 6
      ++ subIf (7 < o.imm.toNat || o.imm.toNat % 4 == 3) 8 }
/-- The lane number must be below the lane count (R201). -/
def Shape.laneBad (o : Opnds) : List Nat := subIf (lanesOf o.t ≤ o.imm.toNat) 8
/-- VBCST (R201). -/
def Shape.vbcstShape : Shape :=
  { x := .both, xv := true, z := .dst, zv := true, types := some allTypes, imm := .opt, extra := laneBad }
/-- VEXTR (R201). -/
def Shape.vextrShape : Shape :=
  { x := .dst, y := .src, yv := true, types := some allTypes, imm := .opt, extra := laneBad }
/-- VINS (R201). -/
def Shape.vinsShape : Shape :=
  { x := .both, xv := true, y := .src, z := .dst, zv := true, types := some allTypes, imm := .opt,
    extra := laneBad }
/-- VDOT (R203). -/
def Shape.vdotShape : Shape :=
  { x := .src, xv := true, y := .src, yv := true, z := .req, types := some [0, 1, 2, 3, 4, 5, 7], rm := true }
/-- VPACK and VUNPK (R201). -/
def Shape.vpackShape : Shape :=
  { x := .both, xv := true, y := .src, yv := true, z := .dst, zv := true, types := some allTypes, imm := .opt,
    extra := fun o => subIf (1 < o.imm.toNat) 8 }
/-- VMXQ (R204). -/
def Shape.vmxqShape : Shape :=
  { x := .src, xv := true, y := .dst, yv := true, z := .dst, zv := true, types := some [0, 2, 3], rm := true,
    s := true, imm := .opt,
    extra := fun o => subIf (o.s && (o.imm.toNat % 4 == 2 || o.rm != 0)) 6
      ++ subIf (!(isVecName o.x) || (o.t == 0 && o.x % 2 == 1)) 7
      ++ subIf (3 < o.imm.toNat || o.imm.toNat % 4 == 3) 8 }
/-- VNQQ (R205): no MOD field, F among them. -/
def Shape.vnqqShape : Shape :=
  { x := .both, xv := true, y := .src, z := .dst, zv := true, nof := true,
    extra := fun o => subIf (!(isVecName o.x) || o.x % 4 != 0) 7 }
/-- Source X alone. -/
def Shape.srcX : Shape := { x := .src }
/-- VSRS (R206): no MOD field, F among them. -/
def Shape.vsrsShape : Shape := { x := .src, nof := true }
/-- KMOV (R207): Y[3] is 0, k0 is not written, and no MOD field is used, F among them. -/
def Shape.kmovShape : Shape :=
  { x := .dst, y := .own, wbit := true, nof := true, extra := fun o => subIf (8 ≤ o.y || o.y == 4) 8,
    kOut := fun y => if y / 4 % 2 = 1 then some (y % 4) else .none }
/-- JMSK (R277). -/
def Shape.jmskShape : Shape := { x := .dst, y := .own, wbit := true, extra := fun o => subIf (8 ≤ o.y) 8 }
/-- The record forms (R244, R252, R255, R264, R266). -/
def Shape.record : Shape := { x := .src, y := .src, imm := .opt, signed := true }
/-- The barrier instructions (R278): channel X:Y below 64. -/
def Shape.barrier : Shape := { x := .own, y := .own, extra := fun o => subIf (64 ≤ o.x * 16 + o.y) 8 }
/-- No operand. -/
def Shape.bare : Shape := {}
/-- REJOIN (R277). -/
def Shape.rejoinShape : Shape := { x := .own, extra := fun o => subIf (4 ≤ o.x) 8 }
/-- SRD (R286). -/
def Shape.srdShape : Shape :=
  { x := .dst, y := .own, imm := .opt, own := .y4, extra := fun o => subIf (!(sysIndexOk o.imm.toNat)) 8 }
/-- SWR (R286). -/
def Shape.swrShape : Shape :=
  { x := .src, y := .own, imm := .opt, own := .y4, extra := fun o => subIf (!(sysIndexOk o.imm.toNat)) 8 }
/-- TRAP (R288). -/
def Shape.trapShape : Shape := { y := .own, imm := .opt, own := .y4 }
/-- Sources X and Y. -/
def Shape.src2 : Shape := { x := .src, y := .src }
/-- RDGET (R265). -/
def Shape.rdgetShape : Shape := { x := .dst, xv := true }
/-- ACT.CP (R290). -/
def Shape.actCpShape : Shape := { x := .both, y := .src, imm := .opt, signed := true }


/-- An entry of the opcode map: the instruction that the fields make, and its form. -/
structure Row where
  /-- The instruction. -/
  make : Fields → Instr
  /-- Its form. -/
  shape : Shape

/-- Page 0 (R39): by MAJ, then MIN. -/
def page0 : List (List Row) := [
  [],
  [⟨.add, .alu⟩, ⟨.sub, .alu⟩, ⟨.and, .alu⟩, ⟨.or, .alu⟩, ⟨.xor, .alu⟩, ⟨.shl, .alu⟩, ⟨.shr, .alu⟩,
   ⟨.sra, .alu⟩],
  [⟨.mul, .alu⟩, ⟨.mulh, .alu⟩, ⟨.mulhu, .alu⟩, ⟨.min, .alu⟩, ⟨.max, .alu⟩, ⟨.minu, .alu⟩, ⟨.maxu, .alu⟩,
   ⟨.andn, .alu⟩],
  [⟨.addi, .aluImm⟩, ⟨.andi, .aluImm⟩, ⟨.ori, .aluImmZ⟩, ⟨.xori, .aluImmZ⟩, ⟨.shli, .shiftImm⟩,
   ⟨.shri, .shiftImm⟩, ⟨.srai, .shiftImm⟩, ⟨.movi, .movImm⟩],
  [⟨.seq, .alu⟩, ⟨.sne, .alu⟩, ⟨.slt, .alu⟩, ⟨.sltu, .alu⟩, ⟨.sle, .alu⟩, ⟨.sleu, .alu⟩, ⟨.sel, .alu⟩,
   ⟨.mov, .unary⟩],
  [⟨.clz, .unary⟩, ⟨.ctz, .unary⟩, ⟨.popc, .unary⟩, ⟨.sextB, .unary⟩, ⟨.sextH, .unary⟩, ⟨.sextW, .unary⟩,
   ⟨.zextH, .unary⟩, ⟨.zextW, .unary⟩],
  [⟨.addsh1, .alu⟩, ⟨.addsh2, .alu⟩, ⟨.addsh3, .alu⟩, ⟨.addsh4, .alu⟩, ⟨.bfx, .bfxShape⟩, ⟨.bfi, .bfiShape⟩,
   ⟨.lpc, .lpcShape⟩, ⟨.pwld, .load⟩],
  [⟨.ldB, .load⟩, ⟨.ldBu, .load⟩, ⟨.ldH, .load⟩, ⟨.ldHu, .load⟩, ⟨.ldW, .load⟩, ⟨.ldWu, .load⟩,
   ⟨.ldD, .load⟩, ⟨.lda, .loadAcq⟩],
  [⟨.stB, .store⟩, ⟨.stH, .store⟩, ⟨.stW, .store⟩, ⟨.stD, .store⟩, ⟨.stl, .storeRel⟩, ⟨.vld, .vload⟩,
   ⟨.vst, .vstore⟩, ⟨.vlds, .vloads⟩],
  [⟨.amoAdd, .amo⟩, ⟨.amoAnd, .amo⟩, ⟨.amoOr, .amo⟩, ⟨.amoXor, .amo⟩, ⟨.amoMin, .amo⟩, ⟨.amoMax, .amo⟩,
   ⟨.amoSwp, .amo⟩, ⟨.amoCas, .amoC⟩],
  [⟨.amoMinu, .amo⟩, ⟨.amoMaxu, .amo⟩, ⟨.amoFadd, .amoF⟩, ⟨.redAdd, .red⟩, ⟨.redMin, .red⟩, ⟨.redMax, .red⟩,
   ⟨.redFadd, .redF⟩, ⟨.vsts, .vstores⟩],
  [⟨.fence, .fenceShape⟩, ⟨.mwait, .dest⟩, ⟨.mbsend, .send⟩, ⟨.mbpeek, .dest⟩, ⟨.bbset, .bbY⟩,
   ⟨.bbadd, .bbY⟩, ⟨.bbwait, .bbN⟩, ⟨.bbrd, .bbR⟩],
  [⟨.cpq, .memY⟩, ⟨.cpqt, .load⟩, ⟨.cpcan, .unary⟩, ⟨.cpst, .dest⟩, ⟨.vgth, .gather⟩, ⟨.vsct, .scatter⟩],
  [⟨.fadd, .fp2⟩, ⟨.fsub, .fp2⟩, ⟨.fmul, .fp2⟩, ⟨.fdiv, .fp2⟩, ⟨.fmin, .fpMin⟩, ⟨.fmax, .fpMin⟩,
   ⟨.fsqrt, .fpRoot⟩, ⟨.ffma, .ffmaShape⟩],
  [⟨.feq, .fpTwo⟩, ⟨.flt, .fpTwo⟩, ⟨.fle, .fpTwo⟩, ⟨.fcls, .fpBits⟩, ⟨.fabs, .fpBits⟩, ⟨.fneg, .fpBits⟩,
   ⟨.fsgnj, .fpTwo⟩, ⟨.fcvt, .fcvtShape⟩],
  [⟨.ftoi, .toInt⟩, ⟨.ftou, .toInt⟩, ⟨.itof, .fromInt⟩, ⟨.utof, .fromInt⟩, ⟨.frnd, .fp1⟩],
  [⟨.beq, .branch⟩, ⟨.bne, .branch⟩, ⟨.blt, .branch⟩, ⟨.bge, .branch⟩, ⟨.bltu, .branch⟩, ⟨.bgeu, .branch⟩,
   ⟨.bbs, .branchBit⟩, ⟨.bbc, .branchBit⟩],
  [⟨(.br · 0), .brShape⟩, ⟨(.br · 1), .brShape⟩, ⟨(.br · 2), .brShape⟩, ⟨(.br · 3), .brShape⟩,
   ⟨(.br · 4), .brShape⟩, ⟨(.br · 5), .brShape⟩, ⟨(.br · 6), .brShape⟩, ⟨(.br · 7), .brShape⟩],
  [⟨(.bz · 0), .bzShape⟩, ⟨(.bz · 1), .bzShape⟩, ⟨(.bz · 2), .bzShape⟩, ⟨(.bz · 3), .bzShape⟩,
   ⟨(.bz · 4), .bzShape⟩, ⟨(.bz · 5), .bzShape⟩, ⟨(.bz · 6), .bzShape⟩, ⟨(.bz · 7), .bzShape⟩],
  [⟨(.bnz · 0), .bzShape⟩, ⟨(.bnz · 1), .bzShape⟩, ⟨(.bnz · 2), .bzShape⟩, ⟨(.bnz · 3), .bzShape⟩,
   ⟨(.bnz · 4), .bzShape⟩, ⟨(.bnz · 5), .bzShape⟩, ⟨(.bnz · 6), .bzShape⟩, ⟨(.bnz · 7), .bzShape⟩],
  [⟨.jal, .jalShape⟩, ⟨.jalr, .load⟩, ⟨.ret, .retShape⟩, ⟨.loop, .loopShape⟩, ⟨.loopi, .loopiShape⟩,
   ⟨.lbrk, .lbrkShape⟩, ⟨.rep, .ownXY⟩],
  [⟨.vadd, .vec2⟩, ⟨.vsub, .vec2⟩, ⟨.vmul, .vec2⟩, ⟨.vfma, .vfmaShape⟩, ⟨.vmin, .vmin⟩, ⟨.vmax, .vmin⟩,
   ⟨.vsel, .vecAny⟩, ⟨.vmov, .vmovShape⟩],
  [⟨.vrcp, .vapprox⟩, ⟨.vrsq, .vapprox⟩, ⟨.vexp2, .vapprox⟩, ⟨.vlog2, .vapprox⟩, ⟨.vabs, .vmovShape⟩,
   ⟨.vneg, .vmovShape⟩, ⟨.vcvt, .vcvtShape⟩, ⟨.vcmp, .vcmpShape⟩],
  [⟨.viadd, .vintSat⟩, ⟨.visub, .vintSat⟩, ⟨.vimul, .vint⟩, ⟨.vand, .vint⟩, ⟨.vor, .vint⟩, ⟨.vxor, .vint⟩,
   ⟨.vshl, .vint⟩, ⟨.vshr, .vint⟩],
  [⟨.vred, .vredShape⟩, ⟨.vbcst, .vbcstShape⟩, ⟨.vperm, .vecAny⟩, ⟨.vextr, .vextrShape⟩, ⟨.vins, .vinsShape⟩,
   ⟨.vdot, .vdotShape⟩, ⟨.vpack, .vpackShape⟩, ⟨.vunpk, .vpackShape⟩],
  [⟨.vmxq, .vmxqShape⟩, ⟨.vnqq, .vnqqShape⟩, ⟨.vsrs, .vsrsShape⟩, ⟨.kmov, .kmovShape⟩],
  [⟨.mstr, .record⟩, ⟨.mstrt, .record⟩, ⟨.mdrn, .record⟩, ⟨.macz, .record⟩, ⟨.mbld, .record⟩,
   ⟨.mbrel, .record⟩, ⟨.mcfg, .record⟩, ⟨.maccp, .record⟩],
  [⟨.barv, .barrier⟩, ⟨.bwt, .barrier⟩, ⟨.barw, .barrier⟩, ⟨.bstep, .barrier⟩, ⟨.trig, .bare⟩,
   ⟨.exit, .bare⟩, ⟨.time, .dest⟩, ⟨.cyc, .dest⟩],
  [⟨.hstart, .alu⟩, ⟨.hend, .srcX⟩, ⟨.hjoin, .unary⟩, ⟨.fuse, .srcX⟩, ⟨.split, .bare⟩,
   ⟨.rejoin, .rejoinShape⟩, ⟨.jmsk, .jmskShape⟩, ⟨.gstat, .dest⟩],
  [⟨.srd, .srdShape⟩, ⟨.swr, .swrShape⟩, ⟨.trap, .trapShape⟩, ⟨.eret, .bare⟩, ⟨.park, .srcX⟩, ⟨.nop, .bare⟩]
  ]

/-- Page 1 (R40): by MAJ, then MIN. -/
def page1 : List (List Row) := [
  [],
  [⟨.rlupd, .record⟩, ⟨.rltape, .record⟩, ⟨.rlrev, .record⟩, ⟨.rlstat, .dest⟩, ⟨.rlver, .unary⟩,
   ⟨.rlsw, .unary⟩, ⟨.rlwr, .src2⟩, ⟨.rlrd, .src2⟩],
  [⟨.rdreg, .record⟩, ⟨.rdget, .rdgetShape⟩, ⟨.rdcmp, .record⟩],
  [⟨.actOpn, .dest⟩, ⟨.actCp, .actCpShape⟩, ⟨.actCmt, .srcX⟩, ⟨.actAbn, .src2⟩, ⟨.actRet, .srcX⟩,
   ⟨.actRty, .srcX⟩, ⟨.actSkp, .srcX⟩, ⟨.actSt, .unary⟩],
  [⟨.launch, .load⟩, ⟨.ckpt, .load⟩, ⟨.cpqz, .unary⟩, ⟨.bmem, .load⟩, ⟨.lkcfg, .unary⟩, ⟨.mstat, .unary⟩,
   ⟨.preq, .unary⟩, ⟨.twcfg, .src2⟩],
  [⟨.div, .alu⟩, ⟨.divu, .alu⟩, ⟨.rem, .alu⟩, ⟨.remu, .alu⟩]
  ]

/-- The place of an instruction in the opcode map, with its fields. -/
structure Code where
  /-- Page 1 (else page 0). -/
  p1 : Bool
  /-- MAJ. -/
  maj : Nat
  /-- MIN. -/
  min : Nat
  /-- The fields. -/
  e : Fields
  deriving DecidableEq, Repr

/-- The entry of a page, MAJ and MIN. -/
def rowAt (p1 : Bool) (maj min : Nat) : Option Row :=
  match (if p1 then page1 else page0)[maj]? with
  | none => none
  | some rows => rows[min]?

/-- The place of an instruction in the opcode map and its fields; none for a step without an encoding. -/
def Instr.code : Instr → Option Code
  | .add e => some ⟨false, 1, 0, e⟩
  | .sub e => some ⟨false, 1, 1, e⟩
  | .and e => some ⟨false, 1, 2, e⟩
  | .or e => some ⟨false, 1, 3, e⟩
  | .xor e => some ⟨false, 1, 4, e⟩
  | .shl e => some ⟨false, 1, 5, e⟩
  | .shr e => some ⟨false, 1, 6, e⟩
  | .sra e => some ⟨false, 1, 7, e⟩
  | .mul e => some ⟨false, 2, 0, e⟩
  | .mulh e => some ⟨false, 2, 1, e⟩
  | .mulhu e => some ⟨false, 2, 2, e⟩
  | .min e => some ⟨false, 2, 3, e⟩
  | .max e => some ⟨false, 2, 4, e⟩
  | .minu e => some ⟨false, 2, 5, e⟩
  | .maxu e => some ⟨false, 2, 6, e⟩
  | .andn e => some ⟨false, 2, 7, e⟩
  | .addi e => some ⟨false, 3, 0, e⟩
  | .andi e => some ⟨false, 3, 1, e⟩
  | .ori e => some ⟨false, 3, 2, e⟩
  | .xori e => some ⟨false, 3, 3, e⟩
  | .shli e => some ⟨false, 3, 4, e⟩
  | .shri e => some ⟨false, 3, 5, e⟩
  | .srai e => some ⟨false, 3, 6, e⟩
  | .movi e => some ⟨false, 3, 7, e⟩
  | .seq e => some ⟨false, 4, 0, e⟩
  | .sne e => some ⟨false, 4, 1, e⟩
  | .slt e => some ⟨false, 4, 2, e⟩
  | .sltu e => some ⟨false, 4, 3, e⟩
  | .sle e => some ⟨false, 4, 4, e⟩
  | .sleu e => some ⟨false, 4, 5, e⟩
  | .sel e => some ⟨false, 4, 6, e⟩
  | .mov e => some ⟨false, 4, 7, e⟩
  | .clz e => some ⟨false, 5, 0, e⟩
  | .ctz e => some ⟨false, 5, 1, e⟩
  | .popc e => some ⟨false, 5, 2, e⟩
  | .sextB e => some ⟨false, 5, 3, e⟩
  | .sextH e => some ⟨false, 5, 4, e⟩
  | .sextW e => some ⟨false, 5, 5, e⟩
  | .zextH e => some ⟨false, 5, 6, e⟩
  | .zextW e => some ⟨false, 5, 7, e⟩
  | .addsh1 e => some ⟨false, 6, 0, e⟩
  | .addsh2 e => some ⟨false, 6, 1, e⟩
  | .addsh3 e => some ⟨false, 6, 2, e⟩
  | .addsh4 e => some ⟨false, 6, 3, e⟩
  | .bfx e => some ⟨false, 6, 4, e⟩
  | .bfi e => some ⟨false, 6, 5, e⟩
  | .lpc e => some ⟨false, 6, 6, e⟩
  | .pwld e => some ⟨false, 6, 7, e⟩
  | .ldB e => some ⟨false, 7, 0, e⟩
  | .ldBu e => some ⟨false, 7, 1, e⟩
  | .ldH e => some ⟨false, 7, 2, e⟩
  | .ldHu e => some ⟨false, 7, 3, e⟩
  | .ldW e => some ⟨false, 7, 4, e⟩
  | .ldWu e => some ⟨false, 7, 5, e⟩
  | .ldD e => some ⟨false, 7, 6, e⟩
  | .lda e => some ⟨false, 7, 7, e⟩
  | .stB e => some ⟨false, 8, 0, e⟩
  | .stH e => some ⟨false, 8, 1, e⟩
  | .stW e => some ⟨false, 8, 2, e⟩
  | .stD e => some ⟨false, 8, 3, e⟩
  | .stl e => some ⟨false, 8, 4, e⟩
  | .vld e => some ⟨false, 8, 5, e⟩
  | .vst e => some ⟨false, 8, 6, e⟩
  | .vlds e => some ⟨false, 8, 7, e⟩
  | .amoAdd e => some ⟨false, 9, 0, e⟩
  | .amoAnd e => some ⟨false, 9, 1, e⟩
  | .amoOr e => some ⟨false, 9, 2, e⟩
  | .amoXor e => some ⟨false, 9, 3, e⟩
  | .amoMin e => some ⟨false, 9, 4, e⟩
  | .amoMax e => some ⟨false, 9, 5, e⟩
  | .amoSwp e => some ⟨false, 9, 6, e⟩
  | .amoCas e => some ⟨false, 9, 7, e⟩
  | .amoMinu e => some ⟨false, 10, 0, e⟩
  | .amoMaxu e => some ⟨false, 10, 1, e⟩
  | .amoFadd e => some ⟨false, 10, 2, e⟩
  | .redAdd e => some ⟨false, 10, 3, e⟩
  | .redMin e => some ⟨false, 10, 4, e⟩
  | .redMax e => some ⟨false, 10, 5, e⟩
  | .redFadd e => some ⟨false, 10, 6, e⟩
  | .vsts e => some ⟨false, 10, 7, e⟩
  | .fence e => some ⟨false, 11, 0, e⟩
  | .mwait e => some ⟨false, 11, 1, e⟩
  | .mbsend e => some ⟨false, 11, 2, e⟩
  | .mbpeek e => some ⟨false, 11, 3, e⟩
  | .bbset e => some ⟨false, 11, 4, e⟩
  | .bbadd e => some ⟨false, 11, 5, e⟩
  | .bbwait e => some ⟨false, 11, 6, e⟩
  | .bbrd e => some ⟨false, 11, 7, e⟩
  | .cpq e => some ⟨false, 12, 0, e⟩
  | .cpqt e => some ⟨false, 12, 1, e⟩
  | .cpcan e => some ⟨false, 12, 2, e⟩
  | .cpst e => some ⟨false, 12, 3, e⟩
  | .vgth e => some ⟨false, 12, 4, e⟩
  | .vsct e => some ⟨false, 12, 5, e⟩
  | .fadd e => some ⟨false, 13, 0, e⟩
  | .fsub e => some ⟨false, 13, 1, e⟩
  | .fmul e => some ⟨false, 13, 2, e⟩
  | .fdiv e => some ⟨false, 13, 3, e⟩
  | .fmin e => some ⟨false, 13, 4, e⟩
  | .fmax e => some ⟨false, 13, 5, e⟩
  | .fsqrt e => some ⟨false, 13, 6, e⟩
  | .ffma e => some ⟨false, 13, 7, e⟩
  | .feq e => some ⟨false, 14, 0, e⟩
  | .flt e => some ⟨false, 14, 1, e⟩
  | .fle e => some ⟨false, 14, 2, e⟩
  | .fcls e => some ⟨false, 14, 3, e⟩
  | .fabs e => some ⟨false, 14, 4, e⟩
  | .fneg e => some ⟨false, 14, 5, e⟩
  | .fsgnj e => some ⟨false, 14, 6, e⟩
  | .fcvt e => some ⟨false, 14, 7, e⟩
  | .ftoi e => some ⟨false, 15, 0, e⟩
  | .ftou e => some ⟨false, 15, 1, e⟩
  | .itof e => some ⟨false, 15, 2, e⟩
  | .utof e => some ⟨false, 15, 3, e⟩
  | .frnd e => some ⟨false, 15, 4, e⟩
  | .beq e => some ⟨false, 16, 0, e⟩
  | .bne e => some ⟨false, 16, 1, e⟩
  | .blt e => some ⟨false, 16, 2, e⟩
  | .bge e => some ⟨false, 16, 3, e⟩
  | .bltu e => some ⟨false, 16, 4, e⟩
  | .bgeu e => some ⟨false, 16, 5, e⟩
  | .bbs e => some ⟨false, 16, 6, e⟩
  | .bbc e => some ⟨false, 16, 7, e⟩
  | .br e h => some ⟨false, 17, h.toNat, e⟩
  | .bz e h => some ⟨false, 18, h.toNat, e⟩
  | .bnz e h => some ⟨false, 19, h.toNat, e⟩
  | .jal e => some ⟨false, 20, 0, e⟩
  | .jalr e => some ⟨false, 20, 1, e⟩
  | .ret e => some ⟨false, 20, 2, e⟩
  | .loop e => some ⟨false, 20, 3, e⟩
  | .loopi e => some ⟨false, 20, 4, e⟩
  | .lbrk e => some ⟨false, 20, 5, e⟩
  | .rep e => some ⟨false, 20, 6, e⟩
  | .vadd e => some ⟨false, 21, 0, e⟩
  | .vsub e => some ⟨false, 21, 1, e⟩
  | .vmul e => some ⟨false, 21, 2, e⟩
  | .vfma e => some ⟨false, 21, 3, e⟩
  | .vmin e => some ⟨false, 21, 4, e⟩
  | .vmax e => some ⟨false, 21, 5, e⟩
  | .vsel e => some ⟨false, 21, 6, e⟩
  | .vmov e => some ⟨false, 21, 7, e⟩
  | .vrcp e => some ⟨false, 22, 0, e⟩
  | .vrsq e => some ⟨false, 22, 1, e⟩
  | .vexp2 e => some ⟨false, 22, 2, e⟩
  | .vlog2 e => some ⟨false, 22, 3, e⟩
  | .vabs e => some ⟨false, 22, 4, e⟩
  | .vneg e => some ⟨false, 22, 5, e⟩
  | .vcvt e => some ⟨false, 22, 6, e⟩
  | .vcmp e => some ⟨false, 22, 7, e⟩
  | .viadd e => some ⟨false, 23, 0, e⟩
  | .visub e => some ⟨false, 23, 1, e⟩
  | .vimul e => some ⟨false, 23, 2, e⟩
  | .vand e => some ⟨false, 23, 3, e⟩
  | .vor e => some ⟨false, 23, 4, e⟩
  | .vxor e => some ⟨false, 23, 5, e⟩
  | .vshl e => some ⟨false, 23, 6, e⟩
  | .vshr e => some ⟨false, 23, 7, e⟩
  | .vred e => some ⟨false, 24, 0, e⟩
  | .vbcst e => some ⟨false, 24, 1, e⟩
  | .vperm e => some ⟨false, 24, 2, e⟩
  | .vextr e => some ⟨false, 24, 3, e⟩
  | .vins e => some ⟨false, 24, 4, e⟩
  | .vdot e => some ⟨false, 24, 5, e⟩
  | .vpack e => some ⟨false, 24, 6, e⟩
  | .vunpk e => some ⟨false, 24, 7, e⟩
  | .vmxq e => some ⟨false, 25, 0, e⟩
  | .vnqq e => some ⟨false, 25, 1, e⟩
  | .vsrs e => some ⟨false, 25, 2, e⟩
  | .kmov e => some ⟨false, 25, 3, e⟩
  | .mstr e => some ⟨false, 26, 0, e⟩
  | .mstrt e => some ⟨false, 26, 1, e⟩
  | .mdrn e => some ⟨false, 26, 2, e⟩
  | .macz e => some ⟨false, 26, 3, e⟩
  | .mbld e => some ⟨false, 26, 4, e⟩
  | .mbrel e => some ⟨false, 26, 5, e⟩
  | .mcfg e => some ⟨false, 26, 6, e⟩
  | .maccp e => some ⟨false, 26, 7, e⟩
  | .barv e => some ⟨false, 27, 0, e⟩
  | .bwt e => some ⟨false, 27, 1, e⟩
  | .barw e => some ⟨false, 27, 2, e⟩
  | .bstep e => some ⟨false, 27, 3, e⟩
  | .trig e => some ⟨false, 27, 4, e⟩
  | .exit e => some ⟨false, 27, 5, e⟩
  | .time e => some ⟨false, 27, 6, e⟩
  | .cyc e => some ⟨false, 27, 7, e⟩
  | .hstart e => some ⟨false, 28, 0, e⟩
  | .hend e => some ⟨false, 28, 1, e⟩
  | .hjoin e => some ⟨false, 28, 2, e⟩
  | .fuse e => some ⟨false, 28, 3, e⟩
  | .split e => some ⟨false, 28, 4, e⟩
  | .rejoin e => some ⟨false, 28, 5, e⟩
  | .jmsk e => some ⟨false, 28, 6, e⟩
  | .gstat e => some ⟨false, 28, 7, e⟩
  | .srd e => some ⟨false, 29, 0, e⟩
  | .swr e => some ⟨false, 29, 1, e⟩
  | .trap e => some ⟨false, 29, 2, e⟩
  | .eret e => some ⟨false, 29, 3, e⟩
  | .park e => some ⟨false, 29, 4, e⟩
  | .nop e => some ⟨false, 29, 5, e⟩
  | .rlupd e => some ⟨true, 1, 0, e⟩
  | .rltape e => some ⟨true, 1, 1, e⟩
  | .rlrev e => some ⟨true, 1, 2, e⟩
  | .rlstat e => some ⟨true, 1, 3, e⟩
  | .rlver e => some ⟨true, 1, 4, e⟩
  | .rlsw e => some ⟨true, 1, 5, e⟩
  | .rlwr e => some ⟨true, 1, 6, e⟩
  | .rlrd e => some ⟨true, 1, 7, e⟩
  | .rdreg e => some ⟨true, 2, 0, e⟩
  | .rdget e => some ⟨true, 2, 1, e⟩
  | .rdcmp e => some ⟨true, 2, 2, e⟩
  | .actOpn e => some ⟨true, 3, 0, e⟩
  | .actCp e => some ⟨true, 3, 1, e⟩
  | .actCmt e => some ⟨true, 3, 2, e⟩
  | .actAbn e => some ⟨true, 3, 3, e⟩
  | .actRet e => some ⟨true, 3, 4, e⟩
  | .actRty e => some ⟨true, 3, 5, e⟩
  | .actSkp e => some ⟨true, 3, 6, e⟩
  | .actSt e => some ⟨true, 3, 7, e⟩
  | .launch e => some ⟨true, 4, 0, e⟩
  | .ckpt e => some ⟨true, 4, 1, e⟩
  | .cpqz e => some ⟨true, 4, 2, e⟩
  | .bmem e => some ⟨true, 4, 3, e⟩
  | .lkcfg e => some ⟨true, 4, 4, e⟩
  | .mstat e => some ⟨true, 4, 5, e⟩
  | .preq e => some ⟨true, 4, 6, e⟩
  | .twcfg e => some ⟨true, 4, 7, e⟩
  | .div e => some ⟨true, 5, 0, e⟩
  | .divu e => some ⟨true, 5, 1, e⟩
  | .rem e => some ⟨true, 5, 2, e⟩
  | .remu e => some ⟨true, 5, 3, e⟩
  | .repReissue => none
  | .copy _ _ _ => none
  | .networkSend _ _ => none
  | .fill _ _ _ => none
  | .copyAssemblyDiscard _ _ => none
  | .copyStart _ => none
  | .copyLanding _ _ _ => none
  | .copyCompletion _ _ => none
  | .mailboxDeferredPost _ => none
  | .messageArrival _ => none
  | .messageReturn _ => none
  | .messageAcceptNotice _ => none
  | .linkWordArrival _ => none
  | .heartbeat _ => none
  | .heartbeatWindowEnd _ => none
  | .globalRequestArrival _ => none
  | .translationWalk _ => none
  | .globalResponse _ => none
  | .xlatInv _ => none
  | .xlatInvDone _ => none
  | .windowCacheFill _ _ _ => none
  | .trapMessageHop _ => none
  | .collectorPost _ _ => none
  | .matrixCommandStart _ => none
  | .matrixCommandComplete _ _ => none
  | .reuUpdate _ _ => none
  | .ruleUpdateCompletion _ => none
  | .ruleInvalidOp _ => none
  | .rltapeCompletion _ => none
  | .rlrevCompletion _ => none
  | .rdregCompletion _ => none
  | .rdcmpEnd _ => none
  | .allReduce _ => none
  | .allGather _ => none
  | .reduceScatter _ => none
  | .collectiveCompletion _ => none
  | .barrierRelease _ => none
  | .checkpointTimer _ => none
  | .checkpointPageCopy _ _ => none
  | .checkpointComplete _ => none
  | .compensationStart _ _ => none
  | .inboxRecordIntake _ => none
  | .windowTableRead _ _ => none
  | .ageingStep _ _ => none
  | .launchStart _ => none
  | .groupStart _ => none
  | .launchComplete _ _ => none
  | .sliceExpiry _ => none
  | .longWaitExpiry _ => none
  | .swapResume _ => none
  | .preemptEntry _ => none
  | .lateFaultEntry _ => none
  | .divergeEntry _ => none
  | .resumeMessage _ => none
  | .msbSave _ => none
  | .msbRestore _ => none
  | .l2pRemap _ _ _ => none
  | .pairedOpArrival _ => none
  | .pairedOpTimeout _ => none
  | .clusterScrub _ => none
  | .clusterClkoff _ => none
  | .serviceControllerTick => none
  | .borderMoveGrant _ => none
  | .evidenceRequest _ => none
  | .firmwareActivate => none
  | .functionLevelReset _ => none
  | .packetRetransmit _ => none
  | .packetAck _ => none
  | .sahdanCrcReplay _ => none
  | .clockStep _ _ => none
  | .clockRelockDone _ => none
  | .powerSample _ => none
  | .thermalStepdown _ _ => none
  | .thermalTrip _ _ => none
  | .coldReset => none
  | .warmReset => none
  | .hbmScrubChunk _ => none
  | .resultDelivery _ _ => none
  | .lossOfPower => none
  | .securedSessionOpen _ => none
  | .securedSessionClose _ => none
  | .keyDelivery _ _ _ _ => none
  | .partRlsWrite _ _ => none
  | .clusterGate _ => none
  | .rangeZeroing _ => none

/-- The number of parcels of an instruction with these fields. -/
def Fields.parcels (e : Fields) : Nat :=
  e.page.toNat + e.mod.isSome.toNat + e.reg.isSome.toNat + e.imms.length + 1

/-- The IMM chain and an own field of `w` bits as one number (R29). -/
def Fields.chain (e : Fields) (own w : Nat) : Nat :=
  e.imms.foldl (fun a p => a * 512 + p.toNat) 0 * 2 ^ w + own

/-- A number of `w` bits as a word, sign-extended if wanted (R29). -/
def extendNat (signed : Bool) (n w : Nat) : Word :=
  if signed && 0 < w && 2 ^ (w - 1) ≤ n then BitVec.ofInt 64 ((n : Int) - (2 ^ w : Nat)) else BitVec.ofNat 64 n

/-- The value and width of an own field (R41). -/
def Own.value (k : Own) (min : Nat) (e : Fields) : Nat × Nat :=
  match k with
  | .none => (0, 0)
  | .y4 => (e.y.toNat, 4)
  | .br => (min * 256 + e.x.toNat * 16 + e.y.toNat, 11)
  | .bz => (min * 16 + e.y.toNat, 7)

/-- The immediate of an instruction (R29, R41). -/
def immOf (s : Shape) (min : Nat) (e : Fields) : Word :=
  let (own, w) := s.own.value min e
  extendNat s.signed (e.chain own w) (9 * e.imms.length + w)

/-- A name through the base map of its position (R35). -/
def baseName (v : Bool) (f : BitVec 4) : Nat :=
  if 12 ≤ f.toNat then 36 + f.toNat else if v then 32 + f.toNat else f.toNat

/-- A field as a name (R30, R35) or an own number. -/
def fieldName (u : Use) (v : Bool) (reg : Option (BitVec 2)) (f : BitVec 4) : Nat :=
  match u with
  | .none => f.toNat
  | .own => f.toNat
  | _ =>
    match reg with
    | some h => h.toNat * 16 + f.toNat
    | none => baseName v f

/-- X's use once Y[2] (KMOV, JMSK) and Z are considered: a present destination Z makes X a pure source. -/
def Shape.xUse (s : Shape) (e : Fields) : Use :=
  if s.wbit && e.y.getLsbD 2 then .src
  else match s.x, s.z, e.reg with
    | .both, .dst, some r => if r.zp then .src else .both
    | u, _, _ => u

/-- Y's use: VMXQ's Y is unused when Z is present (R204). -/
def Shape.yUse (s : Shape) (e : Fields) : Use :=
  match s.y, e.reg with
  | .dst, some r => if r.zp then .none else .dst
  | u, _ => u

/-- The Z operand is present. -/
def Fields.zp (e : Fields) : Bool :=
  match e.reg with
  | some r => r.zp
  | none => false

/-- The MOD fields, all zero without a MOD parcel (R32). -/
def Fields.modf (e : Fields) : ModFields :=
  match e.mod with
  | some m => m
  | none => { t := 0, rm := 0, s := false, f := false, o := 0 }

/-- The operands of an instruction as its entry reads them. -/
def Shape.opnds (s : Shape) (min : Nat) (e : Fields) : Opnds :=
  { x := fieldName (s.xUse e) s.xv (e.reg.map (·.xh)) e.x
    y := fieldName (s.yUse e) s.yv (e.reg.map (·.yh)) e.y
    z := match e.reg with
      | some r => if r.zp then baseName s.zv r.z else 0
      | none => 0
    zp := e.zp
    yh := match e.reg with
      | some r => r.yh.toNat
      | none => 0
    imm := immOf s min e
    t := e.modf.t.toNat
    rm := e.modf.rm.toNat
    s := e.modf.s
    f := e.modf.f
    o := e.modf.o.toNat
    len := 2 * e.parcels }

/-- A name may be read (R34). -/
def readable (n : Nat) : Bool := n ≤ 51 || n == 53 || (55 ≤ n && n ≤ 57)

/-- A name may be written as the destination of a result of the position's class (R34, R36). -/
def writable (v : Bool) (n : Nat) : Bool :=
  n == 0 || (if v then isVecName n else n ≤ 31) || n == 52 || n == 54 || (56 ≤ n && n ≤ 58)

/-- A name is broken in the use that the entry makes of it: subcause 7. -/
def nameBad (u : Use) (v : Bool) (n : Nat) : Bool :=
  match u with
  | .none => false
  | .own => false
  | .src => !readable n
  | .dst => !writable v n
  | .both => !(readable n && writable v n)

/-- A use that reads an operand. -/
def Use.reads : Use → Bool
  | .src => true
  | .both => true
  | _ => false

/-- A use that names an operand. -/
def Use.names : Use → Bool
  | .none => false
  | .own => false
  | _ => true

/-- The names that an instruction reads, in the order X, Y, Z (R37). -/
def Shape.sources (s : Shape) (min : Nat) (e : Fields) : List Nat :=
  let o := s.opnds min e
  (if (s.xUse e).reads then [o.x] else []) ++ (if (s.yUse e).reads then [o.y] else [])
    ++ (if e.zp && s.z == .src then [o.z] else [])

/-- All names that an instruction uses. -/
def Shape.names (s : Shape) (min : Nat) (e : Fields) : List Nat :=
  let o := s.opnds min e
  (if (s.xUse e).names then [o.x] else []) ++ (if (s.yUse e).names then [o.y] else [])
    ++ (if e.zp && s.z != .none then [o.z] else [])

/-- The name that an instruction writes, if any (R99). -/
def Shape.target (sh : Shape) (e : Fields) (o : Opnds) : Option Nat :=
  if e.zp && (sh.z == .dst || sh.z == .req) then some o.z
  else match sh.xUse e with
    | .dst => some o.x
    | .both => some o.x
    | _ => match sh.yUse e with
      | .dst => some o.y
      | _ => none

/-- Subcause 5 (R42): IMM, Z, XH or YH where it is not accepted, Z without ZP, a missing IMM. -/
def Shape.sub5 (s : Shape) (e : Fields) : Bool :=
  (match e.reg with
    | none => s.z == .req
    | some r =>
      (r.zp && s.z == .none) || (!r.zp && (r.z != 0 || s.z == .req))
        || (r.xh != 0 && !(s.xUse e).names) || (r.yh != 0 && !((s.yUse e).names || s.yh)))
    || (s.imm == .none && !e.imms.isEmpty) || (s.imm == .req && e.imms.isEmpty)

/-- Subcause 6 (R42): a MOD field that the instruction does not use, a reserved scope, a type that the
entry does not accept, F without a link among the sources (R151). -/
def Shape.sub6 (s : Shape) (min : Nat) (e : Fields) : Bool :=
  let m := e.modf
  let srcs := s.sources min e
  (match s.types with
    | some ts => !(ts.contains m.t.toNat)
    | none => if s.scope then decide (5 ≤ m.t.toNat) else m.t != 0)
    || (m.rm != 0 && !s.rm) || (m.s && !s.s) || (m.o != 0 && !s.o)
    || (m.f && (s.nof || !(srcs.contains 56 || srcs.contains 57)))

/-- Subcause 7 (R42): a reserved name, a queue head in the wrong direction, a cross-class destination. -/
def Shape.sub7 (s : Shape) (min : Nat) (e : Fields) : Bool :=
  let o := s.opnds min e
  nameBad (s.xUse e) s.xv o.x || nameBad (s.yUse e) s.yv o.y
    || (e.zp && (match s.z with
      | .none => false
      | .src => nameBad .src s.zv o.z
      | _ => nameBad .dst s.zv o.z))

/-- Subcause 8 (R42): a field that the instruction does not use is not 0. -/
def Shape.sub8 (s : Shape) (e : Fields) : Bool :=
  (s.xUse e == .none && e.x != 0) || (s.yUse e == .none && e.y != 0)

/-- The subcauses 5 to 8 that apply to an instruction of a form. -/
def Shape.illegal (s : Shape) (min : Nat) (e : Fields) : List Nat :=
  subIf (s.sub5 e) 5 ++ subIf (s.sub6 min e) 6 ++ subIf (s.sub7 min e) 7 ++ subIf (s.sub8 e) 8
    ++ s.extra (s.opnds min e)

/-- Which context decodes: its own limits are those of R38, R181, R244 and R269. -/
inductive Who where
  /-- A control context. -/
  | control
  /-- A helper; with `handler`, one whose resident handler is active. -/
  | helper (handler : Bool)
  deriving DecidableEq, Repr

/-- The instructions that a helper may not execute, by their place (R181, R244, R269). -/
def helperBars (p1 : Bool) (maj min : Nat) (handler : Bool) : Bool :=
  if p1 then maj == 1 || maj == 2 || (maj == 3 && min != 4 && min != 7) || maj == 4
  else (21 ≤ maj && maj ≤ 27) || (maj == 28 && min != 1) || (maj == 20 && 3 ≤ min && min ≤ 6)
    || (maj == 29 && min == 3 && !handler)

/-- The instruction breaks a limit of the context that decodes it: subcause 7. -/
def Code.barred (c : Code) (s : Shape) (w : Who) : Bool :=
  match w with
  | .control => (!c.p1 && c.maj == 28 && c.min == 1) || (c.p1 && c.maj == 3 && c.min == 4)
  | .helper h =>
    helperBars c.p1 c.maj c.min h || (!c.p1 && (c.maj == 14 || c.maj == 15) && c.e.modf.s)
      || (s.names c.min c.e).any (fun n => !(n ≤ 15 || (48 ≤ n && n ≤ 51) || n == 54))

/-- The form of an instruction. -/
def Instr.shape (i : Instr) : Option Shape :=
  match i.code with
  | none => none
  | some c => (rowAt c.p1 c.maj c.min).map (·.shape)

/-- The operands of an instruction. -/
def Instr.opnds (i : Instr) : Opnds :=
  match i.code with
  | none => Shape.bare.opnds 0 { page := false, mod := none, reg := none, imms := [], x := 0, y := 0 }
  | some c =>
    match rowAt c.p1 c.maj c.min with
    | none => Shape.bare.opnds c.min c.e
    | some r => r.shape.opnds c.min c.e

/-- The subcauses that make an instruction ill-formed whichever context decodes it: 4 for more than four
prefixes, 3 for a page-1 instruction without its page, and those of its form. -/
def Instr.subcauses (i : Instr) : List Nat :=
  match i.code with
  | none => []
  | some c =>
    subIf (5 < c.e.parcels) 4 ++ subIf (c.p1 && !c.e.page) 3
      ++ (match rowAt c.p1 c.maj c.min with
        | none => [2]
        | some r => r.shape.illegal c.min c.e)

/-! ### Parcels -/

/-- A parcel is a prefix: MAJ 31 (R28). -/
def isPfx (p : Parcel) : Bool := p.extractLsb' 11 5 == 31#5

/-- The payload of a prefix. -/
def pay (p : Parcel) : BitVec 9 := p.extractLsb' 0 9

/-- The fields of a MOD payload (R32). -/
def modOf (p : BitVec 9) : ModFields :=
  { t := p.extractLsb' 6 3, rm := p.extractLsb' 4 2, s := p.getLsbD 3, f := p.getLsbD 2, o := p.extractLsb' 0 2 }

/-- The fields of a REG payload (R30). -/
def regOf (p : BitVec 9) : RegFields :=
  { xh := p.extractLsb' 7 2, yh := p.extractLsb' 5 2, zp := p.getLsbD 4, z := p.extractLsb' 0 4 }

/-- What the decoder has gathered from the prefixes. -/
structure Gathered where
  /-- PAGE's payload, of the first one met. -/
  page : Option (BitVec 9)
  /-- MOD, of the first one met. -/
  mod : Option ModFields
  /-- REG, of the first one met. -/
  reg : Option RegFields
  /-- The IMM chunks, in memory order. -/
  imms : List (BitVec 9)
  /-- The order or count of R33 is broken. -/
  bad : Bool
  deriving DecidableEq, Repr

/-- Reads the prefixes from the last to the first: each prepends to what follows it. [DEDUCED, log 19] -/
def gather : List Parcel → Gathered
  | [] => { page := none, mod := none, reg := none, imms := [], bad := false }
  | p :: ps =>
    let g := gather ps
    let k : BitVec 2 := p.extractLsb' 9 2
    if k = 0#2 then
      { g with imms := pay p :: g.imms, bad := g.bad || g.page.isSome || g.mod.isSome || g.reg.isSome }
    else if k = 1#2 then
      { g with reg := some (regOf (pay p)), bad := g.bad || g.page.isSome || g.mod.isSome || g.reg.isSome }
    else if k = 2#2 then { g with page := some (pay p), bad := g.bad || g.page.isSome }
    else { g with mod := some (modOf (pay p)), bad := g.bad || g.page.isSome || g.mod.isSome }

/-- The prefixes in front of the first parcel that is none, and what follows. [DEDUCED, log 19] -/
def splitPfx : List Parcel → List Parcel × List Parcel
  | [] => ([], [])
  | p :: ps => if isPfx p then let r := splitPfx ps; (p :: r.1, r.2) else ([], p :: ps)

/-- What the decoder makes of parcels. -/
inductive Decoded where
  /-- The parcels end before a base parcel. -/
  | short
  /-- Illegal; every subcause that applies. -/
  | illegal (subs : List Nat)
  /-- An instruction, of so many parcels. -/
  | ok (i : Instr) (n : Nat)
  deriving DecidableEq, Repr

/-- The subcause that an unassigned place of the opcode map gives (R42). -/
def unassigned (page : Nat) (maj : Nat) : Nat :=
  if maj == 0 || (page == 0 && maj == 30) then 1
  else if 1 < page then 3
  else match (if page == 1 then page1 else page0)[maj]? with
    | none => if page == 1 then 3 else 2
    | some rows => if rows.isEmpty then 3 else 2

/-- Decodes the instruction at the front of the parcels (R25 to R44). With `who`, the limits of that context
apply as well. With a fifth prefix parcel the base parcel behind the prefixes is not looked at: subcauses that it alone would give are not
among those compared. [DEDUCED, log 19] -/
def decodeFor (who : Option Who) (ps : List Parcel) : Decoded :=
  match splitPfx ps with
  | (pfx, rest) =>
    if 4 < pfx.length then .illegal (4 :: subIf (match (gather pfx).page with
      | some p => decide (1 < p.toNat)
      | none => false) 3)
    else match rest with
      | [] => .short
      | base :: _ =>
        let g := gather pfx
        let maj := (base.extractLsb' 11 5).toNat
        let min := (base.extractLsb' 8 3).toNat
        let page := match g.page with
          | some p => p.toNat
          | none => 0
        let e : Fields :=
          { page := g.page.isSome, mod := g.mod, reg := g.reg, imms := g.imms, x := base.extractLsb' 4 4,
            y := base.extractLsb' 0 4 }
        if 1 < page then .illegal (unassigned page maj :: subIf g.bad 4)
        else match rowAt (page == 1) maj min with
          | none => .illegal (unassigned page maj :: subIf g.bad 4)
          | some r =>
            let c : Code := { p1 := page == 1, maj := maj, min := min, e := e }
            let subs := subIf g.bad 4 ++ r.shape.illegal min e
              ++ (match who with
                | none => []
                | some w => subIf (c.barred r.shape w) 7)
            if subs.isEmpty then .ok (r.make e) (pfx.length + 1) else .illegal subs

/-- Decodes without a context's own limits. -/
def decode (ps : List Parcel) : Decoded := decodeFor none ps

/-- The lowest subcause (R42). -/
def lowest (subs : List Nat) : Nat := subs.foldl min 8

/-! ### Encoding -/

/-- A prefix parcel (R28). -/
def pfxParcel (kind : BitVec 2) (p : BitVec 9) : Parcel := 31#5 ++ kind ++ p

/-- The MOD payload. -/
def ModFields.pay (m : ModFields) : BitVec 9 :=
  m.t ++ m.rm ++ BitVec.ofBool m.s ++ BitVec.ofBool m.f ++ m.o

/-- The REG payload. -/
def RegFields.pay (r : RegFields) : BitVec 9 := r.xh ++ r.yh ++ BitVec.ofBool r.zp ++ r.z

/-- The base parcel (R26). -/
def Code.base (c : Code) : Parcel := BitVec.ofNat 5 c.maj ++ BitVec.ofNat 3 c.min ++ c.e.x ++ c.e.y

/-- The prefixes in the order PAGE, MOD, REG, IMM (R33). -/
def Code.pfxs (c : Code) : List Parcel :=
  (if c.e.page then [pfxParcel 2#2 (if c.p1 then 1#9 else 0#9)] else [])
    ++ (match c.e.mod with
      | some m => [pfxParcel 3#2 m.pay]
      | none => [])
    ++ (match c.e.reg with
      | some r => [pfxParcel 1#2 r.pay]
      | none => [])
    ++ c.e.imms.map (pfxParcel 0#2)

/-- The parcels of an instruction, first at the lowest address; none for a step without an encoding. -/
def encode (i : Instr) : List Parcel :=
  match i.code with
  | none => []
  | some c => c.pfxs ++ [c.base]

/-! ### The opcode table's words -/

/-- The parcels of a word of the opcode table in memory order. The table gives a row one parcel (bits 15:0)
or two; of two it numbers the prefix in bits 31:16 and the base parcel in bits 15:0. [DESIGN CHOICE, log 18] -/
def tableParcels (nbits w : Nat) : List Parcel :=
  let lo := BitVec.ofNat 16 w
  let hi := BitVec.ofNat 16 (w / 65536)
  if nbits ≤ 16 then [lo] else if isPfx hi && !isPfx lo then [hi, lo] else [lo, hi]

/-- The instruction that the decoder reads from a word of the opcode table; zero parcels follow it. [DESIGN CHOICE, log 18] -/
def decodeTableWord (nbits w : Nat) : Option Instr :=
  match decode (tableParcels nbits w ++ [0, 0, 0, 0]) with
  | .ok i _ => some i
  | _ => none

end Sys2Proof
end

