-- ==== Sys2Proof/Machine/State.lean ====
section
/-! DEFINITION. The state of the device as plain data: every register, store, queue and flag that the
spec gives it, the reasons a step can stop, and the state right after reset. In a sparse table (`Map`)
an unlisted key reads as the default that its reader names. -/

namespace Sys2Proof.Machine

/-- A table from numbers to values, ascending by key. An unlisted key reads as the table's default. -/
abbrev Map (α : Type) := List (Nat × α)

/-- A byte store: addresses strictly rising, no entry equal to what an unlisted byte reads as (0). -/
abbrev Mem := List Host.Cell

/-- Why a step stops without a next state. -/
inductive Fault where
  /-- Raised by `step` when the device has no power (R386) and the move is not a cold reset: no agent
  acts. Safe: the model stops where the device does nothing. -/
  | unpowered
  deriving DecidableEq, Repr

/-- Why an instruction has no meaning. -/
inductive Refusal where
  /-- Raised by an arm of `exec` whose instruction has no meaning yet. Safe: nothing is claimed of it. -/
  | notModelled (mnemonic : String)
  deriving DecidableEq, Repr

/-- Why a stopped context is stopped (R148, R327, R333, R342, R361, R336). -/
inductive StopWhy where
  /-- The control context of a core that holds no logical number (R342). -/
  | noLogical
  /-- The core has no group to run (R284, R313). -/
  | idle
  /-- A trap or asynchronous entry waits for the active handler to end (R327). -/
  | entryPending
  /-- PARK (R288). -/
  | parked
  /-- TRAP at S level (R288). -/
  | soft
  /-- A reserved code (R168). -/
  | reserved
  /-- A double trap (R327). -/
  | double
  /-- An uncorrectable error read by the core (R361). -/
  | poisoned
  /-- A helper stopped by a save (R336). -/
  | saved
  /-- Ended by a resume message while what its EXIT waits for is still under way (R284, R333). -/
  | ending
  deriving DecidableEq, Repr

/-- The issue state of a context (R148). -/
inductive Run where
  /-- Helpers only: not started. -/
  | free
  /-- May issue. -/
  | ready
  /-- Waits at its instruction, which has had no effect. -/
  | waiting
  /-- Stopped. -/
  | stopped (why : StopWhy)
  deriving DecidableEq, Repr

/-- One entry of the distance window (R144, R145). -/
structure WinEntry where
  /-- VAL: a result has entered. -/
  val : Bool
  /-- VEC: a 64-byte vector result. -/
  vec : Bool
  /-- The number of the result that is still pending here (R146); none when the value has arrived. -/
  pend : Option Nat
  /-- The 64 bytes; a scalar stands in bits 63:0. -/
  bits : VWord
  deriving DecidableEq, Repr

/-- An entry of a window that no result has entered (R145). -/
def WinEntry.empty : WinEntry := { val := false, vec := false, pend := none, bits := 0 }

/-- The distance window d1 to d4 (R144). -/
structure Window where
  /-- The newest result. -/
  d1 : WinEntry
  /-- The second newest. -/
  d2 : WinEntry
  /-- The third newest. -/
  d3 : WinEntry
  /-- The oldest. -/
  d4 : WinEntry
  deriving DecidableEq, Repr

/-- A window that no result has entered. [DESIGN CHOICE, log 1] -/
def Window.empty : Window :=
  { d1 := WinEntry.empty, d2 := WinEntry.empty, d3 := WinEntry.empty, d4 := WinEntry.empty }

/-- The REP state (R160): the repeated instruction's parcels, the count, the marks, the next reissue. -/
structure Rep where
  /-- Parcels of the repeated instruction; none when no repetition is under way. -/
  parcels : List Parcel
  /-- Reissues in all, 1 to 16. -/
  count : Nat
  /-- Index of the next reissue. -/
  next : Nat
  /-- Stagger X. -/
  sx : Bool
  /-- Stagger Y. -/
  sy : Bool
  /-- Stagger Z. -/
  sz : Bool
  /-- Stagger the memory offset. -/
  so : Bool
  deriving DecidableEq, Repr

/-- No repetition under way. [DESIGN CHOICE, log 1] -/
def Rep.none : Rep :=
  { parcels := [], count := 0, next := 0, sx := false, sy := false, sz := false, so := false }

/-- One entry of the dispatch ring (R329), with what a replay needs (R330). -/
structure RingEntry where
  /-- V: entry in use. -/
  v : Bool
  /-- MAT: a matrix push. -/
  mat : Bool
  /-- ST: 0 in flight, 1 retired, 2 faulted. -/
  st : Nat
  /-- WPOS at issue: 7 without a result. -/
  wpos : Nat
  /-- PC of the first parcel, 57 bits. -/
  pc : BitVec 57
  /-- The number of the pending result (R146). -/
  id : Option Nat
  /-- Order of issue, for the lowest in dispatch order (R330). -/
  ord : Nat
  /-- Class, subcause and info of the fault (R321). -/
  cls : Nat
  /-- Subcause. -/
  sub : Nat
  /-- TRAP.INFO. -/
  info : Word
  /-- Registers (name codes) that the access reads: protected while it has not passed R100 (R330). -/
  srcs : List Nat
  /-- The access names a window source (R330). -/
  win : Bool
  /-- The window as it stood before the access shifted it, for the replay (R330). -/
  old : Window
  /-- The REP state with which the access was issued: its stagger (R159, R330). -/
  rep : Rep
  /-- The fault has been reported by an entry to the handler (R330). -/
  told : Bool
  /-- The active handler issued the access (R327). -/
  hand : Bool
  deriving DecidableEq, Repr

/-- An unused ring entry (R329: every field 0, WPOS 7). -/
def RingEntry.empty : RingEntry :=
  { v := false, mat := false, st := 0, wpos := 7, pc := 0, id := none, ord := 0, cls := 0, sub := 0,
    info := 0, srcs := [], win := false, old := Window.empty, rep := Rep.none, told := false,
    hand := false }

/-- A result that has been issued and not yet delivered (R146, R180). -/
structure Delivery where
  /-- Its number. -/
  id : Nat
  /-- The context. -/
  ctx : Nat
  /-- The destination register's name code, if a register is written. -/
  dest : Option Nat
  /-- A vector result. -/
  vec : Bool
  /-- The value; none for an access that faulted late. -/
  value : Option VWord
  /-- Its dispatch-ring index. -/
  ring : Option Nat
  deriving DecidableEq, Repr

/-- What a context holds (R143). -/
structure Context where
  /-- Issue state (R148). -/
  run : Run
  /-- The PC: address of the first parcel of the next instruction. -/
  pc : Word
  /-- CTX.TSW (R325). -/
  tsw : Word
  /-- s1 to s31 (s1 to s15 in a helper). -/
  s : Map Word
  /-- v0 to v15. -/
  v : Map VWord
  /-- k1 to k3; k0 is all ones. -/
  k : Map Word
  /-- j0 to j3. -/
  j : Map (BitVec 8)
  /-- LS0 to LS3. -/
  ls : Map Word
  /-- LE0 to LE3. -/
  le : Map Word
  /-- LC0 to LC3. -/
  lc : Map Word
  /-- The distance window. -/
  win : Window
  /-- REP state. -/
  rep : Rep
  /-- Stochastic-rounding generator G (R175). -/
  gen : Word
  /-- A helper's end word (R275). -/
  endWord : Word
  /-- The sequence number of the compensation entry a helper runs (R292). -/
  comp : Option Nat
  deriving DecidableEq, Repr

/-- The seed that stands for 0 (R175). [DEDUCED, log 2] -/
def seedZero : Word := 0x9E3779B97F4A7C15

/-- A context with every field 0 in the given issue state at the given level. [DESIGN CHOICE, log 1; DEDUCED, log 2] -/
def Context.blank (r : Run) (lvl : Nat) : Context :=
  { run := r, pc := 0, tsw := BitVec.ofNat 64 lvl, s := [], v := [], k := [], j := [], ls := [], le := [],
    lc := [], win := Window.empty, rep := Rep.none, gen := seedZero, endWord := 0, comp := none }

/-- The shadow of the trapped context (R326, R328). -/
structure Shadow where
  /-- Window and tags. -/
  win : Window
  /-- REP state. -/
  rep : Rep
  /-- CTX.TSW. -/
  tsw : Word
  /-- Generator G. -/
  gen : Word
  deriving DecidableEq, Repr

/-- An empty shadow. [DESIGN CHOICE, log 3] -/
def Shadow.empty : Shadow := { win := Window.empty, rep := Rep.none, tsw := 0, gen := seedZero }

/-- An entry to the resident handler: what the trap registers will hold (R321, R323). -/
structure Entry where
  /-- The context. -/
  ctx : Nat
  /-- Class. -/
  cls : Nat
  /-- Subcause. -/
  sub : Nat
  /-- TRAP.INFO. -/
  info : Word
  /-- TRAP.EPC. -/
  epc : Word
  /-- Dispatch-ring index of a late fault. -/
  seq : Nat
  deriving DecidableEq, Repr

/-- One mailbox entry (R119, R120). -/
structure MailEntry where
  /-- STATUS. -/
  status : Nat
  /-- CLASS. -/
  cls : Nat
  /-- SRC. -/
  src : BitVec 32
  /-- LEN, content bytes. -/
  len : Nat
  /-- NEXT, the next word of a scalar pop. -/
  next : Nat
  /-- The content. -/
  body : VWord
  deriving DecidableEq, Repr

/-- A copy request (R71), with what it carries beside its words. -/
structure CopyReq where
  /-- w0. -/
  w0 : Word
  /-- w1. -/
  w1 : Word
  /-- w2. -/
  w2 : Word
  /-- w3. -/
  w3 : Word
  /-- CORE.CID at the push (R58). -/
  cid : BitVec 12
  /-- The level at the push (R91). -/
  lvl : Nat
  /-- Issue number on its core (R281). -/
  no : Nat
  /-- Its number as a paired operation, which must match before a byte of it lands (R365). -/
  pair : Option Nat
  /-- Matched before a rollback, or discarded: it lands nothing (R366). -/
  drop : Bool
  deriving DecidableEq, Repr

/-- A record that a context is assembling word by word (R70). -/
structure Asm where
  /-- The assembling context. -/
  ctx : Nat
  /-- The words pushed so far. -/
  words : List Word
  /-- Instructions issued by the context since its last push. -/
  since : Nat
  deriving DecidableEq, Repr

/-- A matrix command in a core's queue (R242). -/
structure MatCmd where
  /-- w0 with KIND. -/
  w0 : Word
  /-- w1, the address. -/
  w1 : Word
  /-- w2, version and tag. -/
  w2 : Word
  /-- w3. -/
  w3 : Word
  /-- The 64 bytes that the instruction form of MCFG carries (R252). -/
  fmt : Option VWord
  /-- CORE.CID at the push. -/
  cid : BitVec 12
  /-- A status that the command has before it starts: 3 refused by R223, 4 bytes 32 to 63 not zero; 0 none. -/
  fail : Nat
  /-- The cluster-memory operand bytes settled so far, as first byte and length (R223). -/
  range : Option (List (Nat × Nat))
  /-- Dispatch-ring index of the push. -/
  ring : Nat
  /-- Issue number on its core. -/
  no : Nat
  /-- Its number as a paired operation, which must match before a byte of it is written (R365). -/
  pair : Option Nat
  /-- Matched before a rollback, or discarded: it writes nothing (R366). -/
  drop : Bool
  deriving DecidableEq, Repr

/-- One line of an undo log (R94): the line and what it held at the start of the interval. -/
structure LogLine where
  /-- Line index. -/
  line : Nat
  /-- The plaintext, under the core's key, of the 64 bytes of ciphertext that the log line holds. -/
  old : VWord
  deriving DecidableEq, Repr

/-- The group a core runs (R312, R313). -/
structure GroupRun where
  /-- Serial number of its launch. -/
  launch : Nat
  /-- Group index, s31. -/
  index : Nat
  /-- Cycles run since the group start or the last resumption (R315). -/
  ran : Nat
  /-- TRIG has been executed (R283). -/
  trig : Bool
  /-- A release of a partition-, die- or device-level channel has passed (R363). -/
  passed : Bool
  /-- The group is to be replayed from ENTRY, once its whole unit stands on one site (R363). -/
  replay : Bool
  deriving DecidableEq, Repr

/-- A decoded instruction in a gang member's issue queue (R153). -/
structure QItem where
  /-- Its PC. -/
  pc : Word
  /-- Its parcels. -/
  parcels : List Parcel
  deriving DecidableEq, Repr

/-- A register snapshot for paired rollback (R366). -/
structure Snapshot where
  /-- Control context. -/
  ctl : Context
  /-- Byte barriers: target, then pending. -/
  bb : Map (Word × Word)
  /-- The members that the core is fused with. -/
  memb : BitVec 8
  /-- Its issue queue as a member of a gang. -/
  queue : List QItem
  /-- Results that a vector access which has faulted still owes, and its ring entries: what has been delivered or is certain to be stands in the
  context already. -/
  due : List Delivery
  /-- The dispatch-ring entries of its vector accesses that have faulted. -/
  ring : Map RingEntry
  deriving DecidableEq, Repr

/-- A group swapped out of its core (R315, R316), with what the core holds for its saved context (R322, R337, R340). -/
structure Swapped where
  /-- The group. -/
  group : GroupRun
  /-- The serial number of the launch whose share runs in its place. -/
  by' : Nat
  /-- CORE.MSB OP 1 has saved its context. -/
  saved : Bool
  /-- The base of its save area. -/
  base : Nat
  /-- Its pending DIVERGE entries, oldest first. -/
  diverge : List (Nat × Nat × BitVec 32)
  /-- The requests that CPQZ returned to it. -/
  returned : List CopyReq
  /-- The paired core's PPID (R364). -/
  twin : Option Nat
  /-- Number of its next paired operation. -/
  pairNo : Nat
  /-- Its matched paired operations. -/
  matched : Map (Option Word)
  /-- Its snapshot. -/
  snap : Option Snapshot
  /-- Its superstep is being repeated. -/
  repeating : Bool
  /-- What its interrupted instruction had sent already as a paired operation. -/
  again : Option (Word × Option Nat × Option (Nat × VWord))
  deriving DecidableEq, Repr

/-- A member of a gang as the device remembers it: its logical core, and its group by launch and index (R155). -/
structure Mate where
  /-- The logical core. -/
  lpid : Nat
  /-- Its group. -/
  grp : Option (Nat × Nat)
  deriving DecidableEq, Repr

/-- The gang that a restored member is to come together with (R155). -/
structure OldGang where
  /-- The MEMB that it was saved with. -/
  memb : BitVec 8
  /-- How many members are to come together. -/
  size : Nat
  /-- The members as the image names them. -/
  mates : List Mate
  deriving DecidableEq, Repr

/-- Where a fused member stood when it was saved (R155). -/
structure Stood where
  /-- Its PC. -/
  pc : Word
  /-- It waited at a parting. -/
  hold : Bool
  /-- Its branch outcome there. -/
  outcome : Option Bool
  deriving DecidableEq, Repr

/-- What the device knows of a context that CORE.MSB OP 1 has saved, beside the bytes of its area (R322, R337, R155). -/
structure SaveImage where
  /-- Its number. -/
  no : Nat
  /-- The core that saved it. -/
  core : Nat
  /-- Its partition; 16 for a core that no partition holds. -/
  part : Nat
  /-- What OP 1 wrote of the context, piece by piece: an OP 2 restores this context where its area holds the same. -/
  words : List Nat
  /-- Its pending DIVERGE entries, oldest first. -/
  diverge : List (Nat × Nat × BitVec 32)
  /-- The issue queue of a fused gang member. -/
  queue : List QItem
  /-- The save area and the spill buffer as OP 1 has left them, what the handler had written among them: the bytes that are not zero, by offset. -/
  area : Mem
  /-- An OP 2 has restored the context since: this is no longer where it stands. -/
  used : Bool
  /-- The members of its gang, of a fused one. -/
  gang : List Mate
  /-- Where a fused member stood. -/
  stood : Option Stood
  deriving DecidableEq, Repr

/-- One physical core: its contexts, registers and network interface. -/
structure Core where
  /-- The control context. -/
  ctl : Context
  /-- h1 to h10. -/
  helpers : Map Context
  /-- Context that the round robin considers first (R148). -/
  rr : Nat
  /-- CORE.LPID: the logical number, none when NONE = 1 (R311). -/
  lpid : Option Nat
  /-- CORE.CID (R58). -/
  cid : BitVec 12
  /-- CORE.MSB (R336). -/
  msb : Word
  /-- CORE.TWT (R299). -/
  twt : BitVec 40
  /-- CORE.LNK: EEN, WEN (R297). -/
  lnk : BitVec 2
  /-- CORE.HVEC (R324). -/
  hvec : Word
  /-- TRAP.EPC (R323). -/
  epc : Word
  /-- TRAP.CAUSE. -/
  cause : Word
  /-- TRAP.INFO. -/
  info : Word
  /-- TRAP.CTX. -/
  tctx : Word
  /-- Shadow registers (R328). -/
  shadow : Shadow
  /-- The context whose handler is active (R327). -/
  handler : Option Nat
  /-- Entries that wait for the active handler (R327). -/
  entries : List Entry
  /-- Pending pre-emption: its subcause (R298, R321). -/
  preempt : Option Nat
  /-- Pending DIVERGE entries, oldest first: context, subcause and TAG (R322). -/
  diverge : List (Nat × Nat × BitVec 32)
  /-- Dispatch ring of the control context (R329). -/
  ring : Map RingEntry
  /-- Next ring index in rotation. -/
  ringNext : Nat
  /-- The faulted entry that is replayed before the next issue (R330). -/
  replay : Option Nat
  /-- Results not yet delivered. -/
  due : List Delivery
  /-- Number of the next pending result, and of dispatch order. -/
  nextId : Nat
  /-- Byte barriers: target, pending (R83). -/
  bb : Map (Word × Word)
  /-- Local memory, plaintext (R87, R88). -/
  mem : Mem
  /-- Mailbox, oldest first (R119). -/
  mbox : List MailEntry
  /-- Content lengths for which mailbox room is reserved (R119, R122). -/
  resv : List Nat
  /-- Messages sent and not yet settled (R122). -/
  sent : Nat
  /-- Copy command FIFO, oldest first (R69). -/
  fifo : List CopyReq
  /-- Requests that CPQZ returned and that have not been reissued (R340). -/
  returned : List CopyReq
  /-- CPQZ is waiting: the engine starts none of the core's requests (R85). -/
  quiesce : Bool
  /-- CORE.MSB OP 1 has saved the context, and neither OP 2 nor a group start has followed (R337). -/
  saved : Bool
  /-- Record being assembled on qcopy. -/
  asmC : Option Asm
  /-- Record being assembled on qmat. -/
  asmM : Option Asm
  /-- Record being assembled on qrule. -/
  asmR : Option Asm
  /-- Matrix command queue, oldest first (R221). -/
  mq : List MatCmd
  /-- Completion queue, oldest first (R222). -/
  cq : List Word
  /-- qwest FIFO of this core, oldest first (R12). -/
  west : List Word
  /-- qeast FIFO of this core. -/
  east : List Word
  /-- Undo log: lines logged in this interval, oldest first (R94). -/
  ulog : List LogLine
  /-- What earlier intervals left in the log lines, by place: shown past the lines of this interval (R94). -/
  ulogPast : List LogLine
  /-- CORE.ULOG.OVF. -/
  ovf : Bool
  /-- CORE.ULOG.EN. -/
  ulogEn : Bool
  /-- Issue number of the next operation (R281). -/
  opNo : Nat
  /-- Cycle count of the last heartbeat (R362). -/
  hbCyc : Word
  /-- TIME at the last heartbeat. -/
  hbTime : Word
  /-- A heartbeat has come in the present window. -/
  hbSeen : Bool
  /-- Consecutive windows without a heartbeat. -/
  hbMiss : Nat
  /-- CYC at the start of the present window of 4,096 cycles. -/
  hbWin : Word
  /-- Poisoned (R361). -/
  poisoned : Bool
  /-- Its mailbox held a message entry at the poisoning (R363). -/
  poisonMail : Bool
  /-- Declared dead (R362). -/
  dead : Bool
  /-- The PC of the matrix push that stopped the control context with a reserved code (R246, R333). -/
  stopPc : Option Word
  /-- CTX.GANG.MEMB (R154). -/
  memb : BitVec 8
  /-- CTX.GANG.ORIG. -/
  orig : BitVec 8
  /-- Issue queue of a gang member (R153). -/
  queue : List QItem
  /-- The member has issued a conditional branch, JALR or RET and waits for the gang (R155). -/
  hold : Bool
  /-- What the conditional branch it waits at decided: taken or not; none at a JALR or RET (R155). -/
  outcome : Option Bool
  /-- The gang that the context was saved in as a fused member, from OP 2 on until it is together again (R155). -/
  regang : Option OldGang
  /-- Where the restored member stood when it was saved (R155). -/
  stood : Option Stood
  /-- Where a pre-emption has interrupted a member whose queue stands: its PC (R155). -/
  gpos : Option Word
  /-- The control context waits at a FUSE (true) or REJOIN (false), with its mask, its PC and the address of the
  next instruction (R156, R276). -/
  meet : Option (Bool × BitVec 8 × Word × Word)
  /-- The queue head that the X of the FUSE it waits at names, popped when the FUSE executes, and its MOD F (R37). -/
  meetHead : Option (Nat × Bool)
  /-- Positions of logical cores that have EXITed while the context waits at its REJOIN: they count as arrived (R284). -/
  left : BitVec 8
  /-- The group that runs. -/
  group : Option GroupRun
  /-- The logical core has EXITed and has not started a group since (R156). -/
  exited : Bool
  /-- The launch whose group it ran last has no further group for it (R282). -/
  noMore : Bool
  /-- Groups swapped out, newest first. -/
  swaps : List Swapped
  /-- The distributor has asked for the group to be swapped: its resident handler saves it and parks. -/
  swapping : Bool
  /-- It was asked because the group's slice has expired, for a launch of a higher level (R315); else because of a long wait. -/
  swapHigh : Bool
  /-- The control context waits at an instruction that counts toward the long-wait threshold (R316). -/
  counted : Bool
  /-- Cycles the present counted wait has lasted (R316). -/
  waited : Nat
  /-- A wait that found no share to swap to is not counted again (R316). -/
  noCount : Bool
  /-- The paired core's PPID, for a twin of a paired launch (R364). -/
  twin : Option Nat
  /-- Number of the next paired operation (R365). -/
  pairNo : Nat
  /-- Paired operations matched since the log restarted, with an atomic's old value (R365, R366). -/
  matched : Map (Option Word)
  /-- Snapshot at the last restart of the log (R366). -/
  snap : Option Snapshot
  /-- The superstep is being repeated (R366). -/
  repeating : Bool
  /-- An SWR to XLAT.INV is under way (R64): its value, and whether it has been sent (0), the stations have been told
  (1), or it is complete (2). -/
  xlat : Option (Word × Nat)
  /-- XLAT.INV: the last value written. -/
  xlatInv : Word
  /-- A global access in flight: its number (R57). -/
  flight : Option Nat
  /-- The answer to the access in flight, not yet used: 0 and the value, or its fault and the context ID for which it was translated. -/
  answer : Option (Nat × VWord)
  /-- What a twin's instruction that an entry to the handler has interrupted had sent already as a paired operation: its PC, the number
  of the access and the answer, if it has come. The instruction takes it up again when it is issued again (R148, R365). -/
  again : Option (Word × Option Nat × Option (Nat × VWord))
  /-- The line that a PWLD waits for in the window cache, by context ID and backing address, and whether a fill of it
  has been refused (R93). -/
  wmiss : Option (BitVec 12 × Nat × Bool)
  deriving DecidableEq, Repr

/-- A core after reset: every context without work; the control context is stopped at S level, because
no core holds a logical number yet (R342). [DESIGN CHOICE, log 1, 3] -/
def Core.fresh : Core :=
  { ctl := Context.blank (.stopped .noLogical) 1, helpers := [], rr := 0, lpid := none, cid := 0, msb := 0,
    twt := 0, lnk := 3, hvec := 0, epc := 0, cause := 0, info := 0, tctx := 0, shadow := Shadow.empty,
    handler := none, entries := [], preempt := none, diverge := [], ring := [], ringNext := 0, replay := none, due := [],
    nextId := 0, bb := [], mem := [], mbox := [], resv := [], sent := 0, fifo := [], returned := [], quiesce := false,
    saved := false,
    asmC := none, asmM := none, asmR := none, mq := [], cq := [], west := [], east := [], ulog := [], ulogPast := [],
    ovf := false, ulogEn := true, opNo := 0, hbCyc := 0, hbTime := 0, hbSeen := false, hbMiss := 0, hbWin := 0,
    poisoned := false, poisonMail := false, dead := false, stopPc := none, memb := 0, orig := 0, queue := [], hold := false, outcome := none,
    regang := none, stood := none, gpos := none,
    meet := none, meetHead := none, left := 0, group := none, exited := false, noMore := false, swaps := [], swapping := false, swapHigh := false,
    counted := false, waited := 0, noCount := false, twin := none, pairNo := 1, matched := [],
    snap := none, repeating := false, xlat := none, xlatInv := 0, flight := none, answer := none, again := none,
    wmiss := none }

/-- A helper that has not been started (R148, R275). [DESIGN CHOICE, log 1] -/
def Context.freeHelper : Context := Context.blank .free 0

/-- A matrix bank (R210): its state and the image that MBLD read. -/
structure Bank where
  /-- 1 loading, 2 ready. -/
  state : Nat
  /-- BFMT (R242). -/
  bfmt : Nat
  /-- Kp - 1. -/
  kpm1 : Nat
  /-- Np - 1. -/
  npm1 : Nat
  /-- Version tag. -/
  tag : BitVec 32
  /-- The image (R211), from offset 0. -/
  img : Mem
  deriving DecidableEq, Repr

/-- A matrix command that the MU has started (R224). -/
structure MatRun where
  /-- Index of the core in its site. -/
  cidx : Nat
  /-- The command. -/
  cmd : MatCmd
  /-- The status found at the start (R246); 0 when it runs. -/
  status : Nat
  /-- The format context in force at the start (R221). -/
  fmt : VWord
  /-- Its bank has ended under it (R226): a number that its companions share, and the pods that return when the last of
  them has completed. -/
  ended : Option (Nat × Nat)
  deriving DecidableEq, Repr

/-- One dimension of a walk (R75): elements taken, source step and destination step. -/
structure Dim where
  /-- n[d]. -/
  n : Nat
  /-- s[d] times the source stride. -/
  src : Int
  /-- The destination stride. -/
  dst : Int
  deriving DecidableEq, Repr

/-- The shape of a copy request: a plain length, or element bytes and dimensions, innermost first. -/
inductive Walk where
  /-- G = 0. -/
  | plain (len : Nat)
  /-- G = 1. -/
  | geo (esz : Nat) (ds : List Dim)
  deriving DecidableEq, Repr

/-- A started copy in an engine slot (R69). -/
structure CopySlot where
  /-- Index of the issuing core in its site. -/
  cidx : Nat
  /-- The request. -/
  req : CopyReq
  /-- Its walk, as the geometry record gave it at the start (R72, R75). -/
  walk : Walk
  /-- Units in all: elements of a walk, or aligned pieces of a plain range. -/
  total : Nat
  /-- Units read and not yet landed, with their bytes. -/
  held : Map (List Byte)
  /-- Units landed. -/
  landed : List Nat
  /-- Bytes landed. -/
  bytes : Nat
  /-- Status when the copy has ended or stopped (R79). -/
  status : Option Nat
  /-- Its completion waits for mailbox room (R393). -/
  posted : Bool
  deriving DecidableEq, Repr

/-- A line of the window cache (R93). -/
structure WLine where
  /-- Context ID. -/
  cid : BitVec 12
  /-- Virtual address of the line's first byte. -/
  va : Nat
  /-- The 64 bytes. -/
  bits : VWord
  deriving DecidableEq, Repr

/-- Power state of a cluster (R389). -/
inductive Power where
  /-- Clocked. -/
  | run
  /-- Clock off, state kept. -/
  | clkoff
  /-- Power off, state lost. -/
  | gated
  deriving DecidableEq, Repr

/-- One cluster site: its memory, matrix unit, copy engine and cluster unit. -/
structure Cluster where
  /-- Cluster memory, plaintext, by address (R86, R90). -/
  mem : Mem
  /-- The number of the keys that Markhor last installed for the cluster and its cores (R88, R97). -/
  keyNo : Nat
  /-- The partition that holds the cluster. -/
  part : Option Nat
  /-- The recipient of a border move (R318). -/
  moving : Option Nat
  /-- CLU.CMASK (R319). -/
  cmask : BitVec 9
  /-- CLU.MUW (R224). -/
  muw : BitVec 36
  /-- Banks that are not absent. -/
  banks : Map Bank
  /-- Accumulator tiles: handle to entries (row * 64 + column). -/
  tiles : Map (Map (BitVec 32))
  /-- Format contexts by core index (R213). -/
  fmts : Map VWord
  /-- Free pods. -/
  freePods : Nat
  /-- Queue that the round robin considers next, and commands it has started in this turn (R224). -/
  mrr : Nat × Nat
  /-- Started commands, in arbitration order. -/
  runs : List MatRun
  /-- Engine slots in use. -/
  slots : List CopySlot
  /-- FIFO that the copy engine examines next (R69). -/
  crr : Nat
  /-- Bank pointers of the core round robin (R90). -/
  bankPtr : Map Nat
  /-- Pointer for cluster-scope atomics (R90). -/
  atomPtr : Nat
  /-- Window cache. -/
  wcache : List WLine
  /-- Partition and serial number of the launches that have started a group here and have not completed: they are not new, and
  do not empty the window cache again (R93). -/
  begun : List (Nat × Nat)
  /-- Power state. -/
  power : Power
  /-- Ticks for which the cluster has been idle (R389). -/
  idle : Nat
  deriving DecidableEq, Repr

/-- A cluster after reset: scrubbed, granted to nobody, its nine format contexts zero. [DESIGN CHOICE, log 3, 5] -/
def Cluster.fresh : Cluster :=
  { mem := [], keyNo := 0, part := none, moving := none, cmask := 0, muw := 0x111111111, banks := [],
    tiles := [], fmts := [], freePods := 256, mrr := (0, 0), runs := [], slots := [], crr := 0, bankPtr := [],
    atomPtr := 0, wcache := [], begun := [], power := .run, idle := 0 }

/-- One entry of a Chestnut segment (R350). -/
structure Chest where
  /-- SEQ. -/
  seq : Nat
  /-- Activity ID. -/
  id : Nat
  /-- Partition. -/
  part : Nat
  /-- Argument. -/
  arg : Word
  /-- Routine entry. -/
  pc : BitVec 57
  /-- Region tags. -/
  tags : BitVec 32
  /-- CORE.PPID of the pushing core. -/
  core : Nat
  /-- STATE: 1 held, 2 running, 3 failed. -/
  state : Nat
  /-- Logical number of the pushing core. -/
  lpid : Nat
  /-- The helper that runs it, while STATE is 2. -/
  helper : Nat
  deriving DecidableEq, Repr

/-- A trap message (R331) on its way along a row. -/
structure TrapMsg where
  /-- KIND. -/
  kind : Nat
  /-- SUB. -/
  sub : Nat
  /-- CID. -/
  cid : BitVec 12
  /-- DIE. -/
  die : Nat
  /-- ROW. -/
  row : Nat
  /-- ACC. -/
  acc : Nat
  /-- AGENT. -/
  agent : Nat
  /-- ARG. -/
  arg : BitVec 64
  /-- MAP. -/
  map : BitVec 144
  /-- The column whose router holds it. -/
  col : Nat
  deriving DecidableEq, Repr

/-- One die: clocks, harvest map, Chestnut segment, collectors, supervisors. -/
structure Die where
  /-- CYC (R18). -/
  cyc : Word
  /-- NCYC (R18). -/
  ncyc : Word
  /-- Fraction of NCYC, 16 bits (R385). -/
  frac : BitVec 16
  /-- NCYC increment, 16.16 (R385). -/
  inc : BitVec 17
  /-- CLKREQ.SET (R384). -/
  set : Nat
  /-- A step is relocking. -/
  relock : Bool
  /-- TIME at which it began. -/
  relockAt : Word
  /-- CLKREQ.ERR. -/
  err : Bool
  /-- A setting that waits: written while BUSY, or above the cap (R384, R390). -/
  want : Option Nat
  /-- The setting that the physical function last wrote (R390). -/
  asked : Nat
  /-- Power and thermal cap (R390). -/
  cap : Nat
  /-- Stepping down for temperature (R391). -/
  hot : Bool
  /-- TIME of the last thermal step. -/
  cooled : Word
  /-- DIE.HVC0 to HVC2 as one map of 160 bits (R319). -/
  hvc : BitVec 160
  /-- Where firmware has put the Chestnut segment (R350): its first byte's offset in the die's HBM4E. -/
  chestBase : Nat
  /-- Chestnut segment: its entries that are not free (R350). -/
  chest : List Chest
  /-- Collectors: row to buffered messages, oldest first (R332). -/
  coll : Map (List TrapMsg)
  /-- Supervisor mailboxes: index to entries, oldest first (R14, R332, R392). -/
  sup : Map (List MailEntry)
  deriving DecidableEq, Repr

/-- A die after a cold reset. [DESIGN CHOICE, log 5, 79] -/
def Die.fresh : Die :=
  { cyc := 0, ncyc := 0, frac := 0, inc := 0x10000, set := 10, relock := false, relockAt := 0, err := false, want := none,
    asked := 10, cap := 12, hot := false, cooled := 0, hvc := BitVec.allOnes 160, chestBase := 0x3FFFC00000, chest := [], coll := [], sup := [] }

/-- A cached translation (R63). -/
structure Tlb where
  /-- Context ID. -/
  cid : BitVec 12
  /-- Owning partition. -/
  part : Nat
  /-- First virtual address of the page. -/
  va : Nat
  /-- Page size in bytes. -/
  size : Nat
  /-- First physical address of the page. -/
  pa : Nat
  /-- R. -/
  r : Bool
  /-- W. -/
  w : Bool
  /-- X. -/
  x : Bool
  /-- D. -/
  d : Bool
  deriving DecidableEq, Repr

/-- A digest table entry (R346). -/
structure DigEntry where
  /-- Partition. -/
  part : Nat
  /-- Header VA[56:12]. -/
  page : Nat
  /-- Stored hash. -/
  h : BitVec 128
  /-- The CID under which the block was registered (the model's own field). -/
  cid : BitVec 12
  deriving DecidableEq, Repr

/-- One home slice (R13): translation cache, digest table, sums. -/
structure Slice where
  /-- Translation cache, newest first. -/
  tlb : List Tlb
  /-- Digest table. -/
  dig : List DigEntry
  /-- D_slice by partition. -/
  dsum : Map (BitVec 128)
  deriving DecidableEq, Repr

/-- A slice after reset. -/
def Slice.fresh : Slice := { tlb := [], dig := [], dsum := [] }

/-- A master's row in a target's access table (R67). -/
structure AccessRow where
  /-- Target: 0 to 31 home slices by die and number, 0x1000 + site cluster units, 0x2000 + port, 0x3000 PCIe,
  0x4000 + lane the Sahdan endpoints. -/
  target : Nat
  /-- Master ID: die * 4096 + SITE * 16 + agent. -/
  master : Nat
  /-- Partition 0 to 15, or 16 for FW. -/
  part : Nat
  /-- Read. -/
  r : Bool
  /-- Write. -/
  w : Bool
  /-- Atomic. -/
  a : Bool
  deriving DecidableEq, Repr

/-- A range entry of a home slice or the PCIe controller (R67, R68, R388). -/
structure Range where
  /-- Target, as in `AccessRow`. -/
  target : Nat
  /-- First byte. -/
  base : Nat
  /-- Last byte. -/
  limit : Nat
  /-- Partition 0 to 15, or 16 for FW. -/
  part : Nat
  /-- The only master permitted, for a Chestnut segment (R68). -/
  only : Option Nat
  /-- Being zeroed: refused to every partition until it belongs to this one (R388). -/
  next : Option Nat
  deriving DecidableEq, Repr

/-- A grant table entry (R375). -/
structure Grant where
  /-- FIRST. -/
  first : Nat
  /-- COUNT. -/
  count : Nat
  /-- Kind 0 to 5. -/
  kind : Nat
  /-- BASE. -/
  base : Nat
  deriving DecidableEq, Repr

/-- The groups of one launch that one unit runs (R312). -/
structure Share where
  /-- The unit's logical cores, ascending. -/
  unit : List Nat
  /-- The next group to start. -/
  next : Nat
  /-- One past the last group. -/
  stop : Nat
  deriving DecidableEq, Repr

/-- A launch in a partition's queue (R303, R307). -/
structure Launch where
  /-- Serial number: the order of arrival at the distributor. -/
  serial : Nat
  /-- The record's eight words. -/
  words : List Word
  /-- CID of the agent that queued it (R305). -/
  cid : BitVec 12
  /-- The cluster whose memory a cluster-memory CW names (R306). -/
  cluster : Nat
  /-- Written by the host. -/
  host : Bool
  /-- Held on a predecessor (R309). -/
  held : Bool
  /-- Predecessors found satisfied, by index. -/
  sat : List Nat
  /-- Those of them that have triggered and not yet completed (R309). -/
  early : List Nat
  /-- The window table has been read (R305). -/
  winRead : Bool
  /-- Windows: number to address and size. -/
  wins : Map (Nat × Nat)
  /-- Cycles eligible and not started, since the last ageing step (R308). -/
  elig : Nat
  /-- Ageing steps taken. -/
  aged : Nat
  /-- Started. -/
  started : Bool
  /-- Order among the launches started (R313). -/
  startNo : Nat
  /-- The deal (R312). -/
  shares : List Share
  /-- Paired units: primary to twin, by logical core (R364). -/
  pairs : List (Nat × Nat)
  /-- Groups that have exited. -/
  exits : Nat
  /-- Groups that have triggered or exited (R309). -/
  trigs : Nat
  /-- Cause bits (R314). -/
  cause : BitVec 8
  /-- Verdict so far (R360). -/
  verd : Nat
  /-- Groups replayed. -/
  replay : Nat
  deriving DecidableEq, Repr

/-- A long activity that is not FREE (R289). -/
structure Activity where
  /-- State code 1 to 4. -/
  state : Nat
  /-- FST. -/
  fst : BitVec 16
  deriving DecidableEq, Repr

/-- A set of activities being abandoned together (R291). -/
structure Abandon where
  /-- Issuing core. -/
  core : Nat
  /-- The named IDs. -/
  ids : List Nat
  deriving DecidableEq, Repr

/-- A partition's checkpoint configuration (R294) and progress (R368 to R371). -/
structure Ckpt where
  /-- TICKS. -/
  ticks : Nat
  /-- STEPS. -/
  steps : Nat
  /-- REGION. -/
  region : Word
  /-- RANK. -/
  rank : Nat
  /-- R - 1. -/
  rm1 : Nat
  /-- BUDDY handle. -/
  buddy : BitVec 32
  /-- TIME at the last checkpoint. -/
  last : Word
  /-- Device-domain releases since the last trigger by STEPS. -/
  count : Nat
  /-- A trigger is armed. -/
  armed : Bool
  /-- Triggers dropped. -/
  dropped : Nat
  /-- The half written next. -/
  half : Nat
  /-- Sequence of the next checkpoint. -/
  seq : Nat
  /-- The context ID under which REGION is translated (the model's own field). -/
  cid : BitVec 12
  /-- Blocks still to copy in the checkpoint under way: index, owning slice, content at the release. -/
  todo : Map (Nat × Mem)
  /-- Header VAs of the blocks of the checkpoint under way, in index order. -/
  table : List Nat
  /-- STEP of the checkpoint under way. -/
  step : Nat
  /-- VER active in each owned slot at the release of the last checkpoint (R368). -/
  vers : Map Nat
  /-- Blocks written. -/
  done : Nat
  /-- A checkpoint is being written. -/
  active : Bool
  /-- DEDUP of the checkpoint under way. -/
  dedup : Bool
  /-- Status met so far. -/
  status : Nat
  deriving DecidableEq, Repr

/-- No checkpoints configured. -/
def Ckpt.off : Ckpt :=
  { ticks := 0, steps := 0, region := 0, rank := 0, rm1 := 0, buddy := 0, last := 0, count := 0, armed := false,
    dropped := 0, half := 0, seq := 0, cid := 0, todo := [], table := [], step := 0, vers := [], done := 0, active := false, dedup := false,
    status := 0 }

/-- A rule slot of the device (R230, R239, R261). -/
structure Slot where
  /-- Bank A: bytes from offset 0. -/
  a : Mem
  /-- Bank B. -/
  b : Mem
  /-- Active bank: false A, true B. -/
  active : Bool
  /-- PEND. -/
  pend : Bool
  /-- An RLWR came while PEND was 1 (R262). -/
  spoiled : Bool
  /-- REF. -/
  ref : Bool
  deriving DecidableEq, Repr

/-- A zeroed slot, as at reset and once it has left its partition (R231): bank A is the active one, and PEND and REF are 0.
[DESIGN CHOICE, log 104] -/
def Slot.fresh : Slot :=
  { a := [], b := [], active := false, pend := false, spoiled := false, ref := false }

/-- A partition (R317). -/
structure Partition where
  /-- PART.RLS (R231). -/
  rls : BitVec 8
  /-- PART.BCH (R287). -/
  bch : BitVec 64
  /-- PART.L2P entries (R311). -/
  l2p : Map Word
  /-- N, the number of logical cores. -/
  n : Nat
  /-- CID that the virtual function's configuration names for host records (R305). -/
  cid : BitVec 12
  /-- Its supervisor mailbox: die and index. -/
  sup : Nat × Nat
  /-- Launch queue, by arrival. -/
  launches : List Launch
  /-- Last verdict by LID (R309). -/
  verds : Map Nat
  /-- Serial number of the next launch. -/
  serial : Nat
  /-- Launches started so far. -/
  starts : Nat
  /-- Launch inbox: slots written by the host (R307). -/
  inbox : Map (List Word)
  /-- TAIL. -/
  tail : Word
  /-- HEAD. -/
  head : Word
  /-- The inbox has stopped (R380). -/
  stopped : Bool
  /-- Digest key H and M (R344). -/
  key : Option (BitVec 128 × BitVec 128)
  /-- Update gate: true when SHUT (R348). -/
  shut : Bool
  /-- STEP of the last RDCMP, and whether it ended CLEAN (R369, R370). -/
  lastStep : Nat × Bool
  /-- Grant table (R375): 256 entries are looked at (R374). -/
  grants : List Grant
  /-- Activities that are not FREE, by ID. -/
  acts : Map Activity
  /-- Abandonments under way. -/
  abandons : List Abandon
  /-- Checkpoints. -/
  ckpt : Ckpt
  /-- Registered tapes: virtual address, CID, block header addresses (R257). -/
  tapes : List (Nat × BitVec 12 × List Nat)
  /-- Service target (R379). -/
  svct : Word
  /-- Groups completed in this millisecond (R317). -/
  groups : Nat
  /-- Consecutive milliseconds below target. -/
  below : Nat
  deriving DecidableEq, Repr

/-- A partition that holds nothing. -/
def Partition.fresh : Partition :=
  { rls := 0, bch := 0, l2p := [], n := 0, cid := 0, sup := (0, 0), launches := [], verds := [], serial := 0, starts := 0,
    inbox := [], tail := 0, head := 0, stopped := false, key := none, shut := false, lastStep := (0, false),
    grants := [], acts := [], abandons := [], ckpt := Ckpt.off, tapes := [], svct := 0, groups := 0, below := 0 }

/-- An arrival at a barrier channel (R278, R281). -/
structure Arrival where
  /-- The logical core. -/
  lpid : Nat
  /-- By BSTEP. -/
  step : Bool
  /-- The physical core whose operations a BSTEP waits for. -/
  core : Nat
  /-- Operations numbered below this belong to Q (R281). -/
  bound : Nat
  deriving DecidableEq, Repr

/-- A barrier channel of one die (R16, R278, R296). -/
structure Channel where
  /-- LVL: 0 cluster, 1 partition, 2 die, 3 device. -/
  level : Nat
  /-- The partition. -/
  part : Nat
  /-- Members, by logical core. -/
  members : List Nat
  /-- Arrivals of this phase. -/
  arr : List Arrival
  /-- RCNT of this die. -/
  rcnt : BitVec 8
  /-- On die 1: the channel is one with channel c of die 0, which holds its members and arrivals (R16). -/
  joined : Bool
  deriving DecidableEq, Repr

/-- A channel without members. -/
def Channel.fresh : Channel := { level := 0, part := 0, members := [], arr := [], rcnt := 0, joined := false }

/-- A message on its way (R122). -/
structure Msg where
  /-- Sending core. -/
  src : Nat
  /-- Sending context. -/
  ctx : Nat
  /-- Destination: 0 a core's mailbox, 1 a core's control endpoint. -/
  kind : Nat
  /-- Destination core. -/
  dst : Nat
  /-- The handle. -/
  handle : BitVec 32
  /-- The destination's access table is consulted (kind 2 handles, R375). -/
  fixed : Bool
  /-- Payload bytes. -/
  len : Nat
  /-- The payload. -/
  body : VWord
  /-- Issue number on the sender. -/
  no : Nat
  /-- A refusal on its way back: its STATUS. -/
  status : Nat
  deriving DecidableEq, Repr

/-- A word on its way over a neighbour link (R12). -/
structure LinkWord where
  /-- The receiving core. -/
  dst : Nat
  /-- It enters the receiver's west FIFO (else the east one). -/
  west : Bool
  /-- The word. -/
  word : Word
  /-- The pushing core. -/
  src : Nat
  /-- Issue number on the pusher. -/
  no : Nat
  deriving DecidableEq, Repr

/-- A global request in flight (R57): an access that has left its core. -/
structure GReq where
  /-- Its number. -/
  id : Nat
  /-- Issuing core. -/
  core : Nat
  /-- Issuing context. -/
  ctx : Nat
  /-- Context ID it carries. -/
  cid : BitVec 12
  /-- Virtual address. -/
  va : Nat
  /-- Bytes. -/
  n : Nat
  /-- 0 read, 1 write, 2 atomic. -/
  acc : Nat
  /-- Operation code of an atomic (`AmoOp` order), 0 otherwise. -/
  op : Nat
  /-- Rounding mode of an FADD. -/
  rm : Nat
  /-- Data of a write or atomic, in the low bytes. -/
  x : VWord
  /-- Expected value of AMO.CAS. -/
  e : Word
  /-- No answer is awaited: a posted RED (R114). -/
  posted : Bool
  /-- The physical pieces, address and bytes, of an access that has passed R100 already; none listed before. -/
  pas : List (Nat × Nat)
  /-- Issue number on its core. -/
  no : Nat
  deriving DecidableEq, Repr

/-- An answer on its way to the requester (R57, R66). -/
structure GResp where
  /-- The request. -/
  req : GReq
  /-- Fault kind, 0 when served. -/
  fault : Nat
  /-- The value read. -/
  value : VWord
  deriving DecidableEq, Repr

/-- A completion or event that waits for mailbox room (R393). -/
structure Post where
  /-- Destination: false a core, true a supervisor core (die * 4 + index). -/
  sup : Bool
  /-- Destination number. -/
  dst : Nat
  /-- The entry. -/
  entry : MailEntry
  /-- The rule command that stays outstanding until it enters (R255). -/
  rule : Option Nat
  /-- The copy, by issue number, that keeps its slot until it enters (R69). -/
  copy : Option Nat
  deriving DecidableEq, Repr

/-- A command pushed through qrule (R255) and not yet complete. -/
structure RuleCmd where
  /-- Its number. -/
  id : Nat
  /-- Issuing core. -/
  core : Nat
  /-- Issuing context. -/
  ctx : Nat
  /-- Partition. -/
  part : Nat
  /-- CID. -/
  cid : BitVec 12
  /-- w0. -/
  w0 : Word
  /-- w1. -/
  w1 : Word
  /-- w2. -/
  w2 : Word
  /-- w3. -/
  w3 : Word
  /-- Bytes 32 to 63 of a whole push were not zero (R255). -/
  bad : Bool
  /-- Held by the update gate (R348). -/
  held : Bool
  /-- It was held when it was pushed: held updates run in push order (R349). -/
  wasHeld : Bool
  /-- Completes GATED (R349). -/
  gated : Bool
  /-- The bank it is bound to: true B (R239). -/
  bank : Bool
  /-- Blocks done. -/
  done : List Nat
  /-- Lowest non-zero status met, 0 if none. -/
  status : Nat
  /-- Blocks updated, fallback blocks, clamped, zeroed, moments reset. -/
  sums : Nat × Nat × Nat × Nat × Nat
  /-- Completion posted, waiting to enter the mailbox. -/
  posted : Bool
  /-- The digest taken by RDCMP (R266). -/
  taken : Option (BitVec 128)
  /-- The writes of a collective are done. -/
  ready : Bool
  /-- Issue number on its core. -/
  no : Nat
  /-- The group whose context pushed it: launch and index (R266, R322). -/
  grp : Option (Nat × Nat)
  /-- The number of the saved context that pushed it, once CORE.MSB OP 1 has saved it, and the base of the save area that holds its
  mailbox (R337). -/
  spill : Option (Nat × Nat)
  deriving DecidableEq, Repr

/-- What the other members of a collective or comparison sent (R266, R357, R382): the host and its
fabric write it. -/
structure Peer where
  /-- The partition of this device that the member's part is for. -/
  part : Nat
  /-- GROUP, as the handle that the receiving device's command names. -/
  group : BitVec 32
  /-- TAG of the command it answers. -/
  tag : BitVec 32
  /-- COUNT of a collective. -/
  count : Nat
  /-- Rank. -/
  rank : Nat
  /-- The member's N. -/
  n : Nat
  /-- Elements sent, as bit patterns. -/
  elems : List (BitVec 32)
  /-- D and STEP of a comparison. -/
  pair : BitVec 128 × Nat
  deriving DecidableEq, Repr

/-- A send queue (R381): the peer address and the port that it names. -/
structure SendQueue where
  /-- Peer address. -/
  peer : Nat
  /-- Port, 0 to 7. -/
  port : Nat
  deriving DecidableEq, Repr

/-- A collective group (R382): its members by rank, each with the peer's address and the port that leads to it. -/
structure CollGroup where
  /-- The members. -/
  members : Map SendQueue
  deriving DecidableEq, Repr

/-- A flit that a function level reset sends to a member of a collective group (R380). -/
structure AbortFlit where
  /-- Where it goes. -/
  dst : SendQueue
  /-- GROUP. -/
  group : BitVec 32
  /-- TAG. -/
  tag : BitVec 32
  deriving DecidableEq, Repr

/-- A packet of a network send (R381). -/
structure Packet where
  /-- Cluster and slot key of its copy. -/
  cl : Nat
  /-- Issuing core index. -/
  cidx : Nat
  /-- TAG and issue number of its request. -/
  no : Nat
  /-- Send queue. -/
  queue : Nat
  /-- The address of the peer that the queue names. -/
  peer : Nat
  /-- Payload. -/
  bytes : List Byte
  /-- Retransmissions so far. -/
  tries : Nat
  /-- TIME when it was first sent. -/
  sent : Word
  deriving DecidableEq, Repr

/-- What a paired operation does when its two copies match (R365). -/
inductive PairAct where
  /-- A store, atomic or RED. -/
  | mem (r : GReq)
  /-- A message. -/
  | msg (m : Msg)
  /-- A copy request or an MDRN, whose data wait in its engine for the match. -/
  | mark
  /-- A LAUNCH record: partition and launch. -/
  | launch (q : Nat) (l : Launch)
  deriving DecidableEq, Repr

/-- A paired operation held at its router (R365). -/
structure Paired where
  /-- Number of the access that waits for the answer, if one does. -/
  id : Nat
  /-- Primary core. -/
  core : Nat
  /-- Twin core. -/
  twin : Nat
  /-- Which of the two sent the copy held. -/
  sender : Nat
  /-- CYC of its die when it was sent. -/
  sent : Word
  /-- Operation number. -/
  no : Nat
  /-- Issue number on the sender (R281). -/
  opNo : Nat
  /-- What is compared: kind, address or handle, length, data. -/
  what : Nat × Nat × Nat × Nat
  /-- The operation to perform on a match. -/
  act : PairAct
  deriving DecidableEq, Repr

/-- Markhor, firmware and the host port (R376 to R379). -/
structure Secure where
  /-- SVN of the active firmware. -/
  svn : Nat
  /-- FUSE. -/
  fuse : Nat
  /-- Open secured sessions, by requester, with the agreed key. -/
  sessions : Map (BitVec 256)
  /-- The nonces that stand in the evidence request windows, by function (R379). -/
  nonces : Map VWord
  /-- Key deliveries in progress, by requester. -/
  keyAsks : List Nat
  /-- The grant of a collective group that comes with a requester's key delivery: its handle and number (R344, R376). -/
  keyGroups : Map (Nat × Nat)
  /-- How a requester's last key delivery ended: 0 OK, 3 SESSION (R378). -/
  keyResults : Map Nat
  /-- Evidence results by function: STATUS and record. -/
  results : Map (Nat × List Byte)
  /-- Evidence requests in progress, by function: the nonce. -/
  asks : Map VWord
  /-- The image staging window: the bytes that are not zero (R379). -/
  window : Mem
  /-- Staged image: SVN and digest input; none when nothing is staged. -/
  staged : Option (Nat × Nat)
  /-- Digest input of the active supervisor firmware. -/
  image : Nat
  /-- STATUS of the last activation. -/
  activate : Nat
  /-- Last measured record of a partition: TIME and the digests of Markhor's firmware, the supervisor firmware and the
  configuration (R377). -/
  measured : Map (Word × VWord × VWord × VWord)
  /-- The signature of the firmware on the package's flash is bad (R386). -/
  badSig : Bool
  /-- The boot has stopped at step 2: only the evidence path of Markhor's ROM answers (R386). -/
  halted : Bool
  /-- TIME of the last thermal trip (R391). -/
  trip : Option Word
  /-- Consecutive samples below 3.1 kW (R390). -/
  calm : Nat
  /-- TIME of the last power sample. -/
  sampled : Word
  /-- TIME of the service controller's last tick (R317). -/
  ticked : Word
  deriving DecidableEq, Repr

/-- Markhor after a cold reset. [DESIGN CHOICE, log 5] -/
def Secure.fresh : Secure :=
  { svn := 0, fuse := 0, sessions := [], nonces := [], keyAsks := [], keyGroups := [], keyResults := [], results := [], asks := [], window := [],
    staged := none, image := 0, activate := 0, measured := [], badSig := false, halted := false, trip := none, calm := 0, sampled := 0, ticked := 0 }

/-- A store that an error mark can name (R359). -/
inductive Store where
  /-- Local memory of a core. -/
  | loc (core : Nat)
  /-- Memory of a cluster. -/
  | clu (cl : Nat)
  /-- Main or host memory. -/
  | phys
  /-- A pod of a bank of a cluster's MU: a byte of the bank's image. -/
  | pod (cl bank : Nat)
  /-- Accumulator memory of a cluster: byte handle * 8192 + entry * 4. -/
  | acc (cl : Nat)
  /-- A bank of a rule slot, A (false) or B. -/
  | rule (slot : Nat) (bank : Bool)
  /-- The window cache of a cluster, by the backing virtual address. -/
  | win (cl : Nat)
  deriving DecidableEq, Repr

/-- A word or line that holds an error (R359). -/
structure ErrMark where
  /-- The store. -/
  store : Store
  /-- First byte of the 8-byte word, or of the 64-byte line in main memory. -/
  addr : Nat
  /-- Uncorrectable. -/
  hard : Bool
  deriving DecidableEq, Repr

/-- Which agent takes the next step. The spec leaves the interleaving of agents open, so the schedule is
data: a list of moves that `step` takes from the front. -/
inductive Move where
  /-- The core issues one instruction; with `late` its long-latency results stay pending (R146). -/
  | issue (core : Nat) (late : Bool)
  /-- A device step, given by its own constructor of `Instr`. -/
  | event (i : Instr)
  /-- The host writes `n` bytes of a function's BAR 0 (R379). -/
  | host (fn off n v : Nat)
  /-- Time passes: cycles of die 0 and die 1, reference ticks (R17, R18). -/
  | elapse (c0 c1 ticks : Nat)
  deriving DecidableEq, Repr

/-- The device. -/
structure State where
  /-- The schedule: who moves next (the model's own field). -/
  sched : List Move
  /-- The core that issues when the schedule is empty (the model's own field). -/
  focus : Nat
  /-- The core whose instruction `exec` runs (the model's own field). -/
  cur : Nat
  /-- The context of that core (the model's own field): 0 control, 1 to 10 helpers. -/
  ctx : Nat
  /-- Long-latency results of the instruction that runs stay pending (the model's own field). -/
  late : Bool
  /-- Counter that free values are drawn with (the model's own field). -/
  tick : Nat
  /-- The device has power (R386). -/
  power : Bool
  /-- TIME (R18). -/
  time : Word
  /-- Cores by PPID. -/
  cores : Map Core
  /-- Clusters by die * 256 + site. -/
  clusters : Map Cluster
  /-- Die 0. -/
  die0 : Die
  /-- Die 1. -/
  die1 : Die
  /-- Home slices by die * 16 + number. -/
  slices : Map Slice
  /-- Partitions 0 to 15. -/
  parts : Map Partition
  /-- Rule memory slots 0 to 7 (R230). -/
  rules : Map Slot
  /-- Barrier channels: c for channel c of die 0, 64 + c for that of die 1 (R16). -/
  chans : Map Channel
  /-- Main memory, LPDDR-6 and host memory by physical address (R54). -/
  phys : Mem
  /-- Base of the context table (R59). -/
  ctxBase : Nat
  /-- Host ranges, first and last byte, whose AtomicOps the host refuses (R112): the host writes it. -/
  hostNo : List (Nat × Nat)
  /-- Context 0's grant table (R374): 256 entries are looked at. -/
  fwGrants : List Grant
  /-- Contexts that CORE.MSB OP 1 has saved, oldest first (R336). -/
  saves : List SaveImage
  /-- Access tables (R67). -/
  access : List AccessRow
  /-- Range entries (R67): a target keeps 64. -/
  ranges : List Range
  /-- Refusals that each target has counted for Markhor (R67). -/
  refusals : Map Nat
  /-- Device sequence counter (R351). -/
  seq : Nat
  /-- Messages under way. -/
  msgs : List Msg
  /-- Refused messages on their way back. -/
  backs : List Msg
  /-- Acceptances on their way back. -/
  accs : List Msg
  /-- Words on neighbour links. -/
  links : List LinkWord
  /-- Global requests under way. -/
  greqs : List GReq
  /-- Requests whose translation waits for a walk (R63). -/
  walks : List GReq
  /-- Answers under way. -/
  gresps : List GResp
  /-- Number of the next global request. -/
  gid : Nat
  /-- Trap messages under way. -/
  traps : List TrapMsg
  /-- Completions and events that wait for room, in order (R393). -/
  posts : List Post
  /-- Rule, digest and collective commands. -/
  cmds : List RuleCmd
  /-- Number of the next such command. -/
  cmdId : Nat
  /-- What peers have sent. -/
  peers : List Peer
  /-- Collectives and comparisons that a peer aborted (R380): partition, GROUP and TAG. -/
  aborts : List (Nat × BitVec 32 × BitVec 32)
  /-- Those whose transport failed. -/
  netErrs : List (Nat × BitVec 32 × BitVec 32)
  /-- Those that have ended, each time that one did: a partition's later one of the same GROUP and TAG is another (R380). -/
  collEnds : List (Nat × BitVec 32 × BitVec 32)
  /-- Abort flits on their way to members on other devices (R380). -/
  abortsOut : List AbortFlit
  /-- Send queues by number, port * 64 + place (R381), and, from 512 on, the streams to the regions that grants of kind 5 name (R371): what
  firmware has set. -/
  queues : Map SendQueue
  /-- Collective groups by number (R382): what firmware has set. -/
  groups : Map CollGroup
  /-- Packets sent and not acknowledged. -/
  packets : List Packet
  /-- Flits that have failed their CRC and are still to be sent again, by row lane (R383). -/
  replays : Map Nat
  /-- Paired operations held at their routers. -/
  paired : List Paired
  /-- Markhor and the host port. -/
  secure : Secure
  /-- Words and lines that hold errors (R359). -/
  errs : List ErrMark
  deriving DecidableEq, Repr

/-- The device right after a cold reset: boot has scrubbed every store (R386), no cluster is granted. [DESIGN CHOICE, log 3, 6; DEDUCED, log 4] -/
def State.reset : State :=
  { sched := [], focus := 0, cur := 0, ctx := 0, late := false, tick := 0, power := true, time := 0, cores := [],
    clusters := [], die0 := Die.fresh, die1 := Die.fresh, slices := [], parts := [], rules := [], chans := [],
    phys := [], ctxBase := 0, hostNo := [], fwGrants := [], saves := [], access := [], ranges := [], refusals := [], seq := 1, msgs := [], backs := [], accs := [],
    links := [], greqs := [], walks := [], gresps := [], gid := 0, traps := [], posts := [], cmds := [],
    cmdId := 0, peers := [], aborts := [], netErrs := [], collEnds := [], abortsOut := [], queues := [], groups := [], packets := [], replays := [], paired := [],
    secure := Secure.fresh, errs := [] }

end Sys2Proof.Machine
end

