-- ==== Sys2Proof/Machine/Ops.lean ====
section
/-! DEFINITION. The named operations over the state: tables and bytes, the position of a core, the current
context, CTX.TSW, the window, posting to mailboxes, trap messages, taking an exception and returning from it. -/

namespace Sys2Proof.Machine

/-! ### Tables and bytes -/

/-- The value listed under a key. -/
def mfind {α : Type} : Map α → Nat → Option α
  | [], _ => none
  | (k, v) :: m, i => if i = k then some v else mfind m i

/-- The value under a key, `d` when it is not listed. -/
def mget {α : Type} (d : α) (m : Map α) (i : Nat) : α :=
  match mfind m i with
  | some v => v
  | none => d

/-- Writes a key, keeping the order. -/
def mset {α : Type} : Map α → Nat → α → Map α
  | [], i, v => [(i, v)]
  | (k, w) :: m, i, v =>
    if i < k then (i, v) :: (k, w) :: m else if i = k then (i, v) :: m else (k, w) :: mset m i v

/-- Removes a key. -/
def merase {α : Type} (m : Map α) (i : Nat) : Map α := m.filter (fun kv => kv.1 != i)

/-- The byte at an address, 0 when it is not listed (R386: every store is scrubbed to zero). [DEDUCED, log 4] -/
def bget : Mem → Nat → Byte
  | [], _ => 0
  | (k, b) :: m, a => if a = k then b else bget m a

/-- Removes the listed byte at an address. -/
def bdrop : Mem → Nat → Mem
  | [], _ => []
  | (k, b) :: m, a => if a = k then m else (k, b) :: bdrop m a

/-- Lists a byte at an address. -/
def bput : Mem → Nat → Byte → Mem
  | [], a, v => [(a, v)]
  | (k, b) :: m, a, v =>
    if a < k then (a, v) :: (k, b) :: m else if a = k then (a, v) :: m else (k, b) :: bput m a v

/-- Writes the byte at an address: a zero byte is not listed. -/
def bset (m : Mem) (a : Nat) (v : Byte) : Mem := if v = 0 then bdrop m a else bput m a v

/-- The canonical form of a byte store: addresses strictly rising, no zero byte listed. -/
def memWf : Mem → Bool
  | [] => true
  | (k, b) :: m => b != 0 && (match m with
    | [] => true
    | (k', _) :: _ => decide (k < k')) && memWf m

/-- `n` bytes from an address as a little-endian number (R2). -/
def bread (m : Mem) (a : Nat) : Nat → Nat
  | 0 => 0
  | n + 1 => (bget m a).toNat + 256 * bread m (a + 1) n

/-- Writes the low `n` bytes of a number, little-endian (R2). -/
def bwrite (m : Mem) (a : Nat) : Nat → Nat → Mem
  | 0, _ => m
  | n + 1, v => bwrite (bset m a (BitVec.ofNat 8 v)) (a + 1) n (v / 256)

/-- `n` bytes from an address. -/
def breadList (m : Mem) (a : Nat) : Nat → List Byte
  | 0 => []
  | n + 1 => bget m a :: breadList m (a + 1) n

/-- Writes bytes from an address. -/
def bwriteList (m : Mem) (a : Nat) : List Byte → Mem
  | [] => m
  | b :: bs => bwriteList (bset m a b) (a + 1) bs

/-- Makes every byte from `a` to `a + n - 1` read as 0. -/
def bzero (m : Mem) (a n : Nat) : Mem := m.filter (fun c => decide (c.1 < a) || decide (a + n ≤ c.1))

/-- The bytes of a number, little-endian. -/
def bytesOf : Nat → Nat → List Byte
  | 0, _ => []
  | n + 1, v => BitVec.ofNat 8 v :: bytesOf n (v / 256)

/-- The number that little-endian bytes hold. -/
def ofBytes : List Byte → Nat
  | [] => 0
  | b :: bs => b.toNat + 256 * ofBytes bs

/-- Bits `lo` to `lo + n - 1` of a number. -/
def bits (v lo n : Nat) : Nat := v / 2 ^ lo % 2 ^ n

/-- A number with bits `lo` to `lo + n - 1` replaced. -/
def withBits (v lo n x : Nat) : Nat := v - bits v lo n * 2 ^ lo + x % 2 ^ n * 2 ^ lo

/-- A word field. -/
def wfield (v : Word) (lo n : Nat) : Nat := bits v.toNat lo n

/-- A word with a field replaced. -/
def wput (v : Word) (lo n x : Nat) : Word := BitVec.ofNat 64 (withBits v.toNat lo n x)

/-- The numbers 0 to n - 1. -/
def upTo (n : Nat) : List Nat := List.range n

/-- The least element of a list that satisfies a test. -/
def firstSuch (n : Nat) (p : Nat → Bool) : Option Nat := (upTo n).find? p

/-- Rounds a quotient up. -/
def ceilDiv (a b : Nat) : Nat := (a + b - 1) / b

/-! ### The position of a core (R8 to R12) -/

/-- The die of a core. -/
def dieOf (p : Nat) : Nat := p / 4096 % 2

/-- The site of a core. -/
def siteOf (p : Nat) : Nat := p / 16 % 256

/-- The index of a core in its site. -/
def cidxOf (p : Nat) : Nat := p % 16

/-- The cluster of a core: die * 256 + site. -/
def clusterOf (p : Nat) : Nat := p / 16

/-- The core of a cluster with an index. -/
def coreAt (cl i : Nat) : Nat := cl * 16 + i

/-- The grid row of a core (R10). -/
def gridRow (p : Nat) : Nat := 3 * (siteOf p / 16) + cidxOf p / 3

/-- The grid column of a core (R10). -/
def gridCol (p : Nat) : Nat := 3 * (siteOf p % 16) + cidxOf p % 3

/-- The core at a grid position of a die. -/
def coreAtGrid (die row col : Nat) : Nat :=
  die * 4096 + (row / 3 * 16 + col / 3) * 16 + (row % 3 * 3 + col % 3)

/-- A number names a physical core position. -/
def isCore (p : Nat) : Bool := p < 8192 && siteOf p < 160 && cidxOf p < 9

/-! ### Parts of the state -/

/-- A core. -/
def State.core (s : State) (p : Nat) : Core := mget Core.fresh s.cores p

/-- Replaces a core. -/
def State.setCore (s : State) (p : Nat) (c : Core) : State := { s with cores := mset s.cores p c }

/-- Changes a core. -/
def State.modCore (s : State) (p : Nat) (f : Core → Core) : State := s.setCore p (f (s.core p))

/-- A cluster. -/
def State.cluster (s : State) (cl : Nat) : Cluster := mget Cluster.fresh s.clusters cl

/-- Changes a cluster. -/
def State.modCluster (s : State) (cl : Nat) (f : Cluster → Cluster) : State :=
  { s with clusters := mset s.clusters cl (f (s.cluster cl)) }

/-- A die. -/
def State.die (s : State) (d : Nat) : Die := if d = 0 then s.die0 else s.die1

/-- Changes a die. -/
def State.modDie (s : State) (d : Nat) (f : Die → Die) : State :=
  if d = 0 then { s with die0 := f s.die0 } else { s with die1 := f s.die1 }

/-- A home slice, by die * 16 + number. -/
def State.slice (s : State) (n : Nat) : Slice := mget Slice.fresh s.slices n

/-- Changes a home slice. -/
def State.modSlice (s : State) (n : Nat) (f : Slice → Slice) : State :=
  { s with slices := mset s.slices n (f (s.slice n)) }

/-- A partition. -/
def State.part (s : State) (q : Nat) : Partition := mget Partition.fresh s.parts q

/-- Changes a partition. -/
def State.modPart (s : State) (q : Nat) (f : Partition → Partition) : State :=
  { s with parts := mset s.parts q (f (s.part q)) }

/-- A rule slot of the device. -/
def State.rule (s : State) (n : Nat) : Slot := mget Slot.fresh s.rules n

/-- Changes a rule slot. -/
def State.modRule (s : State) (n : Nat) (f : Slot → Slot) : State :=
  { s with rules := mset s.rules n (f (s.rule n)) }

/-- A barrier channel, by its key: c for channel c of die 0, 64 + c for that of die 1. -/
def State.chan (s : State) (c : Nat) : Channel := mget Channel.fresh s.chans c

/-- The key of the channel that `c` names on a die: the two are one when they are joined (R16). -/
def State.chanKey (s : State) (die c : Nat) : Nat := if (s.chan (64 + c)).joined then c else 64 * die + c

/-- Changes a barrier channel. -/
def State.modChan (s : State) (c : Nat) (f : Channel → Channel) : State :=
  { s with chans := mset s.chans c (f (s.chan c)) }

/-- A context of a core: 0 the control context, 1 to 10 the helpers. -/
def Core.context (c : Core) (k : Nat) : Context := if k = 0 then c.ctl else mget Context.freeHelper c.helpers k

/-- Replaces a context of a core. -/
def Core.setContext (c : Core) (k : Nat) (x : Context) : Core :=
  if k = 0 then { c with ctl := x } else { c with helpers := mset c.helpers k x }

/-- Changes a context of a core. -/
def Core.modContext (c : Core) (k : Nat) (f : Context → Context) : Core := c.setContext k (f (c.context k))

/-- The core whose instruction runs. -/
def State.me (s : State) : Core := s.core s.cur

/-- Changes the core whose instruction runs. -/
def State.modMe (s : State) (f : Core → Core) : State := s.modCore s.cur f

/-- The context whose instruction runs. -/
def State.cx (s : State) : Context := s.me.context s.ctx

/-- Changes the context whose instruction runs. -/
def State.modCx (s : State) (f : Context → Context) : State := s.modMe (fun c => c.modContext s.ctx f)

/-- The cluster of the core whose instruction runs. -/
def State.myCl (s : State) : Nat := clusterOf s.cur

/-- The partition that holds a core's cluster. -/
def State.partOf (s : State) (p : Nat) : Option Nat := (s.cluster (clusterOf p)).part

/-- The partition of the running core; 16 stands for none. -/
def State.myPart (s : State) : Nat :=
  match s.partOf s.cur with
  | some q => q
  | none => 16

/-- Draws a number for a free value. [DESIGN CHOICE, log 14] -/
def State.draw (s : State) : Nat × State := (s.tick, { s with tick := s.tick + 1 })

/-! ### Cores of a cluster, of a partition -/

/-- The cores of a site that CLU.CMASK fuses off. -/
def fusedCount (cmask : BitVec 9) : Nat := ((upTo 9).filter (fun i => cmask.getLsbD i)).length

/-- A core is fused off (R9, R319): its site's bit in DIE.HVC is clear, its bit in CLU.CMASK is set, or three or more cores
of its site are. -/
def State.fusedOff (s : State) (p : Nat) : Bool :=
  let m := (s.cluster (clusterOf p)).cmask
  !(isCore p) || !((s.die (dieOf p)).hvc.getLsbD (siteOf p)) || m.getLsbD (cidxOf p) || decide (3 ≤ fusedCount m)

/-- The cores of a site that are assigned when its cluster is granted (R9): the eight lowest that are not fused off. -/
def State.assignable (s : State) (cl : Nat) : List Nat :=
  (((upTo 9).map (coreAt cl)).filter (fun p => !(s.fusedOff p))).take 8

/-- The assigned cores of a cluster by index (R9, R311): those that hold a logical number. A core declared dead
keeps its number until PART.L2P names another core for it (R363). -/
def State.assigned (s : State) (cl : Nat) : List Nat :=
  ((upTo 9).map (coreAt cl)).filter (fun p => !(s.fusedOff p) && (s.core p).lpid.isSome)

/-- The logical number of a core, past every number when it holds none. -/
def State.lp (s : State) (p : Nat) : Nat :=
  match (s.core p).lpid with
  | some l => l
  | none => 4096

/-- POS: the position of a core among its cluster's assigned cores in logical order (R154). -/
def State.pos (s : State) (p : Nat) : Nat :=
  ((s.assigned (clusterOf p)).filter (fun q => decide (s.lp q < s.lp p))).length

/-- The assigned core of a cluster at a position. -/
def State.atPos (s : State) (cl n : Nat) : Option Nat := (s.assigned cl).find? (fun p => s.pos p == n)

/-- The cores that a mask over positions names. -/
def State.maskCores (s : State) (cl : Nat) (m : BitVec 8) : List Nat :=
  (s.assigned cl).filter (fun p => m.getLsbD (s.pos p))

/-- CTX.GANG of a core (R154): a member that OP 2 has restored shows the MEMB that it was saved with until its gang is together again,
and a core without a logical number has POS 0. [DEDUCED, log 33] -/
def State.gangWord (s : State) (p : Nat) : Word :=
  let c := s.core p
  let m := match c.regang with
    | some g => g.memb
    | none => c.memb
  let ps := s.maskCores (clusterOf p) m
  let ldr := m = 0 || ps.all (fun q => decide (s.lp p ≤ s.lp q))
  let size := if m = 0 then 1 else ((upTo 8).filter (fun i => m.getLsbD i)).length
  BitVec.ofNat 64 (m.toNat * 2 ^ 24 + c.orig.toNat * 2 ^ 16 + size * 256 + (if ldr then 8 else 0)
    + (if c.lpid.isNone then 0 else s.pos p))

/-- The fused members of a core's gang, itself included; itself alone when it is not fused. -/
def State.gang (s : State) (p : Nat) : List Nat :=
  if (s.core p).memb = 0 then [p] else s.maskCores (clusterOf p) (s.core p).memb

/-- The leader of a gang: the member of the lowest logical number (R153). -/
def State.leader (s : State) (p : Nat) : Nat :=
  (s.gang p).foldl (fun a q => if s.lp q < s.lp a then q else a) p

/-- Binds these cores into one gang, in which each is fused with the others and keeps its queue (R153, R154). -/
def State.bindGang (s : State) (ps : List Nat) : State :=
  let m := ps.foldl (fun (a : BitVec 8) q => a ||| (1#8 <<< s.pos q)) 0#8
  let m := if ps.length ≤ 1 then 0#8 else m
  ps.foldl (fun s q => s.modCore q (fun c => { c with memb := m, hold := false, outcome := none, regang := none, stood := none, gpos := none })) s

/-- Forms a gang of these cores, which fetch anew (R153, R154). -/
def State.fuseGang (s : State) (ps : List Nat) : State :=
  (ps.foldl (fun s q => s.modCore q (fun c => { c with queue := [] })) s).bindGang ps

/-- A pre-emption that is pending in one of these cores is pending in all of them (R334). -/
def State.shareDue (s : State) (ps : List Nat) : State :=
  match ps.findSome? (fun q => (s.core q).preempt) with
  | none => s
  | some k => ps.foldl (fun s q => s.modCore q (fun c => { c with preempt := c.preempt.or (some k) })) s

/-- The core's control context issues as a member of its gang: it is fused, and its handler is not active. -/
def Core.fused (c : Core) : Bool := c.memb != 0 && c.handler != some 0

/-- The core's control context issues from its queue: it is fused, or it is the last of a gang and has still to issue what the leader
decoded for it (R43, R153). -/
def Core.queued (c : Core) : Bool := (c.memb != 0 || !c.queue.isEmpty) && c.handler != some 0

/-- The control context waits for its gang: at a parting, or, restored by OP 2, for the members that it was fused with (R155). -/
def Core.holds (c : Core) : Bool := (c.memb != 0 || c.regang.isSome) && c.handler != some 0 && c.hold

/-- What parts a gang's members: the outcome of a conditional branch, and otherwise the PC (R155, R271). -/
def Core.parts (c : Core) (byOutcome : Bool) : Word × Bool :=
  if byOutcome then (0, c.outcome == some true) else (c.ctl.pc, false)

/-- Members of a gang that have all issued their conditional branch form one gang per outcome; after a JALR or RET, and when
they have all returned from a pre-emption elsewhere, one gang per distinct PC (R155, R271). [DEDUCED, log 33] -/
def State.resolveGang (s : State) (p : Nat) : State :=
  let ps := s.gang p
  if (s.core p).memb = 0 || !(ps.all (fun q => (s.core q).hold && (s.core q).handler != some 0)) then s
  else
    let b := ps.all (fun q => (s.core q).outcome.isSome)
    let ways := (ps.map (fun q => (s.core q).parts b)).eraseDups
    let groups := ways.map (fun w => ps.filter (fun q => (s.core q).parts b == w))
    groups.foldl (fun s g => s.fuseGang g) s

/-- What tells the gang of a restored member from another: its MEMB and its members (R155). -/
def Core.oldGang (c : Core) : Option (BitVec 8 × List Mate) := c.regang.map (fun g => (g.memb, g.mates))

/-- The members of a core's gang as a saved image names them. -/
def State.gangMates (s : State) (p : Nat) : List Mate :=
  (s.gang p).map (fun q => { lpid := s.lp q, grp := (s.core q).group.map (fun g => (g.launch, g.index)) })

/-- Another core's control context was fused with this one's when both were saved, whatever groups they run, and waits for it still (R155). -/
def State.awaits (s : State) (q p : Nat) : Bool :=
  q != p && (s.core p).regang.isSome && (s.core q).oldGang == (s.core p).oldGang

/-- A member leaves its gang; the others stay fused (R155). The last of them keeps what the leader has decoded for it (R43); those
that wait for a restored member wait for one fewer. [DEDUCED, log 32, 33] -/
def State.leaveGang (s : State) (p : Nat) : State :=
  let rest := (s.gang p).filter (fun q => q != p)
  let apart (c : Core) : Core := { c with memb := 0, hold := false, outcome := none }
  let alone (s : State) : State := s.modCore p (fun c => { apart c with queue := [], regang := none, stood := none, gpos := none })
  if (s.core p).memb = 0 && (s.core p).regang.isNone && (s.core p).queue.isEmpty then s
  else if (s.core p).memb = 0 then
    let fewer := (s.assigned (clusterOf p)).filter (fun q => s.awaits q p)
    alone (fewer.foldl (fun s q => s.modCore q (fun c => { c with regang := c.regang.map (fun g => { g with size := g.size - 1 }) })) s)
  else
    let m := rest.foldl (fun (a : BitVec 8) q => a ||| (1#8 <<< s.pos q)) 0#8
    match rest with
    | [q] => (alone s).modCore q apart
    | _ => (rest.foldl (fun s q => s.modCore q (fun c => { c with memb := m })) (alone s)).resolveGang (rest.headD p)

/-- The physical core that PART.L2P gives a logical core of a partition (R311). -/
def State.physOf (s : State) (q l : Nat) : Option Nat :=
  if l < (s.part q).n then
    let w := mget (0 : Word) (s.part q).l2p l
    if w.getLsbD 63 then some (w.toNat % 8192) else none
  else none

/-- The cores of a partition that hold a logical number, ascending. -/
def State.partCores (s : State) (q : Nat) : List Nat := (upTo (s.part q).n).filterMap (fun l => s.physOf q l)

/-! ### Neighbour links (R12, R152) -/

/-- The neighbour of a core, west or east, if there is a position. -/
def neighbour (p : Nat) (west : Bool) : Option Nat :=
  let c := gridCol p
  if west then (if c = 0 then none else some (coreAtGrid (dieOf p) (gridRow p) (c - 1)))
  else if 47 ≤ c then none else some (coreAtGrid (dieOf p) (gridRow p) (c + 1))

/-- The neighbour over a link that is present: not fused off, in the same partition, alive, and enabled by
both ends (R12, R152, R297). Two cores whose clusters no partition holds count as of one partition. [DESIGN CHOICE, log 92] -/
def State.link (s : State) (p : Nat) (west : Bool) : Option Nat :=
  match neighbour p west with
  | none => none
  | some q =>
    if s.fusedOff q || s.partOf p != s.partOf q || (s.core q).dead
      || !((s.core p).lnk.getLsbD (if west then 0 else 1)) || !((s.core q).lnk.getLsbD (if west then 1 else 0))
    then none else some q

/-- Words on their way to one FIFO. -/
def State.flying (s : State) (dst : Nat) (west : Bool) : Nat :=
  (s.links.filter (fun l => l.dst == dst && l.west == west)).length

/-! ### CTX.TSW (R325) -/

/-- The level: 0 U, 1 S, 2 F. [DEDUCED, log 39] -/
def lvlOf (tsw : Word) : Nat := wfield tsw 0 2

/-- Sets a single bit. -/
def orBit (v : Word) (n : Nat) : Word := v ||| (1#64 <<< n)

/-- FNX, FUF, FOF, FNV, as raised by an operation. -/
structure FpFlags where
  /-- Invalid. -/
  nv : Bool
  /-- Overflow. -/
  ovf : Bool
  /-- Underflow. -/
  uf : Bool
  /-- Inexact. -/
  nx : Bool
  deriving DecidableEq, Repr

/-- No flag. -/
def FpFlags.zero : FpFlags := { nv := false, ovf := false, uf := false, nx := false }

/-- Flags of two operations together. -/
def FpFlags.or (a b : FpFlags) : FpFlags :=
  { nv := a.nv || b.nv, ovf := a.ovf || b.ovf, uf := a.uf || b.uf, nx := a.nx || b.nx }

/-- ORs flags into CTX.TSW (R174). -/
def orFlags (tsw : Word) (f : FpFlags) : Word :=
  tsw ||| BitVec.ofNat 64 (f.nx.toNat * 16 + f.uf.toNat * 32 + f.ovf.toNat * 64 + f.nv.toNat * 128)

/-- The level of the running context. -/
def State.level (s : State) : Nat := lvlOf s.cx.tsw

/-- Sets a sticky bit of the running context's CTX.TSW. -/
def State.sticky (s : State) (n : Nat) : State := s.modCx (fun x => { x with tsw := orBit x.tsw n })

/-- ORs floating-point flags into the running context's CTX.TSW. -/
def State.raise (s : State) (f : FpFlags) : State := s.modCx (fun x => { x with tsw := orFlags x.tsw f })

/-! ### Registers and the window (R34 to R36, R143 to R146) -/

/-- A 64-bit value in the low bits of 512. -/
def widen (v : Word) : VWord := v.setWidth 512

/-- Lane 0 of a vector value as a scalar. [DEDUCED, log 25] -/
def lane0 (v : VWord) : Word := v.setWidth 64

/-- s0 reads zero; s1 to s31. -/
def Context.sreg (x : Context) (n : Nat) : Word := if n = 0 then 0 else mget 0 x.s n

/-- v0 to v15. -/
def Context.vreg (x : Context) (n : Nat) : VWord := mget 0 x.v n

/-- k0 is all ones; k1 to k3. -/
def Context.kreg (x : Context) (n : Nat) : Word := if n = 0 then BitVec.allOnes 64 else mget 0 x.k n

/-- Writes a scalar register; a write of s0 changes nothing (R34). -/
def Context.setS (x : Context) (n : Nat) (v : Word) : Context := if n = 0 then x else { x with s := mset x.s n v }

/-- Writes a vector register. -/
def Context.setV (x : Context) (n : Nat) (v : VWord) : Context := { x with v := mset x.v n v }

/-- Entry dN of a window, N from 1. -/
def Window.entry (w : Window) (n : Nat) : WinEntry :=
  match n with
  | 1 => w.d1
  | 2 => w.d2
  | 3 => w.d3
  | _ => w.d4

/-- Shifts the window by a new result (R144). -/
def Window.push (w : Window) (e : WinEntry) : Window := { d1 := e, d2 := w.d1, d3 := w.d2, d4 := w.d3 }

/-- Applies a function to every entry. -/
def Window.map (w : Window) (f : WinEntry → WinEntry) : Window :=
  { d1 := f w.d1, d2 := f w.d2, d3 := f w.d3, d4 := f w.d4 }

/-- The entries d1 to d4. -/
def Window.list (w : Window) : List WinEntry := [w.d1, w.d2, w.d3, w.d4]

/-- The position of a pending result in a window, 4 when it has been shifted out. -/
def Window.posOf (w : Window) (id : Nat) : Nat :=
  if w.d1.pend = some id then 0 else if w.d2.pend = some id then 1 else if w.d3.pend = some id then 2
  else if w.d4.pend = some id then 3 else 4

/-- Fills the entry that a pending result holds. -/
def Window.fill (w : Window) (id : Nat) (e : WinEntry) : Window := w.map (fun d => if d.pend = some id then e else d)

/-- The type tag of an entry (R145). -/
def WinEntry.tag (e : WinEntry) : Nat := e.val.toNat + 2 * e.vec.toNat

/-! ### Stopping an instruction -/

/-- Class, subcause and TRAP.INFO of an entry to the handler (R321). -/
structure Cause where
  /-- Class. -/
  cls : Nat
  /-- Subcause. -/
  sub : Nat
  /-- TRAP.INFO. -/
  info : Word
  deriving DecidableEq, Repr

/-- Why an instruction does not complete. Nothing of its effect remains, beside what a constructor says. -/
inductive Stop where
  /-- It waits, without any effect (R148). -/
  | wait
  /-- It waits; what it does before its wait stays (an arrival, R279; a meeting, R156, R276), as a change of the state in which
  it has popped nothing (R148). -/
  | hold (f : State → State)
  /-- It raises a precise trap (R322). -/
  | trap (c : Cause)
  /-- A translation or access failure at a global address (R65, R67): the fault kind, the access kind (0 read,
  1 write, 2 atomic, 3 fetch), the virtual address, the context ID and the master agent (R331). -/
  | page (kind acc va : Nat) (cid : BitVec 12) (agent : Nat)
  /-- It reads a word with an uncorrectable error (R361). The state holds what its translations have left: the leaves that they walked have
  gained A, and D for a write (R62). -/
  | poison (s : State)

/-- An illegal-instruction trap (R42). -/
def illegal (sub : Nat) : Stop := .trap { cls := 2, sub := sub, info := 0 }

/-- An address fault: 1 RANGE, 2 ALIGN, 3 SCOPE, 4 HOST (R100). [DEDUCED, log 24] -/
def addrFault (sub addr : Nat) : Stop := .trap { cls := 3, sub := sub, info := BitVec.ofNat 64 addr }

/-- A privilege trap (R44). -/
def privTrap : Stop := .trap { cls := 4, sub := 0, info := 0 }

/-- A U-level access to the undo-log region at `a` (R91): a privilege trap, whose INFO the precise trap leaves 0 and the
late report of a vector access holds (R321). [DEDUCED, log 24] -/
def logTrap (a : Nat) : Stop := .trap { cls := 4, sub := 0, info := BitVec.ofNat 64 a }

/-- Carries on unless a condition stops the instruction. -/
def stopIf (b : Bool) (e : Stop) : Except Stop Unit := if b then .error e else .ok ()

/-! ### Mailboxes (R119, R393) -/

/-- The bytes that an entry takes of the mailbox's store. -/
def entryBytes (len : Nat) : Nat := 8 + 8 * ceilDiv len 8

/-- A mailbox with these held and reserved entries has room for one more of `len` bytes (R119). -/
def mailRoom (held : List MailEntry) (resv : List Nat) (len : Nat) : Bool :=
  decide (held.length + resv.length < 32)
    && decide ((held.map (fun e => entryBytes e.len)).foldl (· + ·) 0 + (resv.map entryBytes).foldl (· + ·) 0
      + entryBytes len ≤ 1792)

/-- A core's mailbox has room. -/
def Core.room (c : Core) (len : Nat) : Bool := mailRoom c.mbox c.resv len

/-- An entry of CLASS 0 with these content bytes. -/
def eventEntry (len body : Nat) : MailEntry :=
  { status := 0, cls := 0, src := 0, len := len, next := 0, body := BitVec.ofNat 512 body }

/-- The core's partition is being reset: completions for it are discarded (R380). -/
def State.silent (s : State) (p : Nat) : Bool :=
  match s.partOf p with
  | some q => (s.part q).stopped
  | none => false

/-- Posts an entry into a core's mailbox: it waits in its agent while another one waits for that mailbox or
room is lacking (R393). -/
def State.postCore (s : State) (p : Nat) (e : MailEntry) (rule : Option Nat) : State :=
  if s.silent p then s
  else if (s.core p).room e.len && !(s.posts.any (fun w => !w.sup && w.dst == p)) then
    s.modCore p (fun c => { c with mbox := c.mbox ++ [e] })
  else { s with posts := s.posts ++ [{ sup := false, dst := p, entry := e, rule := rule, copy := none }] }

/-- A supervisor mailbox, by die * 4 + index. -/
def State.supBox (s : State) (n : Nat) : List MailEntry := mget [] (s.die (n / 4)).sup (n % 4)

/-- Appends to a supervisor mailbox. -/
def State.supPut (s : State) (n : Nat) (e : MailEntry) : State :=
  s.modDie (n / 4) (fun d => { d with sup := mset d.sup (n % 4) (mget [] d.sup (n % 4) ++ [e]) })

/-- Posts an event into a supervisor mailbox (R392, R393). -/
def State.postSup (s : State) (n : Nat) (e : MailEntry) : State :=
  if mailRoom (s.supBox n) [] e.len && !(s.posts.any (fun w => w.sup && w.dst == n)) then s.supPut n e
  else { s with posts := s.posts ++ [{ sup := true, dst := n, entry := e, rule := none, copy := none }] }

/-- The supervisor mailbox of a partition. -/
def State.supOf (s : State) (q : Nat) : Nat := (s.part q).sup.1 * 4 + (s.part q).sup.2

/-! ### Trap messages (R331, R332) -/

/-- Sends a trap message from the router at a row and column of a die. -/
def State.trapAt (s : State) (die row col kind sub acc agent : Nat) (cid : BitVec 12) (arg : Word) (map : BitVec 144) : State :=
  { s with traps := s.traps ++ [{
      kind := kind, sub := sub, cid := cid, die := die, row := row, acc := acc, agent := agent, arg := arg, map := map,
      col := col }] }

/-- Sends a trap message from a core's router. -/
def State.trapMsg (s : State) (p kind sub acc agent : Nat) (cid : BitVec 12) (arg : Word) : State :=
  s.trapAt (dieOf p) (siteOf p / 16) (siteOf p % 16) kind sub acc agent cid arg
    (1#144 <<< (9 * (siteOf p % 16) + cidxOf p))

/-! ### Assembly of records (R70) -/

/-- Drops the partial records of a context, setting CPD, MPD or RPD. [DEDUCED, log 80] -/
def State.dropAsm (s : State) (p k : Nat) : State :=
  let c := s.core p
  let hit (a : Option Asm) : Bool := match a with
    | some a => a.ctx == k
    | none => false
  let flag := (if hit c.asmC then orBit 0 9 else 0) ||| (if hit c.asmM then orBit 0 10 else 0)
    ||| (if hit c.asmR then orBit 0 11 else 0)
  s.modCore p (fun c =>
    { c with asmC := if hit c.asmC then none else c.asmC, asmM := if hit c.asmM then none else c.asmM,
             asmR := if hit c.asmR then none else c.asmR }.modContext k
      (fun x => { x with tsw := x.tsw ||| flag }))

/-! ### Taking an exception (R326, R327) -/

/-- Enters the resident handler of a core for an entry: writes the trap registers, copies the context into
the shadow, and continues it at S level at CORE.HVEC (R326). A replay that a pre-emption finds waiting stays to be made at the
next resumption (R330); what a twin's waiting instruction has sent as a paired operation stays for its next issue (R148). -/
def State.enterHandler (s : State) (p : Nat) (e : Entry) : State :=
  s.modCore p (fun c =>
    let x := c.context e.ctx
    let ring := match mfind c.ring e.seq with
      | some r => if e.cls == 0x0D || e.cls == 0x0E then mset c.ring e.seq { r with told := true } else c.ring
      | none => c.ring
    { c with
      epc := e.epc &&& ~~~1#64
      cause := BitVec.ofNat 64 (e.sub * 256 + e.cls)
      info := e.info
      tctx := BitVec.ofNat 64 (e.seq * 2 ^ 20 + lvlOf x.tsw * 2 ^ 16 + e.ctx)
      shadow := { win := x.win, rep := x.rep, tsw := x.tsw, gen := x.gen }
      handler := some e.ctx
      ring := ring
      replay := if e.ctx = 0 && decide (e.cls < 0x0F) then none else c.replay
      wmiss := if e.ctx = 0 then none else c.wmiss
      counted := if e.ctx = 0 then false else c.counted
      again := if e.ctx = 0 && c.twin.isSome && (c.flight.isSome || c.answer.isSome) then some (x.pc, c.flight, c.answer) else c.again
      flight := if e.ctx = 0 then none else c.flight
      answer := if e.ctx = 0 then none else c.answer
      meet := if e.ctx = 0 then none else c.meet
      meetHead := if e.ctx = 0 then none else c.meetHead
      waited := if e.ctx = 0 then 0 else c.waited }.setContext e.ctx
        { x with run := .ready, pc := c.hvec, rep := Rep.none, tsw := wput x.tsw 0 2 1 })

/-- Delivers an entry of a context: to the handler, or, while another context's handler is active, to the entries that wait for its
ERET, with the context stopped and a late fault reported (R327). -/
def State.deliver (s : State) (p : Nat) (e : Entry) : State :=
  let h := (s.core p).handler
  if h.isNone || h == some e.ctx then s.enterHandler p e
  else s.modCore p (fun c =>
    { c.modContext e.ctx (fun x => { x with run := .stopped .entryPending }) with
      entries := c.entries ++ [e]
      ring := match mfind c.ring e.seq with
        | some r => if e.cls == 0x0D || e.cls == 0x0E then mset c.ring e.seq { r with told := true } else c.ring
        | none => c.ring })

/-- Stops every context of a core that is not free. -/
def Core.stopAll (c : Core) (why : StopWhy) : Core :=
  let halt (x : Context) : Context :=
    match x.run with
    | .free => x
    | .stopped _ => x
    | _ => { x with run := .stopped why }
  { c with ctl := halt c.ctl, helpers := c.helpers.map (fun kx => (kx.1, halt kx.2)) }

/-- A double trap (R327): the core stops all of its contexts, sends the DOUBLE message with the second
class and subcause, and parks. [DEDUCED, log 31] -/
def State.doubleTrap (s : State) (p : Nat) (cause : Cause) : State :=
  let s := s.modCore p (fun c => c.stopAll .double)
  s.trapMsg p 0x24 0 0 (cidxOf p) (s.core p).cid (BitVec.ofNat 64 (cause.sub * 256 + cause.cls))

/-- The entry of a die's Chestnut segment with a sequence number. -/
def Die.chestBy (d : Die) (seq : Nat) : Option Chest := d.chest.find? (fun e => e.seq == seq)

/-- The die whose segment holds a sequence number. -/
def State.chestDie (s : State) (seq : Nat) : Nat := if (s.die0.chestBy seq).isSome then 0 else 1

/-- Freezes the activity of a running compensation entry (R292): the entry has failed, FST is the low 16
bits of the status, and the supervisor mailbox receives the KIND 0x0B event. -/
def State.freezeAct (s : State) (seq : Nat) (status : Word) : State :=
  let d := s.chestDie seq
  match (s.die d).chestBy seq with
  | none => s
  | some e =>
    let s := s.modDie d (fun x =>
      { x with chest := x.chest.map (fun f => if f.seq == seq then { f with state := 3 } else f) })
    let s := s.modPart e.part (fun q =>
      { q with acts := mset q.acts e.id { state := 3, fst := status.setWidth 16 } })
    s.postSup (s.supOf e.part) (eventEntry 24
      (0x0B + e.id * 2 ^ 16 + status.toNat * 2 ^ 64 + seq % 2 ^ 48 * 2 ^ 128))

/-- A helper that ran a compensation routine becomes free (R292). As at HEND and EXIT, a partial request that the context has pushed stays where
it is (R70 does not name the case). [DESIGN CHOICE, log 102] -/
def State.freeHelper (s : State) (p k : Nat) : State :=
  s.modCore p (fun c => { c with due := c.due.filter (fun d => d.ctx != k) }.modContext k (fun x =>
    { x with run := .free, comp := none }))

/-- A core has posted requests, or copies of its paired accesses and messages, that are not yet performed (R114, R365). -/
def State.postedBy (s : State) (p : Nat) : Bool := s.greqs.any (fun r => r.core == p && r.posted)
  || s.walks.any (fun r => r.core == p && r.posted) || s.paired.any (fun w => w.sender == p && w.act != .mark)

/-- A compensation routine ends, at a trap too, only once its posted requests are performed: a pop of its activity's completion acquires them
(R355). [DEDUCED, log 67] -/
def State.trapWaits (s : State) : Bool := s.cx.comp.isSome && s.postedBy s.cur

/-- Takes a trap of the running context whose instruction starts at `epc` (R326, R327, R43): in a
compensation routine the routine ends and its activity freezes, once its posted requests are performed; in the active handler it is a
double trap; while another context's handler is active the entry waits; otherwise the handler is entered. [DEDUCED, log 32] -/
def State.takeTrap (s : State) (cause : Cause) (epc : Word) : State :=
  if s.trapWaits then s
  else
  let s := s.dropAsm s.cur s.ctx
  let s := if s.ctx = 0 then s.leaveGang s.cur else s
  match s.cx.comp with
  | some seq => (s.freeHelper s.cur s.ctx).freezeAct seq (BitVec.allOnes 64)
  | none =>
    if s.me.handler = some s.ctx then s.doubleTrap s.cur cause
    else s.deliver s.cur { ctx := s.ctx, cls := cause.cls, sub := cause.sub, info := cause.info, epc := epc, seq := 0 }

/-- The first pending entry: the control context's, then by helper number (R327). -/
def Core.nextEntry (c : Core) : Option Entry :=
  match (upTo 11).find? (fun k => c.entries.any (fun e => e.ctx == k)) with
  | none => none
  | some k => c.entries.find? (fun e => e.ctx == k)

/-- Ends a faulted ring entry without a replay (R330): the destination is unchanged and the window position
reads zero with VAL = 0. -/
def Core.dropFault (c : Core) (k : Nat) : Core :=
  match mfind c.ring k with
  | none => c
  | some r =>
    let gone := WinEntry.empty
    { c with
      ring := merase c.ring k
      due := c.due.filter (fun d => some d.id != r.id)
      ctl := { c.ctl with win := match r.id with
        | some id => c.ctl.win.fill id gone
        | none => c.ctl.win } }

/-- A gang member's control context has returned from its handler (R155): at the PC where a pre-emption interrupted it, it goes
on with its queue; elsewhere it waits until every member has returned, and the gang is formed anew. One that OP 2 has restored waits for
those it was fused with. [DEDUCED, log 33] -/
def State.rejoinGang (s : State) (p : Nat) : State :=
  let c := s.core p
  if c.memb = 0 && c.regang.isNone && c.queue.isEmpty then s
  else if c.regang.isSome then s.modCore p (fun c => { c with hold := true, outcome := none, gpos := none })
  else if c.gpos = some c.ctl.pc then s.modCore p (fun c => { c with gpos := none })
  else if c.memb = 0 then s.modCore p (fun c => { c with queue := [], gpos := none })
  else (s.modCore p (fun c => { c with hold := true, outcome := none, gpos := none, queue := [] })).resolveGang p

/-- A twin's context that returns to the instruction whose paired operation it had sent takes it up again (R148, R365); at another PC it
is over. -/
def Core.takeAgain (c : Core) : Core :=
  match c.again with
  | some (pc, fl, an) => if pc = c.ctl.pc then { c with flight := fl, answer := an, again := none } else { c with again := none }
  | none => c

/-- The control context of a core that holds no logical number is stopped at S level (R342); one that is poisoned, or ends,
stays what it is. -/
def Core.unnumbered (c : Core) : Core :=
  let why : StopWhy := match c.ctl.run with
    | .stopped .poisoned => .poisoned
    | .stopped .ending => .ending
    | _ => .noLogical
  { c with ctl := { c.ctl with run := .stopped why, tsw := wput c.ctl.tsw 0 2 1 } }

/-- A context stands at an instruction boundary at which an entry can stop it: ready or waiting, in a core that lives, and not in
its own handler. -/
def Core.stands (c : Core) (k : Nat) : Bool :=
  c.handler != some k && !c.poisoned && !c.dead && ((c.context k).run == .ready || (c.context k).run == .waiting)

/-- A context stands at a boundary, and a replay that the control context would make first does not stand before it, unless it waits
(R330). -/
def Core.atBoundary (c : Core) (k : Nat) : Bool :=
  c.stands k && (k != 0 || c.replay.isNone || c.ctl.run == .waiting)

/-- The faulted ring entry to report: the lowest in dispatch order that has not been reported. -/
def Core.lateFault (c : Core) : Option (Nat × RingEntry) :=
  (c.ring.filter (fun kr => kr.2.st == 2 && !kr.2.told)).foldl (fun (a : Option (Nat × RingEntry)) kr => match a with
    | none => some kr
    | some b => if kr.2.ord < b.2.ord then some kr else some b) none

/-- The DIVERGE entries of a core that can be taken now, the control context's first (R322, R327). -/
def Core.divergeNow (c : Core) : Option (Nat × Nat × BitVec 32) :=
  if c.saved then none
  else
    let now := c.diverge.filter (fun d => c.atBoundary d.1)
    (now.find? (fun d => d.1 == 0)).or now.head?

/-- An entry of the control context is due that no ERET delivers: a pre-emption, a late fault or a DIVERGE. A helper's entry comes after it
(R327). -/
def Core.controlFirst (c : Core) : Bool :=
  !(c.entries.any (fun e => e.ctx == 0))
    && ((c.preempt.isSome && (c.ctl.run == .ready || c.ctl.run == .waiting))
      || (c.atBoundary 0 && c.replay.isNone && c.lateFault.isSome) || c.divergeNow.any (fun d => d.1 == 0))

/-- Delivers the first pending entry of a core, once no handler is active (R327). The control context of a core without a logical number
is entered for a resume message with TRAP.CTX 0 (R342). -/
def State.nextHandler (s : State) (p : Nat) : State :=
  match (s.core p).nextEntry with
  | none => s
  | some e => ((s.modCore p (fun c => { c with entries := c.entries.filter (fun f => f.ctx != e.ctx) })).enterHandler p e).modCore p (fun c =>
      if e.cls = 0x11 && e.ctx = 0 && c.lpid.isNone then { c with tctx := 0 } else c)

/-- The faulted vector access that is the lowest in dispatch order. -/
def Core.lowFault (c : Core) : Option Nat :=
  ((c.ring.filter (fun kr => kr.2.st == 2 && !kr.2.mat)).foldl (fun (a : Option (Nat × RingEntry)) kr => match a with
    | none => some kr
    | some b => if kr.2.ord < b.2.ord then some kr else some b) none).map (·.1)

/-- What an ERET of the control context does with the faulted ring entries (R330, R339): with RPL = 1 the access of entry SEQ is
replayed, or the lowest in dispatch order where SEQ is no faulted access; otherwise the entry that the handler was entered for is
discarded, as that of a matrix command always is. [DEDUCED, log 30] -/
def Core.endFault (c : Core) (seq : Nat) (rpl : Bool) : Core :=
  let here (f : RingEntry → Bool) : Bool := (mfind c.ring seq).any (fun r => r.st == 2 && f r)
  let late := wfield c.cause 0 8 == 0x0D || wfield c.cause 0 8 == 0x0E
  if late && here (fun r => r.told && (r.mat || !rpl)) then c.dropFault seq
  else if !rpl then c
  else match (if here (fun r => !r.mat) then some seq else c.lowFault) with
    | none => c
    | some k => { c with replay := some k, ring := match mfind c.ring k with
        | some r => mset c.ring k { r with told := true }
        | none => c.ring }

/-- Returns from the handler (R326, R330): reloads the shadow into the context that TRAP.CTX names at TRAP.EPC and its level; a
faulted access is replayed or discarded; then a pending entry is delivered: a helper's after one that is pending for the control context
(R327). [DEDUCED, log 27, 30] -/
def State.eret (s : State) : Except Stop State :=
  let c := s.me
  let k := wfield c.tctx 0 4
  if c.handler != some s.ctx || 10 < k then .error (illegal 8)
  else
    let s := s.modMe (fun c => (c.modContext k (fun x =>
      { x with run := .ready, pc := c.epc, win := c.shadow.win, rep := c.shadow.rep,
               tsw := wput c.shadow.tsw 0 2 (wfield c.tctx 16 2), gen := c.shadow.gen }))
      |> fun c => { c with handler := none })
    let s := if k = s.ctx then s
      else
        let s := s.modCx (fun x => { x with run := .stopped .idle })
        if s.ctx = 0 && s.me.lpid.isNone then s.modMe Core.unnumbered else s
    let s := if k = 0 then (s.rejoinGang s.cur).modMe Core.takeAgain else s
    let s := if k = 0 then s.modMe (fun x => x.endFault (wfield c.tctx 20 4) (c.tctx.getLsbD 19)) else s
    .ok (if s.me.controlFirst then s else s.nextHandler s.cur)

end Sys2Proof.Machine
end

