-- ==== Sys2Proof/Machine/Flags.lean ====
section
/-! DEFINITION. The floating-point formats (R161 to R163), rounding with its flags (R172, R173), stochastic
rounding (R175, R176), and conversion to integers (R194, R198). -/

namespace Sys2Proof.Machine

/-- How a format uses its exponent of all ones (R161, R162). -/
inductive Ends where
  /-- Infinities and NaNs. -/
  | ieee
  /-- E4M3: no infinity, one NaN code. -/
  | e4m3
  /-- E2M1: only numbers. -/
  | e2m1
  deriving DecidableEq, Repr

/-- A floating-point format. -/
structure Fmt where
  /-- Exponent bits. -/
  eb : Nat
  /-- Fraction bits. -/
  fb : Nat
  /-- Bias. -/
  bias : Nat
  /-- The exponent of all ones. -/
  ends : Ends
  deriving DecidableEq, Repr

/-- FP32. -/
def fp32 : Fmt := { eb := 8, fb := 23, bias := 127, ends := .ieee }
/-- FP64. -/
def fp64 : Fmt := { eb := 11, fb := 52, bias := 1023, ends := .ieee }
/-- BF16. -/
def bf16 : Fmt := { eb := 8, fb := 7, bias := 127, ends := .ieee }
/-- FP16. -/
def fp16 : Fmt := { eb := 5, fb := 10, bias := 15, ends := .ieee }
/-- E4M3. -/
def e4m3 : Fmt := { eb := 4, fb := 3, bias := 7, ends := .e4m3 }
/-- E5M2. -/
def e5m2 : Fmt := { eb := 5, fb := 2, bias := 15, ends := .ieee }
/-- E2M1. -/
def e2m1 : Fmt := { eb := 2, fb := 1, bias := 1, ends := .e2m1 }

/-- The format of a type code T from 0 to 5 (R179). -/
def fmtOf (t : Nat) : Fmt :=
  match t with
  | 0 => fp32
  | 1 => fp64
  | 2 => bf16
  | 3 => fp16
  | 4 => e4m3
  | _ => e5m2

/-- The place of the sign bit. -/
def Fmt.signAt (f : Fmt) : Nat := f.eb + f.fb

/-- The magnitude code of infinity, where the format has one. -/
def Fmt.infCode (f : Fmt) : Nat := (2 ^ f.eb - 1) * 2 ^ f.fb

/-- The magnitude code of the largest finite value (R162). -/
def Fmt.maxCode (f : Fmt) : Nat :=
  match f.ends with
  | .ieee => f.infCode - 1
  | .e4m3 => 2 ^ (f.eb + f.fb) - 2
  | .e2m1 => 2 ^ (f.eb + f.fb) - 1

/-- The canonical NaN (R162); E2M1 has none and gives +0. -/
def Fmt.nan (f : Fmt) : Nat :=
  match f.ends with
  | .ieee => f.infCode + 2 ^ (f.fb - 1)
  | .e4m3 => 2 ^ (f.eb + f.fb) - 1
  | .e2m1 => 0

/-- The power of two of the least bit of a subnormal. -/
def Fmt.low (f : Fmt) : Int := 1 - f.bias - f.fb

/-- A value: a NaN, an infinity, or sign, magnitude `m * 2 ^ e`. -/
inductive FVal where
  /-- A NaN; payloads do not count (R163). -/
  | nan
  /-- An infinity. -/
  | inf (neg : Bool)
  /-- A number; `m = 0` is a zero of its sign. -/
  | fin (neg : Bool) (m : Nat) (e : Int)
  deriving DecidableEq, Repr

/-- The value of a code (R161). -/
def Fmt.value (f : Fmt) (code : Nat) : FVal :=
  let neg := code.testBit f.signAt
  let c := code % 2 ^ f.signAt
  let ex := c / 2 ^ f.fb
  let m := c % 2 ^ f.fb
  if f.ends = .ieee && ex = 2 ^ f.eb - 1 then (if m = 0 then .inf neg else .nan)
  else if f.ends = .e4m3 && c = f.nan then .nan
  else if ex = 0 then .fin neg m f.low
  else .fin neg (2 ^ f.fb + m) (f.low + ex - 1)

/-- A code of a sign and a magnitude code. -/
def Fmt.code (f : Fmt) (neg : Bool) (c : Nat) : Nat := c + neg.toNat * 2 ^ f.signAt

/-- Whether rounding goes away from zero: `r` of `d` parts are dropped below an integer `q` (R172). -/
def roundsUp (rm : Nat) (neg : Bool) (q r d : Nat) : Bool :=
  match rm with
  | 0 => decide (d < 2 * r) || (decide (d = 2 * r) && q % 2 == 1)
  | 1 => false
  | 2 => !neg && r != 0
  | _ => neg && r != 0

/-- `m * 2 ^ e` as a number of units of `2 ^ u`, rounded; and whether it is inexact. -/
def quantise (rm : Nat) (neg : Bool) (m : Nat) (e u : Int) : Nat × Bool :=
  if u ≤ e then (m * 2 ^ (e - u).toNat, false)
  else
    let d := 2 ^ (u - e).toNat
    let q := m / d
    let r := m % d
    (if roundsUp rm neg q r d then q + 1 else q, r != 0)

/-- The unit of the last place of `m * 2 ^ e` in a format without a lower limit, `m` not zero. -/
def Fmt.unit (f : Fmt) (m : Nat) (e : Int) : Int := e + Nat.log2 m - f.fb

/-- Overflow (R173): the result and its flags, for a rounding mode and saturation. -/
def Fmt.overflow (f : Fmt) (rm : Nat) (sat neg : Bool) : Nat × FpFlags :=
  let fl : FpFlags := { FpFlags.zero with ovf := true, nx := true }
  let toInf := rm == 0 || (rm == 2 && !neg) || (rm == 3 && neg)
  match f.ends with
  | .ieee => (f.code neg (if toInf then f.infCode else f.maxCode), fl)
  | .e4m3 =>
    if toInf && !sat then (f.nan, { fl with nv := true }) else (f.code neg f.maxCode, fl)
  | .e2m1 => (f.code neg f.maxCode, fl)

/-- Rounds a finite value once (R172, R173). -/
def Fmt.round (f : Fmt) (rm : Nat) (sat neg : Bool) (m : Nat) (e : Int) : Nat × FpFlags :=
  if m = 0 then (f.code neg 0, FpFlags.zero)
  else
    let u0 := f.unit m e
    let u := max u0 f.low
    let q := quantise rm neg m e u
    let c := q.1 + (u - f.low).toNat * 2 ^ f.fb
    if f.maxCode < c then f.overflow rm sat neg
    else
      let free := quantise rm neg m e u0
      let tiny := decide (u0 < f.low) && decide (free.1 < 2 ^ (f.low + f.fb - u0).toNat)
      (f.code neg c, { FpFlags.zero with nx := q.2, uf := q.2 && tiny })

/-- The flags with FNV alone. -/
def FpFlags.invalid : FpFlags := { FpFlags.zero with nv := true }

/-- Converts a value into a format (R173, R193): a NaN to the canonical one, an infinity to the infinity of its
sign, to NaN or to the largest finite value. -/
def Fmt.ofVal (f : Fmt) (rm : Nat) (sat : Bool) : FVal → Nat × FpFlags
  | .nan => (f.nan, if f.ends = .e2m1 then FpFlags.invalid else FpFlags.zero)
  | .inf neg =>
    match f.ends with
    | .ieee => (f.code neg f.infCode, FpFlags.zero)
    | .e4m3 => if sat then (f.code neg f.maxCode, { FpFlags.zero with ovf := true }) else (f.nan, FpFlags.invalid)
    | .e2m1 => (f.code neg f.maxCode, { FpFlags.zero with ovf := true })
  | .fin neg m e => f.round rm sat neg m e

/-! ### Stochastic rounding -/

/-- One draw of the generator (R175): the new state and the 32 bits drawn. -/
def drawRandom (g : Word) : Word × Nat :=
  let g := g ^^^ (g <<< 13)
  let g := g ^^^ (g >>> 7)
  let g := g ^^^ (g <<< 17)
  (g, g.toNat / 2 ^ 32)

/-- SrRound with a number drawn (R176). -/
def Fmt.srRound (f : Fmt) (rnd : Nat) : FVal → Nat × FpFlags
  | .nan => (f.nan, FpFlags.zero)
  | .inf neg =>
    match f.ends with
    | .ieee => (f.code neg f.infCode, FpFlags.zero)
    | _ => (f.code neg f.maxCode, { FpFlags.zero with ovf := true })
  | .fin neg m e =>
    if m = 0 then (f.code neg 0, FpFlags.zero)
    else
      let u := max (f.unit m e) f.low
      let base := (u - f.low).toNat * 2 ^ f.fb
      if u ≤ e then
        let c := m * 2 ^ (e - u).toNat + base
        if f.maxCode < c then (f.code neg f.maxCode, { FpFlags.zero with ovf := true, nx := true })
        else (f.code neg c, FpFlags.zero)
      else
        let d := 2 ^ (u - e).toNat
        let q := m / d
        let r := m % d
        if f.maxCode < q + base || (f.maxCode = q + base && r != 0) then
          (f.code neg f.maxCode, { FpFlags.zero with ovf := true, nx := true })
        else if r = 0 then (f.code neg (q + base), FpFlags.zero)
        else
          let up := decide (2 ^ 32 ≤ r * 2 ^ 32 / d + rnd)
          let c := (if up then q + 1 else q) + base
          (f.code neg c, { FpFlags.zero with nx := true, uf := decide (q + base < 2 ^ f.fb) })

/-! ### Integers -/

/-- A signed integer as a value. -/
def FVal.ofInt (i : Int) : FVal := .fin (decide (i < 0)) i.natAbs 0

/-- Rounds a value to an integer within a range (R194, R198): a NaN gives 0 and a result outside the range its
limit, both with FNV. -/
def FVal.toRange (rm : Nat) (lo hi : Int) : FVal → Int × FpFlags
  | .nan => (0, FpFlags.invalid)
  | .inf neg => (if neg then lo else hi, FpFlags.invalid)
  | .fin neg m e =>
    let q := quantise rm neg m e 0
    let i : Int := if neg then -q.1 else q.1
    if i < lo then (lo, FpFlags.invalid)
    else if hi < i then (hi, FpFlags.invalid)
    else (i, { FpFlags.zero with nx := q.2 })

end Sys2Proof.Machine
end

