-- ==== Sys2Proof/Machine/Float.lean ====
section
/-! DEFINITION. Floating-point operations on codes (R190 to R196), block quantisation (R167, R204, R205) and the
reduction tree (R177). -/

namespace Sys2Proof.Machine

/-! ### Exact values -/

/-- The sign of a value; a NaN counts as positive. -/
def FVal.neg : FVal → Bool
  | .nan => false
  | .inf s => s
  | .fin s _ _ => s

/-- The value with its sign inverted. -/
def FVal.negate : FVal → FVal
  | .nan => .nan
  | .inf s => .inf (!s)
  | .fin s m e => .fin (!s) m e

/-- A signed magnitude. -/
def signedMag (neg : Bool) (m : Nat) : Int := if neg then -(m : Int) else m

/-- The exact sum (R172, R191); an exact zero of opposite signs is −0 under RDN alone. -/
def FVal.add (rm : Nat) : FVal → FVal → FVal × FpFlags
  | .nan, _ => (.nan, FpFlags.zero)
  | _, .nan => (.nan, FpFlags.zero)
  | .inf s, .inf t => if s = t then (.inf s, FpFlags.zero) else (.nan, FpFlags.invalid)
  | .inf s, _ => (.inf s, FpFlags.zero)
  | _, .inf t => (.inf t, FpFlags.zero)
  | .fin s m e, .fin t n f =>
    let g := min e f
    let v := signedMag s (m * 2 ^ (e - g).toNat) + signedMag t (n * 2 ^ (f - g).toNat)
    if v = 0 then (.fin (if s = t then s else rm == 3) 0 0, FpFlags.zero)
    else (.fin (decide (v < 0)) v.natAbs g, FpFlags.zero)

/-- The exact product. -/
def FVal.mul : FVal → FVal → FVal × FpFlags
  | .nan, _ => (.nan, FpFlags.zero)
  | _, .nan => (.nan, FpFlags.zero)
  | .inf s, .inf t => (.inf (s != t), FpFlags.zero)
  | .inf s, .fin t n _ => if n = 0 then (.nan, FpFlags.invalid) else (.inf (s != t), FpFlags.zero)
  | .fin s m _, .inf t => if m = 0 then (.nan, FpFlags.invalid) else (.inf (s != t), FpFlags.zero)
  | .fin s m e, .fin t n f => (.fin (s != t) (m * n) (e + f), FpFlags.zero)

/-- The quotient with `w` bits at least and a last bit that says whether something remains. -/
def FVal.div (w : Nat) : FVal → FVal → FVal × FpFlags
  | .nan, _ => (.nan, FpFlags.zero)
  | _, .nan => (.nan, FpFlags.zero)
  | .inf _, .inf _ => (.nan, FpFlags.invalid)
  | .inf s, .fin t _ _ => (.inf (s != t), FpFlags.zero)
  | .fin s _ _, .inf t => (.fin (s != t) 0 0, FpFlags.zero)
  | .fin s m e, .fin t n f =>
    if n = 0 then (if m = 0 then (.nan, FpFlags.invalid) else (.inf (s != t), FpFlags.zero))
    else
      let k := Nat.log2 n + w + 1
      let q := m * 2 ^ k / n
      let r := m * 2 ^ k % n
      (.fin (s != t) (if m = 0 then 0 else 2 * q + (if r = 0 then 0 else 1)) (e - f - k - 1), FpFlags.zero)

/-- The integer square root by bits, from bit `k - 1` down. -/
def isqrtFrom (n : Nat) : Nat → Nat → Nat
  | 0, r => r
  | k + 1, r => isqrtFrom n k (if (r + 2 ^ k) ^ 2 ≤ n then r + 2 ^ k else r)

/-- The integer square root. -/
def isqrt (n : Nat) : Nat := isqrtFrom n (Nat.log2 n / 2 + 1) 0

/-- `√(m * 2 ^ e)` with `w` bits at least and a last bit that says whether something remains; `m` not zero. -/
def sqrtOf (w m : Nat) (e : Int) : Nat × Int :=
  let o := (e % 2).toNat
  let n := m * 2 ^ o * 2 ^ (2 * w)
  let r := isqrt n
  (2 * r + (if r * r = n then 0 else 1), (e - o) / 2 - w - 1)

/-- The square root (R191). -/
def FVal.sqrt (w : Nat) : FVal → FVal × FpFlags
  | .nan => (.nan, FpFlags.zero)
  | .inf s => if s then (.nan, FpFlags.invalid) else (.inf s, FpFlags.zero)
  | .fin s m e =>
    if m = 0 then (.fin s 0 0, FpFlags.zero)
    else if s then (.nan, FpFlags.invalid)
    else
      let r := sqrtOf w m e
      (.fin false r.1 r.2, FpFlags.zero)

/-- Rounds a computed value and joins the flags of the computation. -/
def Fmt.finish (f : Fmt) (rm : Nat) (r : FVal × FpFlags) : Nat × FpFlags :=
  let q := f.ofVal rm false r.1
  (q.1, r.2.or q.2)

/-! ### Operations on codes (R190 to R195) -/

/-- a + b. -/
def Fmt.addC (f : Fmt) (rm a b : Nat) : Nat × FpFlags := f.finish rm (FVal.add rm (f.value a) (f.value b))

/-- a − b. -/
def Fmt.subC (f : Fmt) (rm a b : Nat) : Nat × FpFlags := f.finish rm (FVal.add rm (f.value a) (f.value b).negate)

/-- a × b. -/
def Fmt.mulC (f : Fmt) (rm a b : Nat) : Nat × FpFlags := f.finish rm (FVal.mul (f.value a) (f.value b))

/-- a ÷ b. -/
def Fmt.divC (f : Fmt) (rm a b : Nat) : Nat × FpFlags :=
  f.finish rm (FVal.div (f.fb + 3) (f.value a) (f.value b))

/-- √b. -/
def Fmt.sqrtC (f : Fmt) (rm b : Nat) : Nat × FpFlags := f.finish rm (FVal.sqrt (f.fb + 3) (f.value b))

/-- a × b + c with one rounding. A NaN addend does not hide an invalid product. [DEDUCED, log 76] -/
def Fmt.fmaC (f : Fmt) (rm a b c : Nat) : Nat × FpFlags :=
  let p := FVal.mul (f.value a) (f.value b)
  let s := FVal.add rm p.1 (f.value c)
  let fl := if f.value c = .nan then s.2 else p.2.or s.2
  f.finish rm (s.1, fl)

/-- The order of two numbers that are no NaN: negative, zero or positive as the first is less, equal, greater. -/
def FVal.cmp : FVal → FVal → Int
  | .inf s, .inf t => if s = t then 0 else if s then -1 else 1
  | .inf s, _ => if s then -1 else 1
  | _, .inf t => if t then 1 else -1
  | .fin s m e, .fin t n f =>
    let g := min e f
    let v := signedMag s (m * 2 ^ (e - g).toNat) - signedMag t (n * 2 ^ (f - g).toNat)
    if v < 0 then -1 else if v = 0 then 0 else 1
  | _, _ => 0

/-- FMIN and FMAX (R190, R191): one of the inputs unchanged, or the canonical NaN. -/
def Fmt.minMaxC (f : Fmt) (mx : Bool) (a b : Nat) : Nat :=
  let a := a % 2 ^ (f.signAt + 1)
  let b := b % 2 ^ (f.signAt + 1)
  match f.value a, f.value b with
  | .nan, .nan => f.nan
  | .nan, _ => b
  | _, .nan => a
  | x, y =>
    let c := FVal.cmp x y
    if c = 0 then (if x.neg = mx then b else a)
    else if (c < 0) = (mx = true) then b else a

/-- Equal, less, less or equal: 0, 1, 2 (R192). -/
def Fmt.relC (f : Fmt) (op a b : Nat) : Bool × FpFlags :=
  match f.value a, f.value b with
  | .nan, _ => (false, if op = 0 then FpFlags.zero else FpFlags.invalid)
  | _, .nan => (false, if op = 0 then FpFlags.zero else FpFlags.invalid)
  | x, y =>
    let c := FVal.cmp x y
    ((match op with
      | 0 => decide (c = 0)
      | 1 => decide (c < 0)
      | _ => decide (c ≤ 0)), FpFlags.zero)

/-- FCLS (R192). -/
def Fmt.classC (f : Fmt) (b : Nat) : Nat :=
  match f.value b with
  | .nan => 256
  | .inf s => if s then 1 else 128
  | .fin s m _ =>
    if m = 0 then (if s then 8 else 16)
    else if m < 2 ^ f.fb then (if s then 4 else 32)
    else (if s then 2 else 64)

/-- FRND (R194): the integral value in the mode; FNX alone. -/
def Fmt.integralC (f : Fmt) (rm b : Nat) : Nat × FpFlags :=
  match f.value b with
  | .nan => (f.nan, FpFlags.zero)
  | .inf s => (f.code s f.infCode, FpFlags.zero)
  | .fin s m e =>
    let q := quantise rm s m e 0
    ((f.round rm false s q.1 0).1, { FpFlags.zero with nx := q.2 })

/-- A conversion of a value to a format: rounded in RM, or stochastically with one draw (R193, R194, R198). -/
def Fmt.convert (f : Fmt) (rm : Nat) (sr : Bool) (g : Word) (v : FVal) : (Nat × FpFlags) × Word :=
  if sr then
    let d := drawRandom g
    (f.srRound d.2 v, d.1)
  else (f.ofVal rm false v, g)

/-! ### Approximations (R196) -/

/-- `log2 (m / 2 ^ k)` for `2 ^ k ≤ m < 2 ^ (k + 1)`, as `n` binary digits after the point. -/
def log2Digits (k : Nat) : Nat → Nat → Nat
  | 0, _ => 0
  | n + 1, m =>
    let q := m * m / 2 ^ k
    if 2 ^ (k + 1) ≤ q then 2 ^ n + log2Digits k n (q / 2) else log2Digits k n q

/-- Working bits of the logarithm and the exponential. -/
def workBits : Nat := 256

/-- log2 of `m * 2 ^ e`, `m` not zero, as a value with 192 digits after the point and a last bit for the rest. -/
def log2Val (m : Nat) (e : Int) : FVal :=
  let l := Nat.log2 m
  let whole : Int := e + l
  if m = 2 ^ l then .fin (decide (whole < 0)) whole.natAbs 0
  else
    let d := log2Digits workBits 192 (m * 2 ^ workBits / 2 ^ l)
    let v : Int := (whole * 2 ^ 192 + d) * 2 + 1
    .fin (decide (v < 0)) v.natAbs (-193)

/-- `2 ^ f` for `f` of binary digits (first the most significant), in units of `2 ^ -workBits`: the product of
the square roots of 2, of √2, and so on, that the digits select. -/
def exp2Frac : List Bool → Nat → Nat
  | [], _ => 2 ^ workBits
  | b :: bs, r =>
    let rest := exp2Frac bs (isqrt (r * 2 ^ workBits))
    if b then rest * r / 2 ^ workBits else rest

/-- `2 ^ v` for `v` of sign, `m * 2 ^ e`: sign, magnitude and exponent with a last bit for the rest. -/
def exp2Val (neg : Bool) (m : Nat) (e : Int) : FVal :=
  let u : Int := -160
  let q := if u ≤ e then m * 2 ^ (e - u).toNat else m / 2 ^ (u - e).toNat
  let v : Int := if decide (e < u) && neg then -(q + 1 : Nat) else signedMag neg q
  let whole := v / 2 ^ 160
  let frac := (v % 2 ^ 160).toNat
  if 0 ≤ e then .fin false 1 (signedMag neg (m * 2 ^ e.toNat))
  else if frac = 0 && decide (u ≤ e) then .fin false 1 whole
  else
    let ds := (upTo 160).map (fun k => frac.testBit (159 - k))
    let p := exp2Frac ds (isqrt (2 * 2 ^ (2 * workBits)))
    .fin false (2 * p + 1) (whole - workBits - 1)

/-- An exact value rounded toward zero as a magnitude code of a format without an upper limit, and whether it is
exact. -/
def Fmt.floorCode (f : Fmt) (m : Nat) (e : Int) : Nat × Bool :=
  if m = 0 then (0, true)
  else
    let u := max (f.unit m e) f.low
    let q := quantise 1 false m e u
    (q.1 + (u - f.low).toNat * 2 ^ f.fb, !q.2)

/-- A binary32 result within `ulps` of a finite value: the free choice of R196 among the codes in the bound. An ulp is the step from one
binary32 code to the next. [DESIGN CHOICE, log 12] -/
def approxCode (fn ulps : Nat) (x : Nat) (neg : Bool) (m : Nat) (e : Int) : Nat × FpFlags :=
  let c := fp32.floorCode m e
  let lo := if c.2 then c.1 - ulps else c.1 - (ulps - 1)
  let hi := c.1 + ulps
  let r := lo + Config.approx fn (BitVec.ofNat 32 x) % (hi - lo + 1)
  if fp32.maxCode < r then fp32.overflow 0 false neg
  else (fp32.code neg r, { FpFlags.zero with nx := true, uf := decide (r < 2 ^ 23) })

/-- One of the four functions of R196 on a binary32 code: 0 VRCP, 1 VRSQ, 2 VEXP2, 3 VLOG2. -/
def approxF32 (fn x : Nat) : Nat × FpFlags :=
  let bad := (fp32.nan, FpFlags.invalid)
  let inf (s : Bool) := (fp32.code s fp32.infCode, FpFlags.zero)
  let one := 127 * 2 ^ 23
  match fp32.value x, fn with
  | .nan, _ => (fp32.nan, FpFlags.zero)
  | .inf s, 0 => (fp32.code s 0, FpFlags.zero)
  | .inf s, 1 => if s then bad else (0, FpFlags.zero)
  | .inf s, 2 => if s then (0, FpFlags.zero) else inf false
  | .inf s, _ => if s then bad else inf false
  | .fin s m e, 0 =>
    if m = 0 then inf s
    else
      let l := Nat.log2 m
      let t : Int := -(e + l)
      if m = 2 ^ l && decide (-126 ≤ t) && decide (t ≤ 127) then
        (fp32.code s ((t + 127).toNat * 2 ^ 23), FpFlags.zero)
      else
        let k := l + 64
        let q := 2 ^ k / m
        approxCode 0 1 x s (2 * q + (if 2 ^ k % m = 0 then 0 else 1)) (-e - k - 1)
  | .fin s m e, 1 =>
    if m = 0 then inf s
    else if s then bad
    else
      let l := Nat.log2 m
      let t : Int := e + l
      if m = 2 ^ l && t % 2 = 0 then (((-t) / 2 + 127).toNat * 2 ^ 23, FpFlags.zero)
      else
        let o := (e % 2).toNat
        let n := m * 2 ^ o
        let k := 2 * (Nat.log2 n + 48)
        let r := isqrt (2 ^ k / n)
        approxCode 1 1 x false (2 * r + (if r * r * n = 2 ^ k then 0 else 1)) (-((e - o) / 2) - k / 2 - 1)
  | .fin s m e, 2 =>
    if m = 0 then (one, FpFlags.zero)
    else if decide (64 ≤ e + Nat.log2 m) then
      (if s then (0, { FpFlags.zero with uf := true, nx := true }) else fp32.overflow 0 false false)
    else match exp2Val s m e with
      | .fin _ m' e' =>
        if m' = 1 && decide (-126 ≤ e') && decide (e' ≤ 127) then ((e' + 127).toNat * 2 ^ 23, FpFlags.zero)
        else if m' = 1 && decide (127 < e') then fp32.overflow 0 false false
        else approxCode 2 2 x false m' e'
      | _ => bad
  | .fin s m e, _ =>
    if m = 0 then inf true
    else if s then bad
    else match log2Val m e with
      | .fin s' m' e' =>
        if m = 2 ^ Nat.log2 m then (fp32.round 0 false (s' && m' != 0) m' e').1 |> fun c => (c, FpFlags.zero)
        else approxCode 3 2 x s' m' e'
      | _ => bad

/-- The functions of R196 in a type f32, bf16 or f16. A non-zero result below the type's normal range is no exact case: it sets
FUF and FNX. -/
def approxC (t fn x : Nat) : Nat × FpFlags :=
  let f := fmtOf t
  if t = 0 then approxF32 fn x
  else
    let w := fp32.ofVal 0 false (f.value x)
    let a := approxF32 fn w.1
    let r := f.ofVal 0 false (fp32.value a.1)
    let low := r.1 % 2 ^ f.signAt != 0 && decide (r.1 % 2 ^ f.signAt < 2 ^ f.fb)
    (r.1, (a.2.or r.2).or { FpFlags.zero with uf := low, nx := low })

/-! ### Sums in the fixed tree (R177, R202) -/

/-- One level of the pairwise tree on neighbours: an absent term with x gives x. -/
def treeLevel {α : Type} (f : α → α → α × FpFlags) : List (Option α) → List (Option α) × FpFlags
  | a :: b :: rest =>
    let r := treeLevel f rest
    match a, b with
    | some x, some y =>
      let q := f x y
      (some q.1 :: r.1, q.2.or r.2)
    | some x, none => (some x :: r.1, r.2)
    | none, y => (y :: r.1, r.2)
  | [a] => ([a], FpFlags.zero)
  | [] => ([], FpFlags.zero)

/-- The pairwise tree over a list, in at most `n` levels. -/
def treeOf {α : Type} (f : α → α → α × FpFlags) : Nat → List (Option α) → Option α × FpFlags
  | 0, l => (match l with
    | a :: _ => a
    | [] => none, FpFlags.zero)
  | n + 1, l =>
    if l.length ≤ 1 then (match l with
      | a :: _ => a
      | [] => none, FpFlags.zero)
    else
      let r := treeLevel f l
      let q := treeOf f n r.1
      (q.1, r.2.or q.2)

/-! ### Block quantisation -/

/-- The quotient exponent ⌊log2 amax⌋ of the finite values of a block; none when they are all zero. -/
def blockTop (vs : List FVal) : Option Int :=
  vs.foldl (fun a v =>
    match v with
    | .fin _ m e =>
      if m = 0 then a
      else
        let t : Int := e + Nat.log2 m
        match a with
        | none => some t
        | some x => some (max x t)
    | _ => a) none

/-- emax of an element format (R167). -/
def emaxOf (f : Fmt) : Int :=
  match f.ends with
  | .ieee => 15
  | .e4m3 => 8
  | .e2m1 => 2

/-- One element of an MX block under scale exponent X (R167 rules 3 to 5). -/
def mxElem (f : Fmt) (rm : Nat) (rnd : Option Nat) (x : Int) (v : FVal) : Nat × FpFlags :=
  match v with
  | .nan => (f.nan, if f.ends = .e2m1 then FpFlags.invalid else FpFlags.zero)
  | .inf s =>
    if f.ends = .ieee then (f.code s f.infCode, FpFlags.zero)
    else (f.code s f.maxCode, { FpFlags.zero with ovf := true })
  | .fin s m e =>
    match rnd with
    | some r => f.srRound r (.fin s m (e - x))
    | none =>
      let q := f.round rm true s m (e - x)
      if f.maxCode < q.1 % 2 ^ f.signAt then (f.code s f.maxCode, { q.2 with nv := false }) else q

/-- The elements of an MX block, in ascending order, each with its draw if `sr`. -/
def mxElems (f : Fmt) (rm : Nat) (sr : Bool) (x : Int) : Word → List FVal → List Nat × FpFlags × Word
  | g, [] => ([], FpFlags.zero, g)
  | g, v :: vs =>
    let d := drawRandom g
    let q := mxElem f rm (if sr then some d.2 else none) x v
    let r := mxElems f rm sr x (if sr then d.1 else g) vs
    (q.1 :: r.1, q.2.or r.2.1, r.2.2)

/-- Quantises an MX block (R167): elements, scale code, flags, generator. -/
def mxBlock (f : Fmt) (rm : Nat) (sr : Bool) (g : Word) (vs : List FVal) : List Nat × Nat × FpFlags × Word :=
  let x := match blockTop vs with
    | none => (0 : Int)
    | some t => max (-127) (min 127 (t - emaxOf f))
  let r := mxElems f rm sr x g vs
  (r.1, (x + 127).toNat, r.2.1, r.2.2)

/-- k of the NQ4 codebook (R169). -/
def nq4k : List Int := [-64, -44, -33, -25, -18, -12, -6, 0, 5, 10, 16, 22, 29, 37, 47, 64]

/-- NearestNQ4 (R171) of `num / den`, in units of 1/64: the nearest k, on a tie the smaller |k|. -/
def nearestNq4 (num : Int) (den : Nat) : Nat :=
  let far (k : Int) : Nat := (num - k * den).natAbs
  (upTo 16).foldl (fun a c =>
    let ka := nq4k.getD a 0
    let kc := nq4k.getD c 0
    if far kc < far ka || (far kc = far ka && kc.natAbs < ka.natAbs) then c else a) 0

/-- `m * 2 ^ e` over `n * 2 ^ f` as a fraction. -/
def ratio (m : Nat) (e : Int) (n : Nat) (f : Int) : Nat × Nat :=
  if f ≤ e then (m * 2 ^ (e - f).toNat, n) else (m, n * 2 ^ (f - e).toNat)

/-- Quantises an NQ4 block (R205): codes, q, flags. `s` is the super scale's code. -/
def nq4Block (s : Nat) (vs : List FVal) : List Nat × Nat × FpFlags :=
  match fp32.value s with
  | .fin false n f =>
    let q := vs.foldl (fun a v =>
      match v with
      | .fin _ m e =>
        if m = 0 || n = 0 then a
        else
          let r := ratio m e n f
          max a (min 255 (ceilDiv (r.1 * 255) r.2))
      | _ => a) 0
    let one (v : FVal) : Nat × FpFlags :=
      match v with
      | .nan => (7, FpFlags.invalid)
      | .inf neg =>
        if q = 0 then (7, FpFlags.zero) else (if neg then 0 else 15, { FpFlags.zero with ovf := true })
      | .fin neg m e =>
        if q = 0 then (7, { FpFlags.zero with nx := m != 0 })
        else
          let r := ratio m e (n * q) f
          let num : Int := signedMag neg (r.1 * 255 * 64)
          let c := nearestNq4 num r.2
          (c, { FpFlags.zero with nx := decide (num ≠ nq4k.getD c 0 * r.2),
                                  ovf := decide (r.2 < r.1 * 255) })
    let cs := vs.map one
    (cs.map (·.1), q, cs.foldl (fun a c => a.or c.2) FpFlags.zero)
  | _ => (vs.map (fun _ => 7), 0, FpFlags.invalid)

end Sys2Proof.Machine
end

