-- ==== Sys2Proof/Machine/Memory.lean ====
section
/-! DEFINITION. Memory: the per-context map (R86), local memory with its undo log (R87, R94), cluster memory
(R90, R91), translation (R54 to R66), the access tables (R67, R68), and the checks of R100. -/

namespace Sys2Proof.Machine

/-! ### Error marks (R359) -/

/-- The bytes of the word or line that a mark names. -/
def ErrMark.size (m : ErrMark) : Nat :=
  match m.store with
  | .phys => 64
  | _ => 8

/-- A mark of a store touches a range. -/
def ErrMark.meets (m : ErrMark) (st : Store) (a n : Nat) : Bool :=
  m.store == st && decide (m.addr < a + n) && decide (a < m.addr + m.size)

/-- An uncorrectable error lies in a range. -/
def State.hardErr (s : State) (st : Store) (a n : Nat) : Bool := s.errs.any (fun m => m.hard && m.meets st a n)

/-- A correctable error lies in a range. -/
def State.softErr (s : State) (st : Store) (a n : Nat) : Bool := s.errs.any (fun m => !m.hard && m.meets st a n)

/-- A whole-line write clears the error of each line that it covers (R359). -/
def State.clearErr (s : State) (st : Store) (a n : Nat) : State :=
  if s.errs.isEmpty then s
  else { s with errs := s.errs.filter (fun m =>
    !(m.store == st && decide (a ≤ m.addr / 64 * 64) && decide (m.addr / 64 * 64 + 64 ≤ a + n))) }

/-- A core reads a corrected word: the device writes it back corrected and counts the event for the launch
whose group the core runs (R359, R360). [DEDUCED, log 55] -/
def State.correct (s : State) (p : Nat) (st : Store) (a n : Nat) : State :=
  if s.softErr st a n then
    let s := { s with errs := s.errs.filter (fun m => !(!m.hard && m.meets st a n)) }
    match (s.core p).group, s.partOf p with
    | some g, some q => s.modPart q (fun x =>
        { x with launches := x.launches.map (fun l =>
            if l.serial == g.launch then { l with cause := l.cause ||| 1#8, verd := max l.verd 1 } else l) })
    | _, _ => s
  else s

/-! ### Local memory and the undo log -/

/-- Logs a local line before the first write of the interval to it (R94, R95): a line that is not logged while EN is 0, or when
4,096 are, sets OVF, and it is logged at a later write of the interval that finds EN 1 and a free line. [DEDUCED, log 35] -/
def Core.logLine (c : Core) (line : Nat) : Core :=
  if c.ulog.any (fun l => l.line == line) then c
  else if !c.ulogEn || 4096 ≤ c.ulog.length then { c with ovf := true }
  else { c with ulog := c.ulog ++ [{ line := line, old := BitVec.ofNat 512 (bread c.mem (line * 64) 64) }] }

/-- Logs the lines that `n` bytes from `a` touch. -/
def Core.logLines (c : Core) (a n : Nat) : Core :=
  (upTo ((a % 64 + n + 63) / 64)).foldl (fun c k => c.logLine (a / 64 + k)) c

/-- Writes `n` bytes of a number into local memory. -/
def Core.writeLocal (c : Core) (a n v : Nat) : Core :=
  let c := c.logLines a n
  { c with mem := bwrite c.mem a n v }

/-- The log lines of earlier intervals once the present one is discarded: its own take their places. -/
def Core.pastLog (c : Core) : List LogLine := c.ulog ++ c.ulogPast.drop c.ulog.length

/-- Rolls a core's local memory back to the start of the interval (R96). -/
def Core.rollback (c : Core) : Core :=
  { c with mem := c.ulog.foldl (fun m l => bwrite m (l.line * 64) 64 l.old.toNat) c.mem, ulog := [], ulogPast := c.pastLog }

/-- Restarts a core's log (R94). [DEDUCED, log 35] -/
def Core.restartLog (c : Core) : Core := { c with ulog := [], ulogPast := c.pastLog, ovf := false }

/-! ### Cluster memory -/

/-- First byte of cluster memory. -/
def cluBase : Nat := 0x01000000

/-- First byte of the undo-log region (R91). -/
def logBase : Nat := 0x029C0000

/-- One past the last byte of cluster memory. -/
def cluEnd : Nat := 0x02C00000

/-- The log line at a place of a core's log: of this interval, or left by an earlier one. -/
def Core.logged (c : Core) (k : Nat) : Option LogLine :=
  match c.ulog[k]? with
  | some l => some l
  | none => c.ulogPast[k]?

/-- Replaces the log line at a place of a core's log. -/
def Core.setLogged (c : Core) (k : Nat) (l : LogLine) : Core :=
  if k < c.ulog.length then { c with ulog := c.ulog.set k l } else { c with ulogPast := c.ulogPast.set k l }

/-- The core whose log holds an address of the undo-log region (R91). -/
def logCore (cl a : Nat) : Nat := coreAt cl ((a - logBase) / 0x40000)

/-- The place in that core's log. -/
def logPlace (a : Nat) : Nat := (a - logBase) % 0x40000 / 64

/-- The log line that a byte of the undo-log region shows. -/
def State.logAt (s : State) (cl a : Nat) : Option LogLine := (s.core (logCore cl a)).logged (logPlace a)

/-- Each 16-byte block of a line through a function of its number (R88). -/
def mapBlocks (f : Nat → BitVec 128 → BitVec 128) (v : VWord) : VWord :=
  f 3 (v.extractLsb' 384 128) ++ f 2 (v.extractLsb' 256 128) ++ f 1 (v.extractLsb' 128 128) ++ f 0 (v.extractLsb' 0 128)

/-- What cluster memory shows of a log line (R88, R90, R94): the core's ciphertext, deciphered with the cluster's key. [DEDUCED, log 15] -/
def State.logView (s : State) (cl a : Nat) (l : LogLine) : VWord :=
  let key := (s.cluster cl).keyNo
  mapBlocks (fun b x => (Config.cluCipher key cl ((a - cluBase) / 64) b).symm
    (Config.coreCipher key (logCore cl a) l.line b x)) l.old

/-- The plaintext that rollback writes for a log line that cluster memory shows so. [DEDUCED, log 15] -/
def State.logBack (s : State) (cl a : Nat) (l : LogLine) (seen : VWord) : VWord :=
  let key := (s.cluster cl).keyNo
  mapBlocks (fun b x => (Config.coreCipher key (logCore cl a) l.line b).symm
    (Config.cluCipher key cl ((a - cluBase) / 64) b x)) seen

/-- A byte of cluster memory. A byte of a log line shows the line's ciphertext through the cluster's key. [DEDUCED, log 15] -/
def State.cluByte (s : State) (cl a : Nat) : Byte :=
  if a < logBase then bget (s.cluster cl).mem a
  else match s.logAt cl a with
    | none => bget (s.cluster cl).mem a
    | some l => BitVec.ofNat 8 (bits (s.logView cl a l).toNat (8 * (a % 64)) 8)

/-- `n` bytes of cluster memory as a number. -/
def State.cluRead (s : State) (cl a : Nat) : Nat → Nat
  | 0 => 0
  | n + 1 => (s.cluByte cl a).toNat + 256 * s.cluRead cl (a + 1) n

/-- Writes a byte of the undo-log region: a log line then holds what deciphers to it. [DEDUCED, log 15] -/
def State.logPut (s : State) (cl a : Nat) (v : Byte) : State :=
  match s.logAt cl a with
  | none => s.modCluster cl (fun c => { c with mem := bset c.mem a v })
  | some l =>
    let seen := BitVec.ofNat 512 (withBits (s.logView cl a l).toNat (8 * (a % 64)) 8 v.toNat)
    s.modCore (logCore cl a) (fun c => c.setLogged (logPlace a) { l with old := s.logBack cl a l seen })

/-- Writes `n` bytes of a number into cluster memory. -/
def State.cluWrite (s : State) (cl a n v : Nat) : State :=
  if a + n ≤ logBase then s.modCluster cl (fun c => { c with mem := bwrite c.mem a n v })
  else (upTo n).foldl (fun s k =>
    let b := BitVec.ofNat 8 (v / 256 ^ k)
    if a + k < logBase then s.modCluster cl (fun c => { c with mem := bset c.mem (a + k) b }) else s.logPut cl (a + k) b) s

/-- The banks of cluster memory that the lines of an access lie in (R90). -/
def banksOf (a n : Nat) : List Nat := (upTo ((a % 64 + n + 63) / 64)).map (fun k => (a / 64 + k) % 32)

/-! ### Physical addresses (R54, R55) -/

/-- What a physical address holds. -/
inductive Tier where
  /-- HBM4E or LPDDR-6 of a die. -/
  | dev (die : Nat)
  /-- Host memory. -/
  | host
  /-- Nothing. -/
  | hole
  deriving DecidableEq, Repr

/-- The tier of a physical address. -/
def tierOf (pa : Nat) : Tier :=
  if pa < 0x4000000000 then .dev 0
  else if pa < 0x8000000000 then .dev 1
  else if 0x10000000000 ≤ pa && pa < 0x16000000000 then .dev 0
  else if 0x18000000000 ≤ pa && pa < 0x1E000000000 then .dev 1
  else if 0x8000000000000 ≤ pa && pa < 0x10000000000000 then .host
  else .hole

/-- The access-table number of the target that owns a physical address: home slice die * 16 + PA[15:12], or the
PCIe controller. -/
def targetOf (pa : Nat) : Nat :=
  match tierOf pa with
  | .dev d => d * 16 + pa / 4096 % 16
  | .host => 0x3000
  | .hole => 0xFFFF

/-- The master ID of an agent of a cluster site (R67). -/
def masterOf (cl agent : Nat) : Nat := cl / 256 * 4096 + cl % 256 * 16 + agent

/-- The FW partition (R68). -/
def fwPart : Nat := 16

/-- A row's right for a kind of access. -/
def AccessRow.right (r : AccessRow) (acc : Nat) : Bool := if acc == 0 || acc == 3 then r.r else if acc == 1 then r.w else r.a

/-- A master's row in a target's access table. -/
def State.rowOf (s : State) (target master : Nat) : Option AccessRow :=
  s.access.find? (fun r => r.target == target && r.master == master)

/-- The range entry of a target that holds an address: a target keeps 64 (R67). -/
def State.rangeAt (s : State) (target pa : Nat) : Option Range :=
  ((s.ranges.filter (fun x => x.target == target)).take 64).find? (fun x => decide (x.base ≤ pa) && decide (pa ≤ x.limit))

/-- A range entry is open to a master that carries partition `q` (R67, R68): it belongs to the partition, admits the master and
is not being zeroed; the supervisor cores and Markhor read and write the ranges of every partition. -/
def Range.opens (x : Range) (master q acc : Nat) (fw : Bool) : Bool :=
  let admits := match x.only with
    | some m => m == master
    | none => true
  let owner := x.part == q || (q == fwPart && fw && x.part < 16
    && (master / 16 % 256 == 176 || master / 16 % 256 == 177) && acc != 2)
  owner && admits && x.next.isNone

/-- The physical address of a die's Chestnut segment: 2 MiB of that die's HBM4E, at a multiple of 64 KiB (R350). [DESIGN CHOICE, log 79] -/
def State.chestAt (s : State) (d : Nat) : Nat :=
  d * 0x4000000000 + min ((s.die d).chestBase / 0x10000 * 0x10000) (0x4000000000 - 0x200000)

/-- A Chestnut segment of either die lies in a range of bytes, and the master is not the scheduler of its home slice 0 (R350). -/
def State.chestBars (s : State) (master pa n : Nat) : Bool :=
  [0, 1].any (fun d => decide (s.chestAt d < pa + n) && decide (pa < s.chestAt d + 0x200000) && master != d * 4096 + 160 * 16 + 15)

/-- The owning targets permit an access to `n` bytes at `pa` (R67, R68): at each 4 KiB of a slice, and each range entry, that it
touches, the master's row gives the right and the range is open. `carried` is the partition that the request carries, if its
master does not take the row's own. The first argument bounds the pieces. -/
def State.permitsFrom (s : State) (master : Nat) (carried : Option Nat) (acc : Nat) : Nat → Nat → Nat → Bool
  | 0, _, _ => false
  | fuel + 1, pa, n =>
    match s.rowOf (targetOf pa) master, s.rangeAt (targetOf pa) pa with
    | some r, some x =>
      let q := match carried with
        | some q => q
        | none => r.part
      let m := min n (min (x.limit + 1 - pa) (4096 - pa % 4096))
      r.right acc && x.opens master q acc (r.part == fwPart) && (m == n || s.permitsFrom master carried acc fuel (pa + m) (n - m))
    | _, _ => false

/-- The owning targets permit an access to `n` bytes at `pa`. -/
def State.permits (s : State) (master : Nat) (carried : Option Nat) (acc pa n : Nat) : Bool :=
  !(s.chestBars master pa n) && s.permitsFrom master carried acc 128 pa n

/-- The lane of the row on which an Ethernet port stands (R14). -/
def portLane (port : Nat) : Nat := [1, 3, 6, 8].getD (port % 4) 1

/-- The row lane on which a home slice's requests cross the Sahdan link (R13, R15, R57). [DEDUCED, log 82] -/
def laneOf (slice : Nat) : Nat := if slice % 16 < 8 then 0 else 9

/-- The die on which a physical address is served; the PCIe controller stands on die 0 (R14). -/
def dieOfPa (pa : Nat) : Nat :=
  match tierOf pa with
  | .dev d => d
  | _ => 0

/-- The row lane on which what a master sends to the other die crosses: that of its own row (R8, R13 to R15, R68). [DEDUCED, log 82] -/
def masterLane (master : Nat) : Nat :=
  let site := master / 16 % 256
  if site < 160 then site / 16
  else if site < 176 then laneOf (site - 160)
  else if site = 176 then 5
  else if site = 177 then 0
  else if site = 178 then 4
  else if site = 179 then portLane (master % 16)
  else master % 16

/-- The row lane on which an answer from what serves a physical address crosses: that of its slice, or of the PCIe controller (R14, R15,
R57). [DEDUCED, log 82] -/
def backLane (pa : Nat) : Nat := if tierOf pa = .host then 4 else laneOf (pa / 4096)

/-- A flit of a row lane has failed its CRC and is still to be sent again from the sender's buffer: what crosses on the lane stands behind it
(R383). [DEDUCED, log 55] -/
def State.laneHolds (s : State) (lane : Nat) : Bool := mget 0 s.replays lane != 0

/-- What a home slice of a die sends to serve a physical address waits at the Sahdan link: its lane, or the lane of the answer, holds, or the
far die relocks (R383, R385). [DEDUCED, log 55, 69] -/
def State.stalls (s : State) (die slice pa : Nat) : Bool :=
  dieOfPa pa != die && (s.laneHolds (laneOf slice) || s.laneHolds (backLane pa) || (s.die (dieOfPa pa)).relock)

/-- No lane of the Sahdan link holds and no die relocks. -/
def State.linkQuiet (s : State) : Bool := s.replays.all (fun r => r.2 == 0) && !s.die0.relock && !s.die1.relock

/-- A request that crosses to the other die passes the table of its lane's Sahdan endpoint (R67, R383). [DEDUCED, log 82] -/
def State.crosses (s : State) (master acc pa slice : Nat) : Bool :=
  dieOfPa pa == master / 4096 % 2 || match s.rowOf (0x4000 + laneOf slice) master with
    | some r => r.right acc
    | none => false

/-- The 4 KiB units, by number, that `n` bytes at a physical address lie in: each belongs to one home slice (R55). -/
def unitsOf (pa n : Nat) : List Nat := (upTo ((pa % 4096 + n + 4095) / 4096)).map (fun k => pa / 4096 + k)

/-- Every target on the way of a translated request permits it: the endpoint of each unit's lane, where it crosses, and the owning
targets (R67). -/
def State.mayReach (s : State) (master : Nat) (carried : Option Nat) (acc pa n : Nat) : Bool :=
  (unitsOf pa n).all (s.crosses master acc pa) && s.permits master carried acc pa n

/-- The target that refuses a request whose bytes start at `pa`, going upward: the endpoint of its lane or the owner of the first bytes
that are refused (R67). -/
def State.refuser (s : State) (master : Nat) (carried : Option Nat) (acc : Nat) : Nat → Nat → Nat
  | 0, pa => targetOf pa
  | fuel + 1, pa =>
    if !(s.crosses master acc pa (pa / 4096)) then 0x4000 + laneOf (pa / 4096)
    else if !(s.permits master carried acc pa 1) then targetOf pa
    else
      let unit := 4096 - pa % 4096
      s.refuser master carried acc fuel (pa + match s.rangeAt (targetOf pa) pa with
        | some x => min unit (x.limit + 1 - pa)
        | none => unit)

/-! ### Page tables (R59 to R62) -/

/-- A page-table entry read from physical memory. -/
def State.pte (s : State) (pa : Nat) : Nat := bread s.phys pa 8

/-- The master ID of the page-table walkers of a slice (R68). -/
def walkAgent (slice : Nat) : Nat := slice / 16 * 4096 + (160 + slice % 16) * 16 + 13

/-- The page-table walkers of a slice may make an access of `n` bytes: 0 a read, 2 the compare-and-swap of R62. -/
def State.walkMay (s : State) (slice carried acc pa n : Nat) : Bool :=
  s.crosses (walkAgent slice) acc pa slice && s.permits (walkAgent slice) (some carried) acc pa n

/-- The page-table walkers of a slice may read `n` bytes. -/
def State.walkRead (s : State) (slice carried pa n : Nat) : Bool := s.walkMay slice carried 0 pa n

/-- The fault kinds of a leaf for an access (R65): 3 read, 4 write, 5 fetch; 2 atomic needs both. [DEDUCED, log 23] -/
def leafKinds (r w x : Bool) (acc : Nat) : List Nat :=
  (if (acc == 0 || acc == 2) && !r then [3] else []) ++ (if (acc == 1 || acc == 2) && !w then [4] else [])
    ++ (if acc == 3 && !x then [5] else [])

/-- The lowest of several fault kinds, 0 for none. -/
def lowestKind (ks : List Nat) : Nat := ks.foldl (fun a k => if a = 0 || k < a then k else a) 0

/-- A leaf found by a walk: where it stands, its word, page size and physical base. -/
structure Leaf where
  /-- Physical address of the entry. -/
  at' : Nat
  /-- The entry. -/
  word : Nat
  /-- Page size in bytes. -/
  size : Nat
  /-- First physical byte of the page. -/
  base : Nat
  deriving DecidableEq, Repr

/-- What is malformed in an entry of a level (R60, R61). [DEDUCED, log 23] -/
def malformed (level e : Nat) : Bool :=
  bits e 52 12 != 0 || bits e 9 3 != 0 ||
    (if e.testBit 1 then
      (match level with
        | 1 => (match bits e 2 2 with
          | 0 => bits e 12 4 != 0
          | 1 => bits e 12 9 != 0
          | _ => true)
        | 2 => bits e 2 2 != 2 || bits e 12 18 != 0
        | _ => true)
    else level == 1 || bits e 2 7 != 0 || e.testBit 12)

/-- Why a translation fails (R65): the fault kind, and for kind 8 the physical address of the entry that was refused. -/
abbrev XFail := Nat × Nat

/-- Walks from the table of a level at `base` for a virtual address: a leaf or a fault (R61, R65). [DEDUCED, log 23] -/
def State.walkFrom (s : State) (slice q va acc : Nat) : Nat → Nat → Except XFail Leaf
  | 0, _ => .error (6, 0)
  | level + 1, base =>
    let idx := if level = 3 then bits va 46 11 else bits va (16 + 10 * level) 10
    let pa := base + 8 * idx
    if !(s.walkRead slice q pa 8) then .error (8, pa)
    else
      let e := s.pte pa
      if !e.testBit 0 then .error (2, 0)
      else if e.testBit 1 then
        let size := if level = 1 then 0x40000000 else if bits e 2 2 = 1 then 0x200000 else 0x10000
        let page := bits e 12 40 * 4096 / size * size
        let ks := leafKinds (e.testBit 4) (e.testBit 5) (e.testBit 6) acc
          ++ (if malformed (level + 1) e then [6] else []) ++ (if tierOf page = .hole then [7] else [])
        if ks.isEmpty then .ok { at' := pa, word := e, size := size, base := page }
        else .error (lowestKind ks, 0)
      else if malformed (level + 1) e then .error (6, 0)
      else s.walkFrom slice q va acc level (bits e 12 40 * 4096)

/-- The entries that a walk from the table of a level reads. -/
def State.walkPath (s : State) (va : Nat) : Nat → Nat → List Nat
  | 0, _ => []
  | level + 1, base =>
    let idx := if level = 3 then bits va 46 11 else bits va (16 + 10 * level) 10
    let pa := base + 8 * idx
    let e := s.pte pa
    pa :: (if e.testBit 0 && !e.testBit 1 then s.walkPath va level (bits e 12 40 * 4096) else [])

/-- The table entries that a walk for a virtual address of a context ID reads (R59, R61). -/
def State.walkReads (s : State) (cid : BitVec 12) (va : Nat) : List Nat :=
  let ea := s.ctxBase + 16 * cid.toNat
  let lo := bread s.phys ea 8
  ea :: (if lo.testBit 0 then s.walkPath va 4 (bits lo 14 38 * 16384) else [])

/-- Correctable errors that a walker has read are written back corrected (R359). [DEDUCED, log 55] -/
def State.mend (s : State) (as : List Nat) : State :=
  if s.errs.isEmpty then s
  else { s with errs := s.errs.filter (fun m => m.hard || !(as.any (fun a => m.meets .phys a 8))) }

/-- Walks the tables of a context ID (R59, R61, R62). On success the leaf gains A, and D on a write, by a compare-and-swap that the
access tables check as an atomic, and the translation is cached. [DEDUCED, log 21, 22, 83] -/
def State.walk (s : State) (slice : Nat) (cid : BitVec 12) (va acc : Nat) : Except XFail (Tlb × State) :=
  let ea := s.ctxBase + 16 * cid.toNat
  if !(s.walkRead slice fwPart ea 16) then .error (8, ea)
  else
    let lo := bread s.phys ea 8
    let hi := bread s.phys (ea + 8) 8
    if !lo.testBit 0 || hi != 0 || bits lo 52 12 != 0 || bits lo 5 9 != 0 then .error (1, 0)
    else
      let q := bits lo 1 4
      match s.walkFrom slice q va acc 4 (bits lo 14 38 * 16384) with
      | .error k => .error k
      | .ok l =>
        let wr := acc == 1 || acc == 2
        let word := l.word ||| 0x80 ||| (if wr then 0x100 else 0)
        let t : Tlb :=
          { cid := cid, part := q, va := va / l.size * l.size, size := l.size, pa := l.base,
            r := word.testBit 4, w := word.testBit 5, x := word.testBit 6, d := word.testBit 8 }
        if word != l.word && !(s.walkMay slice q 2 l.at' 8) then .error (8, l.at')
        else
          let s := s.mend (ea :: (ea + 8) :: s.walkPath va 4 (bits lo 14 38 * 16384))
          let s := if word = l.word || s.hardErr .phys l.at' 8 then s else { s with phys := bwrite s.phys l.at' 8 word }
          .ok (t, s.modSlice slice (fun z =>
            { z with tlb := (t :: z.tlb.filter (fun u =>
                !(u.cid == cid && decide (u.va < t.va + t.size) && decide (t.va < u.va + u.size)))).take 4096 }))

/-- A cached translation of an address. [DEDUCED, log 22] -/
def Slice.hit (z : Slice) (cid : BitVec 12) (va : Nat) : Option Tlb :=
  z.tlb.find? (fun t => t.cid == cid && decide (t.va ≤ va) && decide (va < t.va + t.size))

/-- The home slice that translates an address for a die (R57). -/
def xlatSlice (die va : Nat) : Nat := die * 16 + va / 4096 % 16

/-- A cached translation serves an access (R63): a write to a page whose D is clear is a miss. -/
def Tlb.serves (t : Tlb) (acc : Nat) : Bool := t.d || !(acc == 1 || acc == 2)

/-- The walk that a waiting request needs: the station, and the context ID and virtual page for which it has one walk (R63). -/
def GReq.walkKey (r : GReq) : Nat × BitVec 12 × Nat := (xlatSlice (dieOf r.core) r.va, r.cid, r.va / 65536)

/-- The walks that a station has under way or waiting, oldest first, each by the request that asked for it first. -/
def State.walksAt (s : State) (z : Nat) : List GReq :=
  (s.walks.filter (fun r => r.walkKey.1 == z)).foldl (fun a r =>
    if a.any (fun x => x.walkKey == r.walkKey) then a else a ++ [r]) []

/-- Makes the walks of a station that stand before a new one of a page: its 8 walkers take misses in the order of their arrival, and a
miss whose walk is under way joins it (R63). [DEDUCED, log 62] -/
def State.walksFirst (s : State) (z : Nat) (cid : BitVec 12) (va : Nat) : State :=
  let ws := s.walksAt z
  let place := (ws.takeWhile (fun r => r.walkKey != (z, cid, va / 65536))).length
  (ws.take (place - 7)).foldl (fun s r => match s.walk z r.cid r.va r.acc with
    | .ok (_, s) => s
    | .error _ => s) s

/-- Translates one address (R57, R58, R63): context ID 0 is physical, and a physical
address in a hole fails with kind 7 (R65), though no page maps there. [DEDUCED, log 20, 22; DESIGN CHOICE, log 105] -/
def State.translate (s : State) (die : Nat) (cid : BitVec 12) (va acc : Nat) : Except XFail (Nat × State) :=
  if cid = 0 then (if tierOf va = .hole then .error (7, 0) else .ok (va, s))
  else
    let z := xlatSlice die va
    let go : Except XFail (Nat × State) :=
      match (s.walksFirst z cid va).walk z cid va acc with
      | .error k => .error k
      | .ok (t, s) => .ok (t.pa + (va - t.va), s)
    match (s.slice z).hit cid va with
    | none => go
    | some t =>
      let ks := leafKinds t.r t.w t.x acc
      if !(t.serves acc) then go
      else if !ks.isEmpty then .error (lowestKind ks, 0)
      else .ok (t.pa + (va - t.va), s)

/-! ### Global accesses -/

/-- Bytes of one access on one page (R100). -/
structure Piece where
  /-- Virtual address. -/
  va : Nat
  /-- Physical address. -/
  pa : Nat
  /-- Bytes. -/
  n : Nat
  deriving DecidableEq, Repr

/-- Who makes a global access: its die, master ID and context ID, and the partition carried if not the
row's own. -/
structure Agent where
  /-- Die. -/
  die : Nat
  /-- Master ID (R67, R68). -/
  master : Nat
  /-- Context ID. -/
  cid : BitVec 12
  /-- Partition carried. -/
  carried : Option Nat
  deriving DecidableEq, Repr

/-- A core as an agent. -/
def State.coreAgent (s : State) (p : Nat) : Agent :=
  { die := dieOf p, master := masterOf (clusterOf p) (cidxOf p), cid := (s.core p).cid, carried := none }

/-- A failed global access: a fault kind (R65, R67), or 9 SCOPE of the tier, 10 HOST, with the address. -/
abbrev GFail := Nat × Nat

/-- The scope of an atomic is accepted by a tier (R100 step 7, R112); 9 stands for no atomic. -/
def tierTakes (pa scope : Nat) : Bool :=
  match tierOf pa with
  | .host => scope == 4 || scope == 9
  | _ => scope != 4

/-- A target counts a request that it refused (R67). -/
def State.refuseAt (s : State) (target : Nat) : State := { s with refusals := mset s.refusals target (mget 0 s.refusals target + 1) }

/-- Counts a refusal, of fault kind 8, of an access whose lowest byte on its page is at `va`, at the target that refused it (R67): that of
its own request, or of a walker's. -/
def State.countRefusal (s : State) (g : Agent) (va acc : Nat) : State :=
  s.refuseAt (match s.translate g.die g.cid va acc with
    | .error e =>
      let z := xlatSlice g.die va
      let reads := (s.rowOf (targetOf e.2) (walkAgent z)).any (fun r => r.right 0)
      if s.crosses (walkAgent z) 0 e.2 z && (s.crosses (walkAgent z) 2 e.2 z || !reads) then targetOf e.2 else 0x4000 + laneOf z
    | .ok (pa, _) => s.refuser g.master g.carried acc 128 pa)

/-- What an agent outside the cluster sites does about a failed access (R66, R67): a page fault's trap message, which names no
core, from the router that the agent is attached to; a refusal is counted. [DEDUCED, log 87] -/
def State.agentFault (s : State) (g : Agent) (row col : Nat) (e : Nat × Nat) (acc : Nat) : State :=
  if 1 ≤ e.1 && e.1 ≤ 7 then
    s.trapAt g.die row col 0x20 e.1 acc (g.master % 16) g.cid (BitVec.ofNat 64 (e.2 / 65536 % 2 ^ 41)) 0
  else if e.1 = 8 then s.countRefusal g e.2 acc
  else s

/-- The bytes from an address, just translated, to the end of its page; physical addresses are taken in units of 64 KiB, the smallest
page (R56). [DEDUCED, log 21] -/
def State.pageLeft (s : State) (g : Agent) (va : Nat) : Nat :=
  match (if g.cid = 0 then none else (s.slice (xlatSlice g.die va)).hit g.cid va) with
  | some t => t.va + t.size - va
  | none => 0x10000 - va % 0x10000

/-- Steps 6 to 9 of R100 for those of `n` bytes that lie on the first one's page. [DEDUCED, log 21, 94] -/
def State.onePage (s : State) (g : Agent) (va n acc scope : Nat) : Except GFail (Piece × State) :=
  match s.translate g.die g.cid va acc with
  | .error k => .error (k.1, va)
  | .ok (pa, s) =>
    let n := min n (s.pageLeft g va)
    if !(tierTakes pa scope) then .error (9, va)
    else if !(s.mayReach g.master g.carried acc pa n) then .error (8, va)
    else if acc == 2 && tierOf pa == .host && s.hostNo.any (fun r => decide (r.1 < pa + n) && decide (pa ≤ r.2)) then
      .error (10, va)
    else .ok ({ va := va, pa := pa, n := n }, s)

/-- An access by an agent cannot be made now (R383, R385): its die relocks, or something of it waits at the Sahdan link, a page-table entry that
its translation reads or its own bytes. [DEDUCED, log 55, 69] -/
def State.pathHolds (s : State) (g : Agent) (va n acc : Nat) : Bool :=
  !s.linkQuiet && ((s.die g.die).relock || (unitsOf va n).any (fun u =>
    let a := max va (u * 4096)
    let z := xlatSlice g.die a
    (g.cid != 0 && !(((s.slice z).hit g.cid a).any (fun t => t.serves acc)) && (s.walkReads g.cid a).any (s.stalls g.die z))
    || (match s.translate g.die g.cid a acc with
      | .ok (pa, _) => s.stalls g.die z pa
      | .error _ => false)))

/-- Checks a global access page by page in ascending order (R100): its bytes lie on one page or on two. [DEDUCED, log 21] -/
def State.gcheck (s : State) (g : Agent) (va n acc scope : Nat) : Except GFail (List Piece × State) :=
  match s.onePage g va n acc scope with
  | .error e => .error e
  | .ok (p1, s) =>
    if p1.n = n then .ok ([p1], s)
    else match s.onePage g (va + p1.n) (n - p1.n) acc scope with
      | .error e => .error e
      | .ok (p2, s) => .ok ([p1, p2], s)

/-- Reads the bytes of pieces as one number. -/
def State.gread (s : State) : List Piece → Nat
  | [] => 0
  | p :: ps => bread s.phys p.pa p.n + 256 ^ p.n * s.gread ps

/-- Writes a number over pieces; a line with an uncorrectable error changes only by a whole-line write
(R359). [DEDUCED, log 55] -/
def State.gwrite (s : State) : List Piece → Nat → State
  | [], _ => s
  | p :: ps, v =>
    let s := s.clearErr .phys p.pa p.n
    let s := if s.hardErr .phys p.pa p.n then
        let ks := (upTo p.n).filter (fun k => !(s.hardErr .phys (p.pa + k) 1))
        { s with phys := ks.foldl (fun m k => bset m (p.pa + k) (BitVec.ofNat 8 (v / 256 ^ k))) s.phys }
      else { s with phys := bwrite s.phys p.pa p.n v }
    s.gwrite ps (v / 256 ^ p.n)

/-- Writes the correctable errors in a range of a store back corrected, for an agent that acts for no launch (R359). -/
def State.heal (s : State) (st : Store) (a n : Nat) : State :=
  if s.errs.isEmpty then s else { s with errs := s.errs.filter (fun m => m.hard || !(m.meets st a n)) }

/-- Corrects the correctable errors in pieces of main memory, for the launch whose group a core runs (R359). -/
def State.correctAll (s : State) (p : Nat) (ps : List Piece) : State := ps.foldl (fun s x => s.correct p .phys x.pa x.n) s

/-- Global reads by an engine that stops at the first failure: bytes or the failure. -/
def State.gload (s : State) (g : Agent) (va n : Nat) : Except GFail (Nat × State) :=
  match s.gcheck g va n 0 9 with
  | .error e => .error e
  | .ok (ps, s) => .ok (s.gread ps, ps.foldl (fun s p => s.heal .phys p.pa p.n) s)

/-- Global writes by an engine. -/
def State.gstore (s : State) (g : Agent) (va n v : Nat) : Except GFail State :=
  match s.gcheck g va n 1 9 with
  | .error e => .error e
  | .ok (ps, s) => .ok (s.gwrite ps v)

/-! ### A context's accesses (R86, R100) -/

/-- The space of an access's bytes. -/
inductive Space where
  /-- Local memory of the issuing core. -/
  | loc
  /-- Cluster memory. -/
  | clu
  /-- Parameter windows. -/
  | win
  /-- Global addresses. -/
  | glob
  deriving DecidableEq, Repr

/-- The space of one address. -/
def spaceAt (a : Nat) : Option Space :=
  if a < 0x400000 then some .loc
  else if cluBase ≤ a && a < cluEnd then some .clu
  else if 0x04000000 ≤ a && a < 0x04800000 then some .win
  else if 0x100000000 ≤ a && a < 0x200000000000000 then some .glob
  else none

/-- The space that holds all of an access's bytes; none for a gap, two spaces, or bits 63:57 not zero. -/
def spaceOf (a n : Nat) : Option Space :=
  match spaceAt a with
  | none => none
  | some x => if spaceAt (a + n - 1) = some x then some x else none

/-- Where an access that has passed R100 goes. -/
inductive Place where
  /-- Local memory. -/
  | loc (a : Nat)
  /-- Cluster memory. -/
  | clu (a : Nat)
  /-- Global pieces. -/
  | glob (ps : List Piece)
  deriving DecidableEq, Repr

/-- The scope of an atomic fits the space (R100 step 3, R112). -/
def spaceTakes (x : Space) (scope : Nat) : Bool :=
  match x with
  | .loc => scope == 0 || scope == 9
  | .clu => scope == 1 || scope == 9
  | _ => scope == 2 || scope == 3 || scope == 4 || scope == 9

/-- A failed global access of a core as the stop of its instruction. -/
def gstop (acc : Nat) (cid : BitVec 12) (p : Nat) (e : GFail) : Stop :=
  if e.1 = 9 then addrFault 3 e.2
  else if e.1 = 10 then addrFault 4 e.2
  else .page e.1 acc e.2 cid (cidxOf p)

/-- Check (R99, R100): an access of `n` bytes at `ea` by the running context. `acc` is 0 read, 1 write,
2 atomic, 3 fetch; `aligned` asks for natural alignment; `scope` is an atomic's scope, 9 for none; `sysOk`
tells whether a system-scope atomic is one of the three that exist. An access that would wait at the Sahdan link waits at its core
(R383, R385). [DEDUCED, log 24, 69] -/
def State.check (s : State) (ea n acc : Nat) (aligned : Bool) (scope : Nat) (sysOk : Bool) :
    Except Stop (Place × State) :=
  match spaceOf ea n with
  | none => .error (addrFault 1 ea)
  | some .win => .error (addrFault 1 ea)
  | some x =>
    if aligned && ea % n != 0 then .error (addrFault 2 ea)
    else if !(spaceTakes x scope) || (scope == 4 && !sysOk) then .error (addrFault 3 ea)
    else match x with
      | .loc => .ok (.loc ea, s)
      | .clu => if logBase < ea + n && s.level = 0 then .error (logTrap (max ea logBase)) else .ok (.clu ea, s)
      | _ =>
        if s.pathHolds (s.coreAgent s.cur) ea n acc then .error .wait
        else match s.gcheck (s.coreAgent s.cur) ea n acc scope with
        | .error e => .error (gstop acc s.me.cid s.cur e)
        | .ok (ps, s) => .ok (.glob ps, s)

/-- A core meets an uncorrectable error at a place (R361). -/
def State.placeBad (s : State) (pl : Place) (n : Nat) : Bool :=
  match pl with
  | .loc a => s.hardErr (.loc s.cur) a n
  | .clu a => s.hardErr (.clu s.myCl) a n
  | .glob ps => ps.any (fun p => s.hardErr .phys p.pa p.n)

/-- Corrects the correctable errors at a place. -/
def State.placeFix (s : State) (pl : Place) (n : Nat) : State :=
  if s.errs.isEmpty then s
  else match pl with
    | .loc a => s.correct s.cur (.loc s.cur) a n
    | .clu a => s.correct s.cur (.clu s.myCl) a n
    | .glob ps => ps.foldl (fun s p => s.correct s.cur .phys p.pa p.n) s

/-- Read (R99): the bytes at a place as a number. -/
def State.readAt (s : State) (pl : Place) (n : Nat) : Nat :=
  match pl with
  | .loc a => bread s.me.mem a n
  | .clu a => s.cluRead s.myCl a n
  | .glob ps => s.gread ps

/-- Write (R99): writes the low `n` bytes of a number at a place. -/
def State.writeAt (s : State) (pl : Place) (n v : Nat) : State :=
  match pl with
  | .loc a => (s.modMe (fun c => c.writeLocal a n v)).clearErr (.loc s.cur) a n
  | .clu a => (s.cluWrite s.myCl a n v).clearErr (.clu s.myCl) a n
  | .glob ps => s.gwrite ps v

/-- A store narrower than a line reads its line (R88): it meets the line's error. [DEDUCED, log 55] -/
def State.mergeBad (s : State) (pl : Place) (n : Nat) : Bool :=
  match pl with
  | .loc a => s.hardErr (.loc s.cur) (a / 64 * 64) ((a % 64 + n + 63) / 64 * 64)
      && !(a % 64 == 0 && n % 64 == 0)
  | .clu a => s.hardErr (.clu s.myCl) (a / 64 * 64) ((a % 64 + n + 63) / 64 * 64)
      && !(a % 64 == 0 && n % 64 == 0)
  | .glob _ => false

/-- A store narrower than a line corrects what it reads of its line (R88, R359). [DEDUCED, log 55] -/
def State.mergeFix (s : State) (pl : Place) (n : Nat) : State :=
  if s.errs.isEmpty then s
  else match pl with
    | .loc a => if a % 64 == 0 && n % 64 == 0 then s else s.correct s.cur (.loc s.cur) (a / 64 * 64) ((a % 64 + n + 63) / 64 * 64)
    | .clu a => if a % 64 == 0 && n % 64 == 0 then s else s.correct s.cur (.clu s.myCl) (a / 64 * 64) ((a % 64 + n + 63) / 64 * 64)
    | .glob _ => s

/-- A load or store of the running core in cluster memory moves the pointers of the banks that serve it past the core (R90). -/
def State.serveBanks (s : State) (pl : Place) (n : Nat) : State :=
  match pl with
  | .clu a => s.modCluster s.myCl (fun k =>
      { k with bankPtr := (banksOf a n).foldl (fun m b => mset m b ((cidxOf s.cur + 1) % 9)) k.bankPtr })
  | _ => s

/-- A cluster-scope atomic of the running core moves the cluster unit's pointer past the core (R90). -/
def State.serveAtomic (s : State) (pl : Place) : State :=
  match pl with
  | .clu _ => s.modCluster s.myCl (fun k => { k with atomPtr := (cidxOf s.cur + 1) % 9 })
  | _ => s

/-- Reads `n` bytes at a place that has passed its checks. -/
def State.takeAt (s : State) (pl : Place) (n : Nat) : Except Stop (Nat × State) :=
  if s.placeBad pl n then .error (.poison s) else .ok (s.readAt pl n, (s.placeFix pl n).serveBanks pl n)

/-- A load of `n` bytes. [DESIGN CHOICE, log 10] -/
def State.load (s : State) (ea n : Nat) (aligned : Bool) : Except Stop (Nat × State) :=
  match s.check ea n 0 aligned 9 true with
  | .error e => .error e
  | .ok (pl, s) => s.takeAt pl n

/-- The place of `n` bytes that must lie in local or cluster memory and be 8-byte aligned (R116, R244, R290). -/
def State.nearPlace (s : State) (ea n : Nat) : Except Stop (Place × State) :=
  match spaceOf ea n with
  | some .glob => .error (addrFault 1 ea)
  | some .win => .error (addrFault 1 ea)
  | none => .error (addrFault 1 ea)
  | _ => if ea % 8 != 0 then .error (addrFault 2 ea) else s.check ea n 0 false 9 true

/-- A read of `n` bytes that must lie in local or cluster memory and be 8-byte aligned. -/
def State.loadNear (s : State) (ea n : Nat) : Except Stop (Nat × State) :=
  match s.nearPlace ea n with
  | .error e => .error e
  | .ok (pl, s) => s.takeAt pl n

/-! ### Fetch (R27, R45) -/

/-- One parcel of an instruction, read by the running context: the bytes as they stand now, so that a store of the context is
seen without a FENCE, which R45 allows. [DEDUCED, log 55; DESIGN CHOICE, log 84] -/
def State.fetchParcel (s : State) (a : Nat) : Except Stop (Parcel × State) :=
  match s.check a 2 3 false 9 true with
  | .error e => .error e
  | .ok (pl, s) => if s.placeBad pl 2 then .error (.poison s) else .ok (BitVec.ofNat 16 (s.readAt pl 2), s.placeFix pl 2)

/-- The parcels of an instruction: prefixes up to a base parcel, at most `fuel` in all. -/
def State.fetchFrom (s : State) (a : Nat) : Nat → Except Stop (List Parcel × State)
  | 0 => .ok ([], s)
  | fuel + 1 =>
    match s.fetchParcel a with
    | .error e => .error e
    | .ok (p, s) =>
      if isPfx p then
        match s.fetchFrom ((a + 2) % 2 ^ 64) fuel with
        | .error e => .error e
        | .ok (ps, s) => .ok (p :: ps, s)
      else .ok ([p], s)

/-- Fetches the instruction at an address: at most five parcels are read. -/
def State.fetch (s : State) (pc : Word) : Except Stop (List Parcel × State) := s.fetchFrom pc.toNat 5

end Sys2Proof.Machine
end

