-- ==== Sys2Proof/Machine/Requests.lean ====
section
/-! DEFINITION. What an atomic writes (R113), global requests that have left their core (R57, R66, R114), and
paired operations (R365). -/

namespace Sys2Proof.Machine

/-! ### Atomics (R113) -/

/-- The new value of an atomic: 0 ADD, 1 AND, 2 OR, 3 XOR, 4 MIN, 5 MAX, 6 SWP, 7 CAS, 8 MINU, 9 MAXU, 10 FADD. -/
def amoNew (op rm : Nat) (old x e : Word) : Word :=
  match op with
  | 0 => old + x
  | 1 => old &&& x
  | 2 => old ||| x
  | 3 => old ^^^ x
  | 4 => if x.toInt < old.toInt then x else old
  | 5 => if old.toInt < x.toInt then x else old
  | 6 => x
  | 7 => if old = e then x else old
  | 8 => if x.toNat < old.toNat then x else old
  | 9 => if old.toNat < x.toNat then x else old
  | _ => BitVec.ofNat 64 (fp32.addC rm (old.toNat % 2 ^ 32) (x.toNat % 2 ^ 32)).1

/-- The bytes of an atomic's operand. -/
def amoBytes (op : Nat) : Nat := if op = 10 then 4 else 8

/-- System scope admits ADD, SWP and CAS alone (R112). -/
def amoSysOk (op : Nat) : Bool := op == 0 || op == 6 || op == 7

/-! ### Requests -/

/-- The agent of a request. -/
def GReq.agent (r : GReq) : Agent :=
  { die := dieOf r.core, master := masterOf (clusterOf r.core) (cidxOf r.core), cid := r.cid, carried := none }

/-- Performs a request at its target: the value read and the state, or its failure, with the state that the translation of a read that meets
an uncorrectable error has left (R62, R361). -/
def State.serve (s : State) (r : GReq) : Except (GFail × State) (Nat × State) :=
  let done : List Piece := r.pas.map (fun p => { va := r.va, pa := p.1, n := p.2 })
  match (if done.isEmpty then s.gcheck r.agent r.va r.n r.acc 9 else .ok (done, s)) with
  | .error e => .error (e, s)
  | .ok (ps, s) =>
    let old := s.gread ps
    if r.acc = 1 then .ok (0, s.gwrite ps r.x.toNat)
    else if ps.any (fun p => s.hardErr .phys p.pa p.n) then .error ((11, r.va), s)
    else
      let s := s.correctAll r.core ps
      .ok (old, if r.acc = 0 then s else s.gwrite ps (amoNew r.op r.rm (BitVec.ofNat 64 old) (lane0 r.x) r.e).toNat)

/-- The request of the running context for `n` bytes at a global address. -/
def State.request (s : State) (va n acc : Nat) (x : VWord) : GReq :=
  { id := s.gid, core := s.cur, ctx := s.ctx, cid := s.me.cid, va := va, n := n, acc := acc, op := 0, rm := 0,
    x := x, e := 0, posted := false, pas := [], no := s.me.opNo }

/-- Sends a request out of its core. -/
def State.sendReq (s : State) (r : GReq) : State := { s with greqs := s.greqs ++ [r], gid := s.gid + 1 }

/-- What the answer to an access in flight means for its instruction. One that tells of a fault holds the context ID that the request carried
(R66, R67). -/
def State.answered (s : State) (va acc : Nat) (f : Nat) (v : VWord) : Except Stop (Nat × State) :=
  let s := s.modMe (fun c => { c with flight := none, answer := none })
  if f = 0 then .ok (v.toNat, s)
  else if f = 11 then .error (.poison s)
  else .error (gstop acc (v.setWidth 12) s.cur (f, va))

/-- A global access that waits for its answer: it uses the answer if it has come, else it sends the request once
and waits (R57, R146). -/
def State.await (s : State) (r : GReq) (send : State → State) : Except Stop (Nat × State) :=
  match s.me.answer with
  | some a => s.answered r.va r.acc a.1 a.2
  | none =>
    match s.me.flight with
    | some _ => .error .wait
    | none => .error (.hold (fun s => (send s).modMe (fun c => { c with flight := some r.id })))

/-! ### Paired operations (R365, R366) -/

/-- The primaries and twins of the launch whose group a core runs, by logical core (R364). -/
def State.pairsOf (s : State) (p : Nat) : List (Nat × Nat) :=
  match (s.core p).group, s.partOf p with
  | some g, some q => ((s.part q).launches.filter (fun l => l.serial == g.launch)).flatMap (·.pairs)
  | _, _ => []

/-- The primary of a core and its twin: the one whose unit is in the first half (R364); without a launch that says so, the one with the
lower logical number. -/
def State.primaryOf (s : State) (p t : Nat) : Nat :=
  if (s.pairsOf p).contains (s.lp p, s.lp t) then p
  else if (s.pairsOf p).contains (s.lp t, s.lp p) then t
  else if s.lp p < s.lp t then p else t

/-- A command's writes are left to its twin's copy, or were made before a rollback (R365, R366). [DEDUCED, log 54] -/
def State.pairDrops (s : State) (p : Nat) (pair : Option Nat) (drop : Bool) : Bool :=
  drop || (pair.isSome && match (s.core p).twin with
    | some t => s.primaryOf p t != p
    | none => false)

/-- What a paired operation meets: no pairing, an earlier match of the same number with its old value, or a copy
sent to the router. -/
inductive PairSent where
  /-- The core has no twin. -/
  | alone
  /-- The number has matched before: the operation is discarded, an atomic gets its logged value. -/
  | done (v : Option Word) (s : State)
  /-- The copy is on its way. -/
  | sent (s : State)

/-- A core with a twin sends its copy of a paired operation to the router that attaches its destination. -/
def State.sendCopy (s : State) (p t no opNo : Nat) (what : Nat × Nat × Nat × Nat) (act : PairAct) : State :=
  { s with
    gid := s.gid + 1
    paired := s.paired ++ [{ id := s.gid, core := s.primaryOf p t, twin := if s.primaryOf p t = p then t else p, sender := p,
                             sent := (s.die (dieOf p)).cyc, no := no, opNo := opNo, what := what, act := act }] }

/-- Gives one twin's paired operation its number and sends its copy. `wait` tells that the instruction waits for its answer. -/
def State.pairSend (s : State) (p : Nat) (kind key len data : Nat) (wait : Bool) (act : PairAct) : PairSent :=
  let c := s.core p
  match c.twin with
  | none => .alone
  | some t =>
    let s := s.modCore p (fun c => { c with pairNo := c.pairNo + 1 })
    match mfind c.matched c.pairNo with
    | some v => .done v s
    | none =>
      let s := if wait then s.modCore p (fun c => { c with flight := some s.gid }) else s
      .sent (s.sendCopy p t c.pairNo c.opNo (kind, key, len, data) act)

/-- The number of a command that an engine carries out later, if it is a paired operation, and whether that number has matched before or
been discarded: the command then writes nothing (R365, R366). -/
def State.pairTake (s : State) (p : Nat) (far : Bool) : (Option Nat × Bool) × State :=
  let c := s.core p
  if !far || c.twin.isNone then ((none, false), s)
  else ((some c.pairNo, (mfind c.matched c.pairNo).isSome), s.modCore p (fun c => { c with pairNo := c.pairNo + 1 }))

/-- What an engine does with a paired command whose data are at hand (R365). -/
inductive PairStep where
  /-- It writes, or discards, them. -/
  | go
  /-- The copy for the twin's comparison has been sent, or is sent now: the command waits. -/
  | wait (s : State)

/-- The next step of a paired command of a core: a match lets it go on; before that its copy, with its data, goes to the router once. -/
def State.pairStep (s : State) (p : Nat) (pair : Option Nat) (drop : Bool) (opNo kind key len data : Nat) : PairStep :=
  match pair, (s.core p).twin with
  | some no, some t =>
    if drop || (mfind (s.core p).matched no).isSome then .go
    else if s.paired.any (fun w => w.sender == p && w.no == no && w.act == .mark) then .wait s
    else .wait (s.sendCopy p t no opNo (kind, key, len, data) .mark)
  | _, _ => .go

/-- Applies a function of number and drop mark to every paired command of a core that its engines have still to carry out. -/
def State.mapPairs (s : State) (p : Nat) (f : Nat → Bool → Option Nat × Bool) : State :=
  let req (r : CopyReq) : CopyReq := match r.pair with
    | some n => { r with pair := (f n r.drop).1, drop := (f n r.drop).2 }
    | none => r
  let mat (m : MatCmd) : MatCmd := match m.pair with
    | some n => { m with pair := (f n m.drop).1, drop := (f n m.drop).2 }
    | none => m
  (s.modCore p (fun c => { c with fifo := c.fifo.map req, returned := c.returned.map req, mq := c.mq.map mat })).modCluster (clusterOf p)
    (fun k => { k with
      slots := k.slots.map (fun z => if z.cidx == cidxOf p then { z with req := req z.req } else z)
      runs := k.runs.map (fun x => if x.cidx == cidxOf p then { x with cmd := mat x.cmd } else x) })

/-- A command whose operation is discarded on both twins writes nothing when it runs (R366). -/
def State.dropMarked (s : State) (p no : Nat) : State := s.mapPairs p (fun n d => (some n, d || n == no))

/-- The first number of earlier intervals: a restart of the log begins the numbers at 1 again, and those of commands that are still to be
carried out move up by this much, so that no later operation meets them (R365). -/
def pairAge : Nat := 2 ^ 32

/-- The paired commands of a core at a rollback or replay: one whose number has matched goes on, a twin's without writing; one that has
not writes nothing (R366). [DEDUCED, log 54] -/
def State.settlePairs (s : State) (p : Nat) : State :=
  if (s.core p).twin.isNone then s
  else
    let hit (n : Nat) : Bool := (mfind (s.core p).matched n).isSome
    s.mapPairs p (fun n d => if pairAge ≤ n then (some n, d) else if hit n then (none, s.pairDrops p (some n) d) else (none, true))

/-- A core's paired operations that are under way belong to an earlier interval from now on (R365). [DEDUCED, log 54] -/
def State.agePairs (s : State) (p : Nat) : State :=
  if (s.core p).twin.isNone then s
  else
    let t := (s.mapPairs p (fun n d => (some (n + pairAge), d))).modCore p (fun c =>
      { c with matched := c.matched.map (fun m => (m.1 + pairAge, m.2)) })
    { t with paired := t.paired.map (fun w => if w.sender == p then { w with no := w.no + pairAge } else w) }

/-- Releases the room that a sender holds for a message (R122). -/
def Core.settleMsg (c : Core) (n : Nat) : Core := { c with resv := c.resv.erase n, sent := c.sent - 1 }

/-- A copy that is discarded gives its sender back the room of a message (R122). -/
def State.releaseCopy (s : State) (w : Paired) : State :=
  match w.act with
  | .msg m => s.modCore w.sender (fun c => c.settleMsg m.len)
  | _ => s

/-- Discards the copies at routers that a test selects. [DEDUCED, log 54] -/
def State.dropPaired (s : State) (mine : Paired → Bool) : State :=
  (s.paired.filter mine).foldl State.releaseCopy { s with paired := s.paired.filter (fun v => !mine v) }

/-- A store of the running context to checked global pieces: paired with its twin's, or performed. -/
def State.putGlobal (s : State) (ps : List Piece) (va n v : Nat) : State :=
  match s.pairSend s.cur 0 va n (v % 256 ^ n) false (.mem { s.request va n 1 (BitVec.ofNat 512 v) with
    pas := ps.map (fun p => (p.pa, p.n)) }) with
  | .alone => s.gwrite ps v
  | .done _ s => s
  | .sent s => s

/-- A write of the running context at a checked place: a twin's write to cluster memory makes its log
overflow (R95, R365). -/
def State.put (s : State) (pl : Place) (ea n v : Nat) : State :=
  match pl with
  | .glob ps => s.putGlobal ps ea n v
  | .clu _ =>
    let s := if s.me.twin.isSome then s.modMe (fun c => { c with ovf := true }) else s
    ((s.mergeFix pl n).writeAt pl n v).serveBanks pl n
  | .loc _ => (s.mergeFix pl n).writeAt pl n v

/-- A store of the low `n` bytes of a number. [DESIGN CHOICE, log 10] -/
def State.store (s : State) (ea n : Nat) (aligned : Bool) (v : Nat) : Except Stop State :=
  match s.check ea n 1 aligned 9 true with
  | .error e => .error e
  | .ok (pl, s) => if s.mergeBad pl n then .error (.poison s) else .ok (s.put pl ea n v)

end Sys2Proof.Machine
end

