-- ==== Sys2Proof/Machine/Queues.lean ====
section
/-! DEFINITION. Pushes through the record queues qcopy, qmat and qrule (R70 to R72, R221 to R223, R245, R255),
whole or word by word, and the dispatch ring (R329). -/

namespace Sys2Proof.Machine

/-! ### The dispatch ring (R329) -/

/-- The next free index in rotation. [DEDUCED, log 52] -/
def Core.ringFree (c : Core) : Option Nat :=
  ((upTo 16).map (fun k => (c.ringNext + k) % 16)).find? (fun k => (mfind c.ring k).isNone)

/-- Takes a ring entry; none free makes the instruction wait. [DEDUCED, log 52] -/
def Core.takeRing (c : Core) (e : RingEntry) : Except Stop (Nat × Core) :=
  match c.ringFree with
  | none => .error .wait
  | some k =>
    let ring := mset c.ring k { e with v := true, ord := c.nextId }
    .ok (k, { c with ring := ring, ringNext := (k + 1) % 16, nextId := c.nextId + 1 })

/-! ### Copy requests -/

/-- A copy completion message (R79). -/
def copyMsg (status : Nat) (w0 : Word) (landed : Nat) : MailEntry :=
  eventEntry 16 (1 + status * 2 ^ 8 + wfield w0 40 8 * 2 ^ 16 + wfield w0 56 8 * 2 ^ 24 + wfield w0 0 32 * 2 ^ 32
    + landed % 2 ^ 40 * 2 ^ 64)

/-- A request that the NI refuses as it enters the FIFO (R71, R72). [DEDUCED, log 80] -/
def copyIllFormed (w0 w3 : Word) : Bool :=
  let op := wfield w0 56 8
  let bb := wfield w0 40 8
  !(op == 1 || op == 2 || op == 3) || wfield w0 51 5 != 0 || wfield w0 32 8 != 0
    || (8 ≤ bb && bb != 0xFF) || (!w0.getLsbD 48 && wfield w3 40 24 != 0)

/-- Sets FAIL of the barrier that a request names, if it names one (R83). -/
def Core.failBB (c : Core) (w0 : Word) : Core :=
  let b := wfield w0 40 8
  if b < 8 then
    let e := mget (0, 0) c.bb b
    { c with bb := mset c.bb b (e.1, orBit e.2 63) }
  else c

/-- Words as one number. -/
def wordsNat (w : List Word) : Nat := w.foldr (fun x a => x.toNat + 2 ^ 64 * a) 0

/-- Pushes a whole copy request of a core: an ill-formed one is answered at once, once the mailbox has room
(R72, R82); any other waits for a FIFO entry. [DEDUCED, log 80] -/
def State.pushCopy (s : State) (p : Nat) (lvl : Nat) (w : List Word) (bad : Bool) : Except Stop State :=
  let g (k : Nat) : Word := w.getD k 0
  let c := s.core p
  if bad || copyIllFormed (g 0) (g 3) then
    if c.room 16 then
      .ok (s.modCore p (fun c => { c with mbox := c.mbox ++ [copyMsg 1 (g 0) 0] }.failBB (g 0)))
    else .error .wait
  else if 8 ≤ c.fifo.length then .error .wait
  else
    let far := wfield (g 0) 56 8 == 2 || spaceAt (g 2).toNat == some .glob
    let r : CopyReq :=
      { w0 := g 0, w1 := g 1, w2 := g 2, w3 := g 3, cid := c.cid, lvl := lvl, no := c.opNo, pair := none, drop := false }
    let same (x : CopyReq) : Bool := x.w0 == r.w0 && x.w1 == r.w1 && x.w2 == r.w2 && x.w3 == r.w3
    match c.returned.find? same with
    | some x => .ok (s.modCore p (fun c =>
        { c with fifo := c.fifo ++ [{ r with no := x.no, pair := x.pair, drop := x.drop }], returned := c.returned.erase x }))
    | none =>
      let mark := s.pairTake p far
      .ok (mark.2.modCore p (fun c =>
        { c with fifo := c.fifo ++ [{ r with pair := mark.1.1, drop := mark.1.2 }], opNo := c.opNo + 1 }))

/-- Another context of the core is assembling. -/
def otherAsm (a : Option Asm) (k : Nat) : Bool :=
  match a with
  | some a => a.ctx != k
  | none => false

/-- The words that a context has assembled so far. -/
def asmWords (a : Option Asm) : List Word :=
  match a with
  | some a => a.words
  | none => []

/-! ### Matrix commands -/

/-- Bytes of `n` elements of an A format (R213). -/
def aBytes (afmt n : Nat) : Nat := if afmt = 0 then 2 * n else if afmt = 5 || afmt = 6 then n / 2 else n

/-- An A format with MX scales. -/
def aMx (afmt : Nat) : Bool := afmt == 3 || afmt == 4 || afmt == 5

/-- A field of a format context: word at offset `o`, bit `lo`, `n` bits. -/
def fmtField (f : VWord) (o lo n : Nat) : Nat := bits f.toNat (8 * o + lo) n

/-- A 32-bit two's-complement number. -/
def sint32 (n : Nat) : Int := if 2 ^ 31 ≤ n then (n : Int) - 2 ^ 32 else n

/-- An address plus a signed offset, modulo 2^64. -/
def addrPlus (a : Nat) (d : Int) : Nat := (((a : Int) + d) % (2 ^ 64 : Int)).toNat

/-- The A bytes of a strip: for each row its elements and, for MX formats, its scales (R214). `elems` is the
row length. -/
def stripBytes (f : VWord) (addr na elems : Nat) : List (Nat × Nat) :=
  let afmt := fmtField f 0 0 4
  (upTo na).flatMap (fun r =>
    ((addr + r * fmtField f 8 0 32) % 2 ^ 64, aBytes afmt elems) ::
      (if aMx afmt then
        [(addrPlus addr (sint32 (fmtField f 16 0 32) + (r * fmtField f 16 32 32 : Nat)), elems / 32)]
      else []))

/-- Bytes of a drained row (R213). -/
def drainRow (dfmt : Nat) : Nat := if dfmt = 0 then 256 else if dfmt = 1 then 128 else 64

/-- The destination bytes of a drain (R220). -/
def drainBytes (f : VWord) (addr nr : Nat) : List (Nat × Nat) :=
  let dfmt := fmtField f 0 8 3
  (upTo nr).flatMap (fun r =>
    ((addr + r * fmtField f 24 0 32) % 2 ^ 64, drainRow dfmt) ::
      (if dfmt = 4 || dfmt = 5 then [(addrPlus addr (sint32 (fmtField f 24 32 32) + (2 * r : Nat)), 2)] else []))

/-- Two lists of byte ranges meet inside cluster memory. -/
def rangesMeet (a b : List (Nat × Nat)) : Bool :=
  a.any (fun x => b.any (fun y => decide (x.1 < y.1 + y.2) && decide (y.1 < x.1 + x.2)
    && decide (cluBase < x.1 + x.2) && decide (x.1 < cluEnd)))

/-- KIND of a matrix command. -/
def MatCmd.kind (m : MatCmd) : Nat := wfield m.w0 61 3

/-- Why 64 bytes are refused as a format context: a non-zero reserved field (4), else a reserved selector (5), 0 for neither
(R213, R246). -/
def fmtBad (f : VWord) : Nat :=
  let g := fmtField f
  if g 0 18 46 != 0 || g 0 15 1 != 0 || g 0 11 1 != 0 || g 0 4 4 != 0 || g 8 32 32 != 0
    || bits f.toNat 256 256 != 0 then 4
  else if 6 ≤ g 0 8 3 || 7 ≤ g 0 0 4 then 5
  else 0

/-- The format context in force when a command enqueued now starts: none while a raw MCFG stands ahead in the queue with no valid MCFG of
the instruction form behind it (R223). [DEDUCED, log 95] -/
def State.fmtAhead (s : State) (p : Nat) : Option VWord :=
  (s.core p).mq.foldl (fun a m =>
    if m.kind = 6 && m.fail = 0 then
      match m.fmt with
      | none => none
      | some f => if fmtBad f = 0 then some f else a
    else a) (some (mget 0 (s.cluster (clusterOf p)).fmts (cidxOf p)))

/-- The operand bytes of a strip or drain under a format context, if they are known (R223). -/
def State.matRange (s : State) (cl : Nat) (m : MatCmd) (f : VWord) : Option (List (Nat × Nat)) :=
  let n := wfield m.w0 23 5 + 1
  match m.kind with
  | 0 =>
    match mfind (s.cluster cl).banks (wfield m.w0 28 4) with
    | some b => if b.state = 2 then some (stripBytes f m.w1.toNat n (32 * (b.kpm1 + 1))) else none
    | none => none
  | 1 => some (stripBytes f m.w1.toNat n 64)
  | 2 => some (drainBytes f m.w1.toNat n)
  | _ => some []

/-- The pending commands of a cluster: enqueued and not yet complete (R223). -/
def State.pendingMat (s : State) (cl : Nat) : List MatCmd :=
  ((upTo 9).flatMap (fun i => (s.core (coreAt cl i)).mq)) ++ (s.cluster cl).runs.map (fun r => r.cmd)

/-- A command with settled bytes overlaps a pending one (R223): a strip's A bytes with a drain's
destination, or the converse. -/
def overlaps (m : MatCmd) (rs : List (Nat × Nat)) (pend : List MatCmd) : Bool :=
  let strip (k : Nat) : Bool := k == 0 || k == 1
  pend.any (fun o => o.fail == 0 &&
    ((strip m.kind && o.kind == 2) || (m.kind == 2 && strip o.kind)) &&
    match o.range with
    | some r => rangesMeet rs r
    | none => false)

/-- A core's matrix command queue and its dispatch ring take one more command (R221, R329). -/
def Core.matRoom (c : Core) : Bool :=
  decide (c.mq.length < 16) && (match c.takeRing RingEntry.empty with
    | .ok _ => true
    | .error _ => false)

/-- Enqueues a matrix command of a core (R221, R223, R244): it waits while the queue holds 16 or no ring entry
is free. `fmt` is the 64 bytes of MCFG's instruction form; the ring entry keeps whether the active handler pushed it (R327). [DEDUCED, log 57] -/
def State.pushMat (s : State) (p : Nat) (pc : BitVec 57) (w : List Word) (fmt : Option VWord) (bad : Bool) :
    Except Stop State :=
  let g (k : Nat) : Word := w.getD k 0
  if 16 ≤ (s.core p).mq.length then .error .wait
  else match (s.core p).takeRing { RingEntry.empty with mat := true, pc := pc, hand := s.ctx == 0 && (s.core p).handler == some 0 } with
    | .error e => .error e
    | .ok (k, c) =>
      let m : MatCmd :=
        { w0 := g 0, w1 := g 1, w2 := g 2, w3 := g 3, fmt := fmt, cid := c.cid, fail := if bad then 4 else 0,
          range := none, ring := k, no := c.opNo, pair := none, drop := false }
      let m := match s.fmtAhead p with
        | none => m
        | some f =>
          match s.matRange (clusterOf p) m f with
          | none => m
          | some rs =>
            { m with range := some rs,
                     fail := if m.fail = 0 && overlaps m rs (s.pendingMat (clusterOf p)) then 3 else m.fail }
      let s := s.setCore p c
      let mark := s.pairTake p (m.kind == 2 && spaceAt m.w1.toNat == some .glob)
      let m := { m with pair := mark.1.1, drop := mark.1.2 }
      .ok (mark.2.modCore p (fun c => { c with mq := c.mq ++ [m], opNo := c.opNo + 1 }))

/-! ### Rule, digest and collective commands -/

/-- OP of a rule record. -/
def ruleOp (w0 : Word) : Nat := wfield w0 56 8

/-- The outstanding rule commands of a core, RDCMP excluded (R255, R266). -/
def State.ruleOut (s : State) (p : Nat) : Nat :=
  (s.cmds.filter (fun c => c.core == p && ruleOp c.w0 != 0x12)).length

/-- The RDCMPs of a partition that have not ended (R348). -/
def State.rdcmps (s : State) (q : Nat) : Nat :=
  (s.cmds.filter (fun c => c.part == q && ruleOp c.w0 == 0x12 && !c.posted)).length

/-- A block is registered in the digest table (R346). -/
def State.digested (s : State) (q va : Nat) : Bool :=
  (upTo 32).any (fun z => (s.slice z).dig.any (fun e => e.part == q && e.page == va / 4096))

/-- Blocks of a rule record: header addresses (R254). -/
def blockVa (w1 w2 : Word) (n : Nat) : Nat := (w1.toNat + n * w2.toNat) % 2 ^ 64

/-- The numbers `n` of a range whose block is at header address `d`, as the least of them and their distance: the addresses of a range
advance modulo 2^64 (R254), so that `w1 + n * w2 = d` holds of those whose product with the odd part of `w2` is fixed modulo a power
of 2. -/
def blockNumbers (w1 w2 : Word) (d : Nat) : Option (Nat × Nat) :=
  let gap : Word := BitVec.ofNat 64 d - w1
  let k := if w2 = 0 then 64 else ((upTo 64).find? (fun i => w2.getLsbD i)).getD 64
  if k = 64 then (if gap = 0 then some (0, 1) else none)
  else
    let odd : Word := w2 >>> k
    let inv : Word := (upTo 6).foldl (fun (x : Word) _ => x * (2 - odd * x)) odd
    if gap.toNat % 2 ^ k = 0 then some (((gap >>> k) * inv).toNat % 2 ^ (64 - k), 2 ^ (64 - k)) else none

/-- Some block of a range is at header address `d`. -/
def inRange (w1 w2 : Word) (count d : Nat) : Bool := (blockNumbers w1 w2 d).any (fun n => decide (n.1 < count))

/-- A gated RLUPD (R348): some block of its range is registered. -/
def State.gatedUpd (s : State) (q : Nat) (w1 w2 w3 : Word) : Bool :=
  (upTo 32).any (fun z => (s.slice z).dig.any (fun e => e.part == q && inRange w1 w2 (w3.toNat % 2 ^ 32) (e.page * 4096)))

/-- A rule command of a core need not wait: fewer than 16 are outstanding, or, for an RDCMP, its completion has room. -/
def State.ruleRoom (s : State) (p op : Nat) : Bool :=
  if op = 0x12 then (s.core p).room 32 else decide (s.ruleOut p < 16)

/-- Pushes a rule command of a core (R255, R266, R348): 16 outstanding make it wait; an RDCMP instead needs the
room that stays reserved for its completion (R337). -/
def State.pushRule (s : State) (p k : Nat) (w : List Word) (bad : Bool) : Except Stop State :=
  let g (n : Nat) : Word := w.getD n 0
  let op := ruleOp (g 0)
  let c := s.core p
  let q := match s.partOf p with
    | some q => q
    | none => 16
  if !(s.ruleRoom p op) then .error .wait
  else
    let gate := op = 1 && !bad && s.gatedUpd q (g 1) (g 2) (g 3)
    let held := gate && s.rdcmps q != 0
    let r : RuleCmd :=
      { id := s.cmdId, core := p, ctx := k, part := q, cid := c.cid, w0 := g 0, w1 := g 1, w2 := g 2, w3 := g 3,
        bad := bad, held := held, wasHeld := held, gated := gate && !held && (s.part q).shut,
        bank := (s.rule (wfield (g 0) 32 3)).active, done := [], status := 0, sums := (0, 0, 0, 0, 0),
        posted := false, taken := none, ready := false, no := c.opNo, grp := c.group.map (fun g => (g.launch, g.index)), spill := none }
    let s := s.modCore p (fun c =>
      { c with opNo := c.opNo + 1, resv := if op = 0x12 then c.resv ++ [32] else c.resv })
    .ok { s with cmds := s.cmds ++ [r], cmdId := s.cmdId + 1 }

/-! ### Word-by-word assembly (R70, R245, R255) -/

/-- The words of a 64-byte value's first 32 bytes. -/
def recordOf (v : VWord) : List Word :=
  [v.extractLsb' 0 64, v.extractLsb' 64 64, v.extractLsb' 128 64, v.extractLsb' 192 64]

/-- Bytes 32 to 63 of a whole push are not zero. -/
def tailBad (v : VWord) : Bool := v.extractLsb' 256 256 != 0

/-- The record assembly of a queue. -/
def Core.asmOf (c : Core) (q : AsmQueue) : Option Asm :=
  match q with
  | .copy => c.asmC
  | .mat => c.asmM
  | .rule => c.asmR

/-- Replaces the record assembly of a queue. -/
def Core.setAsm (c : Core) (q : AsmQueue) (a : Option Asm) : Core :=
  match q with
  | .copy => { c with asmC := a }
  | .mat => { c with asmM := a }
  | .rule => { c with asmR := a }

/-- The TSW bit that records a discarded partial record: CPD, MPD, RPD. -/
def discardBit (q : AsmQueue) : Nat :=
  match q with
  | .copy => 9
  | .mat => 10
  | .rule => 11

/-- Pushes a whole record of the running context. -/
def State.pushRecord (s : State) (q : AsmQueue) (w : List Word) (bad : Bool) : Except Stop State :=
  match q with
  | .copy => s.pushCopy s.cur s.level w bad
  | .mat => s.pushMat s.cur (s.cx.pc.setWidth 57) w none bad
  | .rule => s.pushRule s.cur s.ctx w bad

/-- A scalar push: one word of the running context's record; the fourth pushes the record. -/
def State.pushWord (s : State) (q : AsmQueue) (v : Word) : Except Stop State :=
  let a := s.me.asmOf q
  if otherAsm a s.ctx then .error .wait
  else
    let ws := asmWords a ++ [v]
    if ws.length < 4 then .ok (s.modMe (fun c => c.setAsm q (some { ctx := s.ctx, words := ws, since := 0 })))
    else match s.pushRecord q ws false with
      | .error e => .error e
      | .ok s => .ok (s.modMe (fun c => c.setAsm q none))

/-- A vector push: bytes 0 to 31 as one whole record; a partial record of the same context is discarded. An ill-formed copy
request waits for mailbox room alone (R72, R116). -/
def State.pushWhole (s : State) (q : AsmQueue) (v : VWord) : Except Stop State :=
  let a := s.me.asmOf q
  if otherAsm a s.ctx && !(q == .copy && (tailBad v || copyIllFormed (lane0 v) (v.extractLsb' 192 64))) then .error .wait
  else
    let s := if a.isSome && !(otherAsm a s.ctx) then (s.modMe (fun c => c.setAsm q none)).sticky (discardBit q) else s
    s.pushRecord q (recordOf v) (tailBad v)

end Sys2Proof.Machine
end

