-- ==== Sys2Proof/Machine/Operands.lean ====
section
/-! DEFINITION. Operands (R34 to R37, R144 to R152): lanes, reading a name with its waits and pops, writing a
result with its push and window shift, the next PC with the hardware loops (R158), and the one way in which
every instruction issues: legality, privilege, operands, effect, result, trap or wait. -/

namespace Sys2Proof.Machine

/-! ### Lanes (R179) -/

/-- Lane `i` of width `w` bytes. -/
def laneAt (v : VWord) (w i : Nat) : Nat := bits v.toNat (8 * w * i) (8 * w)

/-- The lanes of a vector. -/
def lanes (v : VWord) (w : Nat) : List Nat := (upTo (64 / w)).map (laneAt v w)

/-- A vector from lanes of `w` bytes; missing lanes are 0. -/
def ofLanes (w : Nat) (ls : List Nat) : VWord :=
  BitVec.ofNat 512 (ls.foldr (fun l a => l % 2 ^ (8 * w) + 2 ^ (8 * w) * a) 0)

/-- The low `w` bytes of a value in every lane (R36). -/
def broadcast (w : Nat) (v : Word) : VWord := ofLanes w (List.replicate (64 / w) v.toNat)

/-- Reads an unsigned number of `n` bits as two's complement. -/
def toSigned (n v : Nat) : Int := if v % 2 ^ n < 2 ^ (n - 1) then (v % 2 ^ n : Nat) else (v % 2 ^ n : Nat) - 2 ^ n

/-- The low `n` bits of an integer. -/
def ofSigned (n : Nat) (v : Int) : Nat := (v % (2 ^ n : Nat)).toNat

/-! ### Values -/

/-- What a source gives: a 64-byte value, or a 64-bit one in its low bits. -/
structure Val where
  /-- A vector value. -/
  vec : Bool
  /-- The bits. -/
  bits : VWord
  deriving DecidableEq, Repr

/-- A value in a scalar position: lane 0 of a vector (R36). -/
def Val.s (v : Val) : Word := lane0 v.bits

/-- A value in a vector position with lanes of `w` bytes: a scalar is broadcast (R36). -/
def Val.v (v : Val) (w : Nat) : VWord := if v.vec then v.bits else broadcast w (lane0 v.bits)

/-- A scalar value. -/
def Val.ofS (w : Word) : Val := { vec := false, bits := widen w }

/-- The values of X, Y and Z; s0's where a field names no source. -/
structure Vals where
  /-- X. -/
  x : Val
  /-- Y. -/
  y : Val
  /-- Z. -/
  z : Val
  deriving DecidableEq, Repr

/-- A result (R99). -/
inductive Res where
  /-- A scalar. -/
  | s (w : Word)
  /-- A vector. -/
  | v (w : VWord)
  deriving DecidableEq, Repr

/-- The value that a result enters the window and the registers with. [DEDUCED, log 25] -/
def Res.bits : Res → VWord
  | .s w => widen w
  | .v w => w

/-- A vector result. -/
def Res.vec : Res → Bool
  | .s _ => false
  | .v _ => true

/-! ### Neighbour links -/

/-- The link trap of a side (R321). -/
def linkTrap (west : Bool) : Stop := .trap { cls := 7, sub := if west then 1 else 2, info := 0 }

/-- Pushes a word toward a neighbour (R12, R150, R152). -/
def State.pushLink (s : State) (west : Bool) (v : Word) : Except Stop State :=
  match s.link s.cur west with
  | none => .error (linkTrap west)
  | some q =>
    let held := if west then (s.core q).east.length else (s.core q).west.length
    if 4 ≤ held + s.flying q (!west) then .error .wait
    else
      let w : LinkWord := { dst := q, west := !west, word := v, src := s.cur, no := s.me.opNo }
      .ok ({ s with links := s.links ++ [w] }.modMe (fun c => { c with opNo := c.opNo + 1 }))

/-- Pops a word of a neighbour link; with `fwd` the word is pushed onward as well (R151). -/
def State.popLink (s : State) (west fwd : Bool) : Except Stop (Val × State) :=
  match s.link s.cur west with
  | none => .error (linkTrap west)
  | some _ =>
    match (if west then s.me.west else s.me.east) with
    | [] => .error .wait
    | v :: rest =>
      let s := s.modMe (fun c => if west then { c with west := rest } else { c with east := rest })
      if fwd then
        match s.pushLink (!west) v with
        | .error e => .error e
        | .ok s => .ok (Val.ofS v, s)
      else .ok (Val.ofS v, s)

/-! ### Reading a name -/

/-- A result for a register of the running context is still on its way (R146). -/
def State.busy (s : State) (n : Nat) : Bool :=
  s.me.due.any (fun d => d.ctx == s.ctx && d.dest == some n
    && !(d.value.isNone && s.me.handler == some s.ctx))

/-- Pops the mailbox head: a word in a scalar position, the whole entry in a vector position (R119). -/
def State.popMail (s : State) (pv : Bool) : Except Stop (Val × State) :=
  match s.me.mbox with
  | [] => .error .wait
  | e :: rest =>
    if pv then .ok ({ vec := true, bits := e.body }, s.modMe (fun c => { c with mbox := rest }))
    else
      let v : Word := e.body.extractLsb' (64 * e.next) 64
      let mbox := if ceilDiv (max e.len 8) 8 ≤ e.next + 1 then rest else { e with next := e.next + 1 } :: rest
      .ok (Val.ofS v, s.modMe (fun c => { c with mbox := mbox }))

/-- A vector register that an instruction reads beside the ones that it names; past v15, where a repetition's stagger can move it, a free
value. [DESIGN CHOICE, log 101] -/
def State.furtherVec (s : State) (x : Nat) : VWord × State :=
  if x < 48 then (s.cx.vreg (x - 32), s) else (Config.freeVec s.draw.1, s.draw.2)

/-- Src (R99): the value that a name gives in a position, with the wait or pop that it takes. A window entry whose VAL is 0
reads as zero (R145); a completion element fills bytes 7:0 of a vector position and zeros the rest (R222). -/
def State.readName (s : State) (win : Window) (fwd pv : Bool) (n : Nat) : Except Stop (Val × State) :=
  if n ≤ 31 then if s.busy n then .error .wait else .ok (Val.ofS (s.cx.sreg n), s)
  else if n ≤ 47 then
    if s.busy n then .error .wait else .ok ({ vec := true, bits := s.cx.vreg (n - 32) }, s)
  else if n ≤ 51 then
    let e := win.entry (n - 47)
    match e.pend with
    | some _ => .error .wait
    | none => .ok ({ vec := e.vec, bits := if e.val then e.bits else 0 }, s)
  else if n = 53 then
    match s.me.cq with
    | [] => .error .wait
    | v :: rest => .ok ({ vec := pv, bits := widen v }, s.modMe (fun c => { c with cq := rest }))
  else if n = 55 then s.popMail pv
  else if n = 56 then s.popLink true fwd
  else if n = 57 then s.popLink false fwd
  else .error (illegal 7)

/-- A link that a name or its onward push goes toward is absent (R152). -/
def State.linkGone (s : State) (fwd : Bool) (src : Bool) (n : Nat) : Option Stop :=
  let gone (w : Bool) : Bool := (s.link s.cur w).isNone
  if n = 56 then
    (if gone true then some (linkTrap true) else if src && fwd && gone false then some (linkTrap false) else none)
  else if n = 57 then
    (if gone false then some (linkTrap false) else if src && fwd && gone true then some (linkTrap true) else none)
  else none

/-- Reads a field's operand if the instruction reads it. -/
def State.readField (s : State) (win : Window) (fwd : Bool) (reads pv : Bool) (n : Nat) :
    Except Stop (Val × State) :=
  if reads then s.readName win fwd pv n else .ok (Val.ofS 0, s)

/-- Reads X, Y and Z in that order (R37, R150): links that are absent trap first, then an empty head, a
pending entry or register waits, or every pop takes place. A register of the destination whose result is
still on its way, and a source of an access that may fault late (R330), wait as well. -/
def State.readAll (s : State) (sh : Shape) (e : Fields) (o : Opnds) (win : Window) : Except Stop (Vals × State) :=
  let tgt := sh.target e o
  let gone := (if (sh.xUse e).reads then (s.linkGone o.f true o.x).toList else [])
    ++ (if (sh.yUse e).reads then (s.linkGone o.f true o.y).toList else [])
    ++ (if e.zp && sh.z == .src then (s.linkGone o.f true o.z).toList else [])
    ++ (match tgt with
      | some n => (s.linkGone false false n).toList
      | none => [])
  let mine := s.me.handler == some 0
  let guard := s.ctx == 0 && s.me.ring.any (fun kr => kr.2.st == 0 && kr.2.cls != 0 && kr.2.hand == mine
    && ((match tgt with
      | some n => kr.2.win || (1 ≤ n && n ≤ 47 && kr.2.srcs.contains n)
      | none => false)
    || (match sh.kOut o.y with
      | some k => kr.2.srcs.contains (64 + k)
      | none => false)))
  match gone with
  | st :: _ => .error st
  | [] =>
    if guard then .error .wait
    else if (match tgt with
      | some n => 1 ≤ n && n ≤ 47 && s.busy n
      | none => false) then .error .wait
    else match s.readField win o.f (sh.xUse e).reads sh.xv o.x with
      | .error st => .error st
      | .ok (x, s) =>
        match s.readField win o.f (sh.yUse e).reads sh.yv o.y with
        | .error st => .error st
        | .ok (y, s) =>
          match s.readField win o.f (e.zp && sh.z == .src) sh.zv o.z with
          | .error st => .error st
          | .ok (z, s) => .ok ({ x := x, y := y, z := z }, s)

/-! ### Writing a result (Dst, R99) -/

/-- A window entry that holds a result; a helper's entries hold 64 bits (R143, R145). -/
def entryOf (ctx : Nat) (r : Res) : WinEntry :=
  if ctx = 0 then { val := true, vec := r.vec, pend := none, bits := r.bits }
  else { val := true, vec := false, pend := none, bits := widen (lane0 r.bits) }

/-- Writes a register of a context by its name. -/
def Context.setName (x : Context) (n : Nat) (v : VWord) : Context :=
  if n ≤ 31 then x.setS n (lane0 v) else if n ≤ 47 then x.setV (n - 32) v else x

/-- Fills a pending window entry of a context, and of its shadow while its handler is active (R146, R326). -/
def Core.fillWin (c : Core) (d : Delivery) (e : WinEntry) : Core :=
  let c := c.modContext d.ctx (fun x => { x with win := x.win.fill d.id e })
  if c.handler = some d.ctx then { c with shadow := { c.shadow with win := c.shadow.win.fill d.id e } } else c

/-- Delivers a result: the window position, the register, and the end of the dispatch-ring entry. [DEDUCED, log 11] -/
def Core.deliver (c : Core) (d : Delivery) (v : VWord) : Core :=
  let r : Res := if d.vec then .v v else .s (lane0 v)
  let c := { c with due := c.due.filter (fun x => x.id != d.id) }.fillWin d (entryOf d.ctx r)
  let c := match d.dest with
    | some n => c.modContext d.ctx (fun x => x.setName n v)
    | none => c
  match d.ring with
  | some k => { c with ring := merase c.ring k }
  | none => c

/-- Pushes a result into a queue head: a scalar is one word, a vector a whole record; a link takes lane 0. [DEDUCED, log 11, 25] -/
def State.pushHead (s : State) (n : Nat) (r : Res) : Except Stop State :=
  if n = 52 then (match r with
    | .s w => s.pushWord .mat w
    | .v w => s.pushWhole .mat w)
  else if n = 54 then (match r with
    | .s w => s.pushWord .copy w
    | .v w => s.pushWhole .copy w)
  else if n = 58 then (match r with
    | .s w => s.pushWord .rule w
    | .v w => s.pushWhole .rule w)
  else if n = 56 then s.pushLink true (lane0 r.bits)
  else if n = 57 then s.pushLink false (lane0 r.bits)
  else .ok s

/-- Dst: the result goes to the name and becomes d1. With `late` it stays pending until its delivery (R146). [DEDUCED, log 11] -/
def State.dst (s : State) (n : Nat) (r : Res) (ring : Option Nat) : Except Stop State :=
  match s.pushHead n r with
  | .error e => .error e
  | .ok s =>
    if s.late then
      let id := s.me.nextId
      let d : Delivery :=
        { id := id, ctx := s.ctx, dest := if 1 ≤ n && n ≤ 47 then some n else none, vec := r.vec,
          value := some r.bits, ring := ring }
      let s := s.modMe (fun c => { c with nextId := id + 1, due := c.due ++ [d],
                                          ring := match ring with
                                            | none => c.ring
                                            | some k => mset c.ring k { mget RingEntry.empty c.ring k with id := some id, wpos := 0 } })
      .ok (s.modCx (fun x => { x with win := x.win.push { val := false, vec := r.vec, pend := some id, bits := 0 } }))
    else
      .ok (s.modCx (fun x => { x.setName n r.bits with win := x.win.push (entryOf s.ctx r) }))

/-! ### The next PC (R25, R158) -/

/-- The hardware loop whose end the sequential next PC meets: the first of 0 to 3 with LC at least 1. -/
def Context.loopAt (x : Context) (next : Word) : Option Nat :=
  (upTo 4).find? (fun n => mget 0 x.le n == next && mget 0 x.lc n != 0)

/-- Moves a context to its sequential next PC, through the loop-back of R158. [DEDUCED, log 28] -/
def Context.advance (x : Context) (next : Word) : Context :=
  match x.loopAt next with
  | none => { x with pc := next }
  | some n =>
    let c := mget (0 : Word) x.lc n
    if c = 1 then { x with lc := mset x.lc n 0, pc := next }
    else { x with lc := mset x.lc n (c - 1), pc := mget 0 x.ls n }

/-! ### Issue -/

/-- The names that an instruction reads, from operands that REP may have staggered. -/
def readNames (sh : Shape) (e : Fields) (o : Opnds) : List Nat :=
  (if (sh.xUse e).reads then [o.x] else []) ++ (if (sh.yUse e).reads then [o.y] else [])
    ++ (if e.zp && sh.z == .src then [o.z] else [])

/-- What an instruction's effect leaves: the state, the result, and the target of a taken branch. -/
structure Done where
  /-- The state after the effect. -/
  st : State
  /-- The result, for Dst. -/
  res : Option Res
  /-- The PC of a taken branch or jump. -/
  jump : Option Word
  /-- What follows the write of the result. -/
  after : State → State := fun s => s

/-- The effect of an instruction: of its operands, their values and the state after the pops. -/
abbrev Eff := Opnds → Vals → State → Except Stop Done

/-- An effect that gives a result and goes on. -/
def Done.result (s : State) (r : Res) : Except Stop Done := .ok { st := s, res := some r, jump := none }

/-- An effect without a result. -/
def Done.plain (s : State) : Except Stop Done := .ok { st := s, res := none, jump := none }

/-- The place of an instruction in the opcode map, as one number: page * 4096 + MAJ * 8 + MIN. -/
def placeOf (c : Code) : Nat := c.p1.toNat * 4096 + c.maj * 8 + c.min

/-- The instructions that take a dispatch-ring entry as vector instructions (R329): MAJ 21 to 25, VLD, VST,
VLDS, VSTS, VGTH, VSCT. -/
def isVector (c : Code) : Bool :=
  !c.p1 && ((21 ≤ c.maj && c.maj ≤ 25) || (c.maj == 8 && 5 ≤ c.min) || (c.maj == 10 && c.min == 7)
    || (c.maj == 12 && 4 ≤ c.min))

/-- The six vector accesses, which fault late (R101). -/
def isVAccess (c : Code) : Bool := isVector c && c.maj ≤ 12

/-- An instruction on registers alone, which no access in flight holds back; every other one waits until the
core's posted requests are performed (R114, R127). -/
def isPlain (c : Code) : Bool :=
  if c.p1 then c.maj == 5 else c.maj ≤ 6 || (13 ≤ c.maj && c.maj ≤ 19) || (21 ≤ c.maj && c.maj ≤ 25)

/-- The instruction pushes: its destination is a queue head, or with MOD F it pops a link's word and pushes it onward (R37, R151). -/
def pushes (c : Code) (sh : Shape) (o : Opnds) : Bool :=
  (match sh.target c.e o with
    | some n => decide (52 ≤ n)
    | none => false)
  || (o.f && (readNames sh c.e o).any (fun n => n == 56 || n == 57))

/-- An instruction that takes effect only once every earlier access is performed: STL, a releasing atomic or RED, FENCE, an
arrival at a barrier, TRIG, EXIT, HSTART, a push, an activity's instruction, LAUNCH, the write of XLAT.INV, and that of CORE.MSB, whose
operations write and read local memory (R64, R106, R113, R115, R136, R274, R279, R281, R283, R284, R289, R293, R336). -/
def isRelease (c : Code) (sh : Shape) (o : Opnds) : Bool :=
  pushes c sh o
  || (if c.p1 then (c.maj == 1 && c.min ≤ 2) || (c.maj == 2 && c.min != 1) || (c.maj == 3 && c.min != 4 && c.min != 7)
      || (c.maj == 4 && c.min == 0)
    else match c.maj with
      | 8 => c.min == 4
      | 9 => 2 ≤ o.o
      | 10 => c.min ≤ 6 && 2 ≤ o.o
      | 11 => c.min == 0 || c.min == 2
      | 12 => c.min ≤ 1
      | 26 => true
      | 27 => c.min != 1 && c.min ≤ 5
      | 28 => c.min == 0
      | 29 => c.min == 1 && (o.imm.toNat == 0x058 || o.imm.toNat == 0x014)
      | _ => false)

/-- An instruction with a memory operand [y+off], or that reads or writes local, cluster or rule memory itself: of page 1 RLRD, RLWR,
CKPT, BMEM and CPQZ (R263, R294 to R296). [DEDUCED, log 29] -/
def hasMemory (c : Code) : Bool :=
  if c.p1 then (c.maj == 1 && 6 ≤ c.min) || (c.maj == 4 && (c.min == 1 || c.min == 2 || c.min == 3))
  else ((7 ≤ c.maj && c.maj ≤ 10) || (c.maj == 12 && c.min != 2 && c.min != 3) || (c.maj == 6 && c.min == 7)
    || c.maj == 26)

/-- A vector access of the running context has failed and its fault has not arrived yet (R330). -/
def State.failing (s : State) : Bool :=
  s.ctx == 0 && s.me.ring.any (fun kr => !kr.2.mat && kr.2.st == 0 && kr.2.cls != 0
    && kr.2.hand == (s.me.handler == some 0))

/-- The instruction waits behind an operation of CORE.MSB that is under way (R336), behind the core's posted requests, or, when
it makes an access or takes effect only once every earlier access is performed, behind a vector access that has failed and will
be replayed: no access overtakes it (R127, R138 to R142). [DESIGN CHOICE, log 10; DEDUCED, log 50] -/
def State.behind (s : State) (c : Code) (sh : Shape) (o : Opnds) : Bool :=
  wfield s.me.msb 0 3 != 0
  || (s.postedBy s.cur && (!(isPlain c) || pushes c sh o))
  || ((isRelease c sh o || hasMemory c) && s.failing)

/-- The wait instructions that discard a partial record (R70): MWAIT, BBWAIT, BWT, BARW, BSTEP, HJOIN, FUSE,
REJOIN. -/
def isWaitInsn (c : Code) : Bool :=
  !c.p1 && ((c.maj == 11 && (c.min == 1 || c.min == 6)) || (c.maj == 27 && 1 ≤ c.min && c.min ≤ 3)
    || (c.maj == 28 && (c.min == 2 || c.min == 3 || c.min == 5)))

/-- The waits that count toward the long-wait threshold (R299): all of these but HJOIN. -/
def isCounted (c : Code) : Bool := isWaitInsn c && !(c.maj == 28 && c.min == 2)

/-- The least level that may read a register. [DEDUCED, log 39] -/
def readLevel (i : Nat) : Nat :=
  if i == 0x014 || i == 0x015 || (0x017 ≤ i && i ≤ 0x01B) || i == 0x050 || i == 0x051 || i == 0x058 || 0x0C0 ≤ i then 1
  else 0

/-- The least level that may write a register; 3 for one that is writable at no level. -/
def writeLevel (i : Nat) : Nat :=
  if i == 0x000 || (0x060 ≤ i && i ≤ 0x06B) then 0
  else if i == 0x050 || i == 0x051 || 0x100 ≤ i then 2
  else if i == 0x001 || i == 0x010 || i == 0x011 || (0x020 ≤ i && i ≤ 0x022) || i == 0x030
    || (0x040 ≤ i && i ≤ 0x042) then 3
  else 1

/-- The S-only instructions (R44); LAUNCH, SRD and SWR decide by their operands. -/
def sOnly (c : Code) : Bool :=
  c.p1 && ((c.maj == 1 && 5 ≤ c.min) || (c.maj == 3 && (c.min == 5 || c.min == 6))
    || (c.maj == 4 && c.min != 0 && c.min != 5))

/-- The level may not run an instruction (R44, R286): an S-only one at U level, SRD of a register that it may not read, SWR of
one that it may not write. A register that no level writes is barred at U level alone. -/
def privBars (c : Code) (o : Opnds) (lvl : Nat) : Bool :=
  (sOnly c && lvl == 0) || (!c.p1 && c.maj == 29 && ((c.min == 0 && decide (lvl < readLevel o.imm.toNat))
    || (c.min == 1 && (if writeLevel o.imm.toNat = 3 then lvl == 0 else decide (lvl < writeLevel o.imm.toNat)))))

/-- The instructions after which a gang's fetch waits for every member (R155). -/
def isParting (c : Code) : Bool :=
  !c.p1 && (c.maj == 16 || c.maj == 18 || c.maj == 19 || (c.maj == 20 && (c.min == 1 || c.min == 2)))

/-- Counts the instructions that an assembling context issues without a push (R70). -/
def countAsm (k : Nat) (before after : Option Asm) : Option Asm :=
  match before, after with
  | some b, some a => if a.ctx == k && a.words == b.words then some { a with since := a.since + 1 } else some a
  | _, a => a

/-- Poisons a core that has read an uncorrectable error (R361): its contexts stop before the instruction
retires, its FIFO and unstarted matrix commands are discarded, its heartbeats stop. -/
def State.poisonCore (s : State) (p : Nat) : State :=
  (s.leaveGang p).modCore p (fun c =>
    { c.stopAll .poisoned with
      poisoned := true, poisonMail := c.mbox.any (fun e => e.cls != 0), fifo := [], mq := [],
      asmC := none, asmM := none, asmR := none })

/-- The trap message of a failed translation (R66): kinds 1 to 7. A refusal, kind 8, sends none and is counted at its target
(R67). -/
def State.pageMsg (s : State) (kind acc va : Nat) (cid : BitVec 12) (agent : Nat) : State :=
  if 1 ≤ kind && kind ≤ 7 then
    s.trapMsg s.cur 0x20 kind acc agent cid (BitVec.ofNat 64 (va / 65536 % 2 ^ 41))
  else if kind = 8 then
    s.countRefusal { die := dieOf s.cur, master := masterOf s.myCl agent, cid := cid, carried := none } va acc
  else s

/-- The class, subcause and info of a vector access's fault (R321), with the trap message of a page fault. [DEDUCED, log 24] -/
def lateCause (st : Stop) : Option (Nat × Word) :=
  match st with
  | .trap c => if c.cls = 3 then some (c.sub, c.info) else if c.cls = 4 then some (5, c.info) else none
  | .page k _ va _ _ => some (0x10 + k, BitVec.ofNat 64 va)
  | _ => none

/-- Ends the issue of the running context's instruction, of parcels that end at `next`: the PC moves, the
context is ready, a gang member's queue, from which it was issued, advances. [DEDUCED, log 33] -/
def State.retire (s : State) (c : Code) (next : Word) (jump : Option Word) (queued : Bool) : State :=
  let s := s.modCx (fun x =>
    { (match jump with
      | some t => { x with pc := t }
      | none => x.advance next) with
      run := (match x.run with
        | .waiting => .ready
        | r => r) })
  if queued && s.ctx = 0 && s.me.queued then
    (s.modMe (fun m => { m with
      queue := m.queue.drop 1, hold := m.memb != 0 && (m.hold || isParting c),
      outcome := if isParting c && c.maj != 20 then some jump.isSome else none })).resolveGang s.cur
  else s

/-- A precise trap of the instruction at the running context's PC: class PRIV has INFO 0 (R321). -/
def State.trapHere (s : State) (c : Cause) : State := s.takeTrap (if c.cls = 4 then { c with info := 0 } else c) s.cx.pc

/-- Marks the running context as waiting (R148). -/
def State.waitHere (s : State) (c : Code) : State :=
  let s := s.modCx (fun x => { x with run := .waiting })
  if s.ctx = 0 && isCounted c then s.modMe (fun m => { m with counted := true }) else s

/-- Runs an effect with its operands and its result. `ring` is the dispatch-ring entry it holds. [DESIGN CHOICE, log 10] -/
def State.perform (s : State) (sh : Shape) (e : Fields) (o : Opnds) (eff : Eff) (ring : Option Nat) :
    Except Stop (State × Option Word) :=
  match s.readAll sh e o s.cx.win with
  | .error st => .error st
  | .ok (vs, s) =>
    match eff o vs s with
    | .error st => .error st
    | .ok d =>
      match d.res with
      | none => .ok (d.after d.st, d.jump)
      | some r =>
        match sh.target e o with
        | none => .ok (d.after d.st, d.jump)
        | some n =>
          match d.st.dst n r ring with
          | .error st => .error st
          | .ok s => .ok (d.after s, d.jump)

/-- A vector access that faults (R101, R330): its ring entry keeps the fault, its window position and register
stay pending, nothing else changes. Without `late` the fault has arrived at once. -/
def State.faultLate (s : State) (sh : Shape) (e : Fields) (o : Opnds) (k : Nat) (sub : Nat) (info : Word) : State :=
  let id := s.me.nextId
  let tgt := sh.target e o
  let srcs := (readNames sh e o).filter (fun n => n ≤ 47) ++ sh.also o.x
  let r := mget RingEntry.empty s.me.ring k
  let r := { r with st := if s.late then 0 else 2, cls := 0x0D, sub := sub, info := info, id := some id,
                    wpos := if tgt.isSome then 0 else 7, srcs := srcs,
                    win := (readNames sh e o).any (fun n => 48 ≤ n && n ≤ 51), old := s.cx.win, rep := s.cx.rep,
                    hand := s.me.handler == some s.ctx }
  let d : Delivery :=
    { id := id, ctx := s.ctx, dest := match tgt with
        | some n => if 1 ≤ n && n ≤ 47 then some n else none
        | none => none
      vec := false, value := none, ring := some k }
  let s := s.modMe (fun c => { c with nextId := id + 1, due := c.due ++ [d], ring := mset c.ring k r })
  match tgt with
  | none => s
  | some _ => s.modCx (fun x => { x with win := x.win.push { val := false, vec := false, pend := some id, bits := 0 } })

/-- The stop of an instruction becomes a trap, a wait or a poisoning. -/
def State.stopped (s : State) (c : Code) (st : Stop) : State :=
  match st with
  | .wait => s.waitHere c
  | .hold f => (f s).waitHere c
  | .trap cause => s.trapHere cause
  | .page k acc va cid agent =>
    if s.trapWaits then s.waitHere c
    else (s.pageMsg k acc va cid agent).trapHere { cls := 6, sub := k, info := BitVec.ofNat 64 va }
  | .poison t => t.poisonCore t.cur

/-- Issues an instruction of a form with given operands. `next` is the address after it. `rep` marks a reissue
of REP; the PC moves at the last one only. A vector access of a helper, which has no dispatch ring, faults precisely. [DEDUCED, log 85] -/
def State.issueWith (s : State) (c : Code) (sh : Shape) (o : Opnds) (eff : Eff) (next : Word)
    (rep : Option Bool) : State :=
  let s := if isWaitInsn c then s.dropAsm s.cur s.ctx else s
  let before := s.me
  let fin (s : State) (jump : Option Word) : State :=
    let s := s.modMe (fun m =>
      { m with asmC := countAsm s.ctx before.asmC m.asmC, asmM := countAsm s.ctx before.asmM m.asmM,
               asmR := countAsm s.ctx before.asmR m.asmR, counted := if s.ctx = 0 then false else m.counted,
               waited := if s.ctx = 0 then 0 else m.waited })
    match rep with
    | none => s.retire c next jump before.queued
    | some true => (s.retire c next jump false).modCx (fun x => { x with rep := Rep.none })
    | some false => s.modCx (fun x =>
      { x with run := (match x.run with
                 | .waiting => .ready
                 | r => r)
               rep := if x.rep.parcels.isEmpty then x.rep else { x.rep with next := x.rep.next + 1 } })
  if s.behind c sh o then s.waitHere c
  else if isVector c && s.ctx = 0 then
    match s.me.takeRing { RingEntry.empty with pc := s.cx.pc.setWidth 57 } with
    | .error st => s.stopped c st
    | .ok (k, m) =>
      let s1 := s.setCore s.cur m
      match s1.perform sh c.e o eff (some k) with
      | .ok (s2, jump) =>
        fin (if s.late && (s2.me.due.any (fun d => d.ring == some k)) then s2
          else s2.modMe (fun m => { m with ring := merase m.ring k })) jump
      | .error st =>
        match isVAccess c, lateCause st with
        | true, some (sub, info) =>
          let s1 := match st with
            | .page kind acc va cid agent => s1.pageMsg kind acc va cid agent
            | _ => s1
          fin (s1.faultLate sh c.e o k sub info) none
        | _, _ => s.stopped c st
  else match s.perform sh c.e o eff none with
    | .ok (s2, jump) => fin s2 jump
    | .error st => s.stopped c st

/-- Who decodes for the running context. -/
def State.who (s : State) : Who := if s.ctx = 0 then .control else .helper (s.me.handler == some s.ctx)

/-- Issues an instruction of the running context: what is illegal traps with its lowest subcause (R42), what the level may not
run traps at decode (R44), then it takes effect, traps or waits. -/
def State.issue (s : State) (i : Instr) (eff : Eff) : State :=
  match i.code with
  | none => s
  | some c =>
    match rowAt c.p1 c.maj c.min with
    | none => s
    | some r =>
      let subs := i.subcauses ++ subIf (c.barred r.shape s.who) 7
      if !subs.isEmpty then s.trapHere { cls := 2, sub := lowest subs, info := 0 }
      else if privBars c (r.shape.opnds c.min c.e) s.level then s.trapHere { cls := 4, sub := 0, info := 0 }
      else
        let o := r.shape.opnds c.min c.e
        s.issueWith c r.shape o eff (s.cx.pc + BitVec.ofNat 64 o.len) none

end Sys2Proof.Machine
end

