-- ==== Sys2Proof/Machine/Scalar.lean ====
section
/-! DEFINITION. Integer, immediate, compare, unary, address and division instructions (R182 to R189). -/

namespace Sys2Proof.Machine

/-- What a step answers. -/
abbrev Answer := Host.Outcome State Fault Refusal

/-- An effect whose result is a function of the scalar values of X and Y. -/
def scalarEff (f : Word → Word → Word) : Eff := fun _ v s => Done.result s (.s (f v.x.s v.y.s))

/-- An effect whose result is a function of the scalar value of X and the immediate. -/
def immEff (f : Word → Word → Word) : Eff := fun o v s => Done.result s (.s (f v.x.s o.imm))

/-- An effect whose result is a function of the scalar value of Y. -/
def unaryEff (f : Word → Word) : Eff := fun _ v s => Done.result s (.s (f v.y.s))

/-- 1 when the condition holds, 0 otherwise. -/
def flagWord (b : Bool) : Word := if b then 1 else 0

/-! ### Arithmetic and logic (R182) -/

/-- ADD's effect. -/
def effAdd : Eff := scalarEff (fun a b => a + b)
/-- ADD. -/
def execAdd (e : Fields) (s : State) : Answer := .next (s.issue (.add e) effAdd)
/-- SUB's effect. -/
def effSub : Eff := scalarEff (fun a b => a - b)
/-- SUB. -/
def execSub (e : Fields) (s : State) : Answer := .next (s.issue (.sub e) effSub)
/-- AND's effect. -/
def effAnd : Eff := scalarEff (fun a b => a &&& b)
/-- AND. -/
def execAnd (e : Fields) (s : State) : Answer := .next (s.issue (.and e) effAnd)
/-- OR's effect. -/
def effOr : Eff := scalarEff (fun a b => a ||| b)
/-- OR. -/
def execOr (e : Fields) (s : State) : Answer := .next (s.issue (.or e) effOr)
/-- XOR's effect. -/
def effXor : Eff := scalarEff (fun a b => a ^^^ b)
/-- XOR. -/
def execXor (e : Fields) (s : State) : Answer := .next (s.issue (.xor e) effXor)
/-- SHL's effect: bits 63:6 of the amount are ignored. -/
def effShl : Eff := scalarEff (fun a b => a <<< (b.toNat % 64))
/-- SHL. -/
def execShl (e : Fields) (s : State) : Answer := .next (s.issue (.shl e) effShl)
/-- SHR's effect. -/
def effShr : Eff := scalarEff (fun a b => a >>> (b.toNat % 64))
/-- SHR. -/
def execShr (e : Fields) (s : State) : Answer := .next (s.issue (.shr e) effShr)
/-- SRA's effect. -/
def effSra : Eff := scalarEff (fun a b => a.sshiftRight (b.toNat % 64))
/-- SRA. -/
def execSra (e : Fields) (s : State) : Answer := .next (s.issue (.sra e) effSra)
/-- MUL's effect: bits 63:0 of the product. -/
def effMul : Eff := scalarEff (fun a b => a * b)
/-- MUL. -/
def execMul (e : Fields) (s : State) : Answer := .next (s.issue (.mul e) effMul)
/-- MULH's effect: bits 127:64 of the signed product. -/
def effMulh : Eff := scalarEff (fun a b => BitVec.ofInt 64 (a.toInt * b.toInt / 2 ^ 64))
/-- MULH. -/
def execMulh (e : Fields) (s : State) : Answer := .next (s.issue (.mulh e) effMulh)
/-- MULHU's effect: bits 127:64 of the unsigned product. -/
def effMulhu : Eff := scalarEff (fun a b => BitVec.ofNat 64 (a.toNat * b.toNat / 2 ^ 64))
/-- MULHU. -/
def execMulhu (e : Fields) (s : State) : Answer := .next (s.issue (.mulhu e) effMulhu)
/-- MIN's effect, signed. -/
def effMin : Eff := scalarEff (fun a b => if b.toInt < a.toInt then b else a)
/-- MIN. -/
def execMin (e : Fields) (s : State) : Answer := .next (s.issue (.min e) effMin)
/-- MAX's effect, signed. -/
def effMax : Eff := scalarEff (fun a b => if a.toInt < b.toInt then b else a)
/-- MAX. -/
def execMax (e : Fields) (s : State) : Answer := .next (s.issue (.max e) effMax)
/-- MINU's effect. -/
def effMinu : Eff := scalarEff (fun a b => if b.toNat < a.toNat then b else a)
/-- MINU. -/
def execMinu (e : Fields) (s : State) : Answer := .next (s.issue (.minu e) effMinu)
/-- MAXU's effect. -/
def effMaxu : Eff := scalarEff (fun a b => if a.toNat < b.toNat then b else a)
/-- MAXU. -/
def execMaxu (e : Fields) (s : State) : Answer := .next (s.issue (.maxu e) effMaxu)
/-- ANDN's effect. -/
def effAndn : Eff := scalarEff (fun a b => a &&& ~~~b)
/-- ANDN. -/
def execAndn (e : Fields) (s : State) : Answer := .next (s.issue (.andn e) effAndn)

/-! ### Immediate forms (R183) -/

/-- ADDI's effect. -/
def effAddi : Eff := immEff (fun a i => a + i)
/-- ADDI. -/
def execAddi (e : Fields) (s : State) : Answer := .next (s.issue (.addi e) effAddi)
/-- ANDI's effect. -/
def effAndi : Eff := immEff (fun a i => a &&& i)
/-- ANDI. -/
def execAndi (e : Fields) (s : State) : Answer := .next (s.issue (.andi e) effAndi)
/-- ORI's effect. -/
def effOri : Eff := immEff (fun a i => a ||| i)
/-- ORI. -/
def execOri (e : Fields) (s : State) : Answer := .next (s.issue (.ori e) effOri)
/-- XORI's effect. -/
def effXori : Eff := immEff (fun a i => a ^^^ i)
/-- XORI. -/
def execXori (e : Fields) (s : State) : Answer := .next (s.issue (.xori e) effXori)
/-- SHLI's effect. -/
def effShli : Eff := immEff (fun a i => a <<< i.toNat)
/-- SHLI. -/
def execShli (e : Fields) (s : State) : Answer := .next (s.issue (.shli e) effShli)
/-- SHRI's effect. -/
def effShri : Eff := immEff (fun a i => a >>> i.toNat)
/-- SHRI. -/
def execShri (e : Fields) (s : State) : Answer := .next (s.issue (.shri e) effShri)
/-- SRAI's effect. -/
def effSrai : Eff := immEff (fun a i => a.sshiftRight i.toNat)
/-- SRAI. -/
def execSrai (e : Fields) (s : State) : Answer := .next (s.issue (.srai e) effSrai)
/-- MOVI's effect. -/
def effMovi : Eff := immEff (fun _ i => i)
/-- MOVI. -/
def execMovi (e : Fields) (s : State) : Answer := .next (s.issue (.movi e) effMovi)

/-! ### Compare and select (R184) -/

/-- SEQ's effect. -/
def effSeq : Eff := scalarEff (fun a b => flagWord (a == b))
/-- SEQ. -/
def execSeq (e : Fields) (s : State) : Answer := .next (s.issue (.seq e) effSeq)
/-- SNE's effect. -/
def effSne : Eff := scalarEff (fun a b => flagWord (a != b))
/-- SNE. -/
def execSne (e : Fields) (s : State) : Answer := .next (s.issue (.sne e) effSne)
/-- SLT's effect. -/
def effSlt : Eff := scalarEff (fun a b => flagWord (decide (a.toInt < b.toInt)))
/-- SLT. -/
def execSlt (e : Fields) (s : State) : Answer := .next (s.issue (.slt e) effSlt)
/-- SLTU's effect. -/
def effSltu : Eff := scalarEff (fun a b => flagWord (decide (a.toNat < b.toNat)))
/-- SLTU. -/
def execSltu (e : Fields) (s : State) : Answer := .next (s.issue (.sltu e) effSltu)
/-- SLE's effect. -/
def effSle : Eff := scalarEff (fun a b => flagWord (decide (a.toInt ≤ b.toInt)))
/-- SLE. -/
def execSle (e : Fields) (s : State) : Answer := .next (s.issue (.sle e) effSle)
/-- SLEU's effect. -/
def effSleu : Eff := scalarEff (fun a b => flagWord (decide (a.toNat ≤ b.toNat)))
/-- SLEU. -/
def execSleu (e : Fields) (s : State) : Answer := .next (s.issue (.sleu e) effSleu)
/-- SEL's effect: d1, read as the window stood before the shift, selects; it waits while d1 is pending, and one with VAL = 0 reads as zero. -/
def effSel : Eff := fun _ v s =>
  match s.cx.win.d1.pend with
  | some _ => .error .wait
  | none => Done.result s (.s (if s.cx.win.d1.val && lane0 s.cx.win.d1.bits != 0 then v.x.s else v.y.s))
/-- SEL. -/
def execSel (e : Fields) (s : State) : Answer := .next (s.issue (.sel e) effSel)
/-- MOV's effect. -/
def effMov : Eff := unaryEff (fun b => b)
/-- MOV. -/
def execMov (e : Fields) (s : State) : Answer := .next (s.issue (.mov e) effMov)

/-! ### Unary forms (R185) -/

/-- Leading zero bits of 64. -/
def clz64 (a : Word) : Nat := if a = 0 then 64 else 63 - Nat.log2 a.toNat
/-- Trailing zero bits of 64. -/
def ctz64 (a : Word) : Nat :=
  match firstSuch 64 (fun k => a.getLsbD k) with
  | some k => k
  | none => 64
/-- One bits of 64. -/
def popc64 (a : Word) : Nat := ((upTo 64).filter (fun k => a.getLsbD k)).length
/-- Sign-extends the low `n` bits of a word. -/
def sextWord (n : Nat) (a : Word) : Word := BitVec.ofInt 64 (toSigned n a.toNat)
/-- Zero-extends the low `n` bits of a word. -/
def zextWord (n : Nat) (a : Word) : Word := BitVec.ofNat 64 (a.toNat % 2 ^ n)

/-- CLZ's effect. -/
def effClz : Eff := unaryEff (fun b => BitVec.ofNat 64 (clz64 b))
/-- CLZ. -/
def execClz (e : Fields) (s : State) : Answer := .next (s.issue (.clz e) effClz)
/-- CTZ's effect. -/
def effCtz : Eff := unaryEff (fun b => BitVec.ofNat 64 (ctz64 b))
/-- CTZ. -/
def execCtz (e : Fields) (s : State) : Answer := .next (s.issue (.ctz e) effCtz)
/-- POPC's effect. -/
def effPopc : Eff := unaryEff (fun b => BitVec.ofNat 64 (popc64 b))
/-- POPC. -/
def execPopc (e : Fields) (s : State) : Answer := .next (s.issue (.popc e) effPopc)
/-- SEXT.B's effect. -/
def effSextB : Eff := unaryEff (sextWord 8)
/-- SEXT.B. -/
def execSextB (e : Fields) (s : State) : Answer := .next (s.issue (.sextB e) effSextB)
/-- SEXT.H's effect. -/
def effSextH : Eff := unaryEff (sextWord 16)
/-- SEXT.H. -/
def execSextH (e : Fields) (s : State) : Answer := .next (s.issue (.sextH e) effSextH)
/-- SEXT.W's effect. -/
def effSextW : Eff := unaryEff (sextWord 32)
/-- SEXT.W. -/
def execSextW (e : Fields) (s : State) : Answer := .next (s.issue (.sextW e) effSextW)
/-- ZEXT.H's effect. -/
def effZextH : Eff := unaryEff (zextWord 16)
/-- ZEXT.H. -/
def execZextH (e : Fields) (s : State) : Answer := .next (s.issue (.zextH e) effZextH)
/-- ZEXT.W's effect. -/
def effZextW : Eff := unaryEff (zextWord 32)
/-- ZEXT.W. -/
def execZextW (e : Fields) (s : State) : Answer := .next (s.issue (.zextW e) effZextW)

/-! ### Address forms (R186 to R188) -/

/-- ADDSH1's effect. -/
def effAddsh1 : Eff := scalarEff (fun a b => a + (b <<< 1))
/-- ADDSH1. -/
def execAddsh1 (e : Fields) (s : State) : Answer := .next (s.issue (.addsh1 e) effAddsh1)
/-- ADDSH2's effect. -/
def effAddsh2 : Eff := scalarEff (fun a b => a + (b <<< 2))
/-- ADDSH2. -/
def execAddsh2 (e : Fields) (s : State) : Answer := .next (s.issue (.addsh2 e) effAddsh2)
/-- ADDSH3's effect. -/
def effAddsh3 : Eff := scalarEff (fun a b => a + (b <<< 3))
/-- ADDSH3. -/
def execAddsh3 (e : Fields) (s : State) : Answer := .next (s.issue (.addsh3 e) effAddsh3)
/-- ADDSH4's effect. -/
def effAddsh4 : Eff := scalarEff (fun a b => a + (b <<< 4))
/-- ADDSH4. -/
def execAddsh4 (e : Fields) (s : State) : Answer := .next (s.issue (.addsh4 e) effAddsh4)

/-- pos of a field descriptor (R187). -/
def fieldPos (o : Opnds) : Nat := o.imm.toNat % 64
/-- width of a field descriptor (R187). -/
def fieldWidth (o : Opnds) : Nat := o.imm.toNat / 64 % 64 + 1

/-- BFX's effect (R187). -/
def effBfx : Eff := fun o v s =>
  let f := BitVec.ofNat 64 (bits v.y.s.toNat (fieldPos o) (fieldWidth o))
  Done.result s (.s (if o.imm.getLsbD 12 then sextWord (fieldWidth o) f else f))
/-- BFX. -/
def execBfx (e : Fields) (s : State) : Answer := .next (s.issue (.bfx e) effBfx)
/-- BFI's effect (R187). -/
def effBfi : Eff := fun o v s =>
  Done.result s (.s (wput v.x.s (fieldPos o) (fieldWidth o) v.y.s.toNat))
/-- BFI. -/
def execBfi (e : Fields) (s : State) : Answer := .next (s.issue (.bfi e) effBfi)
/-- LPC's effect (R188). -/
def effLpc : Eff := fun o _ s => Done.result s (.s (s.cx.pc + 2 * o.imm))
/-- LPC. -/
def execLpc (e : Fields) (s : State) : Answer := .next (s.issue (.lpc e) effLpc)

/-! ### Division (R189) -/

/-- DIV's effect: truncated toward zero; all ones for a zero divisor. -/
def effDiv : Eff := scalarEff (fun a b => if b = 0 then BitVec.allOnes 64 else BitVec.ofInt 64 (a.toInt.tdiv b.toInt))
/-- DIV. -/
def execDiv (e : Fields) (s : State) : Answer := .next (s.issue (.div e) effDiv)
/-- DIVU's effect. -/
def effDivu : Eff := scalarEff (fun a b => if b = 0 then BitVec.allOnes 64 else BitVec.ofNat 64 (a.toNat / b.toNat))
/-- DIVU. -/
def execDivu (e : Fields) (s : State) : Answer := .next (s.issue (.divu e) effDivu)
/-- REM's effect: the remainder has the sign of a; a for a zero divisor. -/
def effRem : Eff := scalarEff (fun a b => if b = 0 then a else BitVec.ofInt 64 (a.toInt.tmod b.toInt))
/-- REM. -/
def execRem (e : Fields) (s : State) : Answer := .next (s.issue (.rem e) effRem)
/-- REMU's effect. -/
def effRemu : Eff := scalarEff (fun a b => if b = 0 then a else BitVec.ofNat 64 (a.toNat % b.toNat))
/-- REMU. -/
def execRemu (e : Fields) (s : State) : Answer := .next (s.issue (.remu e) effRemu)

end Sys2Proof.Machine
end

