-- ==== Sys2Proof/Machine/Access.lean ====
section
/-! DEFINITION. Loads, stores, parameter windows, atomics, fences, copies, messages and byte barriers (R98 to R125,
R393). -/

namespace Sys2Proof.Machine

/-! ### Addresses -/

/-- The effective address Src(Y) + Imm(), modulo 2^64 (R99). -/
def effAddr (o : Opnds) (v : Vals) : Nat := (v.y.s + o.imm).toNat

/-- A list of reads, writes or atomics passes its checks before any of them takes place (R101). -/
def State.checkAll (s : State) (n acc : Nat) : List Nat → Except Stop (List (Place × Nat) × State)
  | [] => .ok ([], s)
  | ea :: eas =>
    match s.check ea n acc false 9 true with
    | .error e => .error e
    | .ok (pl, s) =>
      match s.checkAll n acc eas with
      | .error e => .error e
      | .ok (pls, s) => .ok ((pl, ea) :: pls, s)

/-! ### Loads (R102, R103) -/

/-- The access lies in one 64 KiB unit of global addresses. -/
def oneGlobalPage (ea n : Nat) : Bool := spaceOf ea n == some .glob && decide (ea % 0x10000 + n ≤ 0x10000)

/-- A scalar load: at once, or, when its result may come late, by a request that leaves the core and an answer
that returns (R57, R146). `far` tells that it may: a load whose base is a queue head pops it as it issues, and takes its answer
at once. -/
def State.loadScalar (s : State) (far : Bool) (ea n : Nat) (aligned : Bool) : Except Stop (Nat × State) :=
  if far && s.ctx = 0 && (s.late || s.me.flight.isSome) && oneGlobalPage ea n then
    if aligned && ea % n != 0 then .error (addrFault 2 ea)
    else
      let r := s.request ea n 0 0
      s.await r (fun s => s.sendReq r)
  else s.load ea n aligned

/-- The effect of a load of `n` bytes with an extension. -/
def loadEff (n : Nat) (aligned : Bool) (ext : Nat → Word) : Eff := fun o v s =>
  match s.loadScalar (decide (o.y < 52)) (effAddr o v) n aligned with
  | .error e => .error e
  | .ok (x, s) => Done.result s (.s (ext x))

/-- LD.B's effect. -/
def effLdB : Eff := loadEff 1 false (fun x => sextWord 8 (BitVec.ofNat 64 x))
/-- LD.B. -/
def execLdB (e : Fields) (s : State) : Answer := .next (s.issue (.ldB e) effLdB)
/-- LD.BU's effect. -/
def effLdBu : Eff := loadEff 1 false (BitVec.ofNat 64)
/-- LD.BU. -/
def execLdBu (e : Fields) (s : State) : Answer := .next (s.issue (.ldBu e) effLdBu)
/-- LD.H's effect. -/
def effLdH : Eff := loadEff 2 false (fun x => sextWord 16 (BitVec.ofNat 64 x))
/-- LD.H. -/
def execLdH (e : Fields) (s : State) : Answer := .next (s.issue (.ldH e) effLdH)
/-- LD.HU's effect. -/
def effLdHu : Eff := loadEff 2 false (BitVec.ofNat 64)
/-- LD.HU. -/
def execLdHu (e : Fields) (s : State) : Answer := .next (s.issue (.ldHu e) effLdHu)
/-- LD.W's effect. -/
def effLdW : Eff := loadEff 4 false (fun x => sextWord 32 (BitVec.ofNat 64 x))
/-- LD.W. -/
def execLdW (e : Fields) (s : State) : Answer := .next (s.issue (.ldW e) effLdW)
/-- LD.WU's effect. -/
def effLdWu : Eff := loadEff 4 false (BitVec.ofNat 64)
/-- LD.WU. -/
def execLdWu (e : Fields) (s : State) : Answer := .next (s.issue (.ldWu e) effLdWu)
/-- LD.D's effect. -/
def effLdD : Eff := loadEff 8 false (BitVec.ofNat 64)
/-- LD.D. -/
def execLdD (e : Fields) (s : State) : Answer := .next (s.issue (.ldD e) effLdD)
/-- LDA's effect (R103): a later access of the context is never performed before it, since each access is
performed when it issues. -/
def effLda : Eff := loadEff 8 true (BitVec.ofNat 64)
/-- LDA. -/
def execLda (e : Fields) (s : State) : Answer := .next (s.issue (.lda e) effLda)

/-! ### Parameter windows (R92, R93, R104) -/

/-- The launch whose group a core runs. -/
def State.launchOf (s : State) (p : Nat) : Option (Nat × Launch) :=
  match (s.core p).group, s.partOf p with
  | some g, some q =>
    match (s.part q).launches.find? (fun l => l.serial == g.launch) with
    | some l => some (q, l)
    | none => none
  | _, _ => none

/-- The cluster unit reading for a launch's partition. -/
def unitAgent (cl : Nat) (q : Nat) (cid : BitVec 12) : Agent :=
  { die := cl / 256, master := masterOf cl 11, cid := cid, carried := some q }

/-- The line of the window cache that holds a virtual address. [DEDUCED, log 34] -/
def Cluster.wline (c : Cluster) (cid : BitVec 12) (va : Nat) : Option VWord :=
  (c.wcache.find? (fun w => w.cid == cid && w.va == va / 64 * 64)).map (·.bits)

/-- Fills the window cache's line of a backing address for a core (R93); the cache holds 1,024 lines. A failure comes with the state that the
translation of the line has left (R62). A backing address that is no global address is translated as it stands: the walk looks at VA[56:0]
alone. [DEDUCED, log 34; DESIGN CHOICE, log 103] -/
def State.fillLine (s : State) (p q : Nat) (cid : BitVec 12) (va : Nat) : Except (GFail × State) State :=
  let cl := clusterOf p
  let line := va / 64 * 64
  match s.gcheck (unitAgent cl q cid) line 64 0 9 with
  | .error e => .error (e, s)
  | .ok (ps, s) =>
    if ps.any (fun p => s.hardErr .phys p.pa p.n) then .error ((11, line), s)
    else
      let w : WLine := { cid := cid, va := line, bits := BitVec.ofNat 512 (s.gread ps) }
      .ok (((s.correctAll p ps).clearErr (.win cl) line 64).modCluster cl (fun c => { c with wcache := (w :: c.wcache).take 1024 }))

/-- One backing byte of a window through the cache (WindowRead of R104). With `late` a miss waits for WINDOW_CACHE_FILL, unless
a fill of the line has failed. -/
def State.windowByte (s : State) (q : Nat) (cid : BitVec 12) (va : Nat) : Except Stop (Nat × State) :=
  let line := va / 64 * 64
  let hit (s : State) : Option Nat :=
    match (s.cluster s.myCl).wline cid va with
    | some b => some (bits b.toNat (8 * (va % 64)) 8)
    | none => none
  match hit s with
  | some b => if s.hardErr (.win s.myCl) va 1 then .error (.poison s) else .ok (b, s.correct s.cur (.win s.myCl) va 1)
  | none =>
    if s.late && s.ctx = 0 && s.me.wmiss != some (cid, line, true) then
      .error (.hold (fun s => s.modMe (fun c => { c with wmiss := some (cid, line, false) })))
    else if s.pathHolds (unitAgent s.myCl q cid) line 64 0 then .error .wait
    else match s.fillLine s.cur q cid va with
    | .error (e, t) => if e.1 = 11 then .error (.poison t) else .error (.page e.1 0 va cid 11)
    | .ok s =>
      match hit s with
      | some b => .ok (b, s)
      | none => .ok (0, s)

/-- The bytes of a window from an offset, zeros from the bound on. -/
def State.windowBytes (s : State) (q : Nat) (cid : BitVec 12) (base size : Nat) : Nat → Nat → Except Stop (Nat × State)
  | 0, _ => .ok (0, s)
  | n + 1, o =>
    match (if o < size then s.windowByte q cid ((base + o) % 2 ^ 64) else .ok (0, s)) with
    | .error e => .error e
    | .ok (b, s) =>
      match s.windowBytes q cid base size n (o + 1) with
      | .error e => .error e
      | .ok (r, s) => .ok (b + 256 * r, s)

/-- PWLD's effect (R92, R93, R104). -/
def effPwld : Eff := fun o v s =>
  let ea := effAddr o v
  if !(decide (0x04000000 ≤ ea) && decide (ea + 8 ≤ 0x04800000) && ea % 0x100000 ≤ 0xFFFF8) then
    .error (addrFault 1 ea)
  else
    let w := (ea - 0x04000000) / 0x100000
    let off := ea % 0x100000
    match s.launchOf s.cur with
    | none => .error (.trap { cls := 5, sub := 0, info := BitVec.ofNat 64 w })
    | some (q, l) =>
      match mfind l.wins w with
      | none => .error (.trap { cls := 5, sub := 0, info := BitVec.ofNat 64 w })
      | some (base, size) =>
        match s.windowBytes q l.cid base size 8 off with
        | .error e => .error e
        | .ok (x, s) =>
          let s := if s.ctx = 0 then s.modMe (fun c => { c with wmiss := none }) else s
          Done.result (if size < off + 8 then s.sticky 8 else s) (.s (BitVec.ofNat 64 x))
/-- PWLD. -/
def execPwld (e : Fields) (s : State) : Answer := .next (s.issue (.pwld e) effPwld)

/-! ### Stores (R105, R106) -/

/-- The effect of a store of `n` bytes. -/
def storeEff (n : Nat) (aligned : Bool) : Eff := fun o v s =>
  match s.store (effAddr o v) n aligned v.x.s.toNat with
  | .error e => .error e
  | .ok s => Done.plain s

/-- ST.B's effect. -/
def effStB : Eff := storeEff 1 false
/-- ST.B. -/
def execStB (e : Fields) (s : State) : Answer := .next (s.issue (.stB e) effStB)
/-- ST.H's effect. -/
def effStH : Eff := storeEff 2 false
/-- ST.H. -/
def execStH (e : Fields) (s : State) : Answer := .next (s.issue (.stH e) effStH)
/-- ST.W's effect. -/
def effStW : Eff := storeEff 4 false
/-- ST.W. -/
def execStW (e : Fields) (s : State) : Answer := .next (s.issue (.stW e) effStW)
/-- ST.D's effect. -/
def effStD : Eff := storeEff 8 false
/-- ST.D. -/
def execStD (e : Fields) (s : State) : Answer := .next (s.issue (.stD e) effStD)
/-- STL's effect (R106): every earlier access has been performed. -/
def effStl : Eff := storeEff 8 true
/-- STL. -/
def execStl (e : Fields) (s : State) : Answer := .next (s.issue (.stl e) effStl)

/-! ### Vector accesses (R107 to R111) -/

/-- VLD's effect. -/
def effVld : Eff := fun o v s =>
  match s.load (effAddr o v) 64 false with
  | .error e => .error e
  | .ok (x, s) => Done.result s (.v (BitVec.ofNat 512 x))
/-- VLD. -/
def execVld (e : Fields) (s : State) : Answer := .next (s.issue (.vld e) effVld)

/-- VST's effect: a scalar source is broadcast as eight copies of its 64 bits. -/
def effVst : Eff := fun o v s =>
  match s.store (effAddr o v) 64 false (v.x.v 8).toNat with
  | .error e => .error e
  | .ok s => Done.plain s
/-- VST. -/
def execVst (e : Fields) (s : State) : Answer := .next (s.issue (.vst e) effVst)

/-- VLDS's effect: one element in every lane. -/
def effVlds : Eff := fun o v s =>
  let n := laneBytes o.t
  match s.load (effAddr o v) n false with
  | .error e => .error e
  | .ok (x, s) => Done.result s (.v (broadcast n (BitVec.ofNat 64 x)))
/-- VLDS. -/
def execVlds (e : Fields) (s : State) : Answer := .next (s.issue (.vlds e) effVlds)

/-- A lane of a vector store: its place, its address and its data. -/
abbrev StoreLane := Place × Nat × Nat

/-- Writes lanes at checked places in ascending order. -/
def State.putEach (s : State) (n : Nat) (ls : List StoreLane) : State := ls.foldl (fun s l => s.put l.1 l.2.1 n l.2.2) s

/-- The pieces of main memory that a lane takes. -/
def StoreLane.pieces (l : StoreLane) : List Piece :=
  match l.1 with
  | .glob ps => ps
  | _ => []

/-- A twin's lanes to global memory are one paired operation, so that what they write together is written together (R128, R365).
[DEDUCED, log 54] -/
def State.putFar (s : State) (n : Nat) (ls : List StoreLane) : State :=
  let ps := ls.flatMap StoreLane.pieces
  let eas := ls.foldr (fun l a => l.2.1 + 2 ^ 64 * a) 0
  let x := ls.foldr (fun l a => l.2.2 % 256 ^ n + 256 ^ n * a) 0
  match s.pairSend s.cur 0 eas (n * ls.length) x false (.mem { s.request (ls.headD (.loc 0, 0, 0)).2.1 (n * ls.length) 1 (BitVec.ofNat 512 x) with
    pas := ps.map (fun p => (p.pa, p.n)) }) with
  | .alone => s.gwrite ps x
  | .done _ s => s
  | .sent s => s

/-- Writes the lanes of a vector store: a lane meets the error of a line that it merges into (R88). -/
def State.putLanes (s : State) (n : Nat) (pls : List (Place × Nat)) (xs : List Nat) : Except Stop State :=
  let ls : List StoreLane := (upTo pls.length).map (fun i => ((pls.getD i (.loc 0, 0)).1, (pls.getD i (.loc 0, 0)).2, xs.getD i 0))
  if ls.any (fun l => s.mergeBad l.1 n) then .error (.poison s)
  else if s.me.twin.isNone then .ok (s.putEach n ls)
  else
    let far := ls.filter (fun l => !l.pieces.isEmpty)
    let s := s.putEach n (ls.filter (fun l => l.pieces.isEmpty))
    .ok (if far.isEmpty then s else s.putFar n far)

/-- VSTS's effect: the lanes that k1 selects. -/
def effVsts : Eff := fun o v s =>
  let n := laneBytes o.t
  let k := s.cx.kreg 1
  let sel := (upTo (64 / n)).filter (fun i => k.getLsbD i)
  let x := v.x.v n
  match s.checkAll n 1 (sel.map (fun i => (effAddr o v + i * n) % 2 ^ 64)) with
  | .error e => .error e
  | .ok (pls, s) =>
    match s.putLanes n pls (sel.map (fun i => laneAt x n i)) with
    | .error e => .error e
    | .ok s => Done.plain s
/-- VSTS. -/
def execVsts (e : Fields) (s : State) : Answer := .next (s.issue (.vsts e) effVsts)

/-- The lane addresses of VGTH and VSCT (R110, R111). -/
def gatherAddrs (o : Opnds) (b : Word) (x : VWord) : List Nat :=
  let n := if o.t = 1 then 8 else 4
  (lanes x n).map (fun i => (b + o.imm + (if n = 4 then sextWord 32 (BitVec.ofNat 64 i) else BitVec.ofNat 64 i)).toNat)

/-- VGTH's effect. -/
def effVgth : Eff := fun o v s =>
  let n := if o.t = 1 then 8 else 4
  match s.checkAll n 0 (gatherAddrs o v.y.s (v.x.v n)) with
  | .error e => .error e
  | .ok (pls, s) =>
    if pls.any (fun p => s.placeBad p.1 n) then .error (.poison s)
    else Done.result (pls.foldl (fun s p => (s.placeFix p.1 n).serveBanks p.1 n) s)
      (.v (ofLanes n (pls.map (fun p => s.readAt p.1 n))))
/-- VGTH. -/
def execVgth (e : Fields) (s : State) : Answer := .next (s.issue (.vgth e) effVgth)

/-- VSCT's effect: the data stand in the next vector register. A reissue is not checked again for an X that has become odd.
[DESIGN CHOICE, log 101] -/
def effVsct : Eff := fun o v s =>
  let n := if o.t = 1 then 8 else 4
  if s.busy (o.x + 1) then .error .wait
  else
    match s.checkAll n 1 (gatherAddrs o v.y.s (v.x.v n)) with
    | .error e => .error e
    | .ok (pls, s) =>
      let d := s.furtherVec (o.x + 1)
      match d.2.putLanes n pls (lanes d.1 n) with
      | .error e => .error e
      | .ok s => Done.plain s
/-- VSCT. -/
def execVsct (e : Fields) (s : State) : Answer := .next (s.issue (.vsct e) effVsct)

/-! ### Atomics and reductions (R112 to R114) -/

/-- A checked atomic at its place: old value and state. An atomic of a twin at a global address waits for its
match; a RED does not, and one whose result may be late leaves the core (R114, R365). -/
def State.atomicAt (s : State) (pl : Place) (ea op rm : Nat) (red : Bool) (x e : Word) : Except Stop (Nat × State) :=
  let n := amoBytes op
  let now (s : State) : Except Stop (Nat × State) :=
    if s.placeBad pl n || s.mergeBad pl n then .error (.poison s)
    else
      let old := s.readAt pl n
      let s := (s.placeFix pl n).mergeFix pl n
      let s := match pl with
        | .clu _ => if s.me.twin.isSome then s.modMe (fun c => { c with ovf := true }) else s
        | _ => s
      .ok (old, (s.writeAt pl n (amoNew op rm (BitVec.ofNat 64 old) x e).toNat).serveAtomic pl)
  match pl with
  | .glob ps =>
    let r := { s.request ea n 2 (widen x) with op := op, rm := rm, e := e, posted := red, pas := ps.map (fun p => (p.pa, p.n)) }
    if s.me.twin.isSome then
      match s.me.answer with
      | some a => if red then now s else s.answered ea 2 a.1 a.2
      | none =>
        if !red && s.me.flight.isSome then .error .wait
        else
          let send (s : State) := s.pairSend s.cur (16 + op) ea n (x.toNat + 2 ^ 64 * e.toNat) (!red) (.mem r)
          match send s with
          | .alone => now s
          | .done v s => .ok ((match v with
            | some w => w.toNat
            | none => 0), s)
          | .sent s' => if red then .ok (0, s') else .error (.hold (fun s => match send s with
            | .sent t => t
            | _ => s))
    else if red && s.late then .ok (0, s.sendReq r)
    else now s
  | _ => now s

/-- The effect of an atomic (R113): O has no further effect, since each access is performed when it issues. -/
def amoEff (op : Nat) (red : Bool) : Eff := fun o v s =>
  let ea := effAddr o v
  match s.check ea (amoBytes op) 2 true o.t (amoSysOk op && !red) with
  | .error e => .error e
  | .ok (pl, s) =>
    match s.atomicAt pl ea op o.rm red v.x.s v.z.s with
    | .error e => .error e
    | .ok (old, s) => if red then Done.plain s else Done.result s (.s (BitVec.ofNat 64 old))

/-- AMO.ADD's effect. -/
def effAmoAdd : Eff := amoEff 0 false
/-- AMO.ADD. -/
def execAmoAdd (e : Fields) (s : State) : Answer := .next (s.issue (.amoAdd e) effAmoAdd)
/-- AMO.AND's effect. -/
def effAmoAnd : Eff := amoEff 1 false
/-- AMO.AND. -/
def execAmoAnd (e : Fields) (s : State) : Answer := .next (s.issue (.amoAnd e) effAmoAnd)
/-- AMO.OR's effect. -/
def effAmoOr : Eff := amoEff 2 false
/-- AMO.OR. -/
def execAmoOr (e : Fields) (s : State) : Answer := .next (s.issue (.amoOr e) effAmoOr)
/-- AMO.XOR's effect. -/
def effAmoXor : Eff := amoEff 3 false
/-- AMO.XOR. -/
def execAmoXor (e : Fields) (s : State) : Answer := .next (s.issue (.amoXor e) effAmoXor)
/-- AMO.MIN's effect. -/
def effAmoMin : Eff := amoEff 4 false
/-- AMO.MIN. -/
def execAmoMin (e : Fields) (s : State) : Answer := .next (s.issue (.amoMin e) effAmoMin)
/-- AMO.MAX's effect. -/
def effAmoMax : Eff := amoEff 5 false
/-- AMO.MAX. -/
def execAmoMax (e : Fields) (s : State) : Answer := .next (s.issue (.amoMax e) effAmoMax)
/-- AMO.SWP's effect. -/
def effAmoSwp : Eff := amoEff 6 false
/-- AMO.SWP. -/
def execAmoSwp (e : Fields) (s : State) : Answer := .next (s.issue (.amoSwp e) effAmoSwp)
/-- AMO.CAS's effect. -/
def effAmoCas : Eff := amoEff 7 false
/-- AMO.CAS. -/
def execAmoCas (e : Fields) (s : State) : Answer := .next (s.issue (.amoCas e) effAmoCas)
/-- AMO.MINU's effect. -/
def effAmoMinu : Eff := amoEff 8 false
/-- AMO.MINU. -/
def execAmoMinu (e : Fields) (s : State) : Answer := .next (s.issue (.amoMinu e) effAmoMinu)
/-- AMO.MAXU's effect. -/
def effAmoMaxu : Eff := amoEff 9 false
/-- AMO.MAXU. -/
def execAmoMaxu (e : Fields) (s : State) : Answer := .next (s.issue (.amoMaxu e) effAmoMaxu)
/-- AMO.FADD's effect. -/
def effAmoFadd : Eff := amoEff 10 false
/-- AMO.FADD. -/
def execAmoFadd (e : Fields) (s : State) : Answer := .next (s.issue (.amoFadd e) effAmoFadd)
/-- RED.ADD's effect. -/
def effRedAdd : Eff := amoEff 0 true
/-- RED.ADD. -/
def execRedAdd (e : Fields) (s : State) : Answer := .next (s.issue (.redAdd e) effRedAdd)
/-- RED.MIN's effect. -/
def effRedMin : Eff := amoEff 4 true
/-- RED.MIN. -/
def execRedMin (e : Fields) (s : State) : Answer := .next (s.issue (.redMin e) effRedMin)
/-- RED.MAX's effect. -/
def effRedMax : Eff := amoEff 5 true
/-- RED.MAX. -/
def execRedMax (e : Fields) (s : State) : Answer := .next (s.issue (.redMax e) effRedMax)
/-- RED.FADD's effect. -/
def effRedFadd : Eff := amoEff 10 true
/-- RED.FADD. -/
def execRedFadd (e : Fields) (s : State) : Answer := .next (s.issue (.redFadd e) effRedFadd)

/-! ### Fence (R115) -/

/-- FENCE's effect: it waits, in the issue, for the core's posted requests; every other earlier access has been
performed. [DESIGN CHOICE, log 10] -/
def effFence : Eff := fun _ _ s => Done.plain s
/-- FENCE. -/
def execFence (e : Fields) (s : State) : Answer := .next (s.issue (.fence e) effFence)

/-! ### Copies (R116 to R118) -/

/-- The four words at a place of local or cluster memory. -/
def State.recordAt (s : State) (pl : Place) : Except Stop (List Word × State) :=
  match s.takeAt pl 32 with
  | .error e => .error e
  | .ok (x, s) => .ok (recordOf (BitVec.ofNat 512 x), s)

/-- The four words at an address of local or cluster memory, read once what they are pushed to has room (R116, R244, R255). -/
def State.recordWhen (s : State) (ea : Nat) (room : Bool) : Except Stop (List Word × State) :=
  match s.nearPlace ea 32 with
  | .error e => .error e
  | .ok (pl, s) => if room then s.recordAt pl else .error .wait

/-- The same for `n` bytes as they stand. -/
def State.bytesWhen (s : State) (ea n : Nat) (room : Bool) : Except Stop (Nat × State) :=
  match s.nearPlace ea n with
  | .error e => .error e
  | .ok (pl, s) => if room then s.takeAt pl n else .error .wait

/-- A copy request of a core would wait as it is pushed (R72, R116): an ill-formed one for mailbox room alone, any other for a
FIFO entry and for another context that assembles. -/
def State.copyWaits (s : State) (w : List Word) : Bool :=
  if copyIllFormed (w.getD 0 0) (w.getD 3 0) then !(s.me.room 16)
  else otherAsm s.me.asmC s.ctx || decide (8 ≤ s.me.fifo.length)

/-- Checks the four words at an address and tries to push them as a copy request: none while it would wait. The request is read
when it is pushed. -/
def State.tryCopy (s : State) (ea : Nat) : Except Stop (Option State) :=
  match s.nearPlace ea 32 with
  | .error e => .error e
  | .ok (pl, s) =>
    if s.copyWaits (recordOf (BitVec.ofNat 512 (s.readAt pl 32))) then .ok none
    else match s.recordAt pl with
      | .error e => .error e
      | .ok (w, s) =>
        match s.pushCopy s.cur s.level w false with
        | .ok s => .ok (some s)
        | .error e => .error e

/-- CPQ's effect. -/
def effCpq : Eff := fun o v s =>
  match s.tryCopy (effAddr o v) with
  | .error e => .error e
  | .ok none => .error .wait
  | .ok (some s) => Done.plain s
/-- CPQ. -/
def execCpq (e : Fields) (s : State) : Answer := .next (s.issue (.cpq e) effCpq)

/-- CPQT's effect: 1 when the push would wait. -/
def effCpqt : Eff := fun o v s =>
  match s.tryCopy (effAddr o v) with
  | .error e => .error e
  | .ok none => Done.result s (.s 1)
  | .ok (some s) => Done.result s (.s 0)
/-- CPQT. -/
def execCpqt (e : Fields) (s : State) : Answer := .next (s.issue (.cpqt e) effCpqt)

/-- Room for `n` messages of 16 bytes (R82). -/
def roomFor (c : Core) (n : Nat) : Bool := mailRoom c.mbox (c.resv ++ List.replicate (n - 1) 16) 16

/-- CPCAN's effect (R82, R84, R117). -/
def effCpcan : Eff := fun _ v s =>
  let tag := v.y.s.toNat % 2 ^ 32
  let hit (r : CopyReq) : Bool := wfield r.w0 0 32 == tag
  let gone := s.me.fifo.filter hit
  if gone.isEmpty then Done.result s (.s 0)
  else if !(roomFor s.me gone.length) then .error .wait
  else
    Done.result (s.modMe (fun c =>
      { c with fifo := c.fifo.filter (fun r => !hit r), mbox := c.mbox ++ gone.map (fun r => copyMsg 6 r.w0 0) }))
      (.s (BitVec.ofNat 64 gone.length))
/-- CPCAN. -/
def execCpcan (e : Fields) (s : State) : Answer := .next (s.issue (.cpcan e) effCpcan)

/-- The started copies of a core that hold a slot. -/
def State.copiesOf (s : State) (p : Nat) : Nat :=
  ((s.cluster (clusterOf p)).slots.filter (fun z => z.cidx == cidxOf p)).length

/-- CPST's effect (R118). -/
def effCpst : Eff := fun _ _ s =>
  Done.result s (.s (BitVec.ofNat 64 (s.me.fifo.length + s.copiesOf s.cur * 256 + s.me.asmC.isSome.toNat * 2 ^ 14
    + wfield s.cx.tsw 9 1 * 2 ^ 15)))
/-- CPST. -/
def execCpst (e : Fields) (s : State) : Answer := .next (s.issue (.cpst e) effCpst)

/-! ### Messages (R119 to R124) -/

/-- MWAIT's effect (R121). -/
def effMwait : Eff := fun _ _ s =>
  if s.me.mbox.isEmpty then .error .wait else Done.result s (.s (BitVec.ofNat 64 s.me.mbox.length))
/-- MWAIT. -/
def execMwait (e : Fields) (s : State) : Answer := .next (s.issue (.mwait e) effMwait)

/-- The grant table of a security context: a partition's, or, for 16, context 0's; a table has 256 entries (R374). [DESIGN CHOICE, log 96] -/
def State.grantTable (s : State) (q : Nat) : List Grant := (if q = fwPart then s.fwGrants else (s.part q).grants).take 256

/-- What a handle of a security context's grant table names for kinds that the caller admits: kind and number (R375). A send queue
beyond the 512 that the ports hold (R381) is none. [DEDUCED, log 61] -/
def State.granted (s : State) (q h : Nat) (kinds : List Nat) : Option (Nat × Nat) :=
  if h = 0 then none
  else match (s.grantTable q).find? (fun g => decide (g.first ≤ h) && decide (h < g.first + g.count)) with
    | none => none
    | some g =>
      let t := g.base + (h - g.first)
      if !(kinds.contains g.kind) then none
      else if (g.kind == 1 || g.kind == 2) && s.fusedOff t then none
      else if g.kind == 3 && 512 ≤ t then none
      else some (g.kind, t)

/-- The physical core that a message handle reaches as it leaves the NI (R373, R375), and its kind. -/
def State.endpoint (s : State) (q h : Nat) : Option (Nat × Nat) :=
  match s.granted q h [0, 1, 2] with
  | none => none
  | some (k, t) =>
    if k = 0 then (match s.physOf q t with
      | some p => some (0, p)
      | none => none)
    else some (k, t)

/-- Where the payload of a message stands: in local or cluster memory, checked before the message waits for room (R122). -/
def State.payloadPlace (s : State) (a n : Nat) : Except Stop (Option Place × State) :=
  let at' : Except Stop (Option Place × State) := match s.check a n 0 false 9 true with
    | .error e => .error e
    | .ok (pl, s) => .ok (some pl, s)
  if n = 0 then .ok (none, s)
  else match spaceOf a n with
    | some .loc => at'
    | some .clu => at'
    | _ => .error (addrFault 1 a)

/-- Reads the payload of a message. -/
def State.payload (s : State) (pl : Option Place) (n : Nat) : Except Stop (Nat × State) :=
  match pl with
  | none => .ok (0, s)
  | some pl => s.takeAt pl n

/-- MBSEND's effect (R122, R365). -/
def effMbsend : Eff := fun _ v s =>
  let w := v.y.s
  let n := wfield w 32 8
  let h := wfield w 0 32
  if wfield w 40 24 != 0 || 64 < n then .error (.trap { cls := 8, sub := 1, info := w })
  else match s.endpoint s.myPart h with
    | none => .error (.trap { cls := 8, sub := 2, info := w })
    | some (k, p) =>
      match s.payloadPlace v.x.s.toNat n with
      | .error e => .error e
      | .ok (pl, s) =>
        if 8 ≤ s.me.sent || !(s.me.room n) then .error .wait
        else match s.payload pl n with
        | .error e => .error e
        | .ok (body, s) =>
          let m : Msg :=
            { src := s.cur, ctx := s.ctx, kind := if k = 1 then 1 else 0, dst := p, handle := BitVec.ofNat 32 h,
              fixed := k == 2, len := n, body := BitVec.ofNat 512 body, no := s.me.opNo, status := 0 }
          let held (s : State) := s.modMe (fun c =>
            { c with resv := c.resv ++ [n], sent := c.sent + 1, opNo := c.opNo + 1 })
          match s.pairSend s.cur 3 h n body false (.msg m) with
          | .alone => Done.plain (held { s with msgs := s.msgs ++ [m] })
          | .done _ s => Done.plain s
          | .sent s => Done.plain (held s)
/-- MBSEND. -/
def execMbsend (e : Fields) (s : State) : Answer := .next (s.issue (.mbsend e) effMbsend)

/-- The descriptor of R120. -/
def descriptor (b : List MailEntry) : Word :=
  match b with
  | [] => 0
  | e :: _ => BitVec.ofNat 64 (e.src.toNat + e.len * 2 ^ 32 + e.next * 2 ^ 40 + b.length * 2 ^ 48 + e.cls * 2 ^ 56
      + e.status * 2 ^ 59 + 2 ^ 63)

/-- MBPEEK's effect (R124). -/
def effMbpeek : Eff := fun _ _ s => Done.result s (.s (descriptor s.me.mbox))
/-- MBPEEK. -/
def execMbpeek (e : Fields) (s : State) : Answer := .next (s.issue (.mbpeek e) effMbpeek)

/-! ### Byte barriers (R83, R125) -/

/-- Bits 62:0 of a word. -/
def low63 (w : Word) : Nat := w.toNat % 2 ^ 63

/-- BBSET's effect. -/
def effBbset : Eff := fun o v s =>
  let x := BitVec.ofNat 64 (low63 v.y.s)
  Done.plain (s.modMe (fun c => { c with bb := mset c.bb o.x (x, x) }))
/-- BBSET. -/
def execBbset (e : Fields) (s : State) : Answer := .next (s.issue (.bbset e) effBbset)

/-- BBADD's effect. -/
def effBbadd : Eff := fun o v s =>
  let x := low63 v.y.s
  let cap (n : Nat) : Nat := min n (2 ^ 63 - 1)
  Done.plain (s.modMe (fun c =>
    let b := mget (0, 0) c.bb o.x
    { c with bb := mset c.bb o.x (BitVec.ofNat 64 (cap (b.1.toNat + x)),
      BitVec.ofNat 64 (cap (low63 b.2 + x) + (b.2.toNat / 2 ^ 63) * 2 ^ 63)) }))
/-- BBADD. -/
def execBbadd (e : Fields) (s : State) : Answer := .next (s.issue (.bbadd e) effBbadd)

/-- BBWAIT's effect. -/
def effBbwait : Eff := fun o _ s =>
  let b := mget (0, 0) s.me.bb o.x
  if low63 b.2 = 0 || b.2.getLsbD 63 then Done.plain s else .error .wait
/-- BBWAIT. -/
def execBbwait (e : Fields) (s : State) : Answer := .next (s.issue (.bbwait e) effBbwait)

/-- BBRD's effect. -/
def effBbrd : Eff := fun o _ s =>
  let b := mget (0, 0) s.me.bb (o.y % 8)
  Done.result s (.s (if o.y < 8 then b.2 else b.1))
/-- BBRD. -/
def execBbrd (e : Fields) (s : State) : Answer := .next (s.issue (.bbrd e) effBbrd)

end Sys2Proof.Machine
end

