-- ==== Sys2Proof/Machine/Distributor.lean ====
section
/-! DEFINITION. The distributor (R303 to R316): launch records, eligibility, units, completion and the end of a
group. -/

namespace Sys2Proof.Machine

/-! ### The record (R303, R304) -/

/-- Word `k` of a launch's record. -/
def Launch.word (l : Launch) (k : Nat) : Word := l.words.getD k 0

/-- GROUPS. -/
def Launch.g (l : Launch) : Nat := wfield (l.word 1) 0 32

/-- The gang size. -/
def Launch.gang (l : Launch) : Nat := 2 ^ wfield (l.word 1) 32 4

/-- A bit of FLAGS: 0 PAIR, 1 BUDDY, 2 ETRIG, 3 NOAGE, 4 RUNT, 5 CTL, 6 CANCEL. -/
def Launch.flag (l : Launch) (k : Nat) : Bool := (l.word 1).getLsbD (40 + k)

/-- LID. -/
def Launch.lid (l : Launch) : Nat := wfield (l.word 1) 48 12

/-- NW. -/
def Launch.nw (l : Launch) : Nat := wfield (l.word 1) 60 4

/-- CSCOPE. -/
def Launch.cscope (l : Launch) : Nat := wfield (l.word 4) 52 3

/-- PREDi. -/
def Launch.pred (l : Launch) (i : Nat) : Nat := wfield (l.word 4) (12 * i) 12

/-- PREDi is valid. -/
def Launch.predV (l : Launch) (i : Nat) : Bool := (l.word 4).getLsbD (48 + i)

/-- SLICE, raised to 3,000 cycles when it is shorter (R315); 0 for none. -/
def Launch.slice (l : Launch) : Nat :=
  let n := wfield (l.word 7) 0 40
  if n = 0 then 0 else max 3000 n

/-- The effective level (R308). -/
def Launch.level (l : Launch) : Nat :=
  let p := wfield (l.word 1) 36 3
  if l.flag 3 then p else min 7 (p + l.aged + l.elig / 2 ^ 20)

/-- A launch as it enters a queue. -/
def newLaunch (serial : Nat) (words : List Word) (cid : BitVec 12) (cluster : Nat) (host : Bool) : Launch :=
  { serial := serial, words := words, cid := cid, cluster := cluster, host := host, held := false, sat := [], early := [],
    winRead := false, wins := [], elig := 0, aged := 0, started := false, startNo := 0, shares := [], pairs := [],
    exits := 0, trigs := 0, cause := 0, verd := 0, replay := 0 }

/-- Changes a launch of a partition. -/
def State.modLaunch (s : State) (q serial : Nat) (f : Launch → Launch) : State :=
  s.modPart q (fun x => { x with launches := x.launches.map (fun l => if l.serial == serial then f l else l) })

/-- A queued or running launch of a partition by its LID. -/
def State.byLid (s : State) (q lid : Nat) : Option Launch := (s.part q).launches.find? (fun l => l.lid == lid)

/-- Counts an event of a launch: its cause bits and the least verdict (R360). -/
def State.taint (s : State) (q serial : Nat) (cause : BitVec 8) (verd : Nat) : State :=
  s.modLaunch q serial (fun l => { l with cause := l.cause ||| cause, verd := max l.verd verd })

/-! ### Units (R312) -/

/-- The logical cores of a partition that lie in one cluster, ascending. -/
def State.lpsIn (s : State) (q cl : Nat) : List Nat :=
  (upTo (s.part q).n).filter (fun l => match s.physOf q l with
    | some p => clusterOf p == cl
    | none => false)

/-- The unit of `n` cores whose lowest logical core is `l`, if there is one: a moving cluster (R318), a core that is fused off
(R9) and one that has been declared dead form none. -/
def State.unitAt (s : State) (q n l : Nat) : Option (List Nat) :=
  match s.physOf q l with
  | none => none
  | some p =>
    let lps := s.lpsIn q (clusterOf p)
    let k := (lps.takeWhile (fun m => decide (m < l))).length
    let u := (lps.drop k).take n
    let ok := (s.cluster (clusterOf p)).moving.isNone && k % n == 0 && u.length == n
      && u.all (fun m => match s.physOf q m with
        | some r => !(s.core r).dead && !(s.fusedOff r)
        | none => false)
    if ok then some u else none

/-- The units of a partition for a gang size, in the order of their lowest logical core. -/
def State.units (s : State) (q n : Nat) : List (List Nat) := (upTo (s.part q).n).filterMap (s.unitAt q n)

/-! ### Accesses of the distributor -/

/-- The distributor's accesses go out under supervisor core 0 of die 0, with the CID of R305. -/
def distAgent (cid : BitVec 12) : Agent := { die := 0, master := 176 * 16, cid := cid, carried := some fwPart }

/-- A fault of the distributor: it acts at the supervisor cluster of die 0, on row 5 (R14). -/
def State.distFault (s : State) (cid : BitVec 12) (e : GFail) (acc : Nat) : State := s.agentFault (distAgent cid) 5 0 e acc

/-- A global CW can be written, and whether it lies in host memory; none when it faults (R306). The check writes nothing: it leaves the
leaf's A and D and the translation cache as they were. [DEDUCED, log 97] -/
def State.cwTier (s : State) (cid : BitVec 12) (cw : Nat) : Option Bool :=
  match s.gcheck (distAgent cid) cw 16 1 9 with
  | .error _ => none
  | .ok (ps, _) => some (ps.any (fun p => tierOf p.pa == .host))

/-- What the distributor says of a global CW that faults as its record arrives: a page fault's trap message, or a refusal that is counted
(R66, R67, R306). [DEDUCED, log 97] -/
def State.cwTell (s : State) (l : Launch) : State :=
  let cw := (l.word 2).toNat
  if cw % 16 == 0 && spaceOf cw 16 == some .glob then
    match s.gcheck (distAgent l.cid) cw 16 1 9 with
    | .error e => s.distFault l.cid e 1
    | .ok _ => s
  else s

/-- The cluster unit's access table admits the distributor's stores (R67). -/
def State.cluTakes (s : State) (cl : Nat) : Bool := (s.rowOf (0x1000 + cl) (176 * 16)).any (fun r => r.right 1)

/-- CW and CSCOPE are in order (R306). -/
def State.cwOk (s : State) (cid : BitVec 12) (host : Bool) (cw cscope : Nat) : Bool :=
  cw % 16 == 0 && decide (1 ≤ cscope) && decide (cscope ≤ 4) &&
    match spaceOf cw 16 with
    | some .clu => !host && decide (cw + 16 ≤ logBase) && cscope == 1
    | some .glob =>
      match s.cwTier cid cw with
      | none => false
      | some h => !h || cscope == 4
    | _ => false

/-- A record is ill-formed (R304, R306); `host` for one that the host writes. -/
def State.illFormed (s : State) (q : Nat) (l : Launch) : Bool :=
  let w := l.word
  (w 1).getLsbD 39 || l.flag 7 || wfield (w 4) 55 9 != 0 || wfield (w 7) 40 24 != 0 || (l.flag 6 && !l.flag 5)
    || l.g == 0 || decide (3 < wfield (w 1) 32 4) || decide (8 < l.nw)
    || (if l.nw = 0 then w 5 != 0 else wfield (w 5) 0 6 != 0) || (w 0).getLsbD 0
    || !(s.cwOk l.cid l.host (w 2).toNat l.cscope)
    || (upTo 4).any (fun i => l.predV i && l.pred i == l.lid) || (s.byLid q l.lid).isSome
    || (s.units q l.gang).isEmpty

/-! ### Eligibility (R308, R309) -/

/-- Every valid predecessor is satisfied and nothing holds the launch. -/
def Launch.free (l : Launch) : Bool :=
  !l.held && !l.started && (upTo 4).all (fun i => !(l.predV i) || l.sat.contains i)

/-- The launch is eligible (R308). -/
def Launch.eligible (l : Launch) : Bool := l.free && l.winRead

/-- A held launch, or one that waits for units (R310). -/
def State.heldLaunch (s : State) (q : Nat) (l : Launch) : Bool :=
  !l.started && (l.held || (l.eligible && (s.units q l.gang).isEmpty))

/-- The event for a launch that a predecessor's verdict holds (R309, R392). -/
def holdEvent (lid pred verd : Nat) : MailEntry :=
  eventEntry 16 (0x0C + verd * 2 ^ 8 + lid * 2 ^ 16 + pred * 2 ^ 32)

/-- Settles predecessor `i` of a launch with the verdict of its completion: clean or corrected satisfies it, any
other verdict holds the launch unless it carries RUNT. -/
def State.settle (s : State) (q : Nat) (l : Launch) (i verd : Nat) : State :=
  let bad := decide (2 ≤ verd) && !(l.flag 4)
  let s := s.modLaunch q l.serial (fun x =>
    { x with sat := if x.sat.contains i then x.sat else i :: x.sat, early := x.early.filter (fun k => k != i),
             held := x.held || bad })
  if bad then s.postSup (s.supOf q) (holdEvent l.lid (l.pred i) verd) else s

/-- The predecessors of a launch that name a LID. -/
def Launch.predsOn (l : Launch) (lid : Nat) : List Nat := (upTo 4).filter (fun i => l.predV i && l.pred i == lid)

/-- What the completion of a LID means for one launch of the partition. -/
def State.afterPred (s : State) (q lid verd : Nat) (d : Launch) : State :=
  if d.started then
    if verd = 2 && (d.predsOn lid).any (fun i => d.early.contains i) then
      (s.taint q d.serial 0x10 2).modLaunch q d.serial (fun x =>
        { x with early := x.early.filter (fun i => !(d.predsOn lid).contains i) })
    else s.modLaunch q d.serial (fun x => { x with early := x.early.filter (fun i => !(d.predsOn lid).contains i) })
  else
    ((d.predsOn lid).filter (fun i => !(d.sat.contains i) || d.early.contains i)).foldl
      (fun s i => s.settle q d i verd) s

/-- The launches that start on the early trigger of a LID find that predecessor satisfied (R309). -/
def State.triggered (s : State) (q lid : Nat) : State :=
  s.modPart q (fun x => { x with launches := x.launches.map (fun d =>
    if d.flag 2 && !d.started then
      let is := (d.predsOn lid).filter (fun i => !(d.sat.contains i))
      { d with sat := is ++ d.sat, early := is ++ d.early }
    else d) })

/-- A launch has triggered: every group has executed TRIG or exited. -/
def Launch.hasTriggered (l : Launch) : Bool := l.started && decide (l.g ≤ l.trigs)

/-! ### Entering the queue (R307, R309) -/

/-- A launch enters the queue and its predecessors are looked up. -/
def State.enqueue (s : State) (q : Nat) (l : Launch) : State :=
  let s := s.modPart q (fun x => { x with
    launches := x.launches ++ [{ l with winRead := l.nw == 0 }], serial := x.serial + 1 })
  ((upTo 4).filter l.predV).foldl (fun s i =>
    match s.byLid q (l.pred i) with
    | some p =>
      if l.flag 2 && p.hasTriggered then
        s.modLaunch q l.serial (fun x => { x with sat := i :: x.sat, early := i :: x.early })
      else s
    | none => s.settle q l i (mget 0 (s.part q).verds (l.pred i))) s

/-- Adds a record to a partition's queue: code 0 queued, 1 ill-formed, 2 full (R293). -/
def State.submit (s : State) (q : Nat) (l : Launch) : Nat × State :=
  if s.illFormed q l then (1, s.cwTell l)
  else if 128 ≤ (s.part q).launches.length then (2, s)
  else (0, s.enqueue q { l with serial := (s.part q).serial })

/-! ### Completion (R314) -/

/-- The verdict record. -/
def verdictWord (replay : Nat) (cause : BitVec 8) (verd : Nat) : Nat :=
  replay % 2 ^ 32 * 2 ^ 16 + cause.toNat * 2 ^ 8 + verd

/-- Stores the verdict record, then SEQ; a store that faults or is refused writes nothing and posts KIND 0x10. A host record names no
cluster: nothing is stored for a CW in cluster memory (R306). -/
def State.storeVerdict (s : State) (q : Nat) (l : Launch) (cause : BitVec 8) (verd : Nat) : State :=
  let cw := (l.word 2).toNat
  let rec' := verdictWord l.replay cause verd
  let event (s : State) (kind : Nat) : State :=
    s.postSup (s.supOf q) (eventEntry 16 (0x10 + kind * 2 ^ 8 + l.lid * 2 ^ 16 + cw * 2 ^ 64))
  let failed (s : State) (e : GFail) : State := event (s.distFault l.cid e 1) e.1
  match spaceOf cw 16 with
  | some .clu =>
    if l.host then s
    else if !(s.cluTakes l.cluster) then event (s.refuseAt (0x1000 + l.cluster)) 8
    else (s.cluWrite l.cluster (cw + 8) 8 rec').cluWrite l.cluster cw 8 (l.word 3).toNat
  | some .glob =>
    match s.gstore (distAgent l.cid) (cw + 8) 8 rec' with
    | .error e => failed s e
    | .ok s =>
      match s.gstore (distAgent l.cid) cw 8 (l.word 3).toNat with
      | .error e => failed s e
      | .ok s => s
  | _ => s

/-- Completes a launch of the queue with its causes and verdict: stores, the kept verdict, and the launches that
depend on it. -/
def State.complete (s : State) (q : Nat) (l : Launch) (cause : BitVec 8) (verd : Nat) : State :=
  let s := s.storeVerdict q l cause verd
  let s := s.modPart q (fun x => { x with
    verds := mset x.verds l.lid verd, launches := x.launches.filter (fun d => d.serial != l.serial) })
  (s.part q).launches.foldl (fun s d => s.afterPred q l.lid verd d) s

/-- A host record that is refused enters no queue; its completion says REFUSED with ILLFORM (R306). Its LID's kept
verdict changes as at every completion. -/
def State.refuseHost (s : State) (q : Nat) (l : Launch) : State :=
  let s := (s.cwTell l).storeVerdict q l 0x20 3
  s.modPart q (fun x => { x with verds := mset x.verds l.lid 3 })

/-- A control record (R310): 0 when it acts, 1 otherwise. -/
def State.control (s : State) (q : Nat) (l : Launch) : Nat × State :=
  let w := l.word
  let shape := [0, 2, 3, 5, 6, 7].all (fun k => w k == 0) && wfield (w 1) 0 40 == 0 && wfield (w 1) 47 17 == 0
    && wfield (w 4) 12 52 == 2 ^ 36
  match (s.part q).launches.find? (fun d => d.lid == l.pred 0 && s.heldLaunch q d) with
  | none => (1, s)
  | some d =>
    if !shape then (1, s)
    else if l.flag 6 then (0, s.complete q d (d.cause ||| 0x40) 3)
    else (0, s.modLaunch q d.serial (fun x => { x with held := false }))

/-! ### The start of a group (R312, R313) -/

/-- The control context at a group's start: what R313 does not name keeps its value. [DEDUCED, log 47] -/
def startContext (x : Context) (l : Launch) (index : Nat) (mask : BitVec 8) : Context :=
  let raised := decide (0 < wfield (l.word 7) 0 40) && decide (wfield (l.word 7) 0 40 < 3000)
  { Context.blank .ready 0 with
    pc := l.word 0, tsw := if raised then orBit 0 13 else 0,
    s := ((Context.blank .ready 0).setS 30 (l.word 6)).setS 31 (BitVec.ofNat 64 index) |>.s,
    j := if mask = 0 then [] else [(0, mask)], gen := x.gen }

/-- Starts a group on one core of its unit. [DEDUCED, log 47] -/
def State.startOn (s : State) (l : Launch) (index p : Nat) (twin : Option Nat) (mask : BitVec 8) : State :=
  s.modCore p (fun c =>
    let x := startContext c.ctl l index mask
    let helpers := c.helpers.map (fun kx =>
      (kx.1, if kx.2.run = .stopped .saved then { Context.freeHelper with endWord := 0 } else { kx.2 with endWord := 0 }))
    let c := if twin.isSome then c.restartLog else c
    { c with
      ctl := x, helpers := helpers,
      group := some { launch := l.serial, index := index, ran := 0, trig := false, passed := false, replay := false },
      exited := false, noMore := false, noCount := false, counted := false, waited := 0, swapping := false, swapHigh := false,
      saved := false, wmiss := none, left := 0, twin := twin, pairNo := 1, matched := [], repeating := false, again := none,
      snap := if twin.isSome then some { ctl := x, bb := c.bb, memb := mask, queue := [], due := [], ring := [] } else none })

/-- The core that pairs with a logical core of a launch (R364). -/
def State.twinIn (s : State) (q : Nat) (l : Launch) (lp : Nat) : Option Nat :=
  match l.pairs.find? (fun ab => ab.1 == lp || ab.2 == lp) with
  | some (a, b) => s.physOf q (if a = lp then b else a)
  | none => none

/-- Starts a group on the cores of its unit, or of the two units of a pair: with s > 1 each unit is fused (R312, R313). -/
def State.startUnit (s : State) (q : Nat) (l : Launch) (index : Nat) (ps : List Nat) : State :=
  let mask (p : Nat) : BitVec 8 := if l.gang = 1 then 0
    else (ps.filter (fun r => clusterOf r == clusterOf p)).foldl (fun (a : BitVec 8) r => a ||| (1#8 <<< s.pos r)) 0
  let s := ps.foldl (fun s p =>
    let m := mask p
    ((s.leaveGang p).startOn l index p (s.twinIn q l (s.lp p)) m).modCore p (fun c => { c with orig := if m = 0 then c.orig else m })) s
  if l.gang = 1 then s
  else ((ps.map clusterOf).eraseDups).foldl (fun s cl => s.fuseGang (ps.filter (fun p => clusterOf p == cl))) s

/-! ### The end of a group (R283, R284) -/

/-- A group's name. -/
def GroupRun.is (g : GroupRun) (launch index : Nat) : Bool := g.launch == launch && g.index == index

/-- A core has a part in a group: it runs it, or has set it aside (R315, R316). -/
def Core.inGroup (c : Core) (launch index : Nat) : Bool :=
  c.group.any (fun g => g.is launch index) || c.swaps.any (fun w => w.group.is launch index)

/-- Changes a core's part in a group, running or set aside. -/
def Core.modGroup (c : Core) (launch index : Nat) (f : GroupRun → GroupRun) : Core :=
  let g' (g : GroupRun) : GroupRun := if g.is launch index then f g else g
  { c with group := c.group.map g', swaps := c.swaps.map (fun w => { w with group := g' w.group }) }

/-- The cores of a partition that have a part in a group. -/
def State.groupCores (s : State) (q launch index : Nat) : List Nat :=
  (s.partCores q).filter (fun p => (s.core p).inGroup launch index)

/-- The share of a launch that has a logical core among its unit. -/
def Launch.shareOf (l : Launch) (lp : Nat) : Option Share := l.shares.find? (fun h => h.unit.contains lp)

/-- A launch counts one more triggered group. -/
def State.countTrig (s : State) (q serial : Nat) : State :=
  let s := s.modLaunch q serial (fun l => { l with trigs := l.trigs + 1 })
  match (s.part q).launches.find? (fun l => l.serial == serial) with
  | some l => if l.hasTriggered then s.triggered q l.lid else s
  | none => s

/-- TRIG's mark on the group that a core runs, on every core that has a part in it. [DEDUCED, log 44] -/
def State.trig (s : State) (p : Nat) : State :=
  match s.partOf p, (s.core p).group with
  | some q, some g =>
    if g.trig then s
    else
      let s := (s.groupCores q g.launch g.index).foldl (fun s r =>
        s.modCore r (fun c => c.modGroup g.launch g.index (fun g => { g with trig := true }))) s
      s.countTrig q g.launch
  | _, _ => s

/-- A FUSE that waits and names a core that has died or ended raises the gang trap in every waiting member
(R276). -/
def State.breakFuse (s : State) (p : Nat) : State :=
  let hit := (s.assigned (clusterOf p)).filter (fun r => r != p && match (s.core r).meet with
    | some (true, m, _, _) => m.getLsbD (s.pos p)
    | _ => false)
  hit.foldl (fun s r =>
    match (s.core r).meet with
    | some (_, m, pc, _) =>
      let t := ({ s with cur := r, ctx := 0 }.modMe (fun c => { c with meet := none, meetHead := none, counted := false })).takeTrap
        { cls := 0x0A, sub := 1, info := m.setWidth 64 } pc
      { t with cur := s.cur, ctx := s.ctx }
    | none => s) s

/-- A core's part of its group ends: steps 4 and 5 of R284. At a REJOIN that waits and names it, it counts as arrived from now on
(R156). [DEDUCED, log 36] -/
def State.endGroup (s : State) (p : Nat) : State :=
  let s := s.leaveGang p
  let c := s.core p
  let share (q : Nat) (g : GroupRun) : Option Share :=
    match (s.part q).launches.find? (fun l => l.serial == g.launch) with
    | some l => l.shareOf (s.lp p)
    | none => none
  let more := match s.partOf p, c.group with
    | some q, some g => (match share q g with
      | some h => decide (h.next < h.stop)
      | none => false)
    | _, _ => false
  let last := match s.partOf p, c.group with
    | some q, some g => decide ((s.groupCores q g.launch g.index).length ≤ 1)
    | _, _ => false
  let pos := s.pos p
  let s := (s.assigned (clusterOf p)).foldl (fun s r => s.modCore r (fun c =>
    match c.meet with
    | some (false, m, _, _) => if m.getLsbD pos then { c with left := c.left ||| (1#8 <<< pos) } else c
    | _ => c)) s
  let s := { s with links := s.links.filter (fun l => l.dst != p) }.modCore p (fun c =>
    let numbered (c : Core) : Core := if c.lpid.isNone then c.unnumbered else c
    numbered { c with
      ctl := { c.ctl with run := .stopped .idle, rep := Rep.none }
      group := none, exited := true, noMore := !more && c.swaps.isEmpty, mbox := [], west := [], east := [], meet := none
      meetHead := none, again := none, swapHigh := false
      handler := if c.handler = some 0 then none else c.handler
      entries := c.entries.filter (fun e => e.ctx != 0)
      due := c.due.filter (fun d => d.ctx != 0), ring := c.ring.filter (fun kr => kr.2.mat)
      preempt := if c.preempt = some 2 then some 2 else none, swapping := false, counted := false, waited := 0, replay := none
      flight := none, answer := none, wmiss := none, diverge := c.diverge.filter (fun d => d.1 != 0), left := 0
      twin := none, matched := [], snap := none, repeating := false, returned := [] })
  let s := match s.partOf p, c.group with
    | some q, some g =>
      if last then
        let s := if g.trig then s else s.countTrig q g.launch
        (s.modLaunch q g.launch (fun l => { l with exits := l.exits + 1 })).modPart q (fun x =>
          { x with groups := x.groups + 1 })
      else s
    | _, _ => s
  s.breakFuse p

end Sys2Proof.Machine
end

