-- ==== Sys2Proof/Machine/Contexts.lean ====
section
/-! DEFINITION. Barriers, groups and counters (MAJ 27, R278 to R285) and gangs and helpers (MAJ 28, R274 to R277,
R154, R156), but for HEND, which stands with the activities. -/

namespace Sys2Proof.Machine

/-! ### Barriers (R278 to R281) -/

/-- A barrier trap: 1 NOTMEM, 2 NESTED, 3 DOUBLE. -/
def barrierTrap (sub ch : Nat) : Stop := .trap { cls := 9, sub := sub, info := BitVec.ofNat 64 ch }

/-- ARP. -/
def arpOf (t : Word) : Bool := t.getLsbD 16

/-- BCH. -/
def bchOf (t : Word) : Nat := wfield t 17 6

/-- BPH. -/
def bphOf (t : Word) : Nat := wfield t 23 8

/-- The running core's logical number is a member of the channel under a key. -/
def State.memberOf (s : State) (key : Nat) : Bool :=
  match s.partOf s.cur, s.me.lpid with
  | some q, some l => (s.chan key).part == q && (s.chan key).members.contains l
  | _, _ => false

/-- The key of the channel that a number names for the running core (R16, R278): the joined one; or that of which its logical core is a
member, although the core stands on the other die since a remap; or its own die's. -/
def State.myChan (s : State) (ch : Nat) : Nat :=
  let own := s.chanKey (dieOf s.cur) ch
  let other := 64 * (1 - dieOf s.cur) + ch
  if !(s.chan (64 + ch)).joined && !(s.memberOf own) && s.memberOf other then other else own

/-- RCNT of a channel for the running core: of its die, or of the die whose channel it is a member of. -/
def State.rcnt (s : State) (ch : Nat) : BitVec 8 :=
  (s.chan (if (s.chan (64 + ch)).joined then 64 * dieOf s.cur + ch else s.myChan ch)).rcnt

/-- CTX.TSW with an arrival on a channel recorded (R279). -/
def withArrival (t : Word) (ch : Nat) (rcnt : BitVec 8) : Word := wput (wput (orBit t 16) 17 6 ch) 23 8 rcnt.toNat

/-- Arrive (R279): a BSTEP's arrival also keeps what the core has issued so far (R281). [DEDUCED, log 46] -/
def State.arrive (s : State) (ch : Nat) (step : Bool) : Except Stop State :=
  match s.partOf s.cur, s.me.lpid with
  | some q, some l =>
    let c := s.chan (s.myChan ch)
    let t := s.cx.tsw
    if !((s.part q).bch.getLsbD ch) || c.part != q || !(c.members.contains l) then .error (barrierTrap 1 ch)
    else if arpOf t && bchOf t != ch then .error (barrierTrap 2 ch)
    else if arpOf t then .ok s
    else if c.arr.any (fun a => a.lpid == l) then .error (barrierTrap 3 ch)
    else
      let a : Arrival := { lpid := l, step := step, core := s.cur, bound := s.me.opNo }
      .ok ((s.modChan (s.myChan ch) (fun c => { c with arr := c.arr ++ [a] })).modCx (fun x =>
        { x with tsw := withArrival x.tsw ch (s.rcnt ch) }))
  | _, _ => .error (barrierTrap 1 ch)

/-- The release that an arrival waits for has come (R279). -/
def State.finished (s : State) (ch : Nat) : Bool := decide ((s.rcnt ch).toNat ≠ bphOf s.cx.tsw)

/-- Finish: the wait is over and ARP becomes 0. -/
def State.finish (s : State) : State := s.modCx (fun x => { x with tsw := x.tsw &&& ~~~(1#64 <<< 16) })

/-- The channel number X:Y. -/
def channelOf (o : Opnds) : Nat := o.x * 16 + o.y

/-- Arrive, then Finish. An arrival stays while its instruction waits; with ARP = 1 for the channel it only waits (R279). [DEDUCED, log 46] -/
def arriveWait (step : Bool) : Eff := fun o _ s =>
  if arpOf s.cx.tsw && bchOf s.cx.tsw == channelOf o then
    (if s.finished (channelOf o) then Done.plain s.finish else .error .wait)
  else match s.arrive (channelOf o) step with
  | .error e => .error e
  | .ok t =>
    if t.finished (channelOf o) then Done.plain t.finish
    else .error (.hold (fun s => match s.arrive (channelOf o) step with
      | .error _ => s
      | .ok t => t))

/-- BARV's effect. -/
def effBarv : Eff := fun o _ s =>
  match s.arrive (channelOf o) false with
  | .error e => .error e
  | .ok s => Done.plain s
/-- BARV. -/
def execBarv (e : Fields) (s : State) : Answer := .next (s.issue (.barv e) effBarv)

/-- BWT's effect. -/
def effBwt : Eff := fun o _ s =>
  if arpOf s.cx.tsw && bchOf s.cx.tsw == channelOf o then
    if s.finished (channelOf o) then Done.plain s.finish else .error .wait
  else Done.plain s
/-- BWT. -/
def execBwt (e : Fields) (s : State) : Answer := .next (s.issue (.bwt e) effBwt)

/-- BARW's effect. -/
def effBarw : Eff := arriveWait false
/-- BARW. -/
def execBarw (e : Fields) (s : State) : Answer := .next (s.issue (.barw e) effBarw)

/-- BSTEP's effect. -/
def effBstep : Eff := arriveWait true
/-- BSTEP. -/
def execBstep (e : Fields) (s : State) : Answer := .next (s.issue (.bstep e) effBstep)

/-! ### Groups and counters (R283 to R285) -/

/-- TRIG's effect. -/
def effTrig : Eff := fun _ _ s => Done.plain (s.trig s.cur)
/-- TRIG. -/
def execTrig (e : Fields) (s : State) : Answer := .next (s.issue (.trig e) effTrig)

/-- A live helper that runs no compensation routine: EXIT waits for it, stopped or not. [DEDUCED, log 36] -/
def Core.liveHelper (c : Core) : Bool :=
  (upTo 11).any (fun k => k != 0 && (c.context k).run != .free && (c.context k).comp.isNone)

/-- Copy, matrix or rule commands of a core that have not completed, RDCMP excluded (R284). -/
def State.engineWork (s : State) (p : Nat) : Bool :=
  !(s.core p).fifo.isEmpty || s.copiesOf p != 0 || !(s.core p).mq.isEmpty
    || (s.cluster (clusterOf p)).runs.any (fun r => r.cidx == cidxOf p) || s.ruleOut p != 0

/-- Ends a control context that a resume message has ended, once nothing that its EXIT waits for is under way (R284,
R333). [DEDUCED, log 49] -/
def State.endEnding (s : State) (p : Nat) : State :=
  let c := s.core p
  if c.ctl.run != .stopped .ending || c.liveHelper || s.engineWork p || s.postedBy p || c.dead || c.poisoned then s
  else s.endGroup p

/-- EXIT's effect: the context stops where it stands and takes no further instruction of the group. [DEDUCED, log 36] -/
def effExit : Eff := fun _ _ s =>
  if s.me.liveHelper || s.engineWork s.cur then .error .wait
  else .ok { st := s.endGroup s.cur, res := none, jump := some s.cx.pc }
/-- EXIT. -/
def execExit (e : Fields) (s : State) : Answer := .next (s.issue (.exit e) effExit)

/-- TIME's effect. -/
def effTime : Eff := fun _ _ s => Done.result s (.s s.time)
/-- TIME. -/
def execTime (e : Fields) (s : State) : Answer := .next (s.issue (.time e) effTime)

/-- CYC's effect: the counter of the core's own die. -/
def effCyc : Eff := fun _ _ s => Done.result s (.s (s.die (dieOf s.cur)).cyc)
/-- CYC. -/
def execCyc (e : Fields) (s : State) : Answer := .next (s.issue (.cyc e) effCyc)

/-! ### Helpers (R274, R275) -/

/-- A helper as it starts at a PC with s1, s2 and s3 (R274, R292). -/
def startedHelper (x : Context) (pc s1 s2 s3 : Word) (lvl : Nat) : Context :=
  { Context.blank .ready lvl with
    pc := pc, s := (((x.setS 1 s1).setS 2 s2).setS 3 s3).s.filter (fun kv => kv.1 ≤ 3), endWord := x.endWord }

/-- The lowest-numbered free helper. -/
def Core.freeHelperNo (c : Core) : Option Nat := (upTo 11).find? (fun k => k != 0 && (c.context k).run == .free)

/-- HSTART's effect. -/
def effHstart : Eff := fun _ v s =>
  let t := v.x.s
  if t.getLsbD 0 then .error (addrFault 2 t.toNat)
  else
    match s.me.freeHelperNo with
    | none => Done.result s (.s 0)
    | some h =>
      Done.result (s.modMe (fun c => c.modContext h (fun x =>
        startedHelper x t v.y.s (BitVec.ofNat 64 h) 0 s.level))) (.s (BitVec.ofNat 64 h))
/-- HSTART. -/
def execHstart (e : Fields) (s : State) : Answer := .next (s.issue (.hstart e) effHstart)

/-- HJOIN's effect. -/
def effHjoin : Eff := fun _ v s =>
  let h := wfield v.y.s 0 4
  if h = 0 || 10 < h then Done.result s (.s 0)
  else if (s.me.context h).run = .free then Done.result s (.s (s.me.context h).endWord)
  else .error .wait
/-- HJOIN. -/
def execHjoin (e : Fields) (s : State) : Answer := .next (s.issue (.hjoin e) effHjoin)

/-! ### Gangs (R276, R277, R156) -/

/-- The gang trap MASK. -/
def gangTrap (m : BitVec 8) : Stop := .trap { cls := 0x0A, sub := 1, info := m.setWidth 64 }

/-- The bits of a mask that are set. -/
def bitsOf (m : BitVec 8) : List Nat := (upTo 8).filter (fun i => m.getLsbD i)

/-- A mask that FUSE accepts from the running core. [DEDUCED, log 33] -/
def State.fuseMask (s : State) (m : BitVec 8) : Bool :=
  let ps := bitsOf m
  (ps.length == 2 || ps.length == 4 || ps.length == 8) && m.getLsbD (s.pos s.cur)
    && ps.all (fun i => (s.atPos s.myCl i).isSome) && (s.me.memb &&& ~~~m) == 0

/-- Moves a waiting member past its FUSE or REJOIN. -/
def State.passMeet (s : State) (p : Nat) (next : Word) : State :=
  s.modCore p (fun c => { c with
    ctl := { c.ctl.advance next with run := .ready }, meet := none, meetHead := none, left := 0, counted := false, waited := 0 })

/-- An entry to the handler is pending for a core's control context, which waits at a boundary: it is taken before the context goes on
(R322, R330, R334). -/
def Core.entryDue (c : Core) : Bool :=
  c.handler != some 0 && (c.preempt.isSome || (c.diverge.any (fun d => d.1 == 0) && !c.saved)
    || c.ring.any (fun kr => kr.2.st == 2 && !kr.2.told))

/-- Fuses members that have met, each out of the gang that it was in, and moves those other than the running core past their
instruction; a pre-emption that is pending in one is pending in all (R334). [DEDUCED, log 33] -/
def State.meetAll (s : State) (ps : List Nat) : State :=
  let s := ps.foldl (fun s p =>
    match (s.core p).meet with
    | some (_, _, _, next) => if p = s.cur then s else s.passMeet p next
    | none => s) s
  let s := ps.foldl State.leaveGang s
  ((s.fuseGang ps).shareDue ps).modMe (fun c => { c with meet := none, meetHead := none, left := 0 })

/-- The pops of the queue heads that the waiting members' FUSEs name (R37, R150), each of which takes place when its FUSE executes: none
while one of them cannot, or would give another mask. -/
def State.meetPops (s : State) (m : BitVec 8) : List Nat → Option State
  | [] => some s
  | p :: ps =>
    match if p = s.cur then none else (s.core p).meetHead with
    | none => s.meetPops m ps
    | some (n, fwd) =>
      match ({ s with cur := p, ctx := 0 } : State).readName (s.core p).ctl.win fwd false n with
      | .error _ => none
      | .ok (v, t) => if v.s.setWidth 8 = m then ({ t with cur := s.cur, ctx := s.ctx } : State).meetPops m ps else none

/-- FUSE's effect: it waits until every core that the mask names has issued a FUSE with the same mask; then each member's FUSE executes,
with the pop of a queue head that it names. -/
def effFuse : Eff := fun o v s =>
  let m : BitVec 8 := v.x.s.setWidth 8
  if !(s.fuseMask m) then .error (gangTrap m)
  else
    let ps := s.maskCores s.myCl m
    if ps.any (fun p => (s.core p).dead) then .error (gangTrap m)
    else
      let pc := s.cx.pc
      let head : Option (Nat × Bool) := if 52 ≤ o.x then some (o.x, o.f) else none
      let mark (s : State) : State := s.modMe (fun c =>
        { c with meet := some (true, m, pc, pc + BitVec.ofNat 64 o.len), meetHead := head })
      let s := mark s
      let here (p : Nat) : Bool := p == s.cur || !(s.core p).entryDue && match (s.core p).meet with
        | some (true, m', _, _) => m' == m
        | _ => false
      if ps.all here then
        match s.meetPops m ps with
        | none => .error (.hold mark)
        | some s =>
          Done.plain (ps.foldl (fun s p => s.modCore p (fun c =>
            { c with orig := m, ctl := { c.ctl with j := mset c.ctl.j 0 m } })) (s.meetAll ps))
      else .error (.hold mark)
/-- FUSE. -/
def execFuse (e : Fields) (s : State) : Answer := .next (s.issue (.fuse e) effFuse)

/-- SPLIT's effect: the member becomes an independent context (R155). -/
def effSplit : Eff := fun _ _ s => Done.plain (s.leaveGang s.cur)
/-- SPLIT. -/
def execSplit (e : Fields) (s : State) : Answer := .next (s.issue (.split e) effSplit)

/-- REJOIN's effect (R156): members named in the mask count as arrived when they wait at a REJOIN with the same
mask, have EXITed, are dead, or are not assigned. One that waits with the same mask at another PC breaks the
meeting: every waiting member goes on alone with RJF set. -/
def effRejoin : Eff := fun o _ s =>
  let m : BitVec 8 := mget 0 s.cx.j (o.x % 4) ||| (1#8 <<< s.pos s.cur)
  let pc := s.cx.pc
  let mark (s : State) : State := s.modMe (fun c =>
    { c with left := if c.meet.isNone then 0 else c.left, meet := some (false, m, pc, pc + BitVec.ofNat 64 o.len) })
  let s := mark s
  let ps := s.maskCores s.myCl m
  let waits (p : Nat) : Bool := (p == s.cur || !(s.core p).entryDue) && match (s.core p).meet with
    | some (false, m', _, _) => m' == m
    | _ => false
  let met := ps.filter waits
  let other := met.any (fun p => match (s.core p).meet with
    | some (_, _, pc', _) => pc' != pc
    | none => false)
  if other then
    let s := met.foldl (fun s p =>
      let s := s.leaveGang p
      let s := s.modCore p (fun c => { c with ctl := { c.ctl with tsw := orBit c.ctl.tsw 12 } })
      match (s.core p).meet with
      | some (_, _, _, next) => if p = s.cur then s else s.passMeet p next
      | none => s) s
    Done.plain (s.modMe (fun c => { c with meet := none, meetHead := none, left := 0 }))
  else if ps.all (fun p => waits p || (s.core p).exited || (s.core p).dead || s.me.left.getLsbD (s.pos p)) then
    Done.plain (s.meetAll met)
  else .error (.hold mark)
/-- REJOIN. -/
def execRejoin (e : Fields) (s : State) : Answer := .next (s.issue (.rejoin e) effRejoin)

/-- JMSK's effect: W is Y[2]. -/
def effJmsk : Eff := fun o v s =>
  if o.y.testBit 2 then Done.plain (s.modCx (fun x => { x with j := mset x.j (o.y % 4) (v.x.s.setWidth 8) }))
  else Done.result s (.s ((mget 0 s.cx.j (o.y % 4)).setWidth 64))
/-- JMSK. -/
def execJmsk (e : Fields) (s : State) : Answer := .next (s.issue (.jmsk e) effJmsk)

/-- GSTAT's effect. -/
def effGstat : Eff := fun _ _ s => Done.result s (.s (s.gangWord s.cur))
/-- GSTAT. -/
def execGstat (e : Fields) (s : State) : Answer := .next (s.issue (.gstat e) effGstat)

end Sys2Proof.Machine
end

