-- ==== Sys2Proof/Machine/Partition.lean ====
section
/-! DEFINITION. What writes of PART.L2P and PART.RLS do (R231, R279, R311, R341, R363), neighbour links that are
switched off (R297), and XLAT.INV (R64). -/

namespace Sys2Proof.Machine

/-! ### PART.RLS (R231) -/

/-- Changes a partition's rule slots: a slot that leaves has both banks zeroed on every slice. -/
def State.writeRls (s : State) (q : Nat) (slots : BitVec 8) : State :=
  let gone := (upTo 8).filter (fun n => (s.part q).rls.getLsbD n && !slots.getLsbD n)
  let s := s.modPart q (fun x => { x with rls := slots })
  gone.foldl (fun s n => s.modRule n (fun _ => Slot.fresh)) s

/-! ### An idle cluster and its scrub (R97) -/

/-- The cores of a cluster. -/
def coresOf (cl : Nat) : List Nat := (upTo 9).map (coreAt cl)

/-- A core holds nothing that keeps its cluster from being idle. -/
def Core.quietCore (c : Core) : Bool :=
  c.group.isNone && c.swaps.isEmpty && c.helpers.all (fun kx => kx.2.run == .free)
    && (match c.ctl.run with
      | .stopped _ => true
      | _ => false)
    && c.fifo.isEmpty && c.mq.isEmpty && c.mbox.isEmpty

/-- A cluster is idle. -/
def State.clusterIdle (s : State) (cl : Nat) : Bool :=
  (coresOf cl).all (fun p => (s.core p).quietCore) && (s.cluster cl).slots.isEmpty && (s.cluster cl).runs.isEmpty

/-- An error mark lies in a store of a cluster. -/
def ErrMark.inCluster (m : ErrMark) (cl : Nat) : Bool :=
  match m.store with
  | .loc p => clusterOf p == cl
  | .clu c => c == cl
  | .pod c _ => c == cl
  | .acc c => c == cl
  | .win c => c == cl
  | _ => false

/-- Scrubs a cluster under new keys: every byte of its stores reads zero, its banks, tiles, format contexts, window cache, bank
pointers and undo logs are as at reset. [DEDUCED, log 68] -/
def State.scrubCluster (s : State) (cl : Nat) : State :=
  let s := (coresOf cl).foldl (fun s p => s.modCore p (fun c =>
    { c with mem := [], ulog := [], ulogPast := [], ovf := false, ulogEn := true })) s
  let (n, s) := s.draw
  let s := s.modCluster cl (fun k =>
    { k with mem := [], keyNo := n + 1, banks := [], tiles := [], fmts := [], freePods := 256, wcache := [], begun := [],
             bankPtr := [], atomPtr := 0 })
  { s with errs := s.errs.filter (fun m => !m.inCluster cl) }

/-! ### PART.L2P (R311, R341, R363) -/

/-- Clears the arrivals of a logical core of a partition. [DEDUCED, log 46] -/
def State.clearArrivals (s : State) (q l : Nat) : State :=
  { s with chans := s.chans.map (fun kc =>
      (kc.1, if kc.2.part == q && (s.part q).bch.getLsbD (kc.1 % 64) then { kc.2 with arr := kc.2.arr.filter (fun a => a.lpid != l) } else kc.2)) }

/-- A core's part in a group stops where it stands, until the group is replayed from ENTRY (R363): what its context had under way, and
its requests that the engine has not started, are discarded. [DEDUCED, log 38] -/
def Core.awaitReplay (c : Core) (launch index : Nat) : Core :=
  let c := c.modGroup launch index (fun g => { g with replay := true })
  if c.group.any (fun g => g.is launch index) then
    { c with
      ctl := { c.ctl with run := .stopped .idle, rep := Rep.none }
      handler := if c.handler = some 0 then none else c.handler, entries := c.entries.filter (fun e => e.ctx != 0)
      due := c.due.filter (fun d => d.ctx != 0), ring := c.ring.filter (fun kr => kr.2.mat), replay := none, fifo := []
      asmC := none, asmM := none, asmR := none, meet := none, meetHead := none, flight := none, answer := none, again := none
      preempt := none, diverge := c.diverge.filter (fun d => d.1 != 0), swapping := false, counted := false, waited := 0 }
  else c

/-- A group stops on every core that has a part in it, to be replayed: its launch counts it (R363). -/
def State.stopForReplay (s : State) (q : Nat) (g : GroupRun) : State :=
  let s := (s.groupCores q g.launch g.index).foldl (fun s p =>
    let s := s.clearArrivals q (s.lp p)
    (if (s.core p).group.any (fun x => x.is g.launch g.index) then s.leaveGang p else s).modCore p (fun c => c.awaitReplay g.launch g.index)) s
  (s.taint q g.launch 2 1).modLaunch q g.launch (fun x => { x with replay := x.replay + 1 })

/-- Replays a group whose unit, or pair of units, stands whole, each unit on one site: it starts from ENTRY with the start state of R313,
and counts as having executed TRIG if it had (R283, R363). [DEDUCED, log 38] -/
def State.replayUnit (s : State) (q launch index : Nat) : State :=
  match (s.part q).launches.find? (fun x => x.serial == launch) with
  | none => s
  | some x =>
    let ps := s.groupCores q launch index
    let ready := ps.all (fun p => (s.core p).group.any (fun g => g.is launch index && g.replay)
      && !(s.core p).dead && !(s.core p).poisoned
      && decide ((ps.filter (fun r => clusterOf r == clusterOf p)).length = x.gang ∨ x.gang = 1))
    if !ready then s
    else
      let trig := ps.any (fun p => (s.core p).group.any (·.trig))
      let s := ps.foldl State.settlePairs (s.dropPaired (fun w => ps.contains w.sender))
      ps.foldl (fun s p => s.modCore p (fun c => c.modGroup launch index (fun g => { g with trig := trig })))
        (s.startUnit q x index ps)

/-- A dead core's group, which its replacement has taken, goes on (R363): it is replayed on its whole unit, and its pair's, or, when that
is impossible, it counts as exited and its launch is tainted. [DEDUCED, log 38] -/
def State.replayGroup (s : State) (q : Nat) (g : GroupRun) (old : Core) (p1 : Nat) : State :=
  if g.passed || old.poisonMail then (s.taint q g.launch 8 2).endGroup p1
  else if g.replay then s.replayUnit q g.launch g.index
  else (s.stopForReplay q g).replayUnit q g.launch g.index

/-- A partition is granted a cluster that nobody holds, if it is idle, once it has been scrubbed (R89, R97); it runs (R389). -/
def State.grant (s : State) (q cl : Nat) : State :=
  if (s.cluster cl).part.isNone && s.clusterIdle cl then
    (s.scrubCluster cl).modCluster cl (fun k => { k with part := some q, power := .run, idle := 0 })
  else s

/-- A core takes a logical number of a partition, which then holds its cluster. A core that is fused off takes none (R9), nor one
whose cluster the partition does not hold and is not granted. [DEDUCED, log 44] -/
def State.number (s : State) (q l p : Nat) : State :=
  if s.fusedOff p then s
  else
    let s := s.grant q (clusterOf p)
    if s.partOf p = some q then s.modCore p (fun c => { c with lpid := some l }) else s

/-- The RDCMPs that a logical core has outstanding move with it, and with them the mailbox room that is reserved for them. -/
def State.moveCmds (s : State) (p0 p1 : Nat) : State :=
  let mine (d : RuleCmd) : Bool := d.core == p0 && ruleOp d.w0 == 0x12
  let room := ((s.cmds.filter (fun d => mine d && d.spill.isNone)).map (fun _ => 32))
  let s := { s with cmds := s.cmds.map (fun d => if mine d then { d with core := p1 } else d) }
  (s.modCore p0 (fun c => { c with resv := room.foldl List.erase c.resv })).modCore p1 (fun c => { c with resv := c.resv ++ room })

/-- A core that loses its logical number: its control context is stopped at S level, and nothing is pending for it (R342). -/
def Core.vacated (c : Core) : Core :=
  { c with lpid := none, group := none, twin := none, diverge := [], returned := [], swaps := [], again := none, preempt := none
           handler := if c.handler = some 0 then none else c.handler, entries := c.entries.filter (fun e => e.ctx != 0) }.unnumbered

/-- What a logical core takes with it to another physical core, beside its context: its group and what is set aside, its place among the
paired operations, what is pending for it or returned to it. The log of the core it comes to cannot roll it back (R96). -/
def Core.settled (c c0 : Core) : Core :=
  { c with group := c0.group, twin := c0.twin, diverge := c0.diverge, returned := c0.returned, opNo := max c.opNo c0.opNo, ovf := true,
           swaps := c0.swaps, pairNo := c0.pairNo, matched := c0.matched, snap := c0.snap, repeating := c0.repeating, again := c0.again,
           preempt := c0.preempt }

/-- The copies of a core's paired operations are another core's from now on (R279, R365). -/
def State.renamePaired (s : State) (p0 p1 : Nat) : State :=
  let f (p : Nat) : Nat := if p = p0 then p1 else p
  { s with paired := s.paired.map (fun w => { w with core := f w.core, twin := f w.twin, sender := f w.sender }) }

/-- A write of PART.L2P: the logical core moves with its memberships, arrivals, shares, its running group and what is swapped
out or returned to it. A group that a dead core had set aside is replayed when it comes back. [DEDUCED, log 38] -/
def State.remap (s : State) (q l : Nat) (e : Word) : State :=
  let e := BitVec.ofNat 64 (wfield e 0 13 + wfield e 63 1 * 2 ^ 63)
  let old := s.physOf q l
  let s := s.modPart q (fun x =>
    { x with l2p := mset x.l2p l e, n := if e.getLsbD 63 then max x.n (l + 1) else if x.n = l + 1 then l else x.n })
  let p1 := e.toNat % 8192
  let named := e.getLsbD 63
  match old with
  | none => if named then s.number q l p1 else s
  | some p0 =>
    if named && p1 = p0 then s.number q l p1
    else
      let c0 := s.core p0
      let s := (s.leaveGang p0).modCore p0 Core.vacated
      if !named then s
      else
        let s := s.number q l p1
        if (s.core p1).lpid != some l then s
        else
        let s := s.modCore p1 (fun c => { c with exited := c0.exited, noMore := c0.noMore })
        let s := match c0.twin with
          | some t => s.modCore t (fun c => { c with twin := some p1 })
          | none => s
        if c0.dead || c0.poisoned then
          let set' := c0.swaps.map (fun w => { w with saved := false, diverge := [], group := { w.group with replay := true } })
          let s := s.modCore p1 (fun c => { c with swaps := set', group := c0.group, twin := c0.twin })
          let s := c0.swaps.foldl (fun s w => if w.group.passed || w.group.replay then s else s.stopForReplay q w.group) s
          match c0.group with
          | none => s
          | some g => s.replayGroup q g c0 p1
        else if c0.group.isNone && c0.swaps.isEmpty then s
        else
          let s := ((s.moveCmds p0 p1).renamePaired p0 p1).modCore p1 (fun c => c.settled c0)
          match c0.group with
          | some g => if g.replay then s.replayUnit q g.launch g.index else s
          | none => s

/-! ### The order of the logical numbers (R311, R318) -/

/-- Places a logical core among others by its cluster, then its number. -/
def placeLp (cl : Nat → Nat) : List Nat → Nat → List Nat
  | [], l => [l]
  | m :: ms, l => if cl l < cl m then l :: m :: ms else m :: placeLp cl ms l

/-- A partition's logical cores in the order of R311: by die and site, and in a site as they were. [DEDUCED, log 88] -/
def State.lpOrder (s : State) (q : Nat) : List Nat :=
  let cl (l : Nat) : Nat := match s.physOf q l with
    | some p => clusterOf p
    | none => 0
  ((upTo (s.part q).n).filter (fun l => (s.physOf q l).isSome)).foldl (placeLp cl) []

/-- Renumbers a partition's logical cores densely in the order of R311: whatever names one of them by its number follows. [DEDUCED, log 88] -/
def State.renumber (s : State) (q : Nat) : State :=
  let ls := s.lpOrder q
  if ls = upTo (s.part q).n then s
  else
    let f (l : Nat) : Nat := match ls.findIdx? (fun m => m == l) with
      | some i => i
      | none => 4096 + l
    let entry (l : Nat) : Word := mget 0 (s.part q).l2p l
    let ps := ls.filterMap (s.physOf q)
    let s := (upTo ps.length).foldl (fun s i => s.modCore (ps.getD i 0) (fun c => { c with lpid := some i })) s
    let s := s.modPart q (fun x => { x with
      n := ls.length, l2p := (upTo ls.length).map (fun i => (i, entry (ls.getD i 0)))
      launches := x.launches.map (fun l => { l with
        shares := l.shares.map (fun h => { h with unit := h.unit.map f }), pairs := l.pairs.map (fun ab => (f ab.1, f ab.2)) }) })
    let chest (d : Die) : Die := { d with chest := d.chest.map (fun e => if e.part == q then { e with lpid := f e.lpid } else e) }
    { s with
      chans := s.chans.map (fun kc => (kc.1, if kc.2.part == q then
        { kc.2 with members := kc.2.members.map f, arr := kc.2.arr.map (fun a => { a with lpid := f a.lpid }) } else kc.2))
      die0 := chest s.die0, die1 := chest s.die1 }

/-! ### Neighbour links (R12, R152, R297) -/

/-- Drops the words queued over the links of a core that are absent. -/
def State.dropLinks (s : State) (p : Nat) : State :=
  let cut (s : State) (west : Bool) : State :=
    if (s.link p west).isSome then s
    else
      let s := s.modCore p (fun c => if west then { c with west := [] } else { c with east := [] })
      let s := { s with links := s.links.filter (fun l => !(l.dst == p && l.west == west)) }
      match neighbour p west with
      | none => s
      | some r =>
        let s := s.modCore r (fun c => if west then { c with east := [] } else { c with west := [] })
        { s with links := s.links.filter (fun l => !(l.dst == r && l.west == !west)) }
  cut (cut s true) false

/-- Writes CORE.LNK of a core. -/
def State.setLnk (s : State) (p : Nat) (v : Word) : State :=
  (s.modCore p (fun c => { c with lnk := v.setWidth 2 })).dropLinks p

/-! ### XLAT.INV (R64) -/

/-- An invalidation names a cached translation of the writer's partition. -/
def invHits (q : Nat) (v : Word) (t : Tlb) : Bool :=
  t.part == q &&
    match wfield v 14 2 with
    | 0 => t.cid.toNat == wfield v 0 12 && decide (t.va ≤ wfield v 16 41 * 65536)
        && decide (wfield v 16 41 * 65536 < t.va + t.size)
    | 1 => t.cid.toNat == wfield v 0 12
    | 2 => true
    | _ => false

/-- A walk under way that an invalidation waits for. Its page's size is not known yet: in MODE 0 it may be any that holds the VPN. -/
def State.walkMeets (s : State) (core : Nat) (v : Word) (r : GReq) : Bool :=
  s.partOf r.core == s.partOf core && match wfield v 14 2 with
    | 0 => r.cid.toNat == wfield v 0 12 && r.va / 0x40000000 == wfield v 16 41 * 65536 / 0x40000000
    | 1 => r.cid.toNat == wfield v 0 12
    | 2 => true
    | _ => false

/-- Removes the cached translations that an invalidation names from every station. -/
def State.invalidate (s : State) (q : Nat) (v : Word) : State :=
  { s with slices := s.slices.map (fun kz => (kz.1, { kz.2 with tlb := kz.2.tlb.filter (fun t => !invHits q v t) })) }

end Sys2Proof.Machine
end

