-- ==== Sys2Proof/Machine/SaveRestore.lean ====
section
/-! DEFINITION. CORE.MSB: saving a context and its NI into local memory, and restoring them (R335 to R337, R147), and
the words in which REP state, window tags and the dispatch ring are shown (R145, R328, R329). -/

namespace Sys2Proof.Machine

/-! ### Words that show state -/

/-- The REP state as eight words: word 0 holds the number of parcels in bits 2:0, the count in 7:3, the next index in
15:8 and the marks X, Y, Z, O in bits 16 to 19; words 1 and 2 hold the parcels. [DEDUCED, log 29] -/
def Rep.pack (r : Rep) : List Word :=
  let ps (l : List Parcel) : Nat := l.foldr (fun p a => p.toNat + 2 ^ 16 * a) 0
  [BitVec.ofNat 64 (r.parcels.length % 8 + r.count % 32 * 2 ^ 3 + r.next % 256 * 2 ^ 8 + r.sx.toNat * 2 ^ 16
     + r.sy.toNat * 2 ^ 17 + r.sz.toNat * 2 ^ 18 + r.so.toNat * 2 ^ 19),
   BitVec.ofNat 64 (ps (r.parcels.take 4)), BitVec.ofNat 64 (ps (r.parcels.drop 4)), 0, 0, 0, 0, 0]

/-- The REP state that eight words show. [DEDUCED, log 29] -/
def Rep.unpack (w : List Word) : Rep :=
  let g (k : Nat) : Word := w.getD k 0
  let n := min 5 (wfield (g 0) 0 3)
  { parcels := (upTo n).map (fun i => BitVec.ofNat 16 (wfield (g (1 + i / 4)) (16 * (i % 4)) 16)),
    count := wfield (g 0) 3 5, next := wfield (g 0) 8 8, sx := (g 0).getLsbD 16, sy := (g 0).getLsbD 17,
    sz := (g 0).getLsbD 18, so := (g 0).getLsbD 19 }

/-- The tags of a window's entries as one word. -/
def Window.tags (w : Window) : Word :=
  BitVec.ofNat 64 (w.d1.tag + w.d2.tag * 2 ^ 16 + w.d3.tag * 2 ^ 32 + w.d4.tag * 2 ^ 48)

/-- An entry with the tag that a 16-bit field gives it. -/
def WinEntry.withTag (e : WinEntry) (t : Nat) : WinEntry :=
  { e with val := t.testBit 0, vec := t.testBit 1, pend := if t.testBit 0 then none else e.pend }

/-- A window with the tags that a word gives. -/
def Window.withTags (w : Window) (t : Word) : Window :=
  { d1 := w.d1.withTag (wfield t 0 16), d2 := w.d2.withTag (wfield t 16 16), d3 := w.d3.withTag (wfield t 32 16),
    d4 := w.d4.withTag (wfield t 48 16) }

/-- Changes entry dN of a window. -/
def Window.modEntry (w : Window) (n : Nat) (f : WinEntry → WinEntry) : Window :=
  match n with
  | 1 => { w with d1 := f w.d1 }
  | 2 => { w with d2 := f w.d2 }
  | 3 => { w with d3 := f w.d3 }
  | _ => { w with d4 := f w.d4 }

/-- An entry's bytes as they are shown: a pending one shows zeros. -/
def WinEntry.shown (e : WinEntry) : VWord := if e.pend.isSome then 0 else e.bits

/-- The window position of a ring entry's result (R329), in a window. -/
def RingEntry.pos (r : RingEntry) (w : Window) : Nat :=
  if r.wpos = 7 then 7
  else match r.id with
    | some id => w.posOf id
    | none => 7

/-- A dispatch-ring entry as a word. -/
def RingEntry.pack (r : RingEntry) (pos : Nat) : Word :=
  BitVec.ofNat 64 (r.pc.toNat + pos * 2 ^ 57 + r.st * 2 ^ 60 + r.mat.toNat * 2 ^ 62 + r.v.toNat * 2 ^ 63)

/-! ### Saving (OP 1) -/

/-- The save-area base. -/
def Core.msbBase (c : Core) : Nat := wfield c.msb 12 45 * 4096

/-- The area lies in local memory. -/
def msbFits (base : Nat) : Bool := decide (base + 0x1800 ≤ 0x400000)

/-- The fields of the shadow's CTX.TSW. -/
def shadowTswMask : Word := 0x7FFF3FF3

/-- A helper's saved CTX.TSW: its own with LIVE, STOP, CMP and the VAL bits of its window. -/
def helperTsw (x : Context) : Nat :=
  let live := x.run != .free
  let stop := match x.run with
    | .stopped _ => true
    | _ => false
  let hwv := (x.win.list.map (fun e => e.val.toNat)).foldr (fun b a => b + 2 * a) 0
  x.tsw.toNat % 2 ^ 33 + (if live then hwv * 2 ^ 33 + x.comp.isSome.toNat * 2 ^ 38 + stop.toNat * 2 ^ 39 + 2 ^ 37 else 0)

/-- The bytes of a helper's record: offset, length, value. -/
def helperRecord (k : Nat) (x : Context) : List (Nat × Nat × Nat) :=
  let o := 0x940 + 168 * (k - 1)
  let pc := if x.run = .free then x.endWord else x.pc
  [(o, 8, helperTsw x), (o + 8, 8, pc.toNat)]
    ++ (upTo 15).map (fun i => (o + 16 + 8 * i, 8, (x.sreg (i + 1)).toNat))
    ++ (upTo 4).map (fun i => (o + 136 + 8 * i, 8, (lane0 (x.win.entry (i + 1)).shown).toNat))

/-- The bytes that OP 1 writes of the context (R335): a ring entry that is free is saved as zero. [DEDUCED, log 40] -/
def State.areaBytes (s : State) (p : Nat) : List (Nat × Nat × Nat) :=
  let c := s.core p
  let h := c.shadow
  [(0, 8, h.tsw.toNat)]
    ++ (upTo 4).map (fun i => (0x108 + 64 * i, 64, (h.win.entry (i + 1)).shown.toNat))
    ++ [(0x208, 8, h.win.tags.toNat)]
    ++ (upTo 8).map (fun i => (0x290 + 8 * i, 8, (h.rep.pack.getD i 0).toNat))
    ++ (upTo 8).flatMap (fun i =>
        let b := mget (0, 0) c.bb i
        [(0x2D0 + 16 * i, 8, b.1.toNat), (0x2D8 + 16 * i, 8, b.2.toNat)])
    ++ [(0x458, 8, h.gen.toNat), (0x460, 8, (s.gangWord p).toNat),
        (0x880, 64, (mget (0 : VWord) (s.cluster (clusterOf p)).fmts (cidxOf p)).toNat)]
    ++ (upTo 16).map (fun i => (0x8C0 + 8 * i, 8, (match mfind c.ring i with
        | some r => (r.pack (r.pos h.win)).toNat
        | none => 0)))
    ++ (upTo 10).flatMap (fun i => helperRecord (i + 1) (c.context (i + 1)))

/-- The spilled mailbox: descriptor and content of each entry, oldest first. -/
def mailBytes : Nat → List MailEntry → List (Nat × Nat × Nat)
  | _, [] => []
  | o, e :: es =>
    let n := 8 * ceilDiv e.len 8
    (o, 8, (descriptor (e :: es)).toNat) :: (o + 8, n, e.body.toNat) :: mailBytes (o + 8 + n) es

/-- The bytes that OP 1 writes of the NI (R337). -/
def Core.spillBytes (c : Core) : List (Nat × Nat × Nat) :=
  let words (o : Nat) (ws : List Word) : List (Nat × Nat × Nat) :=
    (upTo ws.length).map (fun i => (o + 8 * i, 8, (ws.getD i 0).toNat))
  let size := (c.mbox.map (fun e => entryBytes e.len)).foldl (· + ·) 0
  [(0, 8, c.mbox.length + c.cq.length * 2 ^ 8 + c.west.length * 2 ^ 16 + c.east.length * 2 ^ 20 + size * 2 ^ 32), (8, 56, 0)]
    ++ words 0x40 c.cq ++ words 0xC0 c.west ++ words 0xE0 c.east ++ mailBytes 0x100 c.mbox

/-- Writes pieces into a core's local memory from a base. -/
def Core.writePieces (c : Core) (base : Nat) (ps : List (Nat × Nat × Nat)) : Core :=
  ps.foldl (fun c x => c.writeLocal (base + x.1) x.2.1 x.2.2) c

/-- A write of `n` bytes of a store merges into a line that holds an uncorrectable error (R88, R359). -/
def State.partBad (s : State) (st : Store) (a n : Nat) : Bool :=
  n != 0 && !(a % 64 == 0 && n % 64 == 0) && s.hardErr st (a / 64 * 64) ((a % 64 + n + 63) / 64 * 64)

/-- A core that writes pieces of its local memory from a base meets such an error. [DEDUCED, log 55] -/
def State.piecesBad (s : State) (p base : Nat) (ps : List (Nat × Nat × Nat)) : Bool :=
  ps.any (fun x => s.partBad (.loc p) (base + x.1) x.2.1)

/-- A write of `n` bytes that merges into a line of a store corrects what it reads there, for the launch whose group a core runs (R88,
R359). [DEDUCED, log 55] -/
def State.partFix (s : State) (p : Nat) (st : Store) (a n : Nat) : State :=
  if n = 0 || (a % 64 == 0 && n % 64 == 0) then s else s.correct p st (a / 64 * 64) ((a % 64 + n + 63) / 64 * 64)

/-- Writes pieces into a core's local memory: a whole line clears its error, and what merges into one corrects it (R359). -/
def State.putPieces (s : State) (p base : Nat) (ps : List (Nat × Nat × Nat)) : State :=
  ps.foldl (fun s x => (s.partFix p (.loc p) (base + x.1) x.2.1).clearErr (.loc p) (base + x.1) x.2.1)
    (s.modCore p (fun c => c.writePieces base ps))

/-- CORE.MSB when an operation has ended: OP reads 0, ERR tells whether it did nothing. -/
def msbEnd (m : Word) (err : Bool) : Word := wput (wput m 0 3 0) 3 1 err.toNat

/-- A core has an RLUPD, RLTAPE or RLREV outstanding (R255). -/
def State.unitWork (s : State) (p : Nat) : Bool :=
  s.cmds.any (fun c => c.core == p && decide (1 ≤ ruleOp c.w0) && decide (ruleOp c.w0 ≤ 3))

/-- OP 1 can act: no started copy, no matrix command, no outstanding MBSEND, RLUPD, RLTAPE or RLREV, no access whose late fault is still on
its way, and no pending value in the shadow or a live helper but that of a vector access whose late fault has arrived (R131, R147, R227,
R255, R336). -/
def State.saveReady (s : State) (p : Nat) : Bool :=
  let c := s.core p
  let faulted (n : Nat) : Bool := c.ring.any (fun kr => kr.2.id == some n && kr.2.st == 2)
  let calm (w : Window) : Bool := w.list.all (fun e => match e.pend with
    | some n => faulted n
    | none => true)
  s.copiesOf p == 0 && c.mq.isEmpty && !((s.cluster (clusterOf p)).runs.any (fun r => r.cidx == cidxOf p)) && c.sent == 0 && !(s.unitWork p)
    && calm c.shadow.win
    && c.ring.all (fun kr => kr.2.mat || kr.2.hand || kr.2.st != 0 || kr.2.cls == 0)
    && (upTo 10).all (fun i => calm (c.context (i + 1)).win && !(c.due.any (fun d => d.ctx == i + 1)))

/-- Discards the partial records of a core's helpers: none survives into a save area (R70). -/
def State.dropHelperAsm (s : State) (p : Nat) : State := (upTo 10).foldl (fun s i => s.dropAsm p (i + 1)) s

/-- The partition of a core, 16 for a core that no partition holds. -/
def State.partNo (s : State) (p : Nat) : Nat :=
  match s.partOf p with
  | some q => q
  | none => 16

/-- All bytes that OP 1 writes, from the save area's base on. -/
def State.saveBytes (s : State) (p : Nat) : List (Nat × Nat × Nat) :=
  s.areaBytes p ++ (s.core p).spillBytes.map (fun x => (0x1000 + x.1, x.2))

/-- The bytes of a save area and its spill buffer that are not zero, by offset. -/
def areaCells (m : Mem) (base : Nat) : Mem :=
  (m.filter (fun c => decide (base ≤ c.1) && decide (c.1 < base + 0x1800))).map (fun c => (c.1 - base, c.2))

/-- A context that OP 1 saves as the save area at `base`: the RDCMPs that it has outstanding belong to it from now on, with the room that its
mailbox reserves for them, its pending DIVERGE entries, its issue queue and its place in its gang (R155, R322, R337). [DEDUCED, log 40] -/
def State.spillCmds (s : State) (p base : Nat) : State :=
  let mine (d : RuleCmd) : Bool := d.core == p && ruleOp d.w0 == 0x12 && d.spill.isNone
  let room := (s.cmds.filter mine).map (fun _ => 32)
  let c := s.core p
  let fused := c.memb != 0
  let i : SaveImage :=
    { no := s.saves.foldl (fun a i => max a i.no) 0 + 1, core := p, part := s.partNo p, words := (s.areaBytes p).map (·.2.2)
      diverge := c.diverge, queue := c.queue, area := areaCells (c.writePieces base (s.saveBytes p)).mem base, used := false
      gang := if fused then s.gangMates p else []
      stood := if fused then some { pc := c.gpos.getD c.epc, hold := c.hold, outcome := c.outcome } else none }
  let s := { s with cmds := s.cmds.map (fun d => if mine d then { d with spill := some (i.no, base) } else d), saves := s.saves ++ [i] }
  s.modCore p (fun c => { c with resv := room.foldl List.erase c.resv, diverge := [] })

/-- The context that the save area of a core at `base` holds: one saved with the same bytes that OP 1 writes; of several, one that no OP 2 has
restored yet before one that stands elsewhere already, then one whose area was the same in every byte, then one of this core, then the
last. [DEDUCED, log 40] -/
def State.imageAt (s : State) (p base : Nat) : Option SaveImage :=
  let m := (s.core p).mem
  let ws := (s.areaBytes p).map (fun x => bread m (base + x.1) x.2.1)
  let first (f : SaveImage → Bool) (l : List SaveImage) : List SaveImage := if l.any f then l.filter f else l
  let same := s.saves.filter (fun i => i.part == s.partNo p && i.words == ws)
  (first (fun i => i.core == p) (first (fun i => i.area == areaCells m base) (first (fun i => !i.used) same))).getLast?

/-- What belongs to a saved context comes to the core that restores it. -/
def State.unspillCmds (s : State) (p : Nat) (i : SaveImage) : State :=
  let mine (d : RuleCmd) : Bool := ruleOp d.w0 == 0x12 && d.spill.any (fun b => b.1 == i.no)
  let room := (s.cmds.filter mine).map (fun _ => 32)
  let s := { s with
    cmds := s.cmds.map (fun d => if mine d then { d with core := p, spill := none } else d)
    saves := s.saves.map (fun (j : SaveImage) => if j.no == i.no then { j with diverge := [], used := true } else j) }
  s.modCore p (fun c => { c with resv := c.resv ++ room, diverge := c.diverge ++ i.diverge, queue := i.queue, stood := i.stood })

/-- OP 1, or why it does not act yet. -/
def State.msbSave (s : State) (p : Nat) : Except Stop State :=
  let base := (s.core p).msbBase
  if !(msbFits base) then .ok (s.modCore p (fun c => { c with msb := msbEnd c.msb true }))
  else if !(s.saveReady p) then .error .wait
  else
    let t := (s.dropHelperAsm p).spillCmds p base
    let area := t.saveBytes p
    if s.piecesBad p base area then .error (.poison s)
    else .ok ((t.putPieces p base area).modCore p (fun c =>
      { c with
        msb := msbEnd c.msb false, mbox := [], cq := [], west := [], east := [], saved := true
        helpers := c.helpers.map (fun kx => (kx.1, match kx.2.run with
          | .ready => { kx.2 with run := .stopped .saved }
          | .waiting => { kx.2 with run := .stopped .saved }
          | _ => kx.2)) }))

/-! ### Restoring (OP 2) -/

/-- The word of a core's local memory at an offset from a base. -/
def Core.wordAt (c : Core) (base o : Nat) : Word := BitVec.ofNat 64 (bread c.mem (base + o) 8)

/-- A helper as its record says: one that was stopped is stopped again, as by PARK, until a resume message. [DEDUCED, log 40] -/
def Core.helperAt (c : Core) (base k : Nat) (comp : Option Nat) : Context :=
  let o := 0x940 + 168 * (k - 1)
  let t := c.wordAt base o
  let w (i : Nat) : WinEntry :=
    { val := t.getLsbD (33 + i), vec := false, pend := none, bits := widen (c.wordAt base (o + 136 + 8 * i)) }
  if !t.getLsbD 37 then { Context.freeHelper with endWord := c.wordAt base (o + 8) }
  else
    { Context.blank (if t.getLsbD 39 then .stopped .parked else .ready) 0 with
      pc := c.wordAt base (o + 8) &&& ~~~1#64, tsw := t &&& shadowTswMask,
      s := ((upTo 15).foldl (fun (x : Context) i => x.setS (i + 1) (c.wordAt base (o + 16 + 8 * i)))
        (Context.blank .free 0)).s,
      win := { d1 := w 0, d2 := w 1, d3 := w 2, d4 := w 3 },
      comp := if t.getLsbD 38 then comp else none }

/-- The saved window. -/
def Core.windowAt (c : Core) (base : Nat) : Window :=
  let t := c.wordAt base 0x208
  let e (i : Nat) : WinEntry :=
    { val := t.getLsbD (16 * i), vec := t.getLsbD (16 * i + 1), pend := none,
      bits := BitVec.ofNat 512 (bread c.mem (base + 0x108 + 64 * i) 64) }
  { d1 := e 0, d2 := e 1, d3 := e 2, d4 := e 3 }

/-- The window as it stood before the results from position `n` on entered it. -/
def Window.before (w : Window) (n : Nat) : Window :=
  let l := w.list.drop n ++ List.replicate 4 WinEntry.empty
  { d1 := l.getD 0 WinEntry.empty, d2 := l.getD 1 WinEntry.empty, d3 := l.getD 2 WinEntry.empty,
    d4 := l.getD 3 WinEntry.empty }

/-- Takes a saved ring entry back: a faulted one holds its window position again (R147). -/
def Core.takeRingWord (c : Core) (k : Nat) (w : Word) : Core :=
  if !w.getLsbD 63 then c
  else
    let pos := wfield w 57 3
    let id := c.nextId
    let win := c.shadow.win
    let faulted := wfield w 60 2 == 2 && !w.getLsbD 62
    let r : RingEntry :=
      { RingEntry.empty with
        v := true, mat := w.getLsbD 62, st := wfield w 60 2, pc := w.setWidth 57 &&& ~~~1#57, id := some id,
        ord := id, wpos := if pos = 7 then 7 else 0,
        cls := if w.getLsbD 62 then 0x0E else 0x0D,
        old := if pos ≤ 3 then win.before (pos + 1) else win }
    let hold (e : WinEntry) : WinEntry := { e with val := false, pend := some id, bits := 0 }
    { c with
      nextId := id + 1, ring := mset c.ring k r
      due := if faulted then c.due ++ [{ id := id, ctx := 0, dest := none, vec := false, value := none, ring := some k }]
        else c.due
      shadow := { c.shadow with win := if faulted && pos ≤ 3 then win.modEntry (pos + 1) hold else win } }

/-- The mailbox items of a spill buffer: bytes past LEN are zero (R301). -/
def Core.itemsAt (c : Core) : Nat → Nat → List MailEntry
  | 0, _ => []
  | n + 1, o =>
    let d := c.wordAt 0 o
    let len := wfield d 32 8
    let e : MailEntry :=
      { status := wfield d 59 4, cls := wfield d 56 3, src := BitVec.ofNat 32 (wfield d 0 32), len := len,
        next := wfield d 40 8, body := BitVec.ofNat 512 (bread c.mem (o + 8) (min len 64)) }
    e :: c.itemsAt n (o + 8 + 8 * ceilDiv len 8)

/-- The running compensation entry that a helper of a core runs (R292). [DEDUCED, log 40] -/
def State.compOf (s : State) (p k : Nat) : Option Nat :=
  match (s.core p).lpid with
  | none => none
  | some l =>
    ((s.die0.chest ++ s.die1.chest).find? (fun e =>
      e.state == 2 && e.helper == k && e.lpid == l && some e.part == s.partOf p)).map (·.seq)

/-- The bytes that OP 2 reads: the area, and the spill buffer as its header says. -/
def State.restoreReads (s : State) (p base : Nat) : List (Nat × Nat) :=
  let c := s.core p
  let head := c.wordAt base 0x1000
  let items := c.itemsAt (wfield head 0 6) (base + 0x1100)
  (s.areaBytes p).map (fun x => (base + x.1, x.2.1))
    ++ [(base + 0x1000, 8), (base + 0x1040, 8 * min 16 (wfield head 8 5)), (base + 0x10C0, 8 * min 4 (wfield head 16 3)),
        (base + 0x10E0, 8 * min 4 (wfield head 20 3)), (base + 0x1100, (items.map (fun e => entryBytes e.len)).foldl (· + ·) 0)]

/-- A core as OP 2 leaves it: `own` tells that it saved the context itself. Another core's context comes with an interval that can no longer
be rolled back (R96). A fused member waits, once it has returned from its handler, for those that it was fused with (R155). -/
def Core.restored (c : Core) (base : Nat) (own : Bool) (gang : List Mate) (comp : Nat → Option Nat) : Core :=
  let sp := base + 0x1000
  let head := c.wordAt sp 0
  let words (o n : Nat) : List Word := (upTo n).map (fun i => c.wordAt sp (o + 8 * i))
  let g := c.wordAt base 0x460
  let m := BitVec.ofNat 8 (wfield g 24 8)
  let c1 : Core :=
    { c with
      msb := msbEnd c.msb false, saved := false, ovf := c.ovf || !own
      shadow := { win := c.windowAt base, rep := Rep.unpack ((upTo 8).map (fun i => c.wordAt base (0x290 + 8 * i))),
                  tsw := c.wordAt base 0 &&& shadowTswMask,
                  gen := if c.wordAt base 0x458 = 0 then seedZero else c.wordAt base 0x458 }
      bb := (upTo 8).foldl (fun b i =>
        mset b i (c.wordAt base (0x2D0 + 16 * i), c.wordAt base (0x2D8 + 16 * i))) c.bb
      memb := 0, orig := BitVec.ofNat 8 (wfield g 16 8), queue := [], hold := false, outcome := none, gpos := none
      regang := if m = 0 then none else some { memb := m, size := (bitsOf m).length, mates := gang }, stood := none, replay := none
      ring := [], due := c.due.filter (fun d => d.ctx != 0)
      helpers := (upTo 10).foldl (fun h i => mset h (i + 1) (c.helperAt base (i + 1) (comp (i + 1)))) c.helpers
      cq := words 0x40 (min 16 (wfield head 8 5)), west := words 0xC0 (min 4 (wfield head 16 3)),
      east := words 0xE0 (min 4 (wfield head 20 3)), mbox := c.itemsAt (wfield head 0 6) (sp + 0x100) }
  (upTo 16).foldl (fun c' i => c'.takeRingWord i (c.wordAt base (0x8C0 + 8 * i))) c1

/-- OP 2: it needs an empty NI and an area in local memory, and else sets ERR; an uncorrectable error that it reads poisons the core
(R361). [DEDUCED, log 40] -/
def State.msbRestore (s : State) (p : Nat) : Except Stop State :=
  let c := s.core p
  let base := c.msbBase
  if !(msbFits base) || !c.mbox.isEmpty || !c.cq.isEmpty || !c.west.isEmpty || !c.east.isEmpty then
    .ok (s.modCore p (fun c => { c with msb := msbEnd c.msb true }))
  else
    let reads := s.restoreReads p base
    if reads.any (fun x => s.hardErr (.loc p) x.1 x.2) then .error (.poison s)
    else
      let image := s.imageAt p base
      let f : VWord := BitVec.ofNat 512 (bread c.mem (base + 0x880) 64)
      let s := reads.foldl (fun s x => s.correct p (.loc p) x.1 x.2) s
      let s := (s.leaveGang p).modCore p (fun c => c.restored base (image.any (fun i => i.core == p)) ((image.map (·.gang)).getD []) (s.compOf p))
      let s := match image with
        | some i => s.unspillCmds p i
        | none => s
      .ok (if fmtBad f = 0 then s.modCluster (clusterOf p) (fun k => { k with fmts := mset k.fmts (cidxOf p) f }) else s)

/-- What OP of CORE.MSB asks for. -/
def State.msbRun (s : State) (p : Nat) : Except Stop State :=
  match wfield (s.core p).msb 0 3 with
  | 1 => s.msbSave p
  | 2 => s.msbRestore p
  | _ => .ok s

end Sys2Proof.Machine
end

