-- ==== Sys2Proof/Machine/System.lean ====
section
/-! DEFINITION. System registers, traps and waiting (MAJ 29, R286 to R288, R323 to R328). -/

namespace Sys2Proof.Machine

/-! ### The register map (R286) -/

/-- CORE.LPID (R311). -/
def lpidWord (l : Option Nat) : Word :=
  match l with
  | some l => BitVec.ofNat 64 l
  | none => 1#64 <<< 63

/-- CORE.ULOG (R95). -/
def Core.ulogWord (c : Core) : Word :=
  BitVec.ofNat 64 (min 4096 c.ulog.length + c.ulogEn.toNat * 2 ^ 15 + c.ovf.toNat * 2 ^ 63)

/-- Word `n` of DIE.HVC. -/
def hvcWord (d : Die) (n : Nat) : Word := (d.hvc >>> (64 * n)).setWidth 64

/-- A loop register of a context; a helper has none (R143). [DEDUCED, log 26] -/
def loopReg (s : State) (i : Nat) : Word :=
  if s.ctx ≠ 0 then 0
  else if i < 4 then mget 0 s.cx.ls i else if i < 8 then mget 0 s.cx.le (i - 4) else mget 0 s.cx.lc (i - 8)

/-- A register of the range 0x0C0 to 0x0FF (R328). -/
def shadowReg (c : Core) (i : Nat) : Word :=
  if i < 0x0E0 then ((c.shadow.win.entry ((i - 0x0C0) / 8 + 1)).shown >>> (64 * (i % 8))).setWidth 64
  else if i = 0x0E0 then c.shadow.win.tags
  else if i < 0x0E9 then c.shadow.rep.pack.getD (i - 0x0E1) 0
  else if i = 0x0E9 then c.shadow.tsw
  else if i = 0x0EA then c.shadow.gen
  else
    let b := mget (0, 0) c.bb ((i - 0x0F0) / 2)
    if i % 2 = 0 then b.1 else b.2

/-- The value of a register. A helper, which is in no gang, reads its core's CTX.GANG. [DEDUCED, log 39; DESIGN CHOICE, log 90] -/
def State.sysRead (s : State) (i : Nat) : Word :=
  let c := s.me
  let d := s.die (dieOf s.cur)
  let k := s.cluster s.myCl
  match i with
  | 0x000 => s.cx.tsw
  | 0x001 => s.gangWord s.cur
  | 0x010 => BitVec.ofNat 64 s.cur
  | 0x011 => lpidWord c.lpid
  | 0x012 => c.cid.setWidth 64
  | 0x013 => c.ulogWord
  | 0x014 => c.msb
  | 0x015 => c.twt.setWidth 64
  | 0x016 => c.lnk.setWidth 64
  | 0x017 => c.hvec
  | 0x018 => c.epc
  | 0x019 => c.cause
  | 0x01A => c.info
  | 0x01B => c.tctx
  | 0x020 => s.time
  | 0x021 => d.cyc
  | 0x022 => d.ncyc
  | 0x030 => k.cmask.setWidth 64
  | 0x031 => k.muw.setWidth 64
  | 0x040 => hvcWord d 0
  | 0x041 => hvcWord d 1
  | 0x042 => hvcWord d 2
  | 0x050 => (s.part s.myPart).rls.setWidth 64
  | 0x051 => (s.part s.myPart).bch
  | 0x058 => c.xlatInv
  | _ =>
    if 0x060 ≤ i && i ≤ 0x06B then loopReg s (i - 0x060)
    else if 0x0C0 ≤ i && i ≤ 0x0FF then shadowReg c i
    else if s.level = 1 && (s.part s.myPart).n ≤ i - 0x100 then 0
    else mget 0 (s.part s.myPart).l2p (i - 0x100)

/-- Vector instructions of the running context are still under way: SRD of CTX.TSW waits for them (R174). -/
def State.vectorsOut (s : State) : Bool :=
  s.ctx == 0 && s.me.ring.any (fun kr => !kr.2.mat && kr.2.st == 0)

/-- A shadow register whose window entry is still pending, and has not faulted late (R326, R330). -/
def State.shadowPending (s : State) (i : Nat) : Bool :=
  0x0C0 ≤ i && i ≤ 0x0E0 && s.me.shadow.win.list.any (fun e => match e.pend with
    | some n => !(s.me.due.any (fun d => d.id == n && d.value.isNone))
    | none => false)

/-- SRD's effect. -/
def effSrd : Eff := fun o _ s =>
  let i := o.imm.toNat
  if s.level < readLevel i then .error privTrap
  else if (i = 0 && s.vectorsOut) || s.shadowPending i then .error .wait
  else Done.result s (.s (s.sysRead i))
/-- SRD. -/
def execSrd (e : Fields) (s : State) : Answer := .next (s.issue (.srd e) effSrd)

/-! ### Writes -/

/-- The bits of CTX.TSW that a level may write (R325). -/
def tswMask (lvl : Nat) : Word := if lvl = 0 then 0x3FF0 else 0x7FFF3FF0

/-- Replaces the bits that a mask selects. -/
def maskIn (old new m : Word) : Word := (old &&& ~~~m) ||| (new &&& m)

/-- Writes a loop register: LS and LE hold PCs (R272). [DEDUCED, log 26] -/
def setLoopReg (x : Context) (i : Nat) (v : Word) : Context :=
  if i < 4 then { x with ls := mset x.ls i (v &&& ~~~1#64) }
  else if i < 8 then { x with le := mset x.le (i - 4) (v &&& ~~~1#64) }
  else { x with lc := mset x.lc (i - 8) v }

/-- Writes a register of the range 0x0C0 to 0x0FF (R328). -/
def setShadowReg (c : Core) (i : Nat) (v : Word) : Core :=
  let h := c.shadow
  if i < 0x0E0 then
    let put (e : WinEntry) : WinEntry :=
      { e with bits := BitVec.ofNat 512 (withBits e.bits.toNat (64 * (i % 8)) 64 v.toNat) }
    { c with shadow := { h with win := h.win.modEntry ((i - 0x0C0) / 8 + 1) put } }
  else if i = 0x0E0 then { c with shadow := { h with win := h.win.withTags v } }
  else if i < 0x0E9 then { c with shadow := { h with rep := Rep.unpack (h.rep.pack.set (i - 0x0E1) v) } }
  else if i = 0x0E9 then { c with shadow := { h with tsw := v &&& shadowTswMask } }
  else if i = 0x0EA then { c with shadow := { h with gen := if v = 0 then seedZero else v } }
  else
    let n := (i - 0x0F0) / 2
    let b := mget (0, 0) c.bb n
    { c with bb := mset c.bb n (if i % 2 = 0 then (v, b.2) else (b.1, v)) }

/-- The fields of XLAT.INV: its reserved bits 63:57 and 13:12 read zero, as R3 has it, though R64's table calls them RW.
[DEDUCED, log 89] -/
def xlatMask : Word := 0x01FFFFFFFFFFCFFF

/-- Writes XLAT.INV (R64): the SWR completes when every station has removed the translations it names and every walk of theirs
that began before it has ended. Without `late` the stations have removed them by its end. [DEDUCED, log 89] -/
def State.writeXlat (s : State) (w : Word) : Except Stop State :=
  let v := w &&& xlatMask
  let keep (s : State) : State := s.modMe (fun c => { c with xlatInv := v, xlat := none })
  match s.me.xlat with
  | some (_, 2) => .ok (keep s)
  | some _ => .error .wait
  | none =>
    if s.late then .error (.hold (fun s => s.modMe (fun c => { c with xlat := some (v, 0) })))
    else if s.walks.any (s.walkMeets s.cur v) then .error .wait
    else .ok (keep (s.invalidate s.myPart v))

/-- Writes CORE.MSB (R336): the SWR completes when its operation has ended. Without `late` it acts itself, once the
operation can act. -/
def State.writeMsb (s : State) (v : Word) : Except Stop State :=
  let op := wfield v 0 3
  let m := BitVec.ofNat 64 (wfield v 12 45 * 4096 + (if op = 1 || op = 2 then op else 0) + wfield s.me.msb 3 1 * 8)
  let s' := s.modMe (fun c => { c with msb := m })
  if s.late then .ok s'
  else s'.msbRun s.cur

/-- Writes a register at a level that may write it. [DEDUCED, log 35] -/
def State.sysWrite (s : State) (i : Nat) (v : Word) : Except Stop State :=
  match i with
  | 0x000 => .ok (s.modCx (fun x => { x with tsw := maskIn x.tsw v (tswMask s.level) }))
  | 0x012 =>
    if wfield v 0 12 = 0 && s.level = 1 then .error privTrap
    else .ok (s.modMe (fun c => { c with cid := v.setWidth 12 }))
  | 0x013 => .ok (s.modMe (fun c => { c with ulogEn := v.getLsbD 15 }))
  | 0x014 => s.writeMsb v
  | 0x015 => .ok (s.modMe (fun c => { c with twt := v.setWidth 40 }))
  | 0x016 => .ok (s.setLnk s.cur v)
  | 0x017 => .ok (s.modMe (fun c => { c with hvec := v &&& ~~~1#64 }))
  | 0x018 => .ok (s.modMe (fun c => { c with epc := v &&& ~~~1#64 }))
  | 0x019 => .ok (s.modMe (fun c => { c with cause := v &&& 0xFFFF }))
  | 0x01A => .ok (s.modMe (fun c => { c with info := v }))
  | 0x01B => .ok (s.modMe (fun c => { c with tctx := v &&& 0xFB000F }))
  | 0x031 => .ok (s.modCluster s.myCl (fun k => { k with muw := v.setWidth 36 }))
  | 0x050 => .ok (if s.myPart < 16 then s.writeRls s.myPart (v.setWidth 8) else s)
  | 0x051 => .ok (if s.myPart < 16 then s.modPart s.myPart (fun q => { q with bch := v }) else s)
  | 0x058 => s.writeXlat v
  | _ =>
    if 0x060 ≤ i && i ≤ 0x06B then .ok (if s.ctx = 0 then s.modCx (fun x => setLoopReg x (i - 0x060) v) else s)
    else if 0x0C0 ≤ i && i ≤ 0x0FF then .ok (s.modMe (fun c => setShadowReg c i v))
    else .ok (if s.myPart < 16 then s.remap s.myPart (i - 0x100) v else s)

/-- SWR's effect. -/
def effSwr : Eff := fun o v s =>
  let i := o.imm.toNat
  if writeLevel i = 3 then if s.level = 0 then .error privTrap else Done.plain s
  else if s.level < writeLevel i then .error privTrap
  else match s.sysWrite i v.x.s with
    | .error e => .error e
    | .ok s => Done.plain s
/-- SWR. -/
def execSwr (e : Fields) (s : State) : Answer := .next (s.issue (.swr e) effSwr)

/-! ### TRAP, ERET, PARK and NOP (R288) -/

/-- Stops the running context with a trap message to its row's collector; it stays at its instruction, and a TRAP loses what it was
assembling (R70). -/
def State.stopWith (s : State) (why : StopWhy) (kind : Nat) (arg : Word) : Except Stop Done :=
  let pc := s.cx.pc
  let s := if why = .soft then s.dropAsm s.cur s.ctx else s
  let s := if s.ctx = 0 then s.leaveGang s.cur else s
  let s := s.trapMsg s.cur kind 0 0 (cidxOf s.cur) s.me.cid arg
  .ok { st := s.modCx (fun x => { x with run := .stopped why }), res := none, jump := some pc }

/-- TRAP's effect: at U level the handler is entered with SOFT, and EPC is the plain address after the TRAP, also at the end of
a loop's body; at S level the context stops with a message. [DEDUCED, log 43, 91] -/
def effTrap : Eff := fun o _ s =>
  if s.level = 0 then
    let t := s.takeTrap { cls := 1, sub := 0, info := o.imm } (s.cx.pc + BitVec.ofNat 64 o.len)
    .ok { st := t, res := none, jump := some t.cx.pc }
  else s.stopWith .soft 0x22 o.imm
/-- TRAP. -/
def execTrap (e : Fields) (s : State) : Answer := .next (s.issue (.trap e) effTrap)

/-- ERET's effect (R326, R330). [DEDUCED, log 27] -/
def effEret : Eff := fun _ _ s =>
  match s.eret with
  | .error e => .error e
  | .ok t => .ok { st := t, res := none, jump := some t.cx.pc }
/-- ERET. -/
def execEret (e : Fields) (s : State) : Answer := .next (s.issue (.eret e) effEret)

/-- PARK's effect. -/
def effPark : Eff := fun _ v s => s.stopWith .parked 0x23 v.x.s
/-- PARK. -/
def execPark (e : Fields) (s : State) : Answer := .next (s.issue (.park e) effPark)

/-- NOP's effect. -/
def effNop : Eff := fun _ _ s => Done.plain s
/-- NOP. -/
def execNop (e : Fields) (s : State) : Answer := .next (s.issue (.nop e) effNop)

end Sys2Proof.Machine
end

