-- ==== Sys2Proof/Machine/Activity.lean ====
section
/-! DEFINITION. Long activities and the Chestnut stack (R289 to R292, R350 to R355), and HEND (R275). -/

namespace Sys2Proof.Machine

/-- An activity trap: 1 STATE, 2 ILLFORM, 3 FULL, 4 NOTCOMP, 5 CONFLICT. -/
def actTrap (sub id : Nat) : Stop := .trap { cls := 0x0B, sub := sub, info := BitVec.ofNat 64 id }

/-- Entries that a die's segment holds at most. [DESIGN CHOICE, log 79] -/
def chestSize : Nat := 65536

/-- Word `k` of an entry as it stands in the segment (R350). [DESIGN CHOICE, log 79] -/
def Chest.word (e : Chest) (k : Nat) : Word :=
  match k with
  | 0 => BitVec.ofNat 64 (e.seq % 2 ^ 48 + e.id % 4096 * 2 ^ 48 + e.part % 16 * 2 ^ 60)
  | 1 => e.arg
  | 2 => e.pc.setWidth 64
  | _ => BitVec.ofNat 64 (e.tags.toNat + e.core % 8192 * 2 ^ 32 + e.state % 8 * 2 ^ 45 + e.lpid % 4096 * 2 ^ 48)

/-- A byte of a die's segment (R350): its entries, then free ones. Only home slice 0's scheduler reaches it. [DESIGN CHOICE, log 79] -/
def Die.chestByte (d : Die) (o : Nat) : Byte :=
  match d.chest[o / 32]? with
  | some e => BitVec.ofNat 8 (wfield (e.word (o / 8 % 4)) (8 * (o % 8)) 8)
  | none => 0

/-- An activity of a partition; 0 FREE when it is not listed. -/
def State.act (s : State) (q id : Nat) : Activity := mget { state := 0, fst := 0 } (s.part q).acts id

/-- Gives an activity a state. -/
def State.setAct (s : State) (q id state : Nat) : State :=
  s.modPart q (fun x => { x with acts := mset x.acts id { s.act q id with state := state } })

/-- The entries of a partition on both dies. -/
def State.entriesOf (s : State) (q : Nat) : List Chest := (s.die0.chest ++ s.die1.chest).filter (fun e => e.part == q)

/-- The entries of an activity. -/
def State.actEntries (s : State) (q id : Nat) : List Chest := (s.entriesOf q).filter (fun e => e.id == id)

/-- Changes every entry of the stack. -/
def State.mapChest (s : State) (f : List Chest → List Chest) : State :=
  { s with die0 := { s.die0 with chest := f s.die0.chest }, die1 := { s.die1 with chest := f s.die1.chest } }

/-- The KIND 0x0A completion of an abandonment (R291). -/
def abandonEvent (ids : List Nat) : MailEntry :=
  let low := ids.foldl min 4095
  let mask := ids.foldl (fun m i => m + 2 ^ (i % 64)) 0
  eventEntry 16 (0x0A + low * 2 ^ 16 + mask % 2 ^ 64 * 2 ^ 64)

/-- Ends every abandonment of a partition whose entries have all ended: its activities become ABANDONED and the
completion is posted (R291, R355). [DEDUCED, log 43] -/
def State.settleAbandons (s : State) (q : Nat) : State :=
  let done (b : Abandon) : Bool := b.ids.all (fun i => (s.actEntries q i).isEmpty)
  let ended := (s.part q).abandons.filter done
  let s := s.modPart q (fun x => { x with abandons := x.abandons.filter (fun b => !done b) })
  ended.foldl (fun s b => (b.ids.foldl (fun s i => s.setAct q i 4) s).postCore b.core (abandonEvent b.ids) none) s

/-- Removes an entry whose routine has ended (R292). [DEDUCED, log 43] -/
def State.endEntry (s : State) (seq : Nat) : State :=
  match (s.die (s.chestDie seq)).chestBy seq with
  | none => s
  | some e => (s.mapChest (fun l => l.filter (fun f => f.seq != seq))).settleAbandons e.part

/-! ### HEND and ACT.RET -/

/-- HEND's effect: a routine's HEND ends it as status 0 does. -/
def effHend : Eff := fun _ v s =>
  let comp := s.cx.comp
  let s := (s.modCx (fun x => { x with endWord := v.x.s })).freeHelper s.cur s.ctx
  Done.plain (match comp with
    | some seq => s.endEntry seq
    | none => s)
/-- HEND. -/
def execHend (e : Fields) (s : State) : Answer := .next (s.issue (.hend e) effHend)

/-- ACT.RET's effect. [DEDUCED, log 43] -/
def effActRet : Eff := fun _ v s =>
  match s.cx.comp with
  | none => .error (actTrap 4 0)
  | some seq =>
    let t := s.freeHelper s.cur s.ctx
    Done.plain (if v.x.s = 0 then t.endEntry seq else t.freezeAct seq v.x.s)
/-- ACT.RET. -/
def execActRet (e : Fields) (s : State) : Answer := .next (s.issue (.actRet e) effActRet)

/-! ### ACT.OPN, ACT.CP, ACT.CMT, ACT.ST (R289, R290) -/

/-- The lowest FREE ID. -/
def freeAct (a : Map Activity) : Option Nat := firstSuch 4096 (fun i => (mfind a i).isNone)

/-- ACT.OPN's effect. -/
def effActOpn : Eff := fun _ _ s =>
  let q := s.myPart
  if 256 ≤ (s.part q).acts.length then Done.result s (.s (1#64 <<< 63))
  else match freeAct (s.part q).acts with
    | none => Done.result s (.s (1#64 <<< 63))
    | some i =>
      Done.result (s.modPart q (fun x => { x with acts := mset x.acts i { state := 1, fst := 0 } }))
        (.s (BitVec.ofNat 64 i))
/-- ACT.OPN. -/
def execActOpn (e : Fields) (s : State) : Answer := .next (s.issue (.actOpn e) effActOpn)

/-- A compensation record within its limits: a PC of 57 bits with bit 0 zero, tags, nothing reserved. [DEDUCED, log 43] -/
def compRecordOk (w0 w2 : Word) : Bool :=
  !w0.getLsbD 0 && wfield w0 57 7 == 0 && wfield w2 0 32 != 0 && wfield w2 32 32 == 0

/-- ACT.CP's effect. -/
def effActCp : Eff := fun o v s =>
  match s.loadNear (effAddr o v) 24 with
  | .error e => .error e
  | .ok (x, s) =>
    let q := s.myPart
    let d := dieOf s.cur
    let id := wfield v.x.s 0 12
    let w (k : Nat) : Word := BitVec.ofNat 64 (x / 2 ^ (64 * k))
    if (s.act q id).state ≠ 1 then .error (actTrap 1 id)
    else if !(compRecordOk (w 0) (w 2)) then .error (actTrap 2 id)
    else if chestSize ≤ (s.die d).chest.length then .error (actTrap 3 id)
    else
      let e : Chest :=
        { seq := s.seq, id := id, part := q, arg := w 1, pc := (w 0).setWidth 57, tags := (w 2).setWidth 32, core := s.cur,
          state := 1, lpid := s.lp s.cur, helper := 0 }
      Done.result ({ s with seq := s.seq + 1 }.modDie d (fun x => { x with chest := x.chest ++ [e] }))
        (.s (BitVec.ofNat 64 s.seq))
/-- ACT.CP. -/
def execActCp (e : Fields) (s : State) : Answer := .next (s.issue (.actCp e) effActCp)

/-- ACT.CMT's effect. -/
def effActCmt : Eff := fun _ v s =>
  let q := s.myPart
  let id := wfield v.x.s 0 12
  let st := (s.act q id).state
  if st ≠ 1 && st ≠ 4 then .error (actTrap 1 id)
  else
    Done.plain ((s.mapChest (fun l => l.filter (fun e => !(e.part == q && e.id == id)))).modPart q (fun x =>
      { x with acts := merase x.acts id }))
/-- ACT.CMT. -/
def execActCmt (e : Fields) (s : State) : Answer := .next (s.issue (.actCmt e) effActCmt)

/-- ACT.ST's word. -/
def State.actWord (s : State) (q id : Nat) : Word :=
  let a := s.act q id
  BitVec.ofNat 64 (a.state + (s.actEntries q id).length * 2 ^ 8 + a.fst.toNat * 2 ^ 32)

/-- ACT.ST's effect. -/
def effActSt : Eff := fun _ v s => Done.result s (.s (s.actWord s.myPart (wfield v.y.s 0 12)))
/-- ACT.ST. -/
def execActSt (e : Fields) (s : State) : Answer := .next (s.issue (.actSt e) effActSt)

/-! ### ACT.ABN, ACT.RTY, ACT.SKP (R291, R355) -/

/-- The IDs that ACT.ABN names. -/
def abandonIds (x y : Word) : List Nat :=
  if y = 0 then [wfield x 0 12] else ((upTo 64).filter (fun i => y.getLsbD i)).map (fun i => wfield x 6 6 * 64 + i)

/-- An OPEN activity outside the set holds a later entry with overlapping tags (R291). -/
def State.abandonConflict (s : State) (q : Nat) (ids : List Nat) : Bool :=
  let es := s.entriesOf q
  es.any (fun e => !(ids.contains e.id) && (s.act q e.id).state == 1
    && es.any (fun f => ids.contains f.id && decide (f.seq < e.seq) && (f.tags &&& e.tags) != 0))

/-- ACT.ABN's effect. -/
def effActAbn : Eff := fun _ v s =>
  let q := s.myPart
  let ids := abandonIds v.x.s v.y.s
  match ids.find? (fun i => (s.act q i).state != 1) with
  | some i => .error (actTrap 1 i)
  | none =>
    if s.abandonConflict q ids then .error (actTrap 5 (ids.foldl min 4095))
    else
      let s := ids.foldl (fun s i => s.setAct q i 2) s
      let s := s.modPart q (fun x => { x with abandons := x.abandons ++ [{ core := s.cur, ids := ids }] })
      Done.plain (s.settleAbandons q)
/-- ACT.ABN. -/
def execActAbn (e : Fields) (s : State) : Answer := .next (s.issue (.actAbn e) effActAbn)

/-- ACT.RTY's effect: the failed entry is held again. [DEDUCED, log 43] -/
def effActRty : Eff := fun _ v s =>
  let q := s.myPart
  let id := wfield v.x.s 0 12
  if (s.act q id).state ≠ 3 then .error (actTrap 1 id)
  else
    Done.plain ((s.mapChest (fun l => l.map (fun e =>
      if e.part == q && e.id == id && e.state == 3 then { e with state := 1 } else e))).setAct q id 2)
/-- ACT.RTY. -/
def execActRty (e : Fields) (s : State) : Answer := .next (s.issue (.actRty e) effActRty)

/-- ACT.SKP's effect: the failed entry is freed without running. [DEDUCED, log 43] -/
def effActSkp : Eff := fun _ v s =>
  let q := s.myPart
  let id := wfield v.x.s 0 12
  if (s.act q id).state ≠ 3 then .error (actTrap 1 id)
  else
    Done.plain (((s.mapChest (fun l => l.filter (fun e =>
      !(e.part == q && e.id == id && e.state == 3)))).setAct q id 2).settleAbandons q)
/-- ACT.SKP. -/
def execActSkp (e : Fields) (s : State) : Answer := .next (s.issue (.actSkp e) effActSkp)

/-! ### The scheduler's step (R353, R292) -/

/-- A held entry may start: no later live entry of an activity being abandoned, or frozen, overlaps it. -/
def State.runnable (s : State) (e : Chest) : Bool :=
  e.state == 1 && (s.act e.part e.id).state == 2
    && !((s.entriesOf e.part).any (fun f =>
      (((s.act e.part f.id).state == 2) || ((s.act e.part f.id).state == 3)) && decide (e.seq < f.seq)
        && (f.tags &&& e.tags) != 0))

/-- COMPENSATION_START: a runnable entry starts its routine on the lowest free helper of the core that PART.L2P names
for the pushing core's logical number. -/
def execCompensationStart (die seq : Nat) (s : State) : Answer :=
  match (s.die (die % 2)).chestBy seq with
  | none => .next s
  | some e =>
    match s.physOf e.part e.lpid with
    | none => .next s
    | some p =>
      match (s.core p).freeHelperNo with
      | none => .next s
      | some h =>
        if !(s.runnable e) || (s.core p).poisoned || (s.core p).dead then .next s
        else
          let s := s.modCore p (fun c => c.modContext h (fun x =>
            { startedHelper x (e.pc.setWidth 64) e.arg (BitVec.ofNat 64 e.id) (BitVec.ofNat 64 e.seq) (lvlOf c.ctl.tsw) with
              comp := some seq }))
          .next (s.mapChest (fun l => l.map (fun f => if f.seq == seq then { f with state := 2, helper := h } else f)))

end Sys2Proof.Machine
end

