-- ==== Sys2Proof/Machine/Launch.lean ====
section
/-! DEFINITION. LAUNCH and the supervisor instructions (page 1, MAJ 4: R293 to R299), and the distributor's steps (R305,
R307 to R316). -/

namespace Sys2Proof.Machine

/-- A number as so many little-endian words. -/
def wordsOf : Nat → Nat → List Word
  | 0, _ => []
  | n + 1, x => BitVec.ofNat 64 x :: wordsOf n (x / 2 ^ 64)

/-! ### LAUNCH (R293) -/

/-- A record sets a privileged flag (R304). -/
def Launch.privileged (l : Launch) : Bool := l.flag 1 || l.flag 4 || l.flag 5 || l.flag 6

/-- Submits a record of the running context. A twin's launch is paired with its twin's (R365); one that had matched before a
rollback is discarded, and its code is a free value. [DESIGN CHOICE, log 14; DEDUCED, log 44] -/
def State.launchCode (s : State) (q : Nat) (l : Launch) (key data : Nat) : Except Stop (Nat × State) :=
  if s.me.twin.isNone then .ok (s.submit q l)
  else match s.me.answer with
    | some a => .ok (a.2.toNat, s.modMe (fun c => { c with flight := none, answer := none }))
    | none =>
      if s.me.flight.isSome then .error .wait
      else
        let send (s : State) := s.pairSend s.cur 4 key 64 data true (.launch q l)
        match send s with
        | .alone => .ok (s.submit q l)
        | .done _ s =>
          let d := s.draw
          .ok ((Config.freeWord d.1).toNat % 3, d.2)
        | .sent _ => .error (.hold (fun s => match send s with
          | .sent t => t
          | _ => s))

/-- A record from a core cannot reach the distributor on die 0, or its answer the core, as things stand (R305, R383, R385). [DEDUCED, log 55, 69] -/
def State.farDistributor (s : State) (p : Nat) : Bool :=
  dieOf p = 1 && (s.laneHolds (masterLane (masterOf (clusterOf p) (cidxOf p))) || s.laneHolds 5 || s.die0.relock)

/-- LAUNCH's effect. [DEDUCED, log 44] -/
def effLaunch : Eff := fun o v s =>
  if s.farDistributor s.cur then .error .wait
  else match s.loadNear (effAddr o v) 64 with
  | .error e => .error e
  | .ok (x, s) =>
    let l := newLaunch 0 (wordsOf 8 x) s.me.cid s.myCl false
    let q := s.myPart
    if s.level = 0 && l.privileged then .error privTrap
    else if l.flag 5 then
      let r := s.control q l
      Done.result r.2 (.s (BitVec.ofNat 64 r.1))
    else match s.launchCode q l (effAddr o v) x with
      | .error e => .error e
      | .ok (k, s) => Done.result s (.s (BitVec.ofNat 64 k))
/-- LAUNCH. -/
def execLaunch (e : Fields) (s : State) : Answer := .next (s.issue (.launch e) effLaunch)

/-! ### CKPT (R294) -/

/-- A checkpoint record within its limits. [DESIGN CHOICE, log 41] -/
def State.ckptOk (s : State) (q : Nat) (w0 w1 w2 w3 : Word) : Bool :=
  wfield w0 40 24 == 0 && wfield w1 32 32 == 0 && wfield w2 0 16 == 0 && wfield w3 6 2 == 0 && wfield w3 14 18 == 0
    && decide (wfield w3 0 6 ≤ wfield w3 8 6)
    && (wfield w3 32 32 == 0 || (s.granted q (wfield w3 32 32) [5]).isSome)

/-- CKPT's effect. [DESIGN CHOICE, log 41] -/
def effCkpt : Eff := fun o v s =>
  match s.loadNear (effAddr o v) 32 with
  | .error e => .error e
  | .ok (x, s) =>
    let w (k : Nat) : Word := (wordsOf 4 x).getD k 0
    let q := s.myPart
    if !(s.ckptOk q (w 0) (w 1) (w 2) (w 3)) then Done.result s (.s 1)
    else
      Done.result (s.modPart q (fun p => { p with ckpt := { p.ckpt with
        ticks := wfield (w 0) 0 40, steps := wfield (w 1) 0 32, region := w 2, rank := wfield (w 3) 0 6,
        rm1 := wfield (w 3) 8 6, buddy := BitVec.ofNat 32 (wfield (w 3) 32 32), last := s.time, count := 0, armed := false, cid := s.me.cid,
        active := false, todo := [], done := 0 } })) (.s 0)
/-- CKPT. -/
def execCkpt (e : Fields) (s : State) : Answer := .next (s.issue (.ckpt e) effCkpt)

/-! ### CPQZ (R85, R295, R343) -/

/-- CPQZ's effect: from its issue on the engine starts none of the core's requests. -/
def effCpqz : Eff := fun _ v s =>
  let b := v.y.s.toNat
  if 0x400000 < b + 0x1000 then .error (addrFault 1 b)
  else if b % 4096 != 0 then .error (addrFault 2 b)
  else if s.copiesOf s.cur != 0 then .error (.hold (fun s => s.modMe (fun c => { c with quiesce := true })))
  else
    let reqs := s.me.fifo
    let bytes := (upTo reqs.length).map (fun i =>
      let r := reqs.getD i { w0 := 0, w1 := 0, w2 := 0, w3 := 0, cid := 0, lvl := 0, no := 0, pair := none, drop := false }
      (0x350 + 32 * i, 32, wordsNat [r.w0, r.w1, r.w2, r.w3])) ++ [(0x450, 8, reqs.length)]
    if s.piecesBad s.cur b bytes then .error (.poison s)
    else
      Done.result ((s.putPieces s.cur b bytes).modMe (fun c =>
        { c with fifo := [], returned := c.returned ++ reqs, quiesce := false })) (.s (BitVec.ofNat 64 reqs.length))
/-- CPQZ. -/
def execCpqz (e : Fields) (s : State) : Answer := .next (s.issue (.cpqz e) effCpqz)

/-! ### BMEM (R296) -/

/-- The logical cores that a membership map names. -/
def mapMembers (x : Nat) : List Nat := (upTo 2304).filter (fun l => x.testBit (8 * 16 + l))

/-- A membership record keeps the limits of its level. [DEDUCED, log 45] -/
def State.bmemOk (s : State) (q w0 w1 : Nat) (ms : List Nat) : Bool :=
  let cores := ms.filterMap (fun l => s.physOf q l)
  let onDie (d : Nat) : List Nat := (upTo (s.part q).n).filter (fun l => match s.physOf q l with
    | some p => dieOf p == d
    | none => false)
  bits w0 6 2 == 0 && bits w0 10 54 == 0 && w1 == 0 && cores.length == ms.length &&
    (ms.isEmpty || match bits w0 8 2 with
      | 0 => cores.all (fun p => clusterOf p == clusterOf (cores.headD 0))
      | 1 => true
      | 2 => ms == onDie (dieOf (cores.headD 0))
      | _ => ms == (upTo (s.part q).n).filter (fun l => (s.physOf q l).isSome))

/-- The dies on which members stand: the running core's when there is none. -/
def State.memberDies (s : State) (q : Nat) (ms : List Nat) : List Nat :=
  let ds := ((ms.filterMap (s.physOf q)).map dieOf).eraseDups
  if ds.isEmpty then [dieOf s.cur] else ds

/-- The entries of a channel that a new membership of a partition replaces (R16, R296): both when it names members on both dies, or when
they are joined; else that of its die, and that in which the partition has members now. -/
def State.chanEntries (s : State) (q ch : Nat) (dies : List Nat) : List Nat :=
  if 2 ≤ dies.length || (s.chan (64 + ch)).joined then [ch, 64 + ch]
  else [ch, 64 + ch].filter (fun k => dies.contains (k / 64) || ((s.chan k).part == q && !(s.chan k).members.isEmpty))

/-- Gives a channel its members (R16, R296): on one die, or joined. Arrivals of members stay. [DEDUCED, log 45] -/
def State.setMembers (s : State) (q ch lvl : Nat) (ms : List Nat) : State :=
  let dies := s.memberDies q ms
  let both := decide (2 ≤ dies.length)
  let home := if both then ch else 64 * dies.headD 0 + ch
  let other := if home = ch then 64 + ch else ch
  let arr := ((s.chanEntries q ch dies).flatMap (fun k => (s.chan k).arr)).filter (fun a => ms.contains a.lpid)
  let empties := both || (s.chan (64 + ch)).joined || (s.chan other).part == q
  let s := if empties then s.modChan other (fun c => { c with part := q, members := [], arr := [], joined := both }) else s
  s.modChan home (fun c => { c with level := lvl, part := q, members := ms, arr := arr, joined := false })

/-- BMEM's effect: codes 3, then 1, then 2. [DEDUCED, log 45] -/
def effBmem : Eff := fun o v s =>
  match s.loadNear (effAddr o v) 304 with
  | .error e => .error e
  | .ok (x, s) =>
    let q := s.myPart
    let w0 := x % 2 ^ 64
    let ch := bits w0 0 6
    let ms := mapMembers x
    let busy := (s.chanEntries q ch (s.memberDies q ms)).any (fun k => !(s.chan k).arr.isEmpty)
    if !((s.part q).bch.getLsbD ch) then Done.result s (.s 3)
    else if !(s.bmemOk q w0 (x / 2 ^ 64 % 2 ^ 64) ms) then Done.result s (.s 1)
    else if busy && s.level ≤ 1 then Done.result s (.s 2)
    else Done.result (s.setMembers q ch (bits w0 8 2) ms) (.s 0)
/-- BMEM. -/
def execBmem (e : Fields) (s : State) : Answer := .next (s.issue (.bmem e) effBmem)

/-! ### LKCFG, PREQ, TWCFG (R297 to R299) -/

/-- LKCFG's effect: CORE.LNK changes after the old value has gone to Dst, so that a word it pushes over a link that it switches
off is discarded with the others. -/
def effLkcfg : Eff := fun _ v s =>
  .ok { st := s, res := some (.s (s.me.lnk.setWidth 64)), jump := none, after := fun t => t.setLnk t.cur v.y.s }
/-- LKCFG. -/
def execLkcfg (e : Fields) (s : State) : Answer := .next (s.issue (.lkcfg e) effLkcfg)

/-- Makes a pre-emption pending in every member of a core's gang (R334). -/
def State.postPreempt (s : State) (p sub : Nat) : State :=
  (s.gang p).foldl (fun s r => s.modCore r (fun c =>
    { c with preempt := match c.preempt with
        | some k => some k
        | none => some sub })) s

/-- PREQ's effect. -/
def effPreq : Eff := fun _ v s =>
  match s.physOf s.myPart v.y.s.toNat with
  | none => Done.result s (.s 1)
  | some p =>
    if (s.core p).preempt.isSome then Done.result s (.s 2) else Done.result (s.postPreempt p 2) (.s 0)
/-- PREQ. -/
def execPreq (e : Fields) (s : State) : Answer := .next (s.issue (.preq e) effPreq)

/-- TWCFG's effect. [DEDUCED, log 45] -/
def effTwcfg : Eff := fun _ v s =>
  let lim : BitVec 40 := v.x.s.setWidth 40
  let ps := if v.y.s.getLsbD 0 then s.cur :: s.partCores s.myPart else [s.cur]
  Done.plain (ps.foldl (fun s p => s.modCore p (fun c => { c with twt := lim })) s)
/-- TWCFG. -/
def execTwcfg (e : Fields) (s : State) : Answer := .next (s.issue (.twcfg e) effTwcfg)

/-! ### Inbox and window table (R305, R307) -/

/-- INBOX_RECORD_INTAKE: the distributor takes the record at HEAD; a full queue leaves it there. -/
def execInboxRecordIntake (part : Nat) (s : State) : Answer :=
  let x := s.part part
  let slot := x.head.toNat % 256
  if x.stopped || slot = x.tail.toNat % 256 then .next s
  else
    let l := newLaunch x.serial (mget [] x.inbox slot) x.cid 0 true
    let taken (s : State) : State := s.modPart part (fun x => { x with head := BitVec.ofNat 64 ((slot + 1) % 256) })
    if l.privileged || s.illFormed part l then .next (taken (s.refuseHost part l))
    else
      let r := s.submit part l
      .next (if r.1 = 2 then r.2 else taken r.2)

/-- Reads the entries of a window table, unless one faults, with its failure, or is ill-formed. -/
def State.readWindows (s : State) (l : Launch) : Nat → Nat → Except (Option GFail) (Map (Nat × Nat) × State)
  | 0, _ => .ok ([], s)
  | k + 1, n =>
    match s.gload (distAgent l.cid) (((l.word 5).toNat + 16 * n) % 2 ^ 64) 16 with
    | .error e => .error (some e)
    | .ok (x, s) =>
      let size := bits x 64 21
      if bits x 85 43 != 0 || 0x100000 < size then .error none
      else match s.readWindows l k (n + 1) with
        | .error e => .error e
        | .ok (m, s) => .ok (if size = 0 then m else (n, (bits x 0 64, size)) :: m, s)

/-- WINDOW_TABLE_READ: a launch that is otherwise eligible has its table read; a bad table refuses it. -/
def execWindowTableRead (part lid : Nat) (s : State) : Answer :=
  match s.byLid part lid with
  | none => .next s
  | some l =>
    if !l.free || l.winRead then .next s
    else match s.readWindows l l.nw 0 with
      | .error (some e) => .next ((s.distFault l.cid e 0).complete part l (l.cause ||| 0x20) 3)
      | .error none => .next (s.complete part l (l.cause ||| 0x20) 3)
      | .ok (m, s) => .next (s.modLaunch part l.serial (fun l => { l with winRead := true, wins := m }))

/-! ### Ageing and the start of a launch (R308, R312, R364) -/

/-- AGEING_STEP: 2^20 eligible cycles raise the effective level by one. -/
def execAgeingStep (part lid : Nat) (s : State) : Answer :=
  match s.byLid part lid with
  | none => .next s
  | some l =>
    if l.eligible && 2 ^ 20 ≤ l.elig then
      .next (s.modLaunch part l.serial (fun l => { l with elig := l.elig - 2 ^ 20, aged := l.aged + 1 }))
    else .next s

/-- The launch that starts next: eligible, with a unit to run on, at the highest effective level, earliest first. -/
def State.nextLaunch (s : State) (q : Nat) : Option Launch :=
  let ok := (s.part q).launches.filter (fun l => l.eligible && !(s.units q l.gang).isEmpty)
  ok.foldl (fun (a : Option Launch) l => match a with
    | none => some l
    | some b => if b.level < l.level then some l else some b) none

/-- The shares of a launch over so many units (R312). -/
def dealShares (g : Nat) (us : List (List Nat)) : List Share :=
  let u := us.length
  (upTo u).map (fun i =>
    let base := i * (g / u) + min i (g % u)
    { unit := us.getD i [], next := base, stop := base + g / u + (if i < g % u then 1 else 0) })

/-- Two sites are apart enough for a pair (R364). -/
def State.pairApart (s : State) (q : Nat) (a b : List Nat) : Bool :=
  match s.physOf q (a.headD 0), s.physOf q (b.headD 0) with
  | some p, some r =>
    let dist (x y : Nat) : Nat := max x y - min x y
    dieOf p != dieOf r
      || decide (2 ≤ dist (siteOf p / 16) (siteOf r / 16) + dist (siteOf p % 16) (siteOf r % 16))
  | _, _ => false

/-- LAUNCH_START: the next launch starts and its groups are dealt. A launch that its flags rule out is refused. -/
def execLaunchStart (part : Nat) (s : State) : Answer :=
  match s.nextLaunch part with
  | none => .next s
  | some l =>
    let us := s.units part l.gang
    let half := us.length / 2
    let ps := (upTo half).map (fun j => (us.getD j [], us.getD (j + half) []))
    if l.flag 1 && (s.part part).ckpt.steps ≠ 1 then .next (s.complete part l (l.cause ||| 0x20) 3)
    else if l.flag 0 && (ps.isEmpty || !(ps.all (fun ab => s.pairApart part ab.1 ab.2))) then
      .next (s.complete part l (l.cause ||| 0x20) 3)
    else
      let units := if l.flag 0 then ps.map (fun ab => ab.1 ++ ab.2) else us
      let pairs := if l.flag 0 then ps.flatMap (fun ab => ab.1.zip ab.2) else []
      let s := s.modLaunch part l.serial (fun x =>
        { x with started := true, startNo := (s.part part).starts, shares := dealShares l.g units, pairs := pairs })
      .next (s.modPart part (fun x => { x with starts := x.starts + 1 }))

/-! ### Group start (R313, R315, R316) -/

/-- A core may take a group: its control context has none and waits for work. -/
def State.idleCore (s : State) (p : Nat) : Bool :=
  let c := s.core p
  c.group.isNone && !c.dead && !c.poisoned &&
    (c.ctl.run == .stopped .idle || c.ctl.run == .stopped .noLogical)

/-- A core whose group has been asked to make way and whose handler has saved it and parked. -/
def State.swappedCore (s : State) (p : Nat) : Bool :=
  let c := s.core p
  c.group.isSome && c.swapping && c.ctl.run == .stopped .parked && c.handler == some 0

/-- The launch of a core's group. -/
def State.runsLaunch (s : State) (p : Nat) : Option (Nat × GroupRun × Launch) :=
  match s.partOf p, (s.core p).group with
  | some q, some g =>
    match (s.part q).launches.find? (fun l => l.serial == g.launch) with
    | some l => some (q, g, l)
    | none => none
  | _, _ => none

/-- A core has set a group of a launch aside: that launch starts no other group on it before that one has ended (R312). -/
def Core.setsAside (c : Core) (serial : Nat) : Bool := c.swaps.any (fun w => w.group.launch == serial)

/-- A share of a launch is not finished: it has a group to start, or a core of its unit still has a part in one. -/
def State.shareOpen (s : State) (q : Nat) (m : Launch) (h : Share) : Bool :=
  decide (h.next < h.stop) || h.unit.any (fun x => match s.physOf q x with
    | some p => (s.core p).group.any (fun g => g.launch == m.serial) || (s.core p).setsAside m.serial
    | none => false)

/-- An earlier started launch still holds a share for one of these logical cores (R313). -/
def State.blocked (s : State) (q : Nat) (l : Launch) (unit : List Nat) : Bool :=
  (s.part q).launches.any (fun m => m.started && decide (m.startNo < l.startNo)
    && m.shares.any (fun h => h.unit.any (fun x => unit.contains x) && s.shareOpen q m h))

/-- A core can take a group of a launch now. One that is idle can, unless a group that it has set aside waits for another launch's share;
so can one whose gang makes way whole for another launch, of a higher level where its slice has expired (R155, R315, R316). -/
def State.canTake (s : State) (l : Launch) (p : Nat) : Bool :=
  !((s.core p).setsAside l.serial) &&
  ((s.idleCore p && (match (s.core p).swaps with
    | [] => true
    | w :: _ => w.by' == l.serial))
  || ((s.gang p).all s.swappedCore && (match s.runsLaunch p with
    | some (_, _, m) => m.serial != l.serial && (!(s.core p).swapHigh || decide (m.level < l.level))
    | none => false)))

/-- A launch can start its next group on a unit now: every core can take it, and no earlier launch holds a share for one of them, unless that
core's group makes way for it. -/
def State.canStart (s : State) (q : Nat) (l : Launch) (h : Share) : Bool :=
  let ps := h.unit.filterMap (fun x => s.physOf q x)
  l.started && decide (h.next < h.stop) && ps.length == h.unit.length
    && ps.all (fun p => (s.cluster (clusterOf p)).power != .gated) && ps.all (s.canTake l)
    && h.unit.all (fun x => !(s.blocked q l [x]) || (s.physOf q x).any (fun p => !(s.core p).swaps.isEmpty || s.swappedCore p))

/-- The launch and share that a core's unit runs next: at a swap the highest effective level, otherwise the earliest
start. -/
def State.nextShare (s : State) (q lp : Nat) : Option (Launch × Share) :=
  let all := (s.part q).launches.filterMap (fun l => match l.shareOf lp with
    | some h => if s.canStart q l h then some (l, h) else none
    | none => none)
  let swap := match s.physOf q lp with
    | some p => s.swappedCore p
    | none => false
  all.foldl (fun (a : Option (Launch × Share)) x => match a with
    | none => some x
    | some b =>
      if swap && x.1.level != b.1.level then (if b.1.level < x.1.level then some x else some b)
      else if x.1.startNo < b.1.startNo then some x else some b) none

/-- A launch of a partition starts a group on a cluster: a new one empties its window cache (R93). -/
def Cluster.begin (k : Cluster) (q : Nat) (live : List Nat) (serial : Nat) : Cluster :=
  let old := k.begun.filter (fun b => b.1 != q || live.contains b.2)
  if old.contains (q, serial) then { k with begun := old } else { k with wcache := [], begun := (q, serial) :: old }

/-- A group makes way for a share of another launch: it is set aside with what its core holds for its saved context. -/
def Core.setAside (c : Core) (g : GroupRun) (serial : Nat) : Core :=
  { c with
    swaps := { group := g, by' := serial, saved := c.saved, base := c.msbBase, diverge := c.diverge, returned := c.returned, twin := c.twin,
               pairNo := c.pairNo, matched := c.matched, snap := c.snap, repeating := c.repeating, again := c.again } :: c.swaps
    group := none, handler := none, entries := [], diverge := [], returned := [], again := none, swapHigh := false
    ring := c.ring.filter (fun kr => kr.2.mat), replay := none, due := c.due.filter (fun d => d.ctx != 0) }

/-- A group that was set aside comes back to its core. -/
def Core.takeBack (c : Core) (w : Swapped) (rest : List Swapped) : Core :=
  { c with group := some { w.group with ran := 0 }, swaps := rest, saved := w.saved, diverge := w.diverge,
           returned := w.returned, twin := w.twin, pairNo := w.pairNo, matched := w.matched, snap := w.snap, repeating := w.repeating,
           again := w.again, exited := false, noMore := false, noCount := false }

/-- GROUP_START: the unit of a core starts its next group; a group that makes way is set aside, and a group that firmware
has ended goes first. A new launch empties the window cache of each cluster (R93) and a cluster whose clock is off runs again (R389).
[DESIGN CHOICE, log 7; DEDUCED, log 34] -/
def execGroupStart (core : Nat) (s : State) : Answer :=
  match s.partOf core, (s.core core).lpid with
  | some q, some lp =>
    match s.nextShare q lp with
    | none => .next (s.endEnding core)
    | some (l, h) =>
      let ps := h.unit.filterMap (fun x => s.physOf q x)
      let s := ps.foldl (fun s p => match (s.core p).group with
        | some g => s.modCore p (fun c => c.setAside g l.serial)
        | none => s) s
      let live := (s.part q).launches.map (fun l => l.serial)
      let s := ps.foldl (fun s p => s.modCluster (clusterOf p) (fun k =>
        { k.begin q live l.serial with idle := 0, power := if k.power = .clkoff then .run else k.power })) (s.startUnit q l h.next ps)
      .next (s.modLaunch q l.serial (fun x =>
        { x with shares := x.shares.map (fun z => if z.unit == h.unit then { z with next := z.next + 1 } else z) }))
  | _, _ => .next (s.endEnding core)

/-- LAUNCH_COMPLETE: every group has exited. -/
def execLaunchComplete (part lid : Nat) (s : State) : Answer :=
  match s.byLid part lid with
  | none => .next s
  | some l => if l.started && l.exits = l.g then .next (s.complete part l l.cause l.verd) else .next s

/-! ### Slices and long waits (R315, R316) -/

/-- Another launch than `l` wants the unit of a core, of a higher level where `high` says so: it has started and has dealt the unit a group
that has not started, and has set none of its groups aside there, or it is eligible and would form a unit with the core (R315, R316). -/
def State.wanted (s : State) (q p : Nat) (l : Launch) (high : Bool) : Bool :=
  (s.part q).launches.any (fun m => m.serial != l.serial && (!high || decide (l.level < m.level))
    && (if m.started then (match m.shareOf (s.lp p) with
          | some h => decide (h.next < h.stop) && !((h.unit.filterMap (s.physOf q)).any (fun r => (s.core r).setsAside m.serial))
          | none => false)
        else m.eligible && (s.units q m.gang).any (fun u => u.contains (s.lp p))))

/-- Asks for the swap of the gang of a core, for a launch of a higher level or for any. [DEDUCED, log 37] -/
def State.askSwap (s : State) (p sub : Nat) (high : Bool) : State :=
  (s.gang p).foldl (fun s r => s.modCore r (fun c => { c with swapping := true, swapHigh := high })) (s.postPreempt p sub)

/-- SLICE_EXPIRY: the group has run its slice, or waits, and an eligible or started launch of a higher effective level
wants the unit. [DEDUCED, log 37] -/
def execSliceExpiry (core : Nat) (s : State) : Answer :=
  match s.runsLaunch core with
  | none => .next s
  | some (q, g, l) =>
    let waits := (s.core core).ctl.run == .waiting
    let due := l.slice != 0 && decide (l.slice ≤ g.ran)
    if !(s.core core).swapping && (s.core core).preempt.isNone && s.wanted q core l true && (due || waits) then
      .next (s.askSwap core (if due then 1 else 4) true)
    else .next s

/-- LONG_WAIT_EXPIRY: a counted wait has lasted LIM cycles. With no other share for the unit it is not counted again
until the next group start. [DEDUCED, log 37] -/
def execLongWaitExpiry (core : Nat) (s : State) : Answer :=
  let c := s.core core
  match s.runsLaunch core with
  | none => .next s
  | some (q, _, l) =>
    if c.counted && !c.noCount && !c.swapping && c.preempt.isNone && c.twt != 0 && decide (c.twt.toNat ≤ c.waited) then
      if s.wanted q core l false then .next (s.askSwap core 3 false)
      else .next ((s.gang core).foldl (fun s r => s.modCore r (fun c => { c with noCount := true })) s)
    else .next s

/-- Enters the handler of a core's control context with RESUME, TRAP.EPC and TRAP.CTX 0 (R342). [DEDUCED, log 37] -/
def State.resumeAt (s : State) (p : Nat) (info : Word) : State :=
  (s.enterHandler p { ctx := 0, cls := 0x11, sub := 0, info := info, epc := 0, seq := 0 }).modCore p (fun c =>
    { c with tctx := 0 })

/-- A group that was set aside comes back to its core: its handler is entered, to restore it. One whose core has died meanwhile is replayed
once its whole unit stands, or, where it had passed a release, counts as exited (R363). [DEDUCED, log 37, 38] -/
def State.resumeSwapped (s : State) (q p : Nat) (w : Swapped) (rest : List Swapped) : State :=
  let s := s.modCore p (fun c => c.takeBack w rest)
  if !w.group.replay then s.resumeAt p 0
  else if w.group.passed then (s.taint q w.group.launch 8 2).endGroup p
  else s.replayUnit q w.group.launch w.group.index

/-- SWAP_RESUME: the share that ran in place of a swapped group is finished, or there is none to run and none is wanted: the group's core
enters its handler, which restores it. [DEDUCED, log 37] -/
def execSwapResume (core : Nat) (s : State) : Answer :=
  let c := s.core core
  match s.partOf core with
  | none => .next s
  | some q =>
    if s.swappedCore core then
      if (s.nextShare q (s.lp core)).isSome || (s.runsLaunch core).any (fun r => s.wanted q core r.2.2 c.swapHigh) then .next s
      else
        .next ((s.modCore core (fun c =>
          { c with swapping := false, swapHigh := false, handler := none, group := c.group.map (fun g => { g with ran := 0 }) })).resumeAt core 0)
    else match c.swaps with
      | [] => .next s
      | w :: rest =>
        let busy := (s.part q).launches.any (fun l => l.serial == w.by' && match l.shareOf (s.lp core) with
          | some h => s.shareOpen q l h
          | none => false)
        if c.group.isSome || busy || !(s.idleCore core) then .next s
        else .next (s.resumeSwapped q core w rest)

end Sys2Proof.Machine
end

