-- ==== Sys2Proof/Machine/Rule.lean ====
section
/-! DEFINITION. Rule memory and the Rule Evaluation Units (R228 to R263): the instructions of page 1, MAJ 1, the update of a
block with its digest (R345, R346), tapes and the reverse sweep. -/

namespace Sys2Proof.Machine

/-! ### FP32 operations that round once to nearest even (R233) -/

/-- a + b. -/
def fAdd (a b : Nat) : Nat := (fp32.addC 0 a b).1
/-- a − b. -/
def fSub (a b : Nat) : Nat := (fp32.subC 0 a b).1
/-- a × b. -/
def fMul (a b : Nat) : Nat := (fp32.mulC 0 a b).1
/-- a ÷ b. -/
def fDiv (a b : Nat) : Nat := (fp32.divC 0 a b).1
/-- a × b + c. -/
def fFma (a b c : Nat) : Nat := (fp32.fmaC 0 a b c).1
/-- |a|. -/
def fAbs (a : Nat) : Nat := a % 2 ^ 31
/-- 1. -/
def fOne : Nat := 0x3F800000
/-- a < b. -/
def fLess (a b : Nat) : Bool := (fp32.relC 1 a b).1
/-- The magnitude of one code with the sign of another. -/
def fCopySign (a b : Nat) : Nat := a % 2 ^ 31 + b / 2 ^ 31 % 2 * 2 ^ 31
/-- A NaN. -/
def fNan (a : Nat) : Bool := fp32.value a == .nan
/-- Finite. -/
def fFinite (a : Nat) : Bool :=
  match fp32.value a with
  | .fin _ _ _ => true
  | _ => false

/-- Sign(x): ±1, or +0 for a zero and a NaN. -/
def fSign (a : Nat) : Nat := if fLess 0 a then fOne else if fLess a 0 then fOne + 2 ^ 31 else 0

/-- A correctly rounded 1 ÷ √x, with the special results of VRSQ. -/
def fRSqrt (a : Nat) : Nat :=
  match fp32.value a with
  | .nan => fp32.nan
  | .inf s => if s then fp32.nan else 0
  | .fin s m e =>
    if m = 0 then fp32.code s fp32.infCode
    else if s then fp32.nan
    else
      let o := (e % 2).toNat
      let n := m * 2 ^ o
      let k := 2 * (Nat.log2 n + 48)
      let r := isqrt (2 ^ k / n)
      (fp32.round 0 false false (2 * r + (if r * r * n = 2 ^ k then 0 else 1)) (-((e - o) / 2) - k / 2 - 1)).1

/-- A correctly rounded log2 x, with the special results of VLOG2. -/
def fLog2 (a : Nat) : Nat :=
  match fp32.value a with
  | .nan => fp32.nan
  | .inf s => if s then fp32.nan else fp32.infCode
  | .fin s m e =>
    if m = 0 then fp32.code true fp32.infCode
    else if s then fp32.nan
    else (fp32.ofVal 0 false (log2Val m e)).1

/-! ### Rule images (R232) -/

/-- The header of a slot image. -/
structure Rule where
  /-- VER. -/
  ver : Nat
  /-- NIN. -/
  nin : Nat
  /-- The present hidden layers: width and activation. -/
  layers : List (Nat × Nat)
  /-- ACTO. -/
  acto : Nat
  /-- Features of the inputs. -/
  feat : List Nat
  /-- β1. -/
  b1 : Nat
  /-- β2. -/
  b2 : Nat
  /-- ε. -/
  eps : Nat
  /-- η_out. -/
  etaOut : Nat
  /-- τ. -/
  tau : Nat
  /-- w_floor. -/
  floor : Nat
  /-- η_fb. -/
  etaFb : Nat
  /-- T. -/
  t : Nat
  /-- LIMB. -/
  limb : Nat
  /-- DLIM. -/
  dlim : Nat
  deriving DecidableEq, Repr

/-- VER of an image. -/
def imageVer (m : Mem) : Nat := bread m 0 2

/-- Reads the header of an image. -/
def ruleOf (m : Mem) : Rule :=
  let w := bread m 0 8
  let f := bread m 8 8
  { ver := bits w 0 16, nin := bits w 16 4,
    layers := [(bits w 24 6, bits w 40 2), (bits w 32 6, bits w 42 2)].take (bits w 20 2), acto := bits w 44 2,
    feat := (upTo (bits w 16 4)).map (fun k => bits f (4 * k) 4),
    b1 := bread m 0x10 4, b2 := bread m 0x14 4, eps := bread m 0x18 4, etaOut := bread m 0x1C 4, tau := bread m 0x20 4,
    floor := bread m 0x24 4, etaFb := bread m 0x28 4, t := bread m 0x2C 4, limb := bread m 0x30 4, dlim := bread m 0x34 4 }

/-- A layer's width and activation are in order, given whether it is present. -/
def layerOk (present : Bool) (h a : Nat) : Bool :=
  if present then decide (1 ≤ h) && decide (h ≤ 32) && a != 3 else h == 0 && a == 0

/-- 2^−100 as FP32. -/
def epsMin : Nat := 27 * 2 ^ 23

/-- An image whose header keeps every constraint of R232. -/
def imageOk (m : Mem) : Bool :=
  let w := bread m 0 8
  let f := bread m 8 8
  let r := ruleOf m
  let unit (x : Nat) : Bool := fFinite x && !(fLess x 0) && !(fLess fOne x)
  let plus (x : Nat) : Bool := fFinite x && decide (x < 2 ^ 31)
  decide (1 ≤ r.nin) && decide (r.nin ≤ 12) && decide (bits w 20 2 ≤ 2) && bits w 22 2 == 0 && bits w 30 2 == 0
    && bits w 38 2 == 0 && bits w 46 18 == 0 && r.acto != 3
    && layerOk (decide (1 ≤ bits w 20 2)) (bits w 24 6) (bits w 40 2)
    && layerOk (decide (2 ≤ bits w 20 2)) (bits w 32 6) (bits w 42 2)
    && r.feat.all (fun c => decide (c ≤ 9)) && f / 2 ^ (4 * r.nin) == 0
    && unit r.b1 && unit r.b2 && fFinite r.eps && !(fLess r.eps epsMin) && fFinite r.etaOut && plus r.tau && plus r.floor
    && plus r.etaFb && fFinite r.t && (!(r.feat.contains 9) || fLess 0 r.t)
    && (upTo 200).all (fun k => bget m (0x38 + k) == 0)

/-- Weight `k` of an image. -/
def weightOf (m : Mem) (k : Nat) : Nat := bread m (0x100 + 4 * k) 4

/-- Weights `k` to `k + n - 1`. -/
def weightRow (m : Mem) (k n : Nat) : List Nat := (upTo n).map (fun i => weightOf m (k + i))

/-- Image A or B of a slot. -/
def Slot.image (z : Slot) (b : Bool) : Mem := if b then z.b else z.a

/-- Replaces an image of a slot. -/
def Slot.setImage (z : Slot) (b : Bool) (m : Mem) : Slot := if b then { z with b := m } else { z with a := m }

/-! ### The rule network (R234) -/

/-- The Fma chain over weights and values from a start value. -/
def fDot : List Nat → List Nat → Nat → Nat
  | w :: ws, v :: vs, acc => fDot ws vs (fFma w v acc)
  | _, _, acc => acc

/-- Activations: 0 identity, 1 ReLU, 2 softsign. -/
def fAct (a z : Nat) : Nat :=
  if a = 0 then z
  else match fp32.value z with
    | .nan => fp32.nan
    | .inf _ => if a = 1 then (if fLess 0 z then z else 0) else fCopySign fOne z
    | _ => if a = 1 then (if fLess 0 z then z else 0) else fDiv z (fAdd fOne (fAbs z))

/-- A layer's sums z: `h` neurons over inputs, from weight index `base`. -/
def layerSums (m : Mem) (base h : Nat) (inp : List Nat) : List Nat :=
  let n := inp.length
  (upTo h).map (fun j => fDot (weightRow m (base + j * n) n) inp (weightOf m (base + h * n + j)))

/-- Runs the hidden layers: their sums, the output layer's first weight and its inputs. -/
def runLayers (m : Mem) : List (Nat × Nat) → Nat → List Nat → List (List Nat) × Nat × List Nat
  | [], base, inp => ([], base, inp)
  | (h, a) :: ls, base, inp =>
    let z := layerSums m base h inp
    let r := runLayers m ls (base + h * inp.length + h) (z.map (fAct a))
    (z :: r.1, r.2)

/-- The network on inputs: the hidden sums and zo. -/
def runNet (m : Mem) (r : Rule) (x : List Nat) : List (List Nat) × Nat :=
  let q := runLayers m r.layers 0 x
  (q.1, (layerSums m q.2.1 1 q.2.2).headD 0)

/-! ### One parameter (R233) -/

/-- What the REU computes for one parameter, before containment. -/
structure Param where
  /-- The new first moment. -/
  m1 : Nat
  /-- The new second moment. -/
  m2 : Nat
  /-- The step. -/
  d : Nat
  /-- Moments reset. -/
  mreset : Nat
  /-- The step was zeroed. -/
  zeroed : Bool
  /-- The step was clamped. -/
  clamped : Bool
  /-- The inputs. -/
  x : List Nat
  /-- The hidden sums. -/
  z : List (List Nat)
  /-- The output sum. -/
  zo : Nat
  deriving DecidableEq, Repr

/-- ±64. -/
def f64 : Nat := 0x42800000

/-- The value of a feature code. -/
def featureOf (r : Rule) (step g w m1 m2 dp rs code : Nat) : Nat :=
  match code with
  | 0 => g
  | 1 => m1
  | 2 => m2
  | 3 => fMul g rs
  | 4 => fMul m1 rs
  | 5 => w
  | 6 => dp
  | 7 => fMul (fSign g) (fSign m1)
  | 8 =>
    let l := fLog2 (fAdd (fAbs g) r.eps)
    if fNan l then l else if fLess f64 l then f64 else if fLess l (f64 + 2 ^ 31) then f64 + 2 ^ 31 else l
  | _ => fDiv (fp32.round 0 false false step 0).1 r.t

/-- The update of one parameter up to its contained step. [DEDUCED, log 63] -/
def stepParam (m : Mem) (r : Rule) (step g w m1 m2 dp : Nat) : Param :=
  let a1 := fSub fOne r.b1
  let a2 := fSub fOne r.b2
  let m1' := fFma r.b1 m1 (fMul a1 g)
  let bad1 := fNan m1'
  let m1' := if bad1 then 0 else m1'
  let m2 := if fLess m2 0 then 0 else m2
  let m2' := fFma r.b2 m2 (fMul a2 (fMul g g))
  let bad2 := fNan m2'
  let m2' := if bad2 then 0 else m2'
  let rs := fRSqrt (fAdd m2' r.eps)
  let x := r.feat.map (featureOf r step g w m1' m2' dp rs)
  let net := runNet m r x
  let d := fMul (fAct r.acto net.2) r.etaOut
  let bnd := fMul r.tau (fp32.minMaxC true (fAbs w) r.floor)
  let zero := !(fFinite d) || !(fFinite w)
  let over' := !zero && fLess bnd (fAbs d)
  { m1 := m1', m2 := m2', d := if zero then 0 else if over' then fCopySign bnd d else d,
    mreset := bad1.toNat + bad2.toNat, zeroed := zero, clamped := over', x := x, z := net.1, zo := net.2 }

/-! ### Block headers (R228, R229) -/

/-- A block's header address is placed as R228 asks. -/
def blockPlaced (va : Nat) : Bool := va % 4096 == 0 && decide (va % 65536 ≤ 0xA000) && spaceOf va 0x6000 == some .glob

/-- A header that is ill-formed. -/
def headerBad (h : Nat) : Bool :=
  bits h 11 5 != 0 || bits h 67 29 != 0 || bits h 304 16 != 0 || bits h 320 192 != 0 || decide (1024 < bits h 0 11)

/-- Adds to a 32-bit counter that saturates. -/
def satAdd (a b : Nat) : Nat := min (2 ^ 32 - 1) (a + b)

/-- The header after an update (R235); an update of no parameter changes PVER, STEP, RVER and DIG alone. -/
def headerAfter (h ver : Nat) (dig flagged : Bool) (clamped zeroed mreset : Nat) : Nat :=
  let h := withBits h 48 16 ver
  let h := withBits h 16 32 (bits h 16 32 + 1)
  let h := withBits h 96 32 (bits h 96 32 + 1)
  let h := withBits h 65 1 dig.toNat
  if bits h 0 11 = 0 then h
  else
    let h := withBits h 64 1 flagged.toNat
    let h := withBits h 128 32 (satAdd (bits h 128 32) clamped)
    let h := withBits h 160 32 (satAdd (bits h 160 32) zeroed)
    let h := withBits h 192 32 (satAdd (bits h 192 32) mreset)
    let h := withBits h 224 32 (satAdd (bits h 224 32) flagged.toNat)
    withBits h 256 48 (clamped + zeroed * 2 ^ 16 + mreset * 2 ^ 32)

/-! ### Digests of blocks (R345, R346) -/

/-- x · a in GF(2^128). -/
def gfDouble (a : BitVec 128) : BitVec 128 := (a <<< 1) ^^^ (if a.getLsbD 127 then 0x87 else 0)

/-- The product by the low `n` bits of `b`, from the highest down. -/
def gfMulFrom (a b : BitVec 128) : Nat → BitVec 128 → BitVec 128
  | 0, acc => acc
  | n + 1, acc => gfMulFrom a b n (gfDouble acc ^^^ (if b.getLsbD n then a else 0))

/-- The product in GF(2^128). -/
def gfMul (a b : BitVec 128) : BitVec 128 := gfMulFrom a b 128 0

/-- A plane's FP32 codes as 16-byte chunks, padded with zeros. -/
def planeChunks : Nat → List Nat → List (BitVec 128)
  | 0, _ => []
  | n + 1, l =>
    BitVec.ofNat 128 (l.getD 0 0 + l.getD 1 0 * 2 ^ 32 + l.getD 2 0 * 2 ^ 64 + l.getD 3 0 * 2 ^ 96)
      :: planeChunks n (l.drop 4)

/-- The hash of a block: header address, RVER, ACT, and its planes w, m1, m2 and Δprev. [DEDUCED, log 63] -/
def blockHash (key : BitVec 128 × BitVec 128) (va ver act : Nat) (planes : List (List Nat)) : BitVec 128 :=
  let c0 := BitVec.ofNat 128 (va / 4096 % 2 ^ 45 + ver % 2 ^ 16 * 2 ^ 48 + act * 2 ^ 64)
  let cs := c0 :: planes.flatMap (planeChunks (ceilDiv act 4))
  (cs.foldl (fun x c => gfMul (x ^^^ c) key.1) 0) ^^^ key.2

/-- A slice's sum for a partition. -/
def Slice.sum (z : Slice) (q : Nat) : BitVec 128 := mget 0 z.dsum q

/-- The slice that owns a physical address. -/
def ownerOf (pa : Nat) : Nat := targetOf pa % 32

/-- The entry of a block's digest. -/
def Slice.digestOf (z : Slice) (q va : Nat) : Option DigEntry := z.dig.find? (fun e => e.part == q && e.page == va / 4096)

/-- A write-back of a registered block replaces its hash. -/
def State.rehash (s : State) (sl q va : Nat) (h : BitVec 128) : State :=
  s.modSlice sl (fun z =>
    match z.digestOf q va with
    | none => z
    | some e =>
      { z with
        dig := z.dig.map (fun f => if f.part == q && f.page == va / 4096 then { f with h := h } else f)
        dsum := mset z.dsum q (z.sum q - e.h + h) })

/-! ### Failures of a command's accesses -/

/-- The master of the REU of a home slice (R68). -/
def reuMaster (sl : Nat) : Nat := sl / 16 * 4096 + (160 + sl % 16) * 16 + 12

/-- The REU of a home slice as an agent that serves a rule command. -/
def reuAgent (sl : Nat) (c : RuleCmd) : Agent :=
  { die := dieOf c.core, master := reuMaster sl, cid := c.cid, carried := some c.part }

/-- Why a command's access fails: a fault kind (R65, R67), 11 an uncorrectable error, 20 ill-formed, 21 host memory; with
the access kind and the address. -/
abbrev CFail := Nat × Nat × Nat

/-- A failure, and the state in which it has been told: the leaves that were walked before it hold A (R62). -/
abbrev CStop := CFail × State

/-- The STATUS of a failure (R236, R259). -/
def failStatus (f : CFail) : Nat :=
  if f.1 = 20 then 1 else if f.1 = 21 then 4 else if f.1 = 11 then 5 else if f.1 = 8 then 3 else 2

/-- The taint of an uncorrectable error that is read for a command (R360). -/
def State.taintCmd (s : State) (c : RuleCmd) : State :=
  match s.launchOf c.core with
  | some (q, l) => s.taint q l.serial 2 2
  | none => s

/-- What a failure of an agent that serves a command does beside its status: the trap message of R66, the count of a refusal
(R67), or the taint of R360. -/
def State.cmdFailBy (s : State) (g : Agent) (c : RuleCmd) (f : CFail) : State :=
  if f.1 = 11 then s.taintCmd c
  else if 1 ≤ f.1 && f.1 ≤ 7 then
    s.trapMsg c.core 0x20 f.1 f.2.1 (g.master % 16) g.cid (BitVec.ofNat 64 (f.2.2 / 65536 % 2 ^ 41))
  else if f.1 = 8 then s.countRefusal g f.2.2 f.2.1
  else s

/-- The taint of a command that ends with ECC before it runs (R360). -/
def State.preTold (s : State) (c : RuleCmd) (st : Nat) : State := if st = 5 then s.taintCmd c else s

/-- The lowest non-zero status of two. -/
def lowStatus (a b : Nat) : Nat := if a = 0 then b else if b = 0 then a else min a b

/-- A read by a command through an agent, all or nothing; its failure is told. -/
def State.cmdRead (s : State) (g : Agent) (c : RuleCmd) (va n : Nat) : Except CStop (Nat × State) :=
  match s.gcheck g va n 0 9 with
  | .error e => .error ((e.1, 0, e.2), s.cmdFailBy g c (e.1, 0, e.2))
  | .ok (ps, s) =>
    if ps.any (fun x => s.hardErr .phys x.pa x.n) then .error ((11, 0, va), s.taintCmd c)
    else .ok (s.gread ps, s.correctAll c.core ps)

/-- A write by a command through an agent. -/
def State.cmdWrite (s : State) (g : Agent) (va n v : Nat) : Except CFail State :=
  match s.gstore g va n v with
  | .error e => .error (e.1, 1, e.2)
  | .ok s => .ok s

/-- Several writes: address, bytes, value. -/
def State.cmdWrites (s : State) (g : Agent) : List (Nat × Nat × Nat) → Except CFail State
  | [] => .ok s
  | (va, n, v) :: ws =>
    match s.cmdWrite g va n v with
    | .error e => .error e
    | .ok s => s.cmdWrites g ws

/-- Several writes, all or none; a failure is told. -/
def State.cmdPut (s : State) (g : Agent) (c : RuleCmd) (ws : List (Nat × Nat × Nat)) : Except CStop State :=
  match s.cmdWrites g ws with
  | .error f => .error (f, s.cmdFailBy g c f)
  | .ok s => .ok s

/-- Bytes of plane `k` of a block that are used: 64 of the header, one element for each active parameter of the others. -/
def planeBytes (k act : Nat) : Nat := if k = 0 then 64 else 4 * act

/-- The target that refuses first of what a command asks of the planes of a block at `pa`, if one does: the Sahdan endpoint of the translating
slice's lane, where the command crosses to the REU of the other die, or the owner of a plane that this REU reads (`rd`) or writes (`wr`)
(R67, R68, R383). RDREG's reads are checked as the REU's too. [DEDUCED, log 63, 82; DESIGN CHOICE, log 111] -/
def State.planesBar (s : State) (c : RuleCmd) (va pa act : Nat) (rd wr : List Nat) : Option Nat :=
  let z := xlatSlice (dieOf c.core) va
  let bar (acc k : Nat) : Option Nat :=
    let a := pa + 4096 * k
    if !(s.crosses (reuMaster z) acc pa z) then some (0x4000 + laneOf z)
    else if s.permits (reuMaster (ownerOf pa)) (some c.part) acc a (planeBytes k act) then none
    else some (s.refuser (reuMaster (ownerOf pa)) (some c.part) acc 8 a)
  (rd.findSome? (bar 0)).or (wr.findSome? (bar 1))

/-- The header of a block, if it can be used: a page that the access may use, not in host memory; the owning REU reaches the
planes that it reads and writes; nothing read holds an uncorrectable error. `acc` is the access kind of its translation.
[DEDUCED, log 63] -/
def State.openPlanes (s : State) (c : RuleCmd) (va acc : Nat) (rd wr : List Nat) : Except CStop ((Nat × Nat) × State) :=
  if !(blockPlaced va) then .error ((20, 0, va), s)
  else match s.translate (dieOf c.core) c.cid va acc with
    | .error k => .error ((k.1, acc, va), s.cmdFailBy (reuAgent (xlatSlice (dieOf c.core) va) c) c (k.1, acc, va))
    | .ok (pa, s) =>
      if tierOf pa = .host then .error ((21, acc, va), s)
      else match s.planesBar c va pa 0 [0] (wr.filter (fun k => k == 0)) with
      | some t => .error ((8, acc, va), s.refuseAt t)
      | none =>
      if s.hardErr .phys pa 64 then .error ((11, 0, va), s.taintCmd c)
      else
        let h := bread s.phys pa 64
        let act := bits h 0 11
        let planes := if act = 0 then [] else rd.filter (fun k => k != 0)
        if headerBad h then .error ((20, 0, va), s)
        else match s.planesBar c va pa act planes (if act = 0 then [] else wr) with
        | some t => .error ((8, 0, va), s.refuseAt t)
        | none =>
        if planes.any (fun k => s.hardErr .phys (pa + 4096 * k) (4 * act)) then .error ((11, 0, va), s.taintCmd c)
        else
          .ok ((pa, h), planes.foldl (fun s k => s.correct c.core .phys (pa + 4096 * k) (4 * act))
            (s.correct c.core .phys pa 64))

/-- A block as an update opens it: every plane is read, and all but the gradient are written. -/
def State.openBlock (s : State) (c : RuleCmd) (va : Nat) : Except CStop ((Nat × Nat) × State) :=
  s.openPlanes c va 2 [0, 1, 2, 3, 4, 5] [0, 1, 3, 4, 5]

/-- A block's header alone, as RLTAPE writes it and RLREV reads it (R241, R257). -/
def State.openHead (s : State) (c : RuleCmd) (va : Nat) (wr : Bool) : Except CStop ((Nat × Nat) × State) :=
  if wr then s.openPlanes c va 2 [0] [0] else s.openPlanes c va 0 [0] []

/-- What the translation of a block's header for a read leaves: A of the leaf, and the cached entry (R62, R63). [DEDUCED, log 21] -/
def State.headTried (s : State) (c : RuleCmd) (va : Nat) : State :=
  if !(blockPlaced va) then s
  else match s.translate (dieOf c.core) c.cid va 0 with
    | .error _ => s
    | .ok (_, s) => s

/-- The FP32 codes of a block's plane. -/
def State.plane (s : State) (pa k act : Nat) : List Nat := (upTo act).map (fun i => bread s.phys (pa + 4096 * k + 4 * i) 4)

/-- Words of 4 bytes as one number. -/
def words4 (l : List Nat) : Nat := l.foldr (fun x a => x + 2 ^ 32 * a) 0

/-! ### Rule records (R254) -/

/-- SLOT. -/
def RuleCmd.slot (c : RuleCmd) : Nat := wfield c.w0 32 3

/-- NB of an RLUPD or RDREG. -/
def RuleCmd.nb (c : RuleCmd) : Nat := wfield c.w3 0 32

/-- OP. -/
def RuleCmd.op (c : RuleCmd) : Nat := ruleOp c.w0

/-- A list of blocks in order: stride, count and first address. -/
def rangeOk (c : RuleCmd) : Bool :=
  c.w2 != 0 && wfield c.w2 0 12 == 0 && (c.nb ≤ 1 || 0x6000 ≤ c.w2.toNat) && decide (1 ≤ c.nb) && decide (c.nb ≤ 2 ^ 20)
    && wfield c.w3 32 32 == 0 && spaceAt c.w1.toNat == some .glob

/-- A record of RLUPD, RLTAPE or RLREV that breaks its limits. -/
def RuleCmd.illFormed (c : RuleCmd) : Bool :=
  c.bad || wfield c.w0 35 13 != 0 ||
    match c.op with
    | 1 => wfield c.w0 48 8 != 0 || !(rangeOk c)
    | 2 => wfield c.w0 48 8 == 0 || decide (64 < wfield c.w0 48 8) || c.w2 != 0 || c.w3 == 0 || decide (256 < c.w3.toNat)
        || wfield c.w1 0 6 != 0 || spaceAt c.w1.toNat != some .glob
    | _ => wfield c.w0 48 8 != 0 || wfield c.w1 0 6 != 0 || spaceAt c.w1.toNat != some .glob || wfield c.w2 0 12 != 0
        || spaceAt c.w2.toNat != some .glob || wfield c.w3 0 2 != 0 || spaceAt c.w3.toNat != some .glob

/-- The image that a command is bound to (R239). -/
def State.boundImage (s : State) (c : RuleCmd) : Mem := (s.rule c.slot).image c.bank

/-- The status that a command of RLUPD, RLTAPE or RLREV has from its record and its slot alone: ill-formed record, a slot
outside PART.RLS, an ill-formed image, an uncorrectable error in it; 0 for none. [DEDUCED, log 63] -/
def State.rulePre (s : State) (c : RuleCmd) : Nat :=
  if c.illFormed then 1
  else if !((s.part c.part).rls.getLsbD c.slot) then 3
  else if !(imageOk (s.boundImage c)) then 1
  else if s.hardErr (.rule c.slot c.bank) 0 8192 then 5
  else 0

/-! ### Completions (R236, R259, R393) -/

/-- Removes a command. -/
def State.dropCmd (s : State) (id : Nat) : State := { s with cmds := s.cmds.filter (fun d => d.id != id) }

/-- Changes a command. -/
def State.modCmd (s : State) (id : Nat) (f : RuleCmd → RuleCmd) : State :=
  { s with cmds := s.cmds.map (fun d => if d.id == id then f d else d) }

/-- Posts a command's completion: it stays outstanding until the completion enters the mailbox. -/
def State.finishCmd (s : State) (c : RuleCmd) (e : MailEntry) : State :=
  if s.silent c.core then s.dropCmd c.id
  else
    let t := s.postCore c.core e (some c.id)
    if t.posts.any (fun w => w.rule == some c.id) then t.modCmd c.id (fun d => { d with posted := true })
    else t.dropCmd c.id

/-- A completion in the layout of R259. -/
def shortDone (kind status b2 b3 tag value : Nat) : MailEntry :=
  eventEntry 16 (kind + status * 2 ^ 8 + b2 % 256 * 2 ^ 16 + b3 % 256 * 2 ^ 24 + tag * 2 ^ 32 + value % 2 ^ 64 * 2 ^ 64)

/-- TAG. -/
def RuleCmd.tag (c : RuleCmd) : Nat := wfield c.w0 0 32

/-- A rule update's completion. [DEDUCED, log 63] -/
def updateDone (c : RuleCmd) (status ver : Nat) : MailEntry :=
  eventEntry 32 (2 + status * 2 ^ 8 + c.slot * 2 ^ 24 + c.tag * 2 ^ 32 + c.sums.1 % 2 ^ 32 * 2 ^ 64
    + min 0xFFFF c.sums.2.1 * 2 ^ 96 + ver * 2 ^ 112 + c.sums.2.2.1 % 2 ^ 32 * 2 ^ 128 + c.sums.2.2.2.1 % 2 ^ 32 * 2 ^ 160
    + c.sums.2.2.2.2 % 2 ^ 32 * 2 ^ 192)

/-! ### Tapes (R240, R257) -/

/-- First byte of the records of a tape of `nb` blocks. -/
def tapeStart (nb : Nat) : Nat := ceilDiv (0x40 + 8 * nb) 64 * 64

/-- RECB of a rule. -/
def recordBytes (r : Rule) : Nat := 4 * (r.nin + ((r.layers.map (·.1)).foldl (· + ·) 0) + 2)

/-- The record of a parameter, FLG last. -/
def tapeRecord (p : Param) (fallback : Bool) : Nat :=
  words4 (p.x ++ p.z.flatten ++ [p.zo, p.clamped.toNat + 2 * p.zeroed.toNat + 4 * fallback.toNat])

/-- The registered tape of the partition that lists a block: its address, CID, block addresses and the block's index. -/
def State.tapeFor (s : State) (c : RuleCmd) (va : Nat) : Option (Nat × BitVec 12 × List Nat × Nat) :=
  match (s.part c.part).tapes.find? (fun t => t.2.2.contains va) with
  | none => none
  | some (a, cid, bs) => some (a, cid, bs, bs.findIdx (fun x => x == va))

/-- The agent that serves a tape: the REU of the home slice that translates its address. [DEDUCED, log 63] -/
def tapeAgent (c : RuleCmd) (a : Nat) : Agent := reuAgent (xlatSlice (dieOf c.core) a) c

/-- The same under the CID that registered the tape. -/
def recordAgent (c : RuleCmd) (cid : BitVec 12) (a : Nat) : Agent := { tapeAgent c a with cid := cid }

/-- Counts of a tape's blocks. -/
def State.tapeCounts (s : State) (g : Agent) (c : RuleCmd) (a : Nat) : List Nat → Except CStop (List Nat × State)
  | [] => .ok ([], s)
  | b :: bs =>
    match s.cmdRead g c (a + 0x40 + 8 * b) 8 with
    | .error e => .error e
    | .ok (w, s) =>
      match s.tapeCounts g c a bs with
      | .error e => .error e
      | .ok (cs, s) => .ok (bits w 57 7 :: cs, s)

/-- Records an update of a block on its tape: whether CNT has reached CAP. [DEDUCED, log 64] -/
def State.recordTape (s : State) (c : RuleCmd) (a : Nat) (cid : BitVec 12) (bs : List Nat) (b ver : Nat) (ps : List Param)
    (fb : Bool) : Except CStop (Bool × State) :=
  let g := recordAgent c cid a
  match s.cmdRead g c a 16 with
  | .error e => .error e
  | .ok (h, s) =>
    match s.tapeCounts g c a (upTo bs.length) with
    | .error e => .error e
    | .ok (cs, s) =>
      let cnt := cs.getD b 0
      let cap := bits h 32 8
      let size := bits h 64 32
      let base := a + tapeStart bs.length + (cnt * bs.length + b) * 1024 * size
      let recs := (upTo ps.length).map (fun i => (base + i * size, size, tapeRecord (ps.getD i
        { m1 := 0, m2 := 0, d := 0, mreset := 0, zeroed := false, clamped := false, x := [], z := [], zo := 0 }) fb))
      let least := (cs.set b (cnt + 1)).foldl min 64
      let h' := withBits (withBits h 24 8 least) 56 1 (if bits h 0 16 = ver then bits h 56 1 else 1)
      match s.cmdPut g c (recs ++ [(a + 0x40 + 8 * b, 8, bs.getD b 0 % 2 ^ 57 + (cnt + 1) * 2 ^ 57), (a, 8, h' % 2 ^ 64)]) with
      | .error e => .error e
      | .ok s =>
        let s := if (cs.set b (cnt + 1)).all (fun n => decide (cap ≤ n)) then
            s.modPart c.part (fun q => { q with tapes := q.tapes.filter (fun t => t.1 != a || t.2.1 != cid) })
          else s
        .ok (decide (cap ≤ cnt + 1), s)

/-! ### REU_UPDATE (R233, R235, R237) -/

/-- Applies an update to a block: the state and what it adds to the sums. -/
def State.updateBlock (s : State) (c : RuleCmd) (va : Nat) : Except CStop (State × (Nat × Nat × Nat × Nat)) :=
  let img := s.boundImage c
  let r := ruleOf img
  match s.openBlock c va with
  | .error e => .error e
  | .ok ((pa, h), s) =>
    let s := s.correct c.core (.rule c.slot c.bank) 0 8192
    let act := bits h 0 11
    let sl := ownerOf pa
    let w := s.plane pa 1 act
    let g := s.plane pa 2 act
    let m1 := s.plane pa 3 act
    let m2 := s.plane pa 4 act
    let dp := s.plane pa 5 act
    let ps := (upTo act).map (fun i =>
      stepParam img r (bits h 96 32) (g.getD i 0) (w.getD i 0) (m1.getD i 0) (m2.getD i 0) (dp.getD i 0))
    let clamped := (ps.filter (·.clamped)).length
    let zeroed := (ps.filter (·.zeroed)).length
    let mreset := (ps.map (·.mreset)).foldl (· + ·) 0
    let flagged := decide (r.limb < clamped + zeroed)
    let ds := ps.map (fun p => if flagged then fMul (fCopySign r.etaFb (2 ^ 31)) (fSign p.m1) else p.d)
    let ws := (upTo act).map (fun i => fAdd (w.getD i 0) (ds.getD i 0))
    let tape := if bits h 66 1 = 1 then s.tapeFor c va else none
    let taped : Except CStop (Bool × State) := match tape with
      | none => .ok (false, s)
      | some (a, cid, bs, b) => s.recordTape c a cid bs b r.ver ps flagged
    match taped with
    | .error e => .error e
    | .ok (full, s) =>
      let dig := ((s.slice sl).digestOf c.part va).isSome
      let h := headerAfter h r.ver dig flagged clamped zeroed mreset
      let h := if full then withBits h 66 1 0 else h
      let put (s : State) (k : Nat) (l : List Nat) : State :=
        if act = 0 then s else s.gwrite [{ va := va, pa := pa + 4096 * k, n := 4 * act }] (words4 l)
      let s := put (put (put (put s 1 ws) 3 (ps.map (·.m1))) 4 (ps.map (·.m2))) 5 ds
      let s := s.gwrite [{ va := va, pa := pa, n := 64 }] h
      let s := match (s.part c.part).key with
        | some key => if dig then
            s.rehash sl c.part va (blockHash key va r.ver act [ws, ps.map (·.m1), ps.map (·.m2), ds]) else s
        | none => s
      .ok (s, (flagged.toNat, clamped, zeroed, mreset))

/-- An RLUPD has still to update a block of its range: each of its numbers that names it counts, as a range whose stride divides 2^64
can name it twice. -/
def RuleCmd.owes (c : RuleCmd) (va : Nat) : Bool :=
  (blockNumbers c.w1 c.w2 va).any (fun n =>
    decide ((c.done.filter (fun k => k % n.2 == n.1)).length < (c.nb + n.2 - 1 - n.1) / n.2))

/-- An earlier update of the same context to a block has not been made (R237), nor one that the gate held before this one, which
it held too (R349). A block is known by the virtual address of its header. [DESIGN CHOICE, log 110] -/
def State.updateBefore (s : State) (c : RuleCmd) (va : Nat) : Bool :=
  s.cmds.any (fun d => decide (d.id < c.id)
    && ((d.core == c.core && d.ctx == c.ctx) || (d.wasHeld && c.wasHeld && d.part == c.part)) && d.op == 1 && !d.posted && !d.gated
    && s.rulePre d == 0 && d.owes va)

/-- The command with a number. -/
def State.cmdBy (s : State) (id : Nat) : Option RuleCmd := s.cmds.find? (fun d => d.id == id)

/-- REU_UPDATE: block `blk` of RLUPD `k` is updated by its REU, or found to fail and left unchanged. -/
def execReuUpdate (k blk : Nat) (s : State) : Answer :=
  match s.cmdBy k with
  | none => .next s
  | some c =>
    let va := blockVa c.w1 c.w2 blk
    if c.op != 1 || c.held || c.gated || c.posted || s.rulePre c != 0 || decide (c.nb ≤ blk) || c.done.contains blk
        || s.updateBefore c va then .next s
    else match s.updateBlock c va with
      | .error (f, s) =>
        .next (s.modCmd k (fun d =>
          { d with done := blk :: d.done, status := lowStatus d.status (failStatus f) }))
      | .ok (s, (fb, cl, z, m)) =>
        .next (s.modCmd k (fun d =>
          { d with done := blk :: d.done,
                   sums := (d.sums.1 + 1, d.sums.2.1 + fb, d.sums.2.2.1 + cl, d.sums.2.2.2.1 + z, d.sums.2.2.2.2 + m) }))

/-- RULE_UPDATE_COMPLETION: every block of RLUPD `k` has been served, or nothing of it runs; the divergence event goes to
the supervisor when more blocks took the fallback than DLIM (R236). A held one waits, whatever its record says (R348). RVER is VER of the bound
image, also where no block has run, and 0 for a slot that the partition does not hold. [DESIGN CHOICE, log 107] -/
def execRuleUpdateCompletion (k : Nat) (s : State) : Answer :=
  match s.cmdBy k with
  | none => .next s
  | some c =>
    let pre := s.rulePre c
    if c.op != 1 || c.posted || c.held || !(pre != 0 || c.gated || c.done.length == c.nb) then .next s
    else
      let own := (s.part c.part).rls.getLsbD c.slot
      let ver := if own then imageVer (s.boundImage c) else 0
      let st := lowStatus (lowStatus pre c.status) (if c.gated then 6 else 0)
      let s := if pre = 0 && decide ((ruleOf (s.boundImage c)).dlim < c.sums.2.1) then
          s.postSup (s.supOf c.part) (eventEntry 16 (3 + c.slot * 2 ^ 24 + c.tag * 2 ^ 32 + c.sums.2.1 % 2 ^ 32 * 2 ^ 64
            + c.core * 2 ^ 96 + ver * 2 ^ 112))
        else s
      .next ((s.preTold c pre).finishCmd c (updateDone c st ver))

/-- RULE_INVALID_OP: a record whose OP names no command completes with ILLFORM (R255). -/
def execRuleInvalidOp (k : Nat) (s : State) : Answer :=
  match s.cmdBy k with
  | none => .next s
  | some c =>
    if [1, 2, 3, 0x10, 0x12, 0x14].contains c.op || c.posted then .next s
    else .next (s.finishCmd c (eventEntry 32 (2 + 1 * 2 ^ 8 + c.tag * 2 ^ 32)))

/-! ### RLTAPE_COMPLETION (R257) -/

/-- Reads the block list of a tape. -/
def State.tapeList (s : State) (g : Agent) (c : RuleCmd) (a : Nat) : List Nat → Except CStop (List Nat × State)
  | [] => .ok ([], s)
  | b :: bs =>
    match s.cmdRead g c (a + 0x40 + 8 * b) 8 with
    | .error e => .error e
    | .ok (w, s) =>
      match s.tapeList g c a bs with
      | .error e => .error e
      | .ok (l, s) => .ok (bits w 0 57 :: l, s)

/-- Sets TAP in each listed block; one that fails is left unchanged and counts toward the status. -/
def State.setTaps (s : State) (c : RuleCmd) : List Nat → Nat × State
  | [] => (0, s)
  | va :: vs =>
    match s.openHead c va true with
    | .error (f, s) =>
      let r := s.setTaps c vs
      (lowStatus (failStatus f) r.1, r.2)
    | .ok ((pa, h), s) => (s.gwrite [{ va := va, pa := pa, n := 64 }] (withBits h 66 1 1)).setTaps c vs

/-- A listed block already has TAP = 1, as far as the headers are read: up to the first that has. One that cannot be read is told of where it
is written. -/
def State.anyTap (s : State) (c : RuleCmd) : List Nat → Bool × State
  | [] => (false, s)
  | va :: vs =>
    match s.openHead c va false with
    | .ok ((_, h), s) => if bits h 66 1 = 1 then (true, s) else s.anyTap c vs
    | .error _ => (s.headTried c va).anyTap c vs

/-- Prepares a tape: the status and the state. [DEDUCED, log 64] -/
def State.makeTape (s : State) (c : RuleCmd) : Nat × State :=
  let a := c.w1.toNat
  let nb := c.w3.toNat
  let g := tapeAgent c a
  let r := ruleOf (s.boundImage c)
  let pre := s.rulePre c
  if pre != 0 then (pre, s.preTold c pre)
  else match (s.correct c.core (.rule c.slot c.bank) 0 8192).tapeList g c a (upTo nb) with
    | .error (f, s) => (failStatus f, s)
    | .ok (vs, s) =>
      if 4 ≤ (s.part c.part).tapes.length || vs.eraseDups.length != vs.length then (1, s)
      else
        let tap := s.anyTap c vs
        let s := tap.2
        let head := r.ver + c.slot * 2 ^ 16 + wfield c.w0 48 8 * 2 ^ 32 + nb * 2 ^ 40 + recordBytes r * 2 ^ 64
        if tap.1 then (1, s)
        else match s.cmdPut g c ((a, 64, head) :: (upTo nb).map (fun b => (a + 0x40 + 8 * b, 8, vs.getD b 0))) with
          | .error (f, s) => (failStatus f, s)
          | .ok s => (s.modPart c.part (fun q => { q with tapes := q.tapes ++ [(a, c.cid, vs)] })).setTaps c vs

/-- RLTAPE_COMPLETION. -/
def execRltapeCompletion (k : Nat) (s : State) : Answer :=
  match s.cmdBy k with
  | none => .next s
  | some c =>
    if c.op != 2 || c.posted then .next s
    else
      let r := s.makeTape c
      .next (r.2.finishCmd c (shortDone 4 r.1 0 c.slot c.tag (c.w3.toNat % 512)))

/-! ### The reverse sweep (R241) -/

/-- ActD. -/
def fActD (a z : Nat) : Nat :=
  if a = 0 then fOne
  else if a = 1 then (if fLess 0 z then fOne else 0)
  else
    let q := fAdd fOne (fAbs z)
    fDiv fOne (fMul q q)

/-- Dot′: the chain over the neurons above of the weights of their column `j`. -/
def colDot (rows : List (List Nat)) (e : List Nat) (j : Nat) : Nat := fDot (rows.map (fun r => r.getD j 0)) e 0

/-- A layer's weights as rows. -/
def layerRows (m : Mem) (base h n : Nat) : List (List Nat) := (upTo h).map (fun j => weightRow m (base + j * n) n)

/-- What a layer with errors `e` adds to the gradient: weight index and value. -/
def layerAdds (base n : Nat) (e inp : List Nat) : List (Nat × Nat) :=
  (upTo e.length).flatMap (fun j => (upTo n).map (fun i => (base + j * n + i, fMul (e.getD j 0) (inp.getD i 0))))
    ++ (upTo e.length).map (fun j => (base + e.length * n + j, e.getD j 0))

/-- Goes down through the hidden layers, top first: each with its first weight, inputs, activation and sums. The additions,
and the first layer's rows with its errors. -/
def sweepDown (m : Mem) (rows : List (List Nat)) (e : List Nat) :
    List (Nat × List Nat × Nat × List Nat) → List (Nat × Nat) × List (List Nat) × List Nat
  | [] => ([], rows, e)
  | (base, inp, a, z) :: lower =>
    let e' := (upTo z.length).map (fun j => fMul (colDot rows e j) (fActD a (z.getD j 0)))
    let r := sweepDown m (layerRows m base z.length inp.length) e' lower
    (layerAdds base inp.length e' inp ++ r.1, r.2)

/-- The hidden layers of a record, top first, with the output layer's first weight and inputs. -/
def recordLayers : List (Nat × Nat) → Nat → List Nat → List (List Nat) →
    List (Nat × List Nat × Nat × List Nat) → List (Nat × List Nat × Nat × List Nat) × Nat × List Nat
  | (h, a) :: ls, base, inp, z :: zs, acc =>
    recordLayers ls (base + h * inp.length + h) (z.map (fAct a)) zs ((base, inp, a, z) :: acc)
  | _, base, inp, _, acc => (acc, base, inp)

/-- The sums of the hidden layers in a record, after its inputs. -/
def recordSums (v : List Nat) : List (Nat × Nat) → List (List Nat)
  | [] => []
  | (h, _) :: ls => v.take h :: recordSums (v.drop h) ls

/-- The sweep over one record: the additions, the new aw and ad. [DEDUCED, log 64] -/
def sweepRecord (m : Mem) (r : Rule) (v : List Nat) (aw ad : Nat) : List (Nat × Nat) × Nat × Nat :=
  let hs := (r.layers.map (·.1)).foldl (· + ·) 0
  let zo := v.getD (r.nin + hs) 0
  let flg := v.getD (r.nin + hs + 1) 0
  let a := fAdd aw ad
  if flg != 0 then ([], aw, 0)
  else
    let x := v.take r.nin
    let q := recordLayers r.layers 0 x (recordSums (v.drop r.nin) r.layers) []
    let eo := fMul (fMul a r.etaOut) (fActD r.acto zo)
    let n := q.2.2.length
    let d := sweepDown m (layerRows m q.2.1 1 n) [eo] q.1
    let ax (s : Nat) : Nat := colDot d.2.1 d.2.2 s
    let at' (f : Nat) : List Nat := (upTo r.nin).filter (fun s => r.feat.getD s 0 == f)
    (layerAdds q.2.1 n [eo] q.2.2 ++ d.1, (at' 5).foldl (fun w s => fAdd w (ax s)) aw,
      (at' 6).foldl (fun w s => fAdd w (ax s)) 0)

/-- The 4-byte codes of `n` words from an address, read through an agent in pieces. -/
def State.readCodes (s : State) (g : Agent) (c : RuleCmd) (va : Nat) : Nat → Except CStop (List Nat × State)
  | 0 => .ok ([], s)
  | n + 1 =>
    match s.cmdRead g c va 4 with
    | .error e => .error e
    | .ok (x, s) =>
      match s.readCodes g c (va + 4) n with
      | .error e => .error e
      | .ok (l, s) => .ok (x :: l, s)

/-- Adds into a gradient list. -/
def addInto (mg : List Nat) (adds : List (Nat × Nat)) : List Nat :=
  adds.foldl (fun l kv => l.set kv.1 (fAdd (l.getD kv.1 0) kv.2)) mg

/-- The adjoints of every parameter: block by block, aw and ad. -/
abbrev Adjoints := List (List (Nat × Nat))

/-- One step of the sweep: records in ascending block and parameter. `recs` gives a record's words. -/
def sweepStep (m : Mem) (r : Rule) (recs : List (List (List Nat))) (adj : Adjoints) (mg : List Nat) : Adjoints × List Nat :=
  (recs.zip adj).foldl (fun acc ba =>
    let row := (ba.1.zip ba.2).foldl (fun (st : List (Nat × Nat) × List Nat) va =>
      let q := sweepRecord m r va.1 va.2.1 va.2.2
      (st.1 ++ [(q.2.1, q.2.2)], addInto st.2 q.1)) ([], acc.2)
    (acc.1 ++ [row.1], row.2)) ([], mg)

/-- Reads what a list of reads names: address and number of 4-byte codes. -/
def State.readAllCodes (s : State) (g : Agent) (c : RuleCmd) : List (Nat × Nat) → Except CStop (List (List Nat) × State)
  | [] => .ok ([], s)
  | (va, n) :: rs =>
    match s.readCodes g c va n with
    | .error e => .error e
    | .ok (l, s) =>
      match s.readAllCodes g c rs with
      | .error e => .error e
      | .ok (ls, s) => .ok (l :: ls, s)

/-- Cuts a list into rows of the given lengths. -/
def rowsOf {α : Type} (l : List α) : List Nat → List (List α)
  | [] => []
  | n :: ns => l.take n :: rowsOf (l.drop n) ns

/-- The headers of a tape's blocks: their ACT. -/
def State.tapeActs (s : State) (c : RuleCmd) : List Nat → Except CStop (List Nat × State)
  | [] => .ok ([], s)
  | va :: vs =>
    match s.openHead c va false with
    | .error e => .error e
    | .ok ((_, h), s) =>
      match s.tapeActs c vs with
      | .error e => .error e
      | .ok (as, s) => .ok (bits h 0 11 :: as, s)

/-- The sweep of steps `n - 1` down to 0. [DEDUCED, log 64] -/
def State.sweep (s : State) (c : RuleCmd) (m : Mem) (r : Rule) (a : Nat) (acts : List Nat) :
    Nat → Adjoints → List Nat → Except CStop (List Nat × State)
  | 0, _, mg => .ok (mg, s)
  | t + 1, adj, mg =>
    let size := recordBytes r
    let nb := acts.length
    let base (b i : Nat) : Nat := a + tapeStart nb + ((t * nb + b) * 1024 + i) * size
    let reads := (upTo nb).flatMap (fun b => (upTo (acts.getD b 0)).map (fun i => (base b i, size / 4)))
    match s.readAllCodes (tapeAgent c a) c reads with
    | .error e => .error e
    | .ok (vs, s) =>
      let q := sweepStep m r (rowsOf vs acts) adj mg
      s.sweep c m r a acts t q.1 q.2

/-- The number of weights of a rule. -/
def weightCount (r : Rule) : Nat :=
  let q := r.layers.foldl (fun (acc : Nat × Nat) l => (acc.1 + l.1 * acc.2 + l.1, l.1)) (0, r.nin)
  q.1 + q.2 + 1

/-- A tape's header, as 64 bytes, that an RLREV for a slot refuses as ill-formed (R240, R254). -/
def tapeBad (h slot : Nat) : Bool :=
  let nb := bits h 40 16
  bits h 16 3 != slot || nb == 0 || decide (256 < nb) || decide (64 < bits h 24 8) || bits h 19 5 != 0 || bits h 57 7 != 0
    || bits h 96 416 != 0

/-- Runs an RLREV: status, records swept, state. An ill-formed tape changes nothing; any other that is read is deregistered (R257). Of
several refusals the first of MIXED, VERSION and ILLFORM is reported, ILLFORM also for a bank that holds VER with an ill-formed header and
for a RECB that is not that of its rule. [DEDUCED, log 64] -/
def State.reverse (s : State) (c : RuleCmd) : Nat × Nat × State :=
  let a := c.w1.toNat
  let g := tapeAgent c a
  let pre := s.rulePre c
  let fail (f : CStop) : Nat × Nat × State := (failStatus f.1, 0, f.2)
  if pre != 0 then (pre, 0, s.preTold c pre)
  else match s.cmdRead g c a 64 with
    | .error f => fail f
    | .ok (h, s) =>
      let nb := bits h 40 16
      let n := bits h 24 8
      if tapeBad h c.slot then (1, 0, s)
      else
      let s := s.modPart c.part (fun q => { q with tapes := q.tapes.filter (fun t => t.1 != a || t.2.1 != c.cid) })
      let z := s.rule c.slot
      let bank := if imageVer (z.image z.active) = bits h 0 16 then z.active else !z.active
      let m := z.image bank
      let r := ruleOf m
      if bits h 56 1 = 1 then (6, 0, s)
      else if imageVer m != bits h 0 16 then (7, 0, s)
      else if n = 0 || !(imageOk m) || bits h 64 32 != recordBytes r then (1, 0, s)
      else if s.hardErr (.rule c.slot bank) 0 8192 then fail ((11, 0, a), s.taintCmd c)
      else match (s.correct c.core (.rule c.slot bank) 0 8192).tapeList g c a (upTo nb) with
        | .error f => fail f
        | .ok (vs, s) =>
          match s.tapeActs c vs with
          | .error f => fail f
          | .ok (acts, s) =>
            let reads := (upTo nb).map (fun b => ((c.w2.toNat + 4096 * b) % 2 ^ 64, acts.getD b 0))
            match s.readAllCodes g c reads with
            | .error f => fail f
            | .ok (dl, s) =>
              match s.readCodes g c c.w3.toNat (weightCount r) with
              | .error f => fail f
              | .ok (mg, s) =>
                match s.sweep c m r a acts n (dl.map (fun l => l.map (fun x => (x, 0)))) mg with
                | .error f => fail f
                | .ok (mg, s) =>
                  match s.cmdPut g c ((upTo mg.length).map (fun k => (c.w3.toNat + 4 * k, 4, mg.getD k 0))) with
                  | .error f => fail f
                  | .ok s => (0, n * acts.foldl (· + ·) 0, s)

/-- RLREV_COMPLETION. -/
def execRlrevCompletion (k : Nat) (s : State) : Answer :=
  match s.cmdBy k with
  | none => .next s
  | some c =>
    if c.op != 3 || c.posted then .next s
    else
      let r := s.reverse c
      .next (r.2.2.finishCmd c (shortDone 5 r.1 0 c.slot c.tag r.2.1))

/-! ### The instructions (R255 to R263) -/

/-- The effect of a form that pushes a rule record: OP from the minor, X added to w1. It waits for room before it reads. -/
def ruleFormEff (op : Nat) : Eff := fun o v s =>
  match s.recordWhen (effAddr o v) (s.ruleRoom s.cur op) with
  | .error e => .error e
  | .ok (w, s) =>
    match s.pushRule s.cur s.ctx [wput (w.getD 0 0) 56 8 op, w.getD 1 0 + v.x.s, w.getD 2 0, w.getD 3 0] false with
    | .error e => .error e
    | .ok s => Done.plain s

/-- RLUPD's effect. -/
def effRlupd : Eff := ruleFormEff 1
/-- RLUPD. -/
def execRlupd (e : Fields) (s : State) : Answer := .next (s.issue (.rlupd e) effRlupd)
/-- RLTAPE's effect. -/
def effRltape : Eff := ruleFormEff 2
/-- RLTAPE. -/
def execRltape (e : Fields) (s : State) : Answer := .next (s.issue (.rltape e) effRltape)
/-- RLREV's effect. -/
def effRlrev : Eff := ruleFormEff 3
/-- RLREV. -/
def execRlrev (e : Fields) (s : State) : Answer := .next (s.issue (.rlrev e) effRlrev)

/-- RLSTAT's effect. -/
def effRlstat : Eff := fun _ _ s =>
  let held := (s.cmds.filter (fun c => c.core == s.cur && c.held)).length
  Done.result s (.s (BitVec.ofNat 64 (s.ruleOut s.cur + held * 2 ^ 8 + s.me.asmR.isSome.toNat * 2 ^ 14)))
/-- RLSTAT. -/
def execRlstat (e : Fields) (s : State) : Answer := .next (s.issue (.rlstat e) effRlstat)

/-- The running core's partition owns a slot. -/
def State.ownsSlot (s : State) (n : Nat) : Bool := (s.part s.myPart).rls.getLsbD n

/-- RLVER's word. -/
def slotWord (z : Slot) : Word :=
  BitVec.ofNat 64 (imageVer (z.image z.active) + imageVer (z.image (!z.active)) * 2 ^ 16 + z.active.toNat * 2 ^ 32
    + z.pend.toNat * 2 ^ 33 + z.ref.toNat * 2 ^ 34 + 2 ^ 35)

/-- Reads the first `n` bytes of the image in each bank of a slot that `which` names: an uncorrectable error poisons the core, a correctable
one is corrected (R359, R361). -/
def State.readImages (s : State) (slot n : Nat) (which : List Bool) : Except Stop State :=
  if which.any (fun b => s.hardErr (.rule slot b) 0 n) then .error (.poison s)
  else .ok (which.foldl (fun s b => s.correct s.cur (.rule slot b) 0 n) s)

/-- RLVER's effect. -/
def effRlver : Eff := fun _ v s =>
  let n := wfield v.y.s 0 3
  if !(s.ownsSlot n) then Done.result s (.s 0)
  else match s.readImages n 8 [false, true] with
    | .error e => .error e
    | .ok s => Done.result s (.s (slotWord (s.rule n)))
/-- RLVER. -/
def execRlver (e : Fields) (s : State) : Answer := .next (s.issue (.rlver e) effRlver)

/-- RLSW's code and the slot afterwards (R262). [DEDUCED, log 65] -/
def switchSlot (z : Slot) : Nat × Slot :=
  if z.pend then (3, { z with pend := false, spoiled := false })
  else if !(imageOk (z.image (!z.active))) then (1, z)
  else if imageVer (z.image (!z.active)) = imageVer (z.image z.active) then (2, z)
  else (0, { z with pend := true, ref := false, spoiled := false })

/-- RLSW's effect: without a switch pending it reads the header in the bank that is not active, and, where that is well-formed, VER of the
other. [DEDUCED, log 65] -/
def effRlsw : Eff := fun _ v s =>
  let n := wfield v.y.s 0 3
  if !(s.ownsSlot n) then .error privTrap
  else
    let z := s.rule n
    let r := switchSlot z
    let read : Except Stop State :=
      if z.pend then .ok s
      else match s.readImages n 0x100 [!z.active] with
        | .error e => .error e
        | .ok t => if r.1 = 1 then .ok t else t.readImages n 8 [z.active]
    match read with
    | .error e => .error e
    | .ok s => Done.result (s.modRule n (fun _ => r.2)) (.s (BitVec.ofNat 64 r.1))
/-- RLSW. -/
def execRlsw (e : Fields) (s : State) : Answer := .next (s.issue (.rlsw e) effRlsw)

/-- A rule word within its limits (R263). -/
def ruleWordOk (w : Word) (bsel : Bool) : Bool :=
  let len := wfield w 16 14
  let off := wfield w 0 13
  wfield w 31 33 == 0 && (bsel || !w.getLsbD 30) && len % 8 == 0 && decide (8 ≤ len) && decide (len ≤ 8192) && off % 8 == 0
    && decide (off + len ≤ 8192)

/-- RLWR's effect: a write that merges into a line with an uncorrectable error meets it. [DEDUCED, log 55] -/
def effRlwr : Eff := fun _ v s =>
  let w := v.y.s
  let n := wfield w 13 3
  if !(ruleWordOk w false) then .error (.trap { cls := 0x0C, sub := 1, info := w })
  else if !(s.ownsSlot n) then .error privTrap
  else match s.loadNear v.x.s.toNat (wfield w 16 14) with
    | .error e => .error e
    | .ok (x, s) =>
      let st : Store := .rule n (!(s.rule n).active)
      if s.partBad st (wfield w 0 13) (wfield w 16 14) then .error (.poison s)
      else Done.plain (((s.partFix s.cur st (wfield w 0 13) (wfield w 16 14)).modRule n (fun z =>
        { z.setImage (!z.active) (bwrite (z.image (!z.active)) (wfield w 0 13) (wfield w 16 14) x) with
          spoiled := z.spoiled || z.pend })).clearErr st (wfield w 0 13) (wfield w 16 14))
/-- RLWR. -/
def execRlwr (e : Fields) (s : State) : Answer := .next (s.issue (.rlwr e) effRlwr)

/-- A store of `n` bytes that must lie in local or cluster memory and be 8-byte aligned. -/
def State.storeNear (s : State) (ea n v : Nat) : Except Stop State :=
  match spaceOf ea n with
  | some .loc => if ea % 8 != 0 then .error (addrFault 2 ea) else s.store ea n false v
  | some .clu => if ea % 8 != 0 then .error (addrFault 2 ea) else s.store ea n false v
  | _ => .error (addrFault 1 ea)

/-- RLRD's effect. -/
def effRlrd : Eff := fun _ v s =>
  let w := v.y.s
  let n := wfield w 13 3
  if !(ruleWordOk w true) then .error (.trap { cls := 0x0C, sub := 1, info := w })
  else if !(s.ownsSlot n) then .error privTrap
  else
    let z := s.rule n
    let bank := if w.getLsbD 30 then !z.active else z.active
    match s.storeNear v.x.s.toNat (wfield w 16 14) (bread (z.image bank) (wfield w 0 13) (wfield w 16 14)) with
    | .error e => .error e
    | .ok t =>
      if s.hardErr (.rule n bank) (wfield w 0 13) (wfield w 16 14) then .error (.poison s)
      else Done.plain (t.correct s.cur (.rule n bank) (wfield w 0 13) (wfield w 16 14))
/-- RLRD. -/
def execRlrd (e : Fields) (s : State) : Answer := .next (s.issue (.rlrd e) effRlrd)

/-- The banks of a partition's slots exchange at a device-domain boundary (R239): an RLSW that an RLWR has spoiled is
refused. -/
def State.exchange (s : State) (q : Nat) : State :=
  ((upTo 8).filter (fun n => (s.part q).rls.getLsbD n)).foldl (fun s n => s.modRule n (fun z =>
    if !z.pend then z
    else if z.spoiled then { z with pend := false, spoiled := false, ref := true }
    else { z with pend := false, active := !z.active })) s

end Sys2Proof.Machine
end

