-- ==== Sys2Proof/Machine/Digest.lean ====
section
/-! DEFINITION. Digests (R264 to R268, R344 to R349): RDREG, RDGET and RDCMP, the comparison and the update gate, and the
collectives (R357, R382). -/

namespace Sys2Proof.Machine

/-! ### The digest of a partition (R265, R346) -/

/-- D: the sum over the home slices. -/
def State.digest (s : State) (q : Nat) : BitVec 128 := (upTo 32).foldl (fun a z => a + (s.slice z).sum q) 0

/-- The registered blocks of a partition. -/
def State.registered (s : State) (q : Nat) : Nat :=
  ((upTo 32).map (fun z => ((s.slice z).dig.filter (fun e => e.part == q)).length)).foldl (· + ·) 0

/-- RDGET's effect. -/
def effRdget : Eff := fun _ _ s =>
  let q := s.myPart
  Done.result s (.v (BitVec.ofNat 512 ((s.digest q).toNat + s.registered q * 2 ^ 128)))
/-- RDGET. -/
def execRdget (e : Fields) (s : State) : Answer := .next (s.issue (.rdget e) effRdget)

/-- RDREG's effect. -/
def effRdreg : Eff := ruleFormEff 0x10
/-- RDREG. -/
def execRdreg (e : Fields) (s : State) : Answer := .next (s.issue (.rdreg e) effRdreg)

/-- RDCMP's effect. -/
def effRdcmp : Eff := ruleFormEff 0x12
/-- RDCMP. -/
def execRdcmp (e : Fields) (s : State) : Answer := .next (s.issue (.rdcmp e) effRdcmp)

/-! ### RDREG_COMPLETION (R264, R344, R346) -/

/-- ON. -/
def RuleCmd.on (c : RuleCmd) : Bool := c.w0.getLsbD 48

/-- An RDREG record that breaks R264. -/
def RuleCmd.regBad (c : RuleCmd) : Bool := c.bad || wfield c.w0 49 7 != 0 || wfield c.w0 32 16 != 0 || !(rangeOk c)

/-- Writes DIG of a block's header. -/
def State.setDig (s : State) (va pa h : Nat) (on : Bool) : State :=
  s.gwrite [{ va := va, pa := pa, n := 64 }] (withBits h 65 1 on.toNat)

/-- A block's header page, before anything is asked of the block: its physical address, which no slice serves in host memory (R228). The
table is looked at first: a block that is already as it is wanted, or that a full table cannot take, is left alone, whatever its planes
hold (R346). -/
def State.headOf (s : State) (c : RuleCmd) (va : Nat) : Except CStop (Nat × State) :=
  if !(blockPlaced va) then .error ((20, 0, va), s)
  else match s.translate (dieOf c.core) c.cid va 2 with
    | .error k => .error ((k.1, 2, va), s.cmdFailBy (reuAgent (xlatSlice (dieOf c.core) va) c) c (k.1, 2, va))
    | .ok (pa, s) => if tierOf pa = .host then .error ((21, 2, va), s) else .ok (pa, s)

/-- Registers a block: whether its state changed. The planes that the hash covers are read, and no other. -/
def State.register (s : State) (c : RuleCmd) (key : BitVec 128 × BitVec 128) (va : Nat) : Except CStop (Bool × State) :=
  match s.headOf c va with
  | .error f => .error f
  | .ok (pa, s) =>
    let sl := ownerOf pa
    if ((s.slice sl).digestOf c.part va).isSome then .ok (false, s)
    else if 65536 ≤ (s.slice sl).dig.length then .error ((20, 0, va), s)
    else match s.openPlanes c va 2 [0, 1, 3, 4, 5] [0] with
      | .error f => .error f
      | .ok ((pa, h), s) =>
        let act := bits h 0 11
        let x := blockHash key va (bits h 48 16) act [s.plane pa 1 act, s.plane pa 3 act, s.plane pa 4 act, s.plane pa 5 act]
        let s := s.modSlice sl (fun z =>
          { z with dig := z.dig ++ [{ part := c.part, page := va / 4096, h := x, cid := c.cid }],
                   dsum := mset z.dsum c.part (z.sum c.part + x) })
        .ok (true, s.setDig va pa h true)

/-- Deregisters a block, whatever its header holds: whether its state changed. [DEDUCED, log 66] -/
def State.deregister (s : State) (c : RuleCmd) (va : Nat) : Except CStop (Bool × State) :=
  match s.headOf c va with
  | .error f => .error f
  | .ok (pa, s) =>
    let sl := ownerOf pa
    match (s.slice sl).digestOf c.part va with
    | none => .ok (false, s)
    | some e =>
      match s.planesBar c va pa 0 [0] [0] with
      | some t => .error ((8, 2, va), s.refuseAt t)
      | none =>
      if s.hardErr .phys pa 64 then .error ((11, 0, va), s.taintCmd c)
      else
        let s := (s.correct c.core .phys pa 64).modSlice sl (fun z =>
          { z with dig := z.dig.filter (fun f => !(f.part == c.part && f.page == va / 4096)),
                   dsum := mset z.dsum c.part (z.sum c.part - e.h) })
        .ok (true, s.setDig va pa (bread s.phys pa 64) false)

/-- Serves the blocks of an RDREG one by one: status, blocks changed, state. -/
def State.regBlocks (s : State) (c : RuleCmd) (key : BitVec 128 × BitVec 128) : List Nat → Nat × Nat × State
  | [] => (0, 0, s)
  | n :: ns =>
    let va := blockVa c.w1 c.w2 n
    match (if c.on then s.register c key va else s.deregister c va) with
    | .error (f, s) =>
      let r := s.regBlocks c key ns
      (lowStatus (failStatus f) r.1, r.2)
    | .ok (b, s) =>
      let r := s.regBlocks c key ns
      (r.1, r.2.1 + b.toNat, r.2.2)

/-- RDREG_COMPLETION: the blocks of RDREG `k` change state and its completion is posted. -/
def execRdregCompletion (k : Nat) (s : State) : Answer :=
  match s.cmdBy k with
  | none => .next s
  | some c =>
    if c.op != 0x10 || c.posted then .next s
    else
      let r : Nat × Nat × State :=
        if c.regBad then (1, 0, s)
        else match (s.part c.part).key with
          | some key => s.regBlocks c key (upTo c.nb)
          | none => if c.on then (3, 0, s) else s.regBlocks c (0, 0) (upTo c.nb)
      .next (r.2.2.finishCmd c (shortDone 6 r.1 0 0 c.tag r.2.1))

/-! ### RDCMP_END (R266 to R268, R348, R349) -/

/-- RANK. -/
def RuleCmd.rank (c : RuleCmd) : Nat := wfield c.w2 0 6

/-- N. -/
def RuleCmd.n (c : RuleCmd) : Nat := wfield c.w2 8 6 + 1

/-- STEP of an RDCMP, COUNT of a collective. -/
def RuleCmd.high (c : RuleCmd) : Nat := wfield c.w2 32 32

/-- The fields that RDCMP and the collectives share are in order. -/
def RuleCmd.groupOk (c : RuleCmd) : Bool :=
  wfield c.w1 32 32 == 0 && wfield c.w2 6 2 == 0 && wfield c.w2 14 18 == 0 && decide (c.rank < c.n)

/-- An RDCMP record that breaks R266. -/
def RuleCmd.cmpBad (c : RuleCmd) : Bool :=
  !c.groupOk || wfield c.w0 32 24 != 0 || c.w3 != 0

/-- GROUP is granted to the command's partition (R375, R382). -/
def State.groupGranted (s : State) (c : RuleCmd) : Bool := (s.granted c.part (wfield c.w1 0 32) [4]).isSome

/-- The collective that a command is part of: its partition, GROUP and TAG (R382). -/
def RuleCmd.collKey (c : RuleCmd) : Nat × BitVec 32 × BitVec 32 :=
  (c.part, BitVec.ofNat 32 (wfield c.w1 0 32), BitVec.ofNat 32 c.tag)

/-- The collective that a member's part belongs to. -/
def Peer.collKey (p : Peer) : Nat × BitVec 32 × BitVec 32 := (p.part, p.group, p.tag)

/-- What the other members of a command have sent. [DEDUCED, log 66] -/
def State.peersOf (s : State) (c : RuleCmd) : List Peer := s.peers.filter (fun p => p.collKey == c.collKey)

/-- A member has aborted a command. -/
def State.aborted (s : State) (c : RuleCmd) : Bool := s.aborts.contains c.collKey

/-- A command's transport has failed. [DEDUCED, log 42] -/
def State.netFailed (s : State) (c : RuleCmd) : Bool := s.netErrs.contains c.collKey

/-- A collective ends here: what was received for it is forgotten, and that it has ended is kept (R380). -/
def State.endColl (s : State) (c : RuleCmd) : State :=
  { s with peers := s.peers.filter (fun p => p.collKey != c.collKey), aborts := s.aborts.filter (fun a => a != c.collKey),
           netErrs := s.netErrs.filter (fun a => a != c.collKey), collEnds := s.collEnds ++ [c.collKey] }

/-! ### Ethernet ports (R14, R67, R381, R382) -/

/-- The target that refuses what a master sends for a partition to a port: the Sahdan endpoint of the master's row, where it crosses, or the
port; none when both admit it as a write (R15, R67, R383). [DEDUCED, log 61, 82] -/
def State.portBars (s : State) (master part port : Nat) : Option Nat :=
  if port / 4 != master / 4096 % 2 && !((s.rowOf (0x4000 + masterLane master) master).any (fun r => r.right 1)) then
    some (0x4000 + masterLane master)
  else if (s.rowOf (0x2000 + port) master).any (fun r => r.part == part && r.w) then none
  else some (0x2000 + port)

/-- The send queue of a number, as firmware has set it; one that it has not set stands at its own port (R381). [DEDUCED, log 61] -/
def State.queueOf (s : State) (n : Nat) : SendQueue := mget { peer := n, port := n / 64 % 8 } s.queues n

/-- The number of the group that a command's handle names (R375, R382). -/
def State.groupNo (s : State) (c : RuleCmd) : Option Nat := (s.granted c.part (wfield c.w1 0 32) [4]).map (·.2)

/-- The other members of a group, as firmware has set them: by rank, with what leads to each (R382). -/
def State.groupPeers (s : State) (g rank : Nat) : List SendQueue :=
  ((mget { members := [] } s.groups g).members.filter (fun m => m.1 != rank)).map (·.2)

/-- The port that serves a command's group: that of its first other member; of a group without members, the one that its number gives
(R14, R68). [DEDUCED, log 67] -/
def State.groupPort (s : State) (c : RuleCmd) : Nat :=
  match s.groupNo c with
  | none => 0
  | some g => match s.groupPeers g c.rank with
    | m :: _ => m.port % 8
    | [] => g % 8

/-- The target that refuses what a command's core sends to the port of its group; none when it sends nothing. [DEDUCED, log 67] -/
def State.collBars (s : State) (c : RuleCmd) : Option Nat :=
  if c.n ≤ 1 || (s.groupNo c).isNone then none
  else s.portBars (masterOf (clusterOf c.core) (cidxOf c.core)) c.part (s.groupPort c)

/-- Such a refusal is counted (R67). -/
def State.collTold (s : State) (c : RuleCmd) : State :=
  match s.collBars c with
  | some t => s.refuseAt t
  | none => s

/-- A command has still to write back (R266 step 1): RLUPDs that the gate holds or refuses write nothing. -/
def State.mustWrite (s : State) (d : RuleCmd) : Bool :=
  d.op != 0x12 && !d.posted && !d.held && !d.gated
    && !(d.op == 1 && (d.done.length == d.nb || s.rulePre d != 0)) && !d.ready

/-- The outcome of a comparison from the pairs of the ranks: STATUS, BITMAP and the digest reported. [DEDUCED, log 66] -/
def compare (c : RuleCmd) (own : BitVec 128) (ps : List Peer) : Nat × Nat × BitVec 128 :=
  let mine := (own, c.high)
  let all := (c.rank, mine) :: ps.map (fun p => (p.rank, p.pair))
  let votes (x : BitVec 128 × Nat) : Nat := (all.filter (fun r => r.2 == x)).length
  match all.find? (fun r => decide (c.n < 2 * votes r.2)) with
  | none => (3, 2 ^ c.n - 1, own)
  | some m =>
    let map := ((all.filter (fun r => r.2 != m.2)).map (fun r => 2 ^ r.1)).foldl (· + ·) 0
    (if map = 0 then 0 else if mine == m.2 then 1 else 2, map, m.2.1)

/-- The members that have answered do not fit together: their N differ, or two have the same RANK, or one has none of the N. -/
def RuleCmd.unlike (c : RuleCmd) (ps : List Peer) : Bool :=
  let ranks := c.rank :: ps.map (·.rank)
  ps.any (fun p => p.n != c.n || decide (c.n ≤ p.rank)) || ranks.eraseDups.length != ranks.length

/-- How an RDCMP that has taken its digest ends; none while it waits for its peers. [DEDUCED, log 66] -/
def State.compared (s : State) (c : RuleCmd) (own : BitVec 128) : Option (Nat × Nat × BitVec 128) :=
  let ps := s.peersOf c
  if c.cmpBad || c.unlike ps then some (6, 0, own)
  else if !(s.groupGranted c) || (s.collBars c).isSome then some (7, 0, own)
  else if s.aborted c then some (4, 0, own)
  else if s.netFailed c then some (5, 0, own)
  else if ps.length < c.n - 1 then none
  else some (compare c own ps)

/-- What a completion appended to the message spill buffer of the save area at `base` writes (R337). -/
def Core.spillItem (c : Core) (base : Nat) (e : MailEntry) : List (Nat × Nat × Nat) :=
  let head := c.wordAt (base + 0x1000) 0
  let n := wfield head 0 6
  let size := wfield head 32 32
  let head' := wput (wput head 0 6 (n + 1)) 32 32 (size + entryBytes e.len)
  [(0x100 + size, 8, (descriptor [e]).toNat), (0x108 + size, 8 * ceilDiv e.len 8, e.body.toNat), (0, 8, head'.toNat)]

/-- Enters an RDCMP's completion in the room reserved for it: the mailbox, or the spill buffer of the context that pushed it once
that context has been saved (R266, R337), which from then on belongs to its image. -/
def State.enterReserved (s : State) (d : RuleCmd) (e : MailEntry) : State :=
  let p := d.core
  match d.spill with
  | some b =>
    let ws := (s.core p).spillItem b.2 e
    if s.silent p then s
    else if s.piecesBad p (b.2 + 0x1000) ws then s.poisonCore p
    else
      let t := s.putPieces p (b.2 + 0x1000) ws
      { t with saves := t.saves.map (fun (i : SaveImage) => if i.no == b.1 then { i with area := areaCells (t.core p).mem b.2 } else i) }
  | none =>
    let s := s.modCore p (fun c => { c with resv := c.resv.erase e.len })
    if s.silent p then s else s.modCore p (fun c => { c with mbox := c.mbox ++ [e] })

/-- The DIVERGE entry of the context that pushed an RDCMP, taken when it resumes where it has been saved (R322); a group that has
ended takes none. -/
def State.divergeIn (s : State) (d : RuleCmd) (st : Nat) : State :=
  let e := (d.ctx, st, BitVec.ofNat 32 d.tag)
  match d.spill with
  | some b => { s with saves := s.saves.map (fun (i : SaveImage) => if i.no == b.1 then { i with diverge := i.diverge ++ [e] } else i) }
  | none => s.modCore d.core (fun c =>
    if c.group.map (fun g => (g.launch, g.index)) == d.grp then { c with diverge := c.diverge ++ [e] } else c)

/-- What an ending does to the gate, and to the RLUPDs it holds (R348, R349): `shut` is the state it sets, none where it sets
none. [DEDUCED, log 66] -/
def State.settleGate (s : State) (q : Nat) (shut : Option Bool) : State :=
  let now := shut.getD (s.part q).shut
  let s := s.modPart q (fun x => { x with shut := now })
  let mine (d : RuleCmd) : Bool := d.part == q && d.held
  if shut == some true || (now && s.rdcmps q == 0) then
    { s with cmds := s.cmds.map (fun d => if mine d then { d with held := false, gated := true } else d) }
  else if s.rdcmps q = 0 then { s with cmds := s.cmds.map (fun d => if mine d then { d with held := false } else d) }
  else s

/-- The completion of an RDCMP (R259, R268). -/
def RuleCmd.cmpDone (c : RuleCmd) (st map : Nat) (d : BitVec 128) : MailEntry :=
  eventEntry 32 (8 + st * 2 ^ 8 + (c.n - 1) * 2 ^ 16 + c.rank * 2 ^ 24 + c.tag * 2 ^ 32
    + map % 2 ^ 64 * 2 ^ 64 + d.toNat * 2 ^ 128)

/-- RDCMP `c` ends. -/
def State.endCompare (s : State) (c : RuleCmd) (st map : Nat) (d : BitVec 128) : State :=
  let s := if st = 7 then s.collTold c else s
  let s := (((s.endColl c).dropCmd c.id).enterReserved c (c.cmpDone st map d)).settleGate c.part (some (decide (2 ≤ st)))
  let s := s.modPart c.part (fun x => { x with lastStep := (c.high, st == 0) })
  if st = 2 || st = 3 then
    (s.divergeIn c st).postSup (s.supOf c.part) (eventEntry 24 (9 + st * 2 ^ 8 + c.tag * 2 ^ 32
      + c.high * 2 ^ 64 + map % 2 ^ 64 * 2 ^ 128))
  else s

/-- RDCMP_END: RDCMP `k` takes its digest once every earlier command of the partition has written back; then, once its peers
have sent their pairs, it ends. One whose bytes 32 to 63 are not zero ends with STATUS 1 and does nothing else: the gate stays as it
is (R255). [DEDUCED, log 66] -/
def execRdcmpEnd (k : Nat) (s : State) : Answer :=
  match s.cmdBy k with
  | none => .next s
  | some c =>
    if c.op != 0x12 || c.posted then .next s
    else if c.bad then .next (((s.dropCmd k).enterReserved c (c.cmpDone 1 0 0)).settleGate c.part none)
    else match c.taken with
      | none =>
        if s.cmds.any (fun d => d.part == c.part && decide (d.id < c.id) && s.mustWrite d) then .next s
        else .next (s.modCmd k (fun d => { d with taken := some (s.digest c.part) }))
      | some own =>
        match s.compared c own with
        | none => .next s
        | some (st, map, d) => .next (s.endCompare c st map d)

/-! ### Collectives (R357, R382) -/

/-- CKIND. -/
def RuleCmd.ckind (c : RuleCmd) : Nat := wfield c.w0 48 8

/-- BF16 elements. -/
def RuleCmd.half (c : RuleCmd) : Bool := wfield c.w0 40 8 == 1

/-- A collective record that is ill-formed. [DEDUCED, log 67] -/
def RuleCmd.collBad (c : RuleCmd) : Bool :=
  c.bad || !c.groupOk || wfield c.w0 32 8 != 0 || decide (2 < c.ckind) || decide (1 < wfield c.w0 40 8) || c.high == 0
    || decide (2 ^ 20 < c.high) || (c.ckind != 0 && c.high % c.n != 0) || wfield c.w3 57 7 != 0 || wfield c.w3 0 2 != 0
    || spaceAt c.w3.toNat != some .glob

/-- The members that have answered a collective do not fit together: as for a comparison, or their COUNT differ. -/
def RuleCmd.unlikeCounts (c : RuleCmd) (ps : List Peer) : Bool := c.unlike ps || ps.any (fun p => p.count != c.high)

/-- The status that a collective has from its record and its peers alone, 0 for none. [DEDUCED, log 67] -/
def State.collPre (s : State) (c : RuleCmd) : Nat :=
  if c.collBad || c.unlikeCounts (s.peersOf c) then 1 else if !(s.groupGranted c) || (s.collBars c).isSome then 3
  else if s.aborted c then 4
  else if s.netFailed c then 5 else 0

/-- The port that serves a collective, as the agent that reads and writes BUF (R68). [DEDUCED, log 67] -/
def State.portAgent (s : State) (c : RuleCmd) : Agent :=
  let port := s.groupPort c
  { die := port / 4, master := port / 4 * 4096 + 179 * 16 + port % 4, cid := c.cid, carried := some c.part }

/-- Bytes of an element. -/
def RuleCmd.elem (c : RuleCmd) : Nat := if c.half then 2 else 4

/-- The elements `i`, `i + 1`, … of BUF. -/
def State.readElems (s : State) (c : RuleCmd) : Nat → Nat → Except CStop (List Nat × State)
  | _, 0 => .ok ([], s)
  | i, n + 1 =>
    match s.cmdRead (s.portAgent c) c (c.w3.toNat + c.elem * i) c.elem with
    | .error e => .error e
    | .ok (x, s) =>
      match s.readElems c (i + 1) n with
      | .error e => .error e
      | .ok (l, s) => .ok (x :: l, s)

/-- Element `i` of each rank in ascending rank order. -/
def rankElems (c : RuleCmd) (own : List Nat) (ps : List Peer) (i : Nat) : List Nat :=
  (upTo c.n).map (fun r =>
    if r = c.rank then own.getD i 0
    else match ps.find? (fun p => p.rank == r) with
      | some p => (p.elems.getD i 0).toNat
      | none => 0)

/-- The rank-order sum. -/
def rankSum (c : RuleCmd) : List Nat → Nat
  | [] => 0
  | x :: xs => xs.foldl (fun a b => ((if c.half then bf16 else fp32).addC 0 a b).1) x

/-- Every member has sent its part. -/
def State.gathered (s : State) (c : RuleCmd) : Bool :=
  let ps := s.peersOf c
  (upTo c.n).all (fun r => r == c.rank || ps.any (fun p => p.rank == r && p.n == c.n))

/-- Runs collective `k` of a kind: a BUF that cannot be read ends it, whatever its peers have sent; otherwise it waits for
them, and `new` gives the element `i` that is written, if one is. [DEDUCED, log 67] -/
def State.collective (s : State) (k kind : Nat) (new : RuleCmd → List Nat → List Peer → Nat → Option Nat) : State :=
  match s.cmdBy k with
  | none => s
  | some c =>
    if c.op != 0x14 || c.ckind != kind || c.posted || c.ready || s.collPre c != 0 then s
    else
      let fail (f : CStop) : State :=
        f.2.modCmd k (fun d => { d with ready := true, status := if f.1.1 = 8 then 3 else 2 })
      match s.readElems c 0 c.high with
      | .error f => fail f
      | .ok (own, t) =>
        if !(s.gathered c) then s
        else
        let ws := (upTo c.high).filterMap (fun i => (new c own (s.peersOf c) i).map (fun x =>
          (c.w3.toNat + c.elem * i, c.elem, x)))
        match t.cmdPut (s.portAgent c) c ws with
        | .error f => fail f
        | .ok t => t.modCmd k (fun d => { d with ready := true })

/-- ALL_REDUCE. -/
def execAllReduce (k : Nat) (s : State) : Answer :=
  .next (s.collective k 0 (fun c own ps i => some (rankSum c (rankElems c own ps i))))

/-- ALL_GATHER: block `r` is rank `r`'s. -/
def execAllGather (k : Nat) (s : State) : Answer :=
  .next (s.collective k 1 (fun c own ps i => (rankElems c own ps i)[i / (c.high / c.n)]?))

/-- REDUCE_SCATTER: this rank's block alone is written. -/
def execReduceScatter (k : Nat) (s : State) : Answer :=
  .next (s.collective k 2 (fun c own ps i =>
    if i / (c.high / c.n) = c.rank then some (rankSum c (rankElems c own ps i)) else none))

/-- COLLECTIVE_COMPLETION: collective `k` has written its elements, or cannot run. One that loses a replica, by PEERABORT or NETERR, shuts
the update gate (R372). [DEDUCED, log 67] -/
def execCollectiveCompletion (k : Nat) (s : State) : Answer :=
  match s.cmdBy k with
  | none => .next s
  | some c =>
    if c.op != 0x14 || c.posted || (!c.ready && s.collPre c == 0) then .next s
    else
      let st := if c.ready then c.status else s.collPre c
      let s := if c.ready then s else s.collTold c
      let s := if st = 4 || st = 5 then s.settleGate c.part (some true) else s
      .next ((s.endColl c).finishCmd c (shortDone 7 st (c.n - 1) c.rank c.tag c.high))

end Sys2Proof.Machine
end

