-- ==== Sys2Proof/Machine/Checkpoint.lean ====
section
/-! DEFINITION. Checkpoints (R294, R368 to R371). -/

namespace Sys2Proof.Machine

/-- Changes a partition's checkpoint record. -/
def State.modCkpt (s : State) (q : Nat) (f : Ckpt → Ckpt) : State := s.modPart q (fun x => { x with ckpt := f x.ckpt })

/-- Checkpoints are configured (R294). -/
def Ckpt.on (c : Ckpt) : Bool := c.ticks != 0 || c.steps != 0

/-- Arms a trigger, or drops and counts it while a checkpoint is being written (R368). -/
def Ckpt.arm (c : Ckpt) : Ckpt := if c.active then { c with dropped := c.dropped + 1 } else { c with armed := true }

/-- First byte of the half being written (R369). -/
def Ckpt.base (c : Ckpt) : Nat := c.region.toNat + c.half * 0x10000000

/-- The checkpoint engine of a home slice (R68). -/
def ckptAgent (sl q : Nat) (cid : BitVec 12) : Agent :=
  { die := sl / 16, master := sl / 16 * 4096 + (160 + sl % 16) * 16 + 14, cid := cid, carried := some q }

/-- A request of a checkpoint engine has failed: a page fault sends the trap message of R66 from the router that its home slice
attaches to (R13), and a refusal is counted (R67). [DEDUCED, log 87] -/
def State.ckptFault (s : State) (g : Agent) (e : GFail) (acc : Nat) : State :=
  let n := g.master % 4096 / 16 - 160
  s.agentFault g (if n < 8 then 0 else 9) (if n < 8 then 2 * n else 2 * (n - 8) + 1) e acc

/-- Writes of a checkpoint engine, stopping at the first failure: whether all were done. -/
def State.ckptPut (s : State) (g : Agent) : List (Nat × Nat × Nat) → Bool × State
  | [] => (true, s)
  | (va, n, v) :: ws =>
    match s.gstore g va n v with
    | .error e => (false, s.ckptFault g e 1)
    | .ok s => s.ckptPut g ws

/-- The registered blocks of a partition in ascending header address, at most 8,184: header address, context ID, owner. -/
def State.ckptBlocks (s : State) (q : Nat) : List (Nat × BitVec 12 × Nat) :=
  let put (m : Map (BitVec 12 × Nat)) (z : Nat) : Map (BitVec 12 × Nat) :=
    ((s.slice z).dig.filter (fun e => e.part == q)).foldl (fun m e => mset m (e.page * 4096) (e.cid, z)) m
  (((upTo 32).foldl put []).map (fun kv => (kv.1, kv.2.1, kv.2.2))).take 8184

/-- The content of a block as it stands, read by the engine of the slice that owns it; a failure's STATUS otherwise. -/
def State.blockNow (s : State) (q va : Nat) (cid : BitVec 12) (sl : Nat) : Except Nat Mem × State :=
  let g := ckptAgent sl q cid
  match s.translate g.die cid va 0 with
  | .error e => (.error 2, s.ckptFault g (e.1, va) 0)
  | .ok (pa, t) =>
    if !(t.mayReach g.master g.carried 0 pa 0x6000) then (.error 2, t.ckptFault g (8, va) 0)
    else if t.hardErr .phys pa 0x6000 then (.error 5, t)
    else
      let t := t.heal .phys pa 0x6000
      (.ok ((t.phys.filter (fun c => decide (pa ≤ c.1) && decide (c.1 < pa + 0x6000))).map (fun c => (c.1 - pa, c.2))), t)

/-- The blocks of a list of (index, entry), read one by one. -/
def State.blocksNow (s : State) (q : Nat) : List (Nat × (Nat × BitVec 12 × Nat)) → List (Nat × Nat × Except Nat Mem) × State
  | [] => ([], s)
  | (b, x) :: l =>
    let r := s.blockNow q x.1 x.2.1 x.2.2
    let t := r.2.blocksNow q l
    ((b, x.2.2, r.1) :: t.1, t.2)

/-- Takes the checkpoint that is armed (R368 to R370): the blocks that this replica writes are captured as they stand, and the
half's VALID is cleared. [DESIGN CHOICE, log 41] -/
def State.takeCkpt (s : State) (q : Nat) : State :=
  let c := (s.part q).ckpt
  let bs := s.ckptBlocks q
  let clean := (s.part q).lastStep.2
  let mine := (upTo bs.length).filter (fun b => !clean || b % (c.rm1 + 1) == c.rank)
  let r := s.blocksNow q (mine.map (fun b => (b, bs.getD b (0, 0, 0))))
  let got := r.1
  let s := r.2
  let todo := got.filterMap (fun x => match x.2.2 with
    | .ok m => some (x.1, x.2.1, m)
    | .error _ => none)
  let st := got.foldl (fun a x => match x.2.2 with
    | .ok _ => a
    | .error k => lowStatus a k) 0
  let vers := ((upTo 8).filter (fun n => (s.part q).rls.getLsbD n)).map (fun n => (n, imageVer ((s.rule n).image (s.rule n).active)))
  let g := ckptAgent 0 q c.cid
  let cleared : Bool × State := match s.gload g c.base 8 with
    | .error e => (false, s.ckptFault g e 0)
    | .ok (w, s) => s.ckptPut g [(c.base, 8, w / 2 * 2)]
  let st := if cleared.1 then st else lowStatus st 2
  cleared.2.modCkpt q (fun c =>
    { c with armed := false, active := true, todo := todo, table := bs.map (·.1), step := (s.part q).lastStep.1, vers := vers,
             done := 0, dedup := clean, status := st, last := s.time })

/-- A release of a device-level BSTEP of a partition: an armed checkpoint is taken, and every STEPS-th release arms one
(R368). [DESIGN CHOICE, log 41] -/
def State.ckptRelease (s : State) (q : Nat) : State :=
  let s := if (s.part q).ckpt.armed && (s.part q).ckpt.on then s.takeCkpt q else s
  s.modCkpt q (fun c =>
    if c.steps = 0 then c
    else if c.steps ≤ c.count + 1 then { c with count := 0 }.arm
    else { c with count := c.count + 1 })

/-- CHECKPOINT_TIMER: TICKS reference ticks have passed since the last checkpoint. -/
def execCheckpointTimer (part : Nat) (s : State) : Answer :=
  let c := (s.part part).ckpt
  if c.ticks = 0 || c.armed || decide ((s.time - c.last).toNat < c.ticks) then .next s
  else .next (s.modCkpt part (fun c => if c.active then { c.arm with last := s.time } else c.arm))

/-- The stream of packets to the region that a partition's BUDDY handle names, with the port that it leaves by; none where the handle is not
granted (R371, R375). -/
def State.buddyQueue (s : State) (q : Nat) : Option (Nat × SendQueue) :=
  (s.granted q (s.part q).ckpt.buddy.toNat [5]).map (fun g => (512 + g.2, s.queueOf (512 + g.2)))

/-- A packet carries a partition's buddy copy: it belongs to no cluster. -/
def Packet.buddyOf (k : Packet) (q : Nat) : Bool := k.cl == 512 + q

/-- Sends a block that a slice has written to the buddy (R371): whether it could be sent. [DEDUCED, log 42] -/
def State.buddySend (s : State) (q blk sl : Nat) (m : Mem) : Bool × State :=
  if (s.part q).ckpt.buddy = 0 then (true, s)
  else match s.buddyQueue q with
    | none => (false, s)
    | some (n, z) =>
      match s.portBars (ckptAgent sl q 0).master q (z.port % 8) with
      | some t => (false, s.refuseAt t)
      | none => (true, { s with packets := s.packets ++ (upTo 6).map (fun k =>
          { cl := 512 + q, cidx := sl, no := 6 * blk + k, queue := n, peer := z.peer, bytes := breadList m (4096 * k) 4096, tries := 0,
            sent := s.time }) })

/-- CHECKPOINT_PAGE_COPY: the owning slice writes the image of block `blk` into the half, and sends it to the buddy. [DESIGN CHOICE, log 41] -/
def execCheckpointPageCopy (part blk : Nat) (s : State) : Answer :=
  let c := (s.part part).ckpt
  match mfind c.todo blk with
  | none => .next s
  | some (sl, m) =>
    let a := c.base + 0x10000 + 0x6000 * blk
    let ws := (upTo 6).map (fun k => (a + 4096 * k, 4096, bread m (4096 * k) 4096))
    let r := s.ckptPut (ckptAgent sl part c.cid) ws
    let ok := r.1
    let b := if ok then r.2.buddySend part blk sl m else (true, r.2)
    .next (b.2.modCkpt part (fun c =>
      { c with todo := merase c.todo blk, done := c.done + ok.toNat
               status := if !ok then lowStatus c.status 2 else if b.1 then c.status else lowStatus c.status 7 }))

/-- Word 0 of a half. -/
def Ckpt.word0 (c : Ckpt) : Nat := 1 + c.rank * 2 + c.rm1 * 2 ^ 7 + c.dedup.toNat * 2 ^ 13 + c.step * 2 ^ 32

/-- CHECKPOINT_COMPLETE: every block is written, and its buddy copy acknowledged; the table and then VALID are written and the supervisor is told. A failed
checkpoint leaves VALID clear. [DESIGN CHOICE, log 41; DEDUCED, log 42] -/
def execCheckpointComplete (part : Nat) (s : State) : Answer :=
  let c := (s.part part).ckpt
  if !c.active || !c.todo.isEmpty || s.packets.any (fun k => k.buddyOf part) then .next s
  else
    let net := c.buddy != 0 && s.netErrs.contains (part, c.buddy, 0)
    let s := { s with netErrs := s.netErrs.filter (fun a => a != (part, c.buddy, 0)) }
    let st := lowStatus c.status (if net then 7 else 0)
    let nb := c.table.length
    let ws := (upTo nb).map (fun b => (c.base + 0x40 + 8 * b, 8, c.table.getD b 0))
      ++ [(c.base + 8, 8, nb + c.seq % 2 ^ 32 * 2 ^ 32), (c.base, 8, c.word0)]
    let r := if st = 0 then s.ckptPut (ckptAgent 0 part c.cid) ws else (false, s)
    let st := if st = 0 && !r.1 then 2 else st
    let s := r.2.modCkpt part (fun c => { c with active := false, half := 1 - c.half, seq := c.seq + 1, table := [], status := 0 })
    .next (s.postSup (s.supOf part) (eventEntry 16 (0x0F + st * 2 ^ 8 + c.half * 2 ^ 16 + c.step * 2 ^ 32 + c.done * 2 ^ 64)))

end Sys2Proof.Machine
end

