-- ==== Sys2Proof/Machine/Barrier.lean ====
section
/-! DEFINITION. The release of a barrier channel (R278, R280 to R282). -/

namespace Sys2Proof.Machine

/-- An issue number belongs to what a core issued before its BSTEP. -/
def inQ (a : Arrival) (cores : List Nat) (core no : Nat) : Bool := cores.contains core && decide (no < a.bound)

/-- A copy that has landed for R281: its completion stands in the mailbox, or, with QM = 1 and status OK, its last byte has
landed. -/
def CopySlot.landedQ (z : CopySlot) : Bool := z.req.w0.getLsbD 49 && z.status == some 0

/-- The quiet signal of a BSTEP's member: nothing that its core issued before is still on its way (R281). The numbers count on
the core that arrived and on the core that PART.L2P names now. [DEDUCED, log 46] -/
def State.quiet (s : State) (q : Nat) (a : Arrival) : Bool :=
  let cores := a.core :: (s.physOf q a.lpid).toList
  let old (core no : Nat) : Bool := inQ a cores core no
  let copy (p : Nat) (r : CopyReq) : Bool := old p r.no
  !(s.greqs.any (fun r => old r.core r.no)) && !(s.walks.any (fun r => old r.core r.no))
    && !(s.paired.any (fun w => old w.sender w.opNo))
    && !(s.msgs.any (fun m => old m.src m.no)) && !(s.backs.any (fun m => old m.src m.no))
    && !(s.links.any (fun l => old l.src l.no))
    && cores.all (fun p =>
      let c := s.core p
      let k := s.cluster (clusterOf p)
      !(c.fifo.any (copy p)) && !(c.returned.any (copy p))
        && !(c.swaps.any (fun w => w.returned.any (copy p))) && !(c.mq.any (fun m => old p m.no))
        && !(k.slots.any (fun z => z.cidx == cidxOf p && copy p z.req && !z.landedQ))
        && !(k.runs.any (fun r => r.cidx == cidxOf p && old p r.cmd.no)))
    && !(s.cmds.any (fun d => old d.core d.no && d.op != 0x12 && (d.op == 0x14 || !d.posted)))

/-- A member has arrived, or counts as arrived because its logical core has EXITed and has no further group (R282). -/
def State.memberIn (s : State) (c : Channel) (l : Nat) : Bool :=
  match s.physOf c.part l with
  | none => false
  | some p => !(s.core p).dead && (c.arr.any (fun a => a.lpid == l) || ((s.core p).exited && (s.core p).noMore))

/-- The release counts that a release advances: those of the dies that the channel spans (R16, R278). -/
def State.spanOf (s : State) (key : Nat) : List Nat :=
  if decide (key < 64) && (s.chan (64 + key)).joined then [key, 64 + key] else [key]

/-- A channel can release: some member has arrived, every member counts as arrived, every BSTEP's member is quiet, and no member's die is
relocking (R385). [DEDUCED, log 46] -/
def State.canRelease (s : State) (ch : Nat) : Bool :=
  let c := s.chan ch
  !c.joined && (s.part c.part).bch.getLsbD (ch % 64) && !c.arr.isEmpty && c.members.all (s.memberIn c)
    && c.members.all (fun l => (s.physOf c.part l).all (fun p => !(s.die (dieOf p)).relock))
    && c.arr.all (fun a => !a.step || s.quiet c.part a)

/-- What a core's NI captures of its control context (R366): results that are on their way are in it, and what a vector access that has failed
still owes stays owed. -/
def Core.snapshot (c : Core) : Snapshot :=
  let d := (c.due.filter (fun d => d.ctx == 0)).foldl (fun (c : Core) d => match d.value with
    | some v => c.deliver d v
    | none => c) c
  { ctl := d.ctl, bb := c.bb, memb := c.memb, queue := c.queue, due := d.due.filter (fun d => d.ctx == 0)
    ring := d.ring.filter (fun kr => !kr.2.mat && (kr.2.st == 2 || kr.2.cls != 0)) }

/-- What the release of a partition-, die- or device-level channel does at a member: its undo log restarts (R94), and a twin's
numbering and snapshot with it (R365, R366). -/
def Core.newInterval (c : Core) : Core :=
  let c := c.restartLog
  { c with
    group := c.group.map (fun g => { g with passed := true })
    pairNo := 1, matched := c.matched.filter (fun m => decide (pairAge ≤ m.1)), repeating := false
    snap := if c.twin.isSome then some c.snapshot else none }

/-- Releases a channel. -/
def State.release (s : State) (ch : Nat) : State :=
  let c := s.chan ch
  let s := (s.spanOf ch).foldl (fun s k => s.modChan k (fun c => { c with arr := [], rcnt := c.rcnt + 1 })) s
  let ps := c.members.filterMap (fun l => s.physOf c.part l)
  let s := if 1 ≤ c.level then ps.foldl (fun s p => (s.agePairs p).modCore p Core.newInterval) s else s
  if c.level = 3 && c.arr.all (·.step) then (s.exchange c.part).ckptRelease c.part else s

/-- BARRIER_RELEASE of channel `ch` of die 0, or, from 64 on, of channel `ch - 64` of die 1. -/
def execBarrierRelease (ch : Nat) (s : State) : Answer := .next (if s.canRelease ch then s.release ch else s)

end Sys2Proof.Machine
end

