-- ==== Sys2Proof/Machine/Control.lean ====
section
/-! DEFINITION. Branches, calls, hardware loops and REP (R158, R159, R270 to R273). -/

namespace Sys2Proof.Machine

/-! ### Branches (R270) -/

/-- An effect that jumps to a target if a condition holds. -/
def jumpIf (s : State) (b : Bool) (t : Word) : Except Stop Done :=
  .ok { st := s, res := none, jump := if b then some t else none }

/-- The target of a relative branch: PC + 2 * imm. -/
def branchTo (o : Opnds) (s : State) : Word := s.cx.pc + 2 * o.imm

/-- The effect of a conditional branch on X and Y. -/
def branchEff (f : Word → Word → Bool) : Eff := fun o v s => jumpIf s (f v.x.s v.y.s) (branchTo o s)

/-- BEQ's effect. -/
def effBeq : Eff := branchEff (fun a b => a == b)
/-- BEQ. -/
def execBeq (e : Fields) (s : State) : Answer := .next (s.issue (.beq e) effBeq)
/-- BNE's effect. -/
def effBne : Eff := branchEff (fun a b => a != b)
/-- BNE. -/
def execBne (e : Fields) (s : State) : Answer := .next (s.issue (.bne e) effBne)
/-- BLT's effect. -/
def effBlt : Eff := branchEff (fun a b => decide (a.toInt < b.toInt))
/-- BLT. -/
def execBlt (e : Fields) (s : State) : Answer := .next (s.issue (.blt e) effBlt)
/-- BGE's effect. -/
def effBge : Eff := branchEff (fun a b => decide (b.toInt ≤ a.toInt))
/-- BGE. -/
def execBge (e : Fields) (s : State) : Answer := .next (s.issue (.bge e) effBge)
/-- BLTU's effect. -/
def effBltu : Eff := branchEff (fun a b => decide (a.toNat < b.toNat))
/-- BLTU. -/
def execBltu (e : Fields) (s : State) : Answer := .next (s.issue (.bltu e) effBltu)
/-- BGEU's effect. -/
def effBgeu : Eff := branchEff (fun a b => decide (b.toNat ≤ a.toNat))
/-- BGEU. -/
def execBgeu (e : Fields) (s : State) : Answer := .next (s.issue (.bgeu e) effBgeu)

/-- The bit index YH:Y of BBS and BBC. -/
def branchBitNo (o : Opnds) : Nat := o.yh * 16 + o.y % 16

/-- BBS's effect. -/
def effBbs : Eff := fun o v s => jumpIf s (v.x.s.getLsbD (branchBitNo o)) (branchTo o s)
/-- BBS. -/
def execBbs (e : Fields) (s : State) : Answer := .next (s.issue (.bbs e) effBbs)
/-- BBC's effect. -/
def effBbc : Eff := fun o v s => jumpIf s (!v.x.s.getLsbD (branchBitNo o)) (branchTo o s)
/-- BBC. -/
def execBbc (e : Fields) (s : State) : Answer := .next (s.issue (.bbc e) effBbc)
/-- BR's effect. -/
def effBr : Eff := fun o _ s => jumpIf s true (branchTo o s)
/-- BR. -/
def execBr (e : Fields) (h : BitVec 3) (s : State) : Answer := .next (s.issue (.br e h) effBr)
/-- BZ's effect. -/
def effBz : Eff := fun o v s => jumpIf s (v.x.s == 0) (branchTo o s)
/-- BZ. -/
def execBz (e : Fields) (h : BitVec 3) (s : State) : Answer := .next (s.issue (.bz e h) effBz)
/-- BNZ's effect. -/
def effBnz : Eff := fun o v s => jumpIf s (v.x.s != 0) (branchTo o s)
/-- BNZ. -/
def execBnz (e : Fields) (h : BitVec 3) (s : State) : Answer := .next (s.issue (.bnz e h) effBnz)

/-! ### Calls (R271) -/

/-- The address of the next sequential instruction. -/
def linkOf (o : Opnds) (s : State) : Word := s.cx.pc + BitVec.ofNat 64 o.len

/-- JAL's effect. -/
def effJal : Eff := fun o _ s => .ok { st := s, res := some (.s (linkOf o s)), jump := some (branchTo o s) }
/-- JAL. -/
def execJal (e : Fields) (s : State) : Answer := .next (s.issue (.jal e) effJal)

/-- JALR's effect: an odd target raises ALIGN. -/
def effJalr : Eff := fun o v s =>
  let t := v.y.s + o.imm
  if t.getLsbD 0 then .error (addrFault 2 t.toNat)
  else .ok { st := s, res := some (.s (linkOf o s)), jump := some t }
/-- JALR. -/
def execJalr (e : Fields) (s : State) : Answer := .next (s.issue (.jalr e) effJalr)

/-- RET's effect. -/
def effRet : Eff := fun _ v s =>
  let t := v.y.s
  if t.getLsbD 0 then .error (addrFault 2 t.toNat) else jumpIf s true t
/-- RET. -/
def execRet (e : Fields) (s : State) : Answer := .next (s.issue (.ret e) effRet)

/-! ### Hardware loops (R158, R272) -/

/-- Starts loop `n` with a count: LOOP with count 0 skips the body. -/
def startLoop (o : Opnds) (s : State) (n : Nat) (count : Word) : Except Stop Done :=
  let e := branchTo o s
  if count = 0 then jumpIf (s.modCx (fun c => { c with lc := mset c.lc n 0 })) true e
  else Done.plain (s.modCx (fun c =>
    { c with ls := mset c.ls n (linkOf o s), le := mset c.le n e, lc := mset c.lc n count }))

/-- LOOP's effect. -/
def effLoop : Eff := fun o v s => startLoop o s (o.y % 4) v.x.s
/-- LOOP. -/
def execLoop (e : Fields) (s : State) : Answer := .next (s.issue (.loop e) effLoop)
/-- LOOPI's effect. -/
def effLoopi : Eff := fun o _ s => startLoop o s (o.y % 4) (BitVec.ofNat 64 (o.y / 4 * 16 + o.x + 1))
/-- LOOPI. -/
def execLoopi (e : Fields) (s : State) : Answer := .next (s.issue (.loopi e) effLoopi)
/-- LBRK's effect. -/
def effLbrk : Eff := fun o _ s =>
  jumpIf (s.modCx (fun c => { c with lc := mset c.lc (o.y % 4) 0 })) true (mget 0 s.cx.le (o.y % 4))
/-- LBRK. -/
def execLbrk (e : Fields) (s : State) : Answer := .next (s.issue (.lbrk e) effLbrk)

/-! ### REP (R159, R160, R273) -/

/-- An instruction that REP may not repeat: a branch, a call, the LOOP family, REP, a wait, a context, gang or
system instruction, or one of page 1. -/
def unrepeatable (c : Code) : Bool := c.p1 || (16 ≤ c.maj && c.maj ≤ 20) || 28 ≤ c.maj || isWaitInsn c

/-- A name may be staggered over `n` reissues. -/
def staggers (n name : Nat) : Bool := 32 ≤ name && name + (n - 1) ≤ 47

/-- REP may repeat an instruction `n` times with these marks (R159). -/
def repLegal (c : Code) (sh : Shape) (n : Nat) (sx sy sz so : Bool) : Bool :=
  let o := sh.opnds c.min c.e
  !(unrepeatable c) && (!sx || ((sh.xUse c.e).names && staggers n o.x))
    && (!sy || ((sh.yUse c.e).names && staggers n o.y)) && (!sz || (c.e.zp && sh.z != .none && staggers n o.z))
    && (!so || hasMemory c)

/-- The parcels that follow REP's own: carried with it in a gang's queue, else fetched. [DEDUCED, log 29] -/
def State.repParcels (s : State) (len : Nat) : Except Stop (List Parcel × State) :=
  if s.ctx = 0 && s.me.queued then
    match s.me.queue with
    | q :: _ => .ok (q.parcels.drop (len / 2), s)
    | [] => s.fetch (s.cx.pc + BitVec.ofNat 64 len)
  else s.fetch (s.cx.pc + BitVec.ofNat 64 len)

/-- REP's effect: it looks at the next instruction, which then reissues from the repetition buffer. One that is
itself ill-formed traps at its own PC. A REP whose end loops back (R158) leaves the instruction after it, so nothing is
repeated. [DEDUCED, log 28, 29] -/
def effRep : Eff := fun o _ s =>
  match s.repParcels o.len with
  | .error e => .error e
  | .ok (ps, s) =>
    match decodeFor (some s.who) ps with
    | .ok i n =>
      match i.code with
      | none => Done.plain s
      | some c =>
        match rowAt c.p1 c.maj c.min with
        | none => Done.plain s
        | some r =>
          let count := o.x + 1
          let sx := o.y.testBit 3
          let sy := o.y.testBit 2
          let sz := o.y.testBit 1
          let so := o.y.testBit 0
          if !(repLegal c r.shape count sx sy sz so) then .error (illegal 8)
          else if (s.cx.advance (s.cx.pc + BitVec.ofNat 64 o.len)).pc != s.cx.pc + BitVec.ofNat 64 o.len then Done.plain s
          else Done.plain (s.modCx (fun x =>
            { x with rep := { parcels := ps.take n, count := count, next := 0, sx := sx, sy := sy, sz := sz,
                              so := so } }))
    | _ => Done.plain s
/-- REP. -/
def execRep (e : Fields) (s : State) : Answer := .next (s.issue (.rep e) effRep)

end Sys2Proof.Machine
end

