-- ==== Sys2Proof/Machine/Matrix.lean ====
section
/-! DEFINITION. The matrix unit (R208 to R227) and its instructions (MAJ 26 and MSTAT, R242 to R253): banks and their pods,
the alignment of operands, parts and accumulation, drains, the start of a command with its checks and its completion. -/

namespace Sys2Proof.Machine

/-! ### Banks (R209 to R211) -/

/-- The class of a B format: 0 4-bit, 1 FP8, 2 BF16. -/
def bClass (bfmt : Nat) : Nat := if bfmt ≤ 1 then 1 else if bfmt = 2 then 2 else 0

/-- Columns of a pod. -/
def podCols (bfmt : Nat) : Nat := match bClass bfmt with
  | 0 => 64
  | 1 => 32
  | _ => 16

/-- Pods of an N group. -/
def groupPods (bfmt : Nat) : Nat := 64 / podCols bfmt

/-- Bytes of a pod-tile's data. -/
def tileBytes (bfmt : Nat) : Nat := if 4 ≤ bfmt then 1088 else 1024

/-- Kp. -/
def Bank.kp (b : Bank) : Nat := b.kpm1 + 1

/-- Np. -/
def Bank.np (b : Bank) : Nat := b.npm1 + 1

/-- Pods of a bank. -/
def Bank.pods (b : Bank) : Nat := b.kp * b.np

/-- N groups of a bank. -/
def Bank.groups (b : Bank) : Nat := b.np / groupPods b.bfmt

/-- Bytes of a bank image. -/
def imageBytes (bfmt pods : Nat) : Nat := pods * (tileBytes bfmt + 112)

/-- The geometry of R210 holds. -/
def geometryOk (bfmt kp np : Nat) : Bool := decide (kp * np ≤ 256) && np % groupPods bfmt == 0

/-- The code of element (row i, column n) of pod-tile t of an image. -/
def podCode (img : Mem) (bfmt t i n : Nat) : Nat :=
  let o := t * tileBytes bfmt
  let nib (a k : Nat) : Nat := (bget img (o + a)).toNat / 16 ^ k % 16
  match bfmt with
  | 0 => (bget img (o + i * 32 + n)).toNat
  | 1 => (bget img (o + i * 32 + n)).toNat
  | 2 => bread img (o + 2 * (i * 16 + n)) 2
  | 5 =>
    let e := n % 2 * 32 + i
    nib (136 * (n / 8) + 32 * (n / 2 % 4) + e / 2) (e % 2)
  | _ => nib ((i * 64 + n) / 2) ((i * 64 + n) % 2)

/-- First byte of the scale record of tile t. -/
def scaleAt (bfmt pods t : Nat) : Nat := pods * tileBytes bfmt + 112 * t

/-- The code of S of tile t (R211): for NQ4 that of its superblocks. -/
def podS (img : Mem) (bfmt pods t : Nat) : Nat :=
  if bfmt = 5 then bread img (t * 1088 + 132) 4 else bread img (scaleAt bfmt pods t) 4

/-- ρ[i] − 127. -/
def podRho (img : Mem) (bfmt pods t i : Nat) : Int := ((bget img (scaleAt bfmt pods t + 8 + i)).toNat : Int) - 127

/-- γ′[n]. -/
def podGamma (img : Mem) (bfmt pods t n : Nat) : Int :=
  ((bget img (scaleAt bfmt pods t + 40 + n)).toNat : Int) - 127
    + (if bfmt = 4 then ((bget img (t * 1088 + 1024 + n)).toNat : Int) - 127 else 0)

/-- q[n], 255 where the format has none: Q(n) is q / 255. -/
def podQ (img : Mem) (bfmt t n : Nat) : Nat :=
  if bfmt = 5 then (bget img (t * 1088 + 136 * (n / 8) + 128 + n / 2 % 4)).toNat else 255

/-- What a pod stores of an element. -/
inductive Stored where
  /-- An integer BVal; zero is a zero factor. -/
  | num (v : Int)
  /-- An infinity. -/
  | inf (neg : Bool)
  /-- A NaN. -/
  | nan
  deriving DecidableEq, Repr

/-- The floating-point format of an FP8 or BF16 B element. -/
def bFmt (bfmt : Nat) : Fmt := if bfmt = 0 then e4m3 else if bfmt = 1 then e5m2 else bf16

/-- α[n] of a column (R209). -/
def podAlpha (img : Mem) (bfmt t n : Nat) : Int :=
  match blockTop ((upTo 32).map (fun i => (bFmt bfmt).value (podCode img bfmt t i n))) with
  | some a => a
  | none => 0

/-- The fraction bits of a stored magnitude. -/
def podFrac (bfmt : Nat) : Int := if bClass bfmt = 1 then 6 else 14

/-- The stored value of element (i, n). -/
def podVal (img : Mem) (bfmt t i n : Nat) : Stored :=
  let c := podCode img bfmt t i n
  match bfmt with
  | 3 => .num (toSigned 4 c)
  | 4 => .num (match e2m1.value c with
    | .fin neg m e => (if neg then -1 else 1) * ((m * 2 ^ (e + 1).toNat : Nat) : Int)
    | _ => 0)
  | 5 => .num (nq4k.getD c 0)
  | _ =>
    match (bFmt bfmt).value c with
    | .nan => .nan
    | .inf s => .inf s
    | .fin neg m e => .num ((if neg then -1 else 1) * ((quantise 0 neg m e (podAlpha img bfmt t n - podFrac bfmt)).1 : Int))

/-- The exponent of Unit(n). -/
def podUnit (img : Mem) (bfmt t n : Nat) : Int :=
  match bfmt with
  | 3 => 0
  | 4 => -1
  | 5 => -6
  | _ => podAlpha img bfmt t n - podFrac bfmt

/-- The scale record of tile t is ill-formed, as far as the bytes tell that are there: `seen` says which of them can be read, and one that
cannot reads as 0. -/
def recordBad (seen : Nat → Nat → Bool) (img : Mem) (bfmt pods t : Nat) : Bool :=
  let a := scaleAt bfmt pods t
  let bad (s : Nat) : Bool := match fp32.value s with
    | .fin neg _ _ => neg
    | _ => true
  let block (j : Nat) : Nat := bread img (t * 1088 + 136 * j + 132) 4
  let known := ((upTo 8).filter (fun j => seen (t * 1088 + 136 * j + 132) 4)).map block
  (if bfmt = 5 then bread img a 4 != 0 || (upTo 8).any (fun j => bad (block j)) || known.any (fun x => x != known.headD 0)
  else bad (podS img bfmt pods t))
    || bread img (a + 4) 4 != 0 || bread img (a + 104) 8 != 0
    || (upTo 64).any (fun n => decide (podCols bfmt ≤ n) && bget img (a + 40 + n) != 0)

/-- Tile t holds a reserved code 0xFF: 1 in its MX scales, 2 in its scale record, 0 for none. [DEDUCED, log 56] -/
def recordReserved (img : Mem) (bfmt pods t : Nat) : Nat :=
  let a := scaleAt bfmt pods t
  if bfmt = 4 && (upTo 64).any (fun n => bget img (t * 1088 + 1024 + n) == 0xFF) then 1
  else if (upTo 32).any (fun i => bget img (a + 8 + i) == 0xFF)
      || (upTo (podCols bfmt)).any (fun n => bget img (a + 40 + n) == 0xFF) then 2
  else 0

/-! ### A operands (R214) -/

/-- The element format of a floating-point A format. -/
def aFmt (afmt : Nat) : Fmt :=
  match afmt with
  | 0 => bf16
  | 1 => e4m3
  | 2 => e5m2
  | 3 => e4m3
  | 4 => e5m2
  | _ => e2m1

/-- Planes p. -/
def aPlanes (afmt : Nat) : Nat := if 5 ≤ afmt then 4 else 8

/-- A value times a power of two. -/
def FVal.scale (v : FVal) (k : Int) : FVal :=
  match v with
  | .fin s m e => .fin s m (e + k)
  | v => v

/-- Elements of a row from its bytes and scale bytes. -/
def aElems (afmt n : Nat) (bytes scales : Nat) : List FVal :=
  (upTo n).map (fun i =>
    let x := if aMx afmt then (bits scales (8 * (i / 32)) 8 : Int) - 127 else 0
    let v : FVal := match afmt with
      | 0 => bf16.value (bits bytes (16 * i) 16)
      | 5 => e2m1.value (bits bytes (4 * i) 4)
      | 6 => FVal.ofInt (toSigned 4 (bits bytes (4 * i) 4))
      | k => (aFmt k).value (bits bytes (8 * i) 8)
    v.scale x)

/-- An aligned element: its signed magnitude in units of 2^(Ea − p + 1), or a special. -/
abbrev Aligned := Stored

/-- Aligns a segment: its unit's exponent and its elements. -/
def alignSeg (p : Nat) (vs : List FVal) : Int × List Aligned :=
  let ea : Int := match blockTop vs with
    | some a => a
    | none => 0
  let u : Int := ea - p + 1
  (u, vs.map (fun v => match v with
    | .nan => .nan
    | .inf s => .inf s
    | .fin neg m e => .num ((if neg then -1 else 1) * ((quantise 0 neg m e u).1 : Int))))

/-! ### Parts (R215 to R217) -/

/-- What the specials among the products make of a part; none when it is computed. [DEDUCED, log 59] -/
def specialPart (ps : List (Aligned × Stored)) : Option Nat :=
  let isNan (x : Stored) : Bool := x == .nan
  let zero (x : Stored) : Bool := x == .num 0
  let isInf (x : Stored) : Bool := match x with
    | .inf _ => true
    | _ => false
  let neg (x : Stored) : Bool := match x with
    | .inf s => s
    | .num v => decide (v < 0)
    | .nan => false
  let infs := ps.filter (fun ab => isInf ab.1 || isInf ab.2)
  let signs := infs.map (fun ab => neg ab.1 != neg ab.2)
  if ps.any (fun ab => isNan ab.1 || isNan ab.2) then some fp32.nan
  else if infs.isEmpty then none
  else if infs.any (fun ab => zero ab.1 || zero ab.2) then some fp32.nan
  else if signs.contains true && signs.contains false then some fp32.nan
  else some (fp32.code (signs.contains true) fp32.infCode)

/-- The integer of an element that is no special. -/
def Stored.int : Stored → Int
  | .num v => v
  | _ => 0

/-- A sum of integers with exponents: mantissa and exponent. -/
def exactSum (l : List (Int × Int)) : Int × Int :=
  let e0 := l.foldl (fun a x => min a x.2) ((l.map (·.2)).headD 0)
  ((l.map (fun x => x.1 * 2 ^ (x.2 - e0).toNat)).foldl (· + ·) 0, e0)

/-- Rounds i · 2^e · S · q / 255 once; an exact zero is +0. [DEDUCED, log 59] -/
def roundScaled (i e : Int) (s q : Nat) : Nat × FpFlags :=
  match fp32.value s with
  | .fin _ m f =>
    let n := i.natAbs * m * q
    if n = 0 then (0, FpFlags.zero)
    else if q = 255 then fp32.round 0 false (decide (i < 0)) (i.natAbs * m) (e + f)
    else
      let d := n * 2 ^ 64 / 255
      fp32.round 0 false (decide (i < 0)) (2 * d + (if n * 2 ^ 64 % 255 = 0 then 0 else 1)) (e + f - 65)
  | _ => (fp32.nan, FpFlags.zero)

/-- The part of a row's segment for K-pod `kp` and group column `c` (R215). [DEDUCED, log 59] -/
def normalPart (b : Bank) (g p : Nat) (seg : List FVal) (kp c : Nat) : Nat × FpFlags :=
  let cols := podCols b.bfmt
  let t := kp * b.np + (64 * g + c) / cols
  let n := (64 * g + c) % cols
  let al := alignSeg p ((upTo 32).map (fun i => (seg.getD i (.fin false 0 0)).scale (podRho b.img b.bfmt b.pods t i)))
  let ps := (upTo 32).map (fun i => (al.2.getD i (.num 0), podVal b.img b.bfmt t i n))
  match specialPart ps with
  | some x => (x, FpFlags.zero)
  | none =>
    let i := (ps.map (fun ab => ab.1.int * ab.2.int)).foldl (· + ·) 0
    roundScaled i (al.1 + podUnit b.img b.bfmt t n + podGamma b.img b.bfmt b.pods t n) (podS b.img b.bfmt b.pods t)
      (podQ b.img b.bfmt t n)

/-- x̃[n] of a transposed strip for K-pod `kp` (R216). [DEDUCED, log 59] -/
def scaledInput (b : Bank) (g kp : Nat) (x : FVal) (c : Nat) : FVal × FpFlags :=
  let cols := podCols b.bfmt
  let t := kp * b.np + (64 * g + c) / cols
  let n := (64 * g + c) % cols
  match x with
  | .nan => (.nan, FpFlags.zero)
  | .inf s =>
    let zero := match fp32.value (podS b.img b.bfmt b.pods t) with
      | .fin _ m _ => m == 0 || podQ b.img b.bfmt t n == 0
      | _ => true
    (if zero then .nan else .inf s, FpFlags.zero)
  | .fin neg m e =>
    let r := roundScaled ((if neg then -1 else 1) * (m : Int)) (e + podGamma b.img b.bfmt b.pods t n)
      (podS b.img b.bfmt b.pods t) (podQ b.img b.bfmt t n)
    (fp32.value r.1, r.2)

/-- The part of row `i` of the group's pod `j` for K-pod `kp`, from the aligned inputs of both segments. [DEDUCED, log 59] -/
def transPart (b : Bank) (g kp j i : Nat) (al : List (Int × List Aligned)) : Nat × FpFlags :=
  let cols := podCols b.bfmt
  let t := kp * b.np + g * groupPods b.bfmt + j
  let el (n : Nat) : Int × Aligned :=
    let s := al.getD ((j * cols + n) / 32) (0, [])
    (s.1, s.2.getD ((j * cols + n) % 32) (.num 0))
  let ps := (upTo cols).map (fun n => ((el n).2, podVal b.img b.bfmt t i n))
  match specialPart ps with
  | some x => (x, FpFlags.zero)
  | none =>
    let s := exactSum ((upTo cols).map (fun n =>
      ((el n).2.int * (podVal b.img b.bfmt t i n).int, (el n).1 + podUnit b.img b.bfmt t n)))
    if s.1 = 0 then (0, FpFlags.zero)
    else fp32.round 0 false (decide (s.1 < 0)) s.1.natAbs (s.2 + podRho b.img b.bfmt b.pods t i)

/-! ### Accumulation (R218) -/

/-- A tile: entries by row * 64 + column. -/
abbrev Tile := Map (BitVec 32)

/-- An entry of a tile. -/
def tileAt (t : Tile) (r c : Nat) : Nat := (mget (0 : BitVec 32) t (r * 64 + c)).toNat

/-- Adds parts in order into an accumulator. -/
def addParts (acc : Nat) (fl : FpFlags) : List (Nat × FpFlags) → Nat × FpFlags
  | [] => (acc, fl)
  | p :: ps =>
    let r := fp32.addC 0 acc p.1
    addParts r.1 ((fl.or p.2).or r.2) ps

/-- The new value of an entry under ACC. -/
def accumulate (over' : Bool) (old : Nat) (ps : List (Nat × FpFlags)) : Nat × FpFlags :=
  match over', ps with
  | true, p :: ps => addParts p.1 p.2 ps
  | _, ps => addParts old FpFlags.zero ps

/-- Writes entries into a tile: whether one overflowed or is a NaN, and the tile. -/
def writeEntries (t : Tile) (es : List (Nat × Nat × FpFlags)) : Bool × Bool × Tile :=
  (es.any (fun e => e.2.2.ovf), es.any (fun e => fNan e.2.1),
    es.foldl (fun t e => mset t e.1 (BitVec.ofNat 32 e.2.1)) t)

/-- The entries that a strip writes, from its rows. -/
def stripEntries (trans : Bool) (f : VWord) (b : Bank) (g w : Nat) (t : Tile) (rows : List (List FVal)) :
    List (Nat × Nat × FpFlags) :=
  let p := aPlanes (fmtField f 0 0 4)
  let over' := fmtField f 0 16 1 == 1
  (upTo rows.length).flatMap (fun r =>
    let row := rows.getD r []
    if trans then
      (upTo 2).flatMap (fun h =>
        let kp := 2 * w + h
        if b.kp ≤ kp then []
        else
          let xs := (upTo 64).map (fun c => scaledInput b g kp (row.getD c (.fin false 0 0)) c)
          let fl := xs.foldl (fun a x => a.or x.2) FpFlags.zero
          let al := (upTo 2).map (fun k => alignSeg p (((xs.drop (32 * k)).take 32).map (·.1)))
          (upTo 32).map (fun i =>
            let parts := (upTo (groupPods b.bfmt)).map (fun j => transPart b g kp j i al)
            let a := accumulate over' (tileAt t r (32 * h + i)) parts
            (r * 64 + 32 * h + i, a.1, a.2.or fl)))
    else
      (upTo 64).map (fun c =>
        let parts := (upTo b.kp).map (fun kp => normalPart b g p ((row.drop (32 * kp)).take 32) kp c)
        let a := accumulate over' (tileAt t r c) parts
        (r * 64 + c, a.1, a.2)))

/-! ### The checks of R243 and R246 -/

/-- A command has a field set that its kind does not use. -/
def MatCmd.unusedSet (m : MatCmd) : Bool :=
  let k := m.kind
  let z (lo n : Nat) : Bool := wfield m.w0 lo n != 0
  let strip := k == 0 || k == 1
  z 56 5 || z 0 22 || ((k == 4 || k == 5 || k == 6) && z 48 8) || (!(k == 1 || k == 7) && z 40 8) || (!strip && z 32 8)
    || (!(strip || k == 4 || k == 5) && z 28 4) || (!(strip || k == 2) && z 23 5) || (!(k == 2 || k == 7) && z 22 1)
    || (!(strip || k == 2 || k == 4 || k == 6) && m.w1 != 0) || (!(strip || k == 4) && wfield m.w2 32 32 != 0)
    || (if k = 4 then wfield m.w3 19 45 != 0 else m.w3 != 0)

/-- BANK. -/
def MatCmd.bank (m : MatCmd) : Nat := wfield m.w0 28 4

/-- TILE. -/
def MatCmd.tile (m : MatCmd) : Nat := wfield m.w0 48 8

/-- AUX. -/
def MatCmd.aux (m : MatCmd) : Nat := wfield m.w0 40 8

/-- GRP. -/
def MatCmd.grp (m : MatCmd) : Nat := wfield m.w0 32 8

/-- NA or NR. -/
def MatCmd.rows (m : MatCmd) : Nat := wfield m.w0 23 5 + 1

/-- OPT. -/
def MatCmd.opt (m : MatCmd) : Bool := m.w0.getLsbD 22

/-- BFMT of an MBLD. -/
def MatCmd.bfmt (m : MatCmd) : Nat := wfield m.w3 16 3

/-- Kp of an MBLD. -/
def MatCmd.kp (m : MatCmd) : Nat := wfield m.w3 0 8 + 1

/-- Np of an MBLD. -/
def MatCmd.np (m : MatCmd) : Nat := wfield m.w3 8 8 + 1

/-- A strip. -/
def MatCmd.isStrip (m : MatCmd) : Bool := m.kind == 0 || m.kind == 1

/-- Bytes lie in programs' cluster memory. -/
def inPrograms (a n : Nat) : Bool := decide (cluBase ≤ a) && decide (a + n ≤ logBase)

/-- Bytes at global addresses. -/
def inGlobal (a n : Nat) : Bool := spaceOf a n == some .glob

/-- The statuses that R246 orders, with the trap SUB of a reserved code. -/
structure MatFail where
  /-- STATUS. -/
  status : Nat
  /-- SUB of the RESERVED message. -/
  sub : Nat
  /-- The fault and its address, of a PAGE or ACCESS status. -/
  fault : CFail
  deriving DecidableEq, Repr

/-- A failure by status alone. -/
def matFail (st : Nat) : MatFail := { status := st, sub := 0, fault := (0, 0, 0) }

/-- The agent of a global operand: the MU for a drain, the copy engine for an image. -/
def matAgent (cl : Nat) (m : MatCmd) : Agent :=
  { die := cl / 256, master := masterOf cl (if m.kind = 4 then 9 else 10), cid := m.cid, carried := none }

/-- A failure of a global operand. -/
def globFail (acc : Nat) (e : GFail) : MatFail :=
  { status := if e.1 = 8 then 7 else if e.1 = 11 then 8 else 6, sub := 0, fault := (e.1, acc, e.2) }

/-- The operand ranges of a strip: for each row its element bytes and scale bytes. -/
def stripRows (f : VWord) (m : MatCmd) (n : Nat) : List ((Nat × Nat) × Option (Nat × Nat)) :=
  let afmt := fmtField f 0 0 4
  (upTo m.rows).map (fun r =>
    (((m.w1.toNat + r * fmtField f 8 0 32) % 2 ^ 64, aBytes afmt n),
      if aMx afmt then
        some (addrPlus m.w1.toNat (sint32 (fmtField f 16 0 32) + (r * fmtField f 16 32 32 : Nat)), n / 32)
      else none))

/-- The row length of a strip on a bank. -/
def MatCmd.rowLen (m : MatCmd) (b : Bank) : Nat := if m.kind = 0 then 32 * b.kp else 64

/-- A byte of programs' cluster memory can be read. -/
def State.byteSeen (s : State) (cl a : Nat) : Bool := inPrograms a 1 && !(s.hardErr (.clu cl) a 1)

/-- A scale code that a strip reads is a reserved code (R168): in the bytes that can be read, whatever the others are. -/
def State.scaleReserved (s : State) (cl : Nat) (f : VWord) (m : MatCmd) (n : Nat) : Bool :=
  (stripRows f m n).any (fun r => match r.2 with
    | some x => (upTo x.2).any (fun k => s.byteSeen cl (x.1 + k) && s.cluByte cl (x.1 + k) == 0xFF)
    | none => false)

/-- Reads a strip's rows, or says why they cannot be read: RESERVED, OPERAND, ECC (R246). -/
def State.stripData (s : State) (cl : Nat) (f : VWord) (m : MatCmd) (b : Bank) : Except MatFail (List (List FVal)) :=
  let afmt := fmtField f 0 0 4
  let n := m.rowLen b
  let rs := stripRows f m n
  let all (ok : Nat × Nat → Bool) : Bool := rs.all (fun r => ok r.1 && match r.2 with
    | some x => ok x
    | none => true)
  let scale (r : (Nat × Nat) × Option (Nat × Nat)) : Nat := match r.2 with
    | some x => s.cluRead cl x.1 x.2
    | none => 0
  if s.scaleReserved cl f m n then .error { matFail 5 with sub := 1 }
  else if !(all (fun r => inPrograms r.1 r.2)) then .error (matFail 3)
  else if !(all (fun r => !(s.hardErr (.clu cl) r.1 r.2))) then .error (matFail 8)
  else .ok (rs.map (fun r => aElems afmt n (s.cluRead cl r.1.1 r.1.2) (scale r)))

/-- Corrects the correctable errors in ranges of a store that a core's command reads (R359). -/
def State.correctRanges (s : State) (p : Nat) (st : Store) (rs : List (Nat × Nat)) : State :=
  if s.errs.isEmpty then s else rs.foldl (fun s r => s.correct p st r.1 r.2) s

/-! ### Drains (R220, R248) -/

/-- A drained row: its bytes, its scale bytes, overflow, NaN. [DEDUCED, log 60] -/
def drainCodes (f : VWord) (row : List Nat) : Nat × Nat × Bool × Bool :=
  let dfmt := fmtField f 0 8 3
  let rm := fmtField f 0 12 2
  let sat := fmtField f 0 14 1 == 1
  let pack (w : Nat) (cs : List Nat) : Nat := cs.foldr (fun c a => c + 2 ^ w * a) 0
  let plain (g : Fmt) (sat : Bool) (w : Nat) : Nat × Nat × Bool × Bool :=
    let rs := row.map (fun x => g.ofVal rm sat (fp32.value x))
    (pack w (rs.map (·.1)), 0, rs.any (·.2.ovf), rs.any (fun r => g.value r.1 == .nan))
  match dfmt with
  | 0 => (words4 row, 0, false, row.any fNan)
  | 1 => plain bf16 false 16
  | 2 => plain e4m3 sat 8
  | 3 => plain e5m2 false 8
  | _ =>
    let g := if dfmt = 4 then e4m3 else e5m2
    let bs := (upTo 2).map (fun k => mxBlock g rm false 0 (((row.drop (32 * k)).take 32).map fp32.value))
    let cs := bs.flatMap (·.1)
    (pack 8 cs, pack 8 (bs.map (·.2.1)), bs.any (·.2.2.1.ovf), cs.any (fun c => g.value c == .nan))

/-- The pieces that a drain writes: address, bytes, value. -/
def drainPieces (f : VWord) (m : MatCmd) (t : Tile) : List (Nat × Nat × Nat) :=
  let dfmt := fmtField f 0 8 3
  (upTo m.rows).flatMap (fun r =>
    let d := drainCodes f ((upTo 64).map (tileAt t r))
    ((m.w1.toNat + r * fmtField f 24 0 32) % 2 ^ 64, drainRow dfmt, d.1) ::
      (if dfmt = 4 || dfmt = 5 then [(addrPlus m.w1.toNat (sint32 (fmtField f 24 32 32) + (2 * r : Nat)), 2, d.2.1)] else []))

/-- Writes drained pieces, all or none, for a core. A piece that merges into a line of cluster memory with an uncorrectable error ends the
drain with ECC; at global addresses it leaves the bytes in error as they are. [DESIGN CHOICE, log 108] -/
def State.drainPut (s : State) (cl p : Nat) (g : Agent) : List (Nat × Nat × Nat) → Except MatFail State
  | [] => .ok s
  | (a, n, v) :: ws =>
    if inPrograms a n then
      let lo := a / 64 * 64
      if !(a % 64 == 0 && n % 64 == 0) && s.hardErr (.clu cl) lo ((a % 64 + n + 63) / 64 * 64) then .error (matFail 8)
      else (((s.partFix p (.clu cl) a n).cluWrite cl a n v).clearErr (.clu cl) a n).drainPut cl p g ws
    else
      match s.gstore g a n v with
      | .error e => .error (globFail 1 e)
      | .ok s => s.drainPut cl p g ws

/-- What a drain writes, from its tile. -/
def State.drained (s : State) (cl : Nat) (f : VWord) (m : MatCmd) : List (Nat × Nat × Nat) :=
  drainPieces f m (mget ([] : Tile) (s.cluster cl).tiles m.tile)

/-- What a drain cannot do, as far as its tile and its addresses tell. -/
def State.drainFail (s : State) (cl : Nat) (f : VWord) (m : MatCmd) : Option MatFail :=
  if !((s.drained cl f m).all (fun x => inPrograms x.1 x.2.1 || inGlobal x.1 x.2.1)) then some (matFail 3)
  else if s.hardErr (.acc cl) (m.tile * 8192) (m.rows * 256) then some (matFail 8)
  else none

/-- Drains a tile for a core: overflow, NaN and the state, or the failure. [DEDUCED, log 60] -/
def State.drain (s : State) (cl p : Nat) (f : VWord) (m : MatCmd) : Except MatFail (Bool × Bool × State) :=
  let t := mget ([] : Tile) (s.cluster cl).tiles m.tile
  match s.drainFail cl f m with
  | some e => .error e
  | none =>
    let s := s.correct p (.acc cl) (m.tile * 8192) (m.rows * 256)
    match s.drainPut cl p (matAgent cl m) (s.drained cl f m) with
    | .error e => .error e
    | .ok s1 =>
      let s1 := if s.pairDrops p m.pair m.drop then s else s1
      let ds := (upTo m.rows).map (fun r => drainCodes f ((upTo 64).map (tileAt t r)))
      let s2 := if m.opt then s1.modCluster cl (fun c =>
          { c with tiles := mset c.tiles m.tile (t.filter (fun e => decide (m.rows * 64 ≤ e.1))) }) else s1
      .ok (ds.any (·.2.2.1), ds.any (·.2.2.2), s2)

/-! ### Images (R250) -/

/-- Reads a global image for a core in pieces of at most 4,096 bytes. -/
def State.imagePieces (s : State) (p : Nat) (g : Agent) : Nat → Nat → Nat → Except MatFail (Mem × State)
  | 0, _, _ => .ok ([], s)
  | k + 1, a, n =>
    let n1 := min n 4096
    if n1 = 0 then .ok ([], s)
    else match s.gcheck g a n1 0 9 with
      | .error e => .error (globFail 0 e)
      | .ok (ps, s) =>
        if ps.any (fun p => s.hardErr .phys p.pa p.n) then .error (matFail 8)
        else match (s.correctAll p ps).imagePieces p g k (a + n1) (n - n1) with
          | .error e => .error e
          | .ok (m, s) =>
            .ok (bwriteList [] 0 (bytesOf n1 (s.gread ps)) ++ m.map (fun c => (c.1 + n1, c.2)), s)

/-- What is wrong with an image in the bytes that can be read: ILLFORM, or RESERVED (R210, R246). -/
def MatCmd.imageFail (m : MatCmd) (seen : Nat → Nat → Bool) (img : Mem) : Option MatFail :=
  let pods := m.kp * m.np
  if (upTo pods).any (recordBad seen img m.bfmt pods) then some (matFail 4)
  else (((upTo pods).map (recordReserved img m.bfmt pods)).find? (fun k => k != 0)).map (fun k => { matFail 5 with sub := k })

/-- The bytes of one line of an image that can be read, at an address: none when the line holds an uncorrectable error, or a global one
faults or is refused. -/
def State.lineSeen (s : State) (cl : Nat) (m : MatCmd) (a n : Nat) : Option Nat :=
  if inPrograms a n then (if s.hardErr (.clu cl) a n then none else some (s.cluRead cl a n))
  else if inGlobal a n then (match s.gcheck (matAgent cl m) a n 0 9 with
    | .error _ => none
    | .ok (ps, _) => if ps.any (fun x => s.hardErr .phys x.pa x.n) then none else some (s.gread ps))
  else none

/-- What is wrong with the image of an MBLD that cannot be read or loaded as a whole, in the bytes that can be read: ILLFORM and a
reserved code come before every other failure (R246). [DEDUCED, log 57] -/
def State.imageFirst (s : State) (cl : Nat) (m : MatCmd) (e : MatFail) : MatFail :=
  let n := imageBytes m.bfmt (m.kp * m.np)
  let a := m.w1.toNat
  let lines := (upTo ((a % 64 + n + 63) / 64)).filterMap (fun k =>
    let lo := max a (a / 64 * 64 + 64 * k)
    let len := min (a + n) (a / 64 * 64 + 64 * (k + 1)) - lo
    (s.lineSeen cl m lo len).map (fun v => (lo - a, len, v)))
  let seen (o k : Nat) : Bool := (upTo k).all (fun i => lines.any (fun l => decide (l.1 ≤ o + i) && decide (o + i < l.1 + l.2.1)))
  (m.imageFail seen (lines.foldl (fun img l => bwrite img l.1 l.2.1 l.2.2) [])).getD e

/-- The image that a core's MBLD reads, once its record's limits hold. -/
def State.readImage (s : State) (cl p : Nat) (m : MatCmd) : Except MatFail (Mem × State) :=
  let n := imageBytes m.bfmt (m.kp * m.np)
  let a := m.w1.toNat
  let got : Except MatFail (Mem × State) :=
    if inPrograms a n then
      if s.hardErr (.clu cl) a n then .error (matFail 8)
      else .ok (((s.cluster cl).mem.filter (fun c => decide (a ≤ c.1) && decide (c.1 < a + n))).map (fun c => (c.1 - a, c.2)),
        s.correct p (.clu cl) a n)
    else s.imagePieces p (matAgent cl m) (n / 4096 + 1) a n
  match got with
  | .error e => .error (s.imageFirst cl m e)
  | .ok (img, s) =>
    match m.imageFail (fun _ _ => true) img with
    | some e => .error e
    | none => .ok (img, s)

/-- The operand of an MBLD lies where an image may lie. -/
def MatCmd.imagePlaced (m : MatCmd) : Bool :=
  let n := imageBytes m.bfmt (m.kp * m.np)
  m.w1.toNat % 64 == 0 && (inPrograms m.w1.toNat n || inGlobal m.w1.toNat n)

/-! ### The start of a command (R221 to R225, R246) -/

/-- Engine slots in use: started copies, and loads of global images (R250). -/
def Cluster.slotsUsed (c : Cluster) : Nat :=
  c.slots.length + (c.runs.filter (fun r => r.cmd.kind == 4 && r.status == 0 && !(inPrograms r.cmd.w1.toNat 1))).length

/-- A release of a bank has started (R225). -/
def Cluster.releasing (c : Cluster) (b : Nat) : Bool :=
  c.runs.any (fun r => r.cmd.kind == 5 && r.status == 0 && r.cmd.bank == b)

/-- A bank that a strip may use: present, ready, and not being released. -/
def Cluster.ready (c : Cluster) (b : Nat) : Option Bank :=
  match mfind c.banks b with
  | some k => if k.state == 2 && !(c.releasing b) then some k else none
  | none => none

/-- The bank is loading. -/
def Cluster.loading (c : Cluster) (b : Nat) : Bool :=
  match mfind c.banks b with
  | some k => k.state == 1
  | none => false

/-- The bytes of a bank's pods that a strip reads. -/
def podRanges (m : MatCmd) (b : Bank) : List (Nat × Nat) :=
  let c := groupPods b.bfmt
  let size := tileBytes b.bfmt
  let kps := if m.kind = 0 then upTo b.kp else [2 * m.aux, 2 * m.aux + 1].filter (fun k => decide (k < b.kp))
  kps.map (fun kp => ((kp * b.np + m.grp * c) * size, c * size))

/-- The pods of a bank that a strip reads hold an uncorrectable error. -/
def State.podBad (s : State) (cl : Nat) (m : MatCmd) (b : Bank) : Bool :=
  (podRanges m b).any (fun x => s.hardErr (.pod cl m.bank) x.1 x.2)

/-- The failure that a strip has as things stand, in the order of R246; pods are checked when they are read. With ACC = 0 it reads all 64
columns of its rows of the tile, also a transposed strip whose second K-pod does not exist. [DEDUCED, log 57; DESIGN CHOICE, log 109] -/
def State.stripFail (s : State) (cl : Nat) (f : VWord) (m : MatCmd) (b : Bank) : Option MatFail :=
  if b.groups ≤ m.grp || (m.kind == 1 && decide (ceilDiv b.kp 2 ≤ m.aux)) then some (matFail 4)
  else
    let d := s.stripData cl f m b
    let late := if fmtField f 0 17 1 == 1 && wfield m.w2 32 32 != b.tag.toNat then some (matFail 1)
      else match d with
        | .error e => some e
        | .ok _ => if fmtField f 0 16 1 == 0 && s.hardErr (.acc cl) (m.tile * 8192) (m.rows * 256) then some (matFail 8) else none
    match d with
    | .error e => if e.status = 5 then some e else late
    | .ok _ => late

/-- How a strip fails whose bank is not ready: ILLFORM and a reserved code come before NOBANK (R246), as far as they can be told
without a bank. -/
def State.noBank (s : State) (cl : Nat) (f : VWord) (m : MatCmd) : MatFail :=
  match mfind (s.cluster cl).banks m.bank with
  | none => if m.kind == 1 && s.scaleReserved cl f m 64 then { matFail 5 with sub := 1 } else matFail 2
  | some b => match s.stripFail cl f m b with
    | some e => if e.status = 4 || e.status = 5 then e else matFail 2
    | none => matFail 2

/-- The failure that a command has at its start. What depends on the bytes it reads is looked at when it runs, after the commands
that it must follow (R221). [DEDUCED, log 57] -/
def State.startFail (s : State) (cl : Nat) (f : VWord) (m : MatCmd) : Option MatFail :=
  let c := s.cluster cl
  if m.fail = 3 then some (matFail 3)
  else if m.fail = 4 || m.unusedSet then some (matFail 4)
  else match m.kind with
    | 2 => none
    | 3 => none
    | 4 =>
      if m.bfmt < 6 && !(geometryOk m.bfmt m.kp m.np) then some (matFail 4)
      else if 256 < m.kp * m.np then some (matFail 4)
      else if 6 ≤ m.bfmt then some { matFail 5 with sub := 3 }
      else if (mfind c.banks m.bank).isSome then some (s.imageFirst cl m (matFail 10))
      else if c.freePods < m.kp * m.np then some (s.imageFirst cl m (matFail 9))
      else if m.imagePlaced then none
      else some (s.imageFirst cl m (matFail 3))
    | 5 => if (mfind c.banks m.bank).isNone || c.releasing m.bank then some (matFail 2) else none
    | 6 => none
    | 7 => none
    | _ => if (c.ready m.bank).isNone then some (s.noBank cl f m) else none

/-- The bytes that an MCFG installs, or its failure (R213, R252): a reserved field or selector in the bytes of a raw record that can be read
comes before a failure to read the others (R246). -/
def State.cfgBytes (s : State) (cl : Nat) (m : MatCmd) : Except MatFail VWord :=
  let check (f : VWord) : Except MatFail VWord :=
    match fmtBad f with
    | 0 => .ok f
    | 5 => .error { matFail 5 with sub := 3 }
    | k => .error (matFail k)
  if m.fail = 4 || m.unusedSet then .error (matFail 4)
  else match m.fmt with
    | some f => check f
    | none =>
      let a := m.w1.toNat
      let seen := (upTo 64).map (fun k => if s.byteSeen cl (a + k) then s.cluByte cl (a + k) else 0)
      match check (BitVec.ofNat 512 (ofBytes seen)) with
      | .error e => .error e
      | .ok f => if !(inPrograms a 64) then .error (matFail 3) else if s.hardErr (.clu cl) a 64 then .error (matFail 8) else .ok f

/-- The weight of a queue. -/
def Cluster.weight (c : Cluster) (i : Nat) : Nat := max 1 (bits c.muw.toNat (4 * i) 4)

/-- The head of a core's queue can start now: a completion slot is left, what it waits for is over. [DEDUCED, log 58] -/
def State.headReady (s : State) (cl i : Nat) : Bool :=
  let k := s.cluster cl
  let c := s.core (coreAt cl i)
  match c.mq with
  | [] => false
  | m :: _ =>
    let mine := k.runs.filter (fun r => r.cidx == i)
    let alone (n : Nat) : Bool := n == 4 || n == 5
    decide (c.cq.length + mine.length < 16)
      && !(mine.any (fun r => alone r.cmd.kind || alone m.kind || (m.kind == 6 && m.fmt.isNone && r.cmd.kind == 2)))
      && !((m.isStrip || m.kind == 5) && m.fail == 0 && k.loading m.bank && !m.unusedSet)
      && !(m.kind == 4 && m.fail == 0 && !(inPrograms m.w1.toNat 1) && 16 ≤ k.slotsUsed)

/-- The queue that the weighted round robin takes next, and how many commands it will have started in its turn (R224). -/
def State.nextQueue (s : State) (cl : Nat) : Option (Nat × Nat) :=
  let k := s.cluster cl
  let go (i : Nat) : Bool := s.headReady cl i
  if go k.mrr.1 && decide (k.mrr.2 < k.weight k.mrr.1) then some (k.mrr.1, k.mrr.2 + 1)
  else (((upTo 9).map (fun j => (k.mrr.1 + 1 + j) % 9)).find? go).map (fun i => (i, 1))

/-- A strip or drain whose bytes were not settled at its push is checked at its start against every pending command
(R223). [DEDUCED, log 57] -/
def State.settleAtStart (s : State) (cl : Nat) (f : VWord) (m : MatCmd) : MatCmd :=
  match m.range with
  | some _ => m
  | none =>
    match s.matRange cl m f with
    | none => m
    | some rs => { m with range := some rs, fail := if m.fail = 0 && overlaps m rs (s.pendingMat cl) then 3 else m.fail }

/-- Starts the head of a core's queue. [DEDUCED, log 58] -/
def State.startHead (s : State) (cl i : Nat) (m : MatCmd) (rest : List MatCmd) : State :=
  let s := s.modCore (coreAt cl i) (fun c => { c with mq := rest })
  let f := mget (0 : VWord) (s.cluster cl).fmts i
  let m := s.settleAtStart cl f m
  let run (st : Nat) (fmt : VWord) : MatRun := { cidx := i, cmd := m, status := st, fmt := fmt, ended := none }
  let push (s : State) (r : MatRun) : State := s.modCluster cl (fun k => { k with runs := k.runs ++ [r] })
  if m.kind = 6 then
    match s.cfgBytes cl m with
    | .error e => push s (run (e.status + 16 * e.sub) f)
    | .ok g =>
      let s := if m.fmt.isNone then s.correct (coreAt cl i) (.clu cl) m.w1.toNat 64 else s
      push (s.modCluster cl (fun k => { k with fmts := mset k.fmts i g })) (run 0 g)
  else match s.startFail cl f m with
    | some e => push s (run (e.status + 16 * e.sub) f)
    | none =>
      let s := if m.kind = 4 then
          let b : Bank := { state := 1, bfmt := m.bfmt, kpm1 := m.kp - 1, npm1 := m.np - 1, tag := (m.w2 >>> 32).setWidth 32, img := [] }
          s.modCluster cl (fun k => { k with banks := mset k.banks m.bank b, freePods := k.freePods - m.kp * m.np })
        else s
      push s (run 0 f)

/-- MATRIX_COMMAND_START: the weighted round robin starts the next command. -/
def execMatrixCommandStart (cl : Nat) (s : State) : Answer :=
  match s.nextQueue cl with
  | none => .next s
  | some (i, n) =>
    match (s.core (coreAt cl i)).mq with
    | [] => .next s
    | m :: rest => .next ((s.startHead cl i m rest).modCluster cl (fun k => { k with mrr := (i, n) }))

/-! ### Completion (R218, R220, R222, R225, R226) -/

/-- The tiles that a command uses. -/
def MatCmd.tiles (m : MatCmd) : List Nat :=
  match m.kind with
  | 4 => []
  | 5 => []
  | 6 => []
  | 7 => [m.tile, m.aux]
  | _ => [m.tile]

/-- The banks that a command uses. -/
def MatCmd.banks (m : MatCmd) : List Nat := if m.isStrip || m.kind = 4 || m.kind = 5 then [m.bank] else []

/-- Two started commands use the same pods: two strips, of one N group, one of which reads every row of pods or both the same
pair; or a strip and the load or the release of its bank (R225). -/
def MatCmd.sharesPods (a b : MatCmd) : Bool :=
  a.banks.any b.banks.contains && (!(a.isStrip && b.isStrip)
    || (a.grp == b.grp && (a.kind == 0 || b.kind == 0 || a.aux == b.aux)))

/-- Two started commands run one after another: of one core, on one tile, on the same pods (R221, R225). [DEDUCED, log 58] -/
def MatRun.conflicts (a b : MatRun) : Bool :=
  a.cidx == b.cidx || a.cmd.tiles.any b.cmd.tiles.contains || a.cmd.sharesPods b.cmd

/-- What a command's end leaves: its failure, OF, NV and the state. -/
abbrev MatEnd := Option MatFail × Bool × Bool × State

/-- An end with a failure and no effect. -/
def matEnd (s : State) (e : MatFail) : MatEnd := (some e, false, false, s)

/-- Ends a bank whose pod holds an uncorrectable error (R226): it is absent, and the other strips that have started on it will
push ECC too; a release of it that has started pushes NOBANK. Its pods return when the last of the strips has completed. -/
def State.endBank (s : State) (cl bank pods key : Nat) : State :=
  let hit (r : MatRun) : Bool := r.cmd.isStrip && r.cmd.bank == bank && r.ended.isNone
  s.modCluster cl (fun k =>
    let others := k.runs.any hit
    { k with
      banks := merase k.banks bank
      runs := k.runs.map (fun r =>
        if hit r then { r with status := if r.status = 0 then 8 else r.status, ended := some (key, pods) }
        else if r.cmd.kind = 5 && r.cmd.bank = bank && r.status = 0 then { r with status := 2 }
        else r)
      freePods := if others then k.freePods else k.freePods + pods })
    |> fun s => { s with errs := s.errs.filter (fun e => e.store != .pod cl bank) }

/-- What a strip's reads correct for its core (R359): its A rows, the pods, and the accumulators to which it adds. -/
def State.stripReads (s : State) (cl : Nat) (r : MatRun) (b : Bank) : State :=
  let m := r.cmd
  let p := coreAt cl r.cidx
  let rows := (stripRows r.fmt m (m.rowLen b)).flatMap (fun x => x.1 :: x.2.toList)
  let s := (s.correctRanges p (.clu cl) rows).correctRanges p (.pod cl m.bank) (podRanges m b)
  if fmtField r.fmt 0 16 1 == 0 then s.correct p (.acc cl) (m.tile * 8192) (m.rows * 256) else s

/-- A strip writes whole lines of its tile, which clears their errors (R359). -/
def State.stripClears (s : State) (cl : Nat) (m : MatCmd) (b : Bank) : State :=
  (upTo m.rows).foldl (fun s k =>
    s.clearErr (.acc cl) (m.tile * 8192 + k * 256) (if m.kind = 1 && b.kp ≤ 2 * m.aux + 1 then 128 else 256)) s

/-- Runs a strip. -/
def State.runStrip (s : State) (cl : Nat) (r : MatRun) : MatEnd :=
  let m := r.cmd
  match mfind (s.cluster cl).banks m.bank with
  | none => matEnd s (matFail 2)
  | some b =>
    match s.stripFail cl r.fmt m b, s.stripData cl r.fmt m b with
    | some e, _ => matEnd s e
    | none, .error e => matEnd s e
    | none, .ok rows =>
      if s.podBad cl m b then matEnd (s.endBank cl m.bank b.pods (m.no * 16 + r.cidx)) (matFail 8)
      else
        let t := mget ([] : Tile) (s.cluster cl).tiles m.tile
        let es := stripEntries (m.kind == 1) r.fmt b m.grp m.aux t rows
        let w := writeEntries t es
        (none, w.1, w.2.1, ((s.stripReads cl r b).stripClears cl m b).modCluster cl (fun k =>
          { k with tiles := mset k.tiles m.tile w.2.2 }))

/-- The uncorrectable errors of a tile of accumulator memory, as they stand in another tile that takes its entries. -/
def State.tileMarks (s : State) (cl src dst : Nat) : List ErrMark :=
  (s.errs.filter (fun e => e.hard && e.meets (.acc cl) (src * 8192) 8192)).map (fun e => { e with addr := e.addr - src * 8192 + dst * 8192 })

/-- Runs MACCP, which cannot fail (R249): an uncorrectable error in an accumulator that it reads stands in the entry that it makes of it. A
copy writes every line of the destination, which clears the errors there (R359); an add leaves them. [DEDUCED, log 57] -/
def State.runCombine (s : State) (cl p : Nat) (m : MatCmd) : MatEnd :=
  let src := mget ([] : Tile) (s.cluster cl).tiles m.aux
  let dst := mget ([] : Tile) (s.cluster cl).tiles m.tile
  let marks := s.tileMarks cl m.aux m.tile
  let s := (s.correct p (.acc cl) (m.aux * 8192) 8192).correctRanges p (.acc cl) (if m.opt then [(m.tile * 8192, 8192)] else [])
  let s := if m.opt then s else s.clearErr (.acc cl) (m.tile * 8192) 8192
  let s := if marks.isEmpty then s else { s with errs := s.errs ++ marks.filter (fun e => !s.errs.contains e) }
  let es := (upTo 2048).map (fun i =>
    let x := (mget (0 : BitVec 32) src i).toNat
    let r := if m.opt then fp32.addC 0 (mget (0 : BitVec 32) dst i).toNat x else (x, FpFlags.zero)
    (i, r.1, r.2))
  let w := writeEntries [] es
  (none, w.1, w.2.1, s.modCluster cl (fun k => { k with tiles := mset k.tiles m.tile (w.2.2.filter (fun e => e.2 != 0)) }))

/-- Runs a started command at its end. [DEDUCED, log 58] -/
def State.runMatrix (s : State) (cl : Nat) (r : MatRun) : MatEnd :=
  let m := r.cmd
  let p := coreAt cl r.cidx
  if r.status != 0 then matEnd s { matFail (r.status % 16) with sub := r.status / 16 }
  else match m.kind with
    | 2 => (match s.drain cl p r.fmt m with
      | .error e => matEnd s e
      | .ok (o, n, s') =>
        (none, o, n, if (s.core p).twin.isSome && inPrograms m.w1.toNat 1 then s'.modCore p (fun c => { c with ovf := true })
          else s'))
    | 3 => (none, false, false, (s.clearErr (.acc cl) (m.tile * 8192) 8192).modCluster cl (fun k =>
        { k with tiles := merase k.tiles m.tile }))
    | 4 =>
      match s.readImage cl p m with
      | .error e => matEnd (s.modCluster cl (fun k =>
          { k with banks := merase k.banks m.bank, freePods := k.freePods + m.kp * m.np })) e
      | .ok (img, s) =>
        let s : State := { s with errs := s.errs.filter (fun e => e.store != Store.pod cl m.bank) }
        (none, false, false, s.modCluster cl (fun k => { k with banks := match mfind k.banks m.bank with
          | some b => mset k.banks m.bank { b with state := 2, img := img }
          | none => k.banks }))
    | 5 =>
      match mfind (s.cluster cl).banks m.bank with
      | none => matEnd s (matFail 2)
      | some b => (none, false, false, s.modCluster cl (fun k =>
          { k with banks := merase k.banks m.bank, freePods := k.freePods + b.pods }))
    | 6 => (none, false, false, s)
    | 7 => s.runCombine cl p m
    | _ => s.runStrip cl r

/-- A completion element (R222). -/
def matElement (m : MatCmd) (status : Nat) (o n : Bool) : Word :=
  BitVec.ofNat 64 (wfield m.w2 0 32 + status * 2 ^ 32 + m.kind * 2 ^ 40 + n.toNat * 2 ^ 44 + o.toNat * 2 ^ 45)

/-- A reserved code parks a core at the push of the command that met it (R168, R333). -/
def Core.parkReserved (c : Core) (ring : Nat) : Core :=
  match c.ctl.run with
  | .stopped _ => c
  | _ => { c with ctl := { c.ctl with run := .stopped .reserved }, stopPc := (mfind c.ring ring).map (fun r => r.pc.setWidth 64) }

/-- What a failed command does at its core (R222, R168, R330, R360): the late fault stands in its ring entry, which
keeps whether the active handler pushed the command (R327); PAGE sends the
message of R66; a refused operand is counted (R67); RESERVED parks the core; ECC taints the launch, unless another strip met the
error (R226). [DEDUCED, log 56, 78] -/
def State.matFault (s : State) (p : Nat) (m : MatCmd) (e : MatFail) (met : Bool) : State :=
  let s := s.modCore p (fun c => match mfind c.ring m.ring with
    | some r =>
      let r := { r with st := 2, cls := 0x0E, sub := e.status, info := BitVec.ofNat 64 (wfield m.w2 0 32) }
      { c with ring := mset c.ring m.ring r }
    | none => c)
  match e.status with
  | 6 => s.trapMsg p 0x20 e.fault.1 e.fault.2.1 (if m.kind = 4 then 9 else 10) m.cid (BitVec.ofNat 64 (e.fault.2.2 / 65536 % 2 ^ 41))
  | 7 => s.countRefusal (matAgent (clusterOf p) m) e.fault.2.2 e.fault.2.1
  | 5 => ((s.leaveGang p).trapMsg p 0x21 e.sub 0 (cidxOf p) m.cid m.w1).modCore p (fun c => c.parkReserved m.ring)
  | 8 =>
    if !met then s
    else (match s.launchOf p with
      | some (q, l) => s.taint q l.serial 2 2
      | none => s)
  | _ => s

/-- Returns the pods of an ended bank once the last strip on it has completed (R226). -/
def State.returnPods (s : State) (cl : Nat) (r : MatRun) : State :=
  match r.ended with
  | none => s
  | some (key, pods) =>
    s.modCluster cl (fun k =>
      if k.runs.any (fun x => match x.ended with
        | some (k', _) => k' == key
        | none => false) then k
      else { k with freePods := k.freePods + pods })

/-- The twin's copy of a command that this core leaves to its twin has still to be carried out there: this one waits for it, so that what its
completion tells is written (R136, R365). [DEDUCED, log 54] -/
def State.primaryOwes (s : State) (p : Nat) (pair : Option Nat) (drop : Bool) (inSlot : CopySlot → Bool) : Bool :=
  match pair, (s.core p).twin with
  | some n, some t =>
    let k := s.cluster (clusterOf t)
    !drop && s.primaryOf p t != p
      && ((s.core t).fifo.any (fun r => r.pair == some n) || (s.core t).mq.any (fun m => m.pair == some n)
        || k.runs.any (fun r => r.cidx == cidxOf t && r.cmd.pair == some n)
        || k.slots.any (fun z => z.cidx == cidxOf t && z.req.pair == some n && z.status.isNone && inSlot z))
  | _, _ => false

/-- The next step of a drain to a global destination on a core with a twin: its data go to the comparison first, and the copy of the core
that does not write waits for the other's (R136, R365). -/
def State.matStep (s : State) (cl : Nat) (r : MatRun) : PairStep :=
  let m := r.cmd
  let ps := s.drained cl r.fmt m
  if r.status != 0 || m.kind != 2 || m.pair.isNone || (s.drainFail cl r.fmt m).isSome then .go
  else match s.pairStep (coreAt cl r.cidx) m.pair m.drop m.no 2 m.w1.toNat ((ps.map (·.2.1)).foldl (· + ·) 0)
    (ps.foldr (fun x a => x.2.2 + 256 ^ x.2.1 * a) 0) with
  | .wait t => .wait t
  | .go => if s.primaryOwes (coreAt cl r.cidx) m.pair m.drop (fun _ => false) then .wait s else .go

/-- MATRIX_COMMAND_COMPLETE: the started command of index `k` ends, once those before it that it must follow have ended and a twin's drain
has been compared, and pushes its completion element. [DEDUCED, log 78] -/
def execMatrixCommandComplete (cl k : Nat) (s : State) : Answer :=
  match (s.cluster cl).runs[k]? with
  | none => .next s
  | some r =>
    if ((s.cluster cl).runs.take k).any (fun q => q.conflicts r) then .next s
    else match s.matStep cl r with
    | .wait s => .next s
    | .go =>
      let p := coreAt cl r.cidx
      let s := s.modCluster cl (fun c => { c with runs := c.runs.eraseIdx k })
      let e := s.runMatrix cl r
      let st := match e.1 with
        | some f => f.status
        | none => 0
      let s := e.2.2.2.returnPods cl r
      let el := matElement r.cmd st e.2.1 e.2.2.1
      let s := if (s.core p).poisoned then s else s.modCore p (fun c => { c with cq := c.cq ++ [el] })
      .next (match e.1 with
        | none => s.modCore p (fun c => { c with ring := merase c.ring r.cmd.ring })
        | some f => s.matFault p r.cmd f r.ended.isNone)

/-! ### The instructions (R244, R252, R253) -/

/-- The effect of a record form: KIND from the minor, X added to w1. -/
def matFormEff (kind : Nat) : Eff := fun o v s =>
  match s.recordWhen (effAddr o v) s.me.matRoom with
  | .error e => .error e
  | .ok (w, s) =>
    match s.pushMat s.cur (s.cx.pc.setWidth 57) [wput (w.getD 0 0) 61 3 kind, w.getD 1 0 + v.x.s, w.getD 2 0, w.getD 3 0]
        none false with
    | .error e => .error e
    | .ok s => Done.plain s

/-- MSTR's effect. -/
def effMstr : Eff := matFormEff 0
/-- MSTR. -/
def execMstr (e : Fields) (s : State) : Answer := .next (s.issue (.mstr e) effMstr)
/-- MSTRT's effect. -/
def effMstrt : Eff := matFormEff 1
/-- MSTRT. -/
def execMstrt (e : Fields) (s : State) : Answer := .next (s.issue (.mstrt e) effMstrt)
/-- MDRN's effect. -/
def effMdrn : Eff := matFormEff 2
/-- MDRN. -/
def execMdrn (e : Fields) (s : State) : Answer := .next (s.issue (.mdrn e) effMdrn)
/-- MACZ's effect. -/
def effMacz : Eff := matFormEff 3
/-- MACZ. -/
def execMacz (e : Fields) (s : State) : Answer := .next (s.issue (.macz e) effMacz)
/-- MBLD's effect. -/
def effMbld : Eff := matFormEff 4
/-- MBLD. -/
def execMbld (e : Fields) (s : State) : Answer := .next (s.issue (.mbld e) effMbld)
/-- MBREL's effect. -/
def effMbrel : Eff := matFormEff 5
/-- MBREL. -/
def execMbrel (e : Fields) (s : State) : Answer := .next (s.issue (.mbrel e) effMbrel)
/-- MACCP's effect. -/
def effMaccp : Eff := matFormEff 7
/-- MACCP. -/
def execMaccp (e : Fields) (s : State) : Answer := .next (s.issue (.maccp e) effMaccp)

/-- MCFG's effect: the pushed command carries the 64 bytes, and their address, which the message of a reserved selector tells (R331). -/
def effMcfg : Eff := fun o v s =>
  match s.bytesWhen (effAddr o v) 64 s.me.matRoom with
  | .error e => .error e
  | .ok (x, s) =>
    match s.pushMat s.cur (s.cx.pc.setWidth 57) [BitVec.ofNat 64 (6 * 2 ^ 61), BitVec.ofNat 64 (effAddr o v), v.x.s &&& 0xFFFFFFFF, 0]
        (some (BitVec.ofNat 512 x)) false with
    | .error e => .error e
    | .ok s => Done.plain s
/-- MCFG. -/
def execMcfg (e : Fields) (s : State) : Answer := .next (s.issue (.mcfg e) effMcfg)

/-- MSTAT's word for a selector. -/
def Cluster.matWord (c : Cluster) (sel : Nat) : Word :=
  if sel < 16 then
    match mfind c.banks sel with
    | none => 0
    | some b => BitVec.ofNat 64 (b.npm1 * 2 ^ 11 + b.kpm1 * 2 ^ 19 + b.bfmt * 2 ^ 27 + b.state * 2 ^ 30 + b.tag.toNat * 2 ^ 32)
  else if sel = 0x100 then
    BitVec.ofNat 64 (c.freePods + ((upTo 16).filter (fun n => (mfind c.banks n).isSome)).foldl (fun a n => a + 2 ^ (9 + n)) 0)
  else 0

/-- MSTAT's effect. -/
def effMstat : Eff := fun _ v s => Done.result s (.s ((s.cluster s.myCl).matWord v.y.s.toNat))
/-- MSTAT. -/
def execMstat (e : Fields) (s : State) : Answer := .next (s.issue (.mstat e) effMstat)

end Sys2Proof.Machine
end

