-- ==== Sys2Proof/Machine/CopyEngine.lean ====
section
/-! DEFINITION. The copy engine (R69 to R85): geometry, the start of a request, its units, landing, completion, and the
packets of a network send (R77, R381). A unit is one element of a geometry walk, or the part of a plain range that one
64-byte destination line takes; a network send has one unit for each packet. -/

namespace Sys2Proof.Machine

/-! ### Requests -/

/-- OP. -/
def CopyReq.op (r : CopyReq) : Nat := wfield r.w0 56 8

/-- A geometry record is present. -/
def CopyReq.geo (r : CopyReq) : Bool := r.w0.getLsbD 48

/-- QM. -/
def CopyReq.qm (r : CopyReq) : Bool := r.w0.getLsbD 49

/-- SEQ. -/
def CopyReq.seq (r : CopyReq) : Bool := r.w0.getLsbD 50

/-- A 56-bit stride. -/
def stride56 (w : Nat) : Int := toSigned 56 w

/-- The geometry record at an address of local memory: element bytes and dimensions, innermost first; a status otherwise
(R74): ADDR before ILLFORM. -/
def Core.geometry (c : Core) (a : Nat) : Except Nat (Nat × List Dim) :=
  let w (o : Nat) : Nat := bread c.mem (a + o) 8
  if 0x400000 < a + 8 then .error 4
  else
    let h := w 0
    let d := bits h 0 3
    if 0x400000 < a + 8 + 24 * d then .error 4
    else
      let smp (k : Nat) : Nat := bits h (16 + 8 * k) 8
      let ext (k : Nat) : Nat := bits (w (8 + 24 * k)) 0 32
      let step (k : Nat) : Nat := if k < 3 then smp k else 1
      let bad := a % 8 != 0 || d == 0 || bits h 3 5 != 0 || bits h 10 6 != 0 || bits h 40 24 != 0
        || (upTo 3).any (fun k => if k < d then smp k == 0 else smp k != 0)
        || (upTo d).any (fun k => ext k == 0 || bits (w (8 + 24 * k)) 32 32 != 0 || bits (w (16 + 24 * k)) 56 8 != 0
            || bits (w (24 + 24 * k)) 56 8 != 0)
      if bad then .error 1
      else
        let dims := (upTo d).map (fun k =>
          { n := ceilDiv (ext k) (step k), src := step k * stride56 (bits (w (16 + 24 * k)) 0 56),
            dst := stride56 (bits (w (24 + 24 * k)) 0 56) : Dim })
        let esz := 2 ^ bits h 8 2
        if 2 ^ 40 ≤ esz * (dims.map (·.n)).foldl (· * ·) 1 then .error 1 else .ok (esz, dims)

/-- Elements of a walk. -/
def walkCount (ds : List Dim) : Nat := (ds.map (·.n)).foldl (· * ·) 1

/-- The source and destination offsets of element `i` (R75). -/
def walkAt : List Dim → Nat → Int × Int
  | [], _ => (0, 0)
  | d :: ds, i =>
    let k : Int := (i % d.n : Nat)
    let r := walkAt ds (i / d.n)
    (k * d.src + r.1, k * d.dst + r.2)

/-- The walk of a request of a core. -/
def Core.walkOf (c : Core) (r : CopyReq) : Except Nat Walk :=
  if r.geo then (match c.geometry r.w3.toNat with
    | .error e => .error e
    | .ok (n, ds) => .ok (.geo n ds))
  else .ok (.plain (wfield r.w3 0 40))

/-- The geometry record of a request cannot be read (R359). [DEDUCED, log 61] -/
def State.geoHard (s : State) (p : Nat) (r : CopyReq) : Bool :=
  let a := r.w3.toNat
  let n := 8 + 24 * bits (bread (s.core p).mem a 8) 0 3
  r.geo && decide (a + 8 ≤ 0x400000) && (s.hardErr (.loc p) a 8 || (decide (a + n ≤ 0x400000) && s.hardErr (.loc p) a n))

/-- What the engine corrects of the geometry record that it reads (R359). -/
def State.geoFix (s : State) (p : Nat) (r : CopyReq) : State :=
  let a := r.w3.toNat
  let n := 8 + 24 * bits (bread (s.core p).mem a 8) 0 3
  if r.geo && decide (a + 8 ≤ 0x400000) then s.correct p (.loc p) a (if a + n ≤ 0x400000 then n else 8) else s

/-- Bytes in all. -/
def Walk.bytes : Walk → Nat
  | .plain n => n
  | .geo n ds => n * walkCount ds

/-- Units of a request. [DEDUCED, log 61] -/
def Walk.units (w : Walk) (r : CopyReq) : Nat :=
  if r.op = 2 then ceilDiv w.bytes 4096
  else match w with
    | .plain n => if n = 0 then 0 else (r.w2.toNat % 64 + n + 63) / 64
    | .geo _ ds => walkCount ds

/-- Unit `u`: source address, destination address, bytes. [DEDUCED, log 61] -/
def Walk.unit (w : Walk) (r : CopyReq) (u : Nat) : Nat × Nat × Nat :=
  match w with
  | .plain n =>
    let k := r.w2.toNat % 64
    let lo := 64 * u - k
    let hi := min n (64 * (u + 1) - k)
    ((r.w1.toNat + lo) % 2 ^ 64, (r.w2.toNat + lo) % 2 ^ 64, hi - lo)
  | .geo n ds =>
    let o := walkAt ds u
    (addrPlus r.w1.toNat o.1, addrPlus r.w2.toNat o.2, n)

/-- Units that share an aligned 8-byte chunk of the destination: the chunks of a unit. -/
def chunksOf (x : Nat × Nat × Nat) : List Nat := if x.2.2 = 0 then [] else [x.2.1 / 8, (x.2.1 + x.2.2 - 1) / 8].eraseDups

/-- A chunk is written completely by the units of a copy. -/
def chunkFull (xs : List (Nat × Nat × Nat)) (c : Nat) : Bool :=
  (upTo 8).all (fun b => xs.any (fun x => decide (x.2.1 ≤ 8 * c + b) && decide (8 * c + b < x.2.1 + x.2.2)))

/-- Adds the units that share with one of a list a chunk that the copy writes completely, until there are no more. -/
def growMates (xs : List (Nat × Nat × Nat)) : Nat → List Nat → List Nat
  | 0, us => us
  | fuel + 1, us =>
    let cs := (us.flatMap (fun u => chunksOf (xs.getD u (0, 0, 0)))).eraseDups.filter (chunkFull xs)
    let vs := (upTo xs.length).filter (fun u => us.contains u || (chunksOf (xs.getD u (0, 0, 0))).any cs.contains)
    if vs.length = us.length then us else growMates xs fuel vs

/-- The units that land together with unit `u`: a chunk that the copy writes completely lands whole (R128). -/
def Walk.mates (w : Walk) (r : CopyReq) (u : Nat) : List Nat :=
  match w with
  | .plain _ => [u]
  | .geo _ ds => growMates ((upTo (walkCount ds)).map (w.unit r)) (walkCount ds) [u]

/-- The pieces of the byte stream from byte `o` on, `n` bytes: address and length (R77). -/
def Walk.stream (w : Walk) (r : CopyReq) (o n : Nat) : List (Nat × Nat) :=
  match w with
  | .plain len => [((r.w1.toNat + o) % 2 ^ 64, min n (len - o))]
  | .geo esz ds =>
    (upTo (min n (w.bytes - o) / esz)).map (fun k => (addrPlus r.w1.toNat (walkAt ds (o / esz + k)).1, esz))

/-! ### The check at the start (R73, R74, R77, R91) -/

/-- A range may be read or landed by a request pushed at a level. -/
def copyRange (lvl a n : Nat) : Bool :=
  match spaceOf a n with
  | some .loc => true
  | some .glob => true
  | some .clu => lvl != 0 || decide (a + n ≤ logBase)
  | _ => false

/-- A range lies in local or cluster memory. -/
def nearRange (lvl a n : Nat) : Bool := copyRange lvl a n && spaceOf a n != some .glob

/-- The status of a request at its start, 0 when it runs. A send with an ungranted handle reports ACCESS, whatever its source and its
length. [DESIGN CHOICE, log 93] -/
def State.copyCheck (s : State) (p : Nat) (r : CopyReq) (w : Walk) : Nat :=
  let srcs : List (Nat × Nat) := match w with
    | .plain n => if n = 0 then [] else [(r.w1.toNat, n)]
    | .geo n ds => (upTo (walkCount ds)).map (fun i => (addrPlus r.w1.toNat (walkAt ds i).1, n))
  let dsts : List (Nat × Nat) := match w with
    | .plain n => if n = 0 then [] else [(r.w2.toNat, n)]
    | .geo n ds => (upTo (walkCount ds)).map (fun i => (addrPlus r.w2.toNat (walkAt ds i).2, n))
  let q := match s.partOf p with
    | some q => q
    | none => 16
  if r.op = 2 then
    if wfield r.w2 32 32 != 0 then 1
    else if (s.granted q (wfield r.w2 0 32) [3]).isNone then 3
    else if !(srcs.all (fun x => nearRange r.lvl x.1 x.2)) then 4
    else 0
  else if r.op = 3 then (if dsts.all (fun x => copyRange r.lvl x.1 x.2) then 0 else 4)
  else if srcs.all (fun x => copyRange r.lvl x.1 x.2) && dsts.all (fun x => copyRange r.lvl x.1 x.2) then 0
  else 4

/-! ### Slots -/

/-- Changes slot `i` of a cluster. -/
def State.modSlot (s : State) (cl i : Nat) (f : CopySlot → CopySlot) : State :=
  s.modCluster cl (fun c => { c with slots := c.slots.modify i f })

/-- A packet belongs to a copy. -/
def Packet.of (k : Packet) (cl : Nat) (z : CopySlot) : Bool := k.cl == cl && k.cidx == z.cidx && k.no == z.req.no

/-- A copy is over: it has ended, or stopped with nothing of it still on its way; no byte of it lands any more. -/
def State.copyOver (s : State) (cl : Nat) (z : CopySlot) : Bool :=
  z.status.isSome && z.held.isEmpty && !(s.packets.any (fun k => k.of cl z))

/-- The engine of a cluster, for a request with a context ID. -/
def engineAgent (cl : Nat) (cid : BitVec 12) : Agent := { die := cl / 256, master := masterOf cl 9, cid := cid, carried := none }

/-- What a failed unit of a copy does beside the copy: PAGE sends the trap message (R80), a refusal is counted (R67), ECC taints the
launch (R360). -/
def State.copyFault (s : State) (cl : Nat) (z : CopySlot) (status : Nat) (fault : CFail) : State :=
  let p := coreAt cl z.cidx
  match status with
  | 2 => s.trapMsg p 0x20 fault.1 fault.2.1 9 z.req.cid (BitVec.ofNat 64 (fault.2.2 / 65536 % 2 ^ 41))
  | 3 => if fault.1 = 8 then s.countRefusal (engineAgent cl z.req.cid) fault.2.2 fault.2.1 else s
  | 5 => (match s.launchOf p with
    | some (q, l) => s.taint q l.serial 2 2
    | none => s)
  | _ => s

/-- Ends a copy with a status: a stop sets FAIL of its barrier (R83). [DEDUCED, log 61] -/
def State.endCopy (s : State) (cl i status : Nat) (fault : CFail) : State :=
  match (s.cluster cl).slots[i]? with
  | none => s
  | some z =>
    let p := coreAt cl z.cidx
    let s := s.modSlot cl i (fun z => { z with status := some status, held := if z.req.op = 2 || status = 0 then [] else z.held })
    let s := if status = 0 || status = 6 then s else s.modCore p (fun c => c.failBB z.req.w0)
    s.copyFault cl z status fault

/-- Frees slot `i`. [DEDUCED, log 61] -/
def State.freeSlot (s : State) (cl i : Nat) : State :=
  s.modCluster cl (fun c => { c with slots := c.slots.eraseIdx i })

/-- The next step of a copy to a global destination or a network queue on a core with a twin: once every unit has its bytes, they go to the
comparison, and the copy lands or sends them after the match (R365). [DEDUCED, log 54] -/
def State.copyStep (s : State) (cl : Nat) (z : CopySlot) : PairStep :=
  let b := (upTo z.total).flatMap (fun u => (mfind z.held u).getD [])
  s.pairStep (coreAt cl z.cidx) z.req.pair z.req.drop z.req.no 1 z.req.w2.toNat b.length (ofBytes b)

/-- Some of what a copy moves has still to be compared: a copy without a twin, one whose number has matched or one that is discarded has
nothing to wait for. -/
def State.unmatched (s : State) (cl : Nat) (z : CopySlot) : Bool :=
  let c := s.core (coreAt cl z.cidx)
  c.twin.isSome && !z.req.drop && (match z.req.pair with
    | some n => (mfind c.matched n).isNone
    | none => false)

/-- A copy that has landed all its bytes ends with OK; with QM = 1 it frees its slot at once (R69). -/
def State.settleCopy (s : State) (cl i : Nat) : State :=
  match (s.cluster cl).slots[i]? with
  | none => s
  | some z =>
    if z.status.isSome || z.landed.length < z.total then s
    else if z.req.qm then s.freeSlot cl i
    else s.endCopy cl i 0 (0, 0, 0)

/-! ### COPY_START (R69, R72 to R74, R78) -/

/-- The head of a core's FIFO may start. -/
def State.copyReady (s : State) (cl i : Nat) : Bool :=
  let c := s.core (coreAt cl i)
  match c.fifo with
  | [] => false
  | r :: _ =>
    !c.quiesce && (!r.seq || !((s.cluster cl).slots.any (fun z => z.cidx == i && !(s.copyOver cl z))))

/-- COPY_START: the engine starts the head of the next FIFO while a slot is free. -/
def execCopyStart (cl : Nat) (s : State) : Answer :=
  let k := s.cluster cl
  if 16 ≤ k.slotsUsed then .next s
  else match ((upTo 9).map (fun j => (k.crr + j) % 9)).find? (s.copyReady cl) with
    | none => .next s
    | some i =>
      let p := coreAt cl i
      match (s.core p).fifo with
      | [] => .next s
      | r :: rest =>
        let s := (s.modCore p (fun c => { c with fifo := rest })).modCluster cl (fun c => { c with crr := (i + 1) % 9 })
        let s := if s.geoHard p r then s else s.geoFix p r
        let n := (s.cluster cl).slots.length
        let slot (w : Walk) (total : Nat) : CopySlot :=
          { cidx := i, req := r, walk := w, total := total, held := [], landed := [], bytes := 0, status := none, posted := false }
        let add (w : Walk) (total : Nat) : State := s.modCluster cl (fun c => { c with slots := c.slots ++ [slot w total] })
        if s.geoHard p r then .next ((add (.plain 0) 0).endCopy cl n 5 (0, 0, 0))
        else match (s.core p).walkOf r with
        | .error e => .next ((add (.plain 0) 0).endCopy cl n e (0, 0, 0))
        | .ok w =>
          let st := s.copyCheck p r w
          if st != 0 then .next ((add w 0).endCopy cl n st (0, 0, 0))
          else
            let z := slot w (w.units r)
            .next (match if z.total = 0 then s.copyStep cl z else .go with
              | .wait t => t.modCluster cl (fun c => { c with slots := c.slots ++ [z] })
              | .go => (add w z.total).settleCopy cl n)

/-! ### COPY and FILL -/

/-- Why an engine's read fails: the status and its fault, with the state that the translation of a read that meets an uncorrectable error has
left (R62). -/
abbrev EngineStop := (Nat × CFail) × State

/-- Reads bytes for a copy: the bytes, or the failing status and its fault. -/
def State.engineRead (s : State) (cl p : Nat) (cid : BitVec 12) (a n : Nat) : Except EngineStop (List Byte × State) :=
  match spaceOf a n with
  | some .loc =>
    if s.hardErr (.loc p) a n then .error ((5, 0, 0, 0), s)
    else .ok (breadList (s.core p).mem a n, s.correct p (.loc p) a n)
  | some .clu =>
    if s.hardErr (.clu cl) a n then .error ((5, 0, 0, 0), s)
    else .ok (bytesOf n (s.cluRead cl a n), s.correct p (.clu cl) a n)
  | some .glob =>
    (match s.gcheck (engineAgent cl cid) a n 0 9 with
    | .error e => .error ((if e.1 = 8 then 3 else 2, e.1, 0, e.2), s)
    | .ok (ps, s) =>
      if ps.any (fun x => s.hardErr .phys x.pa x.n) then .error ((5, 0, 0, 0), s)
      else .ok (bytesOf n (s.gread ps), ps.foldl (fun s x => s.correct p .phys x.pa x.n) s))
  | _ => .error ((4, 0, 0, 0), s)

/-- A unit may still be produced. -/
def CopySlot.open' (z : CopySlot) (u : Nat) : Bool :=
  z.status.isNone && decide (u < z.total) && !(z.landed.contains u) && (mfind z.held u).isNone

/-- COPY: the engine reads unit `unit` of the copy in slot `slot`. -/
def execCopy (cl slot unit : Nat) (s : State) : Answer :=
  match (s.cluster cl).slots[slot]? with
  | none => .next s
  | some z =>
    let p := coreAt cl z.cidx
    if z.req.op != 1 || !(z.open' unit) then .next s
    else
      let x := z.walk.unit z.req unit
      match s.engineRead cl p z.req.cid x.1 x.2.2 with
      | .error (e, s) => .next (s.endCopy cl slot e.1 e.2)
      | .ok (b, s) => .next (s.modSlot cl slot (fun z => { z with held := mset z.held unit b }))

/-- FILL: the engine makes the pattern of unit `unit` (R76). -/
def execFill (cl slot unit : Nat) (s : State) : Answer :=
  match (s.cluster cl).slots[slot]? with
  | none => .next s
  | some z =>
    if z.req.op != 3 || !(z.open' unit) then .next s
    else
      let x := z.walk.unit z.req unit
      let o := match z.walk with
        | .plain _ => 64 * unit - z.req.w2.toNat % 64
        | .geo _ _ => 0
      let b := (upTo x.2.2).map (fun i => BitVec.ofNat 8 (bits z.req.w1.toNat (8 * ((o + i) % 8)) 8))
      .next (s.modSlot cl slot (fun z => { z with held := mset z.held unit b }))

/-! ### COPY_LANDING (R73, R78, R83, R94) -/

/-- Lands bytes at a destination of a core, or says why they cannot land. [DEDUCED, log 54] -/
def State.engineWrite (s : State) (cl p : Nat) (cid : BitVec 12) (a : Nat) (b : List Byte) : Except (Nat × CFail) State :=
  let n := b.length
  let part := !(a % 64 == 0 && n % 64 == 0)
  let line := (a / 64 * 64, (a % 64 + n + 63) / 64 * 64)
  match spaceOf a n with
  | some .loc =>
    if part && s.hardErr (.loc p) line.1 line.2 then .error (5, 0, 0, 0)
    else .ok (((s.partFix p (.loc p) a n).modCore p (fun c => c.writeLocal a n (ofBytes b))).clearErr (.loc p) a n)
  | some .clu =>
    if part && s.hardErr (.clu cl) line.1 line.2 then .error (5, 0, 0, 0)
    else
      let s := if (s.core p).twin.isSome then s.modCore p (fun c => { c with ovf := true }) else s
      .ok (((s.partFix p (.clu cl) a n).cluWrite cl a n (ofBytes b)).clearErr (.clu cl) a n)
  | some .glob =>
    (match s.gstore (engineAgent cl cid) a n (ofBytes b) with
    | .error e => .error (if e.1 = 8 then 3 else 2, e.1, 1, e.2)
    | .ok s => .ok s)
  | _ => .error (4, 0, 0, 0)

/-- Credits landed bytes to a byte barrier (R83). -/
def Core.credit (c : Core) (w0 : Word) (n : Nat) : Core :=
  let b := wfield w0 40 8
  if b < 8 then
    let e := mget (0, 0) c.bb b
    { c with bb := mset c.bb b (e.1, BitVec.ofNat 64 (low63 e.2 - n + e.2.toNat / 2 ^ 63 * 2 ^ 63)) }
  else c

/-- Lands one unit that is held: its bytes land and credit the barrier, or the copy stops. [DEDUCED, log 61] -/
def State.landUnit (cl slot : Nat) (s : State) (unit : Nat) : State :=
  match (s.cluster cl).slots[slot]? with
  | none => s
  | some z =>
    match mfind z.held unit with
    | none => s
    | some b =>
      let p := coreAt cl z.cidx
      let put := if s.pairDrops p z.req.pair z.req.drop then .ok s else s.engineWrite cl p z.req.cid (z.walk.unit z.req unit).2.1 b
      match put with
      | .error e =>
        let s := s.modSlot cl slot (fun z => { z with held := merase z.held unit })
        if z.status.isSome then s.copyFault cl z e.1 e.2 else s.endCopy cl slot e.1 e.2
      | .ok s =>
        (s.modSlot cl slot (fun z =>
          { z with held := merase z.held unit, landed := unit :: z.landed, bytes := z.bytes + b.length })).modCore p
          (fun c => c.credit z.req.w0 b.length)

/-- COPY_LANDING: bytes that were read, or made by a fill, land and credit the barrier, with the units that share a chunk with them
once those are held too (R128); those of a twin's copy once all are held and have been compared (R365), and on the core that writes nothing
once the other's have landed (R136). A stopped copy drops the bytes that
it can no longer land. [DEDUCED, log 61] -/
def execCopyLanding (cl slot unit : Nat) (s : State) : Answer :=
  match (s.cluster cl).slots[slot]? with
  | none => .next s
  | some z =>
    let us := z.walk.mates z.req unit
    if z.req.op = 2 && z.total != 0 then .next s
    else if z.status.isNone && s.unmatched cl z then
      .next (if z.held.length < z.total then s
        else match s.copyStep cl z with
          | .wait t => t
          | .go => s)
    else if z.total = 0 then .next (s.settleCopy cl slot)
    else if (mfind z.held unit).isNone then .next s
    else if s.unmatched cl z then .next (s.modSlot cl slot (fun z => { z with held := [] }))
    else if us.any (fun v => s.primaryOwes (coreAt cl z.cidx) z.req.pair z.req.drop (fun y => !(y.landed.contains v))) then .next s
    else if us.all (fun v => z.landed.contains v || (mfind z.held v).isSome) then
      .next ((us.foldl (State.landUnit cl slot) s).settleCopy cl slot)
    else if z.status.isSome then .next (s.modSlot cl slot (fun z => { z with held := merase z.held unit }))
    else .next s

/-! ### COPY_COMPLETION (R79 to R81) -/

/-- COPY_COMPLETION: a copy that is over posts its message; it keeps its slot until the message enters the mailbox. -/
def execCopyCompletion (cl slot : Nat) (s : State) : Answer :=
  match (s.cluster cl).slots[slot]? with
  | none => .next s
  | some z =>
    match z.status with
    | none => .next s
    | some st =>
      let p := coreAt cl z.cidx
      let e := copyMsg st z.req.w0 z.bytes
      if z.posted || !(s.copyOver cl z) then .next s
      else if s.silent p then .next (s.freeSlot cl slot)
      else if (s.core p).room e.len && !(s.posts.any (fun w => !w.sup && w.dst == p)) then
        .next ((s.freeSlot cl slot).modCore p (fun c => { c with mbox := c.mbox ++ [e] }))
      else
        .next { s.modSlot cl slot (fun z => { z with posted := true }) with
          posts := s.posts ++ [{ sup := false, dst := p, entry := e, rule := none, copy := some z.req.no }] }

/-! ### Network sends (R77, R381) -/

/-- Reads several pieces of near memory as one run of bytes. -/
def State.readPieces (s : State) (cl p : Nat) (cid : BitVec 12) : List (Nat × Nat) → Except EngineStop (List Byte × State)
  | [] => .ok ([], s)
  | (a, n) :: ps =>
    match s.engineRead cl p cid a n with
    | .error e => .error e
    | .ok (b, s) =>
      match s.readPieces cl p cid ps with
      | .error e => .error e
      | .ok (bs, s) => .ok (b ++ bs, s)

/-- The bytes of a packet of a network send land: its peer has acknowledged them, or a twin's copy of them goes out instead. -/
def State.landPacket (s : State) (cl i n : Nat) : State :=
  match (s.cluster cl).slots[i]? with
  | none => s
  | some z =>
    let s := s.modSlot cl i (fun z => { z with landed := z.landed.length :: z.landed, bytes := z.bytes + n })
    (s.modCore (coreAt cl z.cidx) (fun c => c.credit z.req.w0 n)).settleCopy cl i

/-- The packet of a network copy that is read, or leaves, next. -/
def State.packetDue (s : State) (cl : Nat) (z : CopySlot) : Nat :=
  if s.unmatched cl z then ((upTo z.total).find? (fun j => (mfind z.held j).isNone)).getD z.total
  else z.landed.length + (s.packets.filter (fun x => x.of cl z)).length

/-- The port that a network copy of a core leaves by (R381). -/
def State.copyPort (s : State) (p : Nat) (z : CopySlot) : Nat :=
  (s.queueOf (((s.granted ((s.partOf p).getD 16) (wfield z.req.w2 0 32) [3]).map (·.2)).getD 0)).port % 8

/-- NETWORK_SEND: the engine reads the next packet of the walked byte stream, and it leaves through the port of the send queue to the
queue's peer, where the port and what lies before it admit the partition (R67, R381, R383). A twin's packets are all read, and compared with
the other's, before the first leaves (R365). [DEDUCED, log 54, 61] -/
def execNetworkSend (cl slot : Nat) (s : State) : Answer :=
  match (s.cluster cl).slots[slot]? with
  | none => .next s
  | some z =>
    let p := coreAt cl z.cidx
    let u := s.packetDue cl z
    if z.req.op != 2 || z.status.isSome || z.total = 0
        || (!(s.unmatched cl z) && (decide (z.total ≤ u)
        || s.primaryOwes p z.req.pair z.req.drop (fun y => !(y.landed.contains u)))) then .next s
    else
      let q := match s.partOf p with
        | some q => q
        | none => 16
      let queue := match s.granted q (wfield z.req.w2 0 32) [3] with
        | some (_, t) => t
        | none => 0
      let port := s.copyPort p z
      match s.portBars (masterOf cl 9) q port with
      | some t => .next ((s.refuseAt t).endCopy cl slot 3 (0, 0, 0))
      | none =>
        let got : Except EngineStop (List Byte × State) := match mfind z.held u with
          | some b => .ok (b, s)
          | none => if z.total ≤ u then .ok ([], s) else s.readPieces cl p z.req.cid (z.walk.stream z.req (4096 * u) 4096)
        match got with
        | .error (e, s) => .next (s.endCopy cl slot e.1 e.2)
        | .ok (b, s) =>
          let s := if u < z.total then s.modSlot cl slot (fun z => { z with held := mset z.held u b }) else s
          if s.unmatched cl z then
            .next (match (s.cluster cl).slots[slot]? with
              | some z => if z.held.length < z.total then s else match s.copyStep cl z with
                | .wait t => t
                | .go => s
              | none => s)
          else
            let s := s.modSlot cl slot (fun z => { z with held := merase z.held u })
            .next (if s.pairDrops p z.req.pair z.req.drop then s.landPacket cl slot b.length
              else { s with packets := s.packets ++
                [{ cl := cl, cidx := z.cidx, no := z.req.no, queue := queue, peer := (s.queueOf queue).peer, bytes := b, tries := 0,
                   sent := s.time }] })

/-- The slot of the copy that a packet belongs to. -/
def State.slotOf (s : State) (k : Packet) : Option Nat := if 512 ≤ k.cl then none else (s.cluster k.cl).slots.findIdx? (fun z => k.of k.cl z)

/-- PACKET_ACK: the transport acknowledges packet `k`, in order on its queue; its bytes have landed. -/
def execPacketAck (k : Nat) (s : State) : Answer :=
  match s.packets[k]? with
  | none => .next s
  | some x =>
    if (s.packets.take k).any (fun y => y.queue == x.queue) then .next s
    else
      let s := { s with packets := s.packets.eraseIdx k }
      match s.slotOf x with
      | none => .next s
      | some i => .next (s.landPacket x.cl i x.bytes.length)

/-- PACKET_RETRANSMIT: packet `k` has not been acknowledged: it is sent again, at most 8 times and for at most 1 ms; then its
copy stops with NETERR; that of a buddy copy fails the checkpoint (R371). -/
def execPacketRetransmit (k : Nat) (s : State) : Answer :=
  match s.packets[k]? with
  | none => .next s
  | some x =>
    if x.tries < 8 && decide ((s.time - x.sent).toNat < 250000) then
      .next { s with packets := s.packets.set k { x with tries := x.tries + 1 } }
    else if 512 ≤ x.cl then
      .next { s with packets := s.packets.filter (fun y => y.cl != x.cl),
                     netErrs := s.netErrs ++ [(x.cl - 512, (s.part (x.cl - 512)).ckpt.buddy, 0)] }
    else
      let t := { s with packets := s.packets.filter (fun y => !(y.cl == x.cl && y.cidx == x.cidx && y.no == x.no)) }
      match t.slotOf x with
      | none => .next t
      | some i =>
        .next (if ((t.cluster x.cl).slots[i]?).any (fun z => z.status.isSome) then t else t.endCopy x.cl i 7 (0, 0, 0))

/-! ### COPY_ASSEMBLY_DISCARD (R70, R245, R255) -/

/-- A context has issued 16 instructions without a push: its partial record is dropped. -/
def State.discardAsm (s : State) (p : Nat) (q : AsmQueue) : State :=
  match (s.core p).asmOf q with
  | none => s
  | some a =>
    if a.since < 16 then s
    else s.modCore p (fun c => (c.setAsm q none).modContext a.ctx (fun x => { x with tsw := orBit x.tsw (discardBit q) }))

/-- COPY_ASSEMBLY_DISCARD. -/
def execCopyAssemblyDiscard (core : Nat) (q : AsmQueue) (s : State) : Answer := .next (s.discardAsm core q)

end Sys2Proof.Machine
end

