-- ==== Sys2Proof/Machine/Delivery.lean ====
section
/-! DEFINITION. What arrives: waiting completions (R393), messages and their answers (R122, R123), neighbour-link words
(R12), pending results (R146, R180), global requests, walks and responses (R57, R61, R66), XLAT.INV (R64), window-cache
fills (R93), trap messages (R331, R332) and replayed flits (R383). -/

namespace Sys2Proof.Machine

/-- No entry before position `k` satisfies a test. -/
def firstOf {α : Type} (l : List α) (k : Nat) (p : α → Bool) : Bool := !((l.take k).any p)

/-! ### MAILBOX_DEFERRED_POST (R393) -/

/-- The command or copy whose completion has entered the mailbox is over. -/
def State.postDone (s : State) (w : Post) : State :=
  let s := match w.rule with
    | some id => s.dropCmd id
    | none => s
  match w.copy with
  | none => s
  | some no =>
    match (s.cluster (clusterOf w.dst)).slots.findIdx? (fun z => z.cidx == cidxOf w.dst && z.req.no == no && z.posted) with
    | some i => s.freeSlot (clusterOf w.dst) i
    | none => s

/-- MAILBOX_DEFERRED_POST: the first completion that waits for a mailbox enters it, once there is room. -/
def execMailboxDeferredPost (k : Nat) (s : State) : Answer :=
  match s.posts[k]? with
  | none => .next s
  | some w =>
    let room := if w.sup then mailRoom (s.supBox w.dst) [] w.entry.len else (s.core w.dst).room w.entry.len
    if !room || !(firstOf s.posts k (fun v => v.sup == w.sup && v.dst == w.dst)) then .next s
    else
      let t := { s with posts := s.posts.eraseIdx k }.postDone w
      .next (if w.sup then t.supPut w.dst w.entry
        else t.modCore w.dst (fun c => { c with mbox := c.mbox ++ [w.entry] }))

/-! ### Messages (R122, R333, R361, R375) -/

/-- The destination cluster's access table admits a fixed handle's message as a write by the sender's partition (R375). -/
def State.fixedOk (s : State) (m : Msg) : Bool :=
  s.access.any (fun r => r.target == 0x1000 + clusterOf m.dst && r.master == masterOf (clusterOf m.src) (cidxOf m.src)
    && some r.part == s.partOf m.src && r.w)

/-- A message crosses on the lane of the row on which its route starts (R15), and that lane holds. -/
def State.msgHeld (s : State) (src dst : Nat) : Bool := dieOf src != dieOf dst && s.laneHolds (siteOf src / 16)

/-- A context that a resume message may name (R333, R342): stopped by a reserved code, PARK, an S-level TRAP or a double trap,
or a control context without a logical number. -/
def resumable (x : Context) : Bool :=
  match x.run with
  | .stopped .reserved => true
  | .stopped .parked => true
  | .stopped .soft => true
  | .stopped .double => true
  | .stopped .noLogical => true
  | _ => false

/-- Word `n` of a message's payload. -/
def Msg.word (m : Msg) (n : Nat) : Word := m.body.extractLsb' (64 * n) 64

/-- The context that a resume message names. -/
def Msg.target (m : Msg) : Nat := wfield (m.word 0) 0 4

/-- A control endpoint accepts a message (R333). [DEDUCED, log 48] -/
def State.resumeOk (s : State) (m : Msg) : Bool :=
  m.len == 16 && wfield (m.word 0) 4 4 == 0 && wfield (m.word 0) 9 55 == 0 && decide (m.target ≤ 10)
    && resumable ((s.core m.dst).context m.target)

/-- The STATUS with which a message is refused, 0 when it is accepted. A core that the device does not have, which a logical core can be bound
to, refuses as a dead one does. [DEDUCED, log 48; DESIGN CHOICE, log 106] -/
def State.refusal (s : State) (m : Msg) : Nat :=
  let c := s.core m.dst
  if c.dead || s.fusedOff m.dst then 2
  else if c.poisoned then 1
  else if m.kind = 1 then (if s.resumeOk m then 0 else 3)
  else if m.fixed && !(s.fixedOk m) then 3
  else if c.room m.len then 0 else 1

/-- A message is the first of those that its context sent to its handle (R123). -/
def State.inTurn (s : State) (m : Msg) (k : Nat) : Bool :=
  firstOf s.msgs k (fun x => x.src == m.src && x.ctx == m.ctx && x.handle == m.handle)

/-- The mailbox entry of an accepted message (R120). -/
def Msg.entry (m : Msg) : MailEntry :=
  { status := 0, cls := 1, src := BitVec.ofNat 32 (0x80000000 + m.src), len := m.len, next := 0, body := m.body }

/-- MESSAGE_ARRIVAL: message `k` reaches its destination and is accepted or refused. What a control endpoint accepts is the
step RESUME_MESSAGE. [DEDUCED, log 48] -/
def execMessageArrival (k : Nat) (s : State) : Answer :=
  match s.msgs[k]? with
  | none => .next s
  | some m =>
    let st := s.refusal m
    if s.msgHeld m.src m.dst || !(s.inTurn m k) || (m.kind = 1 && st = 0) then .next s
    else
      let t := { s with msgs := s.msgs.eraseIdx k }
      if st = 0 then
        .next ({ t with accs := t.accs ++ [m] }.modCore m.dst (fun c => { c with mbox := c.mbox ++ [m.entry] }))
      else
        let t := if st = 3 && m.kind != 1 then t.refuseAt (0x1000 + clusterOf m.dst) else t
        .next { t with backs := t.backs ++ [{ m with status := st }] }

/-- MESSAGE_RETURN: refused message `k` enters the room that its sender reserved, as CLASS 2. -/
def execMessageReturn (k : Nat) (s : State) : Answer :=
  match s.backs[k]? with
  | none => .next s
  | some m =>
    let e : MailEntry := { status := m.status, cls := 2, src := m.handle, len := m.len, next := 0, body := m.body }
    if s.msgHeld m.dst m.src then .next s
    else .next ({ s with backs := s.backs.eraseIdx k }.modCore m.src (fun c =>
      { c.settleMsg m.len with mbox := c.mbox ++ [e] }))

/-- MESSAGE_ACCEPT_NOTICE: acceptance `k` reaches the sender. -/
def execMessageAcceptNotice (k : Nat) (s : State) : Answer :=
  match s.accs[k]? with
  | none => .next s
  | some m =>
    if s.msgHeld m.dst m.src then .next s
    else .next ({ s with accs := s.accs.eraseIdx k }.modCore m.src (fun c => c.settleMsg m.len))

/-! ### LINK_WORD_ARRIVAL (R12) -/

/-- LINK_WORD_ARRIVAL: word `k` enters the receiver's FIFO, in the order of the pushes. -/
def execLinkWordArrival (k : Nat) (s : State) : Answer :=
  match s.links[k]? with
  | none => .next s
  | some l =>
    let held := if l.west then (s.core l.dst).west.length else (s.core l.dst).east.length
    if 4 ≤ held || !(firstOf s.links k (fun x => x.dst == l.dst && x.west == l.west)) then .next s
    else
      .next ({ s with links := s.links.eraseIdx k }.modCore l.dst (fun c =>
        if l.west then { c with west := c.west ++ [l.word] } else { c with east := c.east ++ [l.word] }))

/-! ### RESULT_DELIVERY (R146, R180, R329, R330) -/

/-- RESULT_DELIVERY: pending result `id` of a core arrives; or the fault of a vector access does, and its ring entry is
faulted. [DEDUCED, log 11] -/
def execResultDelivery (core id : Nat) (s : State) : Answer :=
  match (s.core core).due.find? (fun d => d.id == id) with
  | none => .next s
  | some d =>
    match d.value with
    | some v => .next (s.modCore core (fun c => c.deliver d v))
    | none =>
      match d.ring with
      | none => .next s
      | some k =>
        .next (s.modCore core (fun c => { c with ring := match mfind c.ring k with
          | some r => mset c.ring k { r with st := 2 }
          | none => c.ring }))

/-! ### Global requests (R57, R61, R63, R66, R114) -/

/-- Two requests of one core touch a common byte: the earlier one is served first. [DEDUCED, log 62] -/
def GReq.meets (a b : GReq) : Bool :=
  a.core == b.core && decide (a.va < b.va + b.n) && decide (b.va < a.va + a.n)

/-- The physical address that a request goes to, as far as its station can tell. -/
def State.reqPa (s : State) (r : GReq) : Option Nat :=
  match r.pas with
  | p :: _ => some p.1
  | [] => match s.translate (dieOf r.core) r.cid r.va r.acc with
    | .ok (pa, _) => some pa
    | .error _ => none

/-- A request crosses to the other die on the lane of its station (R13, R57). -/
def State.reqCrosses (s : State) (r : GReq) : Bool := (s.reqPa r).any (fun pa => dieOfPa pa != dieOf r.core)

/-- The lane of a request's station. -/
def GReq.lane (r : GReq) : Nat := laneOf (xlatSlice (dieOf r.core) r.va)

/-- A request crosses on a lane that holds, or to a die that relocks (R383, R385). -/
def State.reqHeld (s : State) (r : GReq) : Bool :=
  s.reqCrosses r && (s.laneHolds r.lane || (s.die (1 - dieOf r.core)).relock)

/-- An answer crosses on a lane that holds: that of the slice which has served the request, or of the PCIe controller (R14, R15). -/
def State.respHeld (s : State) (r : GReq) : Bool := (s.reqPa r).any (fun pa => dieOfPa pa != dieOf r.core && s.laneHolds (backLane pa))

/-- Two requests of one core cross on one lane, which keeps their order (R383). -/
def State.sameLane (s : State) (a b : GReq) : Bool := a.core == b.core && a.lane == b.lane && s.reqCrosses a && s.reqCrosses b

/-- The station must walk for a request: no cached translation, or a write to a clean one (R63). [DEDUCED, log 62] -/
def State.misses (s : State) (r : GReq) : Bool :=
  r.pas.isEmpty && r.cid != 0 && match (s.slice (xlatSlice (dieOf r.core) r.va)).hit r.cid r.va with
    | none => true
    | some t => !(t.serves r.acc)

/-- Serves a request at its target and sends the answer back; a posted one has none. One that tells of a fault holds the request's context ID.
A posted request that meets an uncorrectable error poisons its core (R361). -/
def State.answerReq (s : State) (r : GReq) : State :=
  match s.serve r with
  | .ok (v, s) =>
    if r.posted then s else { s with gresps := s.gresps ++ [{ req := r, fault := 0, value := BitVec.ofNat 512 v }] }
  | .error (e, s) =>
    if r.posted then (if e.1 = 11 then s.poisonCore r.core else s)
    else { s with gresps := s.gresps ++ [{ req := r, fault := e.1, value := r.cid.setWidth 512 }] }

/-- GLOBAL_REQUEST_ARRIVAL: request `k` reaches its slice: it is served, or waits for a walk. [DEDUCED, log 55, 62] -/
def execGlobalRequestArrival (k : Nat) (s : State) : Answer :=
  match s.greqs[k]? with
  | none => .next s
  | some r =>
    if s.reqHeld r || !(firstOf s.greqs k (fun x => r.meets x || s.sameLane x r)) || s.walks.any r.meets then .next s
    else
      let t := { s with greqs := s.greqs.eraseIdx k }
      .next (if s.misses r then { t with walks := t.walks ++ [r] } else t.answerReq r)

/-- A walker of its station works for waiting request `k`: it is the oldest for its page, and its walk is among the first 8 that
the station has (R7, R63). -/
def State.walking (s : State) (k : Nat) (r : GReq) : Bool :=
  let before := (s.walks.take k).map GReq.walkKey
  !(before.contains r.walkKey) && decide (((before.filter (fun x => x.1 == r.walkKey.1)).eraseDups).length < 8)

/-- TRANSLATION_WALK: the walk for waiting request `k` is made, and the requests that have joined it go on with it, in the order of
their arrival. [DEDUCED, log 62] -/
def execTranslationWalk (k : Nat) (s : State) : Answer :=
  match s.walks[k]? with
  | none => .next s
  | some r =>
    if !(s.walking k r) || !(firstOf s.walks k r.meets) then .next s
    else
      let others := s.walks.filter (fun x => x.walkKey != r.walkKey)
      let joined := s.walks.filter (fun x => x.walkKey == r.walkKey)
      let stay (x : GReq) : Bool := s.reqHeld x || (x.id != r.id && others.any (fun y => decide (y.id < x.id) && y.meets x))
      let t := (joined.filter (fun x => !(stay x))).foldl State.answerReq s
      .next { t with walks := s.walks.filter (fun x => x.walkKey != r.walkKey || stay x) }

/-- What an interrupted instruction of a twin had sent gets its answer. -/
def againAnswer (w : Option (Word × Option Nat × Option (Nat × VWord))) (id : Nat) (a : Nat × VWord) :
    Option (Word × Option Nat × Option (Nat × VWord)) :=
  match w with
  | some (pc, some i, none) => if i = id then some (pc, some i, some a) else w
  | _ => w

/-- The answer to access `id` of a core comes: for the instruction that waits for it, or for one that an entry to the handler or a swap has
interrupted; that to an abandoned access is dropped. [DESIGN CHOICE, log 14] -/
def Core.takeAnswer (c : Core) (id : Nat) (a : Nat × VWord) : Core :=
  if c.flight = some id then { c with answer := some a }
  else { c with again := againAnswer c.again id a,
                swaps := c.swaps.map (fun (w : Swapped) => { w with again := againAnswer w.again id a }) }

/-- An access of a core in flight gets its answer. -/
def State.reply (s : State) (p id fault : Nat) (v : Word) : State := s.modCore p (fun c => c.takeAnswer id (fault, widen v))

/-- GLOBAL_RESPONSE: answer `k` reaches its requester. -/
def execGlobalResponse (k : Nat) (s : State) : Answer :=
  match s.gresps[k]? with
  | none => .next s
  | some a =>
    if s.respHeld a.req then .next s
    else .next ({ s with gresps := s.gresps.eraseIdx k }.modCore a.req.core (fun c => c.takeAnswer a.req.id (a.fault, a.value)))

/-! ### XLAT.INV (R64) -/

/-- XLAT_INV: a core's invalidation reaches every station. -/
def execXlatInv (core : Nat) (s : State) : Answer :=
  match (s.core core).xlat, s.partOf core with
  | some (v, 0), some q => .next ((s.invalidate q v).modCore core (fun c => { c with xlat := some (v, 1) }))
  | some (v, 0), none => .next (s.modCore core (fun c => { c with xlat := some (v, 1) }))
  | _, _ => .next s

/-- XLAT_INV_DONE: no walk that the invalidation names is under way, so the SWR may complete. -/
def execXlatInvDone (core : Nat) (s : State) : Answer :=
  match (s.core core).xlat with
  | some (v, 1) =>
    if s.walks.any (s.walkMeets core v) then .next s
    else .next (s.modCore core (fun c => { c with xlat := some (v, 2) }))
  | _ => .next s

/-! ### WINDOW_CACHE_FILL (R93) -/

/-- WINDOW_CACHE_FILL: the line of window `w` of a core's launch that holds offset `off`, for which a PWLD of the core waits, is
filled; when its backing read fails, no line fills and the PWLD is told. [DEDUCED, log 34] -/
def execWindowCacheFill (core w off : Nat) (s : State) : Answer :=
  match s.launchOf core, (s.core core).wmiss with
  | some (q, l), some (cid, line, false) =>
    match mfind l.wins w with
    | none => .next s
    | some (base, size) =>
      let va := (base + off) % 2 ^ 64
      if size ≤ off || cid != l.cid || va / 64 * 64 != line || ((s.cluster (clusterOf core)).wline l.cid va).isSome then .next s
      else match s.fillLine core q l.cid va with
        | .error (_, s) => .next (s.modCore core (fun c => { c with wmiss := some (cid, line, true) }))
        | .ok s => .next (s.modCore core (fun c => { c with wmiss := none }))
  | _, _ => .next s

/-! ### Trap messages (R331, R332) -/

/-- Two messages that a router merges. [DEDUCED, log 75] -/
def TrapMsg.same (a b : TrapMsg) : Bool :=
  a.kind == 0x20 && b.kind == 0x20 && a.sub == b.sub && a.cid == b.cid && a.die == b.die && a.row == b.row
    && a.acc == b.acc && a.arg == b.arg && a.col == b.col

/-- The 256-bit flit (R331). -/
def TrapMsg.flit (m : TrapMsg) : Nat :=
  m.kind + m.sub * 2 ^ 8 + m.cid.toNat * 2 ^ 16 + m.die * 2 ^ 28 + m.row * 2 ^ 29 + m.acc * 2 ^ 34 + m.agent * 2 ^ 36
    + m.arg.toNat * 2 ^ 48 + m.map.toNat * 2 ^ 112

/-- TRAP_MESSAGE_HOP: message `k` merges with an equal one in its router, or moves one router west, or enters its row's
collector, which holds 32. [DEDUCED, log 75] -/
def execTrapMessageHop (k : Nat) (s : State) : Answer :=
  match s.traps[k]? with
  | none => .next s
  | some m =>
    match firstSuch s.traps.length (fun j => j != k && (s.traps.getD j m).same m) with
    | some j =>
      .next { s with traps := ((s.traps.modify j (fun x => { x with map := x.map ||| m.map, agent := 15 })).eraseIdx k) }
    | none =>
      if 0 < m.col then .next { s with traps := s.traps.set k { m with col := m.col - 1 } }
      else
        let held := mget [] (s.die m.die).coll m.row
        if 32 ≤ held.length || !(firstOf s.traps k (fun x => x.die == m.die && x.row == m.row && x.col == 0)) then .next s
        else
          .next ({ s with traps := s.traps.eraseIdx k }.modDie m.die (fun d =>
            { d with coll := mset d.coll m.row (held ++ [m]) }))

/-- COLLECTOR_POST: the oldest message of a row's collector enters supervisor core (row mod 4)'s mailbox, once there is
room. [DEDUCED, log 75] -/
def execCollectorPost (die row : Nat) (s : State) : Answer :=
  match mget [] (s.die die).coll row with
  | [] => .next s
  | m :: rest =>
    let n := die % 2 * 4 + row % 4
    if !(mailRoom (s.supBox n) [] 32) then .next s
    else .next ((s.modDie die (fun d => { d with coll := mset d.coll row rest })).supPut n (eventEntry 32 m.flit))

/-! ### SAHDAN_CRC_REPLAY (R383) -/

/-- SAHDAN_CRC_REPLAY: a flit of a lane has failed its CRC, and nothing that crosses on the lane arrives before it; or that flit is sent again
from the sender's buffer, and the lane goes on in its order. [DEDUCED, log 55] -/
def execSahdanCrcReplay (lane : Nat) (s : State) : Answer :=
  .next { s with replays := mset s.replays lane (if s.laneHolds lane then mget 0 s.replays lane - 1 else 1) }

end Sys2Proof.Machine
end

