-- ==== Sys2Proof/Machine/FloatScalar.lean ====
section
/-! DEFINITION. Scalar floating point: arithmetic, compare, class, sign, conversion (R179, R190 to R194). -/

namespace Sys2Proof.Machine

/-- A floating-point result written per R179, with its flags ORed into CTX.TSW (R174). -/
def fpDone (s : State) (r : Nat × FpFlags) : Except Stop Done :=
  Done.result (s.raise r.2) (.s (BitVec.ofNat 64 r.1))

/-- The effect of an operation on two sources in the type T. -/
def fpEff (f : Fmt → Opnds → Nat → Nat → Nat × FpFlags) : Eff := fun o v s =>
  fpDone s (f (fmtOf o.t) o v.x.s.toNat v.y.s.toNat)

/-- FADD's effect. -/
def effFadd : Eff := fpEff (fun f o a b => f.addC o.rm a b)
/-- FADD. -/
def execFadd (e : Fields) (s : State) : Answer := .next (s.issue (.fadd e) effFadd)
/-- FSUB's effect. -/
def effFsub : Eff := fpEff (fun f o a b => f.subC o.rm a b)
/-- FSUB. -/
def execFsub (e : Fields) (s : State) : Answer := .next (s.issue (.fsub e) effFsub)
/-- FMUL's effect. -/
def effFmul : Eff := fpEff (fun f o a b => f.mulC o.rm a b)
/-- FMUL. -/
def execFmul (e : Fields) (s : State) : Answer := .next (s.issue (.fmul e) effFmul)
/-- FDIV's effect. -/
def effFdiv : Eff := fpEff (fun f o a b => f.divC o.rm a b)
/-- FDIV. -/
def execFdiv (e : Fields) (s : State) : Answer := .next (s.issue (.fdiv e) effFdiv)
/-- FMIN's effect. -/
def effFmin : Eff := fpEff (fun f _ a b => (f.minMaxC false a b, FpFlags.zero))
/-- FMIN. -/
def execFmin (e : Fields) (s : State) : Answer := .next (s.issue (.fmin e) effFmin)
/-- FMAX's effect. -/
def effFmax : Eff := fpEff (fun f _ a b => (f.minMaxC true a b, FpFlags.zero))
/-- FMAX. -/
def execFmax (e : Fields) (s : State) : Answer := .next (s.issue (.fmax e) effFmax)
/-- FSQRT's effect. -/
def effFsqrt : Eff := fpEff (fun f o _ b => f.sqrtC o.rm b)
/-- FSQRT. -/
def execFsqrt (e : Fields) (s : State) : Answer := .next (s.issue (.fsqrt e) effFsqrt)
/-- FFMA's effect: without Z it gives FMUL's result. -/
def effFfma : Eff := fun o v s =>
  let f := fmtOf o.t
  fpDone s (if o.zp then f.fmaC o.rm v.x.s.toNat v.y.s.toNat v.z.s.toNat else f.mulC o.rm v.x.s.toNat v.y.s.toNat)
/-- FFMA. -/
def execFfma (e : Fields) (s : State) : Answer := .next (s.issue (.ffma e) effFfma)

/-- The result of a compare: 0 or 1, with FNV (R192). -/
def relDone (s : State) (r : Bool × FpFlags) : Except Stop Done := fpDone s (r.1.toNat, r.2)

/-- FEQ's effect. -/
def effFeq : Eff := fun o v s => relDone s ((fmtOf o.t).relC 0 v.x.s.toNat v.y.s.toNat)
/-- FEQ. -/
def execFeq (e : Fields) (s : State) : Answer := .next (s.issue (.feq e) effFeq)
/-- FLT's effect. -/
def effFlt : Eff := fun o v s => relDone s ((fmtOf o.t).relC 1 v.x.s.toNat v.y.s.toNat)
/-- FLT. -/
def execFlt (e : Fields) (s : State) : Answer := .next (s.issue (.flt e) effFlt)
/-- FLE's effect. -/
def effFle : Eff := fun o v s => relDone s ((fmtOf o.t).relC 2 v.x.s.toNat v.y.s.toNat)
/-- FLE. -/
def execFle (e : Fields) (s : State) : Answer := .next (s.issue (.fle e) effFle)

/-- The effect of an operation on the bits of Y in the type T, which sets no flag (R192). -/
def bitsEff (f : Fmt → Nat → Nat → Nat) : Eff := fun o v s =>
  let t := fmtOf o.t
  let w := t.signAt + 1
  Done.result s (.s (BitVec.ofNat 64 (f t (v.x.s.toNat % 2 ^ w) (v.y.s.toNat % 2 ^ w))))

/-- FCLS's effect. -/
def effFcls : Eff := bitsEff (fun f _ b => f.classC b)
/-- FCLS. -/
def execFcls (e : Fields) (s : State) : Answer := .next (s.issue (.fcls e) effFcls)
/-- FABS's effect. -/
def effFabs : Eff := bitsEff (fun f _ b => b % 2 ^ f.signAt)
/-- FABS. -/
def execFabs (e : Fields) (s : State) : Answer := .next (s.issue (.fabs e) effFabs)
/-- FNEG's effect. -/
def effFneg : Eff := bitsEff (fun f _ b => f.code (!b.testBit f.signAt) (b % 2 ^ f.signAt))
/-- FNEG. -/
def execFneg (e : Fields) (s : State) : Answer := .next (s.issue (.fneg e) effFneg)
/-- FSGNJ's effect. -/
def effFsgnj : Eff := bitsEff (fun f a b => f.code (b.testBit f.signAt) (a % 2 ^ f.signAt))
/-- FSGNJ. -/
def execFsgnj (e : Fields) (s : State) : Answer := .next (s.issue (.fsgnj e) effFsgnj)

/-- A value converted to the type T, rounded in RM or stochastically with one draw (R193, R194). -/
def convertDone (o : Opnds) (s : State) (x : FVal) : Except Stop Done :=
  let r := (fmtOf o.t).convert o.rm o.s s.cx.gen x
  fpDone (if o.s then s.modCx (fun c => { c with gen := r.2 }) else s) r.1

/-- FCVT's effect. -/
def effFcvt : Eff := fun o v s => convertDone o s ((fmtOf (o.imm.toNat % 8)).value v.y.s.toNat)
/-- FCVT. -/
def execFcvt (e : Fields) (s : State) : Answer := .next (s.issue (.fcvt e) effFcvt)

/-- A value rounded to a 64-bit integer within a range (R194). -/
def toIntDone (o : Opnds) (s : State) (lo hi : Int) (y : Word) : Except Stop Done :=
  let r := ((fmtOf o.t).value y.toNat).toRange o.rm lo hi
  fpDone s (ofSigned 64 r.1, r.2)

/-- FTOI's effect. -/
def effFtoi : Eff := fun o v s => toIntDone o s (-(2 ^ 63)) (2 ^ 63 - 1) v.y.s
/-- FTOI. -/
def execFtoi (e : Fields) (s : State) : Answer := .next (s.issue (.ftoi e) effFtoi)
/-- FTOU's effect. -/
def effFtou : Eff := fun o v s => toIntDone o s 0 (2 ^ 64 - 1) v.y.s
/-- FTOU. -/
def execFtou (e : Fields) (s : State) : Answer := .next (s.issue (.ftou e) effFtou)
/-- ITOF's effect. -/
def effItof : Eff := fun o v s => convertDone o s (FVal.ofInt v.y.s.toInt)
/-- ITOF. -/
def execItof (e : Fields) (s : State) : Answer := .next (s.issue (.itof e) effItof)
/-- UTOF's effect. -/
def effUtof : Eff := fun o v s => convertDone o s (.fin false v.y.s.toNat 0)
/-- UTOF. -/
def execUtof (e : Fields) (s : State) : Answer := .next (s.issue (.utof e) effUtof)
/-- FRND's effect. -/
def effFrnd : Eff := fpEff (fun f o _ b => f.integralC o.rm b)
/-- FRND. -/
def execFrnd (e : Fields) (s : State) : Answer := .next (s.issue (.frnd e) effFrnd)

end Sys2Proof.Machine
end

