-- ==== Sys2Proof/Machine/Vector.lean ====
section
/-! DEFINITION. Vector instructions: arithmetic, approximations, conversion, compare, integers, data movement,
reductions, quantisers, the generator and the masks (R179, R195 to R207). -/

namespace Sys2Proof.Machine

/-! ### Lanes -/

/-- A vector of lanes with the flags of all lanes. [DEDUCED, log 13] -/
def laneDone (s : State) (w : Nat) (rs : List (Nat × FpFlags)) : Except Stop Done :=
  Done.result (s.raise (rs.foldl (fun a r => a.or r.2) FpFlags.zero)) (.v (ofLanes w (rs.map (·.1))))

/-- The effect of a lane function of two sources. -/
def vecEff (f : Opnds → Nat → Nat → Nat × FpFlags) : Eff := fun o v s =>
  let w := laneBytes o.t
  laneDone s w (List.zipWith (f o) (lanes (v.x.v w) w) (lanes (v.y.v w) w))

/-- The effect of a lane function of Y. -/
def vecUnary (f : Opnds → Nat → Nat × FpFlags) : Eff := fun o v s =>
  let w := laneBytes o.t
  laneDone s w ((lanes (v.y.v w) w).map (f o))

/-- A lane result without flags. -/
def noFlags (x : Nat) : Nat × FpFlags := (x, FpFlags.zero)

/-! ### Arithmetic (R195) -/

/-- VADD's effect. -/
def effVadd : Eff := vecEff (fun o a b => (fmtOf o.t).addC o.rm a b)
/-- VADD. -/
def execVadd (e : Fields) (s : State) : Answer := .next (s.issue (.vadd e) effVadd)
/-- VSUB's effect. -/
def effVsub : Eff := vecEff (fun o a b => (fmtOf o.t).subC o.rm a b)
/-- VSUB. -/
def execVsub (e : Fields) (s : State) : Answer := .next (s.issue (.vsub e) effVsub)
/-- VMUL's effect. -/
def effVmul : Eff := vecEff (fun o a b => (fmtOf o.t).mulC o.rm a b)
/-- VMUL. -/
def execVmul (e : Fields) (s : State) : Answer := .next (s.issue (.vmul e) effVmul)
/-- VFMA's effect: the addend is the destination's value before the instruction. -/
def effVfma : Eff := fun o v s =>
  let w := laneBytes o.t
  let d := lanes (s.cx.vreg (o.dst - 32)) w
  let f := fmtOf o.t
  laneDone s w (List.zipWith (fun ab c => f.fmaC o.rm ab.1 ab.2 c) ((lanes (v.x.v w) w).zip (lanes (v.y.v w) w)) d)
/-- VFMA. -/
def execVfma (e : Fields) (s : State) : Answer := .next (s.issue (.vfma e) effVfma)
/-- VMIN's effect. -/
def effVmin : Eff := vecEff (fun o a b => noFlags ((fmtOf o.t).minMaxC false a b))
/-- VMIN. -/
def execVmin (e : Fields) (s : State) : Answer := .next (s.issue (.vmin e) effVmin)
/-- VMAX's effect. -/
def effVmax : Eff := vecEff (fun o a b => noFlags ((fmtOf o.t).minMaxC true a b))
/-- VMAX. -/
def execVmax (e : Fields) (s : State) : Answer := .next (s.issue (.vmax e) effVmax)
/-- VSEL's effect: k1 selects lanes of X. -/
def effVsel : Eff := fun o v s =>
  let w := laneBytes o.t
  let a := v.x.v w
  let b := v.y.v w
  Done.result s (.v (ofLanes w ((upTo (64 / w)).map (fun i =>
    if (s.cx.kreg 1).getLsbD i then laneAt a w i else laneAt b w i))))
/-- VSEL. -/
def execVsel (e : Fields) (s : State) : Answer := .next (s.issue (.vsel e) effVsel)
/-- VMOV's effect. -/
def effVmov : Eff := fun o v s => Done.result s (.v (v.y.v (laneBytes o.t)))
/-- VMOV. -/
def execVmov (e : Fields) (s : State) : Answer := .next (s.issue (.vmov e) effVmov)

/-! ### Approximations, sign, conversion (R196 to R198) -/

/-- VRCP's effect. [DESIGN CHOICE, log 12; DEDUCED, log 13] -/
def effVrcp : Eff := vecUnary (fun o b => approxC o.t 0 b)
/-- VRCP. -/
def execVrcp (e : Fields) (s : State) : Answer := .next (s.issue (.vrcp e) effVrcp)
/-- VRSQ's effect. [DESIGN CHOICE, log 12] -/
def effVrsq : Eff := vecUnary (fun o b => approxC o.t 1 b)
/-- VRSQ. -/
def execVrsq (e : Fields) (s : State) : Answer := .next (s.issue (.vrsq e) effVrsq)
/-- VEXP2's effect. [DESIGN CHOICE, log 12] -/
def effVexp2 : Eff := vecUnary (fun o b => approxC o.t 2 b)
/-- VEXP2. -/
def execVexp2 (e : Fields) (s : State) : Answer := .next (s.issue (.vexp2 e) effVexp2)
/-- VLOG2's effect. [DESIGN CHOICE, log 12] -/
def effVlog2 : Eff := vecUnary (fun o b => approxC o.t 3 b)
/-- VLOG2. -/
def execVlog2 (e : Fields) (s : State) : Answer := .next (s.issue (.vlog2 e) effVlog2)

/-- VABS on a lane: the sign bit, or the two's-complement magnitude for the integer types. -/
def absLane (t b : Nat) : Nat :=
  let n := 8 * laneBytes t
  if 6 ≤ t then ofSigned n (toSigned n b).natAbs else b % 2 ^ (n - 1)
/-- VNEG on a lane. -/
def negLane (t b : Nat) : Nat :=
  let n := 8 * laneBytes t
  if 6 ≤ t then ofSigned n (-(toSigned n b)) else (fmtOf t).code (!b.testBit (n - 1)) (b % 2 ^ (n - 1))

/-- VABS's effect. -/
def effVabs : Eff := vecUnary (fun o b => noFlags (absLane o.t b))
/-- VABS. -/
def execVabs (e : Fields) (s : State) : Answer := .next (s.issue (.vabs e) effVabs)
/-- VNEG's effect. -/
def effVneg : Eff := vecUnary (fun o b => noFlags (negLane o.t b))
/-- VNEG. -/
def execVneg (e : Fields) (s : State) : Answer := .next (s.issue (.vneg e) effVneg)

/-- The integer that a lane of type 6 or 7 holds. -/
def intLane (t : Nat) (uns : Bool) (x : Nat) : Int :=
  let n := 8 * laneBytes t
  if uns then (x % 2 ^ n : Nat) else toSigned n x

/-- The range of an integer type. -/
def intRange (t : Nat) (uns : Bool) : Int × Int :=
  let n := 8 * laneBytes t
  if uns then (0, 2 ^ n - 1) else (-(2 ^ (n - 1)), 2 ^ (n - 1) - 1)

/-- Convert (R198): a lane of type `t` to the type `d`, with the generator. -/
def convertLane (t d : Nat) (uns : Bool) (rm : Nat) (sr : Bool) (g : Word) (x : Nat) : (Nat × FpFlags) × Word :=
  let n := 8 * laneBytes d
  let r := intRange d uns
  if t < 6 then
    let v := (fmtOf t).value x
    if d < 6 then (fmtOf d).convert rm sr g v
    else
      let q := v.toRange rm r.1 r.2
      ((ofSigned n q.1, q.2), g)
  else if d < 6 then (fmtOf d).convert rm sr g (FVal.ofInt (intLane t uns x))
  else (noFlags (ofSigned n (max r.1 (min r.2 (intLane t uns x)))), g)

/-- The lanes of VCVT in ascending destination order. -/
def convertLanes (o : Opnds) (t : Nat) (uns : Bool) : Word → List (Nat × Bool × Nat) → List (Nat × FpFlags) × Word
  | g, [] => ([], g)
  | g, (x, on, old) :: rest =>
    let q := if on then convertLane t o.t uns o.rm o.s g x else (noFlags old, g)
    let r := convertLanes o t uns q.2 rest
    (q.1 :: r.1, r.2)

/-- VCVT's effect (R198). A scalar source is broadcast at the width of the source type. [DESIGN CHOICE, log 98] -/
def effVcvt : Eff := fun o v s =>
  let sel := o.imm.toNat
  let t := sel % 8
  let ws := laneBytes t
  let wd := laneBytes o.t
  let ls := 64 / ws
  let ld := 64 / wd
  let part := sel / 32 % 4
  let n := min ls ld
  let src := v.y.v ws
  let old := if isVecName o.x then s.cx.vreg (o.x - 32) else 0
  let lane (di : Nat) : Nat × Bool × Nat :=
    let was := laneAt old wd di
    let on := sel / 16 % 2 == 0 || (s.cx.kreg 1).getLsbD di
    if ls > ld then (laneAt src ws (part * n + di), on, was)
    else if part * n ≤ di && di < part * n + n then (laneAt src ws (di - part * n), on, was)
    else (0, false, was)
  let r := convertLanes o t (sel / 8 % 2 == 1) s.cx.gen ((upTo ld).map lane)
  laneDone (if o.s then s.modCx (fun c => { c with gen := r.2 }) else s) wd r.1
/-- VCVT. -/
def execVcvt (e : Fields) (s : State) : Answer := .next (s.issue (.vcvt e) effVcvt)

/-! ### Compare (R199) -/

/-- A predicate on two lanes: 0 EQ, 1 NE, 2 LT, 3 LE, 4 GT, 5 GE, 6 UNORD, 7 ORD. -/
def cmpLane (t p : Nat) (uns : Bool) (a b : Nat) : Bool × FpFlags :=
  if 6 ≤ t then
    let x := intLane t uns a
    let y := intLane t uns b
    ((match p with
      | 0 => decide (x = y)
      | 1 => decide (x ≠ y)
      | 2 => decide (x < y)
      | 3 => decide (x ≤ y)
      | 4 => decide (y < x)
      | 5 => decide (y ≤ x)
      | 6 => false
      | _ => true), FpFlags.zero)
  else
    let f := fmtOf t
    let un := f.value a == .nan || f.value b == .nan
    match p with
    | 0 => f.relC 0 a b
    | 1 => (un || !(f.relC 0 a b).1, FpFlags.zero)
    | 2 => f.relC 1 a b
    | 3 => f.relC 2 a b
    | 4 => f.relC 1 b a
    | 5 => f.relC 2 b a
    | 6 => (un, FpFlags.zero)
    | _ => (!un, FpFlags.zero)

/-- VCMP's effect: it writes k1 and calls no Dst. -/
def effVcmp : Eff := fun o v s =>
  let w := laneBytes o.t
  let rs := List.zipWith (cmpLane o.t (o.imm.toNat % 8) (o.imm.getLsbD 3)) (lanes (v.x.v w) w) (lanes (v.y.v w) w)
  let k := BitVec.ofNat 64 (rs.foldr (fun r a => r.1.toNat + 2 * a) 0)
  let s := s.raise (rs.foldl (fun a r => a.or r.2) FpFlags.zero)
  Done.plain (s.modCx (fun c => { c with k := mset c.k 1 k }))
/-- VCMP. -/
def execVcmp (e : Fields) (s : State) : Answer := .next (s.issue (.vcmp e) effVcmp)

/-! ### Integers (R200) -/

/-- The effect of an integer lane function. -/
def vintEff (f : Nat → Opnds → Nat → Nat → Nat) : Eff := vecEff (fun o a b => noFlags (f (8 * laneBytes o.t) o a b))

/-- A sum or difference, modulo 2^n or saturated. -/
def satLane (n : Nat) (sat : Bool) (x : Int) : Nat :=
  ofSigned n (if sat then max (-(2 ^ (n - 1))) (min (2 ^ (n - 1) - 1) x) else x)

/-- VIADD's effect. -/
def effViadd : Eff := vintEff (fun n o a b => satLane n o.s (toSigned n a + toSigned n b))
/-- VIADD. -/
def execViadd (e : Fields) (s : State) : Answer := .next (s.issue (.viadd e) effViadd)
/-- VISUB's effect. -/
def effVisub : Eff := vintEff (fun n o a b => satLane n o.s (toSigned n a - toSigned n b))
/-- VISUB. -/
def execVisub (e : Fields) (s : State) : Answer := .next (s.issue (.visub e) effVisub)
/-- VIMUL's effect. -/
def effVimul : Eff := vintEff (fun n _ a b => a * b % 2 ^ n)
/-- VIMUL. -/
def execVimul (e : Fields) (s : State) : Answer := .next (s.issue (.vimul e) effVimul)
/-- VAND's effect. -/
def effVand : Eff := vintEff (fun _ _ a b => a &&& b)
/-- VAND. -/
def execVand (e : Fields) (s : State) : Answer := .next (s.issue (.vand e) effVand)
/-- VOR's effect. -/
def effVor : Eff := vintEff (fun _ _ a b => a ||| b)
/-- VOR. -/
def execVor (e : Fields) (s : State) : Answer := .next (s.issue (.vor e) effVor)
/-- VXOR's effect. -/
def effVxor : Eff := vintEff (fun _ _ a b => a ^^^ b)
/-- VXOR. -/
def execVxor (e : Fields) (s : State) : Answer := .next (s.issue (.vxor e) effVxor)
/-- VSHL's effect: the amount counts modulo the lane's bits. -/
def effVshl : Eff := vintEff (fun n _ a b => a * 2 ^ (b % n) % 2 ^ n)
/-- VSHL. -/
def execVshl (e : Fields) (s : State) : Answer := .next (s.issue (.vshl e) effVshl)
/-- VSHR's effect. -/
def effVshr : Eff := vintEff (fun n _ a b => a / 2 ^ (b % n))
/-- VSHR. -/
def execVshr (e : Fields) (s : State) : Answer := .next (s.issue (.vshr e) effVshr)

/-! ### Data movement and reduction (R201 to R203) -/

/-- Combine of VRED on integers as two's-complement numbers: 0 ADD, 1 MIN, 2 MAX. -/
def combineInt (op : Nat) (a b : Int) : Int := if op = 0 then a + b else if op = 1 then min a b else max a b

/-- Combine of VRED on codes of a format. -/
def combineFloat (f : Fmt) (rm op a b : Nat) : Nat × FpFlags :=
  if op = 0 then f.addC rm a b else noFlags (f.minMaxC (op == 2) a b)

/-- VRED of integer lanes: an i32 sum wraps, an i8 sum is exact. -/
def redInt (t op : Nat) (ls : List (Option Nat)) : Word :=
  let n := 8 * laneBytes t
  let r := treeOf (fun a b => (combineInt op a b, FpFlags.zero)) 7 (ls.map (·.map (toSigned n)))
  match r.1 with
  | some x => if t = 6 then sextWord 32 (BitVec.ofInt 64 x) else BitVec.ofInt 64 x
  | none => BitVec.ofInt 64 (if op = 0 then 0 else if op = 1 then (intRange t false).2 else (intRange t false).1)

/-- VRED's effect (R202). A result that is a NaN is the canonical one, also where a single lane is present: "Absent with x
gives x" names a value, and no payload survives (R163). [DEDUCED, log 86] -/
def effVred : Eff := fun o v s =>
  let w := laneBytes o.t
  let op := o.imm.toNat % 4
  let y := v.y.v w
  let ls := (upTo (64 / w)).map (fun i =>
    if !o.imm.getLsbD 2 || (s.cx.kreg 1).getLsbD i then some (laneAt y w i) else none)
  if 6 ≤ o.t then Done.result s (.s (redInt o.t op ls))
  else
    let f := fmtOf o.t
    let r := treeOf (combineFloat f o.rm op) 7 ls
    match r.1 with
    | some x => fpDone s (if f.value (x % 2 ^ (8 * w)) = .nan then f.nan else x % 2 ^ (8 * w), r.2)
    | none => fpDone s (noFlags (if op = 0 then 0 else f.code (op == 2) f.infCode))
/-- VRED. -/
def execVred (e : Fields) (s : State) : Answer := .next (s.issue (.vred e) effVred)

/-- VBCST's effect. -/
def effVbcst : Eff := fun o v s =>
  let w := laneBytes o.t
  Done.result s (.v (broadcast w (BitVec.ofNat 64 (laneAt (v.x.v w) w o.imm.toNat))))
/-- VBCST. -/
def execVbcst (e : Fields) (s : State) : Answer := .next (s.issue (.vbcst e) effVbcst)

/-- VPERM's effect. -/
def effVperm : Eff := fun o v s =>
  let w := laneBytes o.t
  let x := v.x.v w
  Done.result s (.v (ofLanes w ((lanes (v.y.v w) w).map (fun p => if p < 64 / w then laneAt x w p else 0))))
/-- VPERM. -/
def execVperm (e : Fields) (s : State) : Answer := .next (s.issue (.vperm e) effVperm)

/-- VEXTR's effect. -/
def effVextr : Eff := fun o v s =>
  let w := laneBytes o.t
  Done.result s (.s (BitVec.ofNat 64 (laneAt (v.y.v w) w o.imm.toNat)))
/-- VEXTR. -/
def execVextr (e : Fields) (s : State) : Answer := .next (s.issue (.vextr e) effVextr)

/-- VINS's effect. -/
def effVins : Eff := fun o v s =>
  let w := laneBytes o.t
  Done.result s (.v (BitVec.ofNat 512
    (withBits (v.x.v w).toNat (8 * w * o.imm.toNat) (8 * w) v.y.s.toNat)))
/-- VINS. -/
def execVins (e : Fields) (s : State) : Answer := .next (s.issue (.vins e) effVins)

/-- One level's sum of VDOT, rounded to the result format. -/
def dotAdd (f : Fmt) (rm : Nat) (a b : FVal) : FVal × FpFlags :=
  let r := f.finish rm (FVal.add rm a b)
  (f.value r.1, r.2)

/-- VDOT's effect (R203). -/
def effVdot : Eff := fun o v s =>
  let w := laneBytes o.t
  let xs := lanes (v.x.v w) w
  let ys := lanes (v.y.v w) w
  if o.t = 7 then
    Done.result s (.s (BitVec.ofInt 64 ((List.zipWith (fun a b => toSigned 8 a * toSigned 8 b) xs ys).foldl (· + ·) 0)))
  else
    let f := fmtOf o.t
    let g := if o.t = 1 then fp64 else fp32
    let ps := List.zipWith (fun a b => FVal.mul (f.value a) (f.value b)) xs ys
    let fl := ps.foldl (fun a p => a.or p.2) FpFlags.zero
    let r := treeOf (dotAdd g o.rm) 7 (ps.map (fun p => some p.1))
    let c := match r.1 with
      | some x => (g.ofVal o.rm false x).1
      | none => 0
    fpDone s (c, fl.or r.2)
/-- VDOT. -/
def execVdot (e : Fields) (s : State) : Answer := .next (s.issue (.vdot e) effVdot)

/-- VPACK's effect. -/
def effVpack : Eff := fun o v s =>
  let w := laneBytes o.t
  let h := 64 / w / 2
  let e := o.imm.toNat % 2
  let half (x : VWord) := (upTo h).map (fun j => laneAt x w (2 * j + e))
  Done.result s (.v (ofLanes w (half (v.x.v w) ++ half (v.y.v w))))
/-- VPACK. -/
def execVpack (e : Fields) (s : State) : Answer := .next (s.issue (.vpack e) effVpack)

/-- VUNPK's effect. -/
def effVunpk : Eff := fun o v s =>
  let w := laneBytes o.t
  let h := 64 / w / 2
  let b := o.imm.toNat % 2 * h
  let x := v.x.v w
  let y := v.y.v w
  Done.result s (.v (ofLanes w ((upTo h).flatMap (fun j => [laneAt x w (b + j), laneAt y w (b + j)]))))
/-- VUNPK. -/
def execVunpk (e : Fields) (s : State) : Answer := .next (s.issue (.vunpk e) effVunpk)

/-! ### Quantisers, generator and masks (R204 to R207) -/

/-- A result for one of `n` registers from a name is still on its way. -/
def State.busyRun (s : State) (x n : Nat) : Bool := (upTo n).any (fun k => s.busy (x + k))

/-- The element format of VMXQ. -/
def mxFmt (sel : Nat) : Fmt := if sel = 0 then e4m3 else if sel = 1 then e5m2 else e2m1

/-- VMXQ's effect (R204). A reissue is not checked again: with T = 0 it also runs with an odd X, on v(n) and v(n + 1), the latter a free value
past v15. [DEDUCED, log 77; DESIGN CHOICE, log 101] -/
def effVmxq : Eff := fun o v s =>
  if o.t = 0 && s.busy (o.x + 1) then .error .wait
  else
    let d := if o.t = 0 then s.furtherVec (o.x + 1) else (0, s)
    let s := d.2
    let xs := lanes v.x.bits (laneBytes o.t) ++ (if o.t = 0 then lanes d.1 4 else [])
    let f := mxFmt (o.imm.toNat % 4)
    let r := mxBlock f o.rm o.s s.cx.gen (xs.map (fmtOf o.t).value)
    let q := if f.ends = .e2m1 then 4 else 8
    let body := r.1.foldr (fun c a => c + 2 ^ q * a) 0
    let s := if o.s then s.modCx (fun c => { c with gen := r.2.2.2 }) else s
    Done.result (s.raise r.2.2.1) (.v (BitVec.ofNat 512 (body + r.2.1 * 2 ^ 256)))
/-- VMXQ. -/
def execVmxq (e : Fields) (s : State) : Answer := .next (s.issue (.vmxq e) effVmxq)

/-- VNQQ's effect (R205). A reissue is not checked again: it also runs with an X that is no multiple of 4, on v(n) to v(n + 3), each a free value
past v15. [DEDUCED, log 77; DESIGN CHOICE, log 101] -/
def effVnqq : Eff := fun o v s =>
  if s.busyRun (o.x + 1) 3 then .error .wait
  else
    let a := s.furtherVec (o.x + 1)
    let b := a.2.furtherVec (o.x + 2)
    let c := b.2.furtherVec (o.x + 3)
    let s := c.2
    let xs := lanes v.x.bits 4 ++ lanes a.1 4 ++ lanes b.1 4 ++ lanes c.1 4
    let r := nq4Block (v.y.s.toNat % 2 ^ 32) (xs.map fp32.value)
    let body := r.1.foldr (fun c a => c + 16 * a) 0
    Done.result (s.raise r.2.2) (.v (BitVec.ofNat 512 (body + r.2.1 * 2 ^ 256)))
/-- VNQQ. -/
def execVnqq (e : Fields) (s : State) : Answer := .next (s.issue (.vnqq e) effVnqq)

/-- VSRS's effect: a seed of 0 is replaced. -/
def effVsrs : Eff := fun _ v s =>
  Done.plain (s.modCx (fun c => { c with gen := if v.x.s = 0 then seedZero else v.x.s }))
/-- VSRS. -/
def execVsrs (e : Fields) (s : State) : Answer := .next (s.issue (.vsrs e) effVsrs)

/-- KMOV's effect: Y[2] selects a write. -/
def effKmov : Eff := fun o v s =>
  if o.y / 4 % 2 = 1 then Done.plain (s.modCx (fun c => { c with k := mset c.k (o.y % 4) v.x.s }))
  else Done.result s (.s (s.cx.kreg (o.y % 4)))
/-- KMOV. -/
def execKmov (e : Fields) (s : State) : Answer := .next (s.issue (.kmov e) effKmov)

end Sys2Proof.Machine
end

