-- ==== Sys2Proof/Machine/Repeat.lean ====
section
/-! DEFINITION. What the repetition buffer issues (R159, R160) and the replay of a faulted vector access (R330). -/

namespace Sys2Proof.Machine

/-- The effect of an instruction that REP may repeat (R159); none for every other one. -/
def effOf : Instr → Option Eff
  | .add _ => some effAdd
  | .sub _ => some effSub
  | .and _ => some effAnd
  | .or _ => some effOr
  | .xor _ => some effXor
  | .shl _ => some effShl
  | .shr _ => some effShr
  | .sra _ => some effSra
  | .mul _ => some effMul
  | .mulh _ => some effMulh
  | .mulhu _ => some effMulhu
  | .min _ => some effMin
  | .max _ => some effMax
  | .minu _ => some effMinu
  | .maxu _ => some effMaxu
  | .andn _ => some effAndn
  | .addi _ => some effAddi
  | .andi _ => some effAndi
  | .ori _ => some effOri
  | .xori _ => some effXori
  | .shli _ => some effShli
  | .shri _ => some effShri
  | .srai _ => some effSrai
  | .movi _ => some effMovi
  | .seq _ => some effSeq
  | .sne _ => some effSne
  | .slt _ => some effSlt
  | .sltu _ => some effSltu
  | .sle _ => some effSle
  | .sleu _ => some effSleu
  | .sel _ => some effSel
  | .mov _ => some effMov
  | .clz _ => some effClz
  | .ctz _ => some effCtz
  | .popc _ => some effPopc
  | .sextB _ => some effSextB
  | .sextH _ => some effSextH
  | .sextW _ => some effSextW
  | .zextH _ => some effZextH
  | .zextW _ => some effZextW
  | .addsh1 _ => some effAddsh1
  | .addsh2 _ => some effAddsh2
  | .addsh3 _ => some effAddsh3
  | .addsh4 _ => some effAddsh4
  | .bfx _ => some effBfx
  | .bfi _ => some effBfi
  | .lpc _ => some effLpc
  | .pwld _ => some effPwld
  | .ldB _ => some effLdB
  | .ldBu _ => some effLdBu
  | .ldH _ => some effLdH
  | .ldHu _ => some effLdHu
  | .ldW _ => some effLdW
  | .ldWu _ => some effLdWu
  | .ldD _ => some effLdD
  | .lda _ => some effLda
  | .stB _ => some effStB
  | .stH _ => some effStH
  | .stW _ => some effStW
  | .stD _ => some effStD
  | .stl _ => some effStl
  | .vld _ => some effVld
  | .vst _ => some effVst
  | .vlds _ => some effVlds
  | .amoAdd _ => some effAmoAdd
  | .amoAnd _ => some effAmoAnd
  | .amoOr _ => some effAmoOr
  | .amoXor _ => some effAmoXor
  | .amoMin _ => some effAmoMin
  | .amoMax _ => some effAmoMax
  | .amoSwp _ => some effAmoSwp
  | .amoCas _ => some effAmoCas
  | .amoMinu _ => some effAmoMinu
  | .amoMaxu _ => some effAmoMaxu
  | .amoFadd _ => some effAmoFadd
  | .redAdd _ => some effRedAdd
  | .redMin _ => some effRedMin
  | .redMax _ => some effRedMax
  | .redFadd _ => some effRedFadd
  | .vsts _ => some effVsts
  | .fence _ => some effFence
  | .mbsend _ => some effMbsend
  | .mbpeek _ => some effMbpeek
  | .bbset _ => some effBbset
  | .bbadd _ => some effBbadd
  | .bbrd _ => some effBbrd
  | .cpq _ => some effCpq
  | .cpqt _ => some effCpqt
  | .cpcan _ => some effCpcan
  | .cpst _ => some effCpst
  | .vgth _ => some effVgth
  | .vsct _ => some effVsct
  | .fadd _ => some effFadd
  | .fsub _ => some effFsub
  | .fmul _ => some effFmul
  | .fdiv _ => some effFdiv
  | .fmin _ => some effFmin
  | .fmax _ => some effFmax
  | .fsqrt _ => some effFsqrt
  | .ffma _ => some effFfma
  | .feq _ => some effFeq
  | .flt _ => some effFlt
  | .fle _ => some effFle
  | .fcls _ => some effFcls
  | .fabs _ => some effFabs
  | .fneg _ => some effFneg
  | .fsgnj _ => some effFsgnj
  | .fcvt _ => some effFcvt
  | .ftoi _ => some effFtoi
  | .ftou _ => some effFtou
  | .itof _ => some effItof
  | .utof _ => some effUtof
  | .frnd _ => some effFrnd
  | .vadd _ => some effVadd
  | .vsub _ => some effVsub
  | .vmul _ => some effVmul
  | .vfma _ => some effVfma
  | .vmin _ => some effVmin
  | .vmax _ => some effVmax
  | .vsel _ => some effVsel
  | .vmov _ => some effVmov
  | .vrcp _ => some effVrcp
  | .vrsq _ => some effVrsq
  | .vexp2 _ => some effVexp2
  | .vlog2 _ => some effVlog2
  | .vabs _ => some effVabs
  | .vneg _ => some effVneg
  | .vcvt _ => some effVcvt
  | .vcmp _ => some effVcmp
  | .viadd _ => some effViadd
  | .visub _ => some effVisub
  | .vimul _ => some effVimul
  | .vand _ => some effVand
  | .vor _ => some effVor
  | .vxor _ => some effVxor
  | .vshl _ => some effVshl
  | .vshr _ => some effVshr
  | .vred _ => some effVred
  | .vbcst _ => some effVbcst
  | .vperm _ => some effVperm
  | .vextr _ => some effVextr
  | .vins _ => some effVins
  | .vdot _ => some effVdot
  | .vpack _ => some effVpack
  | .vunpk _ => some effVunpk
  | .vmxq _ => some effVmxq
  | .vnqq _ => some effVnqq
  | .vsrs _ => some effVsrs
  | .kmov _ => some effKmov
  | .mstr _ => some effMstr
  | .mstrt _ => some effMstrt
  | .mdrn _ => some effMdrn
  | .macz _ => some effMacz
  | .mbld _ => some effMbld
  | .mbrel _ => some effMbrel
  | .mcfg _ => some effMcfg
  | .maccp _ => some effMaccp
  | .barv _ => some effBarv
  | .trig _ => some effTrig
  | .exit _ => some effExit
  | .time _ => some effTime
  | .cyc _ => some effCyc
  | _ => none

/-- The operands of reissue `i`: a staggered name is `i` further, a staggered offset 64 `i` bytes (R159). -/
def stagger (r : Rep) (o : Opnds) (i : Nat) : Opnds :=
  { o with
    x := if r.sx then o.x + i else o.x, y := if r.sy then o.y + i else o.y, z := if r.sz then o.z + i else o.z
    imm := if r.so then o.imm + BitVec.ofNat 64 (64 * i) else o.imm }

/-- Runs the next reissue of the running context: the PC moves past the repeated instruction at the last one. A name that a stagger has moved
is not checked again, as R159's list of checks has none: a VSCT whose X has become odd takes v(X + 1) as its second register, and a free
value past v15. [DESIGN CHOICE, log 101] -/
def State.reissue (s : State) : State :=
  let r := s.cx.rep
  match decodeFor (some s.who) r.parcels with
  | .ok i n =>
    (match effOf i, i.code with
    | some eff, some c =>
      (match rowAt c.p1 c.maj c.min with
      | some row =>
        let o := stagger r (row.shape.opnds c.min c.e) r.next
        s.issueWith c row.shape o eff (s.cx.pc + BitVec.ofNat 64 (2 * n)) (some (decide (r.count ≤ r.next + 1)))
      | none => s)
    | _, _ => s.trapHere { cls := 2, sub := 8, info := 0 })
  | _ => s.trapHere { cls := 2, sub := 8, info := 0 }

/-- REP_REISSUE: the repetition buffer of the running context issues its next reissue. -/
def execRepReissue (s : State) : Answer :=
  match s.cx.rep.parcels with
  | [] => .next s
  | _ :: _ => .next s.reissue

/-! ### Replay (R330) -/

/-- The faulted access of ring entry `k` faults again: it is reported again. [DEDUCED, log 50] -/
def Core.refault (c : Core) (k sub : Nat) (info : Word) : Core :=
  { c with replay := none, ring := match mfind c.ring k with
    | some r => mset c.ring k { r with st := 2, cls := 0x0D, sub := sub, info := info, told := false }
    | none => c.ring }

/-- What a stop of a replay means: it waits, faults again, or traps. [DEDUCED, log 50] -/
def State.replayStop (s : State) (k : Nat) (st : Stop) : State :=
  match st, lateCause st with
  | .wait, _ => s.modCx (fun x => { x with run := .waiting })
  | .hold f, _ => (f s).modCx (fun x => { x with run := .waiting })
  | .page kind acc va cid agent, some (sub, info) =>
    (s.pageMsg kind acc va cid agent).modMe (fun c => c.refault k sub info)
  | _, some (sub, info) => s.modMe (fun c => c.refault k sub info)
  | .trap cause, none => (s.modMe (fun c => { c.dropFault k with replay := none })).trapHere cause
  | .poison t, _ => t.poisonCore t.cur
  | _, none => s

/-- Pushes a result whose destination is a queue head. -/
def Done.push (d : Done) (target : Option Nat) : Except Stop State :=
  match d.res, target with
  | some v, some n => d.st.pushHead n v
  | _, _ => .ok d.st

/-- Re-executes the vector access of ring entry `k`: registers as they stand, window sources from the window that it met at
its issue; its result fills its destination and its old window position, or enters the queue that its destination names. [DEDUCED, log 50] -/
def State.replayAccess (s : State) (k : Nat) (r : RingEntry) (i : Instr) : State :=
  match effOf i, i.code with
  | some eff, some c =>
    (match rowAt c.p1 c.maj c.min with
    | none => s
    | some row =>
      let sh := row.shape
      let o := row.shape.opnds c.min c.e
      let o := if r.rep.parcels.isEmpty then o else stagger r.rep o r.rep.next
      let mine (d : Delivery) : Bool := some d.id == r.id
      let s0 := s.modMe (fun m => { m with due := m.due.filter (fun d => !mine d) })
      match s0.readAll sh c.e o r.old with
      | .error st => s.replayStop k st
      | .ok (vs, s1) =>
        match eff o vs s1 with
        | .error st => s.replayStop k st
        | .ok d =>
          match d.push (sh.target c.e o) with
          | .error st => s.replayStop k st
          | .ok t =>
          let t := t.modMe (fun m => { m with replay := none, ring := merase m.ring k })
          let t := t.modCx (fun x => { x with run := .ready })
          match d.res, r.id with
          | some v, some id =>
            t.modMe (fun m => m.deliver
              { id := id, ctx := s.ctx, dest := match sh.target c.e o with
                  | some n => if 1 ≤ n && n ≤ 47 then some n else none
                  | none => none
                vec := v.vec, value := none, ring := some k } v.bits)
          | _, _ => t)
  | _, _ => s.modMe (fun m => { m.dropFault k with replay := none })

/-- The replay of a faulted access is the first instruction that the resumed context issues. [DEDUCED, log 50] -/
def State.replayNow (s : State) (k : Nat) : State :=
  match mfind s.me.ring k with
  | none => s.modMe (fun c => { c with replay := none })
  | some r =>
    match s.fetch (r.pc.setWidth 64) with
    | .error st => s.replayStop k st
    | .ok (ps, s) =>
      match decodeFor (some s.who) ps with
      | .ok i _ => s.replayAccess k r i
      | _ => (s.modMe (fun c => { c.dropFault k with replay := none })).trapHere { cls := 2, sub := 8, info := 0 }

end Sys2Proof.Machine
end

