-- ==== Sys2Proof/Machine/Traps.lean ====
section
/-! DEFINITION. Entries to the handler that no instruction raises (R322, R330, R333, R334), the operations of CORE.MSB as
steps (R336), and writes of partition registers by firmware (R231, R279). -/

namespace Sys2Proof.Machine

/-- A context is assembling a record (R70). -/
def Core.assembling (c : Core) (k : Nat) : Bool :=
  [c.asmC, c.asmM, c.asmR].any (fun a => match a with
    | some a => a.ctx == k
    | none => false)

/-! ### PREEMPT_ENTRY (R334) -/

/-- The conditions of R334 hold in a core's control context. CPQZ cannot be pre-empted (R295). [DEDUCED, log 51] -/
def State.coreReady (s : State) (p : Nat) : Bool :=
  let c := s.core p
  let faulted (id : Nat) : Bool := c.ring.any (fun kr => kr.2.id == some id && kr.2.st == 2)
  c.handler.isNone && c.stands 0 && !c.quiesce && !(c.assembling 0)
    && c.ctl.win.list.all (fun e => match e.pend with
      | some id => faulted id
      | none => true)
    && c.ring.all (fun kr => kr.2.st != 0) && c.mq.isEmpty
    && !((s.cluster (clusterOf p)).runs.any (fun r => r.cidx == cidxOf p)) && s.ruleOut p == 0

/-- The other members of a core's gang. -/
def State.mates (s : State) (p : Nat) : List Nat := (s.gang p).filter (fun q => q != p)

/-- A pre-emption of a core can be taken: a gang is pre-empted whole (R155). [DEDUCED, log 33] -/
def State.preemptReady (s : State) (p : Nat) : Bool := s.coreReady p && (s.mates p).all s.coreReady

/-- A pre-emption enters the handler in one core; the waiting instruction of the context is abandoned. A member of a gang stays fused,
and remembers where it was. [DEDUCED, log 33] -/
def State.preemptOne (s : State) (p sub : Nat) : State :=
  let s := s.modCore p (fun c => { c with preempt := none, gpos := if c.memb = 0 && c.queue.isEmpty then none else some c.ctl.pc })
  s.enterHandler p { ctx := 0, cls := 0x0F, sub := sub, info := 0, epc := (s.core p).ctl.pc, seq := 0 }

/-- A pending pre-emption enters the handler, in every member of a gang (R334). -/
def State.preemptEntry (s : State) (p : Nat) : State :=
  match (s.core p).preempt with
  | none => s
  | some sub => if s.preemptReady p then (p :: s.mates p).foldl (fun s q => s.preemptOne q sub) s else s

/-- PREEMPT_ENTRY. -/
def execPreemptEntry (core : Nat) (s : State) : Answer := .next (s.preemptEntry core)

/-! ### LATE_FAULT_ENTRY (R322, R330) -/

/-- The control context stops at its boundary and enters the handler for a late fault, with SEQ the entry's index; while another
context's handler is active its entry waits. A fault of
an access that the active handler itself issued is a double trap (R327). [DEDUCED, log 31, 78] -/
def State.lateFaultEntry (s : State) (p : Nat) : State :=
  let c := s.core p
  match c.lateFault with
  | none => s
  | some (k, r) =>
    if c.atBoundary 0 && c.replay.isNone then
      let s := (s.dropAsm p 0).leaveGang p
      s.deliver p { ctx := 0, cls := r.cls, sub := r.sub, info := r.info, epc := (s.core p).ctl.pc, seq := k }
    else if r.hand && c.handler == some 0 && !c.dead && !c.poisoned then
      ((s.dropAsm p 0).modCore p (fun c => { c with ring := mset c.ring k { r with told := true } })).doubleTrap p
        { cls := r.cls, sub := r.sub, info := r.info }
    else s

/-- LATE_FAULT_ENTRY. -/
def execLateFaultEntry (core : Nat) (s : State) : Answer := .next (s.lateFaultEntry core)

/-! ### DIVERGE_ENTRY (R322, R267) -/

/-- The context that pushed a diverging RDCMP enters the handler at its boundary, whatever another context's entry waits for; a saved one
does so after it has resumed. What is pending for a context that has ended is dropped. [DEDUCED, log 51] -/
def State.divergeEntry (s : State) (p : Nat) : State :=
  let s := s.modCore p (fun c => { c with diverge := c.diverge.filter (fun d => (c.context d.1).run != .free) })
  match (s.core p).divergeNow with
  | none => s
  | some (k, sub, tag) =>
    let s := (s.modCore p (fun c => { c with diverge := c.diverge.erase (k, sub, tag) })).dropAsm p k
    let s := if k = 0 then s.leaveGang p else s
    s.deliver p { ctx := k, cls := 0x10, sub := sub, info := tag.setWidth 64, epc := ((s.core p).context k).pc, seq := 0 }

/-- DIVERGE_ENTRY. -/
def execDivergeEntry (core : Nat) (s : State) : Answer := .next (s.divergeEntry core)

/-! ### RESUME_MESSAGE (R333, R342) -/

/-- Enters a stopped context into the handler with RESUME, at the instruction that stopped it: the push of the matrix command that
met a reserved code, where one did. While another context's handler is active the entry waits (R327). The control context of a core without
a logical number enters it as R342 says, whatever stopped it. [DEDUCED, log 49] -/
def State.resumeCtx (s : State) (p k : Nat) (info : Word) : State :=
  let s := s.dropAsm p k
  let c := s.core p
  let x := c.context k
  if k = 0 && (x.run == .stopped .noLogical || c.lpid.isNone) then
    let s := s.modCore p (fun c => { c with stopPc := none })
    if c.handler.isNone || c.handler == some 0 then s.resumeAt p info
    else s.deliver p { ctx := 0, cls := 0x11, sub := 0, info := info, epc := 0, seq := 0 }
  else
    let epc := if x.run == .stopped .reserved then c.stopPc.getD x.pc else x.pc
    (s.modCore p (fun c => if k = 0 then { c with stopPc := none } else c)).deliver p
      { ctx := k, cls := 0x11, sub := 0, info := info, epc := epc, seq := 0 }

/-- Ends a stopped context as its EXIT, or a helper's HEND, would (R333). [DEDUCED, log 49] -/
def State.endCtx (s : State) (p k : Nat) : State :=
  if k = 0 then
    (s.modCore p (fun c => { c with ctl := { c.ctl with run := .stopped .ending } })).endEnding p
  else
    let comp := ((s.core p).context k).comp
    let t := (s.freeHelper p k).modCore p (fun c => { c with handler := if c.handler = some k then none else c.handler })
    match comp with
    | some seq => t.endEntry seq
    | none => t

/-- RESUME_MESSAGE: message `k` reaches a control endpoint that accepts it. [DESIGN CHOICE, log 7; DEDUCED, log 48, 49] -/
def execResumeMessage (k : Nat) (s : State) : Answer :=
  match s.msgs[k]? with
  | none => .next s
  | some m =>
    if m.kind != 1 || s.refusal m != 0 || !(s.inTurn m k) then .next s
    else
      let t := { s with msgs := s.msgs.eraseIdx k, accs := s.accs ++ [m] }
      .next (if (m.word 0).getLsbD 8 then t.endCtx m.dst m.target else t.resumeCtx m.dst m.target (m.word 1))

/-! ### CORE.MSB (R336, R337) -/

/-- An operation of CORE.MSB as a step: one that cannot act yet leaves all as it is, and an uncorrectable error that it meets poisons the
core (R361). -/
def State.msbStep (s : State) (p : Nat) : State :=
  match s.msbRun p with
  | .ok t => t
  | .error (.poison t) => t.poisonCore p
  | .error _ => s

/-- MSB_SAVE: OP 1 of a core's CORE.MSB, when it can act. -/
def execMsbSave (core : Nat) (s : State) : Answer :=
  .next (if wfield (s.core core).msb 0 3 = 1 then s.msbStep core else s)

/-- MSB_RESTORE: OP 2 of a core's CORE.MSB. -/
def execMsbRestore (core : Nat) (s : State) : Answer :=
  .next (if wfield (s.core core).msb 0 3 = 2 then s.msbStep core else s)

/-! ### Firmware's writes of partition registers -/

/-- L2P_REMAP: firmware writes an entry of PART.L2P (R279, R311). -/
def execL2pRemap (part lpid : Nat) (entry : Word) (s : State) : Answer :=
  if part < 16 && lpid < 2304 then .next (s.remap part lpid entry) else .next s

/-- PART_RLS_WRITE: firmware writes PART.RLS (R231). -/
def execPartRlsWrite (part : Nat) (slots : BitVec 8) (s : State) : Answer :=
  if part < 16 then .next (s.writeRls part slots) else .next s

end Sys2Proof.Machine
end

