-- ==== Sys2Proof/Machine/Reliability.lean ====
section
/-! DEFINITION. Heartbeats and dead cores (R12, R361 to R363), and paired operations at their routers (R365 to R367). -/

namespace Sys2Proof.Machine

/-! ### Heartbeats (R12, R362) -/

/-- HEARTBEAT: the emitter of a core sends a heartbeat every 4,096 cycles; a poisoned core's has stopped. [DEDUCED, log 53] -/
def execHeartbeat (core : Nat) (s : State) : Answer :=
  let c := s.core core
  let now := (s.die (dieOf core)).cyc
  if c.poisoned || c.dead || s.fusedOff core || decide ((now - c.hbCyc).toNat < 4096) then .next s
  else .next (s.modCore core (fun c => { c with hbCyc := now, hbTime := s.time, hbSeen := true }))

/-- The event of a dead core. -/
def deadEvent (lpid ppid : Nat) (t : Word) : MailEntry :=
  eventEntry 16 (0x0D + 2 ^ 8 + lpid * 2 ^ 16 + ppid * 2 ^ 32 + t.toNat * 2 ^ 64)

/-- Declares a core dead (R362): its links become absent, the FUSEs that wait for it trap, its supervisor is told. -/
def State.declareDead (s : State) (p : Nat) : State :=
  let s := (s.leaveGang p).modCore p (fun c => { c with dead := true, meet := none, meetHead := none })
  let s := (neighbour p true).toList.foldl (fun s q => s.dropLinks q) s
  let s := (neighbour p false).toList.foldl (fun s q => s.dropLinks q) s
  let s := s.breakFuse p
  s.postSup (dieOf p * 4 + siteOf p / 16 % 4) (deadEvent (s.lp p) p (s.core p).hbTime)

/-- HEARTBEAT_WINDOW_END: a window of 4,096 cycles, with its tolerance of 64, ends for an assigned core. The second in
succession without a heartbeat declares it dead. The window of a core whose emitter runs does not end before its
heartbeat. [DEDUCED, log 53] -/
def execHeartbeatWindowEnd (core : Nat) (s : State) : Answer :=
  let c := s.core core
  let now := (s.die (dieOf core)).cyc
  let win := BitVec.ofNat 64 ((now.toNat - 64) / 4096 * 4096)
  if c.lpid.isNone || c.dead || decide (win.toNat ≤ c.hbWin.toNat) then .next s
  else if c.hbSeen then .next (s.modCore core (fun c => { c with hbSeen := false, hbMiss := 0, hbWin := win }))
  else if !c.poisoned then .next s
  else if c.hbMiss = 0 then .next (s.modCore core (fun c => { c with hbMiss := 1, hbWin := win }))
  else if decide ((now - c.hbCyc).toNat < 8256) then .next s
  else .next ((s.modCore core (fun c => { c with hbMiss := 2, hbWin := win })).declareDead core)

/-! ### Paired operations (R365 to R367) -/

/-- The copy of the other twin. -/
def Paired.mates (a b : Paired) : Bool := a.core == b.core && a.twin == b.twin && a.no == b.no && a.sender != b.sender

/-- Performs an operation once: its fault and the value that returns, if one does. [DEDUCED, log 54] -/
def State.performPair (s : State) (a : PairAct) : Nat × Option Word × State :=
  match a with
  | .mem r =>
    (match s.serve r with
    | .error (e, s) => (e.1, none, s)
    | .ok (v, s) => (0, if r.acc = 2 then some (BitVec.ofNat 64 v) else none, s))
  | .msg m => (0, none, { s with msgs := s.msgs ++ [m] })
  | .mark => (0, none, s)
  | .launch q l => let r := s.submit q l; (0, some (BitVec.ofNat 64 r.1), r.2)

/-- The operation is an atomic whose old value enters the pair's return log (R365). -/
def PairAct.logs (a : PairAct) : Bool :=
  match a with
  | .mem r => r.acc == 2 && !r.posted
  | _ => false

/-- The context ID that a paired access carries. -/
def PairAct.cid (a : PairAct) : BitVec 12 :=
  match a with
  | .mem r => r.cid
  | _ => 0

/-- A match: the primary's copy is performed, both twins learn its value, and its number has matched. -/
def State.pairMatch (s : State) (a b : Paired) : State :=
  let prim := if a.sender = a.core then a else b
  let other := if a.sender = a.core then b else a
  let r := s.performPair prim.act
  let s := r.2.2.releaseCopy other
  let note (s : State) (w : Paired) : State :=
    let s := s.modCore w.sender (fun c => { c with matched := mset c.matched w.no (if w.act.logs then r.2.1 else none) })
    s.reply w.sender w.id r.1 (if r.1 = 0 then r.2.1.getD 0 else w.act.cid.setWidth 64)
  note (note s prim) other

/-- The KIND 0x0E event (R366, R392). -/
def State.pairEvent (s : State) (w : Paired) (status : Nat) : State :=
  match s.launchOf w.core with
  | none => s
  | some (q, l) =>
    s.postSup (s.supOf q) (eventEntry 16 (0x0E + status * 2 ^ 8 + l.lid * 2 ^ 16 + s.lp w.core * 2 ^ 32 + w.no % pairAge * 2 ^ 64))

/-- Taints the launch of a pair. -/
def State.pairTaint (s : State) (w : Paired) (cause : BitVec 8) (verd : Nat) : State :=
  match s.launchOf w.core with
  | none => s
  | some (q, l) => s.taint q l.serial cause verd

/-- A vector access that had failed at the log restart is owed again, in its ring entry or, where a matrix push holds that now, in another. -/
def Core.oweAgain (c : Core) (k : Nat) (r : RingEntry) : Core :=
  let j := if (mfind c.ring k).isNone then k else (firstSuch 16 (fun j => (mfind c.ring j).isNone)).getD k
  { c with ring := mset c.ring j r, due := c.due.map (fun d => if some d.id == r.id then { d with ring := some j } else d) }

/-- A core of a pair of units goes back to its last log restart (R366): it is fused, as it was then, with those of its gang that go back with
it, which `with'` names. -/
def Core.repeatPair (c : Core) (with' : BitVec 8) : Core :=
  let c := c.rollback
  match c.snap with
  | none => c
  | some k =>
    let c := { c with ring := c.ring.filter (fun kr => kr.2.mat), due := c.due.filter (fun (d : Delivery) => d.ctx != 0) ++ k.due }
    let c := k.ring.foldl (fun c kr => c.oweAgain kr.1 kr.2) c
    { c with
      ctl := { k.ctl with run := match k.ctl.run with
        | .stopped w => .stopped w
        | _ => .ready }
      memb := k.memb &&& with', queue := k.queue, hold := false, outcome := none, regang := none, stood := none, gpos := none
      bb := k.bb, fifo := [], asmC := none, asmM := none, asmR := none, handler := none
      entries := c.entries.filter (fun e => e.ctx != 0), replay := none, meet := none, meetHead := none, flight := none, answer := none
      again := none, counted := false, waited := 0, pairNo := 1, repeating := true }

/-- The cores that a pair's rollback rolls back: the two units of its group (R364, R366). -/
def State.pairCores (s : State) (w : Paired) : List Nat :=
  match (s.core w.core).group, s.partOf w.core with
  | some g, some q => s.groupCores q g.launch g.index
  | _, _ => [w.core, w.twin]

/-- A rollback of a pair is impossible (R367): the paired atomics counted are those of the superstep that would be repeated. [DEDUCED, log 54] -/
def State.noRollback (s : State) (w : Paired) : Bool :=
  let home := (s.core w.core).group.map (fun g => (g.launch, g.index))
  let bad (p : Nat) : Bool :=
    let c := s.core p
    c.ovf || c.dead || c.poisoned || c.snap.isNone || decide (64 < (c.matched.filter (fun m => m.2.isSome && decide (m.1 < pairAge))).length)
      || c.group.map (fun g => (g.launch, g.index)) != home
  (s.pairCores w).any bad || bad w.twin || home.isNone

/-- An arrival that a core has made since its last log restart is undone by a rollback: the core makes it again. [DEDUCED, log 54] -/
def State.undoArrivals (s : State) (p : Nat) : State :=
  match (s.core p).snap, s.partOf p with
  | some k, some q =>
    let t := k.ctl.tsw
    let keeps (ch : Nat) : Bool := arpOf t && bchOf t == ch && wfield t 23 8 == ({ s with cur := p }.rcnt ch).toNat
    { s with chans := s.chans.map (fun kc =>
        (kc.1, if kc.2.part == q && !(keeps (kc.1 % 64)) then { kc.2 with arr := kc.2.arr.filter (fun a => a.lpid != s.lp p) } else kc.2)) }
  | _, _ => s

/-- Rolls cores back together (R366), each line that is written back clearing its error (R359): what their engines have still to carry out is
settled, and their copies at routers are discarded. -/
def State.rollBack (s : State) (ps : List Nat) : State :=
  let mask (p : Nat) : BitVec 8 :=
    let own := ps.filter (fun r => clusterOf r == clusterOf p)
    if own.length ≤ 1 then 0 else own.foldl (fun (a : BitVec 8) r => a ||| (1#8 <<< s.pos r)) 0
  let t := ps.foldl State.leaveGang (ps.foldl State.settlePairs (s.dropPaired (fun v => ps.contains v.sender && decide (v.no < pairAge))))
  ps.foldl (fun s p =>
    let s := (s.core p).ulog.foldl (fun s l => s.clearErr (.loc p) (l.line * 64) 64) (s.undoArrivals p)
    s.modCore p (fun c => c.repeatPair (mask p))) t

/-- Discards an operation on both twins (R366): its number counts as done on both, so that a copy that is still to come is discarded too,
and a command that an engine has still to carry out writes nothing; an instruction that waits for its value gets `v`. -/
def State.discardOp (s : State) (w : Paired) (v : Word) : State :=
  [w.core, w.twin].foldl (fun s p => (s.dropMarked p w.no).modCore p (fun c =>
    { c with matched := mset c.matched w.no (if w.act.logs then some v else none) })) s

/-- A mismatch or a timeout of copies that have been taken from their router (R366, R367). A discarded operation whose
instruction waits gives a free value. [DEDUCED, log 54] -/
def State.pairFail (s : State) (ws : List Paired) : State :=
  match ws with
  | [] => s
  | w :: _ =>
    let again := (s.core w.core).repeating
    if again || s.noRollback w then
      let s := (s.pairTaint w (if again then 4 else 12) 2).pairEvent w (if again then 1 else 2)
      let d := s.draw
      ws.foldl (fun s v => (s.releaseCopy v).reply v.sender v.id 0 (Config.freeWord d.1)) (d.2.discardOp w (Config.freeWord d.1))
    else
      let ps := s.pairCores w
      let s := (s.pairTaint w 4 1).pairEvent w 0
      (ws.foldl (fun s v => s.releaseCopy v) s).rollBack ps

/-- PAIRED_OP_ARRIVAL: copy `k` reaches its router. The first of a number is held; the second is compared with it. -/
def execPairedOpArrival (k : Nat) (s : State) : Answer :=
  match s.paired[k]? with
  | none => .next s
  | some a =>
    match s.paired.find? a.mates with
    | none => .next s
    | some b =>
      let t := { s with paired := s.paired.filter (fun w => w != a && w != b) }
      .next (if a.what == b.what then t.pairMatch a b else t.pairFail [a, b])

/-- PAIRED_OP_TIMEOUT: the twin's copy of `k` has not come for 4,096 cycles. -/
def execPairedOpTimeout (k : Nat) (s : State) : Answer :=
  match s.paired[k]? with
  | none => .next s
  | some a =>
    if (s.paired.find? a.mates).isSome || decide (((s.die (dieOf a.sender)).cyc - a.sent).toNat < 4096) then .next s
    else .next ({ s with paired := s.paired.filter (fun w => w != a) }.pairFail [a])

end Sys2Proof.Machine
end

