-- ==== Sys2Proof/Machine/Platform.lean ====
section
/-! DEFINITION. The device as a whole: scrubbing and grants (R97, R317, R318, R389), Markhor (R376 to R378), the function
level reset (R380), clocks (R384, R385), power and cooling (R390, R391), resets and scrubs of main memory (R386 to R388). -/

namespace Sys2Proof.Machine

/-- Ticks of one reference millisecond (R317, R390). -/
def msTicks : Nat := 250000

/-- So many ticks have passed since a reading of TIME. -/
def State.passed (s : State) (since : Word) (n : Nat) : Bool := decide (n ≤ (s.time - since).toNat)

/-! ### Scrubs, clocks and power of a cluster (R97, R389) -/

/-- CLUSTER_SCRUB: the supervisor scrubs an idle cluster that is granted to nobody, is moving, or was gated; a gated one runs
again. [DEDUCED, log 68] -/
def execClusterScrub (cl : Nat) (s : State) : Answer :=
  let k := s.cluster cl
  if s.clusterIdle cl && (k.part.isNone || k.moving.isSome || k.power == .gated) then
    .next ((s.scrubCluster cl).modCluster cl (fun k => { k with idle := 0, power := if k.power = .gated then .run else k.power }))
  else .next s

/-- CLUSTER_CLKOFF: a cluster that has been idle for 1 ms loses its clock. -/
def execClusterClkoff (cl : Nat) (s : State) : Answer :=
  let k := s.cluster cl
  if s.clusterIdle cl && k.power == .run && decide (msTicks ≤ k.idle) then
    .next (s.modCluster cl (fun k => { k with power := .clkoff }))
  else .next s

/-- CLUSTER_GATE: firmware gates an idle cluster whose clock is off: its on-chip state is lost. [DEDUCED, log 69] -/
def execClusterGate (cl : Nat) (s : State) : Answer :=
  if s.clusterIdle cl && (s.cluster cl).power == .clkoff then
    let s := (s.scrubCluster cl).modCluster cl (fun k =>
      { k with power := .gated, muw := Cluster.fresh.muw, mrr := Cluster.fresh.mrr, crr := Cluster.fresh.crr })
    .next ((coresOf cl).foldl (fun s p => s.modCore p (fun c =>
      { Core.fresh with lpid := c.lpid, exited := c.exited, noMore := c.noMore, opNo := c.opNo })) s)
  else .next s

/-! ### The service controller and border moves (R317, R318) -/

/-- The clusters of a partition, ascending. -/
def State.clustersOf (s : State) (q : Nat) : List Nat :=
  (upTo 512).filter (fun cl => decide (cl % 256 < 160) && (s.cluster cl).part == some q)

/-- A border move is in progress on a die. -/
def State.moveOn (s : State) (d : Nat) : Bool := s.clusters.any (fun kc => kc.1 / 256 == d && kc.2.moving.isSome)

/-- A partition's surplus over its service target. [DEDUCED, log 68] -/
def Partition.surplus (x : Partition) : Nat := x.groups - x.svct.toNat

/-- Begins a border move for a partition: the highest cluster, on a die without a move, of the partition with the largest
surplus that keeps another one which does not move away. [DEDUCED, log 68] -/
def State.beginMove (s : State) (q : Nat) : State :=
  let stays (r : Nat) : List Nat := (s.clustersOf r).filter (fun cl => (s.cluster cl).moving.isNone)
  let can (r : Nat) : Bool := r != q && decide ((s.part r).svct.toNat ≤ (s.part r).groups) && decide (2 ≤ (stays r).length)
    && (stays r).any (fun cl => !(s.moveOn (cl / 256)))
  let donor := ((upTo 16).filter can).foldl (fun (a : Option Nat) r => match a with
    | none => some r
    | some b => if (s.part b).surplus < (s.part r).surplus then some r else some b) none
  match donor with
  | none => s
  | some r =>
    match ((stays r).filter (fun cl => !(s.moveOn (cl / 256)))).getLast? with
    | none => s
    | some cl => (s.modCluster cl (fun k => { k with moving := some q })).modPart q (fun x => { x with below := 0 })

/-- SERVICE_CONTROLLER_TICK: a millisecond ends: every partition is compared with its target; one that has been below it for
four in succession gets a border move. -/
def execServiceControllerTick (s : State) : Answer :=
  if !(s.passed s.secure.ticked msTicks) then .next s
  else
    let s := (upTo 16).foldl (fun s q => if s.parts.any (fun kx => kx.1 == q) then s.modPart q (fun x =>
      { x with below := if x.groups < x.svct.toNat then x.below + 1 else 0 }) else s) s
    let s := ((upTo 16).filter (fun q => decide (4 ≤ (s.part q).below))).foldl State.beginMove s
    let s := { s with parts := s.parts.map (fun (kx : Nat × Partition) => (kx.1, { kx.2 with groups := 0 })) }
    .next { s with secure := { s.secure with ticked := s.time } }

/-- A cluster's units have groups to run: a started launch has dealt them groups that have not started, or a group of theirs is
running or swapped out (R318 step 2). -/
def State.unitsBusy (s : State) (cl : Nat) : Bool :=
  (coresOf cl).any (fun p =>
    let c := s.core p
    c.group.isSome || !c.swaps.isEmpty || match s.partOf p, c.lpid with
      | some q, some l => (s.part q).launches.any (fun x => x.started && match x.shareOf l with
        | some h => decide (h.next < h.stop)
        | none => false)
      | _, _ => false)

/-- Gives a partition's next logical numbers to the assigned cores of a cluster, ascending (R311). [DEDUCED, log 88] -/
def State.numberCluster (s : State) (q cl : Nat) : State :=
  (s.assignable cl).foldl (fun s p => s.remap q (s.part q).n (BitVec.ofNat 64 (2 ^ 63 + p))) s

/-- BORDER_MOVE_GRANT: a moving cluster that has finished its shares and is idle is scrubbed and granted. The donor's entries that
name its cores are cleared, and the recipient's logical cores go on over it; both are numbered densely in the order of R311. [DEDUCED, log 68, 88] -/
def execBorderMoveGrant (cl : Nat) (s : State) : Answer :=
  match (s.cluster cl).moving with
  | none => .next s
  | some q =>
    if !(s.clusterIdle cl) || s.unitsBusy cl then .next s
    else
      let donor := match (s.cluster cl).part with
        | some r => r
        | none => 16
      let s := (s.lpsIn donor cl).reverse.foldl (fun s l => s.remap donor l 0) s
      let s := (s.scrubCluster cl).modCluster cl (fun k => { k with part := some q, moving := none, idle := 0, power := .run })
      .next (((s.numberCluster q cl).renumber donor).renumber q)

/-! ### Markhor (R376 to R378) -/

/-- The partition of a function's requests: virtual function n serves partition n - 1. -/
def fnPart (fn : Nat) : Nat := if fn = 0 then 0xFFFF else fn - 1

/-- What a partition's configuration measurement covers (R377). [DEDUCED, log 17] -/
def State.configBytes (s : State) (q : Nat) : List Byte :=
  let x := s.part q
  let rows := (s.access.filter (fun r => r.part == q)).flatMap (fun r =>
    bytesOf 8 (r.target + r.master * 2 ^ 16 + r.r.toNat * 2 ^ 32 + r.w.toNat * 2 ^ 33 + r.a.toNat * 2 ^ 34))
  let grants := (s.grantTable q).flatMap (fun g => bytesOf 16 (g.first + g.count * 2 ^ 32 + g.kind * 2 ^ 64 + g.base * 2 ^ 72))
  rows ++ grants ++ bytesOf 8 x.rls.toNat ++ bytesOf 8 x.bch.toNat ++ (s.clustersOf q).flatMap (bytesOf 2)

/-- What Markhor measures for a function now: TIME and the digests of its firmware, of the supervisor firmware and of the configuration. -/
def State.measureNow (s : State) (q : Nat) : Word × VWord × VWord × VWord :=
  let now := match s.secure.trip with
    | some t => t
    | none => s.time
  (now, Config.measure (1 :: bytesOf 4 s.secure.svn), Config.measure (2 :: bytesOf 64 s.secure.image), Config.measure (s.configBytes q))

/-- The evidence record of a function (R377), bytes 0 to 0x28F and the signature, with the state that measuring leaves: for a partition
without a cluster, or one that is power-gated, all that was measured is the last record's. [DESIGN CHOICE, log 16; DEDUCED, log 17] -/
def State.evidence (s : State) (fn : Nat) (nonce : VWord) : List Byte × State :=
  let q := fnPart fn
  let cls := s.clustersOf q
  let desched := fn != 0 && cls.isEmpty
  let gated := fn != 0 && !cls.isEmpty && cls.all (fun cl => (s.cluster cl).power == .gated)
  let m := if desched || gated then mget (s.measureNow q) s.secure.measured q else s.measureNow q
  let body := bytesOf 4 1 ++ bytesOf 2 q ++ bytesOf 2 (desched.toNat + 2 * gated.toNat) ++ bytesOf 8 m.1.toNat
    ++ bytesOf 4 s.secure.svn ++ bytesOf 4 s.secure.fuse ++ bytesOf 8 0 ++ bytesOf 64 nonce.toNat
    ++ bytesOf 64 (Config.measure (bytesOf 1 0)).toNat ++ bytesOf 64 m.2.1.toNat
    ++ bytesOf 64 m.2.2.1.toNat ++ bytesOf 64 m.2.2.2.toNat ++ bytesOf 304 0
  let sig := (upTo 4627).map (Config.signature body)
  (body ++ sig, { s with secure := { s.secure with trip := none, measured := mset s.secure.measured q m } })

/-- EVIDENCE_REQUEST: the GO word of a function whose nonce is written is answered. -/
def execEvidenceRequest (fn : Nat) (s : State) : Answer :=
  match mfind s.secure.asks fn with
  | none => .next s
  | some nonce =>
    let r := s.evidence fn nonce
    .next { r.2 with secure := { r.2.secure with
      asks := merase r.2.secure.asks fn, results := mset r.2.secure.results fn (0, r.1) } }

/-- FIRMWARE_ACTIVATE: the staged image is activated, or refused: 1 SIGN, 2 REVERT. [DESIGN CHOICE, log 16; DEDUCED, log 72] -/
def execFirmwareActivate (s : State) : Answer :=
  match s.secure.staged with
  | none => .next s
  | some (svn, image) =>
    let v := s.secure
    if !(Config.signed svn image) then .next { s with secure := { v with staged := none, activate := 1 } }
    else if svn < v.fuse then .next { s with secure := { v with staged := none, activate := 2 } }
    else
      .next { s with secure := { v with
        sessions := [], asks := [], results := v.asks.foldl (fun r a => mset r a.1 (3, [])) v.results
        keyAsks := [], keyResults := v.keyAsks.foldl (fun r a => mset r a 3) v.keyResults
        svn := svn, image := image, fuse := min 64 (max v.fuse svn), staged := none, activate := 0 } }

/-- SECURED_SESSION_OPEN: a requester agrees a key with Markhor. -/
def execSecuredSessionOpen (req : Nat) (s : State) : Answer :=
  match mfind s.secure.sessions req with
  | some _ => .next s
  | none =>
    let d := s.draw
    .next { d.2 with secure := { d.2.secure with
      sessions := mset d.2.secure.sessions req (Config.sessionKey d.1 req) } }

/-- SECURED_SESSION_CLOSE. -/
def execSecuredSessionClose (req : Nat) (s : State) : Answer :=
  .next { s with secure := { s.secure with sessions := merase s.secure.sessions req } }

/-- A partition's grant table with the grant of a collective group in it (R344, R376): the entry of kind 4 that begins with this handle, or one
more; none when all 256 are in use. Handle 0 names no group, and no grant comes with the key. -/
def withGroup (gs : List Grant) (group base : Nat) : Option (List Grant) :=
  let g : Grant := { first := group, count := 1, kind := 4, base := base }
  if group = 0 then some gs
  else if gs.any (fun x => x.first == group && x.kind == 4) then some (gs.map (fun x => if x.first == group && x.kind == 4 then g else x))
  else if 256 ≤ gs.length then none
  else some (gs ++ [g])

/-- KEY_DELIVERY: a digest key for a partition comes over a requester's session and is in progress; at the next such step of the requester
Markhor installs it, together with the grant of its collective group (R376). Without an open session it fails with STATUS 3 SESSION (R378).
Markhor refuses a key whose H is zero, and any change while a block of the partition is registered (R344). [DEDUCED, log 72] -/
def execKeyDelivery (part req : Nat) (h m : BitVec 128) (s : State) : Answer :=
  let v := s.secure
  let g := mget (0, 0) v.keyGroups req
  let told (st : Nat) (s : State) : State :=
    { s with secure := { s.secure with keyAsks := s.secure.keyAsks.filter (fun r => r != req), keyResults := mset s.secure.keyResults req st } }
  if (mfind v.sessions req).isNone then .next (told 3 s)
  else if !(v.keyAsks.contains req) then .next { s with secure := { v with keyAsks := v.keyAsks ++ [req] } }
  else match withGroup (s.part part).grants g.1 g.2 with
    | none => .next { s with secure := { v with keyAsks := v.keyAsks.filter (fun r => r != req) } }
    | some gs =>
      if h != 0 && s.registered part == 0 && part < 16 then .next (told 0 (s.modPart part (fun x => { x with key := some (h, m), grants := gs })))
      else .next { s with secure := { v with keyAsks := v.keyAsks.filter (fun r => r != req) } }

/-! ### FUNCTION_LEVEL_RESET (R380) -/

/-- A core of the partition stops at its boundary without saving, and what it had not started is discarded. [DEDUCED, log 71] -/
def Core.flrStop (c : Core) : Core :=
  let numbered (c : Core) : Core := if c.lpid.isNone then c.unnumbered else c
  numbered { c with
    ctl := { c.ctl with rep := Rep.none, run := .stopped .idle }
    helpers := [], handler := none, entries := [], preempt := none, diverge := [], replay := none
    ring := c.ring.filter (fun kr => kr.2.mat), due := [], fifo := [], returned := [], quiesce := false, saved := false
    asmC := none, asmM := none, asmR := none, mq := [], meet := none, meetHead := none, group := none, exited := false, noMore := true
    swaps := [], swapping := false, swapHigh := false, again := none, left := 0, wmiss := none, stopPc := none, counted := false, waited := 0
    twin := none, matched := [], snap := none
    repeating := false, xlat := none, flight := none, answer := none, msb := wput c.msb 0 3 0 }

/-- The cores of a partition's clusters. -/
def State.flrCores (s : State) (q : Nat) : List Nat := (s.clustersOf q).flatMap coresOf

/-- How often a collective of a key has ended: which of the partition's collectives of that GROUP and TAG is the present one. -/
def State.collCount (s : State) (k : Nat × BitVec 32 × BitVec 32) : Nat := (s.collEnds.filter (fun e => e == k)).length

/-- The collectives and comparisons in which a partition takes part: those that it has pushed, and those for which another member has sent
its part (R380). -/
def State.collKeys (s : State) (q : Nat) : List (Nat × BitVec 32 × BitVec 32) :=
  (((s.cmds.filter (fun d => d.part == q && (d.op == 0x12 || d.op == 0x14) && !d.posted)).map RuleCmd.collKey)
    ++ (s.peers.filter (fun p => p.part == q)).map Peer.collKey).eraseDups

/-- The partitions of this device that hold a group's handle beside one that is reset, and have not ended the collective that it aborts: a
member that has keeps its OK. -/
def State.abortsFor (s : State) (k : Nat × BitVec 32 × BitVec 32) : List (Nat × BitVec 32 × BitVec 32) :=
  let g (r : Nat) : Option (Nat × Nat) := s.granted r k.2.1.toNat [4]
  ((upTo 16).filter (fun r => r != k.1 && (g r).isSome && g r == g k.1 && decide (s.collCount (r, k.2) ≤ s.collCount k))).map (fun r => (r, k.2))

/-- The flits to the members of the group on other devices. -/
def State.flitsFor (s : State) (k : Nat × BitVec 32 × BitVec 32) : List AbortFlit :=
  let rank := match s.cmds.find? (fun d => d.collKey == k && (d.op == 0x12 || d.op == 0x14)) with
    | some d => d.rank
    | none => 64
  match s.granted k.1 k.2.1.toNat [4] with
  | some (_, g) => (s.groupPeers g rank).map (fun z => { dst := z, group := k.2.1, tag := k.2.2 })
  | none => []

/-- Step 4 of R380: the device aborts every collective and RDCMP in which the partition takes part, at every member of its group. [DEDUCED, log 71] -/
def State.flrAbort (s : State) (q : Nat) : State :=
  let ks := s.collKeys q
  { s with aborts := s.aborts.filter (fun a => a.1 != q) ++ ks.flatMap s.abortsFor
           abortsOut := s.abortsOut ++ ks.flatMap s.flitsFor
           netErrs := s.netErrs.filter (fun a => a.1 != q)
           peers := s.peers.filter (fun p => p.part != q)
           collEnds := s.collEnds ++ ks }

/-- The reset begins: steps 1, 2, 4 and 5, and the commands that have not started. [DEDUCED, log 71] -/
def State.flrBegin (s : State) (q : Nat) : State :=
  let ps := s.flrCores q
  let s := ps.foldl (fun s p => (s.leaveGang p).modCore p Core.flrStop) (s.flrAbort q)
  let s := s.dropPaired (fun w => ps.contains w.core)
  let s := { s with
    cmds := s.cmds.filter (fun d => !(d.part == q && (d.op == 0x12 || d.op == 0x14 || d.held || d.posted)))
    saves := s.saves.filter (fun (i : SaveImage) => i.part != q)
    posts := s.posts.filter (fun w => w.sup || !ps.contains w.dst)
    links := s.links.filter (fun l => !ps.contains l.dst)
    chans := s.chans.map (fun (kc : Nat × Channel) => (kc.1, if kc.2.part = q then { kc.2 with arr := [] } else kc.2)) }
  let s := s.mapChest (fun l => l.filter (fun e => e.part != q))
  let s := (s.clustersOf q).foldl (fun s cl => s.modCluster cl (fun k =>
    { k with slots := k.slots.filter (fun z => !z.posted) })) s
  s.modPart q (fun x =>
    { x with
      stopped := true, launches := [], verds := [], inbox := [], acts := [], abandons := [], shut := false
      ckpt := { x.ckpt with armed := false, active := false, todo := [], table := [] } })

/-- What the partition had started has run to its end. -/
def State.flrQuiet (s : State) (q : Nat) : Bool :=
  (s.clustersOf q).all (fun cl => (s.cluster cl).slots.isEmpty && (s.cluster cl).runs.isEmpty)
    && !(s.cmds.any (fun d => d.part == q))
    && (s.flrCores q).all (fun p => (s.core p).sent == 0 && !(s.greqs.any (fun r => r.core == p))
      && !(s.walks.any (fun r => r.core == p)))

/-- The reset ends: the clusters are scrubbed and stay granted; HEAD and TAIL read 0. [DEDUCED, log 71] -/
def State.flrEnd (s : State) (q : Nat) : State :=
  let s := (s.flrCores q).foldl (fun s p => s.modCore p (fun c =>
    { c with mbox := [], resv := [], cq := [], west := [], east := [], ring := [] })) s
  let s := (s.clustersOf q).foldl State.scrubCluster s
  s.modPart q (fun x => { x with stopped := false, inbox := [], head := 0, tail := 0 })

/-- FUNCTION_LEVEL_RESET: the reset of a partition's virtual function begins; once everything started has ended, it ends. [DEDUCED, log 71] -/
def execFunctionLevelReset (part : Nat) (s : State) : Answer :=
  if !((s.part part).stopped) then .next (s.flrBegin part)
  else if s.flrQuiet part then .next (s.flrEnd part)
  else .next s

/-! ### Clocks (R384, R385) -/

/-- The NCYC increment of a setting: 65,536 * 1.7 / f, rounded to nearest even. -/
def clockInc (k : Nat) : BitVec 17 :=
  let n := 65536 * 170
  let d := 120 + 5 * k
  let q := n / d
  let r := n % d
  BitVec.ofNat 17 (if d < 2 * r || (2 * r = d && q % 2 = 1) then q + 1 else q)

/-- A die that is not relocking goes to a setting: the present one starts no step. -/
def Die.goTo (d : Die) (k : Nat) (now : Word) : Die :=
  if k = d.set then d else { d with set := k, relock := true, relockAt := now }

/-- A setting that waits is applied, where no step is under way and the cap allows it; else it goes on waiting (R384, R390). -/
def Die.goOn (d : Die) (now : Word) : Die :=
  match d.want with
  | some k => if d.relock || d.cap < k then d else { d with want := none }.goTo k now
  | none => d

/-- A write of CLKREQ of a die (R384): a 1 in bit 32 clears ERR; then a SET outside 0 to 12 sets ERR and does nothing else; any other waits
for a step under way and for the cap. -/
def State.writeClkreq (s : State) (die v : Nat) : State :=
  let k := v % 16
  s.modDie die (fun d =>
    let d := if v.testBit 32 then { d with err := false } else d
    if 12 < k then { d with err := true } else { d with asked := k, want := some k }.goOn s.time)

/-- What CLKREQ of a die reads as (R384): BUSY while a step relocks or a write waits (R390), ERR, NINC, SET. -/
def Die.clkreqWord (d : Die) : Word :=
  BitVec.ofNat 64 ((d.relock || d.want.isSome).toNat * 2 ^ 33 + d.err.toNat * 2 ^ 32 + d.inc.toNat % 2 ^ 16 * 16 + d.set % 16)

/-- CLOCK_STEP: CLKREQ of a die is written with the value `set`. -/
def execClockStep (die set : Nat) (s : State) : Answer := .next (s.writeClkreq die set)

/-- CLOCK_RELOCK_DONE: 500 ticks have passed: the die runs at its new clock; a step down for power that has waited follows, or a setting that
waits. -/
def execClockRelockDone (die : Nat) (s : State) : Answer :=
  let d := s.die die
  if !d.relock || !(s.passed d.relockAt 500) then .next s
  else .next (s.modDie die (fun d =>
    let d := { d with relock := false, inc := clockInc d.set }
    if d.cap < d.set then d.goTo d.cap s.time else d.goOn s.time))

/-! ### Power and cooling (R390, R391) -/

/-- A die is stepped down for power: its cap follows; a die that is relocking steps down after it. -/
def Die.powerDown (d : Die) (now : Word) : Die :=
  let d := { d with cap := d.set - 1 }
  if d.relock then d else d.goTo d.cap now

/-- A die is stepped up one setting, up to what the physical function last wrote: a write that has waited for the cap is applied once it
allows it. -/
def Die.powerUp (d : Die) (now : Word) : Die :=
  let d := { d with cap := min 12 (d.cap + 1) }
  if d.want.isSome && decide (d.want.getD 0 ≤ d.cap) then d.goOn now
  else if d.set < d.asked && d.set < d.cap && !d.relock then d.goTo (d.set + 1) now
  else d

/-- POWER_SAMPLE: a millisecond's average power, in watts. -/
def execPowerSample (watts : Nat) (s : State) : Answer :=
  if !(s.passed s.secure.sampled msTicks) then .next s
  else
    let v := { s.secure with sampled := s.time }
    if 3400 < watts then
      .next { s with die0 := s.die0.powerDown s.time, die1 := s.die1.powerDown s.time, secure := { v with calm := 0 } }
    else if watts < 3100 then
      if 15 ≤ v.calm then
        .next { s with die0 := s.die0.powerUp s.time, die1 := s.die1.powerUp s.time, secure := { v with calm := 0 } }
      else .next { s with secure := { v with calm := v.calm + 1 } }
    else .next { s with secure := { v with calm := 0 } }

/-- THERMAL_STEPDOWN: the hottest junction of a die, in degrees Celsius: from 100 on, until it falls below 95, the die is
stepped down once a millisecond, after a relock that is under way. [DEDUCED, log 69] -/
def execThermalStepdown (die celsius : Nat) (s : State) : Answer :=
  let d := s.die die
  if celsius < 95 then .next (s.modDie die (fun d => { d with hot := false }))
  else if (100 ≤ celsius || d.hot) && !d.relock && (!d.hot || s.passed d.cooled msTicks) then
    .next (s.modDie die (fun d => { d with hot := true, cooled := s.time }.goTo (d.set - 1) s.time))
  else .next s

/-! ### Resets (R386, R387) -/

/-- The bytes of host memory. [DESIGN CHOICE, log 81] -/
def hostCells (m : Mem) : Mem := m.filter (fun c => tierOf c.1 == .host)

/-- First byte of a tier of a die: 0 HBM4E, 1 LPDDR-6. -/
def tierBase (d tier : Nat) : Nat :=
  if tier = 0 then (if d = 0 then 0 else 0x4000000000) else if d = 0 then 0x10000000000 else 0x18000000000

/-- Chunks of a slice's share of a tier. -/
def tierChunks (tier : Nat) : Nat := if tier = 0 then 256 else 384

/-- The journal region of a die: the top 64 KiB of its HBM4E. -/
def inJournal (d a : Nat) : Bool := decide (tierBase d 0 + 0x4000000000 - 0x10000 ≤ a) && decide (a < tierBase d 0 + 0x4000000000)

/-- A slice's entry of its die's scrub journal, 128 bytes to a slice (R388). -/
def journalAt (sl : Nat) : Nat := tierBase (sl / 16) 0 + 0x4000000000 - 0x10000 + 128 * (sl % 16)

/-- The tier and the chunk that a slice's journal entry names as the next to scrub; none when it is closed. The first word of the entry holds
them; a word of 0 is a closed entry. [DESIGN CHOICE, log 100] -/
def State.journal (s : State) (sl : Nat) : Option (Nat × Nat) :=
  let w := bread s.phys (journalAt sl) 8
  if w % 2 = 0 then none else some (w / 2 % 2, w / 256)

/-- Writes a slice's journal entry. [DESIGN CHOICE, log 100] -/
def State.setJournal (s : State) (sl : Nat) (j : Option (Nat × Nat)) : State :=
  { s with phys := bwrite s.phys (journalAt sl) 8 (match j with
    | some (tier, chunk) => 1 + 2 * tier + 256 * chunk
    | none => 0) }

/-- What every reset leaves: the fuse maps, the firmware and fuses, the host's memory and refusals, and the model's own
fields. A bad signature of the firmware, or an SVN below FUSE, stops the boot. [DESIGN CHOICE, log 6; DEDUCED, log 70] -/
def State.rebooted (s : State) : State :=
  { State.reset with
    sched := s.sched, focus := s.focus, cur := s.cur, tick := s.tick, phys := hostCells s.phys, hostNo := s.hostNo
    clusters := s.clusters.map (fun kc => (kc.1, { Cluster.fresh with cmask := kc.2.cmask }))
    die0 := { Die.fresh with hvc := s.die0.hvc }, die1 := { Die.fresh with hvc := s.die1.hvc }
    secure := { Secure.fresh with svn := s.secure.svn, fuse := s.secure.fuse, image := s.secure.image, trip := s.secure.trip,
                                    badSig := s.secure.badSig, halted := s.secure.badSig || decide (s.secure.svn < s.secure.fuse) } }

/-- A cold reset: main memory is as it was until its scrub, which starts over, has cleared it: each slice's journal entry names its first
chunk. [DESIGN CHOICE, log 6, 81; DEDUCED, log 70] -/
def State.coldBoot (s : State) : State :=
  let t := { s.rebooted with phys := s.phys, errs := s.errs.filter (fun m => m.store == .phys) }
  (upTo 32).foldl (fun s sl => s.setJournal sl (some (0, 0))) t

/-- COLD_RESET. [DEDUCED, log 70] -/
def execColdReset (s : State) : Answer := .next s.coldBoot

/-- WARM_RESET: TIME counts on; the sequence counter, and main memory with an open scrub's journal, keep their values. [DEDUCED, log 70] -/
def execWarmReset (s : State) : Answer :=
  .next { s.rebooted with
    phys := s.phys, time := s.time, seq := s.seq, errs := s.errs.filter (fun m => m.store == .phys) }

/-- LOSS_OF_POWER: every agent loses its state, and HBM4E and LPDDR-6 their contents. -/
def execLossOfPower (s : State) : Answer := .next { s.rebooted with power := false }

/-- THERMAL_TRIP: a junction at or above 115 C resets the module; the trip's TIME is kept for the next evidence. -/
def execThermalTrip (_die celsius : Nat) (s : State) : Answer :=
  if celsius < 115 then .next s
  else .next ({ s with secure := { s.secure with trip := some s.time } }.coldBoot)

/-! ### Scrubs of main memory (R388) -/

/-- An address lies in a slice's chunk of a tier. -/
def inChunk (sl tier chunk a : Nat) : Bool :=
  let base := tierBase (sl / 16) tier
  let o := (a - base) / 65536 * 4096 + a % 4096
  decide (base ≤ a) && decide (a < base + tierChunks tier * 16 * 0x4000000) && a / 4096 % 16 == sl % 16
    && o / 0x4000000 == chunk

/-- Zeroes the addresses of main memory that a test selects. -/
def State.zeroPhys (s : State) (f : Nat → Bool) : State :=
  { s with phys := s.phys.filter (fun c => !f c.1), errs := s.errs.filter (fun m => !(m.store == .phys && f m.addr)) }

/-- HBM_SCRUB_CHUNK: a slice finishes the chunk that its journal entry names and journals the next, or closes the entry. Once every slice of the
die has, the journal region is scrubbed. [DEDUCED, log 70] -/
def execHbmScrubChunk (slice : Nat) (s : State) : Answer :=
  match s.journal slice with
  | none => .next s
  | some (tier, chunk) =>
    let d := slice / 16
    let next : Option (Nat × Nat) := if chunk + 1 < tierChunks tier then some (tier, chunk + 1)
      else if tier = 0 then some (1, 0) else none
    let s := (s.zeroPhys (fun a => inChunk slice tier chunk a && !inJournal d a)).setJournal slice next
    .next (if (upTo 16).all (fun k => (s.journal (16 * d + k)).isNone) then s.zeroPhys (inJournal d) else s)

/-- RANGE_ZEROING: the owning slice has zeroed a range that passes to another partition; the new entry takes effect. -/
def execRangeZeroing (k : Nat) (s : State) : Answer :=
  match s.ranges[k]? with
  | none => .next s
  | some r =>
    match r.next with
    | none => .next s
    | some q =>
      let t := s.zeroPhys (fun a => decide (r.base ≤ a) && decide (a ≤ r.limit) && targetOf a == r.target && tierOf a != .host)
      .next { t with ranges := t.ranges.set k { r with part := q, next := none } }

/-! ### BAR 0 of a function (R379) -/

/-- A byte of BAR 0 as the host reads it: function 0 is the physical one, 1 to 16 are the virtual ones. STATUS of an evidence result takes 8
bytes, and the record follows it; ACTIVATE, at 0x8FF8, reads as STATUS of the last activation; what holds nothing reads 0. [DESIGN CHOICE, log 99] -/
def State.barByte (s : State) (fn off : Nat) : Byte :=
  let x := s.part (fnPart fn)
  let v := s.secure
  let word (w : Word) : Byte := BitVec.ofNat 8 (w.toNat / 256 ^ (off % 8))
  let vf := fn != 0 && decide (fn ≤ 16)
  if vf && decide (off < 0x4000) then word ((mget [] x.inbox (off / 64)).getD (off / 8 % 8) 0)
  else if vf && off / 8 == 0x800 then word x.tail
  else if vf && off / 8 == 0x801 then word x.head
  else if 0x4100 ≤ off && off < 0x4140 then BitVec.ofNat 8 ((mget 0 v.nonces fn).toNat / 256 ^ (off - 0x4100))
  else if 0x4200 ≤ off && off < 0x8000 then
    (match mfind v.results fn with
    | none => 0
    | some (st, r) => if off < 0x4208 then word (BitVec.ofNat 64 st) else r.getD (off - 0x4208) 0)
  else if fn != 0 then 0
  else if 0x8000 ≤ off && off < 0x8FF8 then bget v.window (off - 0x8000)
  else if off / 8 == 0x11FF then word (BitVec.ofNat 64 v.activate)
  else if 0x9000 ≤ off && off < 0x9080 then word (s.part ((off - 0x9000) / 8)).svct
  else if off / 8 == 0x1220 then word s.die0.clkreqWord
  else if off / 8 == 0x1221 then word s.die1.clkreqWord
  else 0

/-- Words of a record with `n` bytes of a number written at a byte offset. -/
def putWords (ws : List Word) (o n v : Nat) : List Word :=
  let old := wordsNat ((upTo 8).map (fun k => ws.getD k 0))
  let new := old - old / 256 ^ o % 256 ^ n * 256 ^ o + v % 256 ^ n * 256 ^ o
  (upTo 8).map (fun k => BitVec.ofNat 64 (new / 2 ^ (64 * k)))

/-- The host writes `n` bytes of a function's BAR 0, at most a 64-byte line: the launch inbox, the nonce and the staging window take any
bytes; TAIL, GO, ACTIVATE, SVCT and CLKREQ take a whole word; a write of anything else, or by a function that has not got it, does nothing. GO
begins an evidence request with the nonce that stands there, and ACTIVATE stages the image in the window. [DESIGN CHOICE, log 99] -/
def State.hostWrite (s : State) (fn off n v : Nat) : State :=
  let q := fnPart fn
  let vf := fn != 0 && decide (fn ≤ 16)
  let word := off % 8 == 0 && n == 8
  let inLine := n != 0 && decide (off % 64 + n ≤ 64)
  let sec (f : Secure → Secure) : State := { s with secure := f s.secure }
  if vf && decide (off < 0x4000) then
    (if inLine then s.modPart q (fun x => { x with inbox := mset x.inbox (off / 64) (putWords (mget [] x.inbox (off / 64)) (off % 64) n v) }) else s)
  else if vf && off == 0x4000 then (if word then s.modPart q (fun x => { x with tail := BitVec.ofNat 64 v }) else s)
  else if 16 < fn then s
  else if 0x4100 ≤ off && off < 0x4140 then
    let old := mget (0 : VWord) s.secure.nonces fn
    let new := putWords ((upTo 8).map (fun i => old.extractLsb' (64 * i) 64)) (off % 64) n v
    if inLine then sec (fun k => { k with nonces := mset k.nonces fn (BitVec.ofNat 512 (wordsNat new)) }) else s
  else if off == 0x4140 then
    (if word then sec (fun k => { k with asks := mset k.asks fn (mget 0 k.nonces fn), results := merase k.results fn }) else s)
  else if fn != 0 then s
  else if 0x8000 ≤ off && off < 0x8FF8 then
    (if inLine && decide (off + n ≤ 0x8FF8) then sec (fun k => { k with window := bwrite k.window (off - 0x8000) n v }) else s)
  else if off == 0x8FF8 then
    (if word then sec (fun k => { k with staged := some (Config.imageSvn (breadList k.window 0 0xFF8), bread k.window 0 0xFF8) }) else s)
  else if 0x9000 ≤ off && off < 0x9080 then (if word then s.modPart ((off - 0x9000) / 8) (fun x => { x with svct := BitVec.ofNat 64 v }) else s)
  else if off == 0x9100 || off == 0x9108 then (if word then s.writeClkreq ((off - 0x9100) / 8) v else s)
  else s

end Sys2Proof.Machine
end

