-- ==== Sys2Proof/Machine/Dispatch.lean ====
section
/-! DEFINITION. The one match from instructions to their meanings. -/

namespace Sys2Proof.Machine

/-- Runs one instruction or device step. -/
def exec (i : Instr) (s : State) : Host.Outcome State Fault Refusal :=
  match i with
  | .add e => Sys2Proof.Machine.execAdd e s
  | .sub e => Sys2Proof.Machine.execSub e s
  | .and e => Sys2Proof.Machine.execAnd e s
  | .or e => Sys2Proof.Machine.execOr e s
  | .xor e => Sys2Proof.Machine.execXor e s
  | .shl e => Sys2Proof.Machine.execShl e s
  | .shr e => Sys2Proof.Machine.execShr e s
  | .sra e => Sys2Proof.Machine.execSra e s
  | .mul e => Sys2Proof.Machine.execMul e s
  | .mulh e => Sys2Proof.Machine.execMulh e s
  | .mulhu e => Sys2Proof.Machine.execMulhu e s
  | .min e => Sys2Proof.Machine.execMin e s
  | .max e => Sys2Proof.Machine.execMax e s
  | .minu e => Sys2Proof.Machine.execMinu e s
  | .maxu e => Sys2Proof.Machine.execMaxu e s
  | .andn e => Sys2Proof.Machine.execAndn e s
  | .addi e => Sys2Proof.Machine.execAddi e s
  | .andi e => Sys2Proof.Machine.execAndi e s
  | .ori e => Sys2Proof.Machine.execOri e s
  | .xori e => Sys2Proof.Machine.execXori e s
  | .shli e => Sys2Proof.Machine.execShli e s
  | .shri e => Sys2Proof.Machine.execShri e s
  | .srai e => Sys2Proof.Machine.execSrai e s
  | .movi e => Sys2Proof.Machine.execMovi e s
  | .seq e => Sys2Proof.Machine.execSeq e s
  | .sne e => Sys2Proof.Machine.execSne e s
  | .slt e => Sys2Proof.Machine.execSlt e s
  | .sltu e => Sys2Proof.Machine.execSltu e s
  | .sle e => Sys2Proof.Machine.execSle e s
  | .sleu e => Sys2Proof.Machine.execSleu e s
  | .sel e => Sys2Proof.Machine.execSel e s
  | .mov e => Sys2Proof.Machine.execMov e s
  | .clz e => Sys2Proof.Machine.execClz e s
  | .ctz e => Sys2Proof.Machine.execCtz e s
  | .popc e => Sys2Proof.Machine.execPopc e s
  | .sextB e => Sys2Proof.Machine.execSextB e s
  | .sextH e => Sys2Proof.Machine.execSextH e s
  | .sextW e => Sys2Proof.Machine.execSextW e s
  | .zextH e => Sys2Proof.Machine.execZextH e s
  | .zextW e => Sys2Proof.Machine.execZextW e s
  | .addsh1 e => Sys2Proof.Machine.execAddsh1 e s
  | .addsh2 e => Sys2Proof.Machine.execAddsh2 e s
  | .addsh3 e => Sys2Proof.Machine.execAddsh3 e s
  | .addsh4 e => Sys2Proof.Machine.execAddsh4 e s
  | .bfx e => Sys2Proof.Machine.execBfx e s
  | .bfi e => Sys2Proof.Machine.execBfi e s
  | .lpc e => Sys2Proof.Machine.execLpc e s
  | .pwld e => Sys2Proof.Machine.execPwld e s
  | .ldB e => Sys2Proof.Machine.execLdB e s
  | .ldBu e => Sys2Proof.Machine.execLdBu e s
  | .ldH e => Sys2Proof.Machine.execLdH e s
  | .ldHu e => Sys2Proof.Machine.execLdHu e s
  | .ldW e => Sys2Proof.Machine.execLdW e s
  | .ldWu e => Sys2Proof.Machine.execLdWu e s
  | .ldD e => Sys2Proof.Machine.execLdD e s
  | .lda e => Sys2Proof.Machine.execLda e s
  | .stB e => Sys2Proof.Machine.execStB e s
  | .stH e => Sys2Proof.Machine.execStH e s
  | .stW e => Sys2Proof.Machine.execStW e s
  | .stD e => Sys2Proof.Machine.execStD e s
  | .stl e => Sys2Proof.Machine.execStl e s
  | .vld e => Sys2Proof.Machine.execVld e s
  | .vst e => Sys2Proof.Machine.execVst e s
  | .vlds e => Sys2Proof.Machine.execVlds e s
  | .amoAdd e => Sys2Proof.Machine.execAmoAdd e s
  | .amoAnd e => Sys2Proof.Machine.execAmoAnd e s
  | .amoOr e => Sys2Proof.Machine.execAmoOr e s
  | .amoXor e => Sys2Proof.Machine.execAmoXor e s
  | .amoMin e => Sys2Proof.Machine.execAmoMin e s
  | .amoMax e => Sys2Proof.Machine.execAmoMax e s
  | .amoSwp e => Sys2Proof.Machine.execAmoSwp e s
  | .amoCas e => Sys2Proof.Machine.execAmoCas e s
  | .amoMinu e => Sys2Proof.Machine.execAmoMinu e s
  | .amoMaxu e => Sys2Proof.Machine.execAmoMaxu e s
  | .amoFadd e => Sys2Proof.Machine.execAmoFadd e s
  | .redAdd e => Sys2Proof.Machine.execRedAdd e s
  | .redMin e => Sys2Proof.Machine.execRedMin e s
  | .redMax e => Sys2Proof.Machine.execRedMax e s
  | .redFadd e => Sys2Proof.Machine.execRedFadd e s
  | .vsts e => Sys2Proof.Machine.execVsts e s
  | .fence e => Sys2Proof.Machine.execFence e s
  | .mwait e => Sys2Proof.Machine.execMwait e s
  | .mbsend e => Sys2Proof.Machine.execMbsend e s
  | .mbpeek e => Sys2Proof.Machine.execMbpeek e s
  | .bbset e => Sys2Proof.Machine.execBbset e s
  | .bbadd e => Sys2Proof.Machine.execBbadd e s
  | .bbwait e => Sys2Proof.Machine.execBbwait e s
  | .bbrd e => Sys2Proof.Machine.execBbrd e s
  | .cpq e => Sys2Proof.Machine.execCpq e s
  | .cpqt e => Sys2Proof.Machine.execCpqt e s
  | .cpcan e => Sys2Proof.Machine.execCpcan e s
  | .cpst e => Sys2Proof.Machine.execCpst e s
  | .vgth e => Sys2Proof.Machine.execVgth e s
  | .vsct e => Sys2Proof.Machine.execVsct e s
  | .fadd e => Sys2Proof.Machine.execFadd e s
  | .fsub e => Sys2Proof.Machine.execFsub e s
  | .fmul e => Sys2Proof.Machine.execFmul e s
  | .fdiv e => Sys2Proof.Machine.execFdiv e s
  | .fmin e => Sys2Proof.Machine.execFmin e s
  | .fmax e => Sys2Proof.Machine.execFmax e s
  | .fsqrt e => Sys2Proof.Machine.execFsqrt e s
  | .ffma e => Sys2Proof.Machine.execFfma e s
  | .feq e => Sys2Proof.Machine.execFeq e s
  | .flt e => Sys2Proof.Machine.execFlt e s
  | .fle e => Sys2Proof.Machine.execFle e s
  | .fcls e => Sys2Proof.Machine.execFcls e s
  | .fabs e => Sys2Proof.Machine.execFabs e s
  | .fneg e => Sys2Proof.Machine.execFneg e s
  | .fsgnj e => Sys2Proof.Machine.execFsgnj e s
  | .fcvt e => Sys2Proof.Machine.execFcvt e s
  | .ftoi e => Sys2Proof.Machine.execFtoi e s
  | .ftou e => Sys2Proof.Machine.execFtou e s
  | .itof e => Sys2Proof.Machine.execItof e s
  | .utof e => Sys2Proof.Machine.execUtof e s
  | .frnd e => Sys2Proof.Machine.execFrnd e s
  | .beq e => Sys2Proof.Machine.execBeq e s
  | .bne e => Sys2Proof.Machine.execBne e s
  | .blt e => Sys2Proof.Machine.execBlt e s
  | .bge e => Sys2Proof.Machine.execBge e s
  | .bltu e => Sys2Proof.Machine.execBltu e s
  | .bgeu e => Sys2Proof.Machine.execBgeu e s
  | .bbs e => Sys2Proof.Machine.execBbs e s
  | .bbc e => Sys2Proof.Machine.execBbc e s
  | .br e h => Sys2Proof.Machine.execBr e h s
  | .bz e h => Sys2Proof.Machine.execBz e h s
  | .bnz e h => Sys2Proof.Machine.execBnz e h s
  | .jal e => Sys2Proof.Machine.execJal e s
  | .jalr e => Sys2Proof.Machine.execJalr e s
  | .ret e => Sys2Proof.Machine.execRet e s
  | .loop e => Sys2Proof.Machine.execLoop e s
  | .loopi e => Sys2Proof.Machine.execLoopi e s
  | .lbrk e => Sys2Proof.Machine.execLbrk e s
  | .rep e => Sys2Proof.Machine.execRep e s
  | .vadd e => Sys2Proof.Machine.execVadd e s
  | .vsub e => Sys2Proof.Machine.execVsub e s
  | .vmul e => Sys2Proof.Machine.execVmul e s
  | .vfma e => Sys2Proof.Machine.execVfma e s
  | .vmin e => Sys2Proof.Machine.execVmin e s
  | .vmax e => Sys2Proof.Machine.execVmax e s
  | .vsel e => Sys2Proof.Machine.execVsel e s
  | .vmov e => Sys2Proof.Machine.execVmov e s
  | .vrcp e => Sys2Proof.Machine.execVrcp e s
  | .vrsq e => Sys2Proof.Machine.execVrsq e s
  | .vexp2 e => Sys2Proof.Machine.execVexp2 e s
  | .vlog2 e => Sys2Proof.Machine.execVlog2 e s
  | .vabs e => Sys2Proof.Machine.execVabs e s
  | .vneg e => Sys2Proof.Machine.execVneg e s
  | .vcvt e => Sys2Proof.Machine.execVcvt e s
  | .vcmp e => Sys2Proof.Machine.execVcmp e s
  | .viadd e => Sys2Proof.Machine.execViadd e s
  | .visub e => Sys2Proof.Machine.execVisub e s
  | .vimul e => Sys2Proof.Machine.execVimul e s
  | .vand e => Sys2Proof.Machine.execVand e s
  | .vor e => Sys2Proof.Machine.execVor e s
  | .vxor e => Sys2Proof.Machine.execVxor e s
  | .vshl e => Sys2Proof.Machine.execVshl e s
  | .vshr e => Sys2Proof.Machine.execVshr e s
  | .vred e => Sys2Proof.Machine.execVred e s
  | .vbcst e => Sys2Proof.Machine.execVbcst e s
  | .vperm e => Sys2Proof.Machine.execVperm e s
  | .vextr e => Sys2Proof.Machine.execVextr e s
  | .vins e => Sys2Proof.Machine.execVins e s
  | .vdot e => Sys2Proof.Machine.execVdot e s
  | .vpack e => Sys2Proof.Machine.execVpack e s
  | .vunpk e => Sys2Proof.Machine.execVunpk e s
  | .vmxq e => Sys2Proof.Machine.execVmxq e s
  | .vnqq e => Sys2Proof.Machine.execVnqq e s
  | .vsrs e => Sys2Proof.Machine.execVsrs e s
  | .kmov e => Sys2Proof.Machine.execKmov e s
  | .mstr e => Sys2Proof.Machine.execMstr e s
  | .mstrt e => Sys2Proof.Machine.execMstrt e s
  | .mdrn e => Sys2Proof.Machine.execMdrn e s
  | .macz e => Sys2Proof.Machine.execMacz e s
  | .mbld e => Sys2Proof.Machine.execMbld e s
  | .mbrel e => Sys2Proof.Machine.execMbrel e s
  | .mcfg e => Sys2Proof.Machine.execMcfg e s
  | .maccp e => Sys2Proof.Machine.execMaccp e s
  | .barv e => Sys2Proof.Machine.execBarv e s
  | .bwt e => Sys2Proof.Machine.execBwt e s
  | .barw e => Sys2Proof.Machine.execBarw e s
  | .bstep e => Sys2Proof.Machine.execBstep e s
  | .trig e => Sys2Proof.Machine.execTrig e s
  | .exit e => Sys2Proof.Machine.execExit e s
  | .time e => Sys2Proof.Machine.execTime e s
  | .cyc e => Sys2Proof.Machine.execCyc e s
  | .hstart e => Sys2Proof.Machine.execHstart e s
  | .hend e => Sys2Proof.Machine.execHend e s
  | .hjoin e => Sys2Proof.Machine.execHjoin e s
  | .fuse e => Sys2Proof.Machine.execFuse e s
  | .split e => Sys2Proof.Machine.execSplit e s
  | .rejoin e => Sys2Proof.Machine.execRejoin e s
  | .jmsk e => Sys2Proof.Machine.execJmsk e s
  | .gstat e => Sys2Proof.Machine.execGstat e s
  | .srd e => Sys2Proof.Machine.execSrd e s
  | .swr e => Sys2Proof.Machine.execSwr e s
  | .trap e => Sys2Proof.Machine.execTrap e s
  | .eret e => Sys2Proof.Machine.execEret e s
  | .park e => Sys2Proof.Machine.execPark e s
  | .nop e => Sys2Proof.Machine.execNop e s
  | .rlupd e => Sys2Proof.Machine.execRlupd e s
  | .rltape e => Sys2Proof.Machine.execRltape e s
  | .rlrev e => Sys2Proof.Machine.execRlrev e s
  | .rlstat e => Sys2Proof.Machine.execRlstat e s
  | .rlver e => Sys2Proof.Machine.execRlver e s
  | .rlsw e => Sys2Proof.Machine.execRlsw e s
  | .rlwr e => Sys2Proof.Machine.execRlwr e s
  | .rlrd e => Sys2Proof.Machine.execRlrd e s
  | .rdreg e => Sys2Proof.Machine.execRdreg e s
  | .rdget e => Sys2Proof.Machine.execRdget e s
  | .rdcmp e => Sys2Proof.Machine.execRdcmp e s
  | .actOpn e => Sys2Proof.Machine.execActOpn e s
  | .actCp e => Sys2Proof.Machine.execActCp e s
  | .actCmt e => Sys2Proof.Machine.execActCmt e s
  | .actAbn e => Sys2Proof.Machine.execActAbn e s
  | .actRet e => Sys2Proof.Machine.execActRet e s
  | .actRty e => Sys2Proof.Machine.execActRty e s
  | .actSkp e => Sys2Proof.Machine.execActSkp e s
  | .actSt e => Sys2Proof.Machine.execActSt e s
  | .launch e => Sys2Proof.Machine.execLaunch e s
  | .ckpt e => Sys2Proof.Machine.execCkpt e s
  | .cpqz e => Sys2Proof.Machine.execCpqz e s
  | .bmem e => Sys2Proof.Machine.execBmem e s
  | .lkcfg e => Sys2Proof.Machine.execLkcfg e s
  | .mstat e => Sys2Proof.Machine.execMstat e s
  | .preq e => Sys2Proof.Machine.execPreq e s
  | .twcfg e => Sys2Proof.Machine.execTwcfg e s
  | .div e => Sys2Proof.Machine.execDiv e s
  | .divu e => Sys2Proof.Machine.execDivu e s
  | .rem e => Sys2Proof.Machine.execRem e s
  | .remu e => Sys2Proof.Machine.execRemu e s
  | .repReissue => Sys2Proof.Machine.execRepReissue s
  | .copy cl slot unit => Sys2Proof.Machine.execCopy cl slot unit s
  | .networkSend cl slot => Sys2Proof.Machine.execNetworkSend cl slot s
  | .fill cl slot unit => Sys2Proof.Machine.execFill cl slot unit s
  | .copyAssemblyDiscard core q => Sys2Proof.Machine.execCopyAssemblyDiscard core q s
  | .copyStart cl => Sys2Proof.Machine.execCopyStart cl s
  | .copyLanding cl slot unit => Sys2Proof.Machine.execCopyLanding cl slot unit s
  | .copyCompletion cl slot => Sys2Proof.Machine.execCopyCompletion cl slot s
  | .mailboxDeferredPost k => Sys2Proof.Machine.execMailboxDeferredPost k s
  | .messageArrival k => Sys2Proof.Machine.execMessageArrival k s
  | .messageReturn k => Sys2Proof.Machine.execMessageReturn k s
  | .messageAcceptNotice k => Sys2Proof.Machine.execMessageAcceptNotice k s
  | .linkWordArrival k => Sys2Proof.Machine.execLinkWordArrival k s
  | .heartbeat core => Sys2Proof.Machine.execHeartbeat core s
  | .heartbeatWindowEnd core => Sys2Proof.Machine.execHeartbeatWindowEnd core s
  | .globalRequestArrival k => Sys2Proof.Machine.execGlobalRequestArrival k s
  | .translationWalk k => Sys2Proof.Machine.execTranslationWalk k s
  | .globalResponse k => Sys2Proof.Machine.execGlobalResponse k s
  | .xlatInv core => Sys2Proof.Machine.execXlatInv core s
  | .xlatInvDone core => Sys2Proof.Machine.execXlatInvDone core s
  | .windowCacheFill core w off => Sys2Proof.Machine.execWindowCacheFill core w off s
  | .trapMessageHop k => Sys2Proof.Machine.execTrapMessageHop k s
  | .collectorPost die row => Sys2Proof.Machine.execCollectorPost die row s
  | .matrixCommandStart cl => Sys2Proof.Machine.execMatrixCommandStart cl s
  | .matrixCommandComplete cl k => Sys2Proof.Machine.execMatrixCommandComplete cl k s
  | .reuUpdate k blk => Sys2Proof.Machine.execReuUpdate k blk s
  | .ruleUpdateCompletion k => Sys2Proof.Machine.execRuleUpdateCompletion k s
  | .ruleInvalidOp k => Sys2Proof.Machine.execRuleInvalidOp k s
  | .rltapeCompletion k => Sys2Proof.Machine.execRltapeCompletion k s
  | .rlrevCompletion k => Sys2Proof.Machine.execRlrevCompletion k s
  | .rdregCompletion k => Sys2Proof.Machine.execRdregCompletion k s
  | .rdcmpEnd k => Sys2Proof.Machine.execRdcmpEnd k s
  | .allReduce k => Sys2Proof.Machine.execAllReduce k s
  | .allGather k => Sys2Proof.Machine.execAllGather k s
  | .reduceScatter k => Sys2Proof.Machine.execReduceScatter k s
  | .collectiveCompletion k => Sys2Proof.Machine.execCollectiveCompletion k s
  | .barrierRelease ch => Sys2Proof.Machine.execBarrierRelease ch s
  | .checkpointTimer part => Sys2Proof.Machine.execCheckpointTimer part s
  | .checkpointPageCopy part blk => Sys2Proof.Machine.execCheckpointPageCopy part blk s
  | .checkpointComplete part => Sys2Proof.Machine.execCheckpointComplete part s
  | .compensationStart die seq => Sys2Proof.Machine.execCompensationStart die seq s
  | .inboxRecordIntake part => Sys2Proof.Machine.execInboxRecordIntake part s
  | .windowTableRead part lid => Sys2Proof.Machine.execWindowTableRead part lid s
  | .ageingStep part lid => Sys2Proof.Machine.execAgeingStep part lid s
  | .launchStart part => Sys2Proof.Machine.execLaunchStart part s
  | .groupStart core => Sys2Proof.Machine.execGroupStart core s
  | .launchComplete part lid => Sys2Proof.Machine.execLaunchComplete part lid s
  | .sliceExpiry core => Sys2Proof.Machine.execSliceExpiry core s
  | .longWaitExpiry core => Sys2Proof.Machine.execLongWaitExpiry core s
  | .swapResume core => Sys2Proof.Machine.execSwapResume core s
  | .preemptEntry core => Sys2Proof.Machine.execPreemptEntry core s
  | .lateFaultEntry core => Sys2Proof.Machine.execLateFaultEntry core s
  | .divergeEntry core => Sys2Proof.Machine.execDivergeEntry core s
  | .resumeMessage k => Sys2Proof.Machine.execResumeMessage k s
  | .msbSave core => Sys2Proof.Machine.execMsbSave core s
  | .msbRestore core => Sys2Proof.Machine.execMsbRestore core s
  | .l2pRemap part lpid entry => Sys2Proof.Machine.execL2pRemap part lpid entry s
  | .pairedOpArrival k => Sys2Proof.Machine.execPairedOpArrival k s
  | .pairedOpTimeout k => Sys2Proof.Machine.execPairedOpTimeout k s
  | .clusterScrub cl => Sys2Proof.Machine.execClusterScrub cl s
  | .clusterClkoff cl => Sys2Proof.Machine.execClusterClkoff cl s
  | .serviceControllerTick => Sys2Proof.Machine.execServiceControllerTick s
  | .borderMoveGrant cl => Sys2Proof.Machine.execBorderMoveGrant cl s
  | .evidenceRequest fn => Sys2Proof.Machine.execEvidenceRequest fn s
  | .firmwareActivate => Sys2Proof.Machine.execFirmwareActivate s
  | .functionLevelReset part => Sys2Proof.Machine.execFunctionLevelReset part s
  | .packetRetransmit k => Sys2Proof.Machine.execPacketRetransmit k s
  | .packetAck k => Sys2Proof.Machine.execPacketAck k s
  | .sahdanCrcReplay lane => Sys2Proof.Machine.execSahdanCrcReplay lane s
  | .clockStep die set => Sys2Proof.Machine.execClockStep die set s
  | .clockRelockDone die => Sys2Proof.Machine.execClockRelockDone die s
  | .powerSample watts => Sys2Proof.Machine.execPowerSample watts s
  | .thermalStepdown die celsius => Sys2Proof.Machine.execThermalStepdown die celsius s
  | .thermalTrip die celsius => Sys2Proof.Machine.execThermalTrip die celsius s
  | .coldReset => Sys2Proof.Machine.execColdReset s
  | .warmReset => Sys2Proof.Machine.execWarmReset s
  | .hbmScrubChunk slice => Sys2Proof.Machine.execHbmScrubChunk slice s
  | .resultDelivery core id => Sys2Proof.Machine.execResultDelivery core id s
  | .lossOfPower => Sys2Proof.Machine.execLossOfPower s
  | .securedSessionOpen req => Sys2Proof.Machine.execSecuredSessionOpen req s
  | .securedSessionClose req => Sys2Proof.Machine.execSecuredSessionClose req s
  | .keyDelivery part req h m => Sys2Proof.Machine.execKeyDelivery part req h m s
  | .partRlsWrite part slots => Sys2Proof.Machine.execPartRlsWrite part slots s
  | .clusterGate cl => Sys2Proof.Machine.execClusterGate cl s
  | .rangeZeroing k => Sys2Proof.Machine.execRangeZeroing k s

end Sys2Proof.Machine
end

