-- ==== Sys2Proof/Machine/Schedule.lean ====
section
/-! DEFINITION. Who takes the next step (R6, R148, R153, R385, R386): the head of the schedule, or the next instruction of a
core; what passes with time; and fetching. -/

namespace Sys2Proof.Machine

/-- What a step does. -/
inductive Turn where
  /-- The device has no power. -/
  | off
  /-- The step is over with this state. -/
  | settled (s : State)
  /-- An instruction or device step runs. -/
  | run (i : Instr) (s : State)

/-! ### Time (R17, R18, R385) -/

/-- So many cycles of a die: CYC, and NCYC by its increment. [DESIGN CHOICE, log 9] -/
def Die.cycles (d : Die) (n : Nat) : Die :=
  let t := d.frac.toNat + d.inc.toNat * n
  { d with cyc := d.cyc + BitVec.ofNat 64 n, ncyc := d.ncyc + BitVec.ofNat 64 (t / 65536), frac := BitVec.ofNat 16 t }

/-- What cycles count for a core: the run of its group and a counted wait (R315, R316). -/
def Core.cycles (c : Core) (n : Nat) : Core :=
  { c with
    group := c.group.map (fun g => { g with ran := g.ran + n })
    waited := if c.counted then c.waited + n else c.waited }

/-- So many cycles of a die: its counters, and what its cores and, on die 0, the eligible launches count (R308, R315, R316). -/
def State.cyclesOn (s : State) (die n : Nat) : State :=
  { s.modDie die (fun d => d.cycles n) with
    cores := s.cores.map (fun (kc : Nat × Core) => (kc.1, if dieOf kc.1 = die then kc.2.cycles n else kc.2))
    parts := if die = 0 then s.parts.map (fun (kx : Nat × Partition) => (kx.1, { kx.2 with launches := kx.2.launches.map (fun l =>
        if l.eligible then { l with elig := l.elig + n } else l) })) else s.parts }

/-- Time passes: cycles of each die, unless it is relocking, and reference ticks. [DESIGN CHOICE, log 9] -/
def State.elapse (s : State) (c0 c1 ticks : Nat) : State :=
  let s := { s with
    time := s.time + BitVec.ofNat 64 ticks
    clusters := s.clusters.map (fun (kc : Nat × Cluster) =>
      (kc.1, { kc.2 with idle := if s.clusterIdle kc.1 then kc.2.idle + ticks else 0 })) }
  (s.cyclesOn 0 (if s.die0.relock then 0 else c0)).cyclesOn 1 (if s.die1.relock then 0 else c1)

/-! ### Which context issues (R148, R153, R334) -/

/-- The control context of a core goes on although a pre-emption is pending: in the handler; to finish a record (R70) or a CPQZ
(R295). It makes no replay before the entry (R334). -/
def Core.goesOn (c : Core) : Bool := c.preempt.isNone || c.handler == some 0 || c.assembling 0 || c.quiesce

/-- A context may take the issue slot: it is ready, or waits and tries again. The control context of a core with a pending
pre-emption does not, nor one that waits for its gang. -/
def State.mayIssue (s : State) (p k : Nat) : Bool :=
  let c := s.core p
  (match (c.context k).run with
    | .ready => true
    | .waiting => true
    | _ => false)
  && (k != 0 || c.goesOn && !c.holds)

/-- The context that the round robin takes. -/
def State.pick (s : State) (p : Nat) : Option Nat := ((upTo 11).map (fun j => ((s.core p).rr + j) % 11)).find? (s.mayIssue p)

/-- A core's clock runs and it executes: it is not fused off (R9). -/
def State.alive (s : State) (p : Nat) : Bool :=
  let c := s.core p
  !(s.die (dieOf p)).relock && (s.cluster (clusterOf p)).power == .run && !c.dead && !c.poisoned && !(s.fusedOff p)

/-- The leader fetches past an instruction that it has not issued yet: one that neither parts the gang nor, at its issue, moves the
fetch elsewhere or orders it (R153). BR and JAL move it to a place that is known. -/
def fetchesOn (c : Code) : Bool :=
  !isParting c && (c.p1 || !((c.maj == 20 && 3 ≤ c.min && c.min ≤ 5) || (c.maj == 11 && c.min == 0) || (c.maj == 27 && c.min == 5)
    || (c.maj == 28 && (c.min == 1 || 3 ≤ c.min && c.min ≤ 5)) || (c.maj == 29 && 1 ≤ c.min && c.min ≤ 4)))

/-- The context as it stands once a queued instruction has issued, as far as fetching goes: its PC and its loops. A loop that ends at a REP
goes back before the instruction that the REP repeats (R158). -/
def Context.past (x : Context) (q : QItem) : Option Context :=
  match decode q.parcels with
  | .ok i n =>
    match i.code with
    | none => none
    | some c =>
      if !(fetchesOn c) then none
      else if !c.p1 && (c.maj == 17 || (c.maj == 20 && c.min == 0)) then
        (rowAt c.p1 c.maj c.min).map (fun r => { x with pc := q.pc + 2 * (r.shape.opnds c.min c.e).imm })
      else if !c.p1 && c.maj == 20 then
        let past := q.pc + BitVec.ofNat 64 (2 * n)
        let y := x.advance past
        if y.pc != past then some y
        else (match decode (q.parcels.drop n) with
          | .ok _ m => some (y.advance (q.pc + BitVec.ofNat 64 (2 * (n + m))))
          | _ => none)
      else some (x.advance (q.pc + BitVec.ofNat 64 (2 * n)))
  | _ => none

/-- Where a gang member's fetch stands: past what its queue holds, and past what it repeats. -/
def Core.fetchPoint (c : Core) : Option Word :=
  let x : Option Context := match c.ctl.rep.parcels with
    | [] => some c.ctl
    | ps => (match decode ps with
      | .ok _ n => some (c.ctl.advance (c.ctl.pc + BitVec.ofNat 64 (2 * n)))
      | _ => none)
  (c.queue.foldl (fun (x : Option Context) q => x.bind (fun x => x.past q)) x).map (·.pc)

/-! ### A restored gang comes together (R155) -/

/-- The cores whose contexts are to come together with this one's. -/
def State.regangOf (s : State) (p : Nat) : List Nat := (s.assigned (clusterOf p)).filter (fun q => q == p || s.awaits q p)

/-- Every member of a restored gang stands where it goes on. -/
def State.together (s : State) (p : Nat) : Bool :=
  let ps := s.regangOf p
  match (s.core p).regang with
  | some g => decide (g.size ≤ ps.length) && ps.all (fun q => (s.core q).holds)
  | none => false

/-- What a member has left in its queue continues its context. -/
def Core.queueFits (c : Core) : Bool := (c.queue.head?).all (fun q => q.pc == c.ctl.pc)

/-- A restored gang is fused again, each member in its place among its logical cores. Where every member stands where it was saved it is the
gang that it was, each with its queue, and a member that waited at a parting waits there; otherwise those whose queues end at one fetch point
keep them, or those at one PC form a gang. [DEDUCED, log 33] -/
def State.comeTogether (s : State) (p : Nat) : State :=
  let ps := s.regangOf p
  if ps.all (fun q => (s.core q).stood.any (fun a => a.pc == (s.core q).ctl.pc)) then
    (ps.foldl (fun t q => t.modCore q (fun c => match (s.core q).stood with
      | some a => { c with hold := a.hold, outcome := a.outcome }
      | none => c)) (s.bindGang ps)).resolveGang p
  else
  let points := (ps.map (fun q => (s.core q).fetchPoint)).eraseDups
  if points.length = 1 && points.all (·.isSome) && ps.all (fun q => (s.core q).queueFits) then s.bindGang ps
  else
    let pcs := (ps.map (fun q => (s.core q).ctl.pc)).eraseDups
    pcs.foldl (fun s pc => s.fuseGang (ps.filter (fun q => (s.core q).ctl.pc == pc))) s

/-- A queue on which a context has issued 16 instructions since its last push (R70). [DEDUCED, log 80] -/
def Core.overdue (c : Core) : Option AsmQueue :=
  [AsmQueue.copy, .mat, .rule].find? (fun q => match c.asmOf q with
    | some a => decide (16 ≤ a.since)
    | none => false)

/-- A late fault can be reported now. -/
def Core.lateDue (c : Core) : Bool :=
  match c.lateFault with
  | none => false
  | some (_, r) => (c.atBoundary 0 && c.replay.isNone) || (r.hand && c.handler == some 0)

/-- The device step that comes before the core's next instruction, if one does: a discard of R70, a restored gang that comes together, a late
fault, a pre-emption, an entry that no ERET has delivered, or a DIVERGE entry. -/
def State.beforeIssue (s : State) (p : Nat) : Option State :=
  let c := s.core p
  match c.overdue with
  | some q => some (s.discardAsm p q)
  | none =>
    if c.holds && s.together p then some (s.comeTogether p)
    else if c.lateDue then some (s.lateFaultEntry p)
    else if c.preempt.isSome && s.preemptReady p then some (s.preemptEntry p)
    else if c.handler.isNone && !c.entries.isEmpty && !c.controlFirst then some (s.nextHandler p)
    else if c.divergeNow.isSome then some (s.divergeEntry p)
    else none

/-! ### Fetch and decode (R25 to R45) -/

/-- The stop of a fetch, at the running context's instruction. -/
def State.fetchStop (s : State) (st : Stop) : State :=
  match st with
  | .trap cause => s.trapHere cause
  | .page k acc va cid agent =>
    if s.trapWaits then s
    else (s.pageMsg k acc va cid agent).trapHere { cls := 6, sub := k, info := BitVec.ofNat 64 va }
  | .poison t => t.poisonCore t.cur
  | .hold f => f s
  | .wait => s

/-- Runs the instruction at the front of parcels, or takes the illegal-instruction trap with the lowest subcause. -/
def State.decodeTurn (s : State) (ps : List Parcel) : Turn :=
  match decode ps with
  | .ok i _ => .run i s
  | _ =>
    match decodeFor (some s.who) ps with
    | .illegal subs => .settled (s.trapHere { cls := 2, sub := lowest subs, info := 0 })
    | _ => .settled (s.trapHere { cls := 2, sub := 4, info := 0 })

/-- Fetches and decodes the running context's next instruction. -/
def State.fetchTurn (s : State) : Turn :=
  match s.fetch s.cx.pc with
  | .error st => .settled (s.fetchStop st)
  | .ok (ps, t) => t.decodeTurn ps

/-! ### Gangs (R153) -/

/-- The parcels that a leader hands on: of a REP, those of the repeated instruction with it. -/
def State.handedOn (s : State) (pc : Word) (ps : List Parcel) : Except Stop (List Parcel × State) :=
  match decode ps with
  | .ok (.rep _) n =>
    match s.fetch (pc + BitVec.ofNat 64 (2 * n)) with
    | .error e => .error e
    | .ok (qs, s) => .ok (ps.take n ++ qs, s)
  | _ => .ok (ps, s)

/-- The leader of the running core's gang fetches: no member's queue is full, and none waits at a parting, is pre-empted or has a
pre-emption pending. -/
def State.mayFetch (s : State) : Bool :=
  (s.gang s.cur).all (fun q =>
    let c := s.core q
    decide (c.queue.length < 16) && !c.hold && c.preempt.isNone && c.gpos.isNone)

/-- The leader fetches an instruction into every member's issue queue. -/
def State.leaderFetch (s : State) (pc : Word) : Except Stop State :=
  match s.fetch pc with
  | .error st => .error st
  | .ok (ps, s) =>
    match s.handedOn pc ps with
    | .error st => .error st
    | .ok (ps, s) =>
      .ok ((s.gang s.cur).foldl (fun s q => s.modCore q (fun c => { c with queue := c.queue ++ [{ pc := pc, parcels := ps }] })) s)

/-- A leader fetches ahead of its own issue; a fault of such a fetch shows only when its queue has run empty. [DEDUCED, log 32] -/
def State.fetchAhead (s : State) : State :=
  if s.leader s.cur != s.cur || !s.mayFetch then s
  else match s.me.fetchPoint with
    | none => s
    | some pc => match s.leaderFetch pc with
      | .ok t => t
      | .error _ => s

/-- A gang member's turn: the head of its queue. With an empty one it waits for the leader, whose fetch has stopped or meets a
fault; where another member waits for the gang to part, it waits too. [DEDUCED, log 32] -/
def State.memberTurn (s : State) : Turn :=
  match s.me.queue with
  | q :: _ => (s.modCx (fun x => { x with pc := q.pc })).decodeTurn q.parcels
  | [] =>
    if (s.mates s.cur).any (fun q => (s.core q).hold) then
      .settled ((s.modMe (fun c => { c with hold := true, outcome := none })).resolveGang s.cur)
    else if s.leader s.cur = s.cur && s.mayFetch then
      (match s.leaderFetch s.cx.pc with
      | .ok t => .settled t
      | .error st => .settled (s.fetchStop st))
    else .settled s

/-! ### The turn of a core -/

/-- The running context issues: a replay first, outside its handler (R330), then a reissue of REP, then its gang's or its own next
instruction. -/
def State.contextTurn (s : State) : Turn :=
  let s := if s.ctx = 0 && s.me.fused then s.fetchAhead else s
  let replay : Option Nat := if s.ctx = 0 && s.me.handler != some 0 then s.me.replay else none
  match replay with
  | some k => .settled (s.replayNow k)
  | none =>
    if !s.cx.rep.parcels.isEmpty then .run .repReissue s
    else if s.ctx = 0 && s.me.queued then s.memberTurn
    else s.fetchTurn

/-- A core's turn takes a cycle of its die. [DESIGN CHOICE, log 8, 9] -/
def State.issueTurn (s : State) (p : Nat) : Turn :=
  if !(s.alive p) then .settled s
  else match s.beforeIssue p with
    | some t => .settled t
    | none =>
      match s.pick p with
      | none => .settled s
      | some k =>
        ({ (s.cyclesOn (dieOf p) 1).modCore p (fun c => { c with rr := (k + 1) % 11 }) with
            cur := p, ctx := k } : State).contextTurn

/-! ### The schedule -/

/-- The die whose clock a device step needs, if it is one die's (R385). [DEDUCED, log 69] -/
def dieNeeded : Instr → Option Nat
  | .copy cl _ _ => some (cl / 256)
  | .networkSend cl _ => some (cl / 256)
  | .fill cl _ _ => some (cl / 256)
  | .copyAssemblyDiscard p _ => some (dieOf p)
  | .copyStart cl => some (cl / 256)
  | .copyLanding cl _ _ => some (cl / 256)
  | .copyCompletion cl _ => some (cl / 256)
  | .heartbeat p => some (dieOf p)
  | .heartbeatWindowEnd p => some (dieOf p)
  | .windowCacheFill p _ _ => some (dieOf p)
  | .collectorPost d _ => some (d % 2)
  | .groupStart p => some (dieOf p)
  | .sliceExpiry p => some (dieOf p)
  | .longWaitExpiry p => some (dieOf p)
  | .swapResume p => some (dieOf p)
  | .xlatInvDone p => some (dieOf p)
  | .inboxRecordIntake _ => some 0
  | .windowTableRead _ _ => some 0
  | .ageingStep _ _ => some 0
  | .launchStart _ => some 0
  | .launchComplete _ _ => some 0
  | .matrixCommandStart cl => some (cl / 256)
  | .matrixCommandComplete cl _ => some (cl / 256)
  | .compensationStart d _ => some (d % 2)
  | .preemptEntry p => some (dieOf p)
  | .lateFaultEntry p => some (dieOf p)
  | .divergeEntry p => some (dieOf p)
  | .msbSave p => some (dieOf p)
  | .msbRestore p => some (dieOf p)
  | .resultDelivery p _ => some (dieOf p)
  | .clusterScrub cl => some (cl / 256)
  | .hbmScrubChunk sl => some (sl / 16)
  | _ => none

/-- The dies whose clocks the arrival of something under way needs: it waits in a lane, or in its router, while one of them relocks (R385).
[DEDUCED, log 69] -/
def State.arrivalDies (s : State) (i : Instr) : List Nat :=
  let cmd (k : Nat) : List Nat := ((s.cmdBy k).map (fun c => dieOf c.core)).toList
  match i with
  | .messageArrival k => ((s.msgs[k]?).map (fun m => dieOf m.dst)).toList
  | .resumeMessage k => ((s.msgs[k]?).map (fun m => dieOf m.dst)).toList
  | .messageReturn k => ((s.backs[k]?).map (fun m => dieOf m.src)).toList
  | .messageAcceptNotice k => ((s.accs[k]?).map (fun m => dieOf m.src)).toList
  | .linkWordArrival k => ((s.links[k]?).map (fun l => dieOf l.dst)).toList
  | .globalRequestArrival k => (match s.greqs[k]? with
    | none => []
    | some r => dieOf r.core :: ((s.reqPa r).map dieOfPa).toList)
  | .translationWalk k => ((s.walks[k]?).map (fun r => dieOf r.core)).toList
  | .globalResponse k => ((s.gresps[k]?).map (fun r => dieOf r.req.core)).toList
  | .trapMessageHop k => ((s.traps[k]?).map (fun m => m.die)).toList
  | .mailboxDeferredPost k => ((s.posts[k]?).map (fun w => if w.sup then w.dst / 4 else dieOf w.dst)).toList
  | .pairedOpArrival k => ((s.paired[k]?).map (fun w => dieOf w.sender)).toList
  | .packetAck k => ((s.packets[k]?).map (fun x => (s.queueOf x.queue).port % 8 / 4)).toList
  | .xlatInv _ => [0, 1]
  | .checkpointPageCopy q b => ((mfind (s.part q).ckpt.todo b).map (fun x => x.1 / 16)).toList
  | .reuUpdate k _ => cmd k
  | .ruleUpdateCompletion k => cmd k
  | .ruleInvalidOp k => cmd k
  | .rltapeCompletion k => cmd k
  | .rlrevCompletion k => cmd k
  | .rdregCompletion k => cmd k
  | .rdcmpEnd k => cmd k
  | .allReduce k => cmd k
  | .allGather k => cmd k
  | .reduceScatter k => cmd k
  | .collectiveCompletion k => cmd k
  | _ => []

/-- What a physical address that an agent translates holds, without any effect on the state. -/
def State.peek (s : State) (g : Agent) (va n : Nat) : Nat :=
  match s.translate g.die g.cid va 0 with
  | .ok (pa, _) => bread s.phys pa n
  | .error _ => 0

/-- The block addresses that a tape at an address lists. -/
def State.peekTape (s : State) (g : Agent) (a nb : Nat) : List Nat := (upTo nb).map (fun b => bits (s.peek g (a + 0x40 + 8 * b) 8) 0 57)

/-- A run of global bytes that a step reaches: agent, address, number, access kind. -/
abbrev Reach := Agent × Nat × Nat × Nat

/-- What an REU_UPDATE reaches: the header of its block, and the tape that records it. -/
def State.updateReach (s : State) (c : RuleCmd) (va : Nat) : List Reach :=
  let g := reuAgent (xlatSlice (dieOf c.core) va) c
  (g, va, 64, 2) :: (match (if (s.peek g va 16).testBit 66 then s.tapeFor c va else none) with
    | none => []
    | some (a, cid, bs, b) =>
      let t := recordAgent c cid a
      let size := recordBytes (ruleOf (s.boundImage c))
      let cnt := s.peek t (a + 0x40 + 8 * b) 8 / 2 ^ 57 % 128
      [(t, a, tapeStart bs.length, 2), (t, a + tapeStart bs.length + (cnt * bs.length + b) * 1024 * size, 1024 * size, 1)])

/-- The headers of a command's blocks. -/
def headReach (c : RuleCmd) (acc : Nat) (vs : List Nat) : List Reach :=
  vs.map (fun va => (reuAgent (xlatSlice (dieOf c.core) va) c, va, 64, acc))

/-- What an RLREV reaches: its tape with the records, the headers, the deltas and the gradient. -/
def State.reverseReach (s : State) (c : RuleCmd) : List Reach :=
  let a := c.w1.toNat
  let g := tapeAgent c a
  let h := s.peek g a 64
  let nb := bits h 40 16
  let r := ruleOf (s.boundImage c)
  if tapeBad h c.slot then [(g, a, 64, 0)]
  else [(g, a, tapeStart nb + bits h 24 8 * nb * 1024 * recordBytes r, 0), (g, c.w3.toNat, 4 * weightCount r, 2)]
    ++ headReach c 0 (s.peekTape g a nb) ++ (upTo nb).map (fun b => (g, (c.w2.toNat + 4096 * b) % 2 ^ 64, 4096, 0))

/-- What a started command of a Matrix Unit reaches at its end. -/
def State.matReach (s : State) (cl : Nat) (r : MatRun) : List Reach :=
  let m := r.cmd
  if r.status != 0 then []
  else if m.kind = 2 then (s.drained cl r.fmt m).map (fun x => (matAgent cl m, x.1, x.2.1, 1))
  else if m.kind = 4 then [(matAgent cl m, m.w1.toNat, imageBytes m.bfmt (m.kp * m.np), 0)]
  else []

/-- The global bytes that a device step reaches, as far as they are known before it. -/
def State.reach (s : State) (i : Instr) : List Reach :=
  let cmd (k : Nat) (f : RuleCmd → List Reach) : List Reach := (s.cmdBy k).elim [] f
  let rule (k : Nat) (f : RuleCmd → List Reach) : List Reach := cmd k (fun c => if s.rulePre c != 0 then [] else f c)
  let slot (cl j : Nat) (f : CopySlot → List Reach) : List Reach := ((s.cluster cl).slots[j]?).elim [] f
  let buf (k : Nat) : List Reach := cmd k (fun c =>
    if s.collPre c != 0 then [] else [(s.portAgent c, c.w3.toNat, c.elem * c.high, 0), (s.portAgent c, c.w3.toNat, c.elem * c.high, 1)])
  match i with
  | .copy cl j u => slot cl j (fun z =>
      let x := z.walk.unit z.req u
      [(engineAgent cl z.req.cid, x.1, x.2.2, 0)])
  | .copyLanding cl j u => slot cl j (fun z =>
      if s.pairDrops (coreAt cl z.cidx) z.req.pair z.req.drop then []
      else (z.walk.mates z.req u).map (fun v =>
        let x := z.walk.unit z.req v
        (engineAgent cl z.req.cid, x.2.1, x.2.2, 1)))
  | .networkSend cl j => slot cl j (fun z =>
      (z.walk.stream z.req (4096 * s.packetDue cl z) 4096).map (fun x => (engineAgent cl z.req.cid, x.1, x.2, 0)))
  | .reuUpdate k n => rule k (fun c => s.updateReach c (blockVa c.w1 c.w2 n))
  | .rltapeCompletion k => rule k (fun c =>
      let g := tapeAgent c c.w1.toNat
      (g, c.w1.toNat, tapeStart c.w3.toNat, 2) :: headReach c 2 (s.peekTape g c.w1.toNat c.w3.toNat))
  | .rlrevCompletion k => rule k s.reverseReach
  | .rdregCompletion k => cmd k (fun c => if c.regBad then [] else headReach c 2 ((upTo c.nb).map (blockVa c.w1 c.w2)))
  | .allReduce k => buf k
  | .allGather k => buf k
  | .reduceScatter k => buf k
  | .checkpointPageCopy q b => ((mfind (s.part q).ckpt.todo b).map (fun x =>
      (ckptAgent x.1 q (s.part q).ckpt.cid, (s.part q).ckpt.base + 0x10000 + 0x6000 * b, 0x6000, 1))).toList
  | .checkpointComplete q => [(ckptAgent 0 q (s.part q).ckpt.cid, (s.part q).ckpt.base, 0x40 + 8 * (s.part q).ckpt.table.length, 1)]
  | .matrixCommandStart cl => (s.nextQueue cl).elim [] (fun n => ((s.core (coreAt cl n.1)).mq.head?).elim [] (fun m =>
      if m.kind = 4 then s.matReach cl { cidx := n.1, cmd := m, status := 0, fmt := 0, ended := none } else []))
  | .matrixCommandComplete cl k => ((s.cluster cl).runs[k]?).elim [] (s.matReach cl)
  | .windowCacheFill p w o => (match s.launchOf p with
    | none => []
    | some (q, l) => ((mfind l.wins w).map (fun x => (unitAgent (clusterOf p) q l.cid, (x.1 + o) % 2 ^ 64 / 64 * 64, 64, 0))).toList)
  | .windowTableRead q d => ((s.byLid q d).map (fun l => (distAgent l.cid, (l.word 5).toNat, 16 * l.nw, 0))).toList
  | .launchComplete q d => ((s.byLid q d).map (fun l => (distAgent l.cid, (l.word 2).toNat, 16, 1))).toList
  | .pairedOpArrival k => ((s.paired[k]?).elim [] (fun w => match w.act with
    | .mem r => [(r.agent, r.va, r.n, r.acc)]
    | _ => []))
  | .translationWalk k => ((s.walks[k]?).map (fun r => (r.agent, r.va, r.n, r.acc))).toList
  | _ => []

/-- What a device step sends over the Sahdan link beside its accesses: row lanes, by the die that they lead to or from. -/
def State.packetLanes (s : State) (i : Instr) : List (Nat × Nat) :=
  let far (die lane port : Nat) : List (Nat × Nat) := if port / 4 != die then [(lane, port / 4)] else []
  match i with
  | .networkSend cl j => ((s.cluster cl).slots[j]?).elim [] (fun z => far (cl / 256) (masterLane (masterOf cl 9)) (s.copyPort (coreAt cl z.cidx) z))
  | .checkpointPageCopy q b => (match mfind (s.part q).ckpt.todo b, s.buddyQueue q with
    | some x, some (_, z) => far (x.1 / 16) (masterLane (ckptAgent x.1 q 0).master) (z.port % 8)
    | _, _ => [])
  | .packetAck k => ((s.packets[k]?).map (fun x =>
      let port := (s.queueOf x.queue).port % 8
      if x.cl < 512 then far (x.cl / 256) (portLane port) port else [])).elim [] id
  | _ => []

/-- A device step waits at the Sahdan link or for a die that relocks (R383, R385). [DEDUCED, log 55, 69] -/
def State.stepHolds (s : State) (i : Instr) : Bool :=
  !s.linkQuiet && ((s.reach i).any (fun x => spaceOf x.2.1 1 == some .glob && s.pathHolds x.1 x.2.1 x.2.2.1 x.2.2.2)
    || (s.packetLanes i).any (fun x => s.laneHolds x.1 || (s.die x.2).relock))

/-- A device step of the schedule runs: one that has an encoding, or that a stopped clock or the Sahdan link holds, does nothing. REP_REISSUE
belongs to its context's own turn. [DESIGN CHOICE, log 8; DEDUCED, log 55, 69] -/
def State.eventTurn (s : State) (i : Instr) : Turn :=
  let held := ((dieNeeded i).toList ++ s.arrivalDies i).any (fun d => (s.die d).relock)
  if i.code.isSome || i == .repReissue || held || s.stepHolds i then .settled s else .run i s

/-- What runs on a device whose boot has stopped at step 2 (R386): the evidence path of Markhor's ROM, and what resets the device. [DESIGN CHOICE, log 6] -/
def Move.whenHalted : Move → Bool
  | .event .coldReset => true
  | .event .warmReset => true
  | .event .lossOfPower => true
  | .event (.thermalTrip _ _) => true
  | .event (.evidenceRequest _) => true
  | .host _ off _ _ => decide (0x4100 ≤ off) && decide (off < 0x4148)
  | .elapse _ _ _ => true
  | _ => false

/-- The next step: the head of the schedule; with an empty schedule the core in focus. Without power only a cold reset
acts, and after a boot that has stopped only what `Move.whenHalted` admits (R386). [DESIGN CHOICE, log 8] -/
def State.turn (s : State) : Turn :=
  if !s.power then
    match s.sched with
    | .event .coldReset :: rest => .run .coldReset { s with sched := rest }
    | _ => .off
  else if s.secure.halted && !((s.sched.head?).any Move.whenHalted) then .settled { s with sched := s.sched.drop 1 }
  else match s.sched with
    | [] => { s with late := false }.issueTurn s.focus
    | .host fn off n v :: rest => .settled ({ s with sched := rest }.hostWrite fn off n v)
    | .event i :: rest => { s with sched := rest }.eventTurn i
    | .issue p late :: rest => { s with sched := rest, late := late }.issueTurn p
    | .elapse c0 c1 ticks :: rest => .settled ({ s with sched := rest }.elapse c0 c1 ticks)

end Sys2Proof.Machine
end

