-- ==== Sys2Proof/Machine/Step.lean ====
section
/-! DEFINITION. One step of the machine, and the placing of one instruction where the next step fetches it. -/

namespace Sys2Proof.Machine

/-- One step: the turn of whoever moves next, and the instruction or device step that it runs. [DESIGN CHOICE, log 8] -/
def step (s : State) : Host.Outcome State Fault Refusal :=
  match s.turn with
  | .off => .fault .unpowered
  | .settled t => .next t
  | .run i t => exec i t

/-- The bytes of parcels in memory order (R2, R25). -/
def parcelBytes (ps : List Parcel) : List Byte := ps.flatMap (fun (p : Parcel) => [p.setWidth 8, (p >>> 8).setWidth 8])

/-- Where `withFetchWord` places an instruction: at the control context's PC if it lies in local memory, else at 0. [DESIGN CHOICE, log 7] -/
def fetchPlace (pc : Word) : Nat := if pc.toNat + 12 ≤ 0x400000 then pc.toNat else 0

/-- The state in which the next step runs the instruction whose bits are `w`: the core in focus has its clock, no reason to
do anything else first, and a control context that is ready at the instruction. [DESIGN CHOICE, log 7] -/
def State.withFetchWord (s : State) (nbits w : Nat) : State :=
  let p := s.focus
  let a := fetchPlace (s.core p).ctl.pc
  let bytes := parcelBytes (tableParcels nbits w ++ [0, 0, 0, 0])
  let s := { s with sched := [], power := true, secure := { s.secure with halted := false }, errs := s.errs.filter (fun m => m.store != Store.loc p) }
  let s := s.modDie (dieOf p) (fun d => { d with relock := false })
  let s := s.modCluster (clusterOf p) (fun k => { k with power := .run })
  s.modCore p (fun c =>
    { c with
      ctl := { c.ctl with run := .ready, pc := BitVec.ofNat 64 a, rep := Rep.none }
      mem := bwriteList c.mem a bytes, rr := 0, preempt := none, diverge := [], ring := [], replay := none
      asmC := none, asmM := none, asmR := none, memb := 0, hold := false, queue := [], outcome := none, gpos := none, regang := none
      entries := if c.handler.isNone then [] else c.entries
      poisoned := false, dead := false
      msb := wput c.msb 0 3 0 })

end Sys2Proof.Machine
end

