-- ==== Sys2Proof/WellFormed.lean ====
section
/-! DEFINITION. Which instructions are well-formed (R28 to R42). -/

namespace Sys2Proof

/-- An instruction is well-formed when no context-independent subcause of R42 applies to it. A device step has no encoding and is well-formed. -/
def Instr.wellFormed (i : Instr) : Bool := i.subcauses.isEmpty

/-- An instruction is well-formed for the context that decodes it: its own limits hold as well (R38, R181, R244, R269). -/
def Instr.wellFormedFor (i : Instr) (w : Who) : Bool :=
  i.wellFormed && match i.code with
    | none => true
    | some c => match rowAt c.p1 c.maj c.min with
      | none => false
      | some r => !(c.barred r.shape w)

end Sys2Proof
end

