-- ==== Sys2Proof/Safety.lean ====
section
/-! DEFINITION. The terms in which claims are stated: when an instruction issues and with which operand values, what its
completion leaves, the canonical form of every memory, and a safe run. -/

namespace Sys2Proof.Machine

/-! ### When an instruction issues -/

/-- The opcode and the form of an instruction; none for a device step. -/
def formOf (i : Instr) : Option (Code × Shape) :=
  match i.code with
  | none => none
  | some c =>
    match rowAt c.p1 c.maj c.min with
    | none => none
    | some r => some (c, r.shape)

/-- The register or queue head that an instruction writes. -/
def targetName (i : Instr) : Option Nat :=
  match formOf i with
  | none => none
  | some (c, sh) => sh.target c.e (sh.opnds c.min c.e)

/-- The running context may issue the instruction: it is well-formed for that context (R42), its level may issue it (R44), and
no operation of CORE.MSB, posted request or failing vector access holds it back (R336, R114, R330). Results arrive at once. -/
def State.issues (s : State) (i : Instr) : Bool :=
  match formOf i with
  | none => false
  | some (c, sh) =>
    i.wellFormedFor s.who && !(privBars c (sh.opnds c.min c.e) s.level) && !(s.behind c sh (sh.opnds c.min c.e)) && !s.late

/-- The state in which the instruction reads its operands: a wait instruction has discarded the context's partial records
(R70), a vector instruction of a control context holds a dispatch-ring entry (R329); none while no entry is free. -/
def State.begin (s : State) (i : Instr) : Option State :=
  match formOf i with
  | none => none
  | some (c, _) =>
    let s := if isWaitInsn c then s.dropAsm s.cur s.ctx else s
    if isVector c && s.ctx = 0 then
      match s.me.takeRing { RingEntry.empty with pc := s.cx.pc.setWidth 57 } with
      | .error _ => none
      | .ok (_, m) => some (s.setCore s.cur m)
    else some s

/-- The values of the operands and the state after their pops; none while the instruction cannot issue, or while an operand
is missing. -/
def State.starts (s : State) (i : Instr) : Option (Vals × State) :=
  if s.issues i then
    match formOf i, s.begin i with
    | some (c, sh), some s =>
      match s.readAll sh c.e (sh.opnds c.min c.e) s.cx.win with
      | .error _ => none
      | .ok r => some r
    | _, _ => none
  else none

/-- The state after a result has been pushed into the queue head or link that the instruction names, if it names one; none
while the push waits or traps. -/
def State.takes (s : State) (i : Instr) (r : Res) : Option State :=
  match targetName i with
  | none => some s
  | some n =>
    match s.pushHead n r with
    | .error _ => none
    | .ok s => some s

/-! ### What a completed instruction leaves -/

/-- A core without the contexts and without what only orders its issue: the gang, the ring, the counters of waiting and of
assembly. -/
def Core.rest (c : Core) : Core :=
  let words (a : Option Asm) : Option Asm := a.map (fun a => { a with since := 0 })
  { c with ctl := Context.blank .free 0, helpers := [], memb := 0, queue := [], hold := false, outcome := none, gpos := none, regang := none, stood := none,
           ring := [], ringNext := 0,
           asmC := words c.asmC, asmM := words c.asmM, asmR := words c.asmR, counted := false, waited := 0 }

/-- The PC after an instruction of `s` (R25): that of the first parcel and its length. -/
def State.nextPc (s : State) (i : Instr) : Word := s.cx.pc + BitVec.ofNat 64 i.opnds.len

/-- The window after an instruction that writes to a name: a result has become d1. -/
def Window.after (w : Window) (ctx : Nat) (n : Option Nat) : Option Res → Window
  | none => w
  | some r => if n.isSome then w.push (entryOf ctx r) else w

/-- A scalar register, by its number, after an instruction that writes to a name. -/
def sregAfter (n : Option Nat) (m : Nat) (old : Word) : Option Res → Word
  | none => old
  | some r => if n = some m ∧ 1 ≤ m ∧ m ≤ 31 then lane0 r.bits else old

/-- A vector register, by its number, after an instruction that writes to a name. -/
def vregAfter (n : Option Nat) (m : Nat) (old : VWord) : Option Res → VWord
  | none => old
  | some r => if n = some (m + 32) ∧ m ≤ 15 then r.bits else old

/-- The PC and the loop counts after an instruction: the target of a jump, or the next address with the loop-back of R158. -/
def Context.goesTo (x : Context) (next : Word) : Option Word → Word × Map Word
  | some a => (a, x.lc)
  | none => ((x.advance next).pc, (x.advance next).lc)

/-- The instruction `i`, issued in `s`, has completed in `t`: beside what its effect has done already in `s2`, the result has
become d1 and stands in the register named (R99, R144), the PC has moved on, through the loop-back of R158, or to `jump`, and
nothing else has changed. -/
structure Ran (i : Instr) (s s2 t : State) (r : Option Res) (jump : Option Word) : Prop where
  /-- The distance window. -/
  win : t.cx.win = s2.cx.win.after s2.ctx (targetName i) r
  /-- Scalar registers. -/
  sreg : ∀ n, t.cx.sreg n = sregAfter (targetName i) n (s2.cx.sreg n) r
  /-- Vector registers. -/
  vreg : ∀ n, t.cx.vreg n = vregAfter (targetName i) n (s2.cx.vreg n) r
  /-- The PC and the loop counts. -/
  pc : (t.cx.pc, t.cx.lc) = s2.cx.goesTo (s.nextPc i) jump
  /-- The issue state: a context that waited no longer does. -/
  run : t.cx.run = if s2.cx.run = .waiting then .ready else s2.cx.run
  /-- CTX.TSW. -/
  tsw : t.cx.tsw = s2.cx.tsw
  /-- Masks, jump selectors, loop bounds, REP, generator, end word. -/
  other : (t.cx.k, t.cx.j, t.cx.ls, t.cx.le, t.cx.rep, t.cx.gen, t.cx.endWord, t.cx.comp)
    = (s2.cx.k, s2.cx.j, s2.cx.ls, s2.cx.le, s2.cx.rep, s2.cx.gen, s2.cx.endWord, s2.cx.comp)
  /-- Every other context. -/
  contexts : ∀ p k, ¬(p = s2.cur ∧ k = s2.ctx) → (t.core p).context k = (s2.core p).context k
  /-- Every core's registers, memory, mailbox and queues. -/
  cores : ∀ p, (t.core p).rest = (s2.core p).rest
  /-- Everything outside the cores. -/
  device : { t with cores := [] } = { s2 with cores := [] }

/-- Who runs and how results arrive are the same in two states (the model's own fields). -/
def Same (s t : State) : Prop := t.cur = s.cur ∧ t.ctx = s.ctx ∧ t.late = s.late

/-- The state after the result of an instruction, if it has one, has been pushed; none while the push waits or traps. -/
def State.lands (s : State) (i : Instr) : Option Res → Option State
  | none => some s
  | some r => s.takes i r

/-- The instruction completes: whenever it starts with operand values `v` in a state `s1`, and the rule `P` gives, for its
operands, these values and `s1`, the state `s'` after its effect, its result and its jump, it answers the state in which it has
completed with them. -/
def State.completes (s : State) (i : Instr) (P : Opnds → Vals → State → State → Option Res → Option Word → Prop) : Prop :=
  ∀ v s1 s' r jump s2, s.starts i = some (v, s1) → P i.opnds v s1 s' r jump → s'.lands i r = some s2 →
    ∃ t, Sys2Proof.Machine.exec i s = .next t ∧ Ran i s s2 t r jump

/-- The instruction completes with a scalar result and has no other effect. -/
def State.gives (s : State) (i : Instr) (f : Opnds → Vals → State → Word) : Prop :=
  s.completes i (fun o v s1 s' r jump => s' = s1 ∧ r = some (.s (f o v s1)) ∧ jump = none)

/-- The instruction completes with a scalar result and raises floating-point flags (R174). -/
def State.givesFp (s : State) (i : Instr) (f : Opnds → Vals → Nat × FpFlags) : Prop :=
  s.completes i (fun o v s1 s' r jump =>
    s' = s1.raise (f o v).2 ∧ r = some (.s (BitVec.ofNat 64 (f o v).1)) ∧ jump = none)

/-- The instruction completes with the vector whose lane `n` of the type's width is the given number, with the flags of all
lanes together. -/
def State.givesLanes (s : State) (i : Instr) (f : Opnds → Vals → State → Nat → Nat × FpFlags) : Prop :=
  s.completes i (fun o v s1 s' r jump =>
    let w := laneBytes o.t
    s' = s1.raise ((upTo (64 / w)).foldl (fun a n => a.or (f o v s1 n).2) FpFlags.zero) ∧ jump = none ∧
      ∃ x : VWord, r = some (.v x) ∧ ∀ n, n < 64 / w → laneAt x w n = (f o v s1 n).1 % 2 ^ (8 * w))

/-- The instruction completes with a vector result and no other effect. -/
def State.givesVec (s : State) (i : Instr) (f : Opnds → Vals → State → VWord) : Prop :=
  s.completes i (fun o v s1 s' r jump => s' = s1 ∧ r = some (.v (f o v s1)) ∧ jump = none)

/-- The instruction completes without a result, and its effect is this function of the state. -/
def State.does (s : State) (i : Instr) (f : Opnds → Vals → State → State) : Prop :=
  s.completes i (fun o v s1 s' r jump => s' = f o v s1 ∧ r = none ∧ jump = none)

/-- The instruction completes without a result; it jumps to this address, or goes on. -/
def State.jumps (s : State) (i : Instr) (f : Opnds → Vals → State → Option Word) : Prop :=
  s.completes i (fun o v s1 s' r jump => s' = s1 ∧ r = none ∧ jump = f o v s1)

/-! ### What stays -/

/-- The memories of every core and cluster and main memory are the same in two states. -/
def SameMemory (s t : State) : Prop :=
  (∀ p, (t.core p).mem = (s.core p).mem) ∧ (∀ cl, (t.cluster cl).mem = (s.cluster cl).mem) ∧ t.phys = s.phys

/-- Every context of every core is the same in two states: registers, window, PC and issue state. -/
def SameContexts (s t : State) : Prop := ∀ p k, (t.core p).context k = (s.core p).context k

/-! ### Completions -/

/-- A completion of command `id`, of this length, enters core `p`'s mailbox at once (R393). -/
def State.postable (s : State) (p id len : Nat) : Prop :=
  s.silent p = false ∧ (s.core p).room len = true ∧ ∀ w ∈ s.posts, (w.sup = true ∨ w.dst ≠ p) ∧ w.rule ≠ some id

/-- From `u` to `t`, command `id` has ended with the entry `e` in core `p`'s mailbox. -/
def State.ended (u : State) (p id : Nat) (e : MailEntry) (t : State) : Prop :=
  (t.core p).mbox = (u.core p).mbox ++ [e] ∧ t.cmds = u.cmds.filter (fun d => d.id != id) ∧ SameMemory u t ∧ SameContexts u t

/-! ### Canonical memory -/

/-- A memory is in canonical form: addresses strictly rising, no zero byte listed. -/
abbrev Memory.wf (m : Mem) : Bool := memWf m

/-- Every local memory, every cluster memory and main memory is in canonical form. -/
def State.memOk (s : State) : Prop :=
  (∀ p, memWf (s.core p).mem = true) ∧ (∀ cl, memWf (s.cluster cl).mem = true) ∧ memWf s.phys = true

end Sys2Proof.Machine
end

