-- ==== Sys2Proof/Certificates/Slice0/Obligations.lean ====
section
/-! DEFINITION. The statements for the provers. -/

section

open Sys2Proof Sys2Proof.Machine

/-- A step runs the instruction that stands at the program counter (R25, R27); A step runs the device step at the head
of the schedule. With power, after a boot that has not stopped, with an empty schedule, a living core in focus that
has nothing else to do first, and no error marks: when the parcels of a well-formed instruction stand in local
memory at the PC of the context whose turn it is, the step is that instruction's exec in the state in which this
core and this context run, the core's die has counted a cycle and the round robin has moved on. That the fetch reads
the bytes which stand in memory is the model's choice (log entry 84). With power, after a boot that has not stopped,
a device step at the head of the schedule, whose dies' clocks are not stopped and which nothing holds at the Sahdan
link, runs in the state without it; time that passes there changes no register and no memory; the host's write of
TAIL in BAR 0 of a virtual function sets TAIL of its partition and nothing else. The schedule is the model's own
field. Where the spec leaves a point open it states the choice of the model (log entries 8, 9, 55, 69, 84, 99). -/
def Obligations.StepRunsDecoded : Prop :=
  (∀ (s : State) (i : Instr) (k : Nat),
     let p := s.focus
     let u : State := { (({ s with late := false } : State).cyclesOn (dieOf p) 1).modCore p (fun c =>
       { c with rr := (k + 1) % 11 }) with cur := p, ctx := k }
     let x := (s.core p).context k
     s.power = true → s.secure.halted = false → s.sched = [] → s.errs = [] → s.alive p = true → ({ s with late := false }).beforeIssue p = none →
     ({ s with late := false }).pick p = some k → (k = 0 → ((s.core p).replay = none ∨ (s.core p).handler = some 0) ∧ (s.core p).queued = false) → x.rep.parcels = [] →
     i.code.isSome = true → i.wellFormed = true → x.pc.toNat + 2 * (encode i).length ≤ 0x400000 →
     (∀ j, j < (encode i).length → some (bread (s.core p).mem (x.pc.toNat + 2 * j) 2) = (encode i)[j]?.map (fun w => w.toNat)) →
     Sys2Proof.Machine.step s = Sys2Proof.Machine.exec i u)
  ∧ ((∀ (s : State) (i : Instr) (rest : List Move), s.power = true → s.secure.halted = false → s.sched = .event i :: rest →
       i.code = none → i ≠ .repReissue → (∀ d, dieNeeded i = some d → (s.die d).relock = false) →
        ({ s with sched := rest } : State).stepHolds i = false →
       (∀ d ∈ ({ s with sched := rest } : State).arrivalDies i, (s.die d).relock = false) →
       Sys2Proof.Machine.step s = Sys2Proof.Machine.exec i { s with sched := rest })
     ∧ (∀ (s : State) (a b n : Nat) (rest : List Move), s.power = true → s.sched = .elapse a b n :: rest →
       ∃ t, Sys2Proof.Machine.step s = .next t ∧ t.sched = rest ∧ t.time = s.time + BitVec.ofNat 64 n ∧ SameMemory s t
         ∧ SameContexts s t)
     ∧ (∀ (s : State) (fn v : Nat) (rest : List Move), s.power = true → s.secure.halted = false →
       s.sched = .host fn 0x4000 8 v :: rest → 1 ≤ fn → fn ≤ 16 →
       ∃ t, Sys2Proof.Machine.step s = .next t ∧ t.sched = rest ∧ (t.part (fn - 1)).tail = BitVec.ofNat 64 v
         ∧ (∀ q, q ≠ fn - 1 → t.part q = s.part q) ∧ t.cores = s.cores ∧ SameMemory s t)
     ∧ (∀ (s : State), s.power = false → s.sched = [] → Sys2Proof.Machine.step s = .fault .unpowered))

/-- Words written out from the spec's encodings decode to their instructions (R26, R28 to R33). The words that the spec
writes out decode to the instructions it writes them out for: ffma.f64 s5, s6, s7 is FE40 FA17 6F56, kmov k1, s3 is
CB35, mstr s5, [s4+32] is F820 D054, rlupd [s7] is FC01 0807, br 1b is 8FFD, rejoin j2 is E520, bstep 5 is DB05,
act.abn s4, s0 is FC01 1B40, nop is ED00; a parcel of zeros is illegal with subcause 1. -/
def Obligations.DecodeWords : Prop :=
  let f (x y : BitVec 4) : Fields := { page := false, mod := none, reg := none, imms := [], x := x, y := y }
  decode [0xFE40, 0xFA17, 0x6F56] = .ok (.ffma { { f 5 6 with mod := some { t := 1, rm := 0, s := false, f := false, o := 0 } } with
        reg := some { xh := 0, yh := 0, zp := true, z := 7 } }) 3
    ∧ decode [0xCB35] = .ok (.kmov (f 3 5)) 1
    ∧ decode [0xF820, 0xD054] = .ok (.mstr { f 5 4 with imms := [0x020] }) 2
    ∧ decode [0xFC01, 0x0807] = .ok (.rlupd { f 0 7 with page := true }) 2
    ∧ decode [0x8FFD] = .ok (.br (f 15 13) 7) 1
    ∧ decode [0xE520] = .ok (.rejoin (f 2 0)) 1
    ∧ decode [0xDB05] = .ok (.bstep (f 0 5)) 1
    ∧ decode [0xFC01, 0x1B40] = .ok (.actAbn { f 4 0 with page := true }) 2
    ∧ decode [0xED00] = .ok (.nop (f 0 0)) 1
    ∧ decode [0x0000] = .illegal [1]

/-- Decoding the encoding of a well-formed instruction gives it back (R25 to R41). For every instruction that has an
encoding and is well-formed, whatever parcels follow: the decoder reads from its parcels exactly it, with every
operand, prefix and immediate chunk, and its length. -/
def Obligations.EncodeDecode : Prop :=
  ∀ (i : Instr) (rest : List Parcel), i.code.isSome = true → i.wellFormed = true →
    decode (encode i ++ rest) = .ok i (encode i).length ∧ 2 * (encode i).length = i.opnds.len ∧ (encode i).length ≤ 5

/-- Every step keeps every memory in its canonical form. In the model each memory lists its non-zero bytes at strictly
rising addresses; from any state in which the local memories, the cluster memories and main memory have that form,
whatever the step does, a next state has it too. The form is the model's choice of representation. -/
def Obligations.MemoriesStayCanonical : Prop :=
  ∀ (s t : State), s.memOk → Sys2Proof.Machine.step s = .next t → t.memOk

/-- The machine right after reset (R17, R386, R342). At reset every memory is in canonical form and reads zero, no core
runs a group or holds a logical number, control contexts stand stopped at S level, helpers are free, TIME and both
CYC are 0, and no partition has anything queued. Where the spec leaves a point open it states the choice of the
model (log entries 1, 2, 3, 4, 5, 6, 81). -/
def Obligations.ResetState : Prop :=
  State.reset.memOk ∧ (∀ p a, bget (State.reset.core p).mem a = 0) ∧ (∀ cl a, bget (State.reset.cluster cl).mem a = 0)
    ∧ (∀ a, bget State.reset.phys a = 0)
    ∧ (∀ p, (State.reset.core p).lpid = none ∧ (State.reset.core p).group = none ∧ (State.reset.core p).mbox = []
        ∧ (State.reset.core p).ctl.run = .stopped .noLogical ∧ lvlOf (State.reset.core p).ctl.tsw = 1
        ∧ (∀ k, 1 ≤ k → ((State.reset.core p).context k).run = .free))
    ∧ State.reset.time = 0 ∧ State.reset.die0.cyc = 0 ∧ State.reset.die1.cyc = 0
    ∧ (∀ q, (State.reset.part q).launches = [] ∧ (State.reset.part q).acts = [])

/-- Arithmetic and logic give the results of R182. Each of the sixteen instructions of R182, in every form that issues,
completes with the table's result of its two operand values as d1 and in the register or queue head it names, and
changes nothing else: no flag, no other register, no memory. -/
def Obligations.ArithmeticResults : Prop :=
  ∀ (e : Fields) (s : State),
    s.gives (.add e) (fun _ v _ => BitVec.ofNat 64 (v.x.s.toNat + v.y.s.toNat))
    ∧ s.gives (.sub e) (fun _ v _ => BitVec.ofInt 64 (v.x.s.toNat - v.y.s.toNat))
    ∧ s.gives (.and e) (fun _ v _ => v.x.s &&& v.y.s)
    ∧ s.gives (.or e) (fun _ v _ => v.x.s ||| v.y.s)
    ∧ s.gives (.xor e) (fun _ v _ => v.x.s ^^^ v.y.s)
    ∧ s.gives (.shl e) (fun _ v _ => BitVec.ofNat 64 (v.x.s.toNat * 2 ^ (v.y.s.toNat % 64)))
    ∧ s.gives (.shr e) (fun _ v _ => BitVec.ofNat 64 (v.x.s.toNat / 2 ^ (v.y.s.toNat % 64)))
    ∧ s.gives (.sra e) (fun _ v _ => BitVec.ofInt 64 (v.x.s.toInt / 2 ^ (v.y.s.toNat % 64)))
    ∧ s.gives (.mul e) (fun _ v _ => BitVec.ofNat 64 (v.x.s.toNat * v.y.s.toNat))
    ∧ s.gives (.mulh e) (fun _ v _ => BitVec.ofInt 64 (v.x.s.toInt * v.y.s.toInt / 2 ^ 64))
    ∧ s.gives (.mulhu e) (fun _ v _ => BitVec.ofNat 64 (v.x.s.toNat * v.y.s.toNat / 2 ^ 64))
    ∧ s.gives (.min e) (fun _ v _ => BitVec.ofInt 64 (min v.x.s.toInt v.y.s.toInt))
    ∧ s.gives (.max e) (fun _ v _ => BitVec.ofInt 64 (max v.x.s.toInt v.y.s.toInt))
    ∧ s.gives (.minu e) (fun _ v _ => BitVec.ofNat 64 (min v.x.s.toNat v.y.s.toNat))
    ∧ s.gives (.maxu e) (fun _ v _ => BitVec.ofNat 64 (max v.x.s.toNat v.y.s.toNat))
    ∧ s.gives (.andn e) (fun _ v _ => v.x.s &&& ~~~v.y.s)

/-- Compares, SEL and MOV give the results of R184. Each compare completes with 1 or 0; SEL, while d1 is not pending,
with X if bits 63:0 of d1 are non-zero and with Y otherwise, a d1 with VAL = 0 reading as zero, d1 read before SEL
shifts the window; MOV with Y. -/
def Obligations.CompareSelectResults : Prop :=
  ∀ (e : Fields) (s : State),
    s.gives (.seq e) (fun _ v _ => if v.x.s.toNat = v.y.s.toNat then 1 else 0)
    ∧ s.gives (.sne e) (fun _ v _ => if v.x.s.toNat = v.y.s.toNat then 0 else 1)
    ∧ s.gives (.slt e) (fun _ v _ => if v.x.s.toInt < v.y.s.toInt then 1 else 0)
    ∧ s.gives (.sltu e) (fun _ v _ => if v.x.s.toNat < v.y.s.toNat then 1 else 0)
    ∧ s.gives (.sle e) (fun _ v _ => if v.y.s.toInt < v.x.s.toInt then 0 else 1)
    ∧ s.gives (.sleu e) (fun _ v _ => if v.y.s.toNat < v.x.s.toNat then 0 else 1)
    ∧ (s.cx.win.d1.pend = none →
        s.gives (.sel e) (fun _ v _ =>
          if s.cx.win.d1.val = false ∨ s.cx.win.d1.bits.toNat % 2 ^ 64 = 0 then v.y.s else v.x.s))
    ∧ s.gives (.mov e) (fun _ v _ => v.y.s)

/-- Unary forms give the results of R185. CLZ gives the number n of leading zero bits (64 for zero, else the n with
2^(63-n) ≤ Y < 2^(64-n)), CTZ the number of trailing zero bits, POPC the number of one bits; the extensions read the
low 8, 16 or 32 bits of Y as a signed or an unsigned number. -/
def Obligations.UnaryResults : Prop :=
  ∀ (e : Fields) (s : State),
    s.completes (.clz e) (fun _ v s1 s' r jump => s' = s1 ∧ jump = none ∧ ∃ n, r = some (.s (BitVec.ofNat 64 n)) ∧
      (v.y.s = 0 ∧ n = 64 ∨ n < 64 ∧ 2 ^ (63 - n) ≤ v.y.s.toNat ∧ v.y.s.toNat < 2 ^ (64 - n)))
    ∧ s.completes (.ctz e) (fun _ v s1 s' r jump => s' = s1 ∧ jump = none ∧ ∃ n, r = some (.s (BitVec.ofNat 64 n)) ∧
      (v.y.s = 0 ∧ n = 64 ∨ n < 64 ∧ v.y.s.toNat % 2 ^ n = 0 ∧ v.y.s.toNat / 2 ^ n % 2 = 1))
    ∧ s.gives (.popc e) (fun _ v _ => BitVec.ofNat 64 ((upTo 64).filter (fun k => v.y.s.toNat / 2 ^ k % 2 == 1)).length)
    ∧ s.gives (.sextB e) (fun _ v _ => (v.y.s.setWidth 8).signExtend 64)
    ∧ s.gives (.sextH e) (fun _ v _ => (v.y.s.setWidth 16).signExtend 64)
    ∧ s.gives (.sextW e) (fun _ v _ => (v.y.s.setWidth 32).signExtend 64)
    ∧ s.gives (.zextH e) (fun _ v _ => (v.y.s.setWidth 16).setWidth 64)
    ∧ s.gives (.zextW e) (fun _ v _ => (v.y.s.setWidth 32).setWidth 64)

/-- Address forms give the results of R186 to R188; immediate forms give the results of R183. ADDSHn gives X + Y * 2^n;
BFX the field of Y at pos of width bits, zero- or sign-extended; BFI replaces that field of X by the low bits of Y,
bit for bit; LPC gives PC + 2 * imm, with bit 0 clear when the PC is even. Each immediate form completes with the
table's result of X and the extended immediate; MOVI with the immediate alone. A shift immediate above 63 has
subcause 8 and a Z operand of MOVI subcause 5. -/
def Obligations.AddressResults : Prop :=
  (∀ (e : Fields) (s : State),
     s.gives (.addsh1 e) (fun _ v _ => BitVec.ofNat 64 (v.x.s.toNat + 2 * v.y.s.toNat))
     ∧ s.gives (.addsh2 e) (fun _ v _ => BitVec.ofNat 64 (v.x.s.toNat + 4 * v.y.s.toNat))
     ∧ s.gives (.addsh3 e) (fun _ v _ => BitVec.ofNat 64 (v.x.s.toNat + 8 * v.y.s.toNat))
     ∧ s.gives (.addsh4 e) (fun _ v _ => BitVec.ofNat 64 (v.x.s.toNat + 16 * v.y.s.toNat))
     ∧ s.completes (.bfx e) (fun o v s1 s' r jump => s' = s1 ∧ jump = none ∧ ∃ x : Word, r = some (.s x) ∧
       (let pos := o.imm.toNat % 64
        let width := o.imm.toNat / 64 % 64 + 1
        ∀ k, k < 64 → x.getLsbD k =
          if k < width then v.y.s.getLsbD (pos + k) else o.imm.getLsbD 12 && v.y.s.getLsbD (pos + width - 1)))
     ∧ s.completes (.bfi e) (fun o v s1 s' r jump => s' = s1 ∧ jump = none ∧ ∃ x : Word, r = some (.s x) ∧
       (let pos := o.imm.toNat % 64
        let width := o.imm.toNat / 64 % 64 + 1
        ∀ k, k < 64 → x.getLsbD k =
          if pos ≤ k ∧ k < pos + width then v.y.s.getLsbD (k - pos) else v.x.s.getLsbD k))
     ∧ s.gives (.lpc e) (fun o _ _ => BitVec.ofInt 64 (s.cx.pc.toInt + 2 * o.imm.toInt)))
  ∧ (∀ (e : Fields) (s : State),
     (s.gives (.addi e) (fun o v _ => BitVec.ofInt 64 (v.x.s.toInt + o.imm.toInt))
     ∧ s.gives (.andi e) (fun o v _ => v.x.s &&& o.imm)
     ∧ s.gives (.ori e) (fun o v _ => v.x.s ||| o.imm)
     ∧ s.gives (.xori e) (fun o v _ => v.x.s ^^^ o.imm)
     ∧ s.gives (.shli e) (fun o v _ => BitVec.ofNat 64 (v.x.s.toNat * 2 ^ o.imm.toNat))
     ∧ s.gives (.shri e) (fun o v _ => BitVec.ofNat 64 (v.x.s.toNat / 2 ^ o.imm.toNat))
     ∧ s.gives (.srai e) (fun o v _ => BitVec.ofInt 64 (v.x.s.toInt / 2 ^ o.imm.toNat))
     ∧ s.gives (.movi e) (fun o _ _ => o.imm))
     ∧ (63 < (Instr.shli e).opnds.imm.toNat → 8 ∈ (Instr.shli e).subcauses)
     ∧ (63 < (Instr.shri e).opnds.imm.toNat → 8 ∈ (Instr.shri e).subcauses)
     ∧ (63 < (Instr.srai e).opnds.imm.toNat → 8 ∈ (Instr.srai e).subcauses)
     ∧ (e.zp = true → 5 ∈ (Instr.movi e).subcauses))

/-- Division gives the results of R189. DIV truncates toward zero and REM takes the sign of X; a zero divisor gives all
ones and X; -2^63 divided by -1 gives -2^63 with remainder 0. Division never traps and sets no flag. -/
def Obligations.DivisionResults : Prop :=
  ∀ (e : Fields) (s : State),
    s.gives (.div e) (fun _ v _ =>
      if v.y.s = 0 then BitVec.allOnes 64
      else if v.x.s.toInt = -(2 ^ 63) ∧ v.y.s.toInt = -1 then BitVec.ofInt 64 (-(2 ^ 63))
      else BitVec.ofInt 64 (v.x.s.toInt.sign * v.y.s.toInt.sign * (v.x.s.toInt.natAbs / v.y.s.toInt.natAbs : Nat)))
    ∧ s.gives (.divu e) (fun _ v _ =>
      if v.y.s = 0 then BitVec.allOnes 64 else BitVec.ofNat 64 (v.x.s.toNat / v.y.s.toNat))
    ∧ s.gives (.rem e) (fun _ v _ =>
      if v.y.s = 0 then v.x.s
      else if v.x.s.toInt = -(2 ^ 63) ∧ v.y.s.toInt = -1 then 0
      else BitVec.ofInt 64 (v.x.s.toInt.sign * (v.x.s.toInt.natAbs % v.y.s.toInt.natAbs : Nat)))
    ∧ s.gives (.remu e) (fun _ v _ => if v.y.s = 0 then v.x.s else BitVec.ofNat 64 (v.x.s.toNat % v.y.s.toNat))

/-- Scalar floating point gives correctly formed results and flags (R190 to R194); FCLS, FABS, FNEG and FSGNJ work on
bits and set no flag (R192). FADD to FSQRT, FFMA, FEQ, FLT, FLE, FRND, FTOI, FTOU, ITOF, UTOF and FCVT complete with
the result and the flags of the operation in the type T and the mode RM: FFMA without Z is FMUL; a compare gives 0
or 1. With S the conversion rounds with one draw of the context's generator, which then holds its next value. FABS
clears the sign bit of the low bits of Y in the type T, FNEG inverts it, FSGNJ gives X with the sign bit of Y; FCLS
gives the class of Y's bits. No flag is set and the upper bits of the result are zero. Where the spec leaves a point
open it states the choice of the model (log entry 76). -/
def Obligations.FloatResults : Prop :=
  (∀ (e : Fields) (s : State),
     s.givesFp (.fadd e) (fun o v => (fmtOf o.t).addC o.rm v.x.s.toNat v.y.s.toNat)
     ∧ s.givesFp (.fsub e) (fun o v => (fmtOf o.t).subC o.rm v.x.s.toNat v.y.s.toNat)
     ∧ s.givesFp (.fmul e) (fun o v => (fmtOf o.t).mulC o.rm v.x.s.toNat v.y.s.toNat)
     ∧ s.givesFp (.fdiv e) (fun o v => (fmtOf o.t).divC o.rm v.x.s.toNat v.y.s.toNat)
     ∧ s.givesFp (.fmin e) (fun o v => ((fmtOf o.t).minMaxC false v.x.s.toNat v.y.s.toNat, FpFlags.zero))
     ∧ s.givesFp (.fmax e) (fun o v => ((fmtOf o.t).minMaxC true v.x.s.toNat v.y.s.toNat, FpFlags.zero))
     ∧ s.givesFp (.fsqrt e) (fun o v => (fmtOf o.t).sqrtC o.rm v.y.s.toNat)
     ∧ s.givesFp (.ffma e) (fun o v =>
       if o.zp then (fmtOf o.t).fmaC o.rm v.x.s.toNat v.y.s.toNat v.z.s.toNat
       else (fmtOf o.t).mulC o.rm v.x.s.toNat v.y.s.toNat)
     ∧ s.givesFp (.feq e) (fun o v =>
       let q := (fmtOf o.t).relC 0 v.x.s.toNat v.y.s.toNat
       (if q.1 then 1 else 0, q.2))
     ∧ s.givesFp (.flt e) (fun o v =>
       let q := (fmtOf o.t).relC 1 v.x.s.toNat v.y.s.toNat
       (if q.1 then 1 else 0, q.2))
     ∧ s.givesFp (.fle e) (fun o v =>
       let q := (fmtOf o.t).relC 2 v.x.s.toNat v.y.s.toNat
       (if q.1 then 1 else 0, q.2))
     ∧ s.givesFp (.frnd e) (fun o v => (fmtOf o.t).integralC o.rm v.y.s.toNat)
     ∧ s.givesFp (.ftoi e) (fun o v =>
       let q := ((fmtOf o.t).value v.y.s.toNat).toRange o.rm (-(2 ^ 63)) (2 ^ 63 - 1)
       ((BitVec.ofInt 64 q.1).toNat, q.2))
     ∧ s.givesFp (.ftou e) (fun o v =>
       let q := ((fmtOf o.t).value v.y.s.toNat).toRange o.rm 0 (2 ^ 64 - 1)
       ((BitVec.ofInt 64 q.1).toNat, q.2))
     ∧ s.completes (.itof e) (fun o v s1 s' r jump => jump = none ∧
       (let c := (fmtOf o.t).convert o.rm o.s s1.cx.gen (FVal.ofInt v.y.s.toInt)
        s' = (if o.s then s1.modCx (fun x => { x with gen := c.2 }) else s1).raise c.1.2
          ∧ r = some (.s (BitVec.ofNat 64 c.1.1))))
     ∧ s.completes (.utof e) (fun o v s1 s' r jump => jump = none ∧
       (let c := (fmtOf o.t).convert o.rm o.s s1.cx.gen (FVal.ofInt v.y.s.toNat)
        s' = (if o.s then s1.modCx (fun x => { x with gen := c.2 }) else s1).raise c.1.2
          ∧ r = some (.s (BitVec.ofNat 64 c.1.1))))
     ∧ s.completes (.fcvt e) (fun o v s1 s' r jump => jump = none ∧
       (let c := (fmtOf o.t).convert o.rm o.s s1.cx.gen ((fmtOf (o.imm.toNat % 8)).value v.y.s.toNat)
        s' = (if o.s then s1.modCx (fun x => { x with gen := c.2 }) else s1).raise c.1.2
          ∧ r = some (.s (BitVec.ofNat 64 c.1.1)))))
  ∧ (∀ (e : Fields) (s : State),
     s.completes (.fabs e) (fun o v s1 s' r jump => s' = s1 ∧ jump = none ∧ ∃ x : Word, r = some (.s x) ∧
       ∀ k, x.getLsbD k = (v.y.s.getLsbD k && decide (k < (fmtOf o.t).signAt)))
     ∧ s.completes (.fneg e) (fun o v s1 s' r jump => s' = s1 ∧ jump = none ∧ ∃ x : Word, r = some (.s x) ∧
       ∀ k, k < 64 → x.getLsbD k = if k = (fmtOf o.t).signAt then !v.y.s.getLsbD k
         else v.y.s.getLsbD k && decide (k < (fmtOf o.t).signAt))
     ∧ s.completes (.fsgnj e) (fun o v s1 s' r jump => s' = s1 ∧ jump = none ∧ ∃ x : Word, r = some (.s x) ∧
       ∀ k, k < 64 → x.getLsbD k = if k = (fmtOf o.t).signAt then v.y.s.getLsbD k
         else v.x.s.getLsbD k && decide (k < (fmtOf o.t).signAt))
     ∧ s.gives (.fcls e) (fun o v _ =>
       BitVec.ofNat 64 ((fmtOf o.t).classC (v.y.s.toNat % 2 ^ ((fmtOf o.t).signAt + 1)))))

/-- Vector arithmetic works lane by lane (R195). VADD, VSUB, VMUL, VFMA, VMIN and VMAX complete with the vector whose
lane i is the operation on lane i of X and Y (VFMA: added to lane i of the destination's old value, with one
rounding), and the flags of all lanes together enter CTX.TSW; VSEL takes lane i of X where bit i of k1 is 1 and of Y
elsewhere; VMOV copies Y. -/
def Obligations.VectorFloatResults : Prop :=
  ∀ (e : Fields) (s : State),
    s.givesLanes (.vadd e) (fun o v _ n =>
      let w := laneBytes o.t
      (fmtOf o.t).addC o.rm (laneAt (v.x.v w) w n) (laneAt (v.y.v w) w n))
    ∧ s.givesLanes (.vsub e) (fun o v _ n =>
      let w := laneBytes o.t
      (fmtOf o.t).subC o.rm (laneAt (v.x.v w) w n) (laneAt (v.y.v w) w n))
    ∧ s.givesLanes (.vmul e) (fun o v _ n =>
      let w := laneBytes o.t
      (fmtOf o.t).mulC o.rm (laneAt (v.x.v w) w n) (laneAt (v.y.v w) w n))
    ∧ s.givesLanes (.vfma e) (fun o v s1 n =>
      let w := laneBytes o.t
      (fmtOf o.t).fmaC o.rm (laneAt (v.x.v w) w n) (laneAt (v.y.v w) w n) (laneAt (s1.cx.vreg (o.dst - 32)) w n))
    ∧ s.givesLanes (.vmin e) (fun o v _ n =>
      let w := laneBytes o.t
      ((fmtOf o.t).minMaxC false (laneAt (v.x.v w) w n) (laneAt (v.y.v w) w n), FpFlags.zero))
    ∧ s.givesLanes (.vmax e) (fun o v _ n =>
      let w := laneBytes o.t
      ((fmtOf o.t).minMaxC true (laneAt (v.x.v w) w n) (laneAt (v.y.v w) w n), FpFlags.zero))
    ∧ s.completes (.vsel e) (fun o v s1 s' r jump => s' = s1 ∧ jump = none ∧ ∃ x : VWord, r = some (.v x) ∧
      (let w := laneBytes o.t
       ∀ n, n < 64 / w → laneAt x w n =
         if (s1.cx.kreg 1).getLsbD n then laneAt (v.x.v w) w n else laneAt (v.y.v w) w n))
    ∧ s.givesVec (.vmov e) (fun o v _ => v.y.v (laneBytes o.t))

/-- Approximations, sign, conversion and compare of vectors (R196 to R199). VRCP, VRSQ, VEXP2 and VLOG2 complete with
the device's fixed result of each lane of Y (within the bound a free value, log entry on Config.approx); VABS and
VNEG clear or invert the sign bit, or give the wrapping magnitude or negation of an integer lane; VCVT converts the
lanes its selector names, a scalar source standing in every lane of its own width; VCMP writes k1 with one bit per
lane, the bits above the lanes 0, and gives no result. Where the spec leaves a point open it states the choice of
the model (log entries 12, 13, 98). -/
def Obligations.VectorUnaryResults : Prop :=
  ∀ (e : Fields) (s : State),
    s.givesLanes (.vrcp e) (fun o v _ n => approxC o.t 0 (laneAt (v.y.v (laneBytes o.t)) (laneBytes o.t) n))
    ∧ s.givesLanes (.vrsq e) (fun o v _ n => approxC o.t 1 (laneAt (v.y.v (laneBytes o.t)) (laneBytes o.t) n))
    ∧ s.givesLanes (.vexp2 e) (fun o v _ n => approxC o.t 2 (laneAt (v.y.v (laneBytes o.t)) (laneBytes o.t) n))
    ∧ s.givesLanes (.vlog2 e) (fun o v _ n => approxC o.t 3 (laneAt (v.y.v (laneBytes o.t)) (laneBytes o.t) n))
    ∧ s.givesLanes (.vabs e) (fun o v _ n =>
      let w := laneBytes o.t
      let b := laneAt (v.y.v w) w n
      (if 6 ≤ o.t then (if b < 2 ^ (8 * w - 1) then b else 2 ^ (8 * w) - b) else b % 2 ^ (8 * w - 1), FpFlags.zero))
    ∧ s.givesLanes (.vneg e) (fun o v _ n =>
      let w := laneBytes o.t
      let b := laneAt (v.y.v w) w n
      (if 6 ≤ o.t then 2 ^ (8 * w) - b else b ^^^ 2 ^ (8 * w - 1), FpFlags.zero))
    ∧ s.completes (.vcvt e) (fun o v s1 s' r jump => jump = none ∧
      (let sel := o.imm.toNat
       let t := sel % 8
       let n := min (64 / laneBytes t) (64 / laneBytes o.t)
       let src := v.y.v (laneBytes t)
       let old := if isVecName o.x then s1.cx.vreg (o.x - 32) else 0
       let lane (k : Nat) : Nat × Bool × Nat :=
         if 64 / laneBytes t > 64 / laneBytes o.t then
           (laneAt src (laneBytes t) (sel / 32 % 4 * n + k), sel / 16 % 2 == 0 || (s1.cx.kreg 1).getLsbD k,
            laneAt old (laneBytes o.t) k)
         else if sel / 32 % 4 * n ≤ k ∧ k < sel / 32 % 4 * n + n then
           (laneAt src (laneBytes t) (k - sel / 32 % 4 * n), sel / 16 % 2 == 0 || (s1.cx.kreg 1).getLsbD k,
            laneAt old (laneBytes o.t) k)
         else (0, false, laneAt old (laneBytes o.t) k)
       let q := convertLanes o t (sel / 8 % 2 == 1) s1.cx.gen ((upTo (64 / laneBytes o.t)).map lane)
       s' = (if o.s then s1.modCx (fun x => { x with gen := q.2 }) else s1).raise
           (q.1.foldl (fun a x => a.or x.2) FpFlags.zero)
         ∧ r = some (.v (ofLanes (laneBytes o.t) (q.1.map (fun x => x.1))))))
    ∧ s.completes (.vcmp e) (fun o v s1 s' r jump => r = none ∧ jump = none ∧ ∃ k : Word,
      (let w := laneBytes o.t
       let c (n : Nat) := cmpLane o.t (o.imm.toNat % 8) (o.imm.getLsbD 3) (laneAt (v.x.v w) w n) (laneAt (v.y.v w) w n)
       (∀ n, k.getLsbD n = (decide (n < 64 / w) && (c n).1))
         ∧ s' = (s1.raise ((upTo (64 / w)).foldl (fun a n => a.or (c n).2) FpFlags.zero)).modCx
             (fun x => { x with k := mset x.k 1 k })))

/-- Vector integers give the results of R200. With w bits in a lane: VIADD and VISUB add or subtract the lanes as signed
numbers modulo 2^w, or saturate with S; VIMUL keeps the low w bits of the product; VAND, VOR, VXOR are bitwise; VSHL
and VSHR shift by Y's lane modulo w, zeros in. No lane sets a flag. -/
def Obligations.VectorIntegerResults : Prop :=
  ∀ (e : Fields) (s : State),
    let sum (o : Opnds) (x : Int) : Nat × FpFlags :=
      let n := 8 * laneBytes o.t
      (if o.s then ((max (-(2 ^ (n - 1))) (min (2 ^ (n - 1) - 1) x)) % 2 ^ n).toNat else (x % 2 ^ n).toNat, FpFlags.zero)
    let x (o : Opnds) (v : Vals) (n : Nat) : Nat := laneAt (v.x.v (laneBytes o.t)) (laneBytes o.t) n
    let y (o : Opnds) (v : Vals) (n : Nat) : Nat := laneAt (v.y.v (laneBytes o.t)) (laneBytes o.t) n
    let sg (o : Opnds) (a : Nat) : Int :=
      let n := 8 * laneBytes o.t
      if a < 2 ^ (n - 1) then a else (a : Int) - 2 ^ n
    s.givesLanes (.viadd e) (fun o v _ n => sum o (sg o (x o v n) + sg o (y o v n)))
    ∧ s.givesLanes (.visub e) (fun o v _ n => sum o (sg o (x o v n) - sg o (y o v n)))
    ∧ s.givesLanes (.vimul e) (fun o v _ n => (x o v n * y o v n, FpFlags.zero))
    ∧ s.givesLanes (.vand e) (fun o v _ n => (x o v n &&& y o v n, FpFlags.zero))
    ∧ s.givesLanes (.vor e) (fun o v _ n => (x o v n ||| y o v n, FpFlags.zero))
    ∧ s.givesLanes (.vxor e) (fun o v _ n => (x o v n ^^^ y o v n, FpFlags.zero))
    ∧ s.givesLanes (.vshl e) (fun o v _ n => (x o v n * 2 ^ (y o v n % (8 * laneBytes o.t)), FpFlags.zero))
    ∧ s.givesLanes (.vshr e) (fun o v _ n => (x o v n / 2 ^ (y o v n % (8 * laneBytes o.t)), FpFlags.zero))

/-- Vector data movement and reduction (R201 to R203). VBCST fills every lane with lane imm of X; VPERM takes for each
lane the lane of X that the lane of Y names, 0 past the last; VEXTR gives lane imm of Y as a scalar; VINS replaces
lane imm of X by the low bytes of Y; VPACK and VUNPK move lanes as R201 says; VRED and VDOT combine the lanes by the
tree of R202 into a scalar with flags. Where the spec leaves a point open it states the choice of the model (log
entry 86). -/
def Obligations.VectorMoveResults : Prop :=
  ∀ (e : Fields) (s : State),
    s.completes (.vbcst e) (fun o v s1 s' r jump => s' = s1 ∧ jump = none ∧ ∃ x : VWord, r = some (.v x) ∧
      (let w := laneBytes o.t
       ∀ n, n < 64 / w → laneAt x w n = laneAt (v.x.v w) w o.imm.toNat))
    ∧ s.completes (.vperm e) (fun o v s1 s' r jump => s' = s1 ∧ jump = none ∧ ∃ x : VWord, r = some (.v x) ∧
      (let w := laneBytes o.t
       ∀ n, n < 64 / w → laneAt x w n =
         if laneAt (v.y.v w) w n < 64 / w then laneAt (v.x.v w) w (laneAt (v.y.v w) w n) else 0))
    ∧ s.gives (.vextr e) (fun o v _ => BitVec.ofNat 64 (laneAt (v.y.v (laneBytes o.t)) (laneBytes o.t) o.imm.toNat))
    ∧ s.completes (.vins e) (fun o v s1 s' r jump => s' = s1 ∧ jump = none ∧ ∃ x : VWord, r = some (.v x) ∧
      (let w := laneBytes o.t
       ∀ n, n < 64 / w → laneAt x w n =
         if n = o.imm.toNat then v.y.s.toNat % 2 ^ (8 * w) else laneAt (v.x.v w) w n))
    ∧ s.completes (.vpack e) (fun o v s1 s' r jump => s' = s1 ∧ jump = none ∧ ∃ x : VWord, r = some (.v x) ∧
      (let w := laneBytes o.t
       let h := 64 / w / 2
       ∀ n, n < 64 / w → laneAt x w n =
         if n < h then laneAt (v.x.v w) w (2 * n + o.imm.toNat % 2)
         else laneAt (v.y.v w) w (2 * (n - h) + o.imm.toNat % 2)))
    ∧ s.completes (.vunpk e) (fun o v s1 s' r jump => s' = s1 ∧ jump = none ∧ ∃ x : VWord, r = some (.v x) ∧
      (let w := laneBytes o.t
       let h := o.imm.toNat % 2 * (64 / w / 2)
       ∀ j, j < 64 / w / 2 →
         laneAt x w (2 * j) = laneAt (v.x.v w) w (h + j) ∧ laneAt x w (2 * j + 1) = laneAt (v.y.v w) w (h + j)))
    ∧ s.completes (.vred e) (fun o v s1 s' r jump => jump = none ∧
      (let w := laneBytes o.t
       let op := o.imm.toNat % 4
       let ls := (upTo (64 / w)).map (fun k =>
         if !o.imm.getLsbD 2 || (s1.cx.kreg 1).getLsbD k then some (laneAt (v.y.v w) w k) else none)
       if 6 ≤ o.t then s' = s1 ∧ r = some (.s (redInt o.t op ls))
       else
         let q := treeOf (combineFloat (fmtOf o.t) o.rm op) 7 ls
         s' = s1.raise (if q.1.isSome then q.2 else FpFlags.zero) ∧ r = some (.s (BitVec.ofNat 64 (match q.1 with
           | some x => if (fmtOf o.t).value (x % 2 ^ (8 * w)) = .nan then (fmtOf o.t).nan else x % 2 ^ (8 * w)
           | none => if op = 0 then 0 else (fmtOf o.t).code (op == 2) (fmtOf o.t).infCode)))))
    ∧ s.completes (.vdot e) (fun o v s1 s' r jump => jump = none ∧
      (let w := laneBytes o.t
       let x (k : Nat) := laneAt (v.x.v w) w k
       let y (k : Nat) := laneAt (v.y.v w) w k
       if o.t = 7 then
         s' = s1 ∧ r = some (.s (BitVec.ofInt 64
           ((upTo 64).foldl (fun a k => a + (BitVec.ofNat 8 (x k)).toInt * (BitVec.ofNat 8 (y k)).toInt) 0)))
       else
         let g := if o.t = 1 then fp64 else fp32
         let ps := (upTo (64 / w)).map (fun k => FVal.mul ((fmtOf o.t).value (x k)) ((fmtOf o.t).value (y k)))
         let q := treeOf (dotAdd g o.rm) 7 (ps.map (fun p => some p.1))
         s' = s1.raise ((ps.foldl (fun a p => a.or p.2) FpFlags.zero).or q.2) ∧
           r = some (.s (BitVec.ofNat 64 (match q.1 with
             | some z => (g.ofVal o.rm false z).1
             | none => 0)))))

/-- Quantisers, the generator and the masks (R204 to R207). While none of the further registers they read is on its way,
VMXQ and VNQQ complete with the block's codes in the low bits and its scale at bit 256, with the block's flags, VMXQ
with S after one draw; VSRS sets the generator to X, 0 standing for 0x9E3779B97F4A7C15; KMOV reads kn as a result or
writes it without one. Where the spec leaves a point open it states the choice of the model (log entry 77). -/
def Obligations.QuantiserMaskResults : Prop :=
  ∀ (e : Fields) (s : State),
    s.completes (.vmxq e) (fun o v s1 s' r jump => jump = none ∧ (o.t = 0 → s1.busy (o.x + 1) = false) ∧
      (let w := laneBytes o.t
       let f := if o.imm.toNat % 4 = 0 then e4m3 else if o.imm.toNat % 4 = 1 then e5m2 else e2m1
       let xs := lanes v.x.bits w ++ (if o.t = 0 then lanes (s1.cx.vreg (o.x + 1 - 32)) 4 else [])
       let q := mxBlock f o.rm o.s s1.cx.gen (xs.map (fmtOf o.t).value)
       let bits := if f.ends = .e2m1 then 4 else 8
       s' = (if o.s then s1.modCx (fun x => { x with gen := q.2.2.2 }) else s1).raise q.2.2.1
         ∧ r = some (.v (BitVec.ofNat 512 (q.1.foldr (fun c a => c + 2 ^ bits * a) 0 + q.2.1 * 2 ^ 256)))))
    ∧ s.completes (.vnqq e) (fun o v s1 s' r jump => jump = none ∧
      (s1.busy (o.x + 1) || s1.busy (o.x + 2) || s1.busy (o.x + 3)) = false ∧
      (let xs := lanes v.x.bits 4 ++ lanes (s1.cx.vreg (o.x + 1 - 32)) 4 ++ lanes (s1.cx.vreg (o.x + 2 - 32)) 4
         ++ lanes (s1.cx.vreg (o.x + 3 - 32)) 4
       let q := nq4Block (v.y.s.toNat % 2 ^ 32) (xs.map fp32.value)
       s' = s1.raise q.2.2
         ∧ r = some (.v (BitVec.ofNat 512 (q.1.foldr (fun c a => c + 16 * a) 0 + q.2.1 * 2 ^ 256)))))
    ∧ s.does (.vsrs e) (fun _ v s1 =>
      s1.modCx (fun x => { x with gen := if v.x.s.toNat = 0 then 0x9E3779B97F4A7C15#64 else v.x.s }))
    ∧ s.completes (.kmov e) (fun o v s1 s' r jump => jump = none ∧
      if o.y / 4 % 2 = 1 then r = none ∧ s' = s1.modCx (fun x => { x with k := mset x.k (o.y % 4) v.x.s })
      else s' = s1 ∧ r = some (.s (if o.y % 4 = 0 then BitVec.allOnes 64 else mget 0 s1.cx.k (o.y % 4))))

/-- Branches jump when their condition holds (R270); calls give the return address and jump (R271). Each conditional
branch, with its operands read, goes to PC + 2 * imm if the relation of R270 holds and to the next instruction
otherwise; BR always jumps; BBS and BBC test the bit of X that YH:Y names. No register and no flag changes. JAL
completes with the address of the next sequential instruction as its result and continues at PC + 2 * imm; JALR
likewise at Y + imm, and RET at Y without a result, when bit 0 of that address is clear. -/
def Obligations.BranchResults : Prop :=
  (∀ (e : Fields) (h : BitVec 3) (s : State),
     let dest (o : Opnds) (b : Bool) : Option Word := if b then some (s.cx.pc + 2 * o.imm) else none
     s.jumps (.beq e) (fun o v _ => dest o (decide (v.x.s.toNat = v.y.s.toNat)))
     ∧ s.jumps (.bne e) (fun o v _ => dest o (decide (v.x.s.toNat ≠ v.y.s.toNat)))
     ∧ s.jumps (.blt e) (fun o v _ => dest o (decide (v.x.s.toInt < v.y.s.toInt)))
     ∧ s.jumps (.bge e) (fun o v _ => dest o (decide (v.y.s.toInt ≤ v.x.s.toInt)))
     ∧ s.jumps (.bltu e) (fun o v _ => dest o (decide (v.x.s.toNat < v.y.s.toNat)))
     ∧ s.jumps (.bgeu e) (fun o v _ => dest o (decide (v.y.s.toNat ≤ v.x.s.toNat)))
     ∧ s.jumps (.bbs e) (fun o v _ => dest o (v.x.s.toNat / 2 ^ (o.yh * 16 + e.y.toNat) % 2 == 1))
     ∧ s.jumps (.bbc e) (fun o v _ => dest o (v.x.s.toNat / 2 ^ (o.yh * 16 + e.y.toNat) % 2 == 0))
     ∧ s.jumps (.br e h) (fun o _ _ => dest o true)
     ∧ s.jumps (.bz e h) (fun o v _ => dest o (decide (v.x.s.toNat = 0)))
     ∧ s.jumps (.bnz e h) (fun o v _ => dest o (decide (v.x.s.toNat ≠ 0))))
  ∧ (∀ (e : Fields) (s : State),
     s.completes (.jal e) (fun o _ s1 s' r jump => s' = s1 ∧ jump = some (s.cx.pc + 2 * o.imm)
       ∧ r = some (.s (s.cx.pc + BitVec.ofNat 64 (2 * e.parcels))))
     ∧ s.completes (.jalr e) (fun o v s1 s' r jump => s' = s1 ∧ (v.y.s + o.imm).toNat % 2 = 0
       ∧ jump = some (v.y.s + o.imm) ∧ r = some (.s (s.cx.pc + BitVec.ofNat 64 (2 * e.parcels))))
     ∧ s.completes (.ret e) (fun _ v s1 s' r jump => s' = s1 ∧ v.y.s.toNat % 2 = 0 ∧ jump = some v.y.s ∧ r = none))

/-- LOOP, LOOPI and LBRK set the loop registers (R272, R158); REP arms the repetition of the next instruction (R159,
R273). LOOP n with a count from X, and LOOPI n with its own count, set LSn to the address after the instruction, LEn
to PC + 2 * imm and LCn to the count; a count of 0 sets LCn to 0 and continues at PC + 2 * imm; LBRK n sets LCn to 0
and continues at LEn. When the instruction after REP decodes for the context and may be repeated with the marks of
Y, REP completes with the REP state holding its parcels, the count X + 1, and the marks SX, SY, SZ and SO from bits
3 to 0 of Y, or unchanged where a hardware loop takes the PC back at REP's own end (the model's choice, log entry
28); nothing else changes but what the fetch of the parcels leaves. A reissue of a repeated ADD takes the operands
that its stagger marks give, writes the register named so, and counts; the PC stays until the last reissue and then
moves past the repeated instruction. -/
def Obligations.LoopResults : Prop :=
  (∀ (e : Fields) (s : State),
     let start (o : Opnds) (n : Nat) (c : Word) (s1 s' : State) (r : Option Res) (jump : Option Word) : Prop :=
       r = none ∧
       if c = 0 then jump = some (s.cx.pc + 2 * o.imm) ∧ s' = s1.modCx (fun x => { x with lc := mset x.lc n 0 })
       else jump = none ∧ s' = s1.modCx (fun x =>
         { x with ls := mset x.ls n (s.cx.pc + BitVec.ofNat 64 (2 * e.parcels)), le := mset x.le n (s.cx.pc + 2 * o.imm), lc := mset x.lc n c })
     s.completes (.loop e) (fun o v s1 s' r jump => start o (e.y.toNat % 4) v.x.s s1 s' r jump)
     ∧ s.completes (.loopi e) (fun o _ s1 s' r jump =>
       start o (e.y.toNat % 4) (BitVec.ofNat 64 (e.y.toNat / 4 * 16 + e.x.toNat + 1)) s1 s' r jump)
     ∧ s.completes (.lbrk e) (fun _ _ s1 s' r jump => r = none ∧ jump = some (mget 0 s1.cx.le (e.y.toNat % 4))
       ∧ s' = s1.modCx (fun x => { x with lc := mset x.lc (e.y.toNat % 4) 0 })))
  ∧ ((∀ (e : Fields) (s : State),
     s.completes (.rep e) (fun o _ s1 s' r jump => r = none ∧ jump = none ∧ ∃ ps s2 i n c row,
       s1.repParcels o.len = .ok (ps, s2) ∧ decodeFor (some s2.who) ps = .ok i n ∧ i.code = some c
       ∧ rowAt c.p1 c.maj c.min = some row ∧ s2.cur = s1.cur ∧ s2.ctx = s1.ctx ∧ s2.late = s1.late
       ∧ repLegal c row.shape (e.x.toNat + 1) (e.y.getLsbD 3) (e.y.getLsbD 2) (e.y.getLsbD 1) (e.y.getLsbD 0) = true
       ∧ (let nx := s2.cx.pc + BitVec.ofNat 64 o.len
          s' = if (s2.cx.goesTo nx none).1 ≠ nx then s2 else s2.modCx (fun x => { x with rep :=
            { parcels := ps.take n, count := e.x.toNat + 1, next := 0, sx := e.y.getLsbD 3, sy := e.y.getLsbD 2,
              sz := e.y.getLsbD 1, so := e.y.getLsbD 0 } }))))
     ∧ (∀ (s : State) (f : Fields) (n : Nat) (c : Code) (sh : Shape) (v : Vals) (s1 : State),
       s.cx.rep.parcels ≠ [] → decodeFor (some s.who) s.cx.rep.parcels = .ok (.add f) n → formOf (.add f) = some (c, sh) →
       f.reg = none → s.late = false →
       (let r := s.cx.rep
        let o := stagger r (sh.opnds c.min c.e) r.next
        s.behind c sh o = false → s.readAll sh c.e o s.cx.win = .ok (v, s1) → 1 ≤ o.x → o.x < 32 →
        ∃ t, Sys2Proof.Machine.exec .repReissue s = .next t ∧ t.cx.sreg o.x = v.x.s + v.y.s
          ∧ (∀ m, m ≠ o.x → t.cx.sreg m = s.cx.sreg m)
          ∧ (r.next + 1 < r.count → t.cx.rep = { r with next := r.next + 1 } ∧ t.cx.pc = s.cx.pc)
          ∧ (r.count ≤ r.next + 1 → t.cx.rep = Rep.none
            ∧ (t.cx.pc, t.cx.lc) = s.cx.goesTo (s.cx.pc + BitVec.ofNat 64 (2 * n)) none))))

/-- A NOP at the end of a hardware loop goes back while the count lasts (R158). A NOP that has completed, at whose
sequential next PC the loop registers are looked at, with n the first of 0 to 3 whose LEn equals it and whose LCn is
not 0: if LCn > 1 the count falls by one and the PC becomes LSn; if LCn = 1 it becomes 0 and the PC falls through;
with no such n the PC falls through and no count changes. Of other instructions, which go through the same function
of the context, the statements of their results say so. -/
def Obligations.LoopBack : Prop :=
  ∀ (e : Fields) (s t : State) (v : Vals) (s1 : State) (next : Word), s.starts (.nop e) = some (v, s1) →
    next = s.cx.pc + BitVec.ofNat 64 (2 * e.parcels) → Sys2Proof.Machine.exec (.nop e) s = .next t →
    let hit (n : Nat) : Prop := mget 0 s.cx.le n = next ∧ mget 0 s.cx.lc n ≠ 0
    (∀ n, n < 4 → hit n → (∀ m, m < n → ¬ hit m) →
      (∀ m, m ≠ n → mget 0 t.cx.lc m = mget 0 s.cx.lc m)
      ∧ (mget 0 s.cx.lc n = 1 → mget 0 t.cx.lc n = 0 ∧ t.cx.pc = next)
      ∧ (mget 0 s.cx.lc n ≠ 1 → mget 0 t.cx.lc n = mget 0 s.cx.lc n - 1 ∧ t.cx.pc = mget 0 s.cx.ls n))
    ∧ ((∀ n, n < 4 → ¬ hit n) → t.cx.pc = next ∧ t.cx.lc = s.cx.lc)

/-- What an access reaches, and the order of its checks (R86, R100). An access of n bytes whose first and last byte lie
in local memory reaches local memory, one in cluster memory below the undo-log region reaches cluster memory, and
one in global addresses reaches the pieces that the checks of the tables give; one in a gap or across two spaces
raises RANGE; natural alignment is checked next and raises ALIGN; then the scope of an atomic raises SCOPE; the
undo-log region at U level is a privilege trap. Where the spec leaves a point open it states the choice of the model
(log entry 24). -/
def Obligations.PlacesOfAccess : Prop :=
  ∀ (s : State) (ea n acc scope : Nat) (al sysOk : Bool), 0 < n →
    let a := al && ea % n != 0
    let sc := scope == 4 && !sysOk
    let r := s.check ea n acc al scope sysOk
    (ea + n ≤ 0x400000 → r = if a then .error (addrFault 2 ea)
      else if !(scope == 0 || scope == 9) || sc then .error (addrFault 3 ea) else .ok (.loc ea, s))
    ∧ (0x01000000 ≤ ea ∧ ea + n ≤ 0x02C00000 → r = if a then .error (addrFault 2 ea)
      else if !(scope == 1 || scope == 9) || sc then .error (addrFault 3 ea)
      else if 0x029C0000 < ea + n ∧ s.level = 0 then .error (logTrap (max ea 0x029C0000)) else .ok (.clu ea, s))
    ∧ (0x100000000 ≤ ea ∧ ea + n ≤ 0x200000000000000 → r = if a then .error (addrFault 2 ea)
      else if !(scope == 2 || scope == 3 || scope == 4 || scope == 9) || sc then .error (addrFault 3 ea)
      else match s.gcheck (s.coreAgent s.cur) ea n acc scope with
        | .error e => .error (gstop acc s.me.cid s.cur e)
        | .ok (ps, t) => .ok (.glob ps, t))
    ∧ ((spaceAt ea = none ∨ spaceAt ea = some .win ∨ spaceAt (ea + n - 1) ≠ spaceAt ea) → r = .error (addrFault 1 ea))

/-- Loads give the bytes at Y + Imm (R98 to R103, R107, R109). When the checks of R100 pass for the n bytes at Src(Y) +
Imm, no error mark stands and no access of the core is in flight, each scalar load completes with the little-endian
bytes there, extended as its name says, LDA after natural alignment; VLD with the 64 bytes; VLDS with one element in
every lane. Where the spec leaves a point open it states the choice of the model (log entry 10). -/
def Obligations.LoadResults : Prop :=
  ∀ (e : Fields) (s : State),
    let load (n : Nat) (al : Bool) (f : Opnds → Nat → Res) (o : Opnds) (v : Vals) (s1 s' : State) (r : Option Res)
        (jump : Option Word) : Prop :=
      jump = none ∧ s1.me.flight = none ∧ ∃ pl sc, s1.check (v.y.s + o.imm).toNat n 0 al 9 true = .ok (pl, sc) ∧ sc.errs = []
        ∧ Same s1 sc ∧ s' = sc.serveBanks pl n ∧ r = some (f o (sc.readAt pl n))
    s.completes (.ldB e) (load 1 false (fun _ x => .s ((BitVec.ofNat 8 x).signExtend 64)))
    ∧ s.completes (.ldBu e) (load 1 false (fun _ x => .s (BitVec.ofNat 64 x)))
    ∧ s.completes (.ldH e) (load 2 false (fun _ x => .s ((BitVec.ofNat 16 x).signExtend 64)))
    ∧ s.completes (.ldHu e) (load 2 false (fun _ x => .s (BitVec.ofNat 64 x)))
    ∧ s.completes (.ldW e) (load 4 false (fun _ x => .s ((BitVec.ofNat 32 x).signExtend 64)))
    ∧ s.completes (.ldWu e) (load 4 false (fun _ x => .s (BitVec.ofNat 64 x)))
    ∧ s.completes (.ldD e) (load 8 false (fun _ x => .s (BitVec.ofNat 64 x)))
    ∧ s.completes (.lda e) (load 8 true (fun _ x => .s (BitVec.ofNat 64 x)))
    ∧ s.completes (.vld e) (load 64 false (fun _ x => .v (BitVec.ofNat 512 x)))
    ∧ s.completes (.vlds e) (fun o => load (laneBytes o.t) false (fun o x =>
        .v (ofLanes (laneBytes o.t) (List.replicate (64 / laneBytes o.t) x))) o)

/-- Stores write the bytes at Y + Imm (R105, R106, R108). When the checks of R100 pass for the n bytes at Src(Y) + Imm
of a core without a twin, and no error mark stands, each store completes with no result and the low n bytes of
Src(X) at that place; STL after natural alignment; VST writes 64 bytes, a scalar eight times. Where the spec leaves
a point open it states the choice of the model (log entry 10). -/
def Obligations.StoreResults : Prop :=
  ∀ (e : Fields) (s : State),
    let store (n : Nat) (al : Bool) (f : Vals → Nat) (o : Opnds) (v : Vals) (s1 s' : State) (r : Option Res)
        (jump : Option Word) : Prop :=
      r = none ∧ jump = none ∧ ∃ pl sc, s1.check (v.y.s + o.imm).toNat n 1 al 9 true = .ok (pl, sc) ∧ sc.errs = []
        ∧ Same s1 sc ∧ sc.me.twin = none ∧ s' = (sc.writeAt pl n (f v)).serveBanks pl n
    s.completes (.stB e) (store 1 false (fun v => v.x.s.toNat))
    ∧ s.completes (.stH e) (store 2 false (fun v => v.x.s.toNat))
    ∧ s.completes (.stW e) (store 4 false (fun v => v.x.s.toNat))
    ∧ s.completes (.stD e) (store 8 false (fun v => v.x.s.toNat))
    ∧ s.completes (.stl e) (store 8 true (fun v => v.x.s.toNat))
    ∧ s.completes (.vst e) (store 64 false (fun v =>
      if v.x.vec then v.x.bits.toNat else (ofLanes 8 (List.replicate 8 v.x.s.toNat)).toNat))

/-- A store changes the bytes it stores to and no other. When a scalar store to local memory or to cluster memory
outside the undo-log region completes, every byte of every core's local memory, of every cluster's memory and of
main memory reads as before, except the n bytes at Src(Y) + Imm, which read as the low n bytes of Src(X) as soon as
the store has completed (what is said of cluster memory is said of its backing store, not of the undo-log view of
R94); the window and every register stay. Where the spec leaves a point open it states the choice of the model (log
entry 10). -/
def Obligations.StoreFrame : Prop :=
  ∀ (e : Fields) (s s1 t : State) (v : Vals) (i : Instr) (n ea : Nat),
    ((i, n) = (.stB e, 1) ∨ (i, n) = (.stH e, 2) ∨ (i, n) = (.stW e, 4) ∨ (i, n) = (.stD e, 8)) →
    s.starts i = some (v, s1) → ea = (v.y.s + i.opnds.imm).toNat → s1.errs = [] → s1.me.twin = none →
    memWf s1.me.mem = true → memWf (s1.cluster s1.myCl).mem = true →
    (spaceOf ea n = some .loc ∨ spaceOf ea n = some .clu ∧ ea + n ≤ 0x029C0000) →
    Sys2Proof.Machine.exec i s = .next t →
    (∀ p a, bget (t.core p).mem a = if spaceOf ea n = some .loc ∧ p = s.cur ∧ ea ≤ a ∧ a < ea + n
      then BitVec.ofNat 8 (v.x.s.toNat / 256 ^ (a - ea)) else bget (s.core p).mem a)
    ∧ (∀ cl a, bget (t.cluster cl).mem a = if spaceOf ea n = some .clu ∧ cl = clusterOf s.cur ∧ ea ≤ a ∧ a < ea + n
      then BitVec.ofNat 8 (v.x.s.toNat / 256 ^ (a - ea)) else bget (s.cluster cl).mem a)
    ∧ t.phys = s.phys ∧ t.cx.win = s.cx.win ∧ (∀ m, t.cx.sreg m = s.cx.sreg m ∧ t.cx.vreg m = s.cx.vreg m ∧ t.cx.kreg m = s.cx.kreg m)
    ∧ t.cx.tsw = s.cx.tsw

/-- Atomics read, combine and write one operand (R112 to R114). When the checks of R100 pass for the naturally aligned
operand at Src(Y) + Imm in the scope T, on a core without a twin and with no error mark, each AMO completes with the
old value as its result and the combined value in its place (CAS writes X only where the old value equals Src(Z));
each RED does the same without a result. Where the spec leaves a point open it states the choice of the model (log
entry 10). -/
def Obligations.AtomicResults : Prop :=
  ∀ (e : Fields) (s : State),
    let amo (n : Nat) (red sysOk : Bool) (f : Opnds → Vals → Word → Nat) (o : Opnds) (v : Vals) (s1 s' : State)
        (r : Option Res) (jump : Option Word) : Prop :=
      jump = none ∧ ∃ pl sc, s1.check (v.y.s + o.imm).toNat n 2 true o.t sysOk = .ok (pl, sc) ∧ sc.errs = [] ∧ Same s1 sc
        ∧ sc.me.twin = none
        ∧ s' = (sc.writeAt pl n (f o v (BitVec.ofNat 64 (sc.readAt pl n)))).serveAtomic pl
        ∧ r = if red then none else some (.s (BitVec.ofNat 64 (sc.readAt pl n)))
    let add (_ : Opnds) (v : Vals) (old : Word) : Nat := (old + v.x.s).toNat
    let mn (_ : Opnds) (v : Vals) (old : Word) : Nat := if v.x.s.toInt < old.toInt then v.x.s.toNat else old.toNat
    let mx (_ : Opnds) (v : Vals) (old : Word) : Nat := if old.toInt < v.x.s.toInt then v.x.s.toNat else old.toNat
    let fadd (o : Opnds) (v : Vals) (old : Word) : Nat :=
      (BitVec.ofNat 64 (fp32.addC o.rm (old.toNat % 2 ^ 32) (v.x.s.toNat % 2 ^ 32)).1).toNat
    s.completes (.amoAdd e) (amo 8 false true add)
    ∧ s.completes (.amoAnd e) (amo 8 false false (fun _ v old => (old &&& v.x.s).toNat))
    ∧ s.completes (.amoOr e) (amo 8 false false (fun _ v old => (old ||| v.x.s).toNat))
    ∧ s.completes (.amoXor e) (amo 8 false false (fun _ v old => (old ^^^ v.x.s).toNat))
    ∧ s.completes (.amoMin e) (amo 8 false false mn)
    ∧ s.completes (.amoMax e) (amo 8 false false mx)
    ∧ s.completes (.amoSwp e) (amo 8 false true (fun _ v _ => v.x.s.toNat))
    ∧ s.completes (.amoCas e) (amo 8 false true (fun _ v old => if old = v.z.s then v.x.s.toNat else old.toNat))
    ∧ s.completes (.amoMinu e) (amo 8 false false (fun _ v old => min old.toNat v.x.s.toNat))
    ∧ s.completes (.amoMaxu e) (amo 8 false false (fun _ v old => max old.toNat v.x.s.toNat))
    ∧ s.completes (.amoFadd e) (amo 4 false false fadd)
    ∧ s.completes (.redAdd e) (amo 8 true false add)
    ∧ s.completes (.redMin e) (amo 8 true false mn)
    ∧ s.completes (.redMax e) (amo 8 true false mx)
    ∧ s.completes (.redFadd e) (amo 4 true false fadd)

/-- Gathers, scatters, masked stores and windows (R104, R109 to R111). When every address passes its checks and no error
mark stands, VGTH completes with lane i read at Src(Y) + Imm plus lane i of X (signed when 32 bits wide), VSCT
writes the lanes of the next vector register there in ascending order, VSTS writes the lanes of X that k1 selects at
consecutive elements; PWLD completes with eight bytes of its window, zeros from the bound on, and sets OOB when it
reaches past the bound. Where the spec leaves a point open it states the choice of the model (log entries 10, 34). -/
def Obligations.GatherScatterResults : Prop :=
  ∀ (e : Fields) (s : State),
    let at' (o : Opnds) (v : Vals) (n k : Nat) : Nat :=
      (v.y.s + o.imm + (if n = 4 then (BitVec.ofNat 32 (laneAt (v.x.v n) n k)).signExtend 64
        else BitVec.ofNat 64 (laneAt (v.x.v n) n k))).toNat
    let width (o : Opnds) : Nat := if o.t = 1 then 8 else 4
    s.completes (.vgth e) (fun o v s1 s' r jump => jump = none ∧ ∃ pls sc,
      s1.checkAll (width o) 0 ((upTo (64 / width o)).map (at' o v (width o))) = .ok (pls, sc) ∧ sc.errs = [] ∧ Same s1 sc
      ∧ s' = pls.foldl (fun u p => u.serveBanks p.1 (width o)) sc
      ∧ r = some (.v (ofLanes (width o) (pls.map (fun p => sc.readAt p.1 (width o))))))
    ∧ s.completes (.vsct e) (fun o v s1 s' r jump => jump = none ∧ r = none ∧ s1.busy (o.x + 1) = false ∧ ∃ pls sc,
      s1.checkAll (width o) 1 ((upTo (64 / width o)).map (at' o v (width o))) = .ok (pls, sc) ∧ Same s1 s'
      ∧ sc.putLanes (width o) pls (lanes (sc.cx.vreg (o.x + 1 - 32)) (width o)) = .ok s')
    ∧ s.completes (.vsts e) (fun o v s1 s' r jump => jump = none ∧ r = none ∧ ∃ pls sc,
      (let w := laneBytes o.t
       let sel := (upTo (64 / w)).filter (fun k => (s1.cx.kreg 1).getLsbD k)
       s1.checkAll w 1 (sel.map (fun k => ((v.y.s + o.imm).toNat + k * w) % 2 ^ 64)) = .ok (pls, sc) ∧ Same s1 s'
       ∧ sc.putLanes w pls (sel.map (laneAt (v.x.v w) w)) = .ok s'))
    ∧ s.completes (.pwld e) (fun o v s1 s' r jump => jump = none ∧ ∃ q l base size x sc,
      (let ea := (v.y.s + o.imm).toNat
       0x04000000 ≤ ea ∧ ea + 8 ≤ 0x04800000 ∧ ea % 0x100000 ≤ 0xFFFF8 ∧ s1.launchOf s1.cur = some (q, l)
       ∧ mfind l.wins ((ea - 0x04000000) / 0x100000) = some (base, size)
       ∧ s1.windowBytes q l.cid base size 8 (ea % 0x100000) = .ok (x, sc) ∧ Same s1 sc
       ∧ (let sw := if sc.ctx = 0 then sc.modMe (fun c => { c with wmiss := none }) else sc
          s' = if size < ea % 0x100000 + 8 then sw.sticky 8 else sw) ∧ r = some (.s (BitVec.ofNat 64 x))))

/-- Copy instructions on the FIFO (R116 to R118, R84). CPQ of four readable words completes when the request may be
pushed: an ill-formed one needs mailbox room for its message alone, any other a FIFO entry and no other context
assembling; CPQT then completes with 0, and otherwise with 1 and without an effect; CPCAN removes every request of
the FIFO with the TAG of Y, posts one CANCELLED message for each and gives their number; CPST gives the state of the
FIFO and of the slots; FENCE completes once the core has no posted request, and does nothing else. Where the spec
leaves a point open it states the choice of the model (log entries 10, 80). -/
def Obligations.CopyQueueResults : Prop :=
  ∀ (e : Fields) (s : State),
    let four (u : State) (pl : Place) : List Word := recordOf (BitVec.ofNat 512 (u.readAt pl 32))
    let would (u : State) (w : List Word) : Bool :=
      if copyIllFormed (w.getD 0 0) (w.getD 3 0) then !u.me.room 16
      else otherAsm u.me.asmC u.ctx || decide (8 ≤ u.me.fifo.length)
    s.completes (.cpq e) (fun o v s1 s' r jump => r = none ∧ jump = none ∧ ∃ pl sc w u,
      s1.nearPlace (v.y.s + o.imm).toNat 32 = .ok (pl, sc) ∧ would sc (four sc pl) = false
      ∧ sc.recordAt pl = .ok (w, u) ∧ u.pushCopy u.cur u.level w false = .ok s' ∧ Same s1 s')
    ∧ s.completes (.cpqt e) (fun o v s1 s' r jump => jump = none ∧ ∃ pl sc,
      s1.nearPlace (v.y.s + o.imm).toNat 32 = .ok (pl, sc) ∧
      (would sc (four sc pl) = true ∧ s' = s1 ∧ r = some (.s 1)
       ∨ would sc (four sc pl) = false ∧ r = some (.s 0) ∧ ∃ w u, sc.recordAt pl = .ok (w, u)
         ∧ u.pushCopy u.cur u.level w false = .ok s' ∧ Same s1 s'))
    ∧ s.completes (.cpcan e) (fun _ v s1 s' r jump => jump = none ∧
      (let hit (q : CopyReq) : Bool := q.w0.toNat % 2 ^ 32 == v.y.s.toNat % 2 ^ 32
       let gone := s1.me.fifo.filter hit
       (gone ≠ [] → roomFor s1.me gone.length = true)
       ∧ s' = (if gone = [] then s1 else s1.modMe (fun c =>
         { c with fifo := c.fifo.filter (fun q => !hit q), mbox := c.mbox ++ gone.map (fun q => copyMsg 6 q.w0 0) }))
       ∧ r = some (.s (BitVec.ofNat 64 gone.length))))
    ∧ s.gives (.cpst e) (fun _ _ s1 => BitVec.ofNat 64 (s1.me.fifo.length
      + 2 ^ 8 * ((s1.cluster s1.myCl).slots.filter (fun z => z.cidx == cidxOf s1.cur)).length
      + 2 ^ 14 * (if s1.me.asmC.isSome then 1 else 0) + 2 ^ 15 * (s1.cx.tsw.toNat / 2 ^ 9 % 2)))
    ∧ s.does (.fence e) (fun _ _ s1 => s1)

/-- Messages and the mailbox (R119 to R124). MWAIT completes with the number of entries while the mailbox holds one;
MBPEEK with the descriptor of its head, 0 when it is empty; MBSEND of a core without a twin, with a well-formed
descriptor, a granted destination, a payload in local or cluster memory, fewer than eight messages unsettled, room
reserved, and a payload that can then be read, completes with one message on its way to the destination, the room
reserved and the message counted. Where the spec leaves a point open it states the choice of the model (log entry
48). -/
def Obligations.MessageResults : Prop :=
  ∀ (e : Fields) (s : State),
    s.completes (.mwait e) (fun _ _ s1 s' r jump => s' = s1 ∧ jump = none ∧ s1.me.mbox ≠ []
      ∧ r = some (.s (BitVec.ofNat 64 s1.me.mbox.length)))
    ∧ s.gives (.mbpeek e) (fun _ _ s1 => match s1.me.mbox with
      | [] => 0
      | m :: l => BitVec.ofNat 64 (m.src.toNat + m.len * 2 ^ 32 + m.next * 2 ^ 40 + (l.length + 1) * 2 ^ 48 + m.cls * 2 ^ 56
          + m.status * 2 ^ 59 + 2 ^ 63))
    ∧ s.completes (.mbsend e) (fun _ v s1 s' r jump => r = none ∧ jump = none ∧ s1.me.twin = none ∧
      (let w := v.y.s.toNat
       let n := w / 2 ^ 32 % 2 ^ 8
       w / 2 ^ 40 = 0 ∧ n ≤ 64 ∧ ∃ k p pl sp body sc, s1.endpoint s1.myPart (w % 2 ^ 32) = some (k, p)
       ∧ s1.payloadPlace v.x.s.toNat n = .ok (pl, sp) ∧ sp.me.sent < 8 ∧ sp.me.room n = true
       ∧ sp.payload pl n = .ok (body, sc) ∧ Same s1 sc ∧ sc.me.twin = none
       ∧ s' = (let m : Msg :=
             { src := sc.cur, ctx := sc.ctx, kind := if k = 1 then 1 else 0, dst := p, handle := BitVec.ofNat 32 (w % 2 ^ 32),
               fixed := k == 2, len := n, body := BitVec.ofNat 512 body, no := sc.me.opNo, status := 0 }
           ({ sc with msgs := sc.msgs ++ [m] }).modMe (fun c =>
             { c with resv := c.resv ++ [n], sent := c.sent + 1, opNo := c.opNo + 1 }))))

/-- Byte barriers (R83, R125). BBSET n sets target and pending of barrier n to bits 62:0 of Y and clears FAIL; BBADD
adds them to both, up to 2^63 - 1, and keeps FAIL; BBWAIT completes when nothing is pending or FAIL is set; BBRD
gives the pending word, or the target for Y from 8 on. Other barriers stay. -/
def Obligations.ByteBarrierResults : Prop :=
  ∀ (e : Fields) (s : State),
    s.does (.bbset e) (fun _ v s1 =>
      let x := BitVec.ofNat 64 (v.y.s.toNat % 2 ^ 63)
      s1.modMe (fun c => { c with bb := mset c.bb e.x.toNat (x, x) }))
    ∧ s.does (.bbadd e) (fun _ v s1 => s1.modMe (fun c =>
      let b := mget (0, 0) c.bb e.x.toNat
      let x := v.y.s.toNat % 2 ^ 63
      let tgt := BitVec.ofNat 64 (min (b.1.toNat + x) (2 ^ 63 - 1))
      let pend := BitVec.ofNat 64 (min (b.2.toNat % 2 ^ 63 + x) (2 ^ 63 - 1) + b.2.toNat / 2 ^ 63 * 2 ^ 63)
      { c with bb := mset c.bb e.x.toNat (tgt, pend) }))
    ∧ s.completes (.bbwait e) (fun _ _ s1 s' r jump => s' = s1 ∧ r = none ∧ jump = none ∧
      ((mget (0, 0) s1.me.bb e.x.toNat).2.toNat % 2 ^ 63 = 0 ∨ (mget (0, 0) s1.me.bb e.x.toNat).2.getLsbD 63 = true))
    ∧ s.gives (.bbrd e) (fun _ _ s1 =>
      if e.y.toNat < 8 then (mget (0, 0) s1.me.bb e.y.toNat).2 else (mget (0, 0) s1.me.bb (e.y.toNat - 8)).1)

/-- Arriving at a barrier and passing it (R278 to R281). For a member of a channel that its partition owns: BARV records
an arrival of its logical core on the channel and sets ARP, BCH and BPH, or changes nothing when the context has
already arrived there; BWT completes at once when the context waits for no release of the channel, and clears ARP
when the channel has been released since; BARW and BSTEP do so after their arrival, and until then wait with the
arrival recorded. Where the spec leaves a point open it states the choice of the model (log entry 46). -/
def Obligations.BarrierArrivals : Prop :=
  ∀ (e : Fields) (s : State) (q l : Nat), s.partOf s.cur = some q → s.me.lpid = some l →
    let ch := e.x.toNat * 16 + e.y.toNat
    let key := s.myChan ch
    (s.part q).bch.getLsbD ch = true → (s.chan key).part = q → l ∈ (s.chan key).members →
    let here (x : Context) : Prop := x.tsw.getLsbD 16 = true ∧ x.tsw.toNat / 2 ^ 17 % 2 ^ 6 = ch
    let now : BitVec 8 := s.rcnt ch
    let gone (x : Context) : Prop := now.toNat ≠ x.tsw.toNat / 2 ^ 23 % 2 ^ 8
    let arrival (u : State) (step : Bool) : State :=
      (u.modChan key (fun c => { c with
        arr := c.arr ++ [{ lpid := l, step := step, core := s.cur, bound := s.me.opNo }] })).modCx (fun x =>
          { x with tsw := wput (wput (orBit x.tsw 16) 17 6 ch) 23 8 now.toNat })
    let fresh (x : Context) : Prop := x.tsw.getLsbD 16 = false ∧ ∀ a ∈ (s.chan key).arr, a.lpid ≠ l
    let clear (u : State) : State := u.modCx (fun x => { x with tsw := x.tsw &&& ~~~(1#64 <<< 16) })
    s.completes (.barv e) (fun _ _ s1 s' r jump => r = none ∧ jump = none ∧
      (here s1.cx ∧ s' = s1 ∨ fresh s1.cx ∧ s' = arrival s1 false))
    ∧ s.completes (.bwt e) (fun _ _ s1 s' r jump => r = none ∧ jump = none ∧
      (¬ here s1.cx ∧ s' = s1 ∨ here s1.cx ∧ gone s1.cx ∧ s' = clear s1))
    ∧ s.completes (.barw e) (fun _ _ s1 s' r jump => r = none ∧ jump = none ∧ here s1.cx ∧ gone s1.cx ∧ s' = clear s1)
    ∧ s.completes (.bstep e) (fun _ _ s1 s' r jump => r = none ∧ jump = none ∧ here s1.cx ∧ gone s1.cx ∧ s' = clear s1)
    ∧ (∀ v s1 i step, (i, step) = (Instr.barw e, false) ∨ (i, step) = (Instr.bstep e, true) → s.starts i = some (v, s1) →
      fresh s1.cx → ∃ t, Sys2Proof.Machine.exec i s = .next t ∧ t.cx.run = .waiting ∧ t.cx.pc = s.cx.pc
        ∧ (t.chan key).arr = (s.chan key).arr ++ [{ lpid := l, step := step, core := s.cur, bound := s.me.opNo }]
        ∧ here t.cx)

/-- TRIG, EXIT, TIME and CYC (R283 to R285). TIME gives the device's reference time and CYC the cycle count of the
core's own die; TRIG marks the group of the core as triggered, once; EXIT of a core without a live helper and
without outstanding copy, matrix or rule commands ends the group: the context stops, the mailbox and the links are
emptied, and the core runs no group. Where the spec leaves a point open it states the choice of the model (log entry
36). -/
def Obligations.GroupInstructionResults : Prop :=
  ∀ (e : Fields) (s : State),
    s.gives (.time e) (fun _ _ s1 => s1.time)
    ∧ s.gives (.cyc e) (fun _ _ s1 => if s.cur / 4096 % 2 = 0 then s1.die0.cyc else s1.die1.cyc)
    ∧ s.does (.trig e) (fun _ _ s1 => s1.trig s1.cur)
    ∧ (∀ v s1, s.starts (.exit e) = some (v, s1) → s1.me.liveHelper = false → s1.engineWork s1.cur = false →
      ∃ t, Sys2Proof.Machine.exec (.exit e) s = .next t
        ∧ t.cx.run = .stopped (if s.me.lpid = none then .noLogical else .idle) ∧ t.cx.pc = s.cx.pc ∧ t.me.group = none
        ∧ t.me.exited = true ∧ t.me.mbox = [] ∧ t.me.west = [] ∧ t.me.east = [] ∧ t.me.memb = 0 ∧ t.me.mem = s.me.mem)

/-- HSTART, HJOIN and HEND (R274, R275); what a started helper holds (R274). HSTART starts the lowest-numbered free
helper at the even address X, with Y in its s1, its number in its s2, every other register 0 and the caller's level,
and gives its number, or 0 when none is free; HJOIN gives the end word of a free helper, 0 for a number that names
none; HEND of a helper that runs no compensation routine keeps X as its end word and frees it, and leaves a partial
request of the helper as it is. A helper starts ready at its PC, with the words given in s1, s2 and s3, every other
scalar register 0, an empty window, the level given, and its end word kept. Where the spec leaves a point open it
states the choice of the model (log entry 102). -/
def Obligations.HelperResults : Prop :=
  (∀ (e : Fields) (s : State),
     s.completes (.hstart e) (fun _ v s1 s' r jump => jump = none ∧ v.x.s.getLsbD 0 = false ∧
       ((∀ h, 1 ≤ h → h ≤ 10 → (s1.me.context h).run ≠ .free) ∧ s' = s1 ∧ r = some (.s 0)
        ∨ ∃ h, 1 ≤ h ∧ h ≤ 10 ∧ (s1.me.context h).run = .free ∧ (∀ k, 1 ≤ k → k < h → (s1.me.context k).run ≠ .free)
          ∧ r = some (.s (BitVec.ofNat 64 h)) ∧ s' = s1.modMe (fun c => c.modContext h (fun x =>
            startedHelper x v.x.s v.y.s (BitVec.ofNat 64 h) 0 (s1.cx.tsw.toNat % 4)))))
     ∧ s.completes (.hjoin e) (fun _ v s1 s' r jump => jump = none ∧ s' = s1 ∧
       (let h := v.y.s.toNat % 16
        (h = 0 ∨ 10 < h) ∧ r = some (.s 0)
        ∨ 1 ≤ h ∧ h ≤ 10 ∧ (s1.me.context h).run = .free ∧ r = some (.s (s1.me.context h).endWord)))
     ∧ s.completes (.hend e) (fun _ v s1 s' r jump => r = none ∧ jump = none ∧ s1.cx.comp = none ∧
       s' = (s1.modCx (fun x => { x with endWord := v.x.s })).modMe (fun c =>
         { c with due := c.due.filter (fun d => d.ctx != s1.ctx) }.modContext s1.ctx (fun x =>
           { x with run := .free, comp := none }))))
  ∧ (∀ (x : Context) (pc a b c : Word) (lvl : Nat), lvl < 4 →
     let h := startedHelper x pc a b c lvl
     h.run = .ready ∧ h.pc = pc ∧ h.sreg 1 = a ∧ h.sreg 2 = b ∧ h.sreg 3 = c ∧ (∀ n, 4 ≤ n → h.sreg n = 0) ∧ h.sreg 0 = 0
       ∧ h.win = Window.empty ∧ lvlOf h.tsw = lvl ∧ h.endWord = x.endWord ∧ h.comp = none)

/-- FUSE, SPLIT, REJOIN, JMSK and GSTAT (R154 to R156, R276, R277). FUSE with an acceptable mask completes when every
other core that the mask names waits at a FUSE with the same mask, with no entry of its own due, and the heads that
their FUSEs name can be popped and give that mask: each of them is then fused with that mask, holds it as its origin
and in j0, and waits no longer; SPLIT leaves the core unfused; REJOIN completes at one PC once every member named
waits there with the same mask, has exited, counts as arrived since or is dead, the waiting ones then forming one
gang; JMSK reads or writes a mask; GSTAT gives CTX.GANG. Where the spec leaves a point open it states the choice of
the model (log entries 32, 33). -/
def Obligations.GangResults : Prop :=
  ∀ (e : Fields) (s : State),
    (∀ v s1 m, s.starts (.fuse e) = some (v, s1) → m = v.x.s.setWidth 8 → s1.fuseMask m = true →
      (∀ p ∈ s1.maskCores s1.myCl m, (s1.core p).dead = false) →
      (∀ p ∈ s1.maskCores s1.myCl m, p ≠ s.cur →
        (s1.core p).entryDue = false ∧ ∃ pc next, (s1.core p).meet = some (true, m, pc, next)) →
      (s1.modMe (fun c => { c with
        meet := some (true, m, s.cx.pc, s.cx.pc + BitVec.ofNat 64 (2 * e.parcels)),
        meetHead := if 52 ≤ (Instr.fuse e).opnds.x then some ((Instr.fuse e).opnds.x, (Instr.fuse e).opnds.f) else none })).meetPops
          m (s1.maskCores s1.myCl m) ≠ none →
      ∃ t, Sys2Proof.Machine.exec (.fuse e) s = .next t ∧ ∀ p ∈ s1.maskCores s1.myCl m,
        (t.core p).memb = m ∧ (t.core p).orig = m ∧ mget 0 (t.core p).ctl.j 0 = m ∧ (t.core p).meet = none
          ∧ ((t.core p).ctl.run = .ready ∨ p = s.cur))
    ∧ (∀ v s1, s.starts (.split e) = some (v, s1) →
      ∃ t, Sys2Proof.Machine.exec (.split e) s = .next t ∧ t.me.memb = 0 ∧ t.cx.pc = (s.cx.advance (s.nextPc (.split e))).pc)
    ∧ s.completes (.rejoin e) (fun _ _ s1 s' r jump => r = none ∧ jump = none ∧
      (let m := mget 0 s1.cx.j (e.x.toNat % 4) ||| (1#8 <<< s1.pos s1.cur)
       let s2 := s1.modMe (fun c =>
         { c with left := if c.meet = none then 0 else c.left,
                  meet := some (false, m, s.cx.pc, s.cx.pc + BitVec.ofNat 64 (2 * e.parcels)) })
       let named := s2.maskCores s2.myCl m
       let waits (p : Nat) : Bool := (p == s.cur || !(s2.core p).entryDue) && match (s2.core p).meet with
         | some (false, m', _, _) => m' == m
         | _ => false
       (∀ p ∈ named, waits p = true ∨ (s2.core p).exited = true ∨ (s2.core p).dead = true
           ∨ s2.me.left.getLsbD (s2.pos p) = true)
         ∧ (∀ p ∈ named, waits p = true → ∃ m' next, (s2.core p).meet = some (false, m', s.cx.pc, next))
         ∧ s' = s2.meetAll (named.filter waits)))
    ∧ s.completes (.jmsk e) (fun _ v s1 s' r jump => jump = none ∧
      (let n := e.y.toNat % 4
       if e.y.getLsbD 2 then r = none ∧ s' = s1.modCx (fun x => { x with j := mset x.j n (v.x.s.setWidth 8) })
       else s' = s1 ∧ r = some (.s ((mget 0 s1.cx.j n).setWidth 64))))
    ∧ s.gives (.gstat e) (fun _ _ s1 =>
      let c := s1.me
      let m : BitVec 8 := match c.regang with
        | some g => g.memb
        | none => c.memb
      let ps := (s1.assigned (s.cur / 16)).filter (fun p => m.getLsbD (s1.pos p))
      BitVec.ofNat 64 ((if c.lpid = none then 0 else s1.pos s.cur)
        + 2 ^ 3 * (if m = 0 ∨ ∀ p ∈ ps, s1.lp s.cur ≤ s1.lp p then 1 else 0)
        + 2 ^ 8 * (if m = 0 then 1 else ((upTo 8).filter (fun i => m.getLsbD i)).length) + 2 ^ 16 * c.orig.toNat + 2 ^ 24 * m.toNat))

/-- SRD gives the register that imm names (R286). At a level that may read it, SRD completes with the value of the
register: CTX.TSW once no vector instruction is under way, the identity, trap, die, cluster and partition registers,
the loop registers of the control context, and the other registers as the map gives them. Where the spec leaves a
point open it states the choice of the model (log entries 26, 29, 39, 90). -/
def Obligations.SystemRegisterReads : Prop :=
  ∀ (e : Fields) (s : State),
    let i := (Instr.srd e).opnds.imm.toNat
    s.completes (.srd e) (fun _ _ s1 s' r jump => jump = none ∧ s' = s1 ∧ readLevel i ≤ s1.level
      ∧ (i = 0 → s1.vectorsOut = false) ∧ s1.shadowPending i = false ∧ ∃ x : Word, r = some (.s x) ∧
      (let c := s1.me
       match i with
       | 0x000 => x = s1.cx.tsw
       | 0x010 => x = BitVec.ofNat 64 s.cur
       | 0x011 => x = match c.lpid with
         | some l => BitVec.ofNat 64 l
         | none => 1#64 <<< 63
       | 0x012 => x = c.cid.setWidth 64
       | 0x014 => x = c.msb
       | 0x015 => x = c.twt.setWidth 64
       | 0x016 => x = c.lnk.setWidth 64
       | 0x017 => x = c.hvec
       | 0x018 => x = c.epc
       | 0x019 => x = c.cause
       | 0x01A => x = c.info
       | 0x01B => x = c.tctx
       | 0x020 => x = s1.time
       | 0x021 => x = (s1.die (dieOf s.cur)).cyc
       | 0x022 => x = (s1.die (dieOf s.cur)).ncyc
       | 0x030 => x = (s1.cluster (clusterOf s.cur)).cmask.setWidth 64
       | 0x031 => x = (s1.cluster (clusterOf s.cur)).muw.setWidth 64
       | 0x050 => x = (s1.part s1.myPart).rls.setWidth 64
       | 0x051 => x = (s1.part s1.myPart).bch
       | 0x058 => x = c.xlatInv
       | 0x060 => x = if s.ctx = 0 then mget 0 s1.cx.ls 0 else 0
       | 0x064 => x = if s.ctx = 0 then mget 0 s1.cx.le 0 else 0
       | 0x068 => x = if s.ctx = 0 then mget 0 s1.cx.lc 0 else 0
       | _ => x = s1.sysRead i))

/-- SWR writes the register that imm names (R286, R323 to R325). At a level that may write it, SWR completes with X in
the fields that the register has: CTX.TSW keeps the bits that the level may not write, the trap registers and
CORE.HVEC keep bit 0 of an address clear, CORE.CID is refused 0 below F, a loop address keeps bit 0 clear, a write
of a helper's loop register changes nothing, a write of a read-only register at S or F changes nothing. Where the
spec leaves a point open it states the choice of the model (log entries 26, 29, 39). -/
def Obligations.SystemRegisterWrites : Prop :=
  ∀ (e : Fields) (s : State),
    let i := (Instr.swr e).opnds.imm.toNat
    s.completes (.swr e) (fun _ v s1 s' r jump => r = none ∧ jump = none ∧
      (let x := v.x.s
       if writeLevel i = 3 then s1.level ≠ 0 ∧ s' = s1
       else writeLevel i ≤ s1.level ∧ Same s1 s' ∧
         match i with
         | 0x000 => s' = s1.modCx (fun c =>
             { c with tsw := (c.tsw &&& ~~~(if s1.level = 0 then 0x3FF0#64 else 0x7FFF3FF0#64))
                 ||| (x &&& (if s1.level = 0 then 0x3FF0#64 else 0x7FFF3FF0#64)) })
         | 0x012 => ¬ (x.toNat % 4096 = 0 ∧ s1.level = 1) ∧ s' = s1.modMe (fun c => { c with cid := x.setWidth 12 })
         | 0x013 => s' = s1.modMe (fun c => { c with ulogEn := x.getLsbD 15 })
         | 0x015 => s' = s1.modMe (fun c => { c with twt := x.setWidth 40 })
         | 0x017 => s' = s1.modMe (fun c => { c with hvec := x &&& ~~~1#64 })
         | 0x018 => s' = s1.modMe (fun c => { c with epc := x &&& ~~~1#64 })
         | 0x019 => s' = s1.modMe (fun c => { c with cause := x &&& 0xFFFF#64 })
         | 0x01A => s' = s1.modMe (fun c => { c with info := x })
         | 0x01B => s' = s1.modMe (fun c => { c with tctx := x &&& 0xFB000F#64 })
         | 0x031 => s' = s1.modCluster (clusterOf s1.cur) (fun k => { k with muw := x.setWidth 36 })
         | 0x060 => s' = if s1.ctx = 0 then s1.modCx (fun c => { c with ls := mset c.ls 0 (x &&& ~~~1#64) }) else s1
         | 0x064 => s' = if s1.ctx = 0 then s1.modCx (fun c => { c with le := mset c.le 0 (x &&& ~~~1#64) }) else s1
         | 0x068 => s' = if s1.ctx = 0 then s1.modCx (fun c => { c with lc := mset c.lc 0 x }) else s1
         | _ => s1.sysWrite i x = .ok s'))

/-- TRAP at U level enters the resident handler (R288, R326). A TRAP at U level, in a context that runs no compensation
routine on a core without an active handler, completes by taking the SOFT exception: TRAP.EPC holds the next PC,
TRAP.CAUSE class 1 with subcause 0, TRAP.INFO the immediate, TRAP.CTX the context and its level; the shadow holds
the window, the REP state, CTX.TSW and the generator; the context goes on at S level at CORE.HVEC. Every register,
every memory and every other context stays. Where the spec leaves a point open it states the choice of the model
(log entries 31, 91). -/
def Obligations.TrapTakesException : Prop :=
  ∀ (e : Fields) (s s1 : State) (v : Vals), s.starts (.trap e) = some (v, s1) → s.level = 0 → s.cx.comp = none →
    s.me.handler = none → ∃ t, Sys2Proof.Machine.exec (.trap e) s = .next t ∧
      t.me.epc = (s.cx.pc + BitVec.ofNat 64 (2 * e.parcels)) &&& ~~~1#64 ∧ t.me.cause = 1 ∧ t.me.info = (Instr.trap e).opnds.imm
      ∧ t.me.tctx = BitVec.ofNat 64 s.ctx ∧ t.me.handler = some s.ctx ∧ t.me.shadow.win = s.cx.win
      ∧ t.me.shadow.rep = s.cx.rep ∧ t.me.shadow.gen = s.cx.gen ∧ lvlOf t.me.shadow.tsw = 0
      ∧ t.cx.pc = s.me.hvec ∧ lvlOf t.cx.tsw = 1 ∧ t.cx.run = .ready ∧ t.cx.rep = Rep.none
      ∧ (∀ n, t.cx.sreg n = s.cx.sreg n ∧ t.cx.vreg n = s.cx.vreg n ∧ t.cx.kreg n = s.cx.kreg n) ∧ t.cx.win = s.cx.win
      ∧ (∀ p, (t.core p).mem = (s.core p).mem) ∧ t.clusters = s.clusters ∧ t.phys = s.phys
      ∧ (∀ k, k ≤ 10 → k ≠ s.ctx → (t.me.context k).pc = (s.me.context k).pc ∧ (t.me.context k).run = (s.me.context k).run)

/-- An ill-formed instruction takes the illegal-instruction exception (R42, R326). An instruction of the running context
to which a subcause of R42 applies has no effect of its own: with no handler active and no compensation routine, the
context enters the handler with class 2, the lowest subcause that applies, EPC at the instruction, and INFO 0. Where
the spec leaves a point open it states the choice of the model (log entry 19). -/
def Obligations.IllegalTakesException : Prop :=
  ∀ (i : Instr) (s : State) (c : Code) (sh : Shape), formOf i = some (c, sh) → s.cx.comp = none → s.me.handler = none →
    ¬ (i.wellFormedFor s.who = true) → ∃ t, Sys2Proof.Machine.exec i s = .next t ∧
      t.me.epc = s.cx.pc &&& ~~~1#64
      ∧ t.me.cause = BitVec.ofNat 64 (lowest (i.subcauses ++ subIf (c.barred sh s.who) 7) * 256 + 2) ∧ t.me.info = 0
      ∧ t.me.handler = some s.ctx ∧ t.cx.pc = s.me.hvec ∧ lvlOf t.cx.tsw = 1 ∧ t.me.shadow.win = s.cx.win
      ∧ (∀ n, t.cx.sreg n = s.cx.sreg n ∧ t.cx.vreg n = s.cx.vreg n) ∧ (∀ p, (t.core p).mem = (s.core p).mem)

/-- An S-only instruction at U level takes the privilege exception (R44). A well-formed S-only instruction at U level,
an SRD or SWR of a register that U may not read or write among them, has no effect of its own: with no handler
active and no compensation routine, the context enters the handler with class 4, subcause 0, INFO 0 and EPC at the
instruction. Where the spec leaves a point open it states the choice of the model (log entry 39). -/
def Obligations.PrivilegeTakesException : Prop :=
  ∀ (i : Instr) (s : State) (c : Code) (sh : Shape), formOf i = some (c, sh) → i.wellFormedFor s.who = true →
    (sOnly c = true ∨ (∃ e, i = .srd e ∧ 1 ≤ readLevel i.opnds.imm.toNat) ∨ ∃ e, i = .swr e ∧ 1 ≤ writeLevel i.opnds.imm.toNat) →
    s.level = 0 → s.cx.comp = none → s.me.handler = none →
    ∃ t, Sys2Proof.Machine.exec i s = .next t ∧ t.me.epc = s.cx.pc &&& ~~~1#64 ∧ t.me.cause = 4 ∧ t.me.info = 0
      ∧ t.me.handler = some s.ctx ∧ t.cx.pc = s.me.hvec ∧ lvlOf t.cx.tsw = 1 ∧ t.me.shadow.tsw.toNat % 4 = 0
      ∧ (∀ n, t.cx.sreg n = s.cx.sreg n ∧ t.cx.vreg n = s.cx.vreg n) ∧ (∀ p, (t.core p).mem = (s.core p).mem)

/-- ERET returns to the context that TRAP.CTX names (R326). ERET in the active handler of a core with no pending entry,
and no ring entry at SEQ, completes: the named context is ready at TRAP.EPC with the shadow's window, REP state and
generator and its CTX.TSW at the level of TRAP.CTX; no handler is active; when the named context is another one, the
handler's context stops; scalar and vector registers stay. Where the spec leaves a point open it states the choice
of the model (log entries 27, 30). -/
def Obligations.EretReturns : Prop :=
  ∀ (e : Fields) (s s1 : State) (v : Vals) (k : Nat), s.starts (.eret e) = some (v, s1) → s.me.handler = some s.ctx →
    k = s.me.tctx.toNat % 16 → k ≤ 10 → s.me.entries = [] → mfind s.me.ring (s.me.tctx.toNat / 2 ^ 20 % 16) = none →
    ∃ t, Sys2Proof.Machine.exec (.eret e) s = .next t ∧ t.me.handler = none ∧ (t.me.context k).run = .ready
      ∧ (t.me.context k).pc = s.me.epc ∧ (t.me.context k).win = s.me.shadow.win ∧ (t.me.context k).rep = s.me.shadow.rep
      ∧ (t.me.context k).gen = s.me.shadow.gen
      ∧ (t.me.context k).tsw = wput s.me.shadow.tsw 0 2 (s.me.tctx.toNat / 2 ^ 16 % 4)
      ∧ (k ≠ s.ctx → t.cx.run = .stopped (if s.ctx = 0 ∧ s.me.lpid = none then .noLogical else .idle))
      ∧ (∀ j n, (t.me.context j).sreg n = (s.me.context j).sreg n ∧ (t.me.context j).vreg n = (s.me.context j).vreg n)
      ∧ (∀ p, (t.core p).mem = (s.core p).mem)

/-- TRAP at S level, PARK and NOP (R288). PARK, and TRAP at S level, complete by stopping the context at its instruction
and sending one message to the row's collector, kind 0x23 with X or kind 0x22 with the immediate, marked with the
core; NOP only moves the PC. -/
def Obligations.StopInstructions : Prop :=
  ∀ (e : Fields) (s s1 : State) (v : Vals),
    let stopped (t : State) (why : StopWhy) (kind : Nat) (arg : Word) : Prop :=
      t.cx.run = .stopped why ∧ t.cx.pc = s.cx.pc ∧ (∀ n, t.cx.sreg n = s.cx.sreg n) ∧ t.cx.win = s.cx.win
      ∧ ∃ m, t.traps = s.traps ++ [m] ∧ m.kind = kind ∧ m.arg = arg ∧ m.die = dieOf s.cur ∧ m.row = siteOf s.cur / 16
        ∧ m.map = 1#144 <<< (9 * (siteOf s.cur % 16) + cidxOf s.cur)
    (s.starts (.park e) = some (v, s1) →
      ∃ t, Sys2Proof.Machine.exec (.park e) s = .next t ∧ stopped t .parked 0x23 v.x.s)
    ∧ (s.starts (.trap e) = some (v, s1) → s.level ≠ 0 →
      ∃ t, Sys2Proof.Machine.exec (.trap e) s = .next t ∧ stopped t .soft 0x22 (Instr.trap e).opnds.imm)
    ∧ s.does (.nop e) (fun _ _ s1 => s1)

/-- Activity instructions (R289 to R291, R355). ACT.OPN opens the lowest free ID of the partition and gives it, or bit
63 when 256 are open; ACT.CP of an open activity with a well-formed record pushes an entry with the next sequence
number, which it gives; ACT.CMT of an open or abandoned activity drops its entries and frees its ID; ACT.ABN of open
activities without a conflict marks them as being abandoned; ACT.RTY and ACT.SKP of a frozen activity hold its
failed entries again or drop them; ACT.ST gives state, entries and FST; ACT.RET in a routine frees the helper and
ends the entry, or freezes its activity. Where the spec leaves a point open it states the choice of the model (log
entry 43). -/
def Obligations.ActivityResults : Prop :=
  ∀ (e : Fields) (s : State),
    s.completes (.actOpn e) (fun _ _ s1 s' r jump => jump = none ∧
      (let a := (s1.part s1.myPart).acts
       256 ≤ a.length ∧ s' = s1 ∧ r = some (.s (1#64 <<< 63))
       ∨ a.length < 256 ∧ ∃ i, i < 4096 ∧ mfind a i = none ∧ (∀ j, j < i → (mfind a j).isSome = true)
         ∧ r = some (.s (BitVec.ofNat 64 i))
         ∧ s' = s1.modPart s1.myPart (fun q => { q with acts := mset q.acts i { state := 1, fst := 0 } })))
    ∧ s.completes (.actCp e) (fun o v s1 s' r jump => jump = none ∧ ∃ x sc, s1.loadNear (v.y.s + o.imm).toNat 24 = .ok (x, sc) ∧
      (let id := v.x.s.toNat % 4096
       let w (k : Nat) : Word := BitVec.ofNat 64 (x / 2 ^ (64 * k))
       Same s1 sc ∧ (sc.act sc.myPart id).state = 1 ∧ (w 0).toNat % 2 = 0 ∧ (w 0).toNat / 2 ^ 57 = 0
       ∧ (w 2).toNat % 2 ^ 32 ≠ 0 ∧ (w 2).toNat / 2 ^ 32 = 0 ∧ (sc.die (dieOf sc.cur)).chest.length < 65536
       ∧ r = some (.s (BitVec.ofNat 64 sc.seq))
       ∧ s' = (let c : Chest :=
             { seq := sc.seq, id := id, part := sc.myPart, arg := w 1, pc := (w 0).setWidth 57, tags := (w 2).setWidth 32,
               core := sc.cur, state := 1, lpid := sc.lp sc.cur, helper := 0 }
           ({ sc with seq := sc.seq + 1 }).modDie (dieOf sc.cur) (fun d => { d with chest := d.chest ++ [c] }))))
    ∧ s.completes (.actCmt e) (fun _ v s1 s' r jump => r = none ∧ jump = none ∧
      (let id := v.x.s.toNat % 4096
       ((s1.act s1.myPart id).state = 1 ∨ (s1.act s1.myPart id).state = 4)
       ∧ s' = (s1.mapChest (fun l => l.filter (fun c => !(c.part == s1.myPart && c.id == id)))).modPart s1.myPart
           (fun q => { q with acts := merase q.acts id })))
    ∧ s.completes (.actAbn e) (fun _ v s1 s' r jump => r = none ∧ jump = none ∧
      (let ids := abandonIds v.x.s v.y.s
       (∀ i ∈ ids, (s1.act s1.myPart i).state = 1) ∧ s1.abandonConflict s1.myPart ids = false ∧ Same s1 s'
       ∧ s' = ((ids.foldl (fun u i => u.setAct s1.myPart i 2) s1).modPart s1.myPart (fun q =>
           { q with abandons := q.abandons ++ [{ core := s.cur, ids := ids }] })).settleAbandons s1.myPart))
    ∧ s.completes (.actRty e) (fun _ v s1 s' r jump => r = none ∧ jump = none ∧
      (let id := v.x.s.toNat % 4096
       (s1.act s1.myPart id).state = 3 ∧ s' = (s1.mapChest (fun l => l.map (fun c =>
           if c.part == s1.myPart && c.id == id && c.state == 3 then { c with state := 1 } else c))).setAct s1.myPart id 2))
    ∧ s.completes (.actSkp e) (fun _ v s1 s' r jump => r = none ∧ jump = none ∧
      (let id := v.x.s.toNat % 4096
       (s1.act s1.myPart id).state = 3 ∧ Same s1 s' ∧ s' = ((s1.mapChest (fun l => l.filter (fun c =>
           !(c.part == s1.myPart && c.id == id && c.state == 3)))).setAct s1.myPart id 2).settleAbandons s1.myPart))
    ∧ s.gives (.actSt e) (fun _ v s1 =>
      let id := v.y.s.toNat % 4096
      let a := s1.act s1.myPart id
      BitVec.ofNat 64 (a.state + 2 ^ 8 * (s1.actEntries s1.myPart id).length + 2 ^ 32 * a.fst.toNat))
    ∧ s.completes (.actRet e) (fun _ v s1 s' r jump => r = none ∧ jump = none ∧ Same s1 s' ∧ ∃ seq, s1.cx.comp = some seq
      ∧ s' = if v.x.s.toNat = 0 then (s1.freeHelper s1.cur s1.ctx).endEntry seq
          else (s1.freeHelper s1.cur s1.ctx).freezeAct seq v.x.s)

/-- LAUNCH puts a record into the partition's queue (R293, R304, R310); A launch enters its queue at the end (R293,
R307). For a core without a twin, whose way to the distributor nothing holds, LAUNCH of a readable record that the
level may submit completes: a control record acts as the distributor says; any other record gives 1 when it is ill-
formed, where only a completion word that faults is told of, 2 when the partition's queue holds 128 launches,
without any effect, and otherwise enters the queue with the partition's next serial number, the CID and the cluster
of the core, and gives 0. A launch that names no predecessor enters the partition's queue behind all others, keeps
its words, and changes nothing but the queue and the next serial number; no other partition changes. Where the spec
leaves a point open it states the choice of the model (log entries 44, 55, 69, 97). -/
def Obligations.LaunchResults : Prop :=
  (∀ (e : Fields) (s : State),
     s.completes (.launch e) (fun o v s1 s' r jump => jump = none ∧ s1.farDistributor s1.cur = false ∧
       ∃ x sc, s1.loadNear (v.y.s + o.imm).toNat 64 = .ok (x, sc) ∧ Same s1 sc ∧ Same s1 s' ∧ sc.me.twin = none ∧
       (let l := newLaunch 0 (wordsOf 8 x) sc.me.cid sc.myCl false
        let q := sc.myPart
        ¬ (sc.level = 0 ∧ l.privileged = true) ∧
        (l.flag 5 = true ∧ r = some (.s (BitVec.ofNat 64 (sc.control q l).1)) ∧ s' = (sc.control q l).2
         ∨ l.flag 5 = false ∧
           (sc.illFormed q l = true ∧ r = some (.s 1) ∧ s' = sc.cwTell l
            ∨ sc.illFormed q l = false ∧ 128 ≤ (sc.part q).launches.length ∧ r = some (.s 2) ∧ s' = sc
            ∨ sc.illFormed q l = false ∧ (sc.part q).launches.length < 128 ∧ r = some (.s 0)
              ∧ s' = sc.enqueue q { l with serial := (sc.part q).serial })))))
  ∧ (∀ (s : State) (q : Nat) (l : Launch), (∀ i, i < 4 → l.predV i = false) →
     let t := s.enqueue q l
     (t.part q).launches = (s.part q).launches ++ [{ l with winRead := l.nw == 0 }] ∧ (t.part q).serial = (s.part q).serial + 1
       ∧ (∀ p, p ≠ q → t.part p = s.part p) ∧ t.cores = s.cores ∧ t.clusters = s.clusters ∧ t.phys = s.phys
       ∧ t.posts = s.posts)

/-- CKPT, CPQZ, BMEM, LKCFG, PREQ and TWCFG (R294 to R299). CKPT of an acceptable record replaces the checkpoint
configuration of the partition and gives 0, of any other gives 1 and changes nothing; CPQZ with an aligned local
base, no started copy and no error that its writes meet removes the queued copy requests, writes them and their
number to the save area and gives that number; BMEM gives 3 for a channel that the partition does not own, 1 for a
map that breaks its level, 2 while an arrival stands, else sets level and members and gives 0, where members on one
die leave the channel of that number on the other die to its partition; LKCFG gives the old CORE.LNK and writes the
new one; PREQ gives 1 for an absent logical core, 2 while a pre-emption is pending there, else posts one and gives
0; TWCFG sets the trap-wait limit of the core or of every core of the partition. Where the spec leaves a point open
it states the choice of the model (log entries 41, 45). -/
def Obligations.SupervisorResults : Prop :=
  (∀ (e : Fields) (s : State),
    s.completes (.ckpt e) (fun o v s1 s' r jump => jump = none ∧ ∃ x sc, s1.loadNear (v.y.s + o.imm).toNat 32 = .ok (x, sc) ∧
      (let w (k : Nat) : Word := BitVec.ofNat 64 (x / 2 ^ (64 * k))
       Same s1 sc ∧
       (sc.ckptOk sc.myPart (w 0) (w 1) (w 2) (w 3) = false ∧ r = some (.s 1) ∧ s' = sc
        ∨ sc.ckptOk sc.myPart (w 0) (w 1) (w 2) (w 3) = true ∧ r = some (.s 0)
          ∧ s' = sc.modPart sc.myPart (fun p => { p with ckpt := { p.ckpt with
              ticks := (w 0).toNat % 2 ^ 40, steps := (w 1).toNat % 2 ^ 32, region := w 2, rank := (w 3).toNat % 2 ^ 6,
              rm1 := (w 3).toNat / 2 ^ 8 % 2 ^ 6, buddy := BitVec.ofNat 32 ((w 3).toNat / 2 ^ 32), last := sc.time, count := 0,
              armed := false, cid := sc.me.cid, active := false, todo := [], done := 0 } }))))
    ∧ s.completes (.cpqz e) (fun _ v s1 s' r jump => jump = none ∧
      (let b := v.y.s.toNat
       let ps := (upTo s1.me.fifo.length).map (fun i =>
         let r := s1.me.fifo.getD i { w0 := 0, w1 := 0, w2 := 0, w3 := 0, cid := 0, lvl := 0, no := 0, pair := none, drop := false }
         (0x350 + 32 * i, 32, wordsNat [r.w0, r.w1, r.w2, r.w3])) ++ [(0x450, 8, s1.me.fifo.length)]
       b + 0x1000 ≤ 0x400000 ∧ b % 4096 = 0 ∧ s1.copiesOf s1.cur = 0 ∧ s1.piecesBad s1.cur b ps = false
       ∧ r = some (.s (BitVec.ofNat 64 s1.me.fifo.length))
       ∧ s' = (s1.putPieces s1.cur b ps).modMe (fun c =>
           { c with fifo := [], returned := c.returned ++ s1.me.fifo, quiesce := false })))
    ∧ s.completes (.bmem e) (fun o v s1 s' r jump => jump = none ∧ ∃ x sc, s1.loadNear (v.y.s + o.imm).toNat 304 = .ok (x, sc) ∧
      (let q := sc.myPart
       let ch := x % 2 ^ 6
       let ms := mapMembers x
       let good := sc.bmemOk q (x % 2 ^ 64) (x / 2 ^ 64 % 2 ^ 64) ms
       let owned := (sc.part q).bch.getLsbD ch
       let busy := (∃ k ∈ sc.chanEntries q ch (sc.memberDies q ms), (sc.chan k).arr ≠ []) ∧ sc.level ≤ 1
       Same s1 sc ∧
       (owned = false ∧ r = some (.s 3) ∧ s' = sc
        ∨ owned = true ∧ good = false ∧ r = some (.s 1) ∧ s' = sc
        ∨ owned = true ∧ good = true ∧ busy ∧ r = some (.s 2) ∧ s' = sc
        ∨ owned = true ∧ good = true ∧ ¬ busy ∧ r = some (.s 0)
          ∧ s' = sc.setMembers q ch (x / 2 ^ 8 % 2 ^ 2) ms)))
    ∧ (∀ v s1 s2, s.starts (.lkcfg e) = some (v, s1) →
      s1.lands (.lkcfg e) (some (.s (s1.me.lnk.setWidth 64))) = some s2 →
      ∃ t, Sys2Proof.Machine.exec (.lkcfg e) s = .next t
        ∧ Ran (.lkcfg e) s (s2.setLnk s.cur v.y.s) t (some (.s (s1.me.lnk.setWidth 64))) none)
    ∧ s.completes (.preq e) (fun _ v s1 s' r jump => jump = none ∧
      (s1.physOf s1.myPart v.y.s.toNat = none ∧ r = some (.s 1) ∧ s' = s1
       ∨ ∃ p, s1.physOf s1.myPart v.y.s.toNat = some p ∧
         ((s1.core p).preempt ≠ none ∧ r = some (.s 2) ∧ s' = s1
          ∨ (s1.core p).preempt = none ∧ r = some (.s 0) ∧ Same s1 s' ∧ s' = s1.postPreempt p 2)))
    ∧ s.completes (.twcfg e) (fun _ v s1 s' r jump => r = none ∧ jump = none ∧ Same s1 s' ∧
      s' = ((if v.y.s.getLsbD 0 then s1.cur :: s1.partCores s1.myPart else [s1.cur]).foldl (fun u p =>
        u.modCore p (fun c => { c with twt := v.x.s.setWidth 40 })) s1)))
  ∧ (∀ (s : State) (q ch lvl d : Nat) (ms : List Nat), ch < 64 → d < 2 → ms ≠ [] →
    (∀ l ∈ ms, ∃ p, s.physOf q l = some p ∧ dieOf p = d) →
    let t := s.setMembers q ch lvl ms
    let key := 64 * d + ch
    (t.chan key).members = ms ∧ (t.chan key).part = q ∧ (t.chan key).level = lvl ∧ (t.chan key).rcnt = (s.chan key).rcnt
      ∧ (∀ a ∈ (t.chan key).arr, a.lpid ∈ ms)
      ∧ ((s.chan (64 + ch)).joined = false → (s.chan (64 * (1 - d) + ch)).part ≠ q →
          t.chan (64 * (1 - d) + ch) = s.chan (64 * (1 - d) + ch))
      ∧ (∀ k, k % 64 ≠ ch → t.chan k = s.chan k) ∧ t.cores = s.cores ∧ SameMemory s t)

/-- Matrix instructions push a record (R244, R246 to R253); what a push into the matrix queue does (R221, R244). MSTR,
MSTRT, MDRN, MACZ, MBLD, MBREL and MACCP, with a readable record and room in the queue and the ring, complete by
pushing it, with their own KIND in w0 and X added to w1, when the core's matrix queue takes it; MCFG pushes the 64
bytes with X's low half as its tag; MSTAT gives the view of the cluster's matrix unit that Y selects and changes
nothing. When a core's matrix queue takes a record, the queue has held fewer than 16; the record stands at its end
with the core's CID, and neither memory nor any bank or accumulator changes. Where the spec leaves a point open it
states the choice of the model (log entry 57). -/
def Obligations.MatrixPushResults : Prop :=
  (∀ (e : Fields) (s : State),
     let pushes (i : Instr) (kind : Nat) : Prop := s.completes i (fun o v s1 s' r jump => r = none ∧ jump = none ∧
       ∃ pl sp w sc, s1.me.matRoom = true ∧ s1.nearPlace (v.y.s + o.imm).toNat 32 = .ok (pl, sp) ∧ sp.recordAt pl = .ok (w, sc)
         ∧ Same s1 sc ∧ Same s1 s' ∧ sc.pushMat sc.cur (sc.cx.pc.setWidth 57) [wput (w.getD 0 0) 61 3 kind, w.getD 1 0 + v.x.s, w.getD 2 0, w.getD 3 0]
           none false = .ok s')
     pushes (.mstr e) 0 ∧ pushes (.mstrt e) 1 ∧ pushes (.mdrn e) 2 ∧ pushes (.macz e) 3 ∧ pushes (.mbld e) 4
     ∧ pushes (.mbrel e) 5 ∧ pushes (.maccp e) 7
     ∧ s.completes (.mcfg e) (fun o v s1 s' r jump => r = none ∧ jump = none ∧ ∃ pl sp x sc, s1.me.matRoom = true ∧
       s1.nearPlace (v.y.s + o.imm).toNat 64 = .ok (pl, sp) ∧ sp.takeAt pl 64 = .ok (x, sc) ∧ Same s1 sc ∧ Same s1 s' ∧
         sc.pushMat sc.cur (sc.cx.pc.setWidth 57) [BitVec.ofNat 64 (6 * 2 ^ 61), 0, v.x.s &&& 0xFFFFFFFF, 0]
           (some (BitVec.ofNat 512 x)) false = .ok s')
     ∧ s.gives (.mstat e) (fun _ v s1 =>
       let c := s1.cluster s1.myCl
       let n := v.y.s.toNat
       if n < 16 then match mfind c.banks n with
         | none => 0
         | some b => BitVec.ofNat 64 (b.npm1 * 2 ^ 11 + b.kpm1 * 2 ^ 19 + b.bfmt * 2 ^ 27 + b.state * 2 ^ 30 + b.tag.toNat * 2 ^ 32)
       else if n = 0x100 then
         BitVec.ofNat 64 (c.freePods + ((upTo 16).filter (fun k => (mfind c.banks k).isSome)).foldl (fun a k => a + 2 ^ (9 + k)) 0)
       else 0))
  ∧ (∀ (s t : State) (p : Nat) (pc : BitVec 57) (a b c d : Word) (f : Option VWord), (s.core p).twin = none →
     s.pushMat p pc [a, b, c, d] f false = .ok t →
     (s.core p).mq.length < 16 ∧ (∃ m, (t.core p).mq = (s.core p).mq ++ [m] ∧ m.w0 = a ∧ m.w1 = b ∧ m.w2 = c ∧ m.w3 = d
       ∧ m.fmt = f ∧ m.cid = (s.core p).cid) ∧ (∀ q, (t.core q).mem = (s.core q).mem)
       ∧ (∀ q, q ≠ p → (t.core q).mq = (s.core q).mq) ∧ t.clusters = s.clusters ∧ t.phys = s.phys)

/-- Rule and digest instructions (R255 to R266). RLUPD, RLTAPE, RLREV, RDREG and RDCMP, with a readable record, complete
by handing it, with their own OP in w0 and X added to w1, to the rule engine when it takes it; RLSTAT counts the
core's outstanding and held commands; RLVER describes a slot of the partition, whose headers can be read, and gives
0 for any other; RLSW switches a slot or cancels a switch and gives its code, where the headers that it reads hold
no uncorrectable error; RLWR writes bytes of the inactive image; RLRD copies bytes of an image without an
uncorrectable error to memory; RDGET gives the partition's digest and the number of registered blocks. Where the
spec leaves a point open it states the choice of the model (log entries 55, 63, 65). -/
def Obligations.RuleInstructionResults : Prop :=
  ∀ (e : Fields) (s : State),
    let pushes (i : Instr) (op : Nat) : Prop := s.completes i (fun o v s1 s' r jump => r = none ∧ jump = none ∧
      ∃ pl sp w sc, s1.ruleRoom s1.cur op = true ∧ s1.nearPlace (v.y.s + o.imm).toNat 32 = .ok (pl, sp)
        ∧ sp.recordAt pl = .ok (w, sc) ∧ Same s1 sc ∧ Same s1 s' ∧ sc.pushRule sc.cur sc.ctx [wput (w.getD 0 0) 56 8 op, w.getD 1 0 + v.x.s, w.getD 2 0, w.getD 3 0] false = .ok s')
    let owns (u : State) (n : Nat) : Bool := (u.part u.myPart).rls.getLsbD n
    let len (w : Word) : Nat := w.toNat / 2 ^ 16 % 2 ^ 14
    let off (w : Word) : Nat := w.toNat % 2 ^ 13
    let slot (w : Word) : Nat := w.toNat / 2 ^ 13 % 2 ^ 3
    let inImage (w : Word) : Prop :=
      w.toNat / 2 ^ 31 = 0 ∧ len w % 8 = 0 ∧ 8 ≤ len w ∧ len w ≤ 8192 ∧ off w % 8 = 0 ∧ off w + len w ≤ 8192
    pushes (.rlupd e) 1 ∧ pushes (.rltape e) 2 ∧ pushes (.rlrev e) 3 ∧ pushes (.rdreg e) 0x10 ∧ pushes (.rdcmp e) 0x12
    ∧ s.gives (.rlstat e) (fun _ _ s1 => BitVec.ofNat 64 (s1.ruleOut s1.cur
      + (s1.cmds.filter (fun c => c.core == s1.cur && c.held)).length * 2 ^ 8 + s1.me.asmR.isSome.toNat * 2 ^ 14))
    ∧ s.completes (.rlver e) (fun _ v s1 s' r jump => jump = none ∧
      (let n := v.y.s.toNat % 8
       let z := s1.rule n
       owns s1 n = false ∧ s' = s1 ∧ r = some (.s 0)
       ∨ owns s1 n = true ∧ s1.readImages n 8 [false, true] = .ok s'
         ∧ r = some (.s (BitVec.ofNat 64 (imageVer (z.image z.active) + imageVer (z.image (!z.active)) * 2 ^ 16
           + z.active.toNat * 2 ^ 32 + z.pend.toNat * 2 ^ 33 + z.ref.toNat * 2 ^ 34 + 2 ^ 35)))))
    ∧ s.completes (.rlsw e) (fun _ v s1 s' r jump => jump = none ∧
      (let n := v.y.s.toNat % 8
       let z := s1.rule n
       let new := z.image (!z.active)
       let same := imageVer new = imageVer (z.image z.active)
       owns s1 n = true ∧
       (z.pend = true ∧ r = some (.s 3) ∧ s' = s1.modRule n (fun _ => { z with pend := false, spoiled := false })
        ∨ z.pend = false ∧ ∃ u, s1.readImages n 0x100 [!z.active] = .ok u ∧
          (imageOk new = false ∧ r = some (.s 1) ∧ s' = u.modRule n (fun _ => z)
           ∨ imageOk new = true ∧ ∃ w, u.readImages n 8 [z.active] = .ok w ∧
             (same ∧ r = some (.s 2) ∧ s' = w.modRule n (fun _ => z)
              ∨ ¬ same ∧ r = some (.s 0) ∧ s' = w.modRule n (fun _ => { z with pend := true, ref := false, spoiled := false }))))))
    ∧ s.completes (.rlwr e) (fun _ v s1 s' r jump => r = none ∧ jump = none ∧
      (let w := v.y.s
       inImage w ∧ w.getLsbD 30 = false ∧ owns s1 (slot w) = true ∧
       ∃ x sc, s1.loadNear v.x.s.toNat (len w) = .ok (x, sc) ∧ Same s1 sc ∧
         (let st : Store := .rule (slot w) (!(sc.rule (slot w)).active)
          sc.partBad st (off w) (len w) = false ∧
          s' = ((sc.partFix sc.cur st (off w) (len w)).modRule (slot w) (fun z =>
            { z.setImage (!z.active) (bwrite (z.image (!z.active)) (off w) (len w) x) with spoiled := z.spoiled || z.pend })).clearErr
              st (off w) (len w))))
    ∧ s.completes (.rlrd e) (fun _ v s1 s' r jump => r = none ∧ jump = none ∧
      (let w := v.y.s
       let z := s1.rule (slot w)
       let bank := if w.getLsbD 30 then !z.active else z.active
       inImage w ∧ owns s1 (slot w) = true ∧ s1.hardErr (.rule (slot w) bank) (off w) (len w) = false ∧
       ∃ u, s1.storeNear v.x.s.toNat (len w) (bread (z.image bank) (off w) (len w)) = .ok u ∧ Same s1 u
         ∧ s' = u.correct s1.cur (.rule (slot w) bank) (off w) (len w)))
    ∧ s.completes (.rdget e) (fun _ _ s1 s' r jump => s' = s1 ∧ jump = none ∧ r = some (.v (BitVec.ofNat 512
      (((upTo 32).foldl (fun a z => a + mget 0 (s1.slice z).dsum s1.myPart) (0 : BitVec 128)).toNat
        + ((upTo 32).map (fun z => ((s1.slice z).dig.filter (fun d => d.part == s1.myPart)).length)).foldl (· + ·) 0
          * 2 ^ 128))))

/-- A copy starts, is read, lands and ends (R69, R73 to R83); packets of a network send, and the discard of a partial
record (R70, R77, R381). COPY_START takes the first ready FIFO head in rotation and gives it a slot with all its
units open; COPY holds the bytes that the source gives for a unit, FILL the pattern in w1; COPY_LANDING of a unit
with a local destination, of which nothing has still to be compared with a twin's and which shares no chunk with
another unit, writes exactly those bytes there; COPY_COMPLETION of a copy that is over, nothing of it being on its
way, posts the completion message and frees the slot, or leaves the message waiting while the mailbox has no room.
NETWORK_SEND sends the next 4,096 bytes of the stream as a packet to the peer of the queue that Markhor granted,
where the queue's port and what lies before it admit it; an acknowledgement of the first packet of a queue removes
it and counts its bytes as landed; a retransmission within its limits counts another try; after 16 instructions
without a push a partial record is dropped and CTX.TSW says so. Where the spec leaves a point open it states the
choice of the model (log entries 54, 61). -/
def Obligations.CopyEngineSteps : Prop :=
  ((∀ (s : State) (cl i : Nat) (r : CopyReq) (rest : List CopyReq) (w : Walk), (s.cluster cl).slotsUsed < 16 →
       ((upTo 9).map (fun j => ((s.cluster cl).crr + j) % 9)).find? (s.copyReady cl) = some i →
       (s.core (coreAt cl i)).fifo = r :: rest → s.geoHard (coreAt cl i) r = false →
       (s.core (coreAt cl i)).walkOf r = .ok w →
       s.copyCheck (coreAt cl i) r w = 0 → 0 < w.units r →
       ∃ t, Sys2Proof.Machine.exec (.copyStart cl) s = .next t ∧ (t.core (coreAt cl i)).fifo = rest
         ∧ (t.cluster cl).slots = (s.cluster cl).slots ++
             [{ cidx := i, req := r, walk := w, total := w.units r, held := [], landed := [], bytes := 0, status := none, posted := false }]
         ∧ (t.cluster cl).crr = (i + 1) % 9 ∧ SameMemory s t ∧ SameContexts s t)
     ∧ (∀ (s u : State) (cl k n : Nat) (z : CopySlot) (b : List Byte), (s.cluster cl).slots[k]? = some z →
       z.req.op = 1 → z.open' n = true →
       s.engineRead cl (coreAt cl z.cidx) z.req.cid (z.walk.unit z.req n).1 (z.walk.unit z.req n).2.2 = .ok (b, u) →
       Sys2Proof.Machine.exec (.copy cl k n) s = .next (u.modSlot cl k (fun z => { z with held := mset z.held n b })))
     ∧ (∀ (s : State) (cl k n len : Nat) (z : CopySlot), (s.cluster cl).slots[k]? = some z →
       z.req.op = 3 → z.open' n = true → z.walk = .plain len →
       ∃ t b z', Sys2Proof.Machine.exec (.fill cl k n) s = .next t ∧ (t.cluster cl).slots[k]? = some z'
         ∧ z' = { z with held := mset z.held n b } ∧ b.length = ((Walk.plain len).unit z.req n).2.2
         ∧ (∀ j, j < b.length → b[j]? = some (BitVec.ofNat 8
             (z.req.w1.toNat / 2 ^ (8 * ((64 * n - z.req.w2.toNat % 64 + j) % 8)))))
         ∧ SameMemory s t ∧ t.cores = s.cores)
     ∧ (∀ (s : State) (cl k n : Nat) (z : CopySlot) (b : List Byte), (s.cluster cl).slots[k]? = some z →
       mfind z.held n = some b → z.req.op ≠ 2 → z.total ≠ 0 → s.unmatched cl z = false →
       s.pairDrops (coreAt cl z.cidx) z.req.pair z.req.drop = false → z.walk.mates z.req n = [n] →
       (let p := coreAt cl z.cidx
        let a := (z.walk.unit z.req n).2.1
        memWf (s.core p).mem = true → spaceOf a b.length = some .loc → a % 64 = 0 → b.length % 64 = 0 →
        ∃ t, Sys2Proof.Machine.exec (.copyLanding cl k n) s = .next t
          ∧ (∀ i, i < b.length → some (bget (t.core p).mem (a + i)) = b[i]?)
          ∧ (∀ i, i < a ∨ a + b.length ≤ i → bget (t.core p).mem i = bget (s.core p).mem i)
          ∧ (∀ q, q ≠ p → t.core q = s.core q) ∧ (∀ c, (t.cluster c).mem = (s.cluster c).mem) ∧ t.phys = s.phys))
     ∧ (∀ (s : State) (cl k st : Nat) (z : CopySlot), (s.cluster cl).slots[k]? = some z → z.status = some st → z.posted = false →
       s.copyOver cl z = true →
       (let p := coreAt cl z.cidx
        let e := copyMsg st z.req.w0 z.bytes
        s.silent p = false →
        ((s.core p).room e.len = true → (∀ w ∈ s.posts, w.sup = true ∨ w.dst ≠ p) →
          ∃ t, Sys2Proof.Machine.exec (.copyCompletion cl k) s = .next t ∧ (t.core p).mbox = (s.core p).mbox ++ [e]
            ∧ (t.cluster cl).slots = (s.cluster cl).slots.eraseIdx k ∧ SameMemory s t ∧ SameContexts s t)
        ∧ ((s.core p).room e.len = false →
          ∃ t, Sys2Proof.Machine.exec (.copyCompletion cl k) s = .next t ∧ t.cores = s.cores
            ∧ t.posts = s.posts ++ [{ sup := false, dst := p, entry := e, rule := none, copy := some z.req.no }]
            ∧ (t.cluster cl).slots[k]? = some { z with posted := true } ∧ SameMemory s t))))
  ∧ ((∀ (s u : State) (cl k q c tgt : Nat) (z : CopySlot) (b : List Byte), (s.cluster cl).slots[k]? = some z →
       z.req.op = 2 → z.status = none →
       z.landed.length + (s.packets.filter (fun x => x.of cl z)).length < z.total →
       s.readPieces cl (coreAt cl z.cidx) z.req.cid
         (z.walk.stream z.req (4096 * (z.landed.length + (s.packets.filter (fun x => x.of cl z)).length)) 4096) = .ok (b, u) →
       s.partOf (coreAt cl z.cidx) = some q → s.granted q (z.req.w2.toNat % 2 ^ 32) [3] = some (c, tgt) →
       s.portBars (masterOf cl 9) q ((s.queueOf tgt).port % 8) = none → s.unmatched cl z = false →
       s.pairDrops (coreAt cl z.cidx) z.req.pair z.req.drop = false →
       mfind z.held (z.landed.length + (s.packets.filter (fun x => x.of cl z)).length) = none →
       ∃ t, Sys2Proof.Machine.exec (.networkSend cl k) s = .next t ∧ t.packets = u.packets ++
           [{ cl := cl, cidx := z.cidx, no := z.req.no, queue := tgt, peer := (s.queueOf tgt).peer, bytes := b, tries := 0,
              sent := u.time }]
         ∧ SameMemory u t ∧ t.cores = u.cores ∧ ∀ c, c ≠ cl → t.cluster c = u.cluster c)
     ∧ (∀ (s : State) (k i : Nat) (x : Packet) (z : CopySlot), s.packets[k]? = some x →
       (∀ y ∈ s.packets.take k, y.queue ≠ x.queue) → s.slotOf x = some i → (s.cluster x.cl).slots[i]? = some z →
       z.landed.length + 1 < z.total →
       ∃ t, Sys2Proof.Machine.exec (.packetAck k) s = .next t ∧ t.packets = s.packets.eraseIdx k
         ∧ (t.cluster x.cl).slots[i]? = some
             { z with landed := z.landed.length :: z.landed, bytes := z.bytes + x.bytes.length }
         ∧ SameMemory s t ∧ SameContexts s t)
     ∧ (∀ (s : State) (k : Nat) (x : Packet), s.packets[k]? = some x → x.tries < 8 → (s.time - x.sent).toNat < 250000 →
       ∃ t, Sys2Proof.Machine.exec (.packetRetransmit k) s = .next t
         ∧ t = { s with packets := s.packets.set k { x with tries := x.tries + 1 } })
     ∧ (∀ (s : State) (p : Nat) (q : AsmQueue) (a : Asm), (s.core p).asmOf q = some a → 16 ≤ a.since →
       ∃ t, Sys2Proof.Machine.exec (.copyAssemblyDiscard p q) s = .next t ∧ (t.core p).asmOf q = none
         ∧ ((t.core p).context a.ctx).tsw = orBit ((s.core p).context a.ctx).tsw (discardBit q)
         ∧ (∀ n, ((t.core p).context a.ctx).sreg n = ((s.core p).context a.ctx).sreg n) ∧ SameMemory s t))

/-- A message arrives, returns or is acknowledged (R119, R122, R123, R393); A link word enters the receiver's FIFO in
order (R12). A message that is its context's first to its handle, and that no flit sent again on its lane holds,
enters the destination's mailbox as CLASS 1 with the sender's PPID and its payload, or goes back with STATUS DEAD
from a dead core or one that is fused off, FULL from a poisoned core or a full mailbox, ACCESS where the access
table does not admit a fixed handle; a returned message enters the room reserved by its sender, as CLASS 2; either
answer releases that room; a completion that waits enters its mailbox when it is the first and room has come. The
first word on its way to a FIFO that holds fewer than four enters it at its end; nothing else of the receiver and no
other core changes. Where the spec leaves a point open it states the choice of the model (log entries 48, 55, 106). -/
def Obligations.MessageDelivery : Prop :=
  ((∀ (s : State) (k : Nat) (m : Msg), s.msgs[k]? = some m → s.inTurn m k = true → m.kind ≠ 1 → s.msgHeld m.src m.dst = false →
       (let c := s.core m.dst
        let st := if c.dead || s.fusedOff m.dst then 2 else if c.poisoned then 1 else if m.fixed && !(s.fixedOk m) then 3 else if c.room m.len then 0 else 1
        ∃ t, Sys2Proof.Machine.exec (.messageArrival k) s = .next t ∧ t.msgs = s.msgs.eraseIdx k ∧ SameMemory s t
          ∧ SameContexts s t
          ∧ (st = 0 → t.accs = s.accs ++ [m] ∧ (t.core m.dst).mbox = c.mbox ++
              [{ status := 0, cls := 1, src := BitVec.ofNat 32 (0x80000000 + m.src), len := m.len, next := 0, body := m.body }])
          ∧ (st ≠ 0 → t.backs = s.backs ++ [{ m with status := st }] ∧ t.cores = s.cores)))
     ∧ (∀ (s : State) (k : Nat) (m : Msg), s.backs[k]? = some m → s.msgHeld m.dst m.src = false →
       ∃ t, Sys2Proof.Machine.exec (.messageReturn k) s = .next t ∧ t.backs = s.backs.eraseIdx k
         ∧ (t.core m.src).mbox = (s.core m.src).mbox ++
             [{ status := m.status, cls := 2, src := m.handle, len := m.len, next := 0, body := m.body }]
         ∧ (t.core m.src).sent = (s.core m.src).sent - 1 ∧ (t.core m.src).resv = (s.core m.src).resv.erase m.len
         ∧ SameMemory s t ∧ SameContexts s t)
     ∧ (∀ (s : State) (k : Nat) (m : Msg), s.accs[k]? = some m → s.msgHeld m.dst m.src = false →
       ∃ t, Sys2Proof.Machine.exec (.messageAcceptNotice k) s = .next t ∧ t.accs = s.accs.eraseIdx k
         ∧ (t.core m.src).mbox = (s.core m.src).mbox ∧ (t.core m.src).sent = (s.core m.src).sent - 1
         ∧ (t.core m.src).resv = (s.core m.src).resv.erase m.len ∧ SameMemory s t ∧ SameContexts s t)
     ∧ (∀ (s : State) (k : Nat) (w : Post), s.posts[k]? = some w →
       firstOf s.posts k (fun v => v.sup == w.sup && v.dst == w.dst) = true →
       (w.sup = true → mailRoom (s.supBox w.dst) [] w.entry.len = true →
         ∃ t, Sys2Proof.Machine.exec (.mailboxDeferredPost k) s = .next t ∧ t.posts = s.posts.eraseIdx k
           ∧ t.supBox w.dst = s.supBox w.dst ++ [w.entry] ∧ t.cores = s.cores ∧ SameMemory s t)
       ∧ (w.sup = false → (s.core w.dst).room w.entry.len = true →
         ∃ t, Sys2Proof.Machine.exec (.mailboxDeferredPost k) s = .next t ∧ t.posts = s.posts.eraseIdx k
           ∧ (t.core w.dst).mbox = (s.core w.dst).mbox ++ [w.entry] ∧ SameMemory s t ∧ SameContexts s t)))
  ∧ (∀ (s : State) (k : Nat) (l : LinkWord), s.links[k]? = some l →
     (∀ x ∈ s.links.take k, ¬ (x.dst = l.dst ∧ x.west = l.west)) →
     (if l.west then (s.core l.dst).west.length else (s.core l.dst).east.length) < 4 →
     ∃ t, Sys2Proof.Machine.exec (.linkWordArrival k) s = .next t ∧ t.links = s.links.eraseIdx k
       ∧ (l.west = true → (t.core l.dst).west = (s.core l.dst).west ++ [l.word] ∧ (t.core l.dst).east = (s.core l.dst).east)
       ∧ (l.west = false → (t.core l.dst).east = (s.core l.dst).east ++ [l.word] ∧ (t.core l.dst).west = (s.core l.dst).west)
       ∧ (∀ q, q ≠ l.dst → t.core q = s.core q) ∧ SameMemory s t ∧ SameContexts s t)

/-- A pending result arrives (R146, R180, R330). The result fills the register it was issued to, its ring entry ends and
it is due no more; the fault of a pending vector access instead marks its ring entry as faulted and changes no
register. Where the spec leaves a point open it states the choice of the model (log entry 11). -/
def Obligations.ResultDelivery : Prop :=
  ∀ (s : State) (p id : Nat) (d : Delivery), (s.core p).due.find? (fun x => x.id == id) = some d →
    (∀ v, d.value = some v → ∃ t, Sys2Proof.Machine.exec (.resultDelivery p id) s = .next t
      ∧ (t.core p).due = (s.core p).due.filter (fun x => x.id != d.id)
      ∧ (∀ n, d.dest = some (n + 32) → n < 16 → ((t.core p).context d.ctx).vreg n = v)
      ∧ (∀ n, d.dest ≠ some (n + 32) → ((t.core p).context d.ctx).vreg n = ((s.core p).context d.ctx).vreg n)
      ∧ (∀ n, d.dest = some n → 1 ≤ n → n < 32 → ((t.core p).context d.ctx).sreg n = lane0 v)
      ∧ (∀ n, d.dest ≠ some n → ((t.core p).context d.ctx).sreg n = ((s.core p).context d.ctx).sreg n)
      ∧ (∀ k, d.ring = some k → mfind (t.core p).ring k = none)
      ∧ (∀ k, k ≠ d.ctx → (t.core p).context k = (s.core p).context k) ∧ SameMemory s t)
    ∧ (∀ k r, d.value = none → d.ring = some k → mfind (s.core p).ring k = some r →
      ∃ t, Sys2Proof.Machine.exec (.resultDelivery p id) s = .next t ∧ mfind (t.core p).ring k = some { r with st := 2 }
        ∧ SameMemory s t ∧ SameContexts s t)

/-- Requests, walks and answers of the global network (R57, R61, R63, R64, R66). A request that no earlier one of its
core overlaps, or precedes on its lane to the other die, reaches its slice: one with a translation is served there,
one without waits for a walk, one of the 8 of its station, after which it is served; the answer reaches the access
in flight that asked for it and no other; XLAT.INV removes every translation of the partition that it names from
every slice, and completes once no walk it names is under way; a line of a window that a PWLD has missed is filled
from its backing store. Where the spec leaves a point open it states the choice of the model (log entries 21, 22,
34, 55, 62). -/
def Obligations.GlobalAccessSteps : Prop :=
  (∀ (s : State) (k : Nat) (r : GReq), s.greqs[k]? = some r → firstOf s.greqs k (fun x => r.meets x || s.sameLane x r) = true →
      s.reqHeld r = false → s.walks.any r.meets = false →
      (s.misses r = true → ∃ t, Sys2Proof.Machine.exec (.globalRequestArrival k) s = .next t
        ∧ t = { s with greqs := s.greqs.eraseIdx k, walks := s.walks ++ [r] })
      ∧ (∀ v u, s.misses r = false → r.posted = false → ({ s with greqs := s.greqs.eraseIdx k }).serve r = .ok (v, u) →
        ∃ t, Sys2Proof.Machine.exec (.globalRequestArrival k) s = .next t
          ∧ t = { u with gresps := u.gresps ++ [{ req := r, fault := 0, value := BitVec.ofNat 512 v }] }))
    ∧ (∀ (s u : State) (k v : Nat) (r : GReq), s.walks[k]? = some r → s.walking k r = true → firstOf s.walks k r.meets = true →
      (∀ j x, s.walks[j]? = some x → j ≠ k → x.walkKey ≠ r.walkKey) → r.posted = false →
      s.reqHeld r = false → s.serve r = .ok (v, u) →
      ∃ t, Sys2Proof.Machine.exec (.translationWalk k) s = .next t
        ∧ t = { u with gresps := u.gresps ++ [{ req := r, fault := 0, value := BitVec.ofNat 512 v }],
                       walks := s.walks.filter (fun x => x.walkKey != r.walkKey) })
    ∧ (∀ (s : State) (k : Nat) (a : GResp), s.gresps[k]? = some a → s.respHeld a.req = false →
      ∃ t, Sys2Proof.Machine.exec (.globalResponse k) s = .next t ∧ t.gresps = s.gresps.eraseIdx k
        ∧ ((s.core a.req.core).flight = some a.req.id → (t.core a.req.core).answer = some (a.fault, a.value))
        ∧ ((s.core a.req.core).flight ≠ some a.req.id → (t.core a.req.core).answer = (s.core a.req.core).answer)
        ∧ SameMemory s t ∧ SameContexts s t)
    ∧ (∀ (s : State) (p q : Nat) (v : Word), (s.core p).xlat = some (v, 0) → s.partOf p = some q →
      ∃ t, Sys2Proof.Machine.exec (.xlatInv p) s = .next t ∧ (t.core p).xlat = some (v, 1)
        ∧ (∀ z, (t.slice z).tlb = (s.slice z).tlb.filter (fun x => !(invHits q v x))) ∧ SameMemory s t ∧ SameContexts s t)
    ∧ (∀ (s : State) (p : Nat) (v : Word), (s.core p).xlat = some (v, 1) → s.walks.any (s.walkMeets p v) = false →
      ∃ t, Sys2Proof.Machine.exec (.xlatInvDone p) s = .next t ∧ (t.core p).xlat = some (v, 2) ∧ SameMemory s t
        ∧ SameContexts s t)
    ∧ (∀ (s u : State) (p w off q base size : Nat) (l : Launch), s.launchOf p = some (q, l) →
      mfind l.wins w = some (base, size) → off < size →
      (s.core p).wmiss = some (l.cid, (base + off) % 2 ^ 64 / 64 * 64, false) →
      (s.cluster (clusterOf p)).wline l.cid ((base + off) % 2 ^ 64) = none →
      s.fillLine p q l.cid ((base + off) % 2 ^ 64) = .ok u →
      ∃ t, Sys2Proof.Machine.exec (.windowCacheFill p w off) s = .next t
        ∧ t = u.modCore p (fun c => { c with wmiss := none })
        ∧ ∃ x ∈ (t.cluster (clusterOf p)).wcache, x.cid = l.cid ∧ x.va = (base + off) % 2 ^ 64 / 64 * 64)

/-- Trap messages travel west, merge, and reach a supervisor core (R331, R332); a flit that fails its CRC holds its lane
(R383). A trap message that meets an equal one merges with it: one message with the maps of both, and agent 15;
otherwise it moves one column west, and from column 0 into its row's collector while that holds fewer than 32; the
oldest message of a collector enters the mailbox of the die's supervisor core (row mod 4) as a 32-byte event.
SAHDAN_CRC_REPLAY of a row lane on which no flit waits makes it hold one; of a lane that holds, a flit is sent again
and the lane holds one fewer; no other lane and nothing else changes, and a message that crosses on a lane that
holds does not arrive. Where the spec leaves a point open it states the choice of the model (log entries 55, 75). -/
def Obligations.TrapMessageSteps : Prop :=
  (∀ (s : State) (k : Nat) (m : TrapMsg), s.traps[k]? = some m →
      firstSuch s.traps.length (fun j => j != k && (s.traps.getD j m).same m) = none →
      (0 < m.col → ∃ t, Sys2Proof.Machine.exec (.trapMessageHop k) s = .next t
        ∧ t = { s with traps := s.traps.set k { m with col := m.col - 1 } })
      ∧ (m.col = 0 → (mget [] (s.die m.die).coll m.row).length < 32 →
        firstOf s.traps k (fun x => x.die == m.die && x.row == m.row && x.col == 0) = true →
        ∃ t, Sys2Proof.Machine.exec (.trapMessageHop k) s = .next t ∧ t.traps = s.traps.eraseIdx k
          ∧ mget [] (t.die m.die).coll m.row = mget [] (s.die m.die).coll m.row ++ [m] ∧ t.cores = s.cores))
    ∧ (∀ (s : State) (k j : Nat) (m x : TrapMsg), s.traps[k]? = some m → s.traps[j]? = some x →
      firstSuch s.traps.length (fun j => j != k && (s.traps.getD j m).same m) = some j →
      ∃ t, Sys2Proof.Machine.exec (.trapMessageHop k) s = .next t ∧ t.traps.length + 1 = s.traps.length
        ∧ { x with map := x.map ||| m.map, agent := 15 } ∈ t.traps ∧ t.cores = s.cores)
    ∧ (∀ (s : State) (die row : Nat) (m : TrapMsg) (rest : List TrapMsg), die < 2 → mget [] (s.die die).coll row = m :: rest →
      mailRoom (s.supBox (die * 4 + row % 4)) [] 32 = true →
      ∃ t, Sys2Proof.Machine.exec (.collectorPost die row) s = .next t ∧ mget [] (t.die die).coll row = rest
        ∧ t.supBox (die * 4 + row % 4) = s.supBox (die * 4 + row % 4) ++
            [{ status := 0, cls := 0, src := 0, len := 32, next := 0, body := BitVec.ofNat 512 m.flit }]
        ∧ t.cores = s.cores)
    ∧ (∀ (s : State) (lane : Nat), ∃ t, Sys2Proof.Machine.exec (.sahdanCrcReplay lane) s = .next t
      ∧ { t with replays := s.replays } = s
      ∧ mget 0 t.replays lane = (if mget 0 s.replays lane = 0 then 1 else mget 0 s.replays lane - 1)
      ∧ ∀ x, x ≠ lane → mget 0 t.replays x = mget 0 s.replays x)
    ∧ (∀ (s : State) (k : Nat) (m : Msg), s.msgs[k]? = some m → dieOf m.src ≠ dieOf m.dst → mget 0 s.replays (siteOf m.src / 16) ≠ 0 →
      Sys2Proof.Machine.exec (.messageArrival k) s = .next s)

/-- Heartbeats and dead cores (R12, R362); paired operations match or fail (R365 to R367). A core that is neither
poisoned nor dead nor fused off beats once 4,096 cycles have passed since its last heartbeat; the end of an assigned
core's window clears the miss count after a heartbeat, counts a first miss of a poisoned core, and at the second in
succession declares it dead, while its memory stays. When the second copy of a paired operation reaches its router
and both agree, the primary's operation is performed once and its number has matched on both twins: a message is
sent once; when they differ, or the other copy has not come for 4,096 cycles, the pair fails: where no repeat is
under way and a rollback is possible, every core of both units has its memory restored from its log, the registers,
window, masks, loops, REP state, CTX.TSW and byte barriers of its snapshot, an empty FIFO and its numbers from 1
again, the launch gets HASH and at least CORRECTED, and the supervisor STATUS 0; a failure in the repeat, or a
rollback that is impossible, leaves memory and contexts, counts the number as matched on both twins, gives the
launch HASH (with NOROLL where it is impossible) and at least TAINTED, and the supervisor STATUS 1 or 2. Where the
spec leaves a point open it states the choice of the model (log entries 53, 54). -/
def Obligations.HeartbeatSteps : Prop :=
  (∀ (s : State) (p : Nat),
     let c := s.core p
     let now := (s.die (dieOf p)).cyc
     let win := BitVec.ofNat 64 ((now.toNat - 64) / 4096 * 4096)
     (c.poisoned = false → c.dead = false → s.fusedOff p = false → 4096 ≤ (now - c.hbCyc).toNat →
       ∃ t, Sys2Proof.Machine.exec (.heartbeat p) s = .next t ∧ (t.core p).hbSeen = true ∧ (t.core p).hbCyc = now
         ∧ (t.core p).hbTime = s.time ∧ SameMemory s t ∧ SameContexts s t)
     ∧ (c.lpid ≠ none → c.dead = false → c.hbWin.toNat < win.toNat →
       (c.hbSeen = true → ∃ t, Sys2Proof.Machine.exec (.heartbeatWindowEnd p) s = .next t ∧ (t.core p).hbSeen = false
         ∧ (t.core p).hbMiss = 0 ∧ (t.core p).hbWin = win ∧ (t.core p).dead = false ∧ SameContexts s t)
       ∧ (c.hbSeen = false → c.poisoned = true → c.hbMiss = 0 →
         ∃ t, Sys2Proof.Machine.exec (.heartbeatWindowEnd p) s = .next t ∧ (t.core p).hbMiss = 1 ∧ (t.core p).dead = false
           ∧ SameContexts s t)
       ∧ (c.hbSeen = false → c.poisoned = true → c.hbMiss ≠ 0 → 8256 ≤ (now - c.hbCyc).toNat →
         ∃ t, Sys2Proof.Machine.exec (.heartbeatWindowEnd p) s = .next t ∧ (t.core p).dead = true
           ∧ (t.core p).mem = c.mem)))
  ∧ (let failed (s t : State) (w : Paired) : Prop :=
      let again := (s.core w.core).repeating
      let st := if again then 1 else if s.noRollback w then 2 else 0
      (st = 0 → ∀ p ∈ s.pairCores w, ∀ x, (s.core p).snap = some x →
        (let c := t.core p
         c.mem = (s.core p).ulog.foldl (fun m l => bwrite m (l.line * 64) 64 l.old.toNat) (s.core p).mem ∧ c.ulog = []
           ∧ c.ctl.pc = x.ctl.pc ∧ c.ctl.win = x.ctl.win ∧ c.ctl.tsw = x.ctl.tsw ∧ c.ctl.rep = x.ctl.rep ∧ c.ctl.gen = x.ctl.gen
           ∧ (∀ n, c.ctl.sreg n = x.ctl.sreg n ∧ c.ctl.vreg n = x.ctl.vreg n ∧ c.ctl.kreg n = x.ctl.kreg n)
           ∧ (c.ctl.j, c.ctl.ls, c.ctl.le, c.ctl.lc) = (x.ctl.j, x.ctl.ls, x.ctl.le, x.ctl.lc) ∧ c.bb = x.bb
           ∧ c.fifo = [] ∧ c.pairNo = 1 ∧ c.repeating = true))
      ∧ (st ≠ 0 → (∀ p, p = w.core ∨ p = w.twin → (mfind (t.core p).matched w.no).isSome = true) ∧ SameMemory s t ∧ SameContexts s t)
      ∧ (∀ q l, s.launchOf w.core = some (q, l) →
        (t.part q).launches = (s.part q).launches.map (fun x => if x.serial = l.serial
            then { x with cause := x.cause ||| (if st = 2 then 12 else 4), verd := max x.verd (if st = 0 then 1 else 2) } else x)
          ∧ (mailRoom (s.supBox (s.supOf q)) [] 16 = true → (∀ x ∈ s.posts, x.sup = false ∨ x.dst ≠ s.supOf q) →
            t.supBox (s.supOf q) = s.supBox (s.supOf q) ++
              [eventEntry 16 (0x0E + st * 2 ^ 8 + l.lid * 2 ^ 16 + s.lp w.core * 2 ^ 32 + w.no % 2 ^ 32 * 2 ^ 64)]))
    (∀ (s : State) (k : Nat) (a b : Paired), s.paired[k]? = some a → s.paired.find? a.mates = some b →
       (∀ m, a.what = b.what → (if a.sender = a.core then a else b).act = .msg m →
         ∃ t, Sys2Proof.Machine.exec (.pairedOpArrival k) s = .next t ∧ t.msgs = s.msgs ++ [m]
           ∧ t.paired = s.paired.filter (fun w => w != a && w != b)
           ∧ mfind (t.core a.sender).matched a.no = some none ∧ mfind (t.core b.sender).matched b.no = some none
           ∧ SameMemory s t ∧ SameContexts s t)
       ∧ (a.what ≠ b.what → ∃ t, Sys2Proof.Machine.exec (.pairedOpArrival k) s = .next t ∧ failed s t a))
     ∧ (∀ (s : State) (k : Nat) (a : Paired), s.paired[k]? = some a → s.paired.find? a.mates = none →
       4096 ≤ ((s.die (dieOf a.sender)).cyc - a.sent).toNat →
       ∃ t, Sys2Proof.Machine.exec (.pairedOpTimeout k) s = .next t ∧ failed s t a))

/-- A matrix command starts and ends; a tile is zeroed or drained to cluster memory (R220 to R224). MATRIX_COMMAND_START
takes the head of the queue that the weighted round robin picks: a command that nothing fails starts and leaves its
queue; MATRIX_COMMAND_COMPLETE of a started command that no earlier one blocks, and whose data have not still to be
compared with a twin's, runs it, pushes its completion element with STATUS 0 and the flags, and frees its ring
entry: a MACZ leaves its tile all zero, and a drain to programs' cluster memory, of a core without a twin and with
no error mark, writes there the rows and scale bytes that its tile and format give, in their order and nothing else,
and with its zeroing option leaves the drained rows zero. A command that has failed at its start pushes its status,
keeps its ring entry as faulted, and changes no bank, accumulator or memory. Where the spec leaves a point open it
states the choice of the model (log entries 57, 58, 60, 78). -/
def Obligations.MatrixSteps : Prop :=
  (∀ (s : State) (cl i n : Nat) (m : MatCmd) (rest : List MatCmd), s.nextQueue cl = some (i, n) →
      (s.core (coreAt cl i)).mq = m :: rest → m.kind ≠ 4 → m.kind ≠ 6 → m.range ≠ none →
      (let u := s.modCore (coreAt cl i) (fun c => { c with mq := rest })
       let f := mget (0 : VWord) (s.cluster cl).fmts i
       u.startFail cl f m = none →
       ∃ t, Sys2Proof.Machine.exec (.matrixCommandStart cl) s = .next t ∧ (t.core (coreAt cl i)).mq = rest
         ∧ (t.cluster cl).runs = (s.cluster cl).runs ++ [{ cidx := i, cmd := m, status := 0, fmt := f, ended := none }]
         ∧ (t.cluster cl).mrr = (i, n) ∧ (t.cluster cl).banks = (s.cluster cl).banks
         ∧ (t.cluster cl).tiles = (s.cluster cl).tiles ∧ SameMemory s t ∧ SameContexts s t))
    ∧ (∀ (s u : State) (cl k : Nat) (r : MatRun) (o v : Bool), (s.cluster cl).runs[k]? = some r →
      (∀ q ∈ (s.cluster cl).runs.take k, q.conflicts r = false) → r.ended = none → s.matStep cl r = .go →
      (s.modCluster cl (fun c => { c with runs := c.runs.eraseIdx k })).runMatrix cl r = (none, o, v, u) →
      (u.core (coreAt cl r.cidx)).poisoned = false →
      ∃ t, Sys2Proof.Machine.exec (.matrixCommandComplete cl k) s = .next t
        ∧ (t.core (coreAt cl r.cidx)).cq = (u.core (coreAt cl r.cidx)).cq ++ [BitVec.ofNat 64 (r.cmd.w2.toNat % 2 ^ 32
            + r.cmd.kind * 2 ^ 40 + v.toNat * 2 ^ 44 + o.toNat * 2 ^ 45)]
        ∧ mfind (t.core (coreAt cl r.cidx)).ring r.cmd.ring = none ∧ t.clusters = u.clusters ∧ SameMemory u t)
    ∧ (∀ (s : State) (cl k : Nat) (r : MatRun), (s.cluster cl).runs[k]? = some r →
      (∀ q ∈ (s.cluster cl).runs.take k, q.conflicts r = false) → r.ended = none → r.status = 0 → r.cmd.kind = 3 →
      ∃ t, Sys2Proof.Machine.exec (.matrixCommandComplete cl k) s = .next t
        ∧ (∀ i j, tileAt (mget ([] : Tile) (t.cluster cl).tiles r.cmd.tile) i j = 0)
        ∧ (∀ x, x ≠ r.cmd.tile → mfind (t.cluster cl).tiles x = mfind (s.cluster cl).tiles x)
        ∧ (t.cluster cl).runs = (s.cluster cl).runs.eraseIdx k)
    ∧ (∀ (s : State) (cl k : Nat) (r : MatRun), (s.cluster cl).runs[k]? = some r →
      (∀ q ∈ (s.cluster cl).runs.take k, q.conflicts r = false) → r.ended = none → r.status = 0 → r.cmd.kind = 2 →
      r.cmd.pair = none → r.cmd.drop = false → s.errs = [] →
      (∀ x ∈ s.drained cl r.fmt r.cmd, inPrograms x.1 x.2.1 = true) →
      ∃ t, Sys2Proof.Machine.exec (.matrixCommandComplete cl k) s = .next t
        ∧ (t.cluster cl).mem = (s.drained cl r.fmt r.cmd).foldl (fun m x => bwrite m x.1 x.2.1 x.2.2) (s.cluster cl).mem
        ∧ (∀ c, c ≠ cl → t.cluster c = s.cluster c) ∧ (∀ p, (t.core p).mem = (s.core p).mem) ∧ t.phys = s.phys
        ∧ (∀ i j, j < 64 → tileAt (mget ([] : Tile) (t.cluster cl).tiles r.cmd.tile) i j =
            if r.cmd.opt = true ∧ i < r.cmd.rows then 0 else tileAt (mget ([] : Tile) (s.cluster cl).tiles r.cmd.tile) i j))
    ∧ (∀ (s : State) (cl k : Nat) (r : MatRun) (g : RingEntry), (s.cluster cl).runs[k]? = some r →
      (∀ q ∈ (s.cluster cl).runs.take k, q.conflicts r = false) → r.ended = none → 1 ≤ r.status → r.status ≤ 4 →
      mfind (s.core (coreAt cl r.cidx)).ring r.cmd.ring = some g → (s.core (coreAt cl r.cidx)).poisoned = false →
      ∃ t y, Sys2Proof.Machine.exec (.matrixCommandComplete cl k) s = .next t
        ∧ (t.core (coreAt cl r.cidx)).cq = (s.core (coreAt cl r.cidx)).cq ++ [BitVec.ofNat 64 (r.cmd.w2.toNat % 2 ^ 32
            + r.status * 2 ^ 32 + r.cmd.kind * 2 ^ 40)]
        ∧ mfind (t.core (coreAt cl r.cidx)).ring r.cmd.ring = some y ∧ y.st = 2 ∧ y.cls = 0x0E ∧ y.sub = r.status
        ∧ (t.cluster cl).banks = (s.cluster cl).banks ∧ (t.cluster cl).tiles = (s.cluster cl).tiles ∧ SameMemory s t)

/-- The rule engine serves its commands (R230, R236, R255, R257, R258, R264). A block of an RLUPD that nothing holds is
updated once and counted, and the update completes, with status, counts and the version of the image, when every
block is served; a record whose OP names no command completes with ILLFORM; RLTAPE, RLREV and RDREG complete with
their status and count, and with the status that record and slot alone give, without any effect, when that is not
OK. Where the spec leaves a point open it states the choice of the model (log entries 63, 64, 107). -/
def Obligations.RuleEngineSteps : Prop :=
  (∀ (s u : State) (k blk fb cl z m : Nat) (c : RuleCmd), s.cmdBy k = some c → c.op = 1 → c.held = false → c.gated = false →
      c.posted = false → s.rulePre c = 0 → blk < c.nb → blk ∉ c.done → s.updateBefore c (blockVa c.w1 c.w2 blk) = false →
      s.updateBlock c (blockVa c.w1 c.w2 blk) = .ok (u, fb, cl, z, m) →
      ∃ t, Sys2Proof.Machine.exec (.reuUpdate k blk) s = .next t ∧ t = u.modCmd k (fun d => { { d with done := blk :: d.done } with
        sums := (d.sums.1 + 1, d.sums.2.1 + fb, d.sums.2.2.1 + cl, d.sums.2.2.2.1 + z, d.sums.2.2.2.2 + m) }))
    ∧ (∀ (s : State) (k : Nat) (c : RuleCmd), s.cmdBy k = some c → c.op = 1 → c.posted = false → c.held = false →
      s.rulePre c = 0 → (c.gated = true ∨ c.done.length = c.nb) → c.sums.2.1 ≤ (ruleOf (s.boundImage c)).dlim →
      s.postable c.core c.id 32 →
      ∃ t, Sys2Proof.Machine.exec (.ruleUpdateCompletion k) s = .next t
        ∧ s.ended c.core c.id (updateDone c (lowStatus c.status (if c.gated then 6 else 0)) (imageVer (s.boundImage c))) t)
    ∧ (∀ (s : State) (k : Nat) (c : RuleCmd), s.cmdBy k = some c → c.op ∉ [1, 2, 3, 0x10, 0x12, 0x14] → c.posted = false →
      s.postable c.core c.id 32 →
      ∃ t, Sys2Proof.Machine.exec (.ruleInvalidOp k) s = .next t ∧ s.ended c.core c.id
        (eventEntry 32 (2 + 2 ^ 8 + c.w0.toNat % 2 ^ 32 * 2 ^ 32)) t)
    ∧ (∀ (s : State) (k : Nat) (c : RuleCmd), s.cmdBy k = some c → c.posted = false →
      (c.op = 2 → (s.makeTape c).2.postable c.core c.id 16 → ∃ t, Sys2Proof.Machine.exec (.rltapeCompletion k) s = .next t
        ∧ (s.makeTape c).2.ended c.core c.id (shortDone 4 (s.makeTape c).1 0 c.slot c.tag (c.w3.toNat % 512)) t)
      ∧ (c.op = 3 → (s.reverse c).2.2.postable c.core c.id 16 → ∃ t, Sys2Proof.Machine.exec (.rlrevCompletion k) s = .next t
        ∧ (s.reverse c).2.2.ended c.core c.id (shortDone 5 (s.reverse c).1 0 c.slot c.tag (s.reverse c).2.1) t)
      ∧ (s.rulePre c ≠ 0 → s.postable c.core c.id 16 →
        (c.op = 2 → ∃ t, Sys2Proof.Machine.exec (.rltapeCompletion k) s = .next t
          ∧ s.ended c.core c.id (shortDone 4 (s.rulePre c) 0 c.slot c.tag (c.w3.toNat % 512)) t)
        ∧ (c.op = 3 → ∃ t, Sys2Proof.Machine.exec (.rlrevCompletion k) s = .next t
          ∧ s.ended c.core c.id (shortDone 5 (s.rulePre c) 0 c.slot c.tag 0) t))
      ∧ (∀ key, c.op = 0x10 → c.regBad = false → (s.part c.part).key = some key →
        (s.regBlocks c key (upTo c.nb)).2.2.postable c.core c.id 16 →
        ∃ t, Sys2Proof.Machine.exec (.rdregCompletion k) s = .next t ∧ (s.regBlocks c key (upTo c.nb)).2.2.ended c.core c.id
          (shortDone 6 (s.regBlocks c key (upTo c.nb)).1 0 0 c.tag (s.regBlocks c key (upTo c.nb)).2.1) t)
      ∧ (c.op = 0x10 → c.regBad = false → (s.part c.part).key = none → c.on = true → s.postable c.core c.id 16 →
        ∃ t, Sys2Proof.Machine.exec (.rdregCompletion k) s = .next t ∧ s.ended c.core c.id (shortDone 6 3 0 0 c.tag 0) t)
      ∧ (c.op = 0x10 → c.regBad = false → (s.part c.part).key = none → c.on = false →
        (s.regBlocks c (0, 0) (upTo c.nb)).2.2.postable c.core c.id 16 →
        ∃ t, Sys2Proof.Machine.exec (.rdregCompletion k) s = .next t ∧ (s.regBlocks c (0, 0) (upTo c.nb)).2.2.ended c.core c.id
          (shortDone 6 (s.regBlocks c (0, 0) (upTo c.nb)).1 0 0 c.tag (s.regBlocks c (0, 0) (upTo c.nb)).2.1) t)
      ∧ (c.op = 0x10 → c.regBad = true → s.postable c.core c.id 16 →
        ∃ t, Sys2Proof.Machine.exec (.rdregCompletion k) s = .next t ∧ s.ended c.core c.id (shortDone 6 1 0 0 c.tag 0) t))

/-- Digest comparison and collectives between replicas (R266 to R268, R348, R349, R357). RDCMP takes the partition's
digest once every earlier command of the partition has written back; when it ends its completion fills the room
reserved for it, or the spill buffer of a context that has been saved; the command is over, the gate is shut exactly
when the status is 2 or more, and a divergence is noted for its context while its group runs, or with the saved
context; one whose bytes 32 to 63 are not zero ends with STATUS 1 and leaves the gate; a collective whose members
have all sent their parts writes the elements that its kind gives, and completes; one that ends with PEERABORT or
NETERR shuts the gate. Where the spec leaves a point open it states the choice of the model (log entries 40, 66,
67). -/
def Obligations.ReplicaSteps : Prop :=
  (∀ (s : State) (k : Nat) (c : RuleCmd), s.cmdBy k = some c → c.op = 0x12 → c.posted = false → c.bad = false → c.taken = none →
      (∀ d ∈ s.cmds, d.part = c.part → d.id < c.id → s.mustWrite d = false) →
      ∃ t, Sys2Proof.Machine.exec (.rdcmpEnd k) s = .next t ∧ t.cmds = s.cmds.map (fun d =>
        if d.id = k then { d with taken := some (s.digest c.part) } else d) ∧ t.cores = s.cores ∧ SameMemory s t)
    ∧ (∀ (s : State) (k st map : Nat) (c : RuleCmd) (own d : BitVec 128), s.cmdBy k = some c → c.op = 0x12 → c.posted = false →
      c.bad = false → c.taken = some own → s.compared c own = some (st, map, d) → s.silent c.core = false →
      (let e := eventEntry 32 (8 + st * 2 ^ 8 + (c.n - 1) * 2 ^ 16 + c.rank * 2 ^ 24 + c.tag * 2 ^ 32
              + map % 2 ^ 64 * 2 ^ 64 + d.toNat * 2 ^ 128)
       ∃ t, Sys2Proof.Machine.exec (.rdcmpEnd k) s = .next t ∧ (∀ x ∈ t.cmds, x.id ≠ k)
        ∧ (t.part c.part).shut = decide (2 ≤ st) ∧ (t.part c.part).lastStep = (c.high, st == 0)
        ∧ (c.spill = none → (t.core c.core).mbox = (s.core c.core).mbox ++ [e]
          ∧ (t.core c.core).resv = (s.core c.core).resv.erase 32
          ∧ (t.core c.core).diverge = (s.core c.core).diverge ++
              (if (st = 2 ∨ st = 3) ∧ (s.core c.core).group.map (fun g => (g.launch, g.index)) = c.grp
                then [(c.ctx, st, BitVec.ofNat 32 c.tag)] else [])
          ∧ SameMemory s t ∧ SameContexts s t)
        ∧ (∀ no base, c.spill = some (no, base) →
          let ws := (s.core c.core).spillItem base e
          s.piecesBad c.core (base + 0x1000) ws = false →
          (t.core c.core).mbox = (s.core c.core).mbox
          ∧ (t.core c.core).mem = ((s.putPieces c.core (base + 0x1000) ws).core c.core).mem
          ∧ t.saves = s.saves.map (fun i => if i.no = no
              then { i with area := areaCells (t.core c.core).mem base
                            diverge := i.diverge ++ (if st = 2 ∨ st = 3 then [(c.ctx, st, BitVec.ofNat 32 c.tag)] else []) } else i)
          ∧ SameContexts s t)))
    ∧ (∀ (s : State) (k : Nat) (c : RuleCmd), s.cmdBy k = some c → c.op = 0x12 → c.posted = false → c.bad = true →
      c.spill = none → s.silent c.core = false →
      ∃ t, Sys2Proof.Machine.exec (.rdcmpEnd k) s = .next t ∧ (∀ x ∈ t.cmds, x.id ≠ k)
        ∧ (t.core c.core).mbox = (s.core c.core).mbox ++
            [eventEntry 32 (8 + 2 ^ 8 + (c.n - 1) * 2 ^ 16 + c.rank * 2 ^ 24 + c.tag * 2 ^ 32)]
        ∧ (∀ q, (t.part q).shut = (s.part q).shut ∧ (t.part q).lastStep = (s.part q).lastStep)
        ∧ (t.core c.core).diverge = (s.core c.core).diverge ∧ SameMemory s t ∧ SameContexts s t)
    ∧ (∀ (s u v : State) (k : Nat) (c : RuleCmd) (own : List Nat), s.cmdBy k = some c → c.op = 0x14 → c.posted = false →
      c.ready = false → s.collPre c = 0 → s.gathered c = true → s.readElems c 0 c.high = .ok (own, u) →
      (let all (i : Nat) : List Nat := rankElems c own (s.peersOf c) i
       let done : State := v.modCmd k (fun d => { d with ready := true })
       let put (l : List (Nat × Nat)) : List (Nat × Nat × Nat) := l.map (fun x => (c.w3.toNat + c.elem * x.1, c.elem, x.2))
       (c.ckind = 0 → u.cmdWrites (s.portAgent c) (put ((upTo c.high).map (fun i => (i, rankSum c (all i))))) = .ok v →
         ∃ t, Sys2Proof.Machine.exec (.allReduce k) s = .next t ∧ t = done)
       ∧ (c.ckind = 1 → u.cmdWrites (s.portAgent c) (put ((upTo c.high).filterMap (fun i =>
           ((all i)[i / (c.high / c.n)]?).map (fun x => (i, x))))) = .ok v →
         ∃ t, Sys2Proof.Machine.exec (.allGather k) s = .next t ∧ t = done)
       ∧ (c.ckind = 2 → u.cmdWrites (s.portAgent c) (put (((upTo c.high).filter (fun i => i / (c.high / c.n) == c.rank)).map
           (fun i => (i, rankSum c (all i))))) = .ok v →
         ∃ t, Sys2Proof.Machine.exec (.reduceScatter k) s = .next t ∧ t = done)))
    ∧ (∀ (s : State) (k : Nat) (c : RuleCmd), s.cmdBy k = some c → c.op = 0x14 → c.posted = false →
      (c.ready = true ∨ s.collPre c ≠ 0) → s.postable c.core c.id 16 →
      (let st := if c.ready then c.status else s.collPre c
       ∃ t, Sys2Proof.Machine.exec (.collectiveCompletion k) s = .next t
        ∧ (t.core c.core).mbox = (s.core c.core).mbox ++ [shortDone 7 st (c.n - 1) c.rank c.tag c.high]
        ∧ (∀ x ∈ t.cmds, x.id ≠ c.id) ∧ SameMemory s t ∧ SameContexts s t
        ∧ (st = 4 ∨ st = 5 → (t.part c.part).shut = true)
        ∧ (st ≠ 4 → st ≠ 5 → t.cmds = s.cmds.filter (fun d => d.id != c.id) ∧ t.parts = s.parts)
        ∧ (∀ x ∈ t.peers, x.collKey ≠ c.collKey)))

/-- A barrier is released; a checkpoint is timed, copied and completed (R278, R368 to R371). A channel that can release
drops its arrivals and counts a release on each die that it spans, and from partition level on the undo logs of its
members restart; at device level, where every arrival is a BSTEP, the slots of the partition exchange their banks as
RLSW asked, and the release takes an armed checkpoint, or counts toward one; memory stays unless a checkpoint is
taken; the checkpoint timer arms a checkpoint, or counts a dropped one; a block's image is written to the half by
its slice, and sent in six packets to the peer of its buddy handle; a checkpoint with nothing left to copy, and
nothing of its buddy copy on the way, ends, the halves alternate, and the supervisor is told. Where the spec leaves
a point open it states the choice of the model (log entries 41, 42, 46). -/
def Obligations.BarrierCheckpointSteps : Prop :=
  (∀ (s : State) (ch : Nat), s.canRelease ch = true →
      (let c := s.chan ch
       let ck := (s.part c.part).ckpt
       let boundary : Prop := c.level = 3 ∧ ∀ a ∈ c.arr, a.step = true
       ∃ t, Sys2Proof.Machine.exec (.barrierRelease ch) s = .next t
        ∧ (∀ k ∈ s.spanOf ch, (t.chan k).arr = [] ∧ (t.chan k).rcnt = (s.chan k).rcnt + 1
          ∧ (t.chan k).members = (s.chan k).members)
        ∧ (∀ x, x ∉ s.spanOf ch → t.chan x = s.chan x)
        ∧ (∀ p, (∀ l ∈ (s.chan ch).members, s.physOf (s.chan ch).part l ≠ some p) → t.core p = s.core p)
        ∧ (∀ l ∈ (s.chan ch).members, ∀ p, s.physOf (s.chan ch).part l = some p →
            ((s.chan ch).level = 0 → t.core p = s.core p)
            ∧ (1 ≤ (s.chan ch).level → (t.core p).ulog = [] ∧ (t.core p).ovf = false))
        ∧ SameContexts s t ∧ (¬ (boundary ∧ ck.armed = true ∧ ck.on = true) → SameMemory s t)
        ∧ (¬ boundary → t.parts = s.parts ∧ t.rules = s.rules)
        ∧ (boundary → (∀ n, n < 8 → (s.part c.part).rls.getLsbD n = true → t.rule n =
              (let z := s.rule n
               if z.pend = true then
                 if z.spoiled = true then { z with pend := false, spoiled := false, ref := true }
                 else { z with pend := false, active := !z.active }
               else z))
            ∧ (ck.armed = false → (t.part c.part).ckpt =
                if ck.steps = 0 then ck
                else if ck.steps ≤ ck.count + 1 then
                  (if ck.active = true then { ck with count := 0, dropped := ck.dropped + 1 } else { ck with count := 0, armed := true })
                else { ck with count := ck.count + 1 }))))
    ∧ (∀ (s : State) (q : Nat), (s.part q).ckpt.ticks ≠ 0 → (s.part q).ckpt.armed = false →
      (s.part q).ckpt.ticks ≤ (s.time - (s.part q).ckpt.last).toNat →
      ∃ t, Sys2Proof.Machine.exec (.checkpointTimer q) s = .next t
        ∧ ((s.part q).ckpt.active = false → (t.part q).ckpt = { (s.part q).ckpt with armed := true })
        ∧ ((s.part q).ckpt.active = true → (t.part q).ckpt.dropped = (s.part q).ckpt.dropped + 1
          ∧ (t.part q).ckpt.armed = false ∧ (t.part q).ckpt.last = s.time)
        ∧ t.cores = s.cores ∧ SameMemory s t)
    ∧ (∀ (s u : State) (q b sl : Nat) (m : Mem), mfind (s.part q).ckpt.todo b = some (sl, m) →
      s.ckptPut (ckptAgent sl q (s.part q).ckpt.cid) ((upTo 6).map (fun k =>
        ((s.part q).ckpt.base + 0x10000 + 0x6000 * b + 4096 * k, 4096, bread m (4096 * k) 4096))) = (true, u) →
      ((u.part q).ckpt.buddy = 0 → ∃ t, Sys2Proof.Machine.exec (.checkpointPageCopy q b) s = .next t
        ∧ t = u.modPart q (fun x => { x with ckpt := { x.ckpt with todo := merase x.ckpt.todo b, done := x.ckpt.done + 1 } }))
      ∧ (∀ n z, (u.part q).ckpt.buddy ≠ 0 → u.buddyQueue q = some (n, z) →
        u.portBars (ckptAgent sl q 0).master q (z.port % 8) = none →
        ∃ t, Sys2Proof.Machine.exec (.checkpointPageCopy q b) s = .next t ∧ (t.part q).ckpt.done = (u.part q).ckpt.done + 1
          ∧ t.packets.length = u.packets.length + 6
          ∧ (∀ i, i < 6 → ∃ x ∈ t.packets, x.buddyOf q = true ∧ x.queue = n ∧ x.peer = z.peer
              ∧ x.bytes = breadList m (4096 * i) 4096) ∧ t.cores = u.cores ∧ SameMemory u t))
    ∧ (∀ (s : State) (q : Nat), (s.part q).ckpt.active = true → (s.part q).ckpt.todo = [] →
      s.packets.any (fun x => x.buddyOf q) = false →
      ∃ t, Sys2Proof.Machine.exec (.checkpointComplete q) s = .next t
        ∧ (t.part q).ckpt.active = false ∧ (t.part q).ckpt.half = 1 - (s.part q).ckpt.half
        ∧ (t.part q).ckpt.seq = (s.part q).ckpt.seq + 1 ∧ (t.part q).ckpt.table = [] ∧ SameContexts s t)

/-- A launch is taken in, aged, started and completed (R305, R307, R308, R312 to R314). The distributor takes the record
at HEAD: an acceptable one with room enters the queue, a refused one leaves verdict REFUSED, and HEAD moves on; a
window table is read once; 2^20 eligible cycles age a launch by one level; the next launch starts with its groups
dealt in consecutive shares whose sizes differ by at most one; a group of one core starts with ENTRY as its PC, ARG
in s30, its index in s31, every other scalar register 0 and an empty window, and the first group of a launch on a
cluster empties its window cache; a launch whose groups have all exited leaves the queue with its verdict kept.
Where the spec leaves a point open it states the choice of the model (log entries 34, 44, 47, 88). -/
def Obligations.LaunchSteps : Prop :=
  (∀ (s : State) (q : Nat), (s.part q).stopped = false → (s.part q).head.toNat % 256 ≠ (s.part q).tail.toNat % 256 →
      (let x := s.part q
       let l := newLaunch x.serial (mget [] x.inbox (x.head.toNat % 256)) x.cid 0 true
       (l.privileged = false → s.illFormed q l = false → x.launches.length < 128 → (∀ i, i < 4 → l.predV i = false) →
         ∃ t, Sys2Proof.Machine.exec (.inboxRecordIntake q) s = .next t ∧ (t.part q).head.toNat = (x.head.toNat % 256 + 1) % 256
           ∧ (t.part q).launches = x.launches ++ [{ l with winRead := l.nw == 0 }] ∧ (t.part q).serial = x.serial + 1)
       ∧ (l.privileged = true ∨ s.illFormed q l = true →
         ∃ t, Sys2Proof.Machine.exec (.inboxRecordIntake q) s = .next t ∧ (t.part q).head.toNat = (x.head.toNat % 256 + 1) % 256
           ∧ mget 0 (t.part q).verds l.lid = 3)))
    ∧ (∀ (s u : State) (q lid : Nat) (l : Launch) (m : Map (Nat × Nat)), s.byLid q lid = some l → l.free = true →
      l.winRead = false → s.readWindows l l.nw 0 = .ok (m, u) →
      ∃ t, Sys2Proof.Machine.exec (.windowTableRead q lid) s = .next t
        ∧ t = u.modLaunch q l.serial (fun l => { l with winRead := true, wins := m }))
    ∧ (∀ (s : State) (q lid : Nat) (l : Launch), s.byLid q lid = some l → l.eligible = true → 2 ^ 20 ≤ l.elig →
      ∃ t, Sys2Proof.Machine.exec (.ageingStep q lid) s = .next t
        ∧ t = s.modLaunch q l.serial (fun l => { l with elig := l.elig - 2 ^ 20, aged := l.aged + 1 }))
    ∧ (∀ (s : State) (q : Nat) (l : Launch), s.nextLaunch q = some l → l.flag 0 = false → l.flag 1 = false →
      (∃ t, Sys2Proof.Machine.exec (.launchStart q) s = .next t ∧ (t.part q).starts = (s.part q).starts + 1
        ∧ (t.part q).launches = (s.part q).launches.map (fun x => if x.serial = l.serial then
            { x with started := true, startNo := (s.part q).starts, shares := dealShares l.g (s.units q l.gang), pairs := [] }
            else x)))
    ∧ (∀ (g : Nat) (us : List (List Nat)), us ≠ [] →
      (dealShares g us).length = us.length ∧ (dealShares g us).map (·.unit) = us
        ∧ (∀ h ∈ dealShares g us, h.next + g / us.length ≤ h.stop ∧ h.stop ≤ h.next + g / us.length + 1)
        ∧ (∀ n, n < g → ∃ h ∈ dealShares g us, h.next ≤ n ∧ n < h.stop) ∧ (∀ h ∈ dealShares g us, h.stop ≤ g))
    ∧ (∀ (s : State) (p q lp : Nat) (l : Launch) (h : Share), s.partOf p = some q → (s.core p).lpid = some lp →
      s.nextShare q lp = some (l, h) → h.unit = [lp] → s.physOf q lp = some p → l.gang = 1 → l.pairs = [] →
      (s.core p).group = none → (s.core p).memb = 0 →
      ∃ t, Sys2Proof.Machine.exec (.groupStart p) s = .next t ∧ (t.core p).ctl.run = .ready ∧ (t.core p).ctl.pc = l.word 0
        ∧ (t.core p).ctl.sreg 30 = l.word 6 ∧ (t.core p).ctl.sreg 31 = BitVec.ofNat 64 h.next
        ∧ (∀ n, n ≠ 30 → n ≠ 31 → (t.core p).ctl.sreg n = 0) ∧ (t.core p).ctl.win = Window.empty
        ∧ lvlOf (t.core p).ctl.tsw = 0 ∧ (∃ g, (t.core p).group = some g ∧ g.launch = l.serial ∧ g.index = h.next)
        ∧ (t.core p).exited = false
        ∧ (t.cluster (clusterOf p)).wcache =
            (if (q, l.serial) ∈ (s.cluster (clusterOf p)).begun then (s.cluster (clusterOf p)).wcache else [])
        ∧ (q, l.serial) ∈ (t.cluster (clusterOf p)).begun ∧ SameMemory s t)
    ∧ (∀ (s : State) (q lid : Nat) (l : Launch), s.byLid q lid = some l → l.started = true → l.exits = l.g →
      ∃ t, Sys2Proof.Machine.exec (.launchComplete q lid) s = .next t ∧ mget 0 (t.part q).verds l.lid = l.verd
        ∧ ∀ d ∈ (t.part q).launches, d.serial ≠ l.serial)

/-- Groups make way and come back; compensation starts (R292, R315, R316, R342, R353). A group whose slice has ended, or
that waits, is asked to make way when a launch of a higher level wants its unit, started with a group dealt to it or
eligible; so is one whose counted wait has lasted LIM cycles while any launch wants the unit, otherwise its wait is
not counted again; a group set aside comes back by entering the handler with RESUME, INFO 0 and TRAP.CTX 0; a
runnable compensation entry starts its routine on the lowest free helper, with ARG, the activity and the sequence
number in s1, s2 and s3. Where the spec leaves a point open it states the choice of the model (log entry 37). -/
def Obligations.SwapSteps : Prop :=
  (∀ (s : State) (p q : Nat) (g : GroupRun) (l : Launch), s.runsLaunch p = some (q, g, l) → (s.core p).swapping = false →
      (s.core p).preempt = none → (s.core p).memb = 0 → s.wanted q p l true = true →
      (l.slice ≠ 0 → l.slice ≤ g.ran →
        ∃ t, Sys2Proof.Machine.exec (.sliceExpiry p) s = .next t ∧ (t.core p).swapping = true ∧ (t.core p).preempt = some 1
          ∧ SameMemory s t ∧ SameContexts s t)
      ∧ ((l.slice = 0 ∨ g.ran < l.slice) → (s.core p).ctl.run = .waiting →
        ∃ t, Sys2Proof.Machine.exec (.sliceExpiry p) s = .next t ∧ (t.core p).swapping = true ∧ (t.core p).preempt = some 4
          ∧ SameMemory s t ∧ SameContexts s t))
    ∧ (∀ (s : State) (p q : Nat) (g : GroupRun) (l : Launch), s.runsLaunch p = some (q, g, l) → (s.core p).counted = true →
      (s.core p).noCount = false → (s.core p).swapping = false → (s.core p).preempt = none → (s.core p).memb = 0 →
      (s.core p).twt ≠ 0 → (s.core p).twt.toNat ≤ (s.core p).waited →
      (s.wanted q p l false = true →
        ∃ t, Sys2Proof.Machine.exec (.longWaitExpiry p) s = .next t ∧ (t.core p).swapping = true ∧ (t.core p).preempt = some 3
          ∧ SameMemory s t ∧ SameContexts s t)
      ∧ (s.wanted q p l false = false →
        ∃ t, Sys2Proof.Machine.exec (.longWaitExpiry p) s = .next t ∧ (t.core p).noCount = true ∧ (t.core p).swapping = false
          ∧ SameMemory s t ∧ SameContexts s t))
    ∧ (∀ (s : State) (p q : Nat) (w : Swapped) (rest : List Swapped), s.partOf p = some q → s.swappedCore p = false →
      (s.core p).swaps = w :: rest → w.group.replay = false → (s.core p).group = none → s.idleCore p = true →
      (∀ l ∈ (s.part q).launches, l.serial ≠ w.by') →
      ∃ t, Sys2Proof.Machine.exec (.swapResume p) s = .next t ∧ (t.core p).swaps = rest
        ∧ (t.core p).group = some { w.group with ran := 0 } ∧ (t.core p).handler = some 0 ∧ (t.core p).cause = 0x11
        ∧ (t.core p).info = 0 ∧ (t.core p).epc = 0 ∧ (t.core p).tctx = 0 ∧ (t.core p).ctl.pc = (s.core p).hvec
        ∧ (t.core p).ctl.run = .ready ∧ lvlOf (t.core p).ctl.tsw = 1 ∧ SameMemory s t)
    ∧ (∀ (s : State) (d seq p h : Nat) (e : Chest), (s.die (d % 2)).chestBy seq = some e → s.runnable e = true →
      s.physOf e.part e.lpid = some p → (s.core p).freeHelperNo = some h → (s.core p).poisoned = false →
      (s.core p).dead = false → 1 ≤ h →
      ∃ t, Sys2Proof.Machine.exec (.compensationStart d seq) s = .next t
        ∧ (let x := (t.core p).context h
           x.run = .ready ∧ x.pc = e.pc.setWidth 64 ∧ x.sreg 1 = e.arg ∧ x.sreg 2 = BitVec.ofNat 64 e.id
             ∧ x.sreg 3 = BitVec.ofNat 64 e.seq ∧ x.comp = some seq)
        ∧ (∀ k, k ≠ h → (t.core p).context k = (s.core p).context k) ∧ SameMemory s t)

/-- Entries to the handler that no instruction raises (R322, R330, R333, R334, R342). A pending pre-emption of a core
that is ready for it, in every member of its gang, the first unreported late fault of a core at a boundary, a noted
divergence, and an accepted RESUME message each enter the handler: TRAP.CAUSE holds class and subcause, TRAP.EPC the
boundary's PC (after a reserved code, that of the push that met it; 0 for the control context of a core without a
logical number), the shadow the context's window, and the context goes on at S level at CORE.HVEC; registers and
memory stay. Where the spec leaves a point open it states the choice of the model (log entries 49, 50, 51). -/
def Obligations.HandlerEntrySteps : Prop :=
  let entered (s t : State) (p k cls sub : Nat) (info pc : Word) : Prop :=
    (t.core p).handler = some k ∧ (t.core p).cause = BitVec.ofNat 64 (sub * 256 + cls) ∧ (t.core p).info = info
      ∧ (t.core p).epc = pc &&& ~~~1#64 ∧ (t.core p).shadow.win = ((s.core p).context k).win
      ∧ ((t.core p).context k).pc = (s.core p).hvec ∧ ((t.core p).context k).run = .ready
      ∧ lvlOf ((t.core p).context k).tsw = 1 ∧ ((t.core p).context k).rep = Rep.none
      ∧ (∀ n, ((t.core p).context k).sreg n = ((s.core p).context k).sreg n
          ∧ ((t.core p).context k).vreg n = ((s.core p).context k).vreg n) ∧ SameMemory s t
  (∀ (s : State) (p sub : Nat), (s.core p).preempt = some sub → s.preemptReady p = true →
    ∃ t, Sys2Proof.Machine.exec (.preemptEntry p) s = .next t ∧ entered s t p 0 0x0F sub 0 (s.core p).ctl.pc ∧ (t.core p).preempt = none
      ∧ ∀ r ∈ s.mates p, entered s t r 0 0x0F sub 0 (s.core r).ctl.pc)
  ∧ (∀ (s : State) (p k : Nat) (r : RingEntry), (s.core p).lateFault = some (k, r) → (s.core p).atBoundary 0 = true →
    (s.core p).replay = none → (s.core p).handler = none → (s.core p).memb = 0 →
    ∃ t, Sys2Proof.Machine.exec (.lateFaultEntry p) s = .next t ∧ entered s t p 0 r.cls r.sub r.info (s.core p).ctl.pc
      ∧ (t.core p).tctx.toNat / 2 ^ 20 % 16 = k % 16)
  ∧ (∀ (s : State) (p k sub : Nat) (tag : BitVec 32),
    let now := (s.core p).diverge.filter (fun d => (s.core p).atBoundary d.1)
    (now.find? (fun d => d.1 == 0)).or now.head? = some (k, sub, tag) → (s.core p).saved = false →
    (s.core p).handler = none → (s.core p).memb = 0 →
    ∃ t, Sys2Proof.Machine.exec (.divergeEntry p) s = .next t ∧ entered s t p k 0x10 sub (tag.setWidth 64) ((s.core p).context k).pc
      ∧ (t.core p).diverge =
          ((s.core p).diverge.filter (fun d => ((s.core p).context d.1).run != .free)).erase (k, sub, tag))
  ∧ (∀ (s : State) (n : Nat) (m : Msg), s.msgs[n]? = some m → m.kind = 1 → s.refusal m = 0 → s.inTurn m n = true →
    (m.word 0).getLsbD 8 = false → (s.core m.dst).handler = none →
    (m.target = 0 → (s.core m.dst).lpid = none ∨ ((s.core m.dst).context 0).run = .stopped .noLogical →
      ∃ t, Sys2Proof.Machine.exec (.resumeMessage n) s = .next t ∧ entered s t m.dst 0 0x11 0 (m.word 1) 0 ∧ (t.core m.dst).tctx = 0
        ∧ t.msgs = s.msgs.eraseIdx n ∧ t.accs = s.accs ++ [m])
    ∧ (((s.core m.dst).context m.target).run ≠ .stopped .noLogical → (m.target = 0 → (s.core m.dst).lpid ≠ none) →
    ∃ t, Sys2Proof.Machine.exec (.resumeMessage n) s = .next t ∧ entered s t m.dst m.target 0x11 0 (m.word 1)
      (if ((s.core m.dst).context m.target).run = .stopped .reserved
        then (s.core m.dst).stopPc.getD ((s.core m.dst).context m.target).pc else ((s.core m.dst).context m.target).pc)
      ∧ t.msgs = s.msgs.eraseIdx n ∧ t.accs = s.accs ++ [m]))

/-- CORE.MSB saves and restores a context; firmware's partition writes (R231, R279, R311, R336, R337). OP 1 with an area
outside local memory sets ERR and changes nothing else; with an area inside, nothing outstanding and no error that
its writes meet it empties mailbox, completion queue and links into the area and clears OP; OP 2 on a core whose
queues are empty, with no error in what it reads, takes the shadow's CTX.TSW and the generator from the area, and
sets OVF unless this core saved the context, on one whose queues are not empty it sets ERR; a write of PART.L2P
keeps the entry's fields and numbers no core that is fused off, a write of PART.RLS empties the slots that leave.
Where the spec leaves a point open it states the choice of the model (log entries 38, 40, 44). -/
def Obligations.SaveRestoreSteps : Prop :=
  (∀ (s : State) (p : Nat), (s.core p).msb.toNat % 8 = 1 →
      (msbFits (s.core p).msbBase = false → ∃ t, Sys2Proof.Machine.exec (.msbSave p) s = .next t
        ∧ (t.core p).msb = msbEnd (s.core p).msb true ∧ SameMemory s t ∧ SameContexts s t
        ∧ (t.core p).mbox = (s.core p).mbox)
      ∧ (msbFits (s.core p).msbBase = true → s.saveReady p = true →
        (let base := (s.core p).msbBase
         let u := (s.dropHelperAsm p).spillCmds p base
         let area := u.areaBytes p ++ (u.core p).spillBytes.map (fun x => (0x1000 + x.1, x.2))
         u.piecesBad p base area = false → ∃ t i, Sys2Proof.Machine.exec (.msbSave p) s = .next t
        ∧ (t.core p).msb = msbEnd (s.core p).msb false ∧ (t.core p).mbox = [] ∧ (t.core p).cq = [] ∧ (t.core p).west = []
        ∧ (t.core p).east = [] ∧ (t.core p).saved = true ∧ (t.core p).ctl = (s.core p).ctl
        ∧ (t.core p).mem = ((u.putPieces p base area).core p).mem
        ∧ t.saves = s.saves ++ [i] ∧ i.core = p ∧ i.diverge = (s.core p).diverge ∧ i.queue = (s.core p).queue
        ∧ (∀ q, q ≠ p → t.core q = s.core q))))
    ∧ (∀ (s : State) (p : Nat), (s.core p).msb.toNat % 8 = 2 →
      (let c := s.core p
       let b := c.msbBase
       let empty := c.mbox = [] ∧ c.cq = [] ∧ c.west = [] ∧ c.east = []
       (msbFits b = false ∨ ¬ empty → ∃ t, Sys2Proof.Machine.exec (.msbRestore p) s = .next t
         ∧ (t.core p).msb = msbEnd c.msb true ∧ SameMemory s t ∧ SameContexts s t)
       ∧ (msbFits b = true → empty → (∀ x ∈ s.restoreReads p b, s.hardErr (.loc p) x.1 x.2 = false) →
         ∃ t, Sys2Proof.Machine.exec (.msbRestore p) s = .next t
         ∧ (t.core p).msb = msbEnd c.msb false ∧ (t.core p).saved = false
         ∧ (t.core p).ovf = (c.ovf || !((s.imageAt p b).any (fun i => i.core == p)))
         ∧ (t.core p).shadow.tsw = BitVec.ofNat 64 (bread c.mem b 8) &&& shadowTswMask
         ∧ (t.core p).shadow.gen = (if BitVec.ofNat 64 (bread c.mem (b + 0x458) 8) = 0 then 0x9E3779B97F4A7C15
             else BitVec.ofNat 64 (bread c.mem (b + 0x458) 8))
         ∧ (t.core p).cq.length = min 16 (bread c.mem (b + 0x1000) 8 / 2 ^ 8 % 2 ^ 5) ∧ (t.core p).ctl = c.ctl
         ∧ SameMemory s t)))
    ∧ (∀ (s : State) (q l : Nat) (e : Word), q < 16 → l < 2304 → (s.physOf q l) = none → e.getLsbD 63 = false →
      ∃ t, Sys2Proof.Machine.exec (.l2pRemap q l e) s = .next t ∧ mget 0 (t.part q).l2p l = e &&& 0x1FFF#64 ∧ t.cores = s.cores)
    ∧ (∀ (s : State) (q l : Nat) (e : Word), q < 16 → l < 2304 → (s.physOf q l) = none → e.getLsbD 63 = true →
      s.partOf (e.toNat % 8192) = some q → s.fusedOff (e.toNat % 8192) = false →
      ∃ t, Sys2Proof.Machine.exec (.l2pRemap q l e) s = .next t ∧ t.physOf q l = some (e.toNat % 8192)
        ∧ (t.core (e.toNat % 8192)).lpid = some l ∧ (∀ p, p ≠ e.toNat % 8192 → t.core p = s.core p) ∧ SameMemory s t
        ∧ SameContexts s t)
    ∧ (∀ (s : State) (q l : Nat) (e : Word), q < 16 → l < 2304 → (s.physOf q l) = none → e.getLsbD 63 = true →
      s.fusedOff (e.toNat % 8192) = true →
      ∃ t, Sys2Proof.Machine.exec (.l2pRemap q l e) s = .next t ∧ t.cores = s.cores ∧ t.clusters = s.clusters)
    ∧ (∀ (s : State) (q : Nat) (v : BitVec 8), q < 16 →
      ∃ t, Sys2Proof.Machine.exec (.partRlsWrite q v) s = .next t ∧ (t.part q).rls = v
        ∧ (∀ n, n < 8 → t.rule n = if (s.part q).rls.getLsbD n ∧ ¬ v.getLsbD n then Slot.fresh else s.rule n)
        ∧ t.cores = s.cores ∧ SameMemory s t)

/-- Clusters, border moves, clocks, power and heat (R97, R317, R318, R384, R385, R389 to R391). An idle cluster that may
be scrubbed is emptied, memory, banks, accumulators and window cache, and nothing outside it changes; after 1 ms of
idleness its clock stops, and firmware may then gate it; a service tick compares each partition with its target; an
idle moving cluster is scrubbed and granted; a written 1 clears ERR of CLKREQ; an allowed clock setting relocks the
die, and after 500 ticks it runs at the new increment; a sample above 3,400 W lowers both dies and their caps by one
setting, sixteen calm ones raise the caps; from 100 degrees on a die goes down one setting, from 115 on the module
resets and the time is kept. Where the spec leaves a point open it states the choice of the model (log entries 68,
69, 88). -/
def Obligations.PlatformSteps : Prop :=
  (∀ (s : State) (cl : Nat), s.clusterIdle cl = true →
      (((s.cluster cl).part = none ∨ (s.cluster cl).moving ≠ none ∨ (s.cluster cl).power = .gated) →
        ∃ t, Sys2Proof.Machine.exec (.clusterScrub cl) s = .next t ∧ (t.cluster cl).mem = [] ∧ (t.cluster cl).banks = []
          ∧ (t.cluster cl).tiles = [] ∧ (t.cluster cl).fmts = [] ∧ (t.cluster cl).freePods = 256 ∧ (t.cluster cl).wcache = []
          ∧ (t.cluster cl).power ≠ .gated ∧ (∀ i, i < 9 → (t.core (coreAt cl i)).mem = [] ∧ (t.core (coreAt cl i)).ulog = [])
          ∧ (∀ c, c ≠ cl → t.cluster c = s.cluster c) ∧ (∀ p, clusterOf p ≠ cl → t.core p = s.core p) ∧ t.phys = s.phys
          ∧ SameContexts s t)
      ∧ ((s.cluster cl).power = .run → 250000 ≤ (s.cluster cl).idle →
        ∃ t, Sys2Proof.Machine.exec (.clusterClkoff cl) s = .next t ∧ (t.cluster cl).power = .clkoff ∧ t.cores = s.cores
          ∧ SameMemory s t)
      ∧ ((s.cluster cl).power = .clkoff →
        ∃ t, Sys2Proof.Machine.exec (.clusterGate cl) s = .next t ∧ (t.cluster cl).power = .gated ∧ (t.cluster cl).mem = []
          ∧ (∀ i, i < 9 → (t.core (coreAt cl i)).mem = [] ∧ (t.core (coreAt cl i)).lpid = (s.core (coreAt cl i)).lpid)
          ∧ (∀ p, clusterOf p ≠ cl → t.core p = s.core p)))
    ∧ (∀ (s : State), 250000 ≤ (s.time - s.secure.ticked).toNat →
      ∃ t, Sys2Proof.Machine.exec .serviceControllerTick s = .next t ∧ t.secure.ticked = s.time ∧ (∀ q, (t.part q).groups = 0)
        ∧ (∀ q, q < 16 → s.parts.any (fun kx => kx.1 == q) = true →
            ((s.part q).svct.toNat ≤ (s.part q).groups → (t.part q).below = 0)
            ∧ ((s.part q).groups < (s.part q).svct.toNat → (s.part q).below < 3 → (t.part q).below = (s.part q).below + 1))
        ∧ t.cores = s.cores)
    ∧ (∀ (s : State) (cl q : Nat), (s.cluster cl).moving = some q → s.clusterIdle cl = true → s.unitsBusy cl = false →
      ∃ t, Sys2Proof.Machine.exec (.borderMoveGrant cl) s = .next t ∧ (t.cluster cl).part = some q
        ∧ (t.cluster cl).moving = none ∧ (t.cluster cl).power = .run ∧ (t.cluster cl).mem = []
        ∧ (∀ i, i < 9 → (t.core (coreAt cl i)).mem = []) ∧ t.phys = s.phys)
    ∧ (∀ (s : State) (d v : Nat),
      (let k := v % 16
       let e := !(v.testBit 32) && (s.die d).err
       (12 < k → ∃ t, Sys2Proof.Machine.exec (.clockStep d v) s = .next t ∧ (t.die d).err = true ∧ (t.die d).set = (s.die d).set)
       ∧ (k ≤ 12 → (s.die d).cap < k → ∃ t, Sys2Proof.Machine.exec (.clockStep d v) s = .next t ∧ (t.die d).want = some k
        ∧ (t.die d).set = (s.die d).set ∧ (t.die d).err = e)
       ∧ (k ≤ 12 → k ≤ (s.die d).cap → (s.die d).relock = false → k ≠ (s.die d).set →
        ∃ t, Sys2Proof.Machine.exec (.clockStep d v) s = .next t ∧ (t.die d).set = k ∧ (t.die d).relock = true
          ∧ (t.die d).relockAt = s.time ∧ (t.die d).err = e ∧ (t.die d).cyc = (s.die d).cyc ∧ t.cores = s.cores))
      ∧ ((s.die d).relock = true → 500 ≤ (s.time - (s.die d).relockAt).toNat → (s.die d).want = none →
        (s.die d).set ≤ (s.die d).cap →
        ∃ t, Sys2Proof.Machine.exec (.clockRelockDone d) s = .next t ∧ (t.die d).relock = false
          ∧ (t.die d).inc = clockInc (s.die d).set ∧ (t.die d).set = (s.die d).set ∧ t.cores = s.cores))
    ∧ (∀ (s : State) (w : Nat), 250000 ≤ (s.time - s.secure.sampled).toNat →
      ∃ t, Sys2Proof.Machine.exec (.powerSample w) s = .next t ∧ t.secure.sampled = s.time
        ∧ (3400 < w → (∀ d, d < 2 → (t.die d).cap = (s.die d).set - 1
            ∧ ((s.die d).relock = false → (t.die d).set = (s.die d).set - 1)))
        ∧ (w < 3100 → 15 ≤ s.secure.calm → ∀ d, d < 2 → (t.die d).cap = min 12 ((s.die d).cap + 1))
        ∧ (w < 3100 → s.secure.calm < 15 → t.secure.calm = s.secure.calm + 1 ∧ ∀ d, t.die d = s.die d)
        ∧ (3100 ≤ w → w ≤ 3400 → t.secure.calm = 0 ∧ ∀ d, t.die d = s.die d) ∧ t.cores = s.cores)
    ∧ (∀ (s : State) (d c : Nat),
      (c < 95 → ∃ t, Sys2Proof.Machine.exec (.thermalStepdown d c) s = .next t ∧ (t.die d).hot = false
        ∧ (t.die d).set = (s.die d).set)
      ∧ (100 ≤ c → (s.die d).hot = false → (s.die d).relock = false →
        ∃ t, Sys2Proof.Machine.exec (.thermalStepdown d c) s = .next t ∧ (t.die d).hot = true
          ∧ (t.die d).set = (s.die d).set - 1 ∧ (t.die d).cooled = s.time)
      ∧ (115 ≤ c → ∃ t, Sys2Proof.Machine.exec (.thermalTrip d c) s = .next t ∧ t.secure.trip = some s.time
        ∧ t.cores = State.reset.cores ∧ t.parts = State.reset.parts))

/-- Resets, scrubs of main memory, Markhor and the function level reset (R344, R376 to R378, R380, R386 to R388). A cold
reset brings cores, partitions and device state to their reset values and starts the scrub of main memory, every
slice's journal entry naming its first chunk, a warm reset keeps TIME, the sequence counter and main memory, loss of
power stops the device and keeps host memory; a scrub chunk and a zeroed range read zero and nothing else changes;
evidence carries the nonce; an image is activated only when it is signed and not older than the fuses; a key that a
requester has begun to deliver over an open session is installed, with the grant of its group, while no block is
registered, and one without a session fails with STATUS 3; a function level reset stops the partition's cores and
ends, once quiet, with its clusters scrubbed. Where the spec leaves a point open it states the choice of the model
(log entries 16, 70, 71, 72). -/
def Obligations.ResetSecuritySteps : Prop :=
  (∀ (s : State), (∃ t, Sys2Proof.Machine.exec .coldReset s = .next t ∧ t.cores = State.reset.cores
        ∧ t.parts = State.reset.parts ∧ t.time = 0
        ∧ (memWf s.phys = true → (∀ n, n < 32 → t.journal n = some (0, 0))
          ∧ ∀ a, inJournal 0 a = false → inJournal 1 a = false → bget t.phys a = bget s.phys a))
      ∧ (∃ t, Sys2Proof.Machine.exec .warmReset s = .next t ∧ t.cores = State.reset.cores ∧ t.parts = State.reset.parts
        ∧ t.time = s.time ∧ t.seq = s.seq ∧ t.phys = s.phys)
      ∧ (∃ t, Sys2Proof.Machine.exec .lossOfPower s = .next t ∧ t.power = false ∧ t.cores = State.reset.cores
        ∧ (∀ a, bget t.phys a = if tierOf a = .host then bget s.phys a else 0)))
    ∧ (∀ (s : State) (z tier chunk : Nat), memWf s.phys = true → s.journal z = some (tier, chunk) → chunk + 1 < tierChunks tier →
      ∃ t, Sys2Proof.Machine.exec (.hbmScrubChunk z) s = .next t ∧ t.journal z = some (tier, chunk + 1)
        ∧ (∀ a, inJournal (z / 16) a = false → bget t.phys a = if inChunk z tier chunk a then 0 else bget s.phys a)
        ∧ t.cores = s.cores)
    ∧ (∀ (s : State) (k q : Nat) (r : Range), s.ranges[k]? = some r → r.next = some q →
      ∃ t x, Sys2Proof.Machine.exec (.rangeZeroing k) s = .next t ∧ t.ranges[k]? = some x ∧ x.part = q ∧ x.next = none
        ∧ (∀ a, bget t.phys a = if r.base ≤ a ∧ a ≤ r.limit ∧ targetOf a = r.target ∧ tierOf a ≠ .host then 0 else bget s.phys a)
        ∧ t.cores = s.cores)
    ∧ (∀ (s : State) (fn : Nat) (nonce : VWord), mfind s.secure.asks fn = some nonce →
      ∃ t b, Sys2Proof.Machine.exec (.evidenceRequest fn) s = .next t ∧ mfind t.secure.results fn = some (0, b)
        ∧ mfind t.secure.asks fn = none ∧ b.length = 0x290 + 4627 ∧ (b.drop 32).take 64 = bytesOf 64 nonce.toNat
        ∧ t.secure.trip = none ∧ t.cores = s.cores ∧ t.parts = s.parts)
    ∧ (∀ (s : State) (svn image : Nat), s.secure.staged = some (svn, image) →
      ∃ t, Sys2Proof.Machine.exec .firmwareActivate s = .next t ∧ t.secure.staged = none
        ∧ (Config.signed svn image = false → t.secure.activate = 1 ∧ t.secure.svn = s.secure.svn
          ∧ t.secure.image = s.secure.image)
        ∧ (Config.signed svn image = true → svn < s.secure.fuse → t.secure.activate = 2 ∧ t.secure.svn = s.secure.svn)
        ∧ (Config.signed svn image = true → s.secure.fuse ≤ svn → t.secure.activate = 0 ∧ t.secure.svn = svn
          ∧ t.secure.image = image ∧ t.secure.sessions = [] ∧ t.secure.fuse = min 64 svn) ∧ t.cores = s.cores)
    ∧ (∀ (s : State) (r : Nat),
      (mfind s.secure.sessions r = none → ∃ t, Sys2Proof.Machine.exec (.securedSessionOpen r) s = .next t
        ∧ mfind t.secure.sessions r ≠ none ∧ t.cores = s.cores)
      ∧ (∃ t, Sys2Proof.Machine.exec (.securedSessionClose r) s = .next t ∧ mfind t.secure.sessions r = none
        ∧ ∀ x, x ≠ r → mfind t.secure.sessions x = mfind s.secure.sessions x)
      ∧ (∀ q h m, mfind s.secure.sessions r = none →
        ∃ t, Sys2Proof.Machine.exec (.keyDelivery q r h m) s = .next t ∧ mfind t.secure.keyResults r = some 3
          ∧ t.parts = s.parts ∧ t.cores = s.cores)
      ∧ (∀ q h m, mfind s.secure.sessions r ≠ none → r ∉ s.secure.keyAsks →
        ∃ t, Sys2Proof.Machine.exec (.keyDelivery q r h m) s = .next t ∧ r ∈ t.secure.keyAsks
          ∧ t.parts = s.parts ∧ t.cores = s.cores)
      ∧ (∀ q h m gs, mfind s.secure.sessions r ≠ none → r ∈ s.secure.keyAsks →
        withGroup (s.part q).grants (mget (0, 0) s.secure.keyGroups r).1 (mget (0, 0) s.secure.keyGroups r).2 = some gs → h ≠ 0 → s.registered q = 0 → q < 16 →
        ∃ t, Sys2Proof.Machine.exec (.keyDelivery q r h m) s = .next t ∧ (t.part q).key = some (h, m)
          ∧ (t.part q).grants = gs ∧ mfind t.secure.keyResults r = some 0 ∧ r ∉ t.secure.keyAsks
          ∧ (∀ p, p ≠ q → t.part p = s.part p) ∧ t.cores = s.cores))
    ∧ (∀ (s : State) (q : Nat),
      ((s.part q).stopped = false → ∃ t, Sys2Proof.Machine.exec (.functionLevelReset q) s = .next t
        ∧ (t.part q).stopped = true ∧ (t.part q).launches = [] ∧ (t.part q).inbox = [] ∧ (t.part q).acts = []
        ∧ (∀ p ∈ s.flrCores q, (t.core p).group = none ∧ (t.core p).handler = none ∧ (t.core p).fifo = [] ∧ (t.core p).mq = [])
        ∧ SameMemory s t)
      ∧ ((s.part q).stopped = true → s.flrQuiet q = true → ∃ t, Sys2Proof.Machine.exec (.functionLevelReset q) s = .next t
        ∧ (t.part q).stopped = false ∧ (t.part q).head = 0 ∧ (t.part q).tail = 0
        ∧ (∀ p ∈ s.flrCores q, (t.core p).mem = [] ∧ (t.core p).mbox = [])
        ∧ (∀ cl ∈ s.clustersOf q, (t.cluster cl).mem = [] ∧ (t.cluster cl).part = some q) ∧ t.phys = s.phys))

end
end

