-- ==== Sys2Proof/Laws/State.lean ====
section
/-! SUPPORT. What each update of the state leaves as it was, one lemma for each field, and what reading a table, a core or a
context gives after a write. -/

namespace Sys2Proof.Machine

/-! ### Tables -/

theorem mfind_mset {α : Type} (m : Map α) (i j : Nat) (v : α) :
    mfind (mset m i v) j = if j = i then some v else mfind m j := by
  induction m with
  | nil => simp [mset, mfind]
  | cons a m ih =>
    obtain ⟨k, w⟩ := a
    unfold mset
    by_cases h1 : i < k
    · by_cases h : j = i <;> simp [h1, mfind, h]
    · by_cases h2 : i = k
      · subst h2; by_cases h : j = i <;> simp [mfind, h]
      · simp only [h1, h2, if_false, mfind, ih]
        by_cases h : j = k
        · subst h; simp [show ¬ (j = i) from fun e => h2 e.symm]
        · simp [h]

theorem mget_mset {α : Type} (d : α) (m : Map α) (i j : Nat) (v : α) :
    mget d (mset m i v) j = if j = i then v else mget d m j := by
  unfold mget; rw [mfind_mset]; by_cases h : j = i <;> simp [h]

@[simp] theorem mget_mset_self {α : Type} (d : α) (m : Map α) (i : Nat) (v : α) : mget d (mset m i v) i = v := by
  simp [mget_mset]

theorem mget_mset_other {α : Type} (d : α) (m : Map α) (i j : Nat) (v : α) (h : j ≠ i) :
    mget d (mset m i v) j = mget d m j := by simp [mget_mset, h]

/-! ### State -/

@[simp] theorem State.setCore_sched (s : State) (p : Nat) (c : Core) : (s.setCore p c).sched = s.sched := rfl
@[simp] theorem State.setCore_focus (s : State) (p : Nat) (c : Core) : (s.setCore p c).focus = s.focus := rfl
@[simp] theorem State.setCore_cur (s : State) (p : Nat) (c : Core) : (s.setCore p c).cur = s.cur := rfl
@[simp] theorem State.setCore_ctx (s : State) (p : Nat) (c : Core) : (s.setCore p c).ctx = s.ctx := rfl
@[simp] theorem State.setCore_late (s : State) (p : Nat) (c : Core) : (s.setCore p c).late = s.late := rfl
@[simp] theorem State.setCore_tick (s : State) (p : Nat) (c : Core) : (s.setCore p c).tick = s.tick := rfl
@[simp] theorem State.setCore_power (s : State) (p : Nat) (c : Core) : (s.setCore p c).power = s.power := rfl
@[simp] theorem State.setCore_time (s : State) (p : Nat) (c : Core) : (s.setCore p c).time = s.time := rfl
@[simp] theorem State.setCore_clusters (s : State) (p : Nat) (c : Core) : (s.setCore p c).clusters = s.clusters := rfl
@[simp] theorem State.setCore_die0 (s : State) (p : Nat) (c : Core) : (s.setCore p c).die0 = s.die0 := rfl
@[simp] theorem State.setCore_die1 (s : State) (p : Nat) (c : Core) : (s.setCore p c).die1 = s.die1 := rfl
@[simp] theorem State.setCore_slices (s : State) (p : Nat) (c : Core) : (s.setCore p c).slices = s.slices := rfl
@[simp] theorem State.setCore_parts (s : State) (p : Nat) (c : Core) : (s.setCore p c).parts = s.parts := rfl
@[simp] theorem State.setCore_rules (s : State) (p : Nat) (c : Core) : (s.setCore p c).rules = s.rules := rfl
@[simp] theorem State.setCore_chans (s : State) (p : Nat) (c : Core) : (s.setCore p c).chans = s.chans := rfl
@[simp] theorem State.setCore_phys (s : State) (p : Nat) (c : Core) : (s.setCore p c).phys = s.phys := rfl
@[simp] theorem State.setCore_ctxBase (s : State) (p : Nat) (c : Core) : (s.setCore p c).ctxBase = s.ctxBase := rfl
@[simp] theorem State.setCore_hostNo (s : State) (p : Nat) (c : Core) : (s.setCore p c).hostNo = s.hostNo := rfl
@[simp] theorem State.setCore_fwGrants (s : State) (p : Nat) (c : Core) : (s.setCore p c).fwGrants = s.fwGrants := rfl
@[simp] theorem State.setCore_saves (s : State) (p : Nat) (c : Core) : (s.setCore p c).saves = s.saves := rfl
@[simp] theorem State.setCore_access (s : State) (p : Nat) (c : Core) : (s.setCore p c).access = s.access := rfl
@[simp] theorem State.setCore_ranges (s : State) (p : Nat) (c : Core) : (s.setCore p c).ranges = s.ranges := rfl
@[simp] theorem State.setCore_refusals (s : State) (p : Nat) (c : Core) : (s.setCore p c).refusals = s.refusals := rfl
@[simp] theorem State.setCore_seq (s : State) (p : Nat) (c : Core) : (s.setCore p c).seq = s.seq := rfl
@[simp] theorem State.setCore_msgs (s : State) (p : Nat) (c : Core) : (s.setCore p c).msgs = s.msgs := rfl
@[simp] theorem State.setCore_backs (s : State) (p : Nat) (c : Core) : (s.setCore p c).backs = s.backs := rfl
@[simp] theorem State.setCore_accs (s : State) (p : Nat) (c : Core) : (s.setCore p c).accs = s.accs := rfl
@[simp] theorem State.setCore_links (s : State) (p : Nat) (c : Core) : (s.setCore p c).links = s.links := rfl
@[simp] theorem State.setCore_greqs (s : State) (p : Nat) (c : Core) : (s.setCore p c).greqs = s.greqs := rfl
@[simp] theorem State.setCore_walks (s : State) (p : Nat) (c : Core) : (s.setCore p c).walks = s.walks := rfl
@[simp] theorem State.setCore_gresps (s : State) (p : Nat) (c : Core) : (s.setCore p c).gresps = s.gresps := rfl
@[simp] theorem State.setCore_gid (s : State) (p : Nat) (c : Core) : (s.setCore p c).gid = s.gid := rfl
@[simp] theorem State.setCore_traps (s : State) (p : Nat) (c : Core) : (s.setCore p c).traps = s.traps := rfl
@[simp] theorem State.setCore_posts (s : State) (p : Nat) (c : Core) : (s.setCore p c).posts = s.posts := rfl
@[simp] theorem State.setCore_cmds (s : State) (p : Nat) (c : Core) : (s.setCore p c).cmds = s.cmds := rfl
@[simp] theorem State.setCore_cmdId (s : State) (p : Nat) (c : Core) : (s.setCore p c).cmdId = s.cmdId := rfl
@[simp] theorem State.setCore_peers (s : State) (p : Nat) (c : Core) : (s.setCore p c).peers = s.peers := rfl
@[simp] theorem State.setCore_aborts (s : State) (p : Nat) (c : Core) : (s.setCore p c).aborts = s.aborts := rfl
@[simp] theorem State.setCore_netErrs (s : State) (p : Nat) (c : Core) : (s.setCore p c).netErrs = s.netErrs := rfl
@[simp] theorem State.setCore_collEnds (s : State) (p : Nat) (c : Core) : (s.setCore p c).collEnds = s.collEnds := rfl
@[simp] theorem State.setCore_abortsOut (s : State) (p : Nat) (c : Core) : (s.setCore p c).abortsOut = s.abortsOut := rfl
@[simp] theorem State.setCore_queues (s : State) (p : Nat) (c : Core) : (s.setCore p c).queues = s.queues := rfl
@[simp] theorem State.setCore_groups (s : State) (p : Nat) (c : Core) : (s.setCore p c).groups = s.groups := rfl
@[simp] theorem State.setCore_packets (s : State) (p : Nat) (c : Core) : (s.setCore p c).packets = s.packets := rfl
@[simp] theorem State.setCore_replays (s : State) (p : Nat) (c : Core) : (s.setCore p c).replays = s.replays := rfl
@[simp] theorem State.setCore_paired (s : State) (p : Nat) (c : Core) : (s.setCore p c).paired = s.paired := rfl
@[simp] theorem State.setCore_secure (s : State) (p : Nat) (c : Core) : (s.setCore p c).secure = s.secure := rfl
@[simp] theorem State.setCore_errs (s : State) (p : Nat) (c : Core) : (s.setCore p c).errs = s.errs := rfl

@[simp] theorem State.modCore_sched (s : State) (p : Nat) (f : Core → Core) : (s.modCore p f).sched = s.sched := rfl
@[simp] theorem State.modCore_focus (s : State) (p : Nat) (f : Core → Core) : (s.modCore p f).focus = s.focus := rfl
@[simp] theorem State.modCore_cur (s : State) (p : Nat) (f : Core → Core) : (s.modCore p f).cur = s.cur := rfl
@[simp] theorem State.modCore_ctx (s : State) (p : Nat) (f : Core → Core) : (s.modCore p f).ctx = s.ctx := rfl
@[simp] theorem State.modCore_late (s : State) (p : Nat) (f : Core → Core) : (s.modCore p f).late = s.late := rfl
@[simp] theorem State.modCore_tick (s : State) (p : Nat) (f : Core → Core) : (s.modCore p f).tick = s.tick := rfl
@[simp] theorem State.modCore_power (s : State) (p : Nat) (f : Core → Core) : (s.modCore p f).power = s.power := rfl
@[simp] theorem State.modCore_time (s : State) (p : Nat) (f : Core → Core) : (s.modCore p f).time = s.time := rfl
@[simp] theorem State.modCore_clusters (s : State) (p : Nat) (f : Core → Core) : (s.modCore p f).clusters = s.clusters := rfl
@[simp] theorem State.modCore_die0 (s : State) (p : Nat) (f : Core → Core) : (s.modCore p f).die0 = s.die0 := rfl
@[simp] theorem State.modCore_die1 (s : State) (p : Nat) (f : Core → Core) : (s.modCore p f).die1 = s.die1 := rfl
@[simp] theorem State.modCore_slices (s : State) (p : Nat) (f : Core → Core) : (s.modCore p f).slices = s.slices := rfl
@[simp] theorem State.modCore_parts (s : State) (p : Nat) (f : Core → Core) : (s.modCore p f).parts = s.parts := rfl
@[simp] theorem State.modCore_rules (s : State) (p : Nat) (f : Core → Core) : (s.modCore p f).rules = s.rules := rfl
@[simp] theorem State.modCore_chans (s : State) (p : Nat) (f : Core → Core) : (s.modCore p f).chans = s.chans := rfl
@[simp] theorem State.modCore_phys (s : State) (p : Nat) (f : Core → Core) : (s.modCore p f).phys = s.phys := rfl
@[simp] theorem State.modCore_ctxBase (s : State) (p : Nat) (f : Core → Core) : (s.modCore p f).ctxBase = s.ctxBase := rfl
@[simp] theorem State.modCore_hostNo (s : State) (p : Nat) (f : Core → Core) : (s.modCore p f).hostNo = s.hostNo := rfl
@[simp] theorem State.modCore_fwGrants (s : State) (p : Nat) (f : Core → Core) : (s.modCore p f).fwGrants = s.fwGrants := rfl
@[simp] theorem State.modCore_saves (s : State) (p : Nat) (f : Core → Core) : (s.modCore p f).saves = s.saves := rfl
@[simp] theorem State.modCore_access (s : State) (p : Nat) (f : Core → Core) : (s.modCore p f).access = s.access := rfl
@[simp] theorem State.modCore_ranges (s : State) (p : Nat) (f : Core → Core) : (s.modCore p f).ranges = s.ranges := rfl
@[simp] theorem State.modCore_refusals (s : State) (p : Nat) (f : Core → Core) : (s.modCore p f).refusals = s.refusals := rfl
@[simp] theorem State.modCore_seq (s : State) (p : Nat) (f : Core → Core) : (s.modCore p f).seq = s.seq := rfl
@[simp] theorem State.modCore_msgs (s : State) (p : Nat) (f : Core → Core) : (s.modCore p f).msgs = s.msgs := rfl
@[simp] theorem State.modCore_backs (s : State) (p : Nat) (f : Core → Core) : (s.modCore p f).backs = s.backs := rfl
@[simp] theorem State.modCore_accs (s : State) (p : Nat) (f : Core → Core) : (s.modCore p f).accs = s.accs := rfl
@[simp] theorem State.modCore_links (s : State) (p : Nat) (f : Core → Core) : (s.modCore p f).links = s.links := rfl
@[simp] theorem State.modCore_greqs (s : State) (p : Nat) (f : Core → Core) : (s.modCore p f).greqs = s.greqs := rfl
@[simp] theorem State.modCore_walks (s : State) (p : Nat) (f : Core → Core) : (s.modCore p f).walks = s.walks := rfl
@[simp] theorem State.modCore_gresps (s : State) (p : Nat) (f : Core → Core) : (s.modCore p f).gresps = s.gresps := rfl
@[simp] theorem State.modCore_gid (s : State) (p : Nat) (f : Core → Core) : (s.modCore p f).gid = s.gid := rfl
@[simp] theorem State.modCore_traps (s : State) (p : Nat) (f : Core → Core) : (s.modCore p f).traps = s.traps := rfl
@[simp] theorem State.modCore_posts (s : State) (p : Nat) (f : Core → Core) : (s.modCore p f).posts = s.posts := rfl
@[simp] theorem State.modCore_cmds (s : State) (p : Nat) (f : Core → Core) : (s.modCore p f).cmds = s.cmds := rfl
@[simp] theorem State.modCore_cmdId (s : State) (p : Nat) (f : Core → Core) : (s.modCore p f).cmdId = s.cmdId := rfl
@[simp] theorem State.modCore_peers (s : State) (p : Nat) (f : Core → Core) : (s.modCore p f).peers = s.peers := rfl
@[simp] theorem State.modCore_aborts (s : State) (p : Nat) (f : Core → Core) : (s.modCore p f).aborts = s.aborts := rfl
@[simp] theorem State.modCore_netErrs (s : State) (p : Nat) (f : Core → Core) : (s.modCore p f).netErrs = s.netErrs := rfl
@[simp] theorem State.modCore_collEnds (s : State) (p : Nat) (f : Core → Core) : (s.modCore p f).collEnds = s.collEnds := rfl
@[simp] theorem State.modCore_abortsOut (s : State) (p : Nat) (f : Core → Core) : (s.modCore p f).abortsOut = s.abortsOut := rfl
@[simp] theorem State.modCore_queues (s : State) (p : Nat) (f : Core → Core) : (s.modCore p f).queues = s.queues := rfl
@[simp] theorem State.modCore_groups (s : State) (p : Nat) (f : Core → Core) : (s.modCore p f).groups = s.groups := rfl
@[simp] theorem State.modCore_packets (s : State) (p : Nat) (f : Core → Core) : (s.modCore p f).packets = s.packets := rfl
@[simp] theorem State.modCore_replays (s : State) (p : Nat) (f : Core → Core) : (s.modCore p f).replays = s.replays := rfl
@[simp] theorem State.modCore_paired (s : State) (p : Nat) (f : Core → Core) : (s.modCore p f).paired = s.paired := rfl
@[simp] theorem State.modCore_secure (s : State) (p : Nat) (f : Core → Core) : (s.modCore p f).secure = s.secure := rfl
@[simp] theorem State.modCore_errs (s : State) (p : Nat) (f : Core → Core) : (s.modCore p f).errs = s.errs := rfl

@[simp] theorem State.modMe_sched (s : State) (f : Core → Core) : (s.modMe f).sched = s.sched := rfl
@[simp] theorem State.modMe_focus (s : State) (f : Core → Core) : (s.modMe f).focus = s.focus := rfl
@[simp] theorem State.modMe_cur (s : State) (f : Core → Core) : (s.modMe f).cur = s.cur := rfl
@[simp] theorem State.modMe_ctx (s : State) (f : Core → Core) : (s.modMe f).ctx = s.ctx := rfl
@[simp] theorem State.modMe_late (s : State) (f : Core → Core) : (s.modMe f).late = s.late := rfl
@[simp] theorem State.modMe_tick (s : State) (f : Core → Core) : (s.modMe f).tick = s.tick := rfl
@[simp] theorem State.modMe_power (s : State) (f : Core → Core) : (s.modMe f).power = s.power := rfl
@[simp] theorem State.modMe_time (s : State) (f : Core → Core) : (s.modMe f).time = s.time := rfl
@[simp] theorem State.modMe_clusters (s : State) (f : Core → Core) : (s.modMe f).clusters = s.clusters := rfl
@[simp] theorem State.modMe_die0 (s : State) (f : Core → Core) : (s.modMe f).die0 = s.die0 := rfl
@[simp] theorem State.modMe_die1 (s : State) (f : Core → Core) : (s.modMe f).die1 = s.die1 := rfl
@[simp] theorem State.modMe_slices (s : State) (f : Core → Core) : (s.modMe f).slices = s.slices := rfl
@[simp] theorem State.modMe_parts (s : State) (f : Core → Core) : (s.modMe f).parts = s.parts := rfl
@[simp] theorem State.modMe_rules (s : State) (f : Core → Core) : (s.modMe f).rules = s.rules := rfl
@[simp] theorem State.modMe_chans (s : State) (f : Core → Core) : (s.modMe f).chans = s.chans := rfl
@[simp] theorem State.modMe_phys (s : State) (f : Core → Core) : (s.modMe f).phys = s.phys := rfl
@[simp] theorem State.modMe_ctxBase (s : State) (f : Core → Core) : (s.modMe f).ctxBase = s.ctxBase := rfl
@[simp] theorem State.modMe_hostNo (s : State) (f : Core → Core) : (s.modMe f).hostNo = s.hostNo := rfl
@[simp] theorem State.modMe_fwGrants (s : State) (f : Core → Core) : (s.modMe f).fwGrants = s.fwGrants := rfl
@[simp] theorem State.modMe_saves (s : State) (f : Core → Core) : (s.modMe f).saves = s.saves := rfl
@[simp] theorem State.modMe_access (s : State) (f : Core → Core) : (s.modMe f).access = s.access := rfl
@[simp] theorem State.modMe_ranges (s : State) (f : Core → Core) : (s.modMe f).ranges = s.ranges := rfl
@[simp] theorem State.modMe_refusals (s : State) (f : Core → Core) : (s.modMe f).refusals = s.refusals := rfl
@[simp] theorem State.modMe_seq (s : State) (f : Core → Core) : (s.modMe f).seq = s.seq := rfl
@[simp] theorem State.modMe_msgs (s : State) (f : Core → Core) : (s.modMe f).msgs = s.msgs := rfl
@[simp] theorem State.modMe_backs (s : State) (f : Core → Core) : (s.modMe f).backs = s.backs := rfl
@[simp] theorem State.modMe_accs (s : State) (f : Core → Core) : (s.modMe f).accs = s.accs := rfl
@[simp] theorem State.modMe_links (s : State) (f : Core → Core) : (s.modMe f).links = s.links := rfl
@[simp] theorem State.modMe_greqs (s : State) (f : Core → Core) : (s.modMe f).greqs = s.greqs := rfl
@[simp] theorem State.modMe_walks (s : State) (f : Core → Core) : (s.modMe f).walks = s.walks := rfl
@[simp] theorem State.modMe_gresps (s : State) (f : Core → Core) : (s.modMe f).gresps = s.gresps := rfl
@[simp] theorem State.modMe_gid (s : State) (f : Core → Core) : (s.modMe f).gid = s.gid := rfl
@[simp] theorem State.modMe_traps (s : State) (f : Core → Core) : (s.modMe f).traps = s.traps := rfl
@[simp] theorem State.modMe_posts (s : State) (f : Core → Core) : (s.modMe f).posts = s.posts := rfl
@[simp] theorem State.modMe_cmds (s : State) (f : Core → Core) : (s.modMe f).cmds = s.cmds := rfl
@[simp] theorem State.modMe_cmdId (s : State) (f : Core → Core) : (s.modMe f).cmdId = s.cmdId := rfl
@[simp] theorem State.modMe_peers (s : State) (f : Core → Core) : (s.modMe f).peers = s.peers := rfl
@[simp] theorem State.modMe_aborts (s : State) (f : Core → Core) : (s.modMe f).aborts = s.aborts := rfl
@[simp] theorem State.modMe_netErrs (s : State) (f : Core → Core) : (s.modMe f).netErrs = s.netErrs := rfl
@[simp] theorem State.modMe_collEnds (s : State) (f : Core → Core) : (s.modMe f).collEnds = s.collEnds := rfl
@[simp] theorem State.modMe_abortsOut (s : State) (f : Core → Core) : (s.modMe f).abortsOut = s.abortsOut := rfl
@[simp] theorem State.modMe_queues (s : State) (f : Core → Core) : (s.modMe f).queues = s.queues := rfl
@[simp] theorem State.modMe_groups (s : State) (f : Core → Core) : (s.modMe f).groups = s.groups := rfl
@[simp] theorem State.modMe_packets (s : State) (f : Core → Core) : (s.modMe f).packets = s.packets := rfl
@[simp] theorem State.modMe_replays (s : State) (f : Core → Core) : (s.modMe f).replays = s.replays := rfl
@[simp] theorem State.modMe_paired (s : State) (f : Core → Core) : (s.modMe f).paired = s.paired := rfl
@[simp] theorem State.modMe_secure (s : State) (f : Core → Core) : (s.modMe f).secure = s.secure := rfl
@[simp] theorem State.modMe_errs (s : State) (f : Core → Core) : (s.modMe f).errs = s.errs := rfl

@[simp] theorem State.modCx_sched (s : State) (f : Context → Context) : (s.modCx f).sched = s.sched := rfl
@[simp] theorem State.modCx_focus (s : State) (f : Context → Context) : (s.modCx f).focus = s.focus := rfl
@[simp] theorem State.modCx_cur (s : State) (f : Context → Context) : (s.modCx f).cur = s.cur := rfl
@[simp] theorem State.modCx_ctx (s : State) (f : Context → Context) : (s.modCx f).ctx = s.ctx := rfl
@[simp] theorem State.modCx_late (s : State) (f : Context → Context) : (s.modCx f).late = s.late := rfl
@[simp] theorem State.modCx_tick (s : State) (f : Context → Context) : (s.modCx f).tick = s.tick := rfl
@[simp] theorem State.modCx_power (s : State) (f : Context → Context) : (s.modCx f).power = s.power := rfl
@[simp] theorem State.modCx_time (s : State) (f : Context → Context) : (s.modCx f).time = s.time := rfl
@[simp] theorem State.modCx_clusters (s : State) (f : Context → Context) : (s.modCx f).clusters = s.clusters := rfl
@[simp] theorem State.modCx_die0 (s : State) (f : Context → Context) : (s.modCx f).die0 = s.die0 := rfl
@[simp] theorem State.modCx_die1 (s : State) (f : Context → Context) : (s.modCx f).die1 = s.die1 := rfl
@[simp] theorem State.modCx_slices (s : State) (f : Context → Context) : (s.modCx f).slices = s.slices := rfl
@[simp] theorem State.modCx_parts (s : State) (f : Context → Context) : (s.modCx f).parts = s.parts := rfl
@[simp] theorem State.modCx_rules (s : State) (f : Context → Context) : (s.modCx f).rules = s.rules := rfl
@[simp] theorem State.modCx_chans (s : State) (f : Context → Context) : (s.modCx f).chans = s.chans := rfl
@[simp] theorem State.modCx_phys (s : State) (f : Context → Context) : (s.modCx f).phys = s.phys := rfl
@[simp] theorem State.modCx_ctxBase (s : State) (f : Context → Context) : (s.modCx f).ctxBase = s.ctxBase := rfl
@[simp] theorem State.modCx_hostNo (s : State) (f : Context → Context) : (s.modCx f).hostNo = s.hostNo := rfl
@[simp] theorem State.modCx_fwGrants (s : State) (f : Context → Context) : (s.modCx f).fwGrants = s.fwGrants := rfl
@[simp] theorem State.modCx_saves (s : State) (f : Context → Context) : (s.modCx f).saves = s.saves := rfl
@[simp] theorem State.modCx_access (s : State) (f : Context → Context) : (s.modCx f).access = s.access := rfl
@[simp] theorem State.modCx_ranges (s : State) (f : Context → Context) : (s.modCx f).ranges = s.ranges := rfl
@[simp] theorem State.modCx_refusals (s : State) (f : Context → Context) : (s.modCx f).refusals = s.refusals := rfl
@[simp] theorem State.modCx_seq (s : State) (f : Context → Context) : (s.modCx f).seq = s.seq := rfl
@[simp] theorem State.modCx_msgs (s : State) (f : Context → Context) : (s.modCx f).msgs = s.msgs := rfl
@[simp] theorem State.modCx_backs (s : State) (f : Context → Context) : (s.modCx f).backs = s.backs := rfl
@[simp] theorem State.modCx_accs (s : State) (f : Context → Context) : (s.modCx f).accs = s.accs := rfl
@[simp] theorem State.modCx_links (s : State) (f : Context → Context) : (s.modCx f).links = s.links := rfl
@[simp] theorem State.modCx_greqs (s : State) (f : Context → Context) : (s.modCx f).greqs = s.greqs := rfl
@[simp] theorem State.modCx_walks (s : State) (f : Context → Context) : (s.modCx f).walks = s.walks := rfl
@[simp] theorem State.modCx_gresps (s : State) (f : Context → Context) : (s.modCx f).gresps = s.gresps := rfl
@[simp] theorem State.modCx_gid (s : State) (f : Context → Context) : (s.modCx f).gid = s.gid := rfl
@[simp] theorem State.modCx_traps (s : State) (f : Context → Context) : (s.modCx f).traps = s.traps := rfl
@[simp] theorem State.modCx_posts (s : State) (f : Context → Context) : (s.modCx f).posts = s.posts := rfl
@[simp] theorem State.modCx_cmds (s : State) (f : Context → Context) : (s.modCx f).cmds = s.cmds := rfl
@[simp] theorem State.modCx_cmdId (s : State) (f : Context → Context) : (s.modCx f).cmdId = s.cmdId := rfl
@[simp] theorem State.modCx_peers (s : State) (f : Context → Context) : (s.modCx f).peers = s.peers := rfl
@[simp] theorem State.modCx_aborts (s : State) (f : Context → Context) : (s.modCx f).aborts = s.aborts := rfl
@[simp] theorem State.modCx_netErrs (s : State) (f : Context → Context) : (s.modCx f).netErrs = s.netErrs := rfl
@[simp] theorem State.modCx_collEnds (s : State) (f : Context → Context) : (s.modCx f).collEnds = s.collEnds := rfl
@[simp] theorem State.modCx_abortsOut (s : State) (f : Context → Context) : (s.modCx f).abortsOut = s.abortsOut := rfl
@[simp] theorem State.modCx_queues (s : State) (f : Context → Context) : (s.modCx f).queues = s.queues := rfl
@[simp] theorem State.modCx_groups (s : State) (f : Context → Context) : (s.modCx f).groups = s.groups := rfl
@[simp] theorem State.modCx_packets (s : State) (f : Context → Context) : (s.modCx f).packets = s.packets := rfl
@[simp] theorem State.modCx_replays (s : State) (f : Context → Context) : (s.modCx f).replays = s.replays := rfl
@[simp] theorem State.modCx_paired (s : State) (f : Context → Context) : (s.modCx f).paired = s.paired := rfl
@[simp] theorem State.modCx_secure (s : State) (f : Context → Context) : (s.modCx f).secure = s.secure := rfl
@[simp] theorem State.modCx_errs (s : State) (f : Context → Context) : (s.modCx f).errs = s.errs := rfl

@[simp] theorem State.sticky_sched (s : State) (n : Nat) : (s.sticky n).sched = s.sched := rfl
@[simp] theorem State.sticky_focus (s : State) (n : Nat) : (s.sticky n).focus = s.focus := rfl
@[simp] theorem State.sticky_cur (s : State) (n : Nat) : (s.sticky n).cur = s.cur := rfl
@[simp] theorem State.sticky_ctx (s : State) (n : Nat) : (s.sticky n).ctx = s.ctx := rfl
@[simp] theorem State.sticky_late (s : State) (n : Nat) : (s.sticky n).late = s.late := rfl
@[simp] theorem State.sticky_tick (s : State) (n : Nat) : (s.sticky n).tick = s.tick := rfl
@[simp] theorem State.sticky_power (s : State) (n : Nat) : (s.sticky n).power = s.power := rfl
@[simp] theorem State.sticky_time (s : State) (n : Nat) : (s.sticky n).time = s.time := rfl
@[simp] theorem State.sticky_clusters (s : State) (n : Nat) : (s.sticky n).clusters = s.clusters := rfl
@[simp] theorem State.sticky_die0 (s : State) (n : Nat) : (s.sticky n).die0 = s.die0 := rfl
@[simp] theorem State.sticky_die1 (s : State) (n : Nat) : (s.sticky n).die1 = s.die1 := rfl
@[simp] theorem State.sticky_slices (s : State) (n : Nat) : (s.sticky n).slices = s.slices := rfl
@[simp] theorem State.sticky_parts (s : State) (n : Nat) : (s.sticky n).parts = s.parts := rfl
@[simp] theorem State.sticky_rules (s : State) (n : Nat) : (s.sticky n).rules = s.rules := rfl
@[simp] theorem State.sticky_chans (s : State) (n : Nat) : (s.sticky n).chans = s.chans := rfl
@[simp] theorem State.sticky_phys (s : State) (n : Nat) : (s.sticky n).phys = s.phys := rfl
@[simp] theorem State.sticky_ctxBase (s : State) (n : Nat) : (s.sticky n).ctxBase = s.ctxBase := rfl
@[simp] theorem State.sticky_hostNo (s : State) (n : Nat) : (s.sticky n).hostNo = s.hostNo := rfl
@[simp] theorem State.sticky_fwGrants (s : State) (n : Nat) : (s.sticky n).fwGrants = s.fwGrants := rfl
@[simp] theorem State.sticky_saves (s : State) (n : Nat) : (s.sticky n).saves = s.saves := rfl
@[simp] theorem State.sticky_access (s : State) (n : Nat) : (s.sticky n).access = s.access := rfl
@[simp] theorem State.sticky_ranges (s : State) (n : Nat) : (s.sticky n).ranges = s.ranges := rfl
@[simp] theorem State.sticky_refusals (s : State) (n : Nat) : (s.sticky n).refusals = s.refusals := rfl
@[simp] theorem State.sticky_seq (s : State) (n : Nat) : (s.sticky n).seq = s.seq := rfl
@[simp] theorem State.sticky_msgs (s : State) (n : Nat) : (s.sticky n).msgs = s.msgs := rfl
@[simp] theorem State.sticky_backs (s : State) (n : Nat) : (s.sticky n).backs = s.backs := rfl
@[simp] theorem State.sticky_accs (s : State) (n : Nat) : (s.sticky n).accs = s.accs := rfl
@[simp] theorem State.sticky_links (s : State) (n : Nat) : (s.sticky n).links = s.links := rfl
@[simp] theorem State.sticky_greqs (s : State) (n : Nat) : (s.sticky n).greqs = s.greqs := rfl
@[simp] theorem State.sticky_walks (s : State) (n : Nat) : (s.sticky n).walks = s.walks := rfl
@[simp] theorem State.sticky_gresps (s : State) (n : Nat) : (s.sticky n).gresps = s.gresps := rfl
@[simp] theorem State.sticky_gid (s : State) (n : Nat) : (s.sticky n).gid = s.gid := rfl
@[simp] theorem State.sticky_traps (s : State) (n : Nat) : (s.sticky n).traps = s.traps := rfl
@[simp] theorem State.sticky_posts (s : State) (n : Nat) : (s.sticky n).posts = s.posts := rfl
@[simp] theorem State.sticky_cmds (s : State) (n : Nat) : (s.sticky n).cmds = s.cmds := rfl
@[simp] theorem State.sticky_cmdId (s : State) (n : Nat) : (s.sticky n).cmdId = s.cmdId := rfl
@[simp] theorem State.sticky_peers (s : State) (n : Nat) : (s.sticky n).peers = s.peers := rfl
@[simp] theorem State.sticky_aborts (s : State) (n : Nat) : (s.sticky n).aborts = s.aborts := rfl
@[simp] theorem State.sticky_netErrs (s : State) (n : Nat) : (s.sticky n).netErrs = s.netErrs := rfl
@[simp] theorem State.sticky_collEnds (s : State) (n : Nat) : (s.sticky n).collEnds = s.collEnds := rfl
@[simp] theorem State.sticky_abortsOut (s : State) (n : Nat) : (s.sticky n).abortsOut = s.abortsOut := rfl
@[simp] theorem State.sticky_queues (s : State) (n : Nat) : (s.sticky n).queues = s.queues := rfl
@[simp] theorem State.sticky_groups (s : State) (n : Nat) : (s.sticky n).groups = s.groups := rfl
@[simp] theorem State.sticky_packets (s : State) (n : Nat) : (s.sticky n).packets = s.packets := rfl
@[simp] theorem State.sticky_replays (s : State) (n : Nat) : (s.sticky n).replays = s.replays := rfl
@[simp] theorem State.sticky_paired (s : State) (n : Nat) : (s.sticky n).paired = s.paired := rfl
@[simp] theorem State.sticky_secure (s : State) (n : Nat) : (s.sticky n).secure = s.secure := rfl
@[simp] theorem State.sticky_errs (s : State) (n : Nat) : (s.sticky n).errs = s.errs := rfl

@[simp] theorem State.raise_sched (s : State) (f : FpFlags) : (s.raise f).sched = s.sched := rfl
@[simp] theorem State.raise_focus (s : State) (f : FpFlags) : (s.raise f).focus = s.focus := rfl
@[simp] theorem State.raise_cur (s : State) (f : FpFlags) : (s.raise f).cur = s.cur := rfl
@[simp] theorem State.raise_ctx (s : State) (f : FpFlags) : (s.raise f).ctx = s.ctx := rfl
@[simp] theorem State.raise_late (s : State) (f : FpFlags) : (s.raise f).late = s.late := rfl
@[simp] theorem State.raise_tick (s : State) (f : FpFlags) : (s.raise f).tick = s.tick := rfl
@[simp] theorem State.raise_power (s : State) (f : FpFlags) : (s.raise f).power = s.power := rfl
@[simp] theorem State.raise_time (s : State) (f : FpFlags) : (s.raise f).time = s.time := rfl
@[simp] theorem State.raise_clusters (s : State) (f : FpFlags) : (s.raise f).clusters = s.clusters := rfl
@[simp] theorem State.raise_die0 (s : State) (f : FpFlags) : (s.raise f).die0 = s.die0 := rfl
@[simp] theorem State.raise_die1 (s : State) (f : FpFlags) : (s.raise f).die1 = s.die1 := rfl
@[simp] theorem State.raise_slices (s : State) (f : FpFlags) : (s.raise f).slices = s.slices := rfl
@[simp] theorem State.raise_parts (s : State) (f : FpFlags) : (s.raise f).parts = s.parts := rfl
@[simp] theorem State.raise_rules (s : State) (f : FpFlags) : (s.raise f).rules = s.rules := rfl
@[simp] theorem State.raise_chans (s : State) (f : FpFlags) : (s.raise f).chans = s.chans := rfl
@[simp] theorem State.raise_phys (s : State) (f : FpFlags) : (s.raise f).phys = s.phys := rfl
@[simp] theorem State.raise_ctxBase (s : State) (f : FpFlags) : (s.raise f).ctxBase = s.ctxBase := rfl
@[simp] theorem State.raise_hostNo (s : State) (f : FpFlags) : (s.raise f).hostNo = s.hostNo := rfl
@[simp] theorem State.raise_fwGrants (s : State) (f : FpFlags) : (s.raise f).fwGrants = s.fwGrants := rfl
@[simp] theorem State.raise_saves (s : State) (f : FpFlags) : (s.raise f).saves = s.saves := rfl
@[simp] theorem State.raise_access (s : State) (f : FpFlags) : (s.raise f).access = s.access := rfl
@[simp] theorem State.raise_ranges (s : State) (f : FpFlags) : (s.raise f).ranges = s.ranges := rfl
@[simp] theorem State.raise_refusals (s : State) (f : FpFlags) : (s.raise f).refusals = s.refusals := rfl
@[simp] theorem State.raise_seq (s : State) (f : FpFlags) : (s.raise f).seq = s.seq := rfl
@[simp] theorem State.raise_msgs (s : State) (f : FpFlags) : (s.raise f).msgs = s.msgs := rfl
@[simp] theorem State.raise_backs (s : State) (f : FpFlags) : (s.raise f).backs = s.backs := rfl
@[simp] theorem State.raise_accs (s : State) (f : FpFlags) : (s.raise f).accs = s.accs := rfl
@[simp] theorem State.raise_links (s : State) (f : FpFlags) : (s.raise f).links = s.links := rfl
@[simp] theorem State.raise_greqs (s : State) (f : FpFlags) : (s.raise f).greqs = s.greqs := rfl
@[simp] theorem State.raise_walks (s : State) (f : FpFlags) : (s.raise f).walks = s.walks := rfl
@[simp] theorem State.raise_gresps (s : State) (f : FpFlags) : (s.raise f).gresps = s.gresps := rfl
@[simp] theorem State.raise_gid (s : State) (f : FpFlags) : (s.raise f).gid = s.gid := rfl
@[simp] theorem State.raise_traps (s : State) (f : FpFlags) : (s.raise f).traps = s.traps := rfl
@[simp] theorem State.raise_posts (s : State) (f : FpFlags) : (s.raise f).posts = s.posts := rfl
@[simp] theorem State.raise_cmds (s : State) (f : FpFlags) : (s.raise f).cmds = s.cmds := rfl
@[simp] theorem State.raise_cmdId (s : State) (f : FpFlags) : (s.raise f).cmdId = s.cmdId := rfl
@[simp] theorem State.raise_peers (s : State) (f : FpFlags) : (s.raise f).peers = s.peers := rfl
@[simp] theorem State.raise_aborts (s : State) (f : FpFlags) : (s.raise f).aborts = s.aborts := rfl
@[simp] theorem State.raise_netErrs (s : State) (f : FpFlags) : (s.raise f).netErrs = s.netErrs := rfl
@[simp] theorem State.raise_collEnds (s : State) (f : FpFlags) : (s.raise f).collEnds = s.collEnds := rfl
@[simp] theorem State.raise_abortsOut (s : State) (f : FpFlags) : (s.raise f).abortsOut = s.abortsOut := rfl
@[simp] theorem State.raise_queues (s : State) (f : FpFlags) : (s.raise f).queues = s.queues := rfl
@[simp] theorem State.raise_groups (s : State) (f : FpFlags) : (s.raise f).groups = s.groups := rfl
@[simp] theorem State.raise_packets (s : State) (f : FpFlags) : (s.raise f).packets = s.packets := rfl
@[simp] theorem State.raise_replays (s : State) (f : FpFlags) : (s.raise f).replays = s.replays := rfl
@[simp] theorem State.raise_paired (s : State) (f : FpFlags) : (s.raise f).paired = s.paired := rfl
@[simp] theorem State.raise_secure (s : State) (f : FpFlags) : (s.raise f).secure = s.secure := rfl
@[simp] theorem State.raise_errs (s : State) (f : FpFlags) : (s.raise f).errs = s.errs := rfl

@[simp] theorem State.modCluster_sched (s : State) (p : Nat) (f : Cluster → Cluster) : (s.modCluster p f).sched = s.sched := rfl
@[simp] theorem State.modCluster_focus (s : State) (p : Nat) (f : Cluster → Cluster) : (s.modCluster p f).focus = s.focus := rfl
@[simp] theorem State.modCluster_cur (s : State) (p : Nat) (f : Cluster → Cluster) : (s.modCluster p f).cur = s.cur := rfl
@[simp] theorem State.modCluster_ctx (s : State) (p : Nat) (f : Cluster → Cluster) : (s.modCluster p f).ctx = s.ctx := rfl
@[simp] theorem State.modCluster_late (s : State) (p : Nat) (f : Cluster → Cluster) : (s.modCluster p f).late = s.late := rfl
@[simp] theorem State.modCluster_tick (s : State) (p : Nat) (f : Cluster → Cluster) : (s.modCluster p f).tick = s.tick := rfl
@[simp] theorem State.modCluster_power (s : State) (p : Nat) (f : Cluster → Cluster) : (s.modCluster p f).power = s.power := rfl
@[simp] theorem State.modCluster_time (s : State) (p : Nat) (f : Cluster → Cluster) : (s.modCluster p f).time = s.time := rfl
@[simp] theorem State.modCluster_cores (s : State) (p : Nat) (f : Cluster → Cluster) : (s.modCluster p f).cores = s.cores := rfl
@[simp] theorem State.modCluster_die0 (s : State) (p : Nat) (f : Cluster → Cluster) : (s.modCluster p f).die0 = s.die0 := rfl
@[simp] theorem State.modCluster_die1 (s : State) (p : Nat) (f : Cluster → Cluster) : (s.modCluster p f).die1 = s.die1 := rfl
@[simp] theorem State.modCluster_slices (s : State) (p : Nat) (f : Cluster → Cluster) : (s.modCluster p f).slices = s.slices := rfl
@[simp] theorem State.modCluster_parts (s : State) (p : Nat) (f : Cluster → Cluster) : (s.modCluster p f).parts = s.parts := rfl
@[simp] theorem State.modCluster_rules (s : State) (p : Nat) (f : Cluster → Cluster) : (s.modCluster p f).rules = s.rules := rfl
@[simp] theorem State.modCluster_chans (s : State) (p : Nat) (f : Cluster → Cluster) : (s.modCluster p f).chans = s.chans := rfl
@[simp] theorem State.modCluster_phys (s : State) (p : Nat) (f : Cluster → Cluster) : (s.modCluster p f).phys = s.phys := rfl
@[simp] theorem State.modCluster_ctxBase (s : State) (p : Nat) (f : Cluster → Cluster) : (s.modCluster p f).ctxBase = s.ctxBase := rfl
@[simp] theorem State.modCluster_hostNo (s : State) (p : Nat) (f : Cluster → Cluster) : (s.modCluster p f).hostNo = s.hostNo := rfl
@[simp] theorem State.modCluster_fwGrants (s : State) (p : Nat) (f : Cluster → Cluster) : (s.modCluster p f).fwGrants = s.fwGrants := rfl
@[simp] theorem State.modCluster_saves (s : State) (p : Nat) (f : Cluster → Cluster) : (s.modCluster p f).saves = s.saves := rfl
@[simp] theorem State.modCluster_access (s : State) (p : Nat) (f : Cluster → Cluster) : (s.modCluster p f).access = s.access := rfl
@[simp] theorem State.modCluster_ranges (s : State) (p : Nat) (f : Cluster → Cluster) : (s.modCluster p f).ranges = s.ranges := rfl
@[simp] theorem State.modCluster_refusals (s : State) (p : Nat) (f : Cluster → Cluster) : (s.modCluster p f).refusals = s.refusals := rfl
@[simp] theorem State.modCluster_seq (s : State) (p : Nat) (f : Cluster → Cluster) : (s.modCluster p f).seq = s.seq := rfl
@[simp] theorem State.modCluster_msgs (s : State) (p : Nat) (f : Cluster → Cluster) : (s.modCluster p f).msgs = s.msgs := rfl
@[simp] theorem State.modCluster_backs (s : State) (p : Nat) (f : Cluster → Cluster) : (s.modCluster p f).backs = s.backs := rfl
@[simp] theorem State.modCluster_accs (s : State) (p : Nat) (f : Cluster → Cluster) : (s.modCluster p f).accs = s.accs := rfl
@[simp] theorem State.modCluster_links (s : State) (p : Nat) (f : Cluster → Cluster) : (s.modCluster p f).links = s.links := rfl
@[simp] theorem State.modCluster_greqs (s : State) (p : Nat) (f : Cluster → Cluster) : (s.modCluster p f).greqs = s.greqs := rfl
@[simp] theorem State.modCluster_walks (s : State) (p : Nat) (f : Cluster → Cluster) : (s.modCluster p f).walks = s.walks := rfl
@[simp] theorem State.modCluster_gresps (s : State) (p : Nat) (f : Cluster → Cluster) : (s.modCluster p f).gresps = s.gresps := rfl
@[simp] theorem State.modCluster_gid (s : State) (p : Nat) (f : Cluster → Cluster) : (s.modCluster p f).gid = s.gid := rfl
@[simp] theorem State.modCluster_traps (s : State) (p : Nat) (f : Cluster → Cluster) : (s.modCluster p f).traps = s.traps := rfl
@[simp] theorem State.modCluster_posts (s : State) (p : Nat) (f : Cluster → Cluster) : (s.modCluster p f).posts = s.posts := rfl
@[simp] theorem State.modCluster_cmds (s : State) (p : Nat) (f : Cluster → Cluster) : (s.modCluster p f).cmds = s.cmds := rfl
@[simp] theorem State.modCluster_cmdId (s : State) (p : Nat) (f : Cluster → Cluster) : (s.modCluster p f).cmdId = s.cmdId := rfl
@[simp] theorem State.modCluster_peers (s : State) (p : Nat) (f : Cluster → Cluster) : (s.modCluster p f).peers = s.peers := rfl
@[simp] theorem State.modCluster_aborts (s : State) (p : Nat) (f : Cluster → Cluster) : (s.modCluster p f).aborts = s.aborts := rfl
@[simp] theorem State.modCluster_netErrs (s : State) (p : Nat) (f : Cluster → Cluster) : (s.modCluster p f).netErrs = s.netErrs := rfl
@[simp] theorem State.modCluster_collEnds (s : State) (p : Nat) (f : Cluster → Cluster) : (s.modCluster p f).collEnds = s.collEnds := rfl
@[simp] theorem State.modCluster_abortsOut (s : State) (p : Nat) (f : Cluster → Cluster) : (s.modCluster p f).abortsOut = s.abortsOut := rfl
@[simp] theorem State.modCluster_queues (s : State) (p : Nat) (f : Cluster → Cluster) : (s.modCluster p f).queues = s.queues := rfl
@[simp] theorem State.modCluster_groups (s : State) (p : Nat) (f : Cluster → Cluster) : (s.modCluster p f).groups = s.groups := rfl
@[simp] theorem State.modCluster_packets (s : State) (p : Nat) (f : Cluster → Cluster) : (s.modCluster p f).packets = s.packets := rfl
@[simp] theorem State.modCluster_replays (s : State) (p : Nat) (f : Cluster → Cluster) : (s.modCluster p f).replays = s.replays := rfl
@[simp] theorem State.modCluster_paired (s : State) (p : Nat) (f : Cluster → Cluster) : (s.modCluster p f).paired = s.paired := rfl
@[simp] theorem State.modCluster_secure (s : State) (p : Nat) (f : Cluster → Cluster) : (s.modCluster p f).secure = s.secure := rfl
@[simp] theorem State.modCluster_errs (s : State) (p : Nat) (f : Cluster → Cluster) : (s.modCluster p f).errs = s.errs := rfl

@[simp] theorem State.modSlice_sched (s : State) (p : Nat) (f : Slice → Slice) : (s.modSlice p f).sched = s.sched := rfl
@[simp] theorem State.modSlice_focus (s : State) (p : Nat) (f : Slice → Slice) : (s.modSlice p f).focus = s.focus := rfl
@[simp] theorem State.modSlice_cur (s : State) (p : Nat) (f : Slice → Slice) : (s.modSlice p f).cur = s.cur := rfl
@[simp] theorem State.modSlice_ctx (s : State) (p : Nat) (f : Slice → Slice) : (s.modSlice p f).ctx = s.ctx := rfl
@[simp] theorem State.modSlice_late (s : State) (p : Nat) (f : Slice → Slice) : (s.modSlice p f).late = s.late := rfl
@[simp] theorem State.modSlice_tick (s : State) (p : Nat) (f : Slice → Slice) : (s.modSlice p f).tick = s.tick := rfl
@[simp] theorem State.modSlice_power (s : State) (p : Nat) (f : Slice → Slice) : (s.modSlice p f).power = s.power := rfl
@[simp] theorem State.modSlice_time (s : State) (p : Nat) (f : Slice → Slice) : (s.modSlice p f).time = s.time := rfl
@[simp] theorem State.modSlice_cores (s : State) (p : Nat) (f : Slice → Slice) : (s.modSlice p f).cores = s.cores := rfl
@[simp] theorem State.modSlice_clusters (s : State) (p : Nat) (f : Slice → Slice) : (s.modSlice p f).clusters = s.clusters := rfl
@[simp] theorem State.modSlice_die0 (s : State) (p : Nat) (f : Slice → Slice) : (s.modSlice p f).die0 = s.die0 := rfl
@[simp] theorem State.modSlice_die1 (s : State) (p : Nat) (f : Slice → Slice) : (s.modSlice p f).die1 = s.die1 := rfl
@[simp] theorem State.modSlice_parts (s : State) (p : Nat) (f : Slice → Slice) : (s.modSlice p f).parts = s.parts := rfl
@[simp] theorem State.modSlice_rules (s : State) (p : Nat) (f : Slice → Slice) : (s.modSlice p f).rules = s.rules := rfl
@[simp] theorem State.modSlice_chans (s : State) (p : Nat) (f : Slice → Slice) : (s.modSlice p f).chans = s.chans := rfl
@[simp] theorem State.modSlice_phys (s : State) (p : Nat) (f : Slice → Slice) : (s.modSlice p f).phys = s.phys := rfl
@[simp] theorem State.modSlice_ctxBase (s : State) (p : Nat) (f : Slice → Slice) : (s.modSlice p f).ctxBase = s.ctxBase := rfl
@[simp] theorem State.modSlice_hostNo (s : State) (p : Nat) (f : Slice → Slice) : (s.modSlice p f).hostNo = s.hostNo := rfl
@[simp] theorem State.modSlice_fwGrants (s : State) (p : Nat) (f : Slice → Slice) : (s.modSlice p f).fwGrants = s.fwGrants := rfl
@[simp] theorem State.modSlice_saves (s : State) (p : Nat) (f : Slice → Slice) : (s.modSlice p f).saves = s.saves := rfl
@[simp] theorem State.modSlice_access (s : State) (p : Nat) (f : Slice → Slice) : (s.modSlice p f).access = s.access := rfl
@[simp] theorem State.modSlice_ranges (s : State) (p : Nat) (f : Slice → Slice) : (s.modSlice p f).ranges = s.ranges := rfl
@[simp] theorem State.modSlice_refusals (s : State) (p : Nat) (f : Slice → Slice) : (s.modSlice p f).refusals = s.refusals := rfl
@[simp] theorem State.modSlice_seq (s : State) (p : Nat) (f : Slice → Slice) : (s.modSlice p f).seq = s.seq := rfl
@[simp] theorem State.modSlice_msgs (s : State) (p : Nat) (f : Slice → Slice) : (s.modSlice p f).msgs = s.msgs := rfl
@[simp] theorem State.modSlice_backs (s : State) (p : Nat) (f : Slice → Slice) : (s.modSlice p f).backs = s.backs := rfl
@[simp] theorem State.modSlice_accs (s : State) (p : Nat) (f : Slice → Slice) : (s.modSlice p f).accs = s.accs := rfl
@[simp] theorem State.modSlice_links (s : State) (p : Nat) (f : Slice → Slice) : (s.modSlice p f).links = s.links := rfl
@[simp] theorem State.modSlice_greqs (s : State) (p : Nat) (f : Slice → Slice) : (s.modSlice p f).greqs = s.greqs := rfl
@[simp] theorem State.modSlice_walks (s : State) (p : Nat) (f : Slice → Slice) : (s.modSlice p f).walks = s.walks := rfl
@[simp] theorem State.modSlice_gresps (s : State) (p : Nat) (f : Slice → Slice) : (s.modSlice p f).gresps = s.gresps := rfl
@[simp] theorem State.modSlice_gid (s : State) (p : Nat) (f : Slice → Slice) : (s.modSlice p f).gid = s.gid := rfl
@[simp] theorem State.modSlice_traps (s : State) (p : Nat) (f : Slice → Slice) : (s.modSlice p f).traps = s.traps := rfl
@[simp] theorem State.modSlice_posts (s : State) (p : Nat) (f : Slice → Slice) : (s.modSlice p f).posts = s.posts := rfl
@[simp] theorem State.modSlice_cmds (s : State) (p : Nat) (f : Slice → Slice) : (s.modSlice p f).cmds = s.cmds := rfl
@[simp] theorem State.modSlice_cmdId (s : State) (p : Nat) (f : Slice → Slice) : (s.modSlice p f).cmdId = s.cmdId := rfl
@[simp] theorem State.modSlice_peers (s : State) (p : Nat) (f : Slice → Slice) : (s.modSlice p f).peers = s.peers := rfl
@[simp] theorem State.modSlice_aborts (s : State) (p : Nat) (f : Slice → Slice) : (s.modSlice p f).aborts = s.aborts := rfl
@[simp] theorem State.modSlice_netErrs (s : State) (p : Nat) (f : Slice → Slice) : (s.modSlice p f).netErrs = s.netErrs := rfl
@[simp] theorem State.modSlice_collEnds (s : State) (p : Nat) (f : Slice → Slice) : (s.modSlice p f).collEnds = s.collEnds := rfl
@[simp] theorem State.modSlice_abortsOut (s : State) (p : Nat) (f : Slice → Slice) : (s.modSlice p f).abortsOut = s.abortsOut := rfl
@[simp] theorem State.modSlice_queues (s : State) (p : Nat) (f : Slice → Slice) : (s.modSlice p f).queues = s.queues := rfl
@[simp] theorem State.modSlice_groups (s : State) (p : Nat) (f : Slice → Slice) : (s.modSlice p f).groups = s.groups := rfl
@[simp] theorem State.modSlice_packets (s : State) (p : Nat) (f : Slice → Slice) : (s.modSlice p f).packets = s.packets := rfl
@[simp] theorem State.modSlice_replays (s : State) (p : Nat) (f : Slice → Slice) : (s.modSlice p f).replays = s.replays := rfl
@[simp] theorem State.modSlice_paired (s : State) (p : Nat) (f : Slice → Slice) : (s.modSlice p f).paired = s.paired := rfl
@[simp] theorem State.modSlice_secure (s : State) (p : Nat) (f : Slice → Slice) : (s.modSlice p f).secure = s.secure := rfl
@[simp] theorem State.modSlice_errs (s : State) (p : Nat) (f : Slice → Slice) : (s.modSlice p f).errs = s.errs := rfl

@[simp] theorem State.modPart_sched (s : State) (p : Nat) (f : Partition → Partition) : (s.modPart p f).sched = s.sched := rfl
@[simp] theorem State.modPart_focus (s : State) (p : Nat) (f : Partition → Partition) : (s.modPart p f).focus = s.focus := rfl
@[simp] theorem State.modPart_cur (s : State) (p : Nat) (f : Partition → Partition) : (s.modPart p f).cur = s.cur := rfl
@[simp] theorem State.modPart_ctx (s : State) (p : Nat) (f : Partition → Partition) : (s.modPart p f).ctx = s.ctx := rfl
@[simp] theorem State.modPart_late (s : State) (p : Nat) (f : Partition → Partition) : (s.modPart p f).late = s.late := rfl
@[simp] theorem State.modPart_tick (s : State) (p : Nat) (f : Partition → Partition) : (s.modPart p f).tick = s.tick := rfl
@[simp] theorem State.modPart_power (s : State) (p : Nat) (f : Partition → Partition) : (s.modPart p f).power = s.power := rfl
@[simp] theorem State.modPart_time (s : State) (p : Nat) (f : Partition → Partition) : (s.modPart p f).time = s.time := rfl
@[simp] theorem State.modPart_cores (s : State) (p : Nat) (f : Partition → Partition) : (s.modPart p f).cores = s.cores := rfl
@[simp] theorem State.modPart_clusters (s : State) (p : Nat) (f : Partition → Partition) : (s.modPart p f).clusters = s.clusters := rfl
@[simp] theorem State.modPart_die0 (s : State) (p : Nat) (f : Partition → Partition) : (s.modPart p f).die0 = s.die0 := rfl
@[simp] theorem State.modPart_die1 (s : State) (p : Nat) (f : Partition → Partition) : (s.modPart p f).die1 = s.die1 := rfl
@[simp] theorem State.modPart_slices (s : State) (p : Nat) (f : Partition → Partition) : (s.modPart p f).slices = s.slices := rfl
@[simp] theorem State.modPart_rules (s : State) (p : Nat) (f : Partition → Partition) : (s.modPart p f).rules = s.rules := rfl
@[simp] theorem State.modPart_chans (s : State) (p : Nat) (f : Partition → Partition) : (s.modPart p f).chans = s.chans := rfl
@[simp] theorem State.modPart_phys (s : State) (p : Nat) (f : Partition → Partition) : (s.modPart p f).phys = s.phys := rfl
@[simp] theorem State.modPart_ctxBase (s : State) (p : Nat) (f : Partition → Partition) : (s.modPart p f).ctxBase = s.ctxBase := rfl
@[simp] theorem State.modPart_hostNo (s : State) (p : Nat) (f : Partition → Partition) : (s.modPart p f).hostNo = s.hostNo := rfl
@[simp] theorem State.modPart_fwGrants (s : State) (p : Nat) (f : Partition → Partition) : (s.modPart p f).fwGrants = s.fwGrants := rfl
@[simp] theorem State.modPart_saves (s : State) (p : Nat) (f : Partition → Partition) : (s.modPart p f).saves = s.saves := rfl
@[simp] theorem State.modPart_access (s : State) (p : Nat) (f : Partition → Partition) : (s.modPart p f).access = s.access := rfl
@[simp] theorem State.modPart_ranges (s : State) (p : Nat) (f : Partition → Partition) : (s.modPart p f).ranges = s.ranges := rfl
@[simp] theorem State.modPart_refusals (s : State) (p : Nat) (f : Partition → Partition) : (s.modPart p f).refusals = s.refusals := rfl
@[simp] theorem State.modPart_seq (s : State) (p : Nat) (f : Partition → Partition) : (s.modPart p f).seq = s.seq := rfl
@[simp] theorem State.modPart_msgs (s : State) (p : Nat) (f : Partition → Partition) : (s.modPart p f).msgs = s.msgs := rfl
@[simp] theorem State.modPart_backs (s : State) (p : Nat) (f : Partition → Partition) : (s.modPart p f).backs = s.backs := rfl
@[simp] theorem State.modPart_accs (s : State) (p : Nat) (f : Partition → Partition) : (s.modPart p f).accs = s.accs := rfl
@[simp] theorem State.modPart_links (s : State) (p : Nat) (f : Partition → Partition) : (s.modPart p f).links = s.links := rfl
@[simp] theorem State.modPart_greqs (s : State) (p : Nat) (f : Partition → Partition) : (s.modPart p f).greqs = s.greqs := rfl
@[simp] theorem State.modPart_walks (s : State) (p : Nat) (f : Partition → Partition) : (s.modPart p f).walks = s.walks := rfl
@[simp] theorem State.modPart_gresps (s : State) (p : Nat) (f : Partition → Partition) : (s.modPart p f).gresps = s.gresps := rfl
@[simp] theorem State.modPart_gid (s : State) (p : Nat) (f : Partition → Partition) : (s.modPart p f).gid = s.gid := rfl
@[simp] theorem State.modPart_traps (s : State) (p : Nat) (f : Partition → Partition) : (s.modPart p f).traps = s.traps := rfl
@[simp] theorem State.modPart_posts (s : State) (p : Nat) (f : Partition → Partition) : (s.modPart p f).posts = s.posts := rfl
@[simp] theorem State.modPart_cmds (s : State) (p : Nat) (f : Partition → Partition) : (s.modPart p f).cmds = s.cmds := rfl
@[simp] theorem State.modPart_cmdId (s : State) (p : Nat) (f : Partition → Partition) : (s.modPart p f).cmdId = s.cmdId := rfl
@[simp] theorem State.modPart_peers (s : State) (p : Nat) (f : Partition → Partition) : (s.modPart p f).peers = s.peers := rfl
@[simp] theorem State.modPart_aborts (s : State) (p : Nat) (f : Partition → Partition) : (s.modPart p f).aborts = s.aborts := rfl
@[simp] theorem State.modPart_netErrs (s : State) (p : Nat) (f : Partition → Partition) : (s.modPart p f).netErrs = s.netErrs := rfl
@[simp] theorem State.modPart_collEnds (s : State) (p : Nat) (f : Partition → Partition) : (s.modPart p f).collEnds = s.collEnds := rfl
@[simp] theorem State.modPart_abortsOut (s : State) (p : Nat) (f : Partition → Partition) : (s.modPart p f).abortsOut = s.abortsOut := rfl
@[simp] theorem State.modPart_queues (s : State) (p : Nat) (f : Partition → Partition) : (s.modPart p f).queues = s.queues := rfl
@[simp] theorem State.modPart_groups (s : State) (p : Nat) (f : Partition → Partition) : (s.modPart p f).groups = s.groups := rfl
@[simp] theorem State.modPart_packets (s : State) (p : Nat) (f : Partition → Partition) : (s.modPart p f).packets = s.packets := rfl
@[simp] theorem State.modPart_replays (s : State) (p : Nat) (f : Partition → Partition) : (s.modPart p f).replays = s.replays := rfl
@[simp] theorem State.modPart_paired (s : State) (p : Nat) (f : Partition → Partition) : (s.modPart p f).paired = s.paired := rfl
@[simp] theorem State.modPart_secure (s : State) (p : Nat) (f : Partition → Partition) : (s.modPart p f).secure = s.secure := rfl
@[simp] theorem State.modPart_errs (s : State) (p : Nat) (f : Partition → Partition) : (s.modPart p f).errs = s.errs := rfl

@[simp] theorem State.modRule_sched (s : State) (p : Nat) (f : Slot → Slot) : (s.modRule p f).sched = s.sched := rfl
@[simp] theorem State.modRule_focus (s : State) (p : Nat) (f : Slot → Slot) : (s.modRule p f).focus = s.focus := rfl
@[simp] theorem State.modRule_cur (s : State) (p : Nat) (f : Slot → Slot) : (s.modRule p f).cur = s.cur := rfl
@[simp] theorem State.modRule_ctx (s : State) (p : Nat) (f : Slot → Slot) : (s.modRule p f).ctx = s.ctx := rfl
@[simp] theorem State.modRule_late (s : State) (p : Nat) (f : Slot → Slot) : (s.modRule p f).late = s.late := rfl
@[simp] theorem State.modRule_tick (s : State) (p : Nat) (f : Slot → Slot) : (s.modRule p f).tick = s.tick := rfl
@[simp] theorem State.modRule_power (s : State) (p : Nat) (f : Slot → Slot) : (s.modRule p f).power = s.power := rfl
@[simp] theorem State.modRule_time (s : State) (p : Nat) (f : Slot → Slot) : (s.modRule p f).time = s.time := rfl
@[simp] theorem State.modRule_cores (s : State) (p : Nat) (f : Slot → Slot) : (s.modRule p f).cores = s.cores := rfl
@[simp] theorem State.modRule_clusters (s : State) (p : Nat) (f : Slot → Slot) : (s.modRule p f).clusters = s.clusters := rfl
@[simp] theorem State.modRule_die0 (s : State) (p : Nat) (f : Slot → Slot) : (s.modRule p f).die0 = s.die0 := rfl
@[simp] theorem State.modRule_die1 (s : State) (p : Nat) (f : Slot → Slot) : (s.modRule p f).die1 = s.die1 := rfl
@[simp] theorem State.modRule_slices (s : State) (p : Nat) (f : Slot → Slot) : (s.modRule p f).slices = s.slices := rfl
@[simp] theorem State.modRule_parts (s : State) (p : Nat) (f : Slot → Slot) : (s.modRule p f).parts = s.parts := rfl
@[simp] theorem State.modRule_chans (s : State) (p : Nat) (f : Slot → Slot) : (s.modRule p f).chans = s.chans := rfl
@[simp] theorem State.modRule_phys (s : State) (p : Nat) (f : Slot → Slot) : (s.modRule p f).phys = s.phys := rfl
@[simp] theorem State.modRule_ctxBase (s : State) (p : Nat) (f : Slot → Slot) : (s.modRule p f).ctxBase = s.ctxBase := rfl
@[simp] theorem State.modRule_hostNo (s : State) (p : Nat) (f : Slot → Slot) : (s.modRule p f).hostNo = s.hostNo := rfl
@[simp] theorem State.modRule_fwGrants (s : State) (p : Nat) (f : Slot → Slot) : (s.modRule p f).fwGrants = s.fwGrants := rfl
@[simp] theorem State.modRule_saves (s : State) (p : Nat) (f : Slot → Slot) : (s.modRule p f).saves = s.saves := rfl
@[simp] theorem State.modRule_access (s : State) (p : Nat) (f : Slot → Slot) : (s.modRule p f).access = s.access := rfl
@[simp] theorem State.modRule_ranges (s : State) (p : Nat) (f : Slot → Slot) : (s.modRule p f).ranges = s.ranges := rfl
@[simp] theorem State.modRule_refusals (s : State) (p : Nat) (f : Slot → Slot) : (s.modRule p f).refusals = s.refusals := rfl
@[simp] theorem State.modRule_seq (s : State) (p : Nat) (f : Slot → Slot) : (s.modRule p f).seq = s.seq := rfl
@[simp] theorem State.modRule_msgs (s : State) (p : Nat) (f : Slot → Slot) : (s.modRule p f).msgs = s.msgs := rfl
@[simp] theorem State.modRule_backs (s : State) (p : Nat) (f : Slot → Slot) : (s.modRule p f).backs = s.backs := rfl
@[simp] theorem State.modRule_accs (s : State) (p : Nat) (f : Slot → Slot) : (s.modRule p f).accs = s.accs := rfl
@[simp] theorem State.modRule_links (s : State) (p : Nat) (f : Slot → Slot) : (s.modRule p f).links = s.links := rfl
@[simp] theorem State.modRule_greqs (s : State) (p : Nat) (f : Slot → Slot) : (s.modRule p f).greqs = s.greqs := rfl
@[simp] theorem State.modRule_walks (s : State) (p : Nat) (f : Slot → Slot) : (s.modRule p f).walks = s.walks := rfl
@[simp] theorem State.modRule_gresps (s : State) (p : Nat) (f : Slot → Slot) : (s.modRule p f).gresps = s.gresps := rfl
@[simp] theorem State.modRule_gid (s : State) (p : Nat) (f : Slot → Slot) : (s.modRule p f).gid = s.gid := rfl
@[simp] theorem State.modRule_traps (s : State) (p : Nat) (f : Slot → Slot) : (s.modRule p f).traps = s.traps := rfl
@[simp] theorem State.modRule_posts (s : State) (p : Nat) (f : Slot → Slot) : (s.modRule p f).posts = s.posts := rfl
@[simp] theorem State.modRule_cmds (s : State) (p : Nat) (f : Slot → Slot) : (s.modRule p f).cmds = s.cmds := rfl
@[simp] theorem State.modRule_cmdId (s : State) (p : Nat) (f : Slot → Slot) : (s.modRule p f).cmdId = s.cmdId := rfl
@[simp] theorem State.modRule_peers (s : State) (p : Nat) (f : Slot → Slot) : (s.modRule p f).peers = s.peers := rfl
@[simp] theorem State.modRule_aborts (s : State) (p : Nat) (f : Slot → Slot) : (s.modRule p f).aborts = s.aborts := rfl
@[simp] theorem State.modRule_netErrs (s : State) (p : Nat) (f : Slot → Slot) : (s.modRule p f).netErrs = s.netErrs := rfl
@[simp] theorem State.modRule_collEnds (s : State) (p : Nat) (f : Slot → Slot) : (s.modRule p f).collEnds = s.collEnds := rfl
@[simp] theorem State.modRule_abortsOut (s : State) (p : Nat) (f : Slot → Slot) : (s.modRule p f).abortsOut = s.abortsOut := rfl
@[simp] theorem State.modRule_queues (s : State) (p : Nat) (f : Slot → Slot) : (s.modRule p f).queues = s.queues := rfl
@[simp] theorem State.modRule_groups (s : State) (p : Nat) (f : Slot → Slot) : (s.modRule p f).groups = s.groups := rfl
@[simp] theorem State.modRule_packets (s : State) (p : Nat) (f : Slot → Slot) : (s.modRule p f).packets = s.packets := rfl
@[simp] theorem State.modRule_replays (s : State) (p : Nat) (f : Slot → Slot) : (s.modRule p f).replays = s.replays := rfl
@[simp] theorem State.modRule_paired (s : State) (p : Nat) (f : Slot → Slot) : (s.modRule p f).paired = s.paired := rfl
@[simp] theorem State.modRule_secure (s : State) (p : Nat) (f : Slot → Slot) : (s.modRule p f).secure = s.secure := rfl
@[simp] theorem State.modRule_errs (s : State) (p : Nat) (f : Slot → Slot) : (s.modRule p f).errs = s.errs := rfl

@[simp] theorem State.modChan_sched (s : State) (p : Nat) (f : Channel → Channel) : (s.modChan p f).sched = s.sched := rfl
@[simp] theorem State.modChan_focus (s : State) (p : Nat) (f : Channel → Channel) : (s.modChan p f).focus = s.focus := rfl
@[simp] theorem State.modChan_cur (s : State) (p : Nat) (f : Channel → Channel) : (s.modChan p f).cur = s.cur := rfl
@[simp] theorem State.modChan_ctx (s : State) (p : Nat) (f : Channel → Channel) : (s.modChan p f).ctx = s.ctx := rfl
@[simp] theorem State.modChan_late (s : State) (p : Nat) (f : Channel → Channel) : (s.modChan p f).late = s.late := rfl
@[simp] theorem State.modChan_tick (s : State) (p : Nat) (f : Channel → Channel) : (s.modChan p f).tick = s.tick := rfl
@[simp] theorem State.modChan_power (s : State) (p : Nat) (f : Channel → Channel) : (s.modChan p f).power = s.power := rfl
@[simp] theorem State.modChan_time (s : State) (p : Nat) (f : Channel → Channel) : (s.modChan p f).time = s.time := rfl
@[simp] theorem State.modChan_cores (s : State) (p : Nat) (f : Channel → Channel) : (s.modChan p f).cores = s.cores := rfl
@[simp] theorem State.modChan_clusters (s : State) (p : Nat) (f : Channel → Channel) : (s.modChan p f).clusters = s.clusters := rfl
@[simp] theorem State.modChan_die0 (s : State) (p : Nat) (f : Channel → Channel) : (s.modChan p f).die0 = s.die0 := rfl
@[simp] theorem State.modChan_die1 (s : State) (p : Nat) (f : Channel → Channel) : (s.modChan p f).die1 = s.die1 := rfl
@[simp] theorem State.modChan_slices (s : State) (p : Nat) (f : Channel → Channel) : (s.modChan p f).slices = s.slices := rfl
@[simp] theorem State.modChan_parts (s : State) (p : Nat) (f : Channel → Channel) : (s.modChan p f).parts = s.parts := rfl
@[simp] theorem State.modChan_rules (s : State) (p : Nat) (f : Channel → Channel) : (s.modChan p f).rules = s.rules := rfl
@[simp] theorem State.modChan_phys (s : State) (p : Nat) (f : Channel → Channel) : (s.modChan p f).phys = s.phys := rfl
@[simp] theorem State.modChan_ctxBase (s : State) (p : Nat) (f : Channel → Channel) : (s.modChan p f).ctxBase = s.ctxBase := rfl
@[simp] theorem State.modChan_hostNo (s : State) (p : Nat) (f : Channel → Channel) : (s.modChan p f).hostNo = s.hostNo := rfl
@[simp] theorem State.modChan_fwGrants (s : State) (p : Nat) (f : Channel → Channel) : (s.modChan p f).fwGrants = s.fwGrants := rfl
@[simp] theorem State.modChan_saves (s : State) (p : Nat) (f : Channel → Channel) : (s.modChan p f).saves = s.saves := rfl
@[simp] theorem State.modChan_access (s : State) (p : Nat) (f : Channel → Channel) : (s.modChan p f).access = s.access := rfl
@[simp] theorem State.modChan_ranges (s : State) (p : Nat) (f : Channel → Channel) : (s.modChan p f).ranges = s.ranges := rfl
@[simp] theorem State.modChan_refusals (s : State) (p : Nat) (f : Channel → Channel) : (s.modChan p f).refusals = s.refusals := rfl
@[simp] theorem State.modChan_seq (s : State) (p : Nat) (f : Channel → Channel) : (s.modChan p f).seq = s.seq := rfl
@[simp] theorem State.modChan_msgs (s : State) (p : Nat) (f : Channel → Channel) : (s.modChan p f).msgs = s.msgs := rfl
@[simp] theorem State.modChan_backs (s : State) (p : Nat) (f : Channel → Channel) : (s.modChan p f).backs = s.backs := rfl
@[simp] theorem State.modChan_accs (s : State) (p : Nat) (f : Channel → Channel) : (s.modChan p f).accs = s.accs := rfl
@[simp] theorem State.modChan_links (s : State) (p : Nat) (f : Channel → Channel) : (s.modChan p f).links = s.links := rfl
@[simp] theorem State.modChan_greqs (s : State) (p : Nat) (f : Channel → Channel) : (s.modChan p f).greqs = s.greqs := rfl
@[simp] theorem State.modChan_walks (s : State) (p : Nat) (f : Channel → Channel) : (s.modChan p f).walks = s.walks := rfl
@[simp] theorem State.modChan_gresps (s : State) (p : Nat) (f : Channel → Channel) : (s.modChan p f).gresps = s.gresps := rfl
@[simp] theorem State.modChan_gid (s : State) (p : Nat) (f : Channel → Channel) : (s.modChan p f).gid = s.gid := rfl
@[simp] theorem State.modChan_traps (s : State) (p : Nat) (f : Channel → Channel) : (s.modChan p f).traps = s.traps := rfl
@[simp] theorem State.modChan_posts (s : State) (p : Nat) (f : Channel → Channel) : (s.modChan p f).posts = s.posts := rfl
@[simp] theorem State.modChan_cmds (s : State) (p : Nat) (f : Channel → Channel) : (s.modChan p f).cmds = s.cmds := rfl
@[simp] theorem State.modChan_cmdId (s : State) (p : Nat) (f : Channel → Channel) : (s.modChan p f).cmdId = s.cmdId := rfl
@[simp] theorem State.modChan_peers (s : State) (p : Nat) (f : Channel → Channel) : (s.modChan p f).peers = s.peers := rfl
@[simp] theorem State.modChan_aborts (s : State) (p : Nat) (f : Channel → Channel) : (s.modChan p f).aborts = s.aborts := rfl
@[simp] theorem State.modChan_netErrs (s : State) (p : Nat) (f : Channel → Channel) : (s.modChan p f).netErrs = s.netErrs := rfl
@[simp] theorem State.modChan_collEnds (s : State) (p : Nat) (f : Channel → Channel) : (s.modChan p f).collEnds = s.collEnds := rfl
@[simp] theorem State.modChan_abortsOut (s : State) (p : Nat) (f : Channel → Channel) : (s.modChan p f).abortsOut = s.abortsOut := rfl
@[simp] theorem State.modChan_queues (s : State) (p : Nat) (f : Channel → Channel) : (s.modChan p f).queues = s.queues := rfl
@[simp] theorem State.modChan_groups (s : State) (p : Nat) (f : Channel → Channel) : (s.modChan p f).groups = s.groups := rfl
@[simp] theorem State.modChan_packets (s : State) (p : Nat) (f : Channel → Channel) : (s.modChan p f).packets = s.packets := rfl
@[simp] theorem State.modChan_replays (s : State) (p : Nat) (f : Channel → Channel) : (s.modChan p f).replays = s.replays := rfl
@[simp] theorem State.modChan_paired (s : State) (p : Nat) (f : Channel → Channel) : (s.modChan p f).paired = s.paired := rfl
@[simp] theorem State.modChan_secure (s : State) (p : Nat) (f : Channel → Channel) : (s.modChan p f).secure = s.secure := rfl
@[simp] theorem State.modChan_errs (s : State) (p : Nat) (f : Channel → Channel) : (s.modChan p f).errs = s.errs := rfl

@[simp] theorem State.modDie_sched (s : State) (p : Nat) (f : Die → Die) : (s.modDie p f).sched = s.sched := by unfold State.modDie; split <;> rfl
@[simp] theorem State.modDie_focus (s : State) (p : Nat) (f : Die → Die) : (s.modDie p f).focus = s.focus := by unfold State.modDie; split <;> rfl
@[simp] theorem State.modDie_cur (s : State) (p : Nat) (f : Die → Die) : (s.modDie p f).cur = s.cur := by unfold State.modDie; split <;> rfl
@[simp] theorem State.modDie_ctx (s : State) (p : Nat) (f : Die → Die) : (s.modDie p f).ctx = s.ctx := by unfold State.modDie; split <;> rfl
@[simp] theorem State.modDie_late (s : State) (p : Nat) (f : Die → Die) : (s.modDie p f).late = s.late := by unfold State.modDie; split <;> rfl
@[simp] theorem State.modDie_tick (s : State) (p : Nat) (f : Die → Die) : (s.modDie p f).tick = s.tick := by unfold State.modDie; split <;> rfl
@[simp] theorem State.modDie_power (s : State) (p : Nat) (f : Die → Die) : (s.modDie p f).power = s.power := by unfold State.modDie; split <;> rfl
@[simp] theorem State.modDie_time (s : State) (p : Nat) (f : Die → Die) : (s.modDie p f).time = s.time := by unfold State.modDie; split <;> rfl
@[simp] theorem State.modDie_cores (s : State) (p : Nat) (f : Die → Die) : (s.modDie p f).cores = s.cores := by unfold State.modDie; split <;> rfl
@[simp] theorem State.modDie_clusters (s : State) (p : Nat) (f : Die → Die) : (s.modDie p f).clusters = s.clusters := by unfold State.modDie; split <;> rfl
@[simp] theorem State.modDie_slices (s : State) (p : Nat) (f : Die → Die) : (s.modDie p f).slices = s.slices := by unfold State.modDie; split <;> rfl
@[simp] theorem State.modDie_parts (s : State) (p : Nat) (f : Die → Die) : (s.modDie p f).parts = s.parts := by unfold State.modDie; split <;> rfl
@[simp] theorem State.modDie_rules (s : State) (p : Nat) (f : Die → Die) : (s.modDie p f).rules = s.rules := by unfold State.modDie; split <;> rfl
@[simp] theorem State.modDie_chans (s : State) (p : Nat) (f : Die → Die) : (s.modDie p f).chans = s.chans := by unfold State.modDie; split <;> rfl
@[simp] theorem State.modDie_phys (s : State) (p : Nat) (f : Die → Die) : (s.modDie p f).phys = s.phys := by unfold State.modDie; split <;> rfl
@[simp] theorem State.modDie_ctxBase (s : State) (p : Nat) (f : Die → Die) : (s.modDie p f).ctxBase = s.ctxBase := by unfold State.modDie; split <;> rfl
@[simp] theorem State.modDie_hostNo (s : State) (p : Nat) (f : Die → Die) : (s.modDie p f).hostNo = s.hostNo := by unfold State.modDie; split <;> rfl
@[simp] theorem State.modDie_fwGrants (s : State) (p : Nat) (f : Die → Die) : (s.modDie p f).fwGrants = s.fwGrants := by unfold State.modDie; split <;> rfl
@[simp] theorem State.modDie_saves (s : State) (p : Nat) (f : Die → Die) : (s.modDie p f).saves = s.saves := by unfold State.modDie; split <;> rfl
@[simp] theorem State.modDie_access (s : State) (p : Nat) (f : Die → Die) : (s.modDie p f).access = s.access := by unfold State.modDie; split <;> rfl
@[simp] theorem State.modDie_ranges (s : State) (p : Nat) (f : Die → Die) : (s.modDie p f).ranges = s.ranges := by unfold State.modDie; split <;> rfl
@[simp] theorem State.modDie_refusals (s : State) (p : Nat) (f : Die → Die) : (s.modDie p f).refusals = s.refusals := by unfold State.modDie; split <;> rfl
@[simp] theorem State.modDie_seq (s : State) (p : Nat) (f : Die → Die) : (s.modDie p f).seq = s.seq := by unfold State.modDie; split <;> rfl
@[simp] theorem State.modDie_msgs (s : State) (p : Nat) (f : Die → Die) : (s.modDie p f).msgs = s.msgs := by unfold State.modDie; split <;> rfl
@[simp] theorem State.modDie_backs (s : State) (p : Nat) (f : Die → Die) : (s.modDie p f).backs = s.backs := by unfold State.modDie; split <;> rfl
@[simp] theorem State.modDie_accs (s : State) (p : Nat) (f : Die → Die) : (s.modDie p f).accs = s.accs := by unfold State.modDie; split <;> rfl
@[simp] theorem State.modDie_links (s : State) (p : Nat) (f : Die → Die) : (s.modDie p f).links = s.links := by unfold State.modDie; split <;> rfl
@[simp] theorem State.modDie_greqs (s : State) (p : Nat) (f : Die → Die) : (s.modDie p f).greqs = s.greqs := by unfold State.modDie; split <;> rfl
@[simp] theorem State.modDie_walks (s : State) (p : Nat) (f : Die → Die) : (s.modDie p f).walks = s.walks := by unfold State.modDie; split <;> rfl
@[simp] theorem State.modDie_gresps (s : State) (p : Nat) (f : Die → Die) : (s.modDie p f).gresps = s.gresps := by unfold State.modDie; split <;> rfl
@[simp] theorem State.modDie_gid (s : State) (p : Nat) (f : Die → Die) : (s.modDie p f).gid = s.gid := by unfold State.modDie; split <;> rfl
@[simp] theorem State.modDie_traps (s : State) (p : Nat) (f : Die → Die) : (s.modDie p f).traps = s.traps := by unfold State.modDie; split <;> rfl
@[simp] theorem State.modDie_posts (s : State) (p : Nat) (f : Die → Die) : (s.modDie p f).posts = s.posts := by unfold State.modDie; split <;> rfl
@[simp] theorem State.modDie_cmds (s : State) (p : Nat) (f : Die → Die) : (s.modDie p f).cmds = s.cmds := by unfold State.modDie; split <;> rfl
@[simp] theorem State.modDie_cmdId (s : State) (p : Nat) (f : Die → Die) : (s.modDie p f).cmdId = s.cmdId := by unfold State.modDie; split <;> rfl
@[simp] theorem State.modDie_peers (s : State) (p : Nat) (f : Die → Die) : (s.modDie p f).peers = s.peers := by unfold State.modDie; split <;> rfl
@[simp] theorem State.modDie_aborts (s : State) (p : Nat) (f : Die → Die) : (s.modDie p f).aborts = s.aborts := by unfold State.modDie; split <;> rfl
@[simp] theorem State.modDie_netErrs (s : State) (p : Nat) (f : Die → Die) : (s.modDie p f).netErrs = s.netErrs := by unfold State.modDie; split <;> rfl
@[simp] theorem State.modDie_collEnds (s : State) (p : Nat) (f : Die → Die) : (s.modDie p f).collEnds = s.collEnds := by unfold State.modDie; split <;> rfl
@[simp] theorem State.modDie_abortsOut (s : State) (p : Nat) (f : Die → Die) : (s.modDie p f).abortsOut = s.abortsOut := by unfold State.modDie; split <;> rfl
@[simp] theorem State.modDie_queues (s : State) (p : Nat) (f : Die → Die) : (s.modDie p f).queues = s.queues := by unfold State.modDie; split <;> rfl
@[simp] theorem State.modDie_groups (s : State) (p : Nat) (f : Die → Die) : (s.modDie p f).groups = s.groups := by unfold State.modDie; split <;> rfl
@[simp] theorem State.modDie_packets (s : State) (p : Nat) (f : Die → Die) : (s.modDie p f).packets = s.packets := by unfold State.modDie; split <;> rfl
@[simp] theorem State.modDie_replays (s : State) (p : Nat) (f : Die → Die) : (s.modDie p f).replays = s.replays := by unfold State.modDie; split <;> rfl
@[simp] theorem State.modDie_paired (s : State) (p : Nat) (f : Die → Die) : (s.modDie p f).paired = s.paired := by unfold State.modDie; split <;> rfl
@[simp] theorem State.modDie_secure (s : State) (p : Nat) (f : Die → Die) : (s.modDie p f).secure = s.secure := by unfold State.modDie; split <;> rfl
@[simp] theorem State.modDie_errs (s : State) (p : Nat) (f : Die → Die) : (s.modDie p f).errs = s.errs := by unfold State.modDie; split <;> rfl

/-! ### Core -/

@[simp] theorem Core.setContext_rr (c : Core) (k : Nat) (x : Context) : (c.setContext k x).rr = c.rr := by unfold Core.setContext; split <;> rfl
@[simp] theorem Core.setContext_lpid (c : Core) (k : Nat) (x : Context) : (c.setContext k x).lpid = c.lpid := by unfold Core.setContext; split <;> rfl
@[simp] theorem Core.setContext_cid (c : Core) (k : Nat) (x : Context) : (c.setContext k x).cid = c.cid := by unfold Core.setContext; split <;> rfl
@[simp] theorem Core.setContext_msb (c : Core) (k : Nat) (x : Context) : (c.setContext k x).msb = c.msb := by unfold Core.setContext; split <;> rfl
@[simp] theorem Core.setContext_twt (c : Core) (k : Nat) (x : Context) : (c.setContext k x).twt = c.twt := by unfold Core.setContext; split <;> rfl
@[simp] theorem Core.setContext_lnk (c : Core) (k : Nat) (x : Context) : (c.setContext k x).lnk = c.lnk := by unfold Core.setContext; split <;> rfl
@[simp] theorem Core.setContext_hvec (c : Core) (k : Nat) (x : Context) : (c.setContext k x).hvec = c.hvec := by unfold Core.setContext; split <;> rfl
@[simp] theorem Core.setContext_epc (c : Core) (k : Nat) (x : Context) : (c.setContext k x).epc = c.epc := by unfold Core.setContext; split <;> rfl
@[simp] theorem Core.setContext_cause (c : Core) (k : Nat) (x : Context) : (c.setContext k x).cause = c.cause := by unfold Core.setContext; split <;> rfl
@[simp] theorem Core.setContext_info (c : Core) (k : Nat) (x : Context) : (c.setContext k x).info = c.info := by unfold Core.setContext; split <;> rfl
@[simp] theorem Core.setContext_tctx (c : Core) (k : Nat) (x : Context) : (c.setContext k x).tctx = c.tctx := by unfold Core.setContext; split <;> rfl
@[simp] theorem Core.setContext_shadow (c : Core) (k : Nat) (x : Context) : (c.setContext k x).shadow = c.shadow := by unfold Core.setContext; split <;> rfl
@[simp] theorem Core.setContext_handler (c : Core) (k : Nat) (x : Context) : (c.setContext k x).handler = c.handler := by unfold Core.setContext; split <;> rfl
@[simp] theorem Core.setContext_entries (c : Core) (k : Nat) (x : Context) : (c.setContext k x).entries = c.entries := by unfold Core.setContext; split <;> rfl
@[simp] theorem Core.setContext_preempt (c : Core) (k : Nat) (x : Context) : (c.setContext k x).preempt = c.preempt := by unfold Core.setContext; split <;> rfl
@[simp] theorem Core.setContext_diverge (c : Core) (k : Nat) (x : Context) : (c.setContext k x).diverge = c.diverge := by unfold Core.setContext; split <;> rfl
@[simp] theorem Core.setContext_ring (c : Core) (k : Nat) (x : Context) : (c.setContext k x).ring = c.ring := by unfold Core.setContext; split <;> rfl
@[simp] theorem Core.setContext_ringNext (c : Core) (k : Nat) (x : Context) : (c.setContext k x).ringNext = c.ringNext := by unfold Core.setContext; split <;> rfl
@[simp] theorem Core.setContext_replay (c : Core) (k : Nat) (x : Context) : (c.setContext k x).replay = c.replay := by unfold Core.setContext; split <;> rfl
@[simp] theorem Core.setContext_due (c : Core) (k : Nat) (x : Context) : (c.setContext k x).due = c.due := by unfold Core.setContext; split <;> rfl
@[simp] theorem Core.setContext_nextId (c : Core) (k : Nat) (x : Context) : (c.setContext k x).nextId = c.nextId := by unfold Core.setContext; split <;> rfl
@[simp] theorem Core.setContext_bb (c : Core) (k : Nat) (x : Context) : (c.setContext k x).bb = c.bb := by unfold Core.setContext; split <;> rfl
@[simp] theorem Core.setContext_mem (c : Core) (k : Nat) (x : Context) : (c.setContext k x).mem = c.mem := by unfold Core.setContext; split <;> rfl
@[simp] theorem Core.setContext_mbox (c : Core) (k : Nat) (x : Context) : (c.setContext k x).mbox = c.mbox := by unfold Core.setContext; split <;> rfl
@[simp] theorem Core.setContext_resv (c : Core) (k : Nat) (x : Context) : (c.setContext k x).resv = c.resv := by unfold Core.setContext; split <;> rfl
@[simp] theorem Core.setContext_sent (c : Core) (k : Nat) (x : Context) : (c.setContext k x).sent = c.sent := by unfold Core.setContext; split <;> rfl
@[simp] theorem Core.setContext_fifo (c : Core) (k : Nat) (x : Context) : (c.setContext k x).fifo = c.fifo := by unfold Core.setContext; split <;> rfl
@[simp] theorem Core.setContext_returned (c : Core) (k : Nat) (x : Context) : (c.setContext k x).returned = c.returned := by unfold Core.setContext; split <;> rfl
@[simp] theorem Core.setContext_quiesce (c : Core) (k : Nat) (x : Context) : (c.setContext k x).quiesce = c.quiesce := by unfold Core.setContext; split <;> rfl
@[simp] theorem Core.setContext_saved (c : Core) (k : Nat) (x : Context) : (c.setContext k x).saved = c.saved := by unfold Core.setContext; split <;> rfl
@[simp] theorem Core.setContext_asmC (c : Core) (k : Nat) (x : Context) : (c.setContext k x).asmC = c.asmC := by unfold Core.setContext; split <;> rfl
@[simp] theorem Core.setContext_asmM (c : Core) (k : Nat) (x : Context) : (c.setContext k x).asmM = c.asmM := by unfold Core.setContext; split <;> rfl
@[simp] theorem Core.setContext_asmR (c : Core) (k : Nat) (x : Context) : (c.setContext k x).asmR = c.asmR := by unfold Core.setContext; split <;> rfl
@[simp] theorem Core.setContext_mq (c : Core) (k : Nat) (x : Context) : (c.setContext k x).mq = c.mq := by unfold Core.setContext; split <;> rfl
@[simp] theorem Core.setContext_cq (c : Core) (k : Nat) (x : Context) : (c.setContext k x).cq = c.cq := by unfold Core.setContext; split <;> rfl
@[simp] theorem Core.setContext_west (c : Core) (k : Nat) (x : Context) : (c.setContext k x).west = c.west := by unfold Core.setContext; split <;> rfl
@[simp] theorem Core.setContext_east (c : Core) (k : Nat) (x : Context) : (c.setContext k x).east = c.east := by unfold Core.setContext; split <;> rfl
@[simp] theorem Core.setContext_ulog (c : Core) (k : Nat) (x : Context) : (c.setContext k x).ulog = c.ulog := by unfold Core.setContext; split <;> rfl
@[simp] theorem Core.setContext_ulogPast (c : Core) (k : Nat) (x : Context) : (c.setContext k x).ulogPast = c.ulogPast := by unfold Core.setContext; split <;> rfl
@[simp] theorem Core.setContext_ovf (c : Core) (k : Nat) (x : Context) : (c.setContext k x).ovf = c.ovf := by unfold Core.setContext; split <;> rfl
@[simp] theorem Core.setContext_ulogEn (c : Core) (k : Nat) (x : Context) : (c.setContext k x).ulogEn = c.ulogEn := by unfold Core.setContext; split <;> rfl
@[simp] theorem Core.setContext_opNo (c : Core) (k : Nat) (x : Context) : (c.setContext k x).opNo = c.opNo := by unfold Core.setContext; split <;> rfl
@[simp] theorem Core.setContext_hbCyc (c : Core) (k : Nat) (x : Context) : (c.setContext k x).hbCyc = c.hbCyc := by unfold Core.setContext; split <;> rfl
@[simp] theorem Core.setContext_hbTime (c : Core) (k : Nat) (x : Context) : (c.setContext k x).hbTime = c.hbTime := by unfold Core.setContext; split <;> rfl
@[simp] theorem Core.setContext_hbSeen (c : Core) (k : Nat) (x : Context) : (c.setContext k x).hbSeen = c.hbSeen := by unfold Core.setContext; split <;> rfl
@[simp] theorem Core.setContext_hbMiss (c : Core) (k : Nat) (x : Context) : (c.setContext k x).hbMiss = c.hbMiss := by unfold Core.setContext; split <;> rfl
@[simp] theorem Core.setContext_hbWin (c : Core) (k : Nat) (x : Context) : (c.setContext k x).hbWin = c.hbWin := by unfold Core.setContext; split <;> rfl
@[simp] theorem Core.setContext_poisoned (c : Core) (k : Nat) (x : Context) : (c.setContext k x).poisoned = c.poisoned := by unfold Core.setContext; split <;> rfl
@[simp] theorem Core.setContext_poisonMail (c : Core) (k : Nat) (x : Context) : (c.setContext k x).poisonMail = c.poisonMail := by unfold Core.setContext; split <;> rfl
@[simp] theorem Core.setContext_dead (c : Core) (k : Nat) (x : Context) : (c.setContext k x).dead = c.dead := by unfold Core.setContext; split <;> rfl
@[simp] theorem Core.setContext_stopPc (c : Core) (k : Nat) (x : Context) : (c.setContext k x).stopPc = c.stopPc := by unfold Core.setContext; split <;> rfl
@[simp] theorem Core.setContext_memb (c : Core) (k : Nat) (x : Context) : (c.setContext k x).memb = c.memb := by unfold Core.setContext; split <;> rfl
@[simp] theorem Core.setContext_orig (c : Core) (k : Nat) (x : Context) : (c.setContext k x).orig = c.orig := by unfold Core.setContext; split <;> rfl
@[simp] theorem Core.setContext_queue (c : Core) (k : Nat) (x : Context) : (c.setContext k x).queue = c.queue := by unfold Core.setContext; split <;> rfl
@[simp] theorem Core.setContext_hold (c : Core) (k : Nat) (x : Context) : (c.setContext k x).hold = c.hold := by unfold Core.setContext; split <;> rfl
@[simp] theorem Core.setContext_outcome (c : Core) (k : Nat) (x : Context) : (c.setContext k x).outcome = c.outcome := by unfold Core.setContext; split <;> rfl
@[simp] theorem Core.setContext_regang (c : Core) (k : Nat) (x : Context) : (c.setContext k x).regang = c.regang := by unfold Core.setContext; split <;> rfl
@[simp] theorem Core.setContext_stood (c : Core) (k : Nat) (x : Context) : (c.setContext k x).stood = c.stood := by unfold Core.setContext; split <;> rfl
@[simp] theorem Core.setContext_gpos (c : Core) (k : Nat) (x : Context) : (c.setContext k x).gpos = c.gpos := by unfold Core.setContext; split <;> rfl
@[simp] theorem Core.setContext_meet (c : Core) (k : Nat) (x : Context) : (c.setContext k x).meet = c.meet := by unfold Core.setContext; split <;> rfl
@[simp] theorem Core.setContext_meetHead (c : Core) (k : Nat) (x : Context) : (c.setContext k x).meetHead = c.meetHead := by unfold Core.setContext; split <;> rfl
@[simp] theorem Core.setContext_left (c : Core) (k : Nat) (x : Context) : (c.setContext k x).left = c.left := by unfold Core.setContext; split <;> rfl
@[simp] theorem Core.setContext_group (c : Core) (k : Nat) (x : Context) : (c.setContext k x).group = c.group := by unfold Core.setContext; split <;> rfl
@[simp] theorem Core.setContext_exited (c : Core) (k : Nat) (x : Context) : (c.setContext k x).exited = c.exited := by unfold Core.setContext; split <;> rfl
@[simp] theorem Core.setContext_noMore (c : Core) (k : Nat) (x : Context) : (c.setContext k x).noMore = c.noMore := by unfold Core.setContext; split <;> rfl
@[simp] theorem Core.setContext_swaps (c : Core) (k : Nat) (x : Context) : (c.setContext k x).swaps = c.swaps := by unfold Core.setContext; split <;> rfl
@[simp] theorem Core.setContext_swapping (c : Core) (k : Nat) (x : Context) : (c.setContext k x).swapping = c.swapping := by unfold Core.setContext; split <;> rfl
@[simp] theorem Core.setContext_swapHigh (c : Core) (k : Nat) (x : Context) : (c.setContext k x).swapHigh = c.swapHigh := by unfold Core.setContext; split <;> rfl
@[simp] theorem Core.setContext_counted (c : Core) (k : Nat) (x : Context) : (c.setContext k x).counted = c.counted := by unfold Core.setContext; split <;> rfl
@[simp] theorem Core.setContext_waited (c : Core) (k : Nat) (x : Context) : (c.setContext k x).waited = c.waited := by unfold Core.setContext; split <;> rfl
@[simp] theorem Core.setContext_noCount (c : Core) (k : Nat) (x : Context) : (c.setContext k x).noCount = c.noCount := by unfold Core.setContext; split <;> rfl
@[simp] theorem Core.setContext_twin (c : Core) (k : Nat) (x : Context) : (c.setContext k x).twin = c.twin := by unfold Core.setContext; split <;> rfl
@[simp] theorem Core.setContext_pairNo (c : Core) (k : Nat) (x : Context) : (c.setContext k x).pairNo = c.pairNo := by unfold Core.setContext; split <;> rfl
@[simp] theorem Core.setContext_matched (c : Core) (k : Nat) (x : Context) : (c.setContext k x).matched = c.matched := by unfold Core.setContext; split <;> rfl
@[simp] theorem Core.setContext_snap (c : Core) (k : Nat) (x : Context) : (c.setContext k x).snap = c.snap := by unfold Core.setContext; split <;> rfl
@[simp] theorem Core.setContext_repeating (c : Core) (k : Nat) (x : Context) : (c.setContext k x).repeating = c.repeating := by unfold Core.setContext; split <;> rfl
@[simp] theorem Core.setContext_xlat (c : Core) (k : Nat) (x : Context) : (c.setContext k x).xlat = c.xlat := by unfold Core.setContext; split <;> rfl
@[simp] theorem Core.setContext_xlatInv (c : Core) (k : Nat) (x : Context) : (c.setContext k x).xlatInv = c.xlatInv := by unfold Core.setContext; split <;> rfl
@[simp] theorem Core.setContext_flight (c : Core) (k : Nat) (x : Context) : (c.setContext k x).flight = c.flight := by unfold Core.setContext; split <;> rfl
@[simp] theorem Core.setContext_answer (c : Core) (k : Nat) (x : Context) : (c.setContext k x).answer = c.answer := by unfold Core.setContext; split <;> rfl
@[simp] theorem Core.setContext_again (c : Core) (k : Nat) (x : Context) : (c.setContext k x).again = c.again := by unfold Core.setContext; split <;> rfl
@[simp] theorem Core.setContext_wmiss (c : Core) (k : Nat) (x : Context) : (c.setContext k x).wmiss = c.wmiss := by unfold Core.setContext; split <;> rfl

@[simp] theorem Core.modContext_rr (c : Core) (k : Nat) (f : Context → Context) : (c.modContext k f).rr = c.rr := by unfold Core.modContext Core.setContext; split <;> rfl
@[simp] theorem Core.modContext_lpid (c : Core) (k : Nat) (f : Context → Context) : (c.modContext k f).lpid = c.lpid := by unfold Core.modContext Core.setContext; split <;> rfl
@[simp] theorem Core.modContext_cid (c : Core) (k : Nat) (f : Context → Context) : (c.modContext k f).cid = c.cid := by unfold Core.modContext Core.setContext; split <;> rfl
@[simp] theorem Core.modContext_msb (c : Core) (k : Nat) (f : Context → Context) : (c.modContext k f).msb = c.msb := by unfold Core.modContext Core.setContext; split <;> rfl
@[simp] theorem Core.modContext_twt (c : Core) (k : Nat) (f : Context → Context) : (c.modContext k f).twt = c.twt := by unfold Core.modContext Core.setContext; split <;> rfl
@[simp] theorem Core.modContext_lnk (c : Core) (k : Nat) (f : Context → Context) : (c.modContext k f).lnk = c.lnk := by unfold Core.modContext Core.setContext; split <;> rfl
@[simp] theorem Core.modContext_hvec (c : Core) (k : Nat) (f : Context → Context) : (c.modContext k f).hvec = c.hvec := by unfold Core.modContext Core.setContext; split <;> rfl
@[simp] theorem Core.modContext_epc (c : Core) (k : Nat) (f : Context → Context) : (c.modContext k f).epc = c.epc := by unfold Core.modContext Core.setContext; split <;> rfl
@[simp] theorem Core.modContext_cause (c : Core) (k : Nat) (f : Context → Context) : (c.modContext k f).cause = c.cause := by unfold Core.modContext Core.setContext; split <;> rfl
@[simp] theorem Core.modContext_info (c : Core) (k : Nat) (f : Context → Context) : (c.modContext k f).info = c.info := by unfold Core.modContext Core.setContext; split <;> rfl
@[simp] theorem Core.modContext_tctx (c : Core) (k : Nat) (f : Context → Context) : (c.modContext k f).tctx = c.tctx := by unfold Core.modContext Core.setContext; split <;> rfl
@[simp] theorem Core.modContext_shadow (c : Core) (k : Nat) (f : Context → Context) : (c.modContext k f).shadow = c.shadow := by unfold Core.modContext Core.setContext; split <;> rfl
@[simp] theorem Core.modContext_handler (c : Core) (k : Nat) (f : Context → Context) : (c.modContext k f).handler = c.handler := by unfold Core.modContext Core.setContext; split <;> rfl
@[simp] theorem Core.modContext_entries (c : Core) (k : Nat) (f : Context → Context) : (c.modContext k f).entries = c.entries := by unfold Core.modContext Core.setContext; split <;> rfl
@[simp] theorem Core.modContext_preempt (c : Core) (k : Nat) (f : Context → Context) : (c.modContext k f).preempt = c.preempt := by unfold Core.modContext Core.setContext; split <;> rfl
@[simp] theorem Core.modContext_diverge (c : Core) (k : Nat) (f : Context → Context) : (c.modContext k f).diverge = c.diverge := by unfold Core.modContext Core.setContext; split <;> rfl
@[simp] theorem Core.modContext_ring (c : Core) (k : Nat) (f : Context → Context) : (c.modContext k f).ring = c.ring := by unfold Core.modContext Core.setContext; split <;> rfl
@[simp] theorem Core.modContext_ringNext (c : Core) (k : Nat) (f : Context → Context) : (c.modContext k f).ringNext = c.ringNext := by unfold Core.modContext Core.setContext; split <;> rfl
@[simp] theorem Core.modContext_replay (c : Core) (k : Nat) (f : Context → Context) : (c.modContext k f).replay = c.replay := by unfold Core.modContext Core.setContext; split <;> rfl
@[simp] theorem Core.modContext_due (c : Core) (k : Nat) (f : Context → Context) : (c.modContext k f).due = c.due := by unfold Core.modContext Core.setContext; split <;> rfl
@[simp] theorem Core.modContext_nextId (c : Core) (k : Nat) (f : Context → Context) : (c.modContext k f).nextId = c.nextId := by unfold Core.modContext Core.setContext; split <;> rfl
@[simp] theorem Core.modContext_bb (c : Core) (k : Nat) (f : Context → Context) : (c.modContext k f).bb = c.bb := by unfold Core.modContext Core.setContext; split <;> rfl
@[simp] theorem Core.modContext_mem (c : Core) (k : Nat) (f : Context → Context) : (c.modContext k f).mem = c.mem := by unfold Core.modContext Core.setContext; split <;> rfl
@[simp] theorem Core.modContext_mbox (c : Core) (k : Nat) (f : Context → Context) : (c.modContext k f).mbox = c.mbox := by unfold Core.modContext Core.setContext; split <;> rfl
@[simp] theorem Core.modContext_resv (c : Core) (k : Nat) (f : Context → Context) : (c.modContext k f).resv = c.resv := by unfold Core.modContext Core.setContext; split <;> rfl
@[simp] theorem Core.modContext_sent (c : Core) (k : Nat) (f : Context → Context) : (c.modContext k f).sent = c.sent := by unfold Core.modContext Core.setContext; split <;> rfl
@[simp] theorem Core.modContext_fifo (c : Core) (k : Nat) (f : Context → Context) : (c.modContext k f).fifo = c.fifo := by unfold Core.modContext Core.setContext; split <;> rfl
@[simp] theorem Core.modContext_returned (c : Core) (k : Nat) (f : Context → Context) : (c.modContext k f).returned = c.returned := by unfold Core.modContext Core.setContext; split <;> rfl
@[simp] theorem Core.modContext_quiesce (c : Core) (k : Nat) (f : Context → Context) : (c.modContext k f).quiesce = c.quiesce := by unfold Core.modContext Core.setContext; split <;> rfl
@[simp] theorem Core.modContext_saved (c : Core) (k : Nat) (f : Context → Context) : (c.modContext k f).saved = c.saved := by unfold Core.modContext Core.setContext; split <;> rfl
@[simp] theorem Core.modContext_asmC (c : Core) (k : Nat) (f : Context → Context) : (c.modContext k f).asmC = c.asmC := by unfold Core.modContext Core.setContext; split <;> rfl
@[simp] theorem Core.modContext_asmM (c : Core) (k : Nat) (f : Context → Context) : (c.modContext k f).asmM = c.asmM := by unfold Core.modContext Core.setContext; split <;> rfl
@[simp] theorem Core.modContext_asmR (c : Core) (k : Nat) (f : Context → Context) : (c.modContext k f).asmR = c.asmR := by unfold Core.modContext Core.setContext; split <;> rfl
@[simp] theorem Core.modContext_mq (c : Core) (k : Nat) (f : Context → Context) : (c.modContext k f).mq = c.mq := by unfold Core.modContext Core.setContext; split <;> rfl
@[simp] theorem Core.modContext_cq (c : Core) (k : Nat) (f : Context → Context) : (c.modContext k f).cq = c.cq := by unfold Core.modContext Core.setContext; split <;> rfl
@[simp] theorem Core.modContext_west (c : Core) (k : Nat) (f : Context → Context) : (c.modContext k f).west = c.west := by unfold Core.modContext Core.setContext; split <;> rfl
@[simp] theorem Core.modContext_east (c : Core) (k : Nat) (f : Context → Context) : (c.modContext k f).east = c.east := by unfold Core.modContext Core.setContext; split <;> rfl
@[simp] theorem Core.modContext_ulog (c : Core) (k : Nat) (f : Context → Context) : (c.modContext k f).ulog = c.ulog := by unfold Core.modContext Core.setContext; split <;> rfl
@[simp] theorem Core.modContext_ulogPast (c : Core) (k : Nat) (f : Context → Context) : (c.modContext k f).ulogPast = c.ulogPast := by unfold Core.modContext Core.setContext; split <;> rfl
@[simp] theorem Core.modContext_ovf (c : Core) (k : Nat) (f : Context → Context) : (c.modContext k f).ovf = c.ovf := by unfold Core.modContext Core.setContext; split <;> rfl
@[simp] theorem Core.modContext_ulogEn (c : Core) (k : Nat) (f : Context → Context) : (c.modContext k f).ulogEn = c.ulogEn := by unfold Core.modContext Core.setContext; split <;> rfl
@[simp] theorem Core.modContext_opNo (c : Core) (k : Nat) (f : Context → Context) : (c.modContext k f).opNo = c.opNo := by unfold Core.modContext Core.setContext; split <;> rfl
@[simp] theorem Core.modContext_hbCyc (c : Core) (k : Nat) (f : Context → Context) : (c.modContext k f).hbCyc = c.hbCyc := by unfold Core.modContext Core.setContext; split <;> rfl
@[simp] theorem Core.modContext_hbTime (c : Core) (k : Nat) (f : Context → Context) : (c.modContext k f).hbTime = c.hbTime := by unfold Core.modContext Core.setContext; split <;> rfl
@[simp] theorem Core.modContext_hbSeen (c : Core) (k : Nat) (f : Context → Context) : (c.modContext k f).hbSeen = c.hbSeen := by unfold Core.modContext Core.setContext; split <;> rfl
@[simp] theorem Core.modContext_hbMiss (c : Core) (k : Nat) (f : Context → Context) : (c.modContext k f).hbMiss = c.hbMiss := by unfold Core.modContext Core.setContext; split <;> rfl
@[simp] theorem Core.modContext_hbWin (c : Core) (k : Nat) (f : Context → Context) : (c.modContext k f).hbWin = c.hbWin := by unfold Core.modContext Core.setContext; split <;> rfl
@[simp] theorem Core.modContext_poisoned (c : Core) (k : Nat) (f : Context → Context) : (c.modContext k f).poisoned = c.poisoned := by unfold Core.modContext Core.setContext; split <;> rfl
@[simp] theorem Core.modContext_poisonMail (c : Core) (k : Nat) (f : Context → Context) : (c.modContext k f).poisonMail = c.poisonMail := by unfold Core.modContext Core.setContext; split <;> rfl
@[simp] theorem Core.modContext_dead (c : Core) (k : Nat) (f : Context → Context) : (c.modContext k f).dead = c.dead := by unfold Core.modContext Core.setContext; split <;> rfl
@[simp] theorem Core.modContext_stopPc (c : Core) (k : Nat) (f : Context → Context) : (c.modContext k f).stopPc = c.stopPc := by unfold Core.modContext Core.setContext; split <;> rfl
@[simp] theorem Core.modContext_memb (c : Core) (k : Nat) (f : Context → Context) : (c.modContext k f).memb = c.memb := by unfold Core.modContext Core.setContext; split <;> rfl
@[simp] theorem Core.modContext_orig (c : Core) (k : Nat) (f : Context → Context) : (c.modContext k f).orig = c.orig := by unfold Core.modContext Core.setContext; split <;> rfl
@[simp] theorem Core.modContext_queue (c : Core) (k : Nat) (f : Context → Context) : (c.modContext k f).queue = c.queue := by unfold Core.modContext Core.setContext; split <;> rfl
@[simp] theorem Core.modContext_hold (c : Core) (k : Nat) (f : Context → Context) : (c.modContext k f).hold = c.hold := by unfold Core.modContext Core.setContext; split <;> rfl
@[simp] theorem Core.modContext_outcome (c : Core) (k : Nat) (f : Context → Context) : (c.modContext k f).outcome = c.outcome := by unfold Core.modContext Core.setContext; split <;> rfl
@[simp] theorem Core.modContext_regang (c : Core) (k : Nat) (f : Context → Context) : (c.modContext k f).regang = c.regang := by unfold Core.modContext Core.setContext; split <;> rfl
@[simp] theorem Core.modContext_stood (c : Core) (k : Nat) (f : Context → Context) : (c.modContext k f).stood = c.stood := by unfold Core.modContext Core.setContext; split <;> rfl
@[simp] theorem Core.modContext_gpos (c : Core) (k : Nat) (f : Context → Context) : (c.modContext k f).gpos = c.gpos := by unfold Core.modContext Core.setContext; split <;> rfl
@[simp] theorem Core.modContext_meet (c : Core) (k : Nat) (f : Context → Context) : (c.modContext k f).meet = c.meet := by unfold Core.modContext Core.setContext; split <;> rfl
@[simp] theorem Core.modContext_meetHead (c : Core) (k : Nat) (f : Context → Context) : (c.modContext k f).meetHead = c.meetHead := by unfold Core.modContext Core.setContext; split <;> rfl
@[simp] theorem Core.modContext_left (c : Core) (k : Nat) (f : Context → Context) : (c.modContext k f).left = c.left := by unfold Core.modContext Core.setContext; split <;> rfl
@[simp] theorem Core.modContext_group (c : Core) (k : Nat) (f : Context → Context) : (c.modContext k f).group = c.group := by unfold Core.modContext Core.setContext; split <;> rfl
@[simp] theorem Core.modContext_exited (c : Core) (k : Nat) (f : Context → Context) : (c.modContext k f).exited = c.exited := by unfold Core.modContext Core.setContext; split <;> rfl
@[simp] theorem Core.modContext_noMore (c : Core) (k : Nat) (f : Context → Context) : (c.modContext k f).noMore = c.noMore := by unfold Core.modContext Core.setContext; split <;> rfl
@[simp] theorem Core.modContext_swaps (c : Core) (k : Nat) (f : Context → Context) : (c.modContext k f).swaps = c.swaps := by unfold Core.modContext Core.setContext; split <;> rfl
@[simp] theorem Core.modContext_swapping (c : Core) (k : Nat) (f : Context → Context) : (c.modContext k f).swapping = c.swapping := by unfold Core.modContext Core.setContext; split <;> rfl
@[simp] theorem Core.modContext_swapHigh (c : Core) (k : Nat) (f : Context → Context) : (c.modContext k f).swapHigh = c.swapHigh := by unfold Core.modContext Core.setContext; split <;> rfl
@[simp] theorem Core.modContext_counted (c : Core) (k : Nat) (f : Context → Context) : (c.modContext k f).counted = c.counted := by unfold Core.modContext Core.setContext; split <;> rfl
@[simp] theorem Core.modContext_waited (c : Core) (k : Nat) (f : Context → Context) : (c.modContext k f).waited = c.waited := by unfold Core.modContext Core.setContext; split <;> rfl
@[simp] theorem Core.modContext_noCount (c : Core) (k : Nat) (f : Context → Context) : (c.modContext k f).noCount = c.noCount := by unfold Core.modContext Core.setContext; split <;> rfl
@[simp] theorem Core.modContext_twin (c : Core) (k : Nat) (f : Context → Context) : (c.modContext k f).twin = c.twin := by unfold Core.modContext Core.setContext; split <;> rfl
@[simp] theorem Core.modContext_pairNo (c : Core) (k : Nat) (f : Context → Context) : (c.modContext k f).pairNo = c.pairNo := by unfold Core.modContext Core.setContext; split <;> rfl
@[simp] theorem Core.modContext_matched (c : Core) (k : Nat) (f : Context → Context) : (c.modContext k f).matched = c.matched := by unfold Core.modContext Core.setContext; split <;> rfl
@[simp] theorem Core.modContext_snap (c : Core) (k : Nat) (f : Context → Context) : (c.modContext k f).snap = c.snap := by unfold Core.modContext Core.setContext; split <;> rfl
@[simp] theorem Core.modContext_repeating (c : Core) (k : Nat) (f : Context → Context) : (c.modContext k f).repeating = c.repeating := by unfold Core.modContext Core.setContext; split <;> rfl
@[simp] theorem Core.modContext_xlat (c : Core) (k : Nat) (f : Context → Context) : (c.modContext k f).xlat = c.xlat := by unfold Core.modContext Core.setContext; split <;> rfl
@[simp] theorem Core.modContext_xlatInv (c : Core) (k : Nat) (f : Context → Context) : (c.modContext k f).xlatInv = c.xlatInv := by unfold Core.modContext Core.setContext; split <;> rfl
@[simp] theorem Core.modContext_flight (c : Core) (k : Nat) (f : Context → Context) : (c.modContext k f).flight = c.flight := by unfold Core.modContext Core.setContext; split <;> rfl
@[simp] theorem Core.modContext_answer (c : Core) (k : Nat) (f : Context → Context) : (c.modContext k f).answer = c.answer := by unfold Core.modContext Core.setContext; split <;> rfl
@[simp] theorem Core.modContext_again (c : Core) (k : Nat) (f : Context → Context) : (c.modContext k f).again = c.again := by unfold Core.modContext Core.setContext; split <;> rfl
@[simp] theorem Core.modContext_wmiss (c : Core) (k : Nat) (f : Context → Context) : (c.modContext k f).wmiss = c.wmiss := by unfold Core.modContext Core.setContext; split <;> rfl

/-! ### Context -/

@[simp] theorem Context.setS_run (x : Context) (n : Nat) (v : Word) : (x.setS n v).run = x.run := by unfold Context.setS; split <;> rfl
@[simp] theorem Context.setS_pc (x : Context) (n : Nat) (v : Word) : (x.setS n v).pc = x.pc := by unfold Context.setS; split <;> rfl
@[simp] theorem Context.setS_tsw (x : Context) (n : Nat) (v : Word) : (x.setS n v).tsw = x.tsw := by unfold Context.setS; split <;> rfl
@[simp] theorem Context.setS_v (x : Context) (n : Nat) (v : Word) : (x.setS n v).v = x.v := by unfold Context.setS; split <;> rfl
@[simp] theorem Context.setS_k (x : Context) (n : Nat) (v : Word) : (x.setS n v).k = x.k := by unfold Context.setS; split <;> rfl
@[simp] theorem Context.setS_j (x : Context) (n : Nat) (v : Word) : (x.setS n v).j = x.j := by unfold Context.setS; split <;> rfl
@[simp] theorem Context.setS_ls (x : Context) (n : Nat) (v : Word) : (x.setS n v).ls = x.ls := by unfold Context.setS; split <;> rfl
@[simp] theorem Context.setS_le (x : Context) (n : Nat) (v : Word) : (x.setS n v).le = x.le := by unfold Context.setS; split <;> rfl
@[simp] theorem Context.setS_lc (x : Context) (n : Nat) (v : Word) : (x.setS n v).lc = x.lc := by unfold Context.setS; split <;> rfl
@[simp] theorem Context.setS_win (x : Context) (n : Nat) (v : Word) : (x.setS n v).win = x.win := by unfold Context.setS; split <;> rfl
@[simp] theorem Context.setS_rep (x : Context) (n : Nat) (v : Word) : (x.setS n v).rep = x.rep := by unfold Context.setS; split <;> rfl
@[simp] theorem Context.setS_gen (x : Context) (n : Nat) (v : Word) : (x.setS n v).gen = x.gen := by unfold Context.setS; split <;> rfl
@[simp] theorem Context.setS_endWord (x : Context) (n : Nat) (v : Word) : (x.setS n v).endWord = x.endWord := by unfold Context.setS; split <;> rfl
@[simp] theorem Context.setS_comp (x : Context) (n : Nat) (v : Word) : (x.setS n v).comp = x.comp := by unfold Context.setS; split <;> rfl

@[simp] theorem Context.setV_run (x : Context) (n : Nat) (v : VWord) : (x.setV n v).run = x.run := rfl
@[simp] theorem Context.setV_pc (x : Context) (n : Nat) (v : VWord) : (x.setV n v).pc = x.pc := rfl
@[simp] theorem Context.setV_tsw (x : Context) (n : Nat) (v : VWord) : (x.setV n v).tsw = x.tsw := rfl
@[simp] theorem Context.setV_s (x : Context) (n : Nat) (v : VWord) : (x.setV n v).s = x.s := rfl
@[simp] theorem Context.setV_k (x : Context) (n : Nat) (v : VWord) : (x.setV n v).k = x.k := rfl
@[simp] theorem Context.setV_j (x : Context) (n : Nat) (v : VWord) : (x.setV n v).j = x.j := rfl
@[simp] theorem Context.setV_ls (x : Context) (n : Nat) (v : VWord) : (x.setV n v).ls = x.ls := rfl
@[simp] theorem Context.setV_le (x : Context) (n : Nat) (v : VWord) : (x.setV n v).le = x.le := rfl
@[simp] theorem Context.setV_lc (x : Context) (n : Nat) (v : VWord) : (x.setV n v).lc = x.lc := rfl
@[simp] theorem Context.setV_win (x : Context) (n : Nat) (v : VWord) : (x.setV n v).win = x.win := rfl
@[simp] theorem Context.setV_rep (x : Context) (n : Nat) (v : VWord) : (x.setV n v).rep = x.rep := rfl
@[simp] theorem Context.setV_gen (x : Context) (n : Nat) (v : VWord) : (x.setV n v).gen = x.gen := rfl
@[simp] theorem Context.setV_endWord (x : Context) (n : Nat) (v : VWord) : (x.setV n v).endWord = x.endWord := rfl
@[simp] theorem Context.setV_comp (x : Context) (n : Nat) (v : VWord) : (x.setV n v).comp = x.comp := rfl

/-! ### Reading after a write -/

theorem State.core_setCore (s : State) (p q : Nat) (c : Core) :
    (s.setCore p c).core q = if q = p then c else s.core q := mget_mset _ _ _ _ _

@[simp] theorem State.core_setCore_self (s : State) (p : Nat) (c : Core) : (s.setCore p c).core p = c := by
  simp [State.core_setCore]

theorem State.core_modCore (s : State) (p q : Nat) (f : Core → Core) :
    (s.modCore p f).core q = if q = p then f (s.core p) else s.core q := State.core_setCore _ _ _ _

@[simp] theorem State.core_modCore_self (s : State) (p : Nat) (f : Core → Core) :
    (s.modCore p f).core p = f (s.core p) := by simp [State.core_modCore]

theorem State.core_modMe (s : State) (q : Nat) (f : Core → Core) :
    (s.modMe f).core q = if q = s.cur then f s.me else s.core q := State.core_modCore _ _ _ _

@[simp] theorem State.me_modMe (s : State) (f : Core → Core) : (s.modMe f).me = f s.me := by
  simp [State.me, State.modMe]

theorem Core.context_setContext (c : Core) (k j : Nat) (x : Context) :
    (c.setContext k x).context j = if j = k then x else c.context j := by
  unfold Core.setContext Core.context
  by_cases hk : k = 0 <;> by_cases hj : j = 0 <;> simp [hk, hj, mget_mset]
  · intro h; exact absurd h.symm hk

@[simp] theorem Core.context_setContext_self (c : Core) (k : Nat) (x : Context) : (c.setContext k x).context k = x := by
  simp [Core.context_setContext]

theorem Core.context_modContext (c : Core) (k j : Nat) (f : Context → Context) :
    (c.modContext k f).context j = if j = k then f (c.context k) else c.context j := Core.context_setContext _ _ _ _

@[simp] theorem Core.context_modContext_self (c : Core) (k : Nat) (f : Context → Context) :
    (c.modContext k f).context k = f (c.context k) := by simp [Core.context_modContext]

@[simp] theorem State.me_modCx (s : State) (f : Context → Context) : (s.modCx f).me = s.me.modContext s.ctx f := by
  simp [State.modCx]

@[simp] theorem State.cx_modCx (s : State) (f : Context → Context) : (s.modCx f).cx = f s.cx := by
  simp [State.cx]

@[simp] theorem State.cx_modMe (s : State) (f : Core → Core) : (s.modMe f).cx = (f s.me).context s.ctx := by
  simp [State.cx]

theorem State.core_modCx (s : State) (q : Nat) (f : Context → Context) :
    (s.modCx f).core q = if q = s.cur then s.me.modContext s.ctx f else s.core q := by
  simp [State.modCx, State.core_modMe]

theorem State.cluster_modCluster (s : State) (p q : Nat) (f : Cluster → Cluster) :
    (s.modCluster p f).cluster q = if q = p then f (s.cluster p) else s.cluster q := mget_mset _ _ _ _ _

@[simp] theorem State.cluster_modCluster_self (s : State) (p : Nat) (f : Cluster → Cluster) :
    (s.modCluster p f).cluster p = f (s.cluster p) := by simp [State.cluster_modCluster]

theorem State.slice_modSlice (s : State) (p q : Nat) (f : Slice → Slice) :
    (s.modSlice p f).slice q = if q = p then f (s.slice p) else s.slice q := mget_mset _ _ _ _ _

@[simp] theorem State.slice_modSlice_self (s : State) (p : Nat) (f : Slice → Slice) :
    (s.modSlice p f).slice p = f (s.slice p) := by simp [State.slice_modSlice]

theorem State.part_modPart (s : State) (p q : Nat) (f : Partition → Partition) :
    (s.modPart p f).part q = if q = p then f (s.part p) else s.part q := mget_mset _ _ _ _ _

@[simp] theorem State.part_modPart_self (s : State) (p : Nat) (f : Partition → Partition) :
    (s.modPart p f).part p = f (s.part p) := by simp [State.part_modPart]

theorem State.rule_modRule (s : State) (p q : Nat) (f : Slot → Slot) :
    (s.modRule p f).rule q = if q = p then f (s.rule p) else s.rule q := mget_mset _ _ _ _ _

@[simp] theorem State.rule_modRule_self (s : State) (p : Nat) (f : Slot → Slot) :
    (s.modRule p f).rule p = f (s.rule p) := by simp [State.rule_modRule]

theorem State.chan_modChan (s : State) (p q : Nat) (f : Channel → Channel) :
    (s.modChan p f).chan q = if q = p then f (s.chan p) else s.chan q := mget_mset _ _ _ _ _

@[simp] theorem State.chan_modChan_self (s : State) (p : Nat) (f : Channel → Channel) :
    (s.modChan p f).chan p = f (s.chan p) := by simp [State.chan_modChan]

@[simp] theorem State.die_modDie_self (s : State) (d : Nat) (f : Die → Die) : (s.modDie d f).die d = f (s.die d) := by
  unfold State.modDie State.die; split <;> simp [*]

@[simp] theorem State.setCore_cluster_get (s : State) (p : Nat) (c : Core) (n : Nat) : (s.setCore p c).cluster n = s.cluster n := rfl
@[simp] theorem State.setCore_slice_get (s : State) (p : Nat) (c : Core) (n : Nat) : (s.setCore p c).slice n = s.slice n := rfl
@[simp] theorem State.setCore_part_get (s : State) (p : Nat) (c : Core) (n : Nat) : (s.setCore p c).part n = s.part n := rfl
@[simp] theorem State.setCore_rule_get (s : State) (p : Nat) (c : Core) (n : Nat) : (s.setCore p c).rule n = s.rule n := rfl
@[simp] theorem State.setCore_chan_get (s : State) (p : Nat) (c : Core) (n : Nat) : (s.setCore p c).chan n = s.chan n := rfl
@[simp] theorem State.setCore_die_get (s : State) (p : Nat) (c : Core) (n : Nat) : (s.setCore p c).die n = s.die n := rfl
@[simp] theorem State.modCore_cluster_get (s : State) (p : Nat) (f : Core → Core) (n : Nat) : (s.modCore p f).cluster n = s.cluster n := rfl
@[simp] theorem State.modCore_slice_get (s : State) (p : Nat) (f : Core → Core) (n : Nat) : (s.modCore p f).slice n = s.slice n := rfl
@[simp] theorem State.modCore_part_get (s : State) (p : Nat) (f : Core → Core) (n : Nat) : (s.modCore p f).part n = s.part n := rfl
@[simp] theorem State.modCore_rule_get (s : State) (p : Nat) (f : Core → Core) (n : Nat) : (s.modCore p f).rule n = s.rule n := rfl
@[simp] theorem State.modCore_chan_get (s : State) (p : Nat) (f : Core → Core) (n : Nat) : (s.modCore p f).chan n = s.chan n := rfl
@[simp] theorem State.modCore_die_get (s : State) (p : Nat) (f : Core → Core) (n : Nat) : (s.modCore p f).die n = s.die n := rfl
@[simp] theorem State.modMe_cluster_get (s : State) (f : Core → Core) (n : Nat) : (s.modMe f).cluster n = s.cluster n := rfl
@[simp] theorem State.modMe_slice_get (s : State) (f : Core → Core) (n : Nat) : (s.modMe f).slice n = s.slice n := rfl
@[simp] theorem State.modMe_part_get (s : State) (f : Core → Core) (n : Nat) : (s.modMe f).part n = s.part n := rfl
@[simp] theorem State.modMe_rule_get (s : State) (f : Core → Core) (n : Nat) : (s.modMe f).rule n = s.rule n := rfl
@[simp] theorem State.modMe_chan_get (s : State) (f : Core → Core) (n : Nat) : (s.modMe f).chan n = s.chan n := rfl
@[simp] theorem State.modMe_die_get (s : State) (f : Core → Core) (n : Nat) : (s.modMe f).die n = s.die n := rfl
@[simp] theorem State.modCx_cluster_get (s : State) (f : Context → Context) (n : Nat) : (s.modCx f).cluster n = s.cluster n := rfl
@[simp] theorem State.modCx_slice_get (s : State) (f : Context → Context) (n : Nat) : (s.modCx f).slice n = s.slice n := rfl
@[simp] theorem State.modCx_part_get (s : State) (f : Context → Context) (n : Nat) : (s.modCx f).part n = s.part n := rfl
@[simp] theorem State.modCx_rule_get (s : State) (f : Context → Context) (n : Nat) : (s.modCx f).rule n = s.rule n := rfl
@[simp] theorem State.modCx_chan_get (s : State) (f : Context → Context) (n : Nat) : (s.modCx f).chan n = s.chan n := rfl
@[simp] theorem State.modCx_die_get (s : State) (f : Context → Context) (n : Nat) : (s.modCx f).die n = s.die n := rfl
@[simp] theorem State.modCluster_core_get (s : State) (p : Nat) (f : Cluster → Cluster) (n : Nat) : (s.modCluster p f).core n = s.core n := rfl
@[simp] theorem State.modCluster_slice_get (s : State) (p : Nat) (f : Cluster → Cluster) (n : Nat) : (s.modCluster p f).slice n = s.slice n := rfl
@[simp] theorem State.modCluster_part_get (s : State) (p : Nat) (f : Cluster → Cluster) (n : Nat) : (s.modCluster p f).part n = s.part n := rfl
@[simp] theorem State.modCluster_rule_get (s : State) (p : Nat) (f : Cluster → Cluster) (n : Nat) : (s.modCluster p f).rule n = s.rule n := rfl
@[simp] theorem State.modCluster_chan_get (s : State) (p : Nat) (f : Cluster → Cluster) (n : Nat) : (s.modCluster p f).chan n = s.chan n := rfl
@[simp] theorem State.modCluster_die_get (s : State) (p : Nat) (f : Cluster → Cluster) (n : Nat) : (s.modCluster p f).die n = s.die n := rfl
@[simp] theorem State.modCluster_me (s : State) (p : Nat) (f : Cluster → Cluster) : (s.modCluster p f).me = s.me := rfl
@[simp] theorem State.modCluster_cx (s : State) (p : Nat) (f : Cluster → Cluster) : (s.modCluster p f).cx = s.cx := rfl
@[simp] theorem State.modSlice_core_get (s : State) (p : Nat) (f : Slice → Slice) (n : Nat) : (s.modSlice p f).core n = s.core n := rfl
@[simp] theorem State.modSlice_cluster_get (s : State) (p : Nat) (f : Slice → Slice) (n : Nat) : (s.modSlice p f).cluster n = s.cluster n := rfl
@[simp] theorem State.modSlice_part_get (s : State) (p : Nat) (f : Slice → Slice) (n : Nat) : (s.modSlice p f).part n = s.part n := rfl
@[simp] theorem State.modSlice_rule_get (s : State) (p : Nat) (f : Slice → Slice) (n : Nat) : (s.modSlice p f).rule n = s.rule n := rfl
@[simp] theorem State.modSlice_chan_get (s : State) (p : Nat) (f : Slice → Slice) (n : Nat) : (s.modSlice p f).chan n = s.chan n := rfl
@[simp] theorem State.modSlice_die_get (s : State) (p : Nat) (f : Slice → Slice) (n : Nat) : (s.modSlice p f).die n = s.die n := rfl
@[simp] theorem State.modSlice_me (s : State) (p : Nat) (f : Slice → Slice) : (s.modSlice p f).me = s.me := rfl
@[simp] theorem State.modSlice_cx (s : State) (p : Nat) (f : Slice → Slice) : (s.modSlice p f).cx = s.cx := rfl
@[simp] theorem State.modPart_core_get (s : State) (p : Nat) (f : Partition → Partition) (n : Nat) : (s.modPart p f).core n = s.core n := rfl
@[simp] theorem State.modPart_cluster_get (s : State) (p : Nat) (f : Partition → Partition) (n : Nat) : (s.modPart p f).cluster n = s.cluster n := rfl
@[simp] theorem State.modPart_slice_get (s : State) (p : Nat) (f : Partition → Partition) (n : Nat) : (s.modPart p f).slice n = s.slice n := rfl
@[simp] theorem State.modPart_rule_get (s : State) (p : Nat) (f : Partition → Partition) (n : Nat) : (s.modPart p f).rule n = s.rule n := rfl
@[simp] theorem State.modPart_chan_get (s : State) (p : Nat) (f : Partition → Partition) (n : Nat) : (s.modPart p f).chan n = s.chan n := rfl
@[simp] theorem State.modPart_die_get (s : State) (p : Nat) (f : Partition → Partition) (n : Nat) : (s.modPart p f).die n = s.die n := rfl
@[simp] theorem State.modPart_me (s : State) (p : Nat) (f : Partition → Partition) : (s.modPart p f).me = s.me := rfl
@[simp] theorem State.modPart_cx (s : State) (p : Nat) (f : Partition → Partition) : (s.modPart p f).cx = s.cx := rfl
@[simp] theorem State.modRule_core_get (s : State) (p : Nat) (f : Slot → Slot) (n : Nat) : (s.modRule p f).core n = s.core n := rfl
@[simp] theorem State.modRule_cluster_get (s : State) (p : Nat) (f : Slot → Slot) (n : Nat) : (s.modRule p f).cluster n = s.cluster n := rfl
@[simp] theorem State.modRule_slice_get (s : State) (p : Nat) (f : Slot → Slot) (n : Nat) : (s.modRule p f).slice n = s.slice n := rfl
@[simp] theorem State.modRule_part_get (s : State) (p : Nat) (f : Slot → Slot) (n : Nat) : (s.modRule p f).part n = s.part n := rfl
@[simp] theorem State.modRule_chan_get (s : State) (p : Nat) (f : Slot → Slot) (n : Nat) : (s.modRule p f).chan n = s.chan n := rfl
@[simp] theorem State.modRule_die_get (s : State) (p : Nat) (f : Slot → Slot) (n : Nat) : (s.modRule p f).die n = s.die n := rfl
@[simp] theorem State.modRule_me (s : State) (p : Nat) (f : Slot → Slot) : (s.modRule p f).me = s.me := rfl
@[simp] theorem State.modRule_cx (s : State) (p : Nat) (f : Slot → Slot) : (s.modRule p f).cx = s.cx := rfl
@[simp] theorem State.modChan_core_get (s : State) (p : Nat) (f : Channel → Channel) (n : Nat) : (s.modChan p f).core n = s.core n := rfl
@[simp] theorem State.modChan_cluster_get (s : State) (p : Nat) (f : Channel → Channel) (n : Nat) : (s.modChan p f).cluster n = s.cluster n := rfl
@[simp] theorem State.modChan_slice_get (s : State) (p : Nat) (f : Channel → Channel) (n : Nat) : (s.modChan p f).slice n = s.slice n := rfl
@[simp] theorem State.modChan_part_get (s : State) (p : Nat) (f : Channel → Channel) (n : Nat) : (s.modChan p f).part n = s.part n := rfl
@[simp] theorem State.modChan_rule_get (s : State) (p : Nat) (f : Channel → Channel) (n : Nat) : (s.modChan p f).rule n = s.rule n := rfl
@[simp] theorem State.modChan_die_get (s : State) (p : Nat) (f : Channel → Channel) (n : Nat) : (s.modChan p f).die n = s.die n := rfl
@[simp] theorem State.modChan_me (s : State) (p : Nat) (f : Channel → Channel) : (s.modChan p f).me = s.me := rfl
@[simp] theorem State.modChan_cx (s : State) (p : Nat) (f : Channel → Channel) : (s.modChan p f).cx = s.cx := rfl
@[simp] theorem State.modDie_core_get (s : State) (p : Nat) (f : Die → Die) (n : Nat) : (s.modDie p f).core n = s.core n := by unfold State.modDie; split <;> rfl
@[simp] theorem State.modDie_cluster_get (s : State) (p : Nat) (f : Die → Die) (n : Nat) : (s.modDie p f).cluster n = s.cluster n := by unfold State.modDie; split <;> rfl
@[simp] theorem State.modDie_slice_get (s : State) (p : Nat) (f : Die → Die) (n : Nat) : (s.modDie p f).slice n = s.slice n := by unfold State.modDie; split <;> rfl
@[simp] theorem State.modDie_part_get (s : State) (p : Nat) (f : Die → Die) (n : Nat) : (s.modDie p f).part n = s.part n := by unfold State.modDie; split <;> rfl
@[simp] theorem State.modDie_rule_get (s : State) (p : Nat) (f : Die → Die) (n : Nat) : (s.modDie p f).rule n = s.rule n := by unfold State.modDie; split <;> rfl
@[simp] theorem State.modDie_chan_get (s : State) (p : Nat) (f : Die → Die) (n : Nat) : (s.modDie p f).chan n = s.chan n := by unfold State.modDie; split <;> rfl
@[simp] theorem State.modDie_me (s : State) (p : Nat) (f : Die → Die) : (s.modDie p f).me = s.me := by unfold State.modDie; split <;> rfl
@[simp] theorem State.modDie_cx (s : State) (p : Nat) (f : Die → Die) : (s.modDie p f).cx = s.cx := by unfold State.modDie; split <;> rfl

end Sys2Proof.Machine
end

