-- ==== Sys2Proof/Laws/Issue.lean ====
section
/-! SUPPORT. What issuing an instruction leaves: the lemma `issue_ran`, from which every result of an instruction that
completes follows, and what reading operands and pushing results keep. -/

namespace Sys2Proof.Machine

/-! ### States that differ only in what orders the issue -/

/-- The two states have the same contexts, the same cores beside the order of issue, and the same device. -/
def Quiet (s t : State) : Prop :=
  (∀ p k, (t.core p).context k = (s.core p).context k) ∧ (∀ p, (t.core p).rest = (s.core p).rest)
    ∧ { t with cores := [] } = { s with cores := [] }

theorem Quiet.refl (s : State) : Quiet s s := ⟨fun _ _ => rfl, fun _ => rfl, rfl⟩

theorem Quiet.trans {s t u : State} (h : Quiet s t) (g : Quiet t u) : Quiet s u :=
  ⟨fun p k => (g.1 p k).trans (h.1 p k), fun p => (g.2.1 p).trans (h.2.1 p), g.2.2.trans h.2.2⟩

theorem Quiet.modCore (s : State) (p : Nat) (f : Core → Core) (hc : ∀ k, (f (s.core p)).context k = (s.core p).context k)
    (hr : (f (s.core p)).rest = (s.core p).rest) : Quiet s (s.modCore p f) := by
  refine ⟨fun q k => ?_, fun q => ?_, rfl⟩ <;> rw [State.core_modCore] <;> split
  · subst_vars; exact hc k
  · rfl
  · subst_vars; exact hr
  · rfl

theorem Quiet.cur {s t : State} (h : Quiet s t) : t.cur = s.cur := by have := congrArg State.cur h.2.2; exact this
theorem Quiet.ctx {s t : State} (h : Quiet s t) : t.ctx = s.ctx := by have := congrArg State.ctx h.2.2; exact this

theorem quiet_foldl {α : Type} (l : List α) (f : State → α → State) (h : ∀ s a, Quiet s (f s a)) (s : State) :
    Quiet s (l.foldl f s) := by
  induction l generalizing s with
  | nil => exact Quiet.refl s
  | cons a l ih => exact (h s a).trans (ih (f s a))

theorem quiet_bindGang (s : State) (ps : List Nat) : Quiet s (s.bindGang ps) :=
  quiet_foldl _ _ (fun s q => Quiet.modCore s q _ (fun _ => rfl) rfl) s

theorem quiet_fuseGang (s : State) (ps : List Nat) : Quiet s (s.fuseGang ps) :=
  (quiet_foldl ps _ (fun s q => Quiet.modCore s q (fun c => { c with queue := [] }) (fun _ => rfl) rfl) s).trans (quiet_bindGang _ _)

theorem quiet_resolveGang (s : State) (p : Nat) : Quiet s (s.resolveGang p) := by
  unfold State.resolveGang
  dsimp only
  split
  · exact Quiet.refl s
  · exact quiet_foldl _ _ (fun s g => quiet_fuseGang s g) s

/-! ### The end of an issue -/

/-- What the end of an issue does to the running context. -/
def Context.moved (x : Context) (next : Word) (jump : Option Word) : Context :=
  { (match jump with
      | some t => { x with pc := t }
      | none => x.advance next) with
    run := (match x.run with
      | .waiting => .ready
      | r => r) }

theorem rest_modContext (c : Core) (k : Nat) (f : Context → Context) : (c.modContext k f).rest = c.rest := by
  unfold Core.modContext Core.setContext
  split <;> rfl

/-- Ending the issue moves the running context and is quiet beside. -/
theorem retire_spec (s : State) (c : Code) (next : Word) (jump : Option Word) (q : Bool) :
    Quiet (s.modCx (fun x => x.moved next jump)) (s.retire c next jump q) := by
  have e : s.retire c next jump q =
      if q && (s.modCx (fun x => x.moved next jump)).ctx = 0 && (s.modCx (fun x => x.moved next jump)).me.queued then
        ((s.modCx (fun x => x.moved next jump)).modMe (fun m =>
          { m with queue := m.queue.drop 1, hold := m.memb != 0 && (m.hold || isParting c),
                   outcome := if isParting c && c.maj != 20 then some jump.isSome else none })).resolveGang (s.modCx (fun x => x.moved next jump)).cur
      else s.modCx (fun x => x.moved next jump) := rfl
  rw [e]
  split
  · refine Quiet.trans ?_ (quiet_resolveGang _ _)
    exact Quiet.modCore _ _ _ (fun _ => rfl) rfl
  · exact Quiet.refl _

theorem Context.setName_sreg (x : Context) (n m : Nat) (v : VWord) :
    (x.setName n v).sreg m = if n = m ∧ 1 ≤ m ∧ m ≤ 31 then lane0 v else x.sreg m := by
  unfold Context.setName Context.setS Context.setV Context.sreg
  by_cases h1 : n ≤ 31
  · by_cases h0 : n = 0
    · subst h0; simp; intro h; omega
    · simp only [h1, if_true, h0, if_false]
      by_cases hm : m = 0
      · subst hm; simp
      · simp only [hm, if_false, mget_mset]
        by_cases h : n = m
        · subst h; simp [h1]; intro hh; omega
        · simp [h, Ne.symm h]
  · by_cases h2 : n ≤ 47
    · simp only [h1, h2, if_false, if_true]
      rw [if_neg (by omega : ¬ (n = m ∧ 1 ≤ m ∧ m ≤ 31))]
    · simp only [h1, h2, if_false]
      rw [if_neg (by omega : ¬ (n = m ∧ 1 ≤ m ∧ m ≤ 31))]

theorem Context.setName_vreg (x : Context) (n m : Nat) (v : VWord) :
    (x.setName n v).vreg m = if n = m + 32 ∧ m ≤ 15 then v else x.vreg m := by
  unfold Context.setName Context.vreg
  by_cases h1 : n ≤ 31
  · simp only [h1, if_true, Context.setS_v]
    rw [if_neg (by omega : ¬ (n = m + 32 ∧ m ≤ 15))]
  · by_cases h2 : n ≤ 47
    · simp only [h1, h2, if_false, if_true, Context.setV, mget_mset]
      by_cases h : m = n - 32
      · rw [if_pos h, if_pos (by omega)]
      · rw [if_neg h, if_neg (by omega)]
    · simp only [h1, h2, if_false]
      rw [if_neg (by omega)]

/-- Fields that writing a register by its name keeps. -/
theorem Context.setName_other (x : Context) (n : Nat) (v : VWord) :
    let y := x.setName n v
    y.run = x.run ∧ y.pc = x.pc ∧ y.tsw = x.tsw ∧ y.k = x.k ∧ y.j = x.j ∧ y.ls = x.ls ∧ y.le = x.le ∧ y.lc = x.lc ∧ y.win = x.win
      ∧ y.rep = x.rep ∧ y.gen = x.gen ∧ y.endWord = x.endWord ∧ y.comp = x.comp := by
  unfold Context.setName
  split
  · simp
  · split <;> simp

/-- What a result does to the running context. -/
def Context.withRes (x : Context) (ctx : Nat) (n : Option Nat) (r : Option Res) : Context :=
  match n, r with
  | some n, some r => { x.setName n r.bits with win := x.win.push (entryOf ctx r) }
  | _, _ => x

theorem withRes_win (x : Context) (ctx : Nat) (n : Option Nat) (r : Option Res) :
    (x.withRes ctx n r).win = x.win.after ctx n r := by
  cases n <;> cases r <;> rfl

theorem withRes_sreg (x : Context) (ctx : Nat) (n : Option Nat) (r : Option Res) (m : Nat) :
    (x.withRes ctx n r).sreg m = sregAfter n m (x.sreg m) r := by
  cases n with
  | none => cases r <;> simp [Context.withRes, sregAfter]
  | some k =>
    cases r with
    | none => rfl
    | some r => simpa [Context.withRes, Context.sreg, sregAfter] using Context.setName_sreg x k m r.bits

theorem withRes_vreg (x : Context) (ctx : Nat) (n : Option Nat) (r : Option Res) (m : Nat) :
    (x.withRes ctx n r).vreg m = vregAfter n m (x.vreg m) r := by
  cases n with
  | none => cases r <;> simp [Context.withRes, vregAfter]
  | some k =>
    cases r with
    | none => rfl
    | some r => simpa [Context.withRes, Context.vreg, vregAfter] using Context.setName_vreg x k m r.bits

theorem withRes_other (x : Context) (ctx : Nat) (n : Option Nat) (r : Option Res) :
    let y := x.withRes ctx n r
    y.run = x.run ∧ y.pc = x.pc ∧ y.tsw = x.tsw ∧ y.k = x.k ∧ y.j = x.j ∧ y.ls = x.ls ∧ y.le = x.le ∧ y.lc = x.lc
      ∧ y.rep = x.rep ∧ y.gen = x.gen ∧ y.endWord = x.endWord ∧ y.comp = x.comp := by
  cases n with
  | none => cases r <;> simp [Context.withRes]
  | some k =>
    cases r with
    | none => simp [Context.withRes]
    | some r => have := Context.setName_other x k r.bits; simp_all [Context.withRes]

/-- The loop-back reads the loop registers alone. -/
theorem advance_fields (x y : Context) (next : Word) (hs : y.ls = x.ls) (he : y.le = x.le) (hc : y.lc = x.lc) :
    (y.advance next).pc = (x.advance next).pc ∧ (y.advance next).lc = (x.advance next).lc := by
  unfold Context.advance Context.loopAt
  rw [hs, he, hc]
  dsimp only
  split
  · exact ⟨rfl, rfl⟩
  · split <;> simp

theorem advance_other (x : Context) (next : Word) :
    let y := x.advance next
    y.run = x.run ∧ y.tsw = x.tsw ∧ y.s = x.s ∧ y.v = x.v ∧ y.k = x.k ∧ y.j = x.j ∧ y.ls = x.ls ∧ y.le = x.le ∧ y.win = x.win
      ∧ y.rep = x.rep ∧ y.gen = x.gen ∧ y.endWord = x.endWord ∧ y.comp = x.comp := by
  unfold Context.advance
  dsimp only
  split
  · simp
  · split <;> simp

/-- From a state that is quiet beside the running context's result and move, the completion follows. -/
theorem ran_of_quiet (i : Instr) (s s2 t : State) (r : Option Res) (jump : Option Word)
    (h : Quiet (s2.modCx (fun x => (x.withRes s2.ctx (targetName i) r).moved (s.nextPc i) jump)) t) :
    Ran i s s2 t r jump := by
  have hcx : t.cx = (s2.cx.withRes s2.ctx (targetName i) r).moved (s.nextPc i) jump := by
    have := h.1 t.cur t.ctx
    have hc := h.cur
    have hx := h.ctx
    simp only [State.modCx_cur, State.modCx_ctx] at hc hx
    unfold State.cx State.me
    rw [this, hc, hx, State.core_modCx, if_pos rfl, Core.context_modContext_self]
    rfl
  generalize hy : s2.cx.withRes s2.ctx (targetName i) r = y at hcx
  have hwin := withRes_win s2.cx s2.ctx (targetName i) r
  have hs := withRes_sreg s2.cx s2.ctx (targetName i) r
  have hv := withRes_vreg s2.cx s2.ctx (targetName i) r
  rw [hy] at hwin
  simp only [hy] at hs hv
  have ho : y.run = s2.cx.run ∧ y.pc = s2.cx.pc ∧ y.tsw = s2.cx.tsw ∧ y.k = s2.cx.k ∧ y.j = s2.cx.j ∧ y.ls = s2.cx.ls
      ∧ y.le = s2.cx.le ∧ y.lc = s2.cx.lc ∧ y.rep = s2.cx.rep ∧ y.gen = s2.cx.gen ∧ y.endWord = s2.cx.endWord
      ∧ y.comp = s2.cx.comp := by rw [← hy]; exact withRes_other _ _ _ _
  obtain ⟨ho1, ho2, ho3, ho4, ho5, ho6, ho7, ho8, ho9, ho10, ho11, ho12⟩ := ho
  have ha := advance_other y (s.nextPc i)
  obtain ⟨ha1, ha2, ha3, ha4, ha5, ha6, ha7, ha8, ha9, ha10, ha11, ha12, ha13⟩ := ha
  have hf := advance_fields s2.cx y (s.nextPc i) ho6 ho7 ho8
  refine ⟨?_, ?_, ?_, ?_, ?_, ?_, ?_, ?_, ?_, ?_⟩
  · rw [hcx, ← hwin]; unfold Context.moved; cases jump <;> simp [ha9]
  · intro n; rw [hcx, ← hs n]; unfold Context.moved Context.sreg; cases jump <;> simp [ha3]
  · intro n; rw [hcx, ← hv n]; unfold Context.moved Context.vreg; cases jump <;> simp [ha4]
  · rw [hcx]; unfold Context.moved Context.goesTo; cases jump <;> simp [hf, ho8]
  · rw [hcx]; unfold Context.moved; simp only [ho1]
    cases s2.cx.run <;> simp
  · rw [hcx, ← ho3]; unfold Context.moved; cases jump <;> simp [ha2]
  · rw [hcx]; unfold Context.moved
    cases jump <;> simp [ha5, ha6, ha7, ha8, ha10, ha11, ha12, ha13, ho4, ho5, ho6, ho7, ho9, ho10, ho11, ho12]
  · intro p k hpk
    rw [h.1 p k, State.core_modCx]
    split
    · rename_i hp
      subst hp
      rw [Core.context_modContext, if_neg (fun hk => hpk ⟨rfl, hk⟩)]
      rfl
    · rfl
  · intro p
    rw [h.2.1 p, State.core_modCx]
    split
    · rename_i hp; subst hp; rw [rest_modContext]; rfl
    · rfl
  · exact h.2.2

/-! ### What reading operands and pushing results keep -/

theorem Same.refl (s : State) : Same s s := ⟨rfl, rfl, rfl⟩
theorem Same.trans {s t u : State} (h : Same s t) (g : Same t u) : Same s u :=
  ⟨g.1.trans h.1, g.2.1.trans h.2.1, g.2.2.trans h.2.2⟩
theorem Same.modCore (s : State) (p : Nat) (f : Core → Core) : Same s (s.modCore p f) := ⟨rfl, rfl, rfl⟩

theorem same_pushLink {s t : State} {w : Bool} {v : Word} (h : s.pushLink w v = .ok t) : Same s t := by
  unfold State.pushLink at h
  split at h
  · cases h
  · dsimp only at h
    generalize (if w = true then _ else _ : Nat) = held at h
    split at h
    · cases h
    · cases h; exact ⟨rfl, rfl, rfl⟩

theorem same_pairSend (s : State) (p kind key len data : Nat) (w : Bool) (a : PairAct) :
    (∀ v t, s.pairSend p kind key len data w a = .done v t → Same s t)
      ∧ (∀ t, s.pairSend p kind key len data w a = .sent t → Same s t) := by
  constructor
  · intro v t h
    unfold State.pairSend at h
    dsimp only at h
    repeat' split at h
    all_goals cases h
    exact ⟨rfl, rfl, rfl⟩
  · intro t h
    unfold State.pairSend at h
    cases w
    all_goals
      dsimp only at h
      repeat' split at h
      all_goals cases h
      all_goals exact ⟨rfl, rfl, rfl⟩

theorem same_pairTake (s : State) (p : Nat) (far : Bool) : Same s (s.pairTake p far).2 := by
  unfold State.pairTake
  dsimp only
  split
  · exact Same.refl s
  · exact Same.modCore _ _ _

theorem same_pushCopy {s t : State} {p lvl : Nat} {w : List Word} {b : Bool} (h : s.pushCopy p lvl w b = .ok t) :
    Same s t := by
  unfold State.pushCopy at h
  dsimp only at h
  split at h
  · split at h
    · cases h; exact Same.modCore _ _ _
    · cases h
  · split at h
    · cases h
    · split at h
      · cases h; exact Same.modCore _ _ _
      · cases h; exact (same_pairTake _ _ _).trans (Same.modCore _ _ _)

theorem same_pushMat {s t : State} {p : Nat} {pc : BitVec 57} {w : List Word} {f : Option VWord} {b : Bool}
    (h : s.pushMat p pc w f b = .ok t) : Same s t := by
  unfold State.pushMat at h
  dsimp only at h
  split at h
  · cases h
  · split at h
    · cases h
    · cases h
      exact Same.trans (t := s.setCore _ _) ⟨rfl, rfl, rfl⟩ ((same_pairTake _ _ _).trans (Same.modCore _ _ _))

theorem same_pushRule {s t : State} {p k : Nat} {w : List Word} {b : Bool} (h : s.pushRule p k w b = .ok t) :
    Same s t := by
  unfold State.pushRule at h
  dsimp only at h
  split at h
  · cases h
  · cases h; exact ⟨rfl, rfl, rfl⟩

theorem same_pushRecord {s t : State} {q : AsmQueue} {w : List Word} {b : Bool} (h : s.pushRecord q w b = .ok t) :
    Same s t := by
  unfold State.pushRecord at h
  cases q
  · exact same_pushCopy h
  · exact same_pushMat h
  · exact same_pushRule h

theorem same_pushWord {s t : State} {q : AsmQueue} {v : Word} (h : s.pushWord q v = .ok t) : Same s t := by
  unfold State.pushWord at h
  dsimp only at h
  split at h
  · cases h
  · split at h
    · cases h; exact Same.modCore _ _ _
    · split at h
      · cases h
      · rename_i e; cases h; exact (same_pushRecord e).trans (Same.modCore _ _ _)

theorem same_pushWhole {s t : State} {q : AsmQueue} {v : VWord} (h : s.pushWhole q v = .ok t) : Same s t := by
  unfold State.pushWhole at h
  dsimp only at h
  split at h
  · cases h
  · refine Same.trans ?_ (same_pushRecord h)
    split
    · exact ⟨rfl, rfl, rfl⟩
    · exact Same.refl s

theorem same_pushHead {s t : State} {n : Nat} {r : Res} (h : s.pushHead n r = .ok t) : Same s t := by
  unfold State.pushHead at h
  repeat' split at h
  all_goals first
    | exact same_pushWord h
    | exact same_pushWhole h
    | exact same_pushLink h
    | (cases h; exact Same.refl s)

theorem same_takes {s t : State} {i : Instr} {r : Res} (h : s.takes i r = some t) : Same s t := by
  unfold State.takes at h
  split at h
  · cases h; exact Same.refl s
  · split at h
    · cases h
    · rename_i e; cases h; exact same_pushHead e

theorem same_popLink {s : State} {w f : Bool} {r : Val × State} (h : s.popLink w f = .ok r) : Same s r.2 := by
  unfold State.popLink at h
  split at h
  · cases h
  · split at h
    · cases h
    · dsimp only at h
      split at h
      · split at h
        · cases h
        · rename_i e; cases h
          exact (Same.modCore s _ _).trans (same_pushLink e)
      · cases h; exact Same.modCore s _ _

theorem same_popMail {s : State} {pv : Bool} {r : Val × State} (h : s.popMail pv = .ok r) : Same s r.2 := by
  unfold State.popMail at h
  repeat' split at h
  all_goals cases h
  all_goals exact Same.modCore s _ _

theorem same_readName {s : State} {w : Window} {f pv : Bool} {n : Nat} {r : Val × State}
    (h : s.readName w f pv n = .ok r) : Same s r.2 := by
  unfold State.readName at h
  repeat' split at h
  all_goals first
    | exact same_popLink h
    | exact same_popMail h
    | skip
  all_goals
    try dsimp only at h
    try split at h
    all_goals cases h
  all_goals exact Same.refl s

theorem same_readField {s : State} {w : Window} {f b pv : Bool} {n : Nat} {r : Val × State}
    (h : s.readField w f b pv n = .ok r) : Same s r.2 := by
  unfold State.readField at h
  split at h
  · exact same_readName h
  · cases h; exact Same.refl s

/-! ### What reading operands keeps of the contexts -/

/-- Every context and every memory stays as it is, and so does everything outside the cores and their links. -/
def Kept (s t : State) : Prop :=
  (∀ p k, (t.core p).context k = (s.core p).context k) ∧ (∀ p, (t.core p).mem = (s.core p).mem)
    ∧ { t with cores := [], links := [] } = { s with cores := [], links := [] }

theorem Kept.refl (s : State) : Kept s s := ⟨fun _ _ => rfl, fun _ => rfl, rfl⟩
theorem Kept.trans {s t u : State} (h : Kept s t) (g : Kept t u) : Kept s u :=
  ⟨fun p k => (g.1 p k).trans (h.1 p k), fun p => (g.2.1 p).trans (h.2.1 p), g.2.2.trans h.2.2⟩

theorem kept_modMe (s : State) (f : Core → Core) (hf : ∀ c k, (f c).context k = c.context k) (hm : ∀ c, (f c).mem = c.mem) :
    Kept s (s.modMe f) := by
  refine ⟨fun p k => ?_, fun p => ?_, rfl⟩ <;> rw [State.core_modMe] <;> split
  · rename_i hp; subst hp; exact hf _ _
  · rfl
  · rename_i hp; subst hp; exact hm _
  · rfl

theorem kept_pushLink {s t : State} {w : Bool} {v : Word} (h : s.pushLink w v = .ok t) : Kept s t := by
  unfold State.pushLink at h
  split at h
  · cases h
  · dsimp only at h
    generalize (if w = true then _ else _ : Nat) = held at h
    split at h
    · cases h
    · cases h
      exact Kept.trans (t := { s with links := _ }) ⟨fun _ _ => rfl, fun _ => rfl, rfl⟩ (kept_modMe _ _ (fun _ _ => rfl) (fun _ => rfl))

theorem kept_popLink {s : State} {w f : Bool} {r : Val × State} (h : s.popLink w f = .ok r) : Kept s r.2 := by
  have hk : Kept s (s.modMe (fun c => if w then { c with west := (if w then s.me.west else s.me.east).tail }
      else { c with east := (if w then s.me.west else s.me.east).tail })) :=
    kept_modMe s _ (fun c k => by cases w <;> rfl) (fun c => by cases w <;> rfl)
  unfold State.popLink at h
  split at h
  · cases h
  · split at h
    · cases h
    · rename_i v rest hr
      rw [hr] at hk
      dsimp only [List.tail] at hk
      dsimp only at h
      split at h
      · split at h
        · cases h
        · rename_i e; cases h
          exact hk.trans (kept_pushLink e)
      · cases h; exact hk

theorem kept_popMail {s : State} {pv : Bool} {r : Val × State} (h : s.popMail pv = .ok r) : Kept s r.2 := by
  unfold State.popMail at h
  split at h
  · cases h
  · split at h
    · cases h; exact kept_modMe s _ (fun _ _ => rfl) (fun _ => rfl)
    · cases h; exact kept_modMe s _ (fun _ _ => rfl) (fun _ => rfl)

theorem kept_readName {s : State} {w : Window} {f pv : Bool} {n : Nat} {r : Val × State}
    (h : s.readName w f pv n = .ok r) : Kept s r.2 := by
  unfold State.readName at h
  repeat' split at h
  all_goals first
    | exact kept_popLink h
    | exact kept_popMail h
    | (cases h; exact kept_modMe s _ (fun _ _ => rfl) (fun _ => rfl))
    | skip
  all_goals
    try dsimp only at h
    try split at h
    all_goals cases h
  all_goals exact Kept.refl s

theorem kept_readField {s : State} {w : Window} {f b pv : Bool} {n : Nat} {r : Val × State}
    (h : s.readField w f b pv n = .ok r) : Kept s r.2 := by
  unfold State.readField at h
  split at h
  · exact kept_readName h
  · cases h; exact Kept.refl s

/-- Reading X, Y and Z comes down to reading the three fields in order. -/
theorem readAll_fields {s : State} {sh : Shape} {e : Fields} {o : Opnds} {w : Window} {r : Vals × State}
    (h : s.readAll sh e o w = .ok r) : ∃ s1 s2,
      s.readField w o.f (sh.xUse e).reads sh.xv o.x = .ok (r.1.x, s1)
      ∧ s1.readField w o.f (sh.yUse e).reads sh.yv o.y = .ok (r.1.y, s2)
      ∧ s2.readField w o.f (e.zp && sh.z == ZUse.src) sh.zv o.z = .ok (r.1.z, r.2) := by
  have tail : ∀ {r : Vals × State}, (match s.readField w o.f (sh.xUse e).reads sh.xv o.x with
      | .error st => (.error st : Except Stop (Vals × State))
      | .ok (x, s) =>
        match s.readField w o.f (sh.yUse e).reads sh.yv o.y with
        | .error st => .error st
        | .ok (y, s) =>
          match s.readField w o.f (e.zp && sh.z == ZUse.src) sh.zv o.z with
          | .error st => .error st
          | .ok (z, s) => .ok ({ x := x, y := y, z := z }, s)) = .ok r → ∃ s1 s2,
      s.readField w o.f (sh.xUse e).reads sh.xv o.x = .ok (r.1.x, s1)
      ∧ s1.readField w o.f (sh.yUse e).reads sh.yv o.y = .ok (r.1.y, s2)
      ∧ s2.readField w o.f (e.zp && sh.z == ZUse.src) sh.zv o.z = .ok (r.1.z, r.2) := by
    intro r h
    split at h
    · cases h
    · rename_i h1
      split at h
      · cases h
      · rename_i h2
        split at h
        · cases h
        · rename_i h3
          cases h
          exact ⟨_, _, h1, h2, h3⟩
  unfold State.readAll at h
  cases ht : sh.target e o <;> simp only [ht] at h
  all_goals
    try dsimp only at h
    generalize (_ ++ _ ++ _ : List Stop) = gone at h
    cases gone with
    | cons st l => cases h
    | nil =>
      dsimp only at h
      generalize (s.ctx == 0 && _ : Bool) = g at h
      cases g
      · simp only [Bool.false_eq_true, if_false] at h
        first
          | exact tail h
          | (split at h
             · cases h
             · exact tail h)
      · cases h

theorem kept_readAll {s : State} {sh : Shape} {e : Fields} {o : Opnds} {w : Window} {r : Vals × State}
    (h : s.readAll sh e o w = .ok r) : Kept s r.2 := by
  obtain ⟨s1, s2, h1, h2, h3⟩ := readAll_fields h
  exact (kept_readField h1).trans ((kept_readField h2).trans (kept_readField h3))

theorem same_readAll {s : State} {sh : Shape} {e : Fields} {o : Opnds} {w : Window} {r : Vals × State}
    (h : s.readAll sh e o w = .ok r) : Same s r.2 := by
  obtain ⟨s1, s2, h1, h2, h3⟩ := readAll_fields h
  exact (same_readField h1).trans ((same_readField h2).trans (same_readField h3))

theorem same_dropAsm (s : State) (p k : Nat) : Same s (s.dropAsm p k) := ⟨rfl, rfl, rfl⟩

theorem same_begin {s t : State} {i : Instr} (h : s.begin i = some t) : Same s t := by
  unfold State.begin at h
  split at h
  · cases h
  · rename_i c sh _
    have hs : Same s (if isWaitInsn c then s.dropAsm s.cur s.ctx else s) := by
      split
      · exact same_dropAsm _ _ _
      · exact Same.refl s
    dsimp only at h
    obtain ⟨u, hu⟩ : ∃ u, u = (if isWaitInsn c then s.dropAsm s.cur s.ctx else s) := ⟨_, rfl⟩
    rw [← hu] at h hs
    refine hs.trans ?_
    split at h
    · split at h
      · cases h
      · cases h; exact ⟨rfl, rfl, rfl⟩
    · cases h; exact Same.refl _

theorem starts_same {s : State} {i : Instr} {vs : Vals} {t : State} (h : s.starts i = some (vs, t)) :
    Same s t ∧ t.late = false := by
  unfold State.starts at h
  split at h
  · rename_i hi
    have hl : s.late = false := by
      unfold State.issues at hi
      split at hi
      · cases hi
      · simp at hi; exact hi.2
    split at h
    · rename_i hb
      split at h
      · cases h
      · rename_i hr; cases h
        have := (same_begin hb).trans (same_readAll hr)
        exact ⟨this, this.2.2.trans hl⟩
    · cases h
  · cases h

theorem cx_dropAsm (s : State) : ∃ b, (s.dropAsm s.cur s.ctx).cx = { s.cx with tsw := s.cx.tsw ||| b } := by
  unfold State.cx State.me State.dropAsm
  simp only [State.modCore_cur, State.modCore_ctx, State.core_modCore_self, Core.context_modContext_self]
  exact ⟨_, rfl⟩

theorem cx_begin {s t : State} {i : Instr} (h : s.begin i = some t) : ∃ b, t.cx = { s.cx with tsw := s.cx.tsw ||| b } := by
  unfold State.begin at h
  split at h
  · cases h
  · rename_i c sh _
    have hs : ∃ b, (if isWaitInsn c then s.dropAsm s.cur s.ctx else s).cx = { s.cx with tsw := s.cx.tsw ||| b } := by
      split
      · exact cx_dropAsm s
      · exact ⟨0, by simp⟩
    dsimp only at h
    obtain ⟨u, hu⟩ : ∃ u, u = (if isWaitInsn c then s.dropAsm s.cur s.ctx else s) := ⟨_, rfl⟩
    rw [← hu] at h hs
    obtain ⟨b, hb⟩ := hs
    refine ⟨b, ?_⟩
    rw [← hb]
    split at h
    · split at h
      · cases h
      · rename_i hr; cases h
        unfold State.cx State.me
        rw [State.setCore_cur, State.setCore_ctx, State.core_setCore_self]
        unfold State.me Core.takeRing at hr
        split at hr
        · cases hr
        · cases hr; rfl
    · cases h; rfl

theorem mem_dropAsm (s : State) : (∀ p, ((s.dropAsm s.cur s.ctx).core p).mem = (s.core p).mem)
    ∧ { s.dropAsm s.cur s.ctx with cores := [], links := [] } = { s with cores := [], links := [] } := by
  refine ⟨fun p => ?_, rfl⟩
  unfold State.dropAsm
  dsimp only
  rw [State.core_modCore]
  split
  · rename_i hp; subst hp; rw [Core.modContext_mem]
  · rfl

theorem mem_begin {s t : State} {i : Instr} (h : s.begin i = some t) : (∀ p, (t.core p).mem = (s.core p).mem)
    ∧ { t with cores := [], links := [] } = { s with cores := [], links := [] } := by
  unfold State.begin at h
  split at h
  · cases h
  · rename_i c sh _
    have hs : (∀ p, ((if isWaitInsn c then s.dropAsm s.cur s.ctx else s).core p).mem = (s.core p).mem)
        ∧ { (if isWaitInsn c then s.dropAsm s.cur s.ctx else s) with cores := [], links := [] }
          = { s with cores := [], links := [] } := by
      split
      · exact mem_dropAsm s
      · exact ⟨fun _ => rfl, rfl⟩
    dsimp only at h
    obtain ⟨u, hu⟩ : ∃ u, u = (if isWaitInsn c then s.dropAsm s.cur s.ctx else s) := ⟨_, rfl⟩
    rw [← hu] at h hs
    split at h
    · split at h
      · cases h
      · rename_i hr; cases h
        refine ⟨fun p => Eq.trans ?_ (hs.1 p), hs.2⟩
        rw [State.core_setCore]
        split
        · rename_i hp; subst hp
          unfold State.me Core.takeRing at hr
          split at hr
          · cases hr
          · cases hr; rfl
        · rfl
    · cases h; exact hs

/-- What the running context holds when an instruction's operands have been read: CTX.TSW alone can have gained bits. -/
theorem starts_cx {s : State} {i : Instr} {vs : Vals} {t : State} (h : s.starts i = some (vs, t)) :
    ∃ b, t.cx = { s.cx with tsw := s.cx.tsw ||| b } := by
  unfold State.starts at h
  split at h
  · split at h
    · rename_i hb
      split at h
      · cases h
      · rename_i hr; cases h
        obtain ⟨b, hb'⟩ := cx_begin hb
        refine ⟨b, ?_⟩
        rw [← hb']
        have hsame := same_readAll hr
        have := kept_readAll hr
        unfold State.cx State.me
        rw [hsame.1, hsame.2.1]
        exact this.1 _ _
    · cases h
  · cases h

/-- What the device holds when an instruction's operands have been read: no memory has changed. -/
theorem starts_mem {s : State} {i : Instr} {vs : Vals} {t : State} (h : s.starts i = some (vs, t)) :
    (∀ p, (t.core p).mem = (s.core p).mem) ∧ { t with cores := [], links := [] } = { s with cores := [], links := [] } := by
  unfold State.starts at h
  split at h
  · split at h
    · rename_i hb
      split at h
      · cases h
      · rename_i hr; cases h
        have hk := kept_readAll hr
        have hm := mem_begin hb
        exact ⟨fun p => (hk.2.1 p).trans (hm.1 p), hk.2.2.trans hm.2⟩
    · cases h
  · cases h

/-! ### The spec of issuing -/

theorem dst_now {s s2 : State} {i : Instr} {n : Nat} {r : Res} {ring : Option Nat} (hn : targetName i = some n)
    (h : s.takes i r = some s2) (hl : s2.late = false) :
    s.dst n r ring = .ok (s2.modCx (fun x => x.withRes s2.ctx (targetName i) (some r))) := by
  unfold State.takes at h
  rw [hn] at h
  dsimp only at h
  unfold State.dst
  cases hp : s.pushHead n r with
  | error e => rw [hp] at h; cases h
  | ok t =>
    rw [hp] at h
    cases h
    dsimp only
    rw [hl]
    simp only [Bool.false_eq_true, if_false, hn, Context.withRes]

/-- What the end of `issueWith` adds to a state: the counts of assembly and of waiting. -/
def closed (s : State) (before : Core) : State :=
  s.modMe (fun m =>
    { m with asmC := countAsm s.ctx before.asmC m.asmC, asmM := countAsm s.ctx before.asmM m.asmM,
             asmR := countAsm s.ctx before.asmR m.asmR, counted := if s.ctx = 0 then false else m.counted,
             waited := if s.ctx = 0 then 0 else m.waited })

theorem countAsm_words (k : Nat) (b a : Option Asm) :
    (countAsm k b a).map (fun a => { a with since := 0 }) = a.map (fun a => { a with since := 0 }) := by
  unfold countAsm
  split
  · split <;> rfl
  · rfl

theorem quiet_closed (s : State) (b : Core) : Quiet s (closed s b) := by
  refine Quiet.modCore _ _ _ (fun _ => rfl) ?_
  unfold Core.rest
  simp only [countAsm_words]

theorem quiet_ring (s : State) (k : Nat) : Quiet s (s.modMe (fun m => { m with ring := merase m.ring k })) :=
  Quiet.modCore _ _ _ (fun _ => rfl) rfl

/-- The result entry and the move of a context, on states that are quiet to each other. -/
theorem quiet_modCx {s t : State} (h : Quiet s t) (f : Context → Context) : Quiet (s.modCx f) (t.modCx f) := by
  refine ⟨fun p k => ?_, fun p => ?_, h.2.2⟩
  · rw [State.core_modCx, State.core_modCx, h.cur, h.ctx]
    split
    · rw [Core.context_modContext, Core.context_modContext]
      have := h.1 s.cur
      unfold State.me
      rw [h.cur]
      split
      · rw [this]
      · rw [this]
    · exact h.1 p k
  · rw [State.core_modCx, State.core_modCx, h.cur]
    split
    · rw [rest_modContext, rest_modContext]
      unfold State.me
      rw [h.cur]; exact h.2.1 _
    · exact h.2.1 p

theorem quiet_modCx_modCx (s : State) (f g : Context → Context) :
    Quiet (s.modCx (fun x => g (f x))) ((s.modCx f).modCx g) := by
  refine ⟨fun p k => ?_, fun p => ?_, rfl⟩
  · simp only [State.core_modCx, State.modCx_cur, State.modCx_ctx, State.me_modCx]
    split
    · simp only [Core.context_modContext]
      split <;> rfl
    · rfl
  · simp only [State.core_modCx, State.modCx_cur, State.modCx_ctx, State.me_modCx]
    split
    · simp only [rest_modContext]
    · rfl

theorem quiet_modCx_id (s : State) (f : Context → Context) (hf : f s.cx = s.cx) : Quiet (s.modCx f) s := by
  refine ⟨fun p k => ?_, fun p => ?_, rfl⟩
  · rw [State.core_modCx]
    split
    · rename_i hp; subst hp
      rw [Core.context_modContext]
      split
      · rename_i hk; subst hk; exact hf.symm
      · rfl
    · rfl
  · rw [State.core_modCx]
    split
    · rename_i hp; subst hp; rw [rest_modContext]; rfl
    · rfl

theorem behind_dropAsm (s : State) (c : Code) (sh : Shape) (o : Opnds) :
    (s.dropAsm s.cur s.ctx).behind c sh o = s.behind c sh o := by
  unfold State.behind State.failing State.postedBy State.dropAsm State.me
  simp only [State.modCore_cur, State.modCore_greqs, State.modCore_walks, State.modCore_paired, State.core_modCore_self,
    Core.modContext_msb, State.modCore_ctx, Core.modContext_ring, Core.modContext_handler]

theorem perform_now {u s1 s2 : State} {i : Instr} {sh : Shape} {e : Fields} {o : Opnds} {eff : Eff} {vs : Vals} {d : Done}
    (ring : Option Nat) (ha : d.after = fun t => t) (ht : targetName i = sh.target e o) (h : u.readAll sh e o u.cx.win = .ok (vs, s1))
    (he : eff o vs s1 = .ok d)
    (hr : match d.res with
      | none => s2 = d.st
      | some r => d.st.takes i r = some s2) (hl : s2.late = false) :
    ∃ w, u.perform sh e o eff ring = .ok (w, d.jump) ∧ Quiet (s2.modCx (fun x => x.withRes s2.ctx (targetName i) d.res)) w := by
  unfold State.perform
  rw [h]; dsimp only
  rw [he]; dsimp only
  rw [ha]
  cases hres : d.res with
  | none =>
    rw [hres] at hr
    subst hr
    exact ⟨_, rfl, quiet_modCx_id _ _ (by unfold Context.withRes; cases targetName i <;> rfl)⟩
  | some r =>
    rw [hres] at hr
    dsimp only at hr ⊢
    rw [← ht]
    cases hn : targetName i with
    | none =>
      unfold State.takes at hr
      rw [hn] at hr; cases hr
      exact ⟨_, rfl, quiet_modCx_id _ _ rfl⟩
    | some n =>
      dsimp only
      rw [dst_now hn hr hl]
      exact ⟨_, rfl, by rw [hn]; exact Quiet.refl _⟩

theorem quiet_end {s2 w : State} {f : Context → Context} (c : Code) (b : Core) (next : Word) (jump : Option Word) (q : Bool)
    (h : Quiet (s2.modCx f) w) :
    Quiet (s2.modCx (fun x => (f x).moved next jump)) ((closed w b).retire c next jump q) :=
  (quiet_modCx_modCx s2 f (fun x => x.moved next jump)).trans
    ((quiet_modCx (h.trans (quiet_closed w b)) _).trans (retire_spec _ c next jump _))

/-- The one way in which an instruction that starts, and whose effect succeeds, completes. -/
theorem issue_ran {i : Instr} {eff : Eff} {s s1 s2 : State} {vs : Vals} {d : Done} (h : s.starts i = some (vs, s1))
    (he : eff i.opnds vs s1 = .ok d) (ha : d.after = fun t => t) (hd : Same s1 d.st)
    (hr : match d.res with
      | none => s2 = d.st
      | some r => d.st.takes i r = some s2) : Ran i s s2 (s.issue i eff) d.res d.jump := by
  obtain ⟨hs1, hl1⟩ := starts_same h
  unfold State.starts at h
  split at h
  swap; · cases h
  rename_i hi
  unfold State.issues at hi
  unfold formOf at h hi
  unfold State.issue Instr.opnds at *
  cases hc : i.code with
  | none => rw [hc] at hi; cases hi
  | some c =>
    rw [hc] at h hi he
    dsimp only at h hi he ⊢
    cases hrow : rowAt c.p1 c.maj c.min with
    | none => rw [hrow] at hi; cases hi
    | some row =>
      rw [hrow] at h hi he
      dsimp only at h hi he ⊢
      simp only [Bool.and_eq_true, Bool.not_eq_true'] at hi
      obtain ⟨⟨⟨hw, hlev⟩, hbeh⟩, hlate⟩ := hi
      have htgt : targetName i = row.shape.target c.e (row.shape.opnds c.min c.e) := by
        unfold targetName formOf; rw [hc]; dsimp only; rw [hrow]
      have hsub : (i.subcauses ++ subIf (c.barred row.shape s.who) 7).isEmpty = true := by
        unfold Instr.wellFormedFor Instr.wellFormed at hw
        rw [hc] at hw; dsimp only at hw; rw [hrow] at hw
        simp only [Bool.and_eq_true, Bool.not_eq_true', List.isEmpty_iff] at hw
        rw [hw.2, hw.1]; rfl
      have hl2 : s2.late = false := by
        have := hd.2.2.trans hl1
        cases hres : d.res with
        | none => rw [hres] at hr; rw [hr]; exact this
        | some r => rw [hres] at hr; exact (same_takes hr).2.2.trans this
      rw [hsub]
      simp only [Bool.not_true, Bool.false_eq_true, if_false]
      rw [hlev]
      simp only [Bool.false_eq_true, if_false]
      have hnext : s.cx.pc + BitVec.ofNat 64 (row.shape.opnds c.min c.e).len = s.nextPc i := by
        unfold State.nextPc Instr.opnds; rw [hc]; dsimp only; rw [hrow]
      rw [hnext]
      apply ran_of_quiet
      unfold State.issueWith
      unfold State.begin formOf at h
      rw [hc] at h; dsimp only at h; rw [hrow] at h; dsimp only at h
      have hb2 : (if isWaitInsn c then s.dropAsm s.cur s.ctx else s).behind c row.shape (row.shape.opnds c.min c.e) = false := by
        split
        · rw [behind_dropAsm]; exact hbeh
        · exact hbeh
      obtain ⟨u, hu⟩ : ∃ u, u = (if isWaitInsn c then s.dropAsm s.cur s.ctx else s) := ⟨_, rfl⟩
      rw [← hu] at h hb2 ⊢
      dsimp only
      rw [hb2]
      simp only [Bool.false_eq_true, if_false]
      split at h
      swap; · cases h
      rename_i hform hbeg
      cases hform
      split at h
      · cases h
      rename_i hread
      cases h
      split at hbeg
      · rename_i hv
        rw [if_pos hv]
        cases hring : u.me.takeRing { RingEntry.empty with pc := u.cx.pc.setWidth 57 } with
        | error e => rw [hring] at hbeg; cases hbeg
        | ok km =>
          obtain ⟨k, m⟩ := km
          rw [hring] at hbeg
          cases hbeg
          obtain ⟨w, hw1, hw2⟩ := perform_now (some k) ha htgt hread he hr hl2
          dsimp only
          rw [hw1]
          dsimp only
          refine quiet_end c u.me (s.nextPc i) d.jump _ (hw2.trans ?_)
          split
          · exact Quiet.refl _
          · exact quiet_ring _ _
      · rename_i hv
        rw [if_neg hv]
        cases hbeg
        obtain ⟨w, hw1, hw2⟩ := perform_now none ha htgt hread he hr hl2
        rw [hw1]
        exact quiet_end c u.me (s.nextPc i) d.jump _ hw2

/-- An instruction completes as a rule says if its effect does what the rule says. -/
theorem completes_intro {s : State} {i : Instr} {eff : Eff}
    {P : Opnds → Vals → State → State → Option Res → Option Word → Prop}
    (hx : Sys2Proof.Machine.exec i s = .next (s.issue i eff))
    (h : ∀ v s1 s' r jump, s.starts i = some (v, s1) → P i.opnds v s1 s' r jump →
      eff i.opnds v s1 = .ok { st := s', res := r, jump := jump } ∧ Same s1 s') : s.completes i P := by
  intro v s1 s' r jump s2 hs hp hl
  obtain ⟨he, hd⟩ := h v s1 s' r jump hs hp
  refine ⟨_, hx, ?_⟩
  have := issue_ran (d := { st := s', res := r, jump := jump }) (s2 := s2) hs he rfl hd (by
    cases r with
    | none => simp only [State.lands, Option.some.injEq] at hl; exact hl.symm
    | some r => exact hl)
  exact this

theorem gives_intro {s : State} {i : Instr} {eff : Eff} {f : Opnds → Vals → State → Word}
    (hx : Sys2Proof.Machine.exec i s = .next (s.issue i eff))
    (h : ∀ v s1, s.starts i = some (v, s1) → eff i.opnds v s1 = Done.result s1 (.s (f i.opnds v s1))) : s.gives i f := by
  refine completes_intro hx ?_
  rintro v s1 s' r jump hs ⟨rfl, rfl, rfl⟩
  exact ⟨h v s' hs, Same.refl _⟩

theorem does_intro {s : State} {i : Instr} {eff : Eff} {f : Opnds → Vals → State → State}
    (hx : Sys2Proof.Machine.exec i s = .next (s.issue i eff))
    (h : ∀ v s1, s.starts i = some (v, s1) → eff i.opnds v s1 = Done.plain (f i.opnds v s1) ∧ Same s1 (f i.opnds v s1)) :
    s.does i f := by
  refine completes_intro hx ?_
  rintro v s1 s' r jump hs ⟨rfl, rfl, rfl⟩
  exact h v s1 hs

end Sys2Proof.Machine
end

