-- ==== Sys2Proof/Laws/Memory.lean ====
section
/-! SUPPORT. Byte stores: reading after writing, and that every operation keeps the canonical form. -/

namespace Sys2Proof.Machine

/-! ### Reading after writing -/

/-- Every listed address is at least `a`. -/
def above (a : Nat) (m : Mem) : Prop := ∀ c ∈ m, a ≤ c.1

theorem memWf_cons (c : Host.Cell) (m : Mem) : memWf (c :: m) = true ↔ c.2 ≠ 0 ∧ above (c.1 + 1) m ∧ memWf m = true := by
  induction m generalizing c with
  | nil => simp [memWf, above]
  | cons d m ih =>
    have hd := ih d
    simp only [memWf, Bool.and_eq_true, bne_iff_ne, decide_eq_true_eq] at *
    constructor
    · rintro ⟨⟨h0, hlt⟩, h1⟩
      refine ⟨h0, ?_, h1⟩
      have := (hd.1 h1).2.1
      intro e he
      rcases List.mem_cons.1 he with rfl | he
      · omega
      · have := this e he; omega
    · rintro ⟨h0, ha, h1⟩
      have := ha d (by simp)
      exact ⟨⟨h0, by omega⟩, h1⟩

@[simp] theorem memWf_nil : memWf [] = true := rfl

theorem bget_above (a : Nat) (m : Mem) (h : above (a + 1) m) : bget m a = 0 := by
  induction m with
  | nil => rfl
  | cons c m ih =>
    have := h c (by simp)
    unfold bget
    rw [if_neg (by omega)]
    exact ih (fun e he => h e (by simp [he]))

theorem above_mono {a b : Nat} {m : Mem} (h : a ≤ b) (hm : above b m) : above a m := fun c hc => Nat.le_trans h (hm c hc)

theorem above_bdrop {a b : Nat} {m : Mem} (h : above a m) : above a (bdrop m b) := by
  induction m with
  | nil => exact h
  | cons c m ih =>
    unfold bdrop
    split
    · exact fun e he => h e (by simp [he])
    · intro e he
      rcases List.mem_cons.1 he with rfl | he
      · exact h _ (by simp)
      · exact ih (fun e he => h e (by simp [he])) e he

theorem above_bput {a b : Nat} {v : Byte} {m : Mem} (h : above a m) (hb : a ≤ b) : above a (bput m b v) := by
  induction m with
  | nil => intro e he; simp [bput] at he; subst he; exact hb
  | cons c m ih =>
    unfold bput
    split
    · intro e he
      rcases List.mem_cons.1 he with rfl | he
      · exact hb
      · exact h e he
    · split
      · intro e he
        rcases List.mem_cons.1 he with rfl | he
        · exact hb
        · exact h e (by simp [he])
      · intro e he
        rcases List.mem_cons.1 he with rfl | he
        · exact h _ (by simp)
        · exact ih (fun e he => h e (by simp [he])) e he

theorem memWf_bdrop {m : Mem} (a : Nat) (h : memWf m = true) : memWf (bdrop m a) = true := by
  induction m with
  | nil => exact h
  | cons c m ih =>
    obtain ⟨h0, h1, h2⟩ := (memWf_cons c m).1 h
    unfold bdrop
    split
    · exact h2
    · exact (memWf_cons _ _).2 ⟨h0, above_bdrop h1, ih h2⟩

theorem memWf_bput {m : Mem} (a : Nat) (v : Byte) (hv : v ≠ 0) (h : memWf m = true) : memWf (bput m a v) = true := by
  induction m with
  | nil => simpa [bput, memWf] using hv
  | cons c m ih =>
    obtain ⟨h0, h1, h2⟩ := (memWf_cons c m).1 h
    unfold bput
    split
    · refine (memWf_cons _ _).2 ⟨hv, ?_, h⟩
      intro e he
      rcases List.mem_cons.1 he with rfl | he
      · simpa using Nat.succ_le_of_lt ‹_›
      · have := h1 e he; simp only; omega
    · split
      · rename_i h3; subst h3; exact (memWf_cons _ _).2 ⟨hv, h1, h2⟩
      · exact (memWf_cons _ _).2 ⟨h0, above_bput h1 (by simp only at *; omega), ih h2⟩

/-- A write keeps the canonical form. -/
theorem memWf_bset {m : Mem} (a : Nat) (v : Byte) (h : memWf m = true) : memWf (bset m a v) = true := by
  unfold bset; split
  · exact memWf_bdrop a h
  · exact memWf_bput a v ‹_› h

theorem memWf_bwrite {m : Mem} (a n v : Nat) (h : memWf m = true) : memWf (bwrite m a n v) = true := by
  induction n generalizing m a v with
  | zero => exact h
  | succ n ih => exact ih _ _ (memWf_bset a _ h)

theorem memWf_bwriteList {m : Mem} (a : Nat) (bs : List Byte) (h : memWf m = true) : memWf (bwriteList m a bs) = true := by
  induction bs generalizing m a with
  | nil => exact h
  | cons b bs ih => exact ih _ (memWf_bset a b h)

theorem memWf_filter {m : Mem} (p : Host.Cell → Bool) (h : memWf m = true) : memWf (m.filter p) = true := by
  induction m with
  | nil => exact h
  | cons c m ih =>
    obtain ⟨h0, h1, h2⟩ := (memWf_cons c m).1 h
    rw [List.filter_cons]
    split
    · exact (memWf_cons _ _).2 ⟨h0, fun e he => h1 e (List.mem_of_mem_filter he), ih h2⟩
    · exact ih h2

theorem memWf_bzero {m : Mem} (a n : Nat) (h : memWf m = true) : memWf (bzero m a n) = true := memWf_filter _ h

theorem bget_bdrop {m : Mem} (a b : Nat) (h : memWf m = true) : bget (bdrop m a) b = if b = a then 0 else bget m b := by
  induction m with
  | nil => simp [bdrop, bget]
  | cons c m ih =>
    obtain ⟨h0, h1, h2⟩ := (memWf_cons c m).1 h
    obtain ⟨k, w⟩ := c
    unfold bdrop
    by_cases hk : a = k
    · subst hk
      by_cases hb : b = a
      · subst hb; simp [bget_above _ _ h1]
      · simp [bget, hb]
    · simp only [hk, if_false, bget, ih h2]
      by_cases hb : b = k
      · subst hb; simp [show ¬ (b = a) from fun e => hk e.symm]
      · simp [hb]

theorem bget_bput {m : Mem} (a b : Nat) (v : Byte) : bget (bput m a v) b = if b = a then v else bget m b := by
  induction m with
  | nil => simp [bput, bget]
  | cons c m ih =>
    obtain ⟨k, w⟩ := c
    unfold bput
    by_cases h1 : a < k
    · by_cases hb : b = a <;> simp [h1, bget, hb]
    · by_cases hk : a = k
      · subst hk; by_cases hb : b = a <;> simp [bget, hb]
      · simp only [h1, hk, if_false, bget, ih]
        by_cases hb : b = k
        · subst hb; simp [show ¬ (b = a) from fun e => hk e.symm]
        · simp [hb]

/-- Reading a byte after a write of a byte. -/
theorem bget_bset {m : Mem} (a b : Nat) (v : Byte) (h : memWf m = true) :
    bget (bset m a v) b = if b = a then v else bget m b := by
  unfold bset; split
  · rename_i hv; subst hv; exact bget_bdrop a b h
  · exact bget_bput a b v

/-- Reading a byte after a write of `n` bytes of a number. -/
theorem bget_bwrite {m : Mem} (a n v b : Nat) (h : memWf m = true) :
    bget (bwrite m a n v) b = if a ≤ b ∧ b < a + n then BitVec.ofNat 8 (v / 256 ^ (b - a)) else bget m b := by
  induction n generalizing m a v with
  | zero => simp [bwrite]
  | succ n ih =>
    unfold bwrite
    rw [ih _ _ (memWf_bset a _ h), bget_bset _ _ _ h]
    by_cases h1 : b = a
    · subst h1; simp
    · by_cases h2 : a + 1 ≤ b ∧ b < a + 1 + n
      · rw [if_pos h2, if_pos (by omega), Nat.div_div_eq_div_mul, ← Nat.pow_succ']
        congr 3; omega
      · rw [if_neg h2, if_neg h1, if_neg (by omega)]

theorem bread_bwrite_same {m : Mem} (a n v : Nat) (h : memWf m = true) : bread (bwrite m a n v) a n = v % 256 ^ n := by
  suffices H : ∀ k j, j + k = n → bread (bwrite m a n v) (a + j) k = v / 256 ^ j % 256 ^ k by
    simpa using H n 0 (by omega)
  intro k
  induction k with
  | zero => intro j _; simp [bread, Nat.mod_one]
  | succ k ih =>
    intro j hj
    have := ih (j + 1) (by omega)
    unfold bread
    rw [show a + j + 1 = a + (j + 1) from by omega, this, bget_bwrite _ _ _ _ h, if_pos (by omega)]
    rw [show a + j - a = j from by omega, Nat.pow_succ' (n := k), Nat.mod_mul, Nat.pow_succ, ← Nat.div_div_eq_div_mul]
    simp

theorem bread_bwrite_apart {m : Mem} (a n v b k : Nat) (h : memWf m = true) (hd : b + k ≤ a ∨ a + n ≤ b) :
    bread (bwrite m a n v) b k = bread m b k := by
  induction k generalizing b with
  | zero => rfl
  | succ k ih =>
    unfold bread
    rw [ih _ (by omega), bget_bwrite _ _ _ _ h, if_neg (by omega)]

theorem bget_bzero {m : Mem} (a n b : Nat) : bget (bzero m a n) b = if a ≤ b ∧ b < a + n then 0 else bget m b := by
  induction m with
  | nil => simp [bzero, bget]
  | cons c m ih =>
    obtain ⟨k, w⟩ := c
    unfold bzero at *
    rw [List.filter_cons]
    split
    · rename_i hk
      simp only [Bool.or_eq_true, decide_eq_true_eq] at hk
      unfold bget
      rw [ih]
      by_cases hb : b = k
      · subst hb; simp only [if_true]; rw [if_neg (by omega)]
      · simp [hb]
    · rename_i hk
      simp only [Bool.or_eq_true, decide_eq_true_eq, not_or, Nat.not_lt, Nat.not_le] at hk
      rw [ih]
      by_cases hb : b = k
      · subst hb; rw [if_pos (by omega), if_pos (by omega)]
      · conv_rhs => unfold bget
        simp [hb]

theorem bget_bwriteList {m : Mem} (a b : Nat) (bs : List Byte) (h : memWf m = true) :
    bget (bwriteList m a bs) b = if a ≤ b ∧ b < a + bs.length then bs.getD (b - a) 0 else bget m b := by
  induction bs generalizing m a with
  | nil => simp [bwriteList]
  | cons v bs ih =>
    unfold bwriteList
    rw [ih _ (memWf_bset a _ h), bget_bset _ _ _ h]
    by_cases h1 : b = a
    · subst h1; simp
    · by_cases h2 : a + 1 ≤ b ∧ b < a + 1 + bs.length
      · rw [if_pos h2, if_pos (by simp; omega), show b - a = (b - (a + 1)) + 1 from by omega]; simp
      · rw [if_neg h2, if_neg h1, if_neg (by simp; omega)]

/-- Equal contents are equal lists: the form is canonical. -/
theorem memWf_ext {m m' : Mem} (h : memWf m = true) (h' : memWf m' = true) (he : ∀ a, bget m a = bget m' a) : m = m' := by
  induction m generalizing m' with
  | nil =>
    cases m' with
    | nil => rfl
    | cons c m' =>
      obtain ⟨h0, _, _⟩ := (memWf_cons c m').1 h'
      have := he c.1
      simp [bget] at this
      exact absurd this.symm h0
  | cons c m ih =>
    obtain ⟨h0, h1, h2⟩ := (memWf_cons c m).1 h
    cases m' with
    | nil => have := he c.1; simp [bget] at this; exact absurd this h0
    | cons c' m' =>
      obtain ⟨h0', h1', h2'⟩ := (memWf_cons c' m').1 h'
      obtain ⟨k, w⟩ := c; obtain ⟨k', w'⟩ := c'
      have hk : k = k' := by
        rcases Nat.lt_trichotomy k k' with hlt | heq | hgt
        · have := he k
          simp only [bget, if_true] at this
          rw [if_neg (by omega), bget_above k m' (above_mono (by simp only at *; omega) h1')] at this
          exact absurd this h0
        · exact heq
        · have := he k'
          simp only [bget, if_true] at this
          rw [if_neg (by omega), bget_above k' m (above_mono (by simp only at *; omega) h1)] at this
          exact absurd this.symm h0'
      subst hk
      have hw := he k
      simp [bget] at hw
      subst hw
      congr 1
      refine ih h2 h2' (fun a => ?_)
      by_cases ha : a = k
      · subst ha; rw [bget_above _ _ h1, bget_above _ _ h1']
      · have := he a; simpa [bget, ha] using this

end Sys2Proof.Machine
end

