-- ==== Sys2Proof/Tests/Slice0.lean ====
section
/-! SUPPORT. Tests: ill-formed terms that the checks refuse, words of the spec that decode to their instructions, single steps with
results from the spec's tables, and states and operands that meet the hypotheses of the statements. -/

namespace Sys2Proof.Tests

set_option Elab.async false

open Sys2Proof Sys2Proof.Machine

/-! ### Helpers -/

/-- The fields of an instruction without prefixes. -/
def f (x y : BitVec 4) : Fields := { page := false, mod := none, reg := none, imms := [], x := x, y := y }

/-- With an IMM chain. -/
def fi (x y : BitVec 4) (imms : List (BitVec 9)) : Fields := { f x y with imms := imms }

/-- On page 1. -/
def fp (x y : BitVec 4) : Fields := { f x y with page := true }

/-- With a MOD parcel. -/
def fm (t : BitVec 3) (rm : BitVec 2) (x y : BitVec 4) : Fields :=
  { f x y with mod := some { t := t, rm := rm, s := false, f := false, o := 0 } }

/-- With a REG parcel. -/
def fr (xh yh : BitVec 2) (zp : Bool) (z x y : BitVec 4) : Fields := { f x y with reg := some { xh := xh, yh := yh, zp := zp, z := z } }

/-- The control context of core 0, ready at 0x400 with registers as listed. -/
def ctx (lvl : Nat) (s : Map Word) : Context := { Context.blank .ready lvl with pc := 0x400, s := s }

/-- Core 0 of partition 0, assigned, with this control context and local memory. -/
def machine (x : Context) (m : Mem) : State :=
  { State.reset with
    cores := [(0, { Core.fresh with ctl := x, lpid := some 0, hvec := 0x200, mem := m })]
    clusters := [(0, { Cluster.fresh with part := some 0 })]
    parts := [(0, { Partition.fresh with l2p := [(0, 0x8000000000000000)], n := 1, bch := 1, rls := 1 })] }

/-- At U level, s2 = 24 and s3 = 0x1000. -/
def user : State := machine (ctx 0 [(2, 24), (3, 0x1000)]) []

/-- The same at S level. -/
def sup : State := machine (ctx 1 [(2, 24), (3, 0x1000)]) []

/-- At U level with two scalar registers. -/
def with23 (a b : Word) : State := machine (ctx 0 [(2, a), (3, b)]) []

/-- At U level with two vector registers. -/
def withV (a b : VWord) : State := machine { ctx 0 [(2, 24), (3, 0x1000)] with v := [(2, a), (3, b)] } []

/-- Helper 1 runs, beside a waiting control context. -/
def helper (comp : Option Nat) : State :=
  let s := machine (ctx 0 []) []
  let s := { s with ctx := 1 }
  s.modMe (fun c => { c with helpers := [(1, { ctx 0 [(2, 24), (3, 0x1000)] with comp := comp })] })

/-- Helper 1 of core 0 runs a compensation routine, the entry with sequence number 1. -/
def routine : State :=
  (helper (some 1)).modDie 0 (fun d => { d with
    chest := [{ seq := 1, id := 0, part := 0, arg := 5, pc := 0x800, tags := 1, core := 0, state := 2, lpid := 0, helper := 1 }] })

/-- The next state; the machine at reset when there is none. -/
def out (s : State) (i : Instr) : State :=
  match exec i s with
  | .next t => t
  | _ => State.reset

/-- The instruction starts, and what it names takes a result. -/
def begins (s : State) (i : Instr) : Bool :=
  match s.starts i with
  | none => false
  | some (_, s1) => (s1.takes i (.s 0)).isSome

/-- The instruction starts with operand values and a state that pass a test. -/
def starts (s : State) (i : Instr) (p : Vals → State → Bool) : Bool :=
  match s.starts i with
  | none => false
  | some (v, s1) => p v s1

/-- An answer that is a result which passes a test. -/
def okAnd {α β : Type} (r : Except α β) (p : β → Bool) : Bool :=
  match r with
  | .ok x => p x
  | .error _ => false

/-! ### Ill-formed instructions, one for each check (R42) -/

theorem test_bad_fifth_prefix : (Instr.addi (fi 2 3 [1, 2, 3, 4, 5])).wellFormed = false := by decide
theorem test_bad_no_page : 3 ∈ (Instr.mstat (f 2 3)).subcauses := by decide
theorem test_bad_z_without_zp : 5 ∈ (Instr.add (fr 0 0 false 5 2 3)).subcauses := by decide
theorem test_bad_zp_not_accepted : 5 ∈ (Instr.movi (fr 0 0 true 5 2 3)).subcauses := by decide
theorem test_bad_unused_mod : 6 ∈ (Instr.add (fm 1 0 2 3)).subcauses := by decide
theorem test_bad_scope : 6 ∈ (Instr.amoAdd (fm 5 0 2 3)).subcauses := by decide
theorem test_bad_name : 7 ∈ (Instr.add (fr 3 0 false 10 2 3)).subcauses ∨ (Instr.add (fr 3 0 false 10 2 3)).wellFormed = false := by decide
theorem test_bad_reserved_name : 7 ∈ (Instr.mov (fr 3 3 false 0 2 15)).subcauses := by decide
theorem test_bad_shift_amount : 8 ∈ (Instr.shli (fi 2 0 [4])).subcauses := by decide
theorem test_bad_mask_write : 8 ∈ (Instr.kmov (f 3 4)).subcauses := by decide
theorem test_bad_byte_barrier : 8 ∈ (Instr.bbset (f 8 3)).subcauses := by decide
theorem test_bad_srd_index : 8 ∈ (Instr.srd (fi 2 0 [256])).subcauses := by decide
theorem test_bad_srd_gap : 8 ∈ (Instr.srd (fi 2 11 [14])).subcauses := by decide
theorem test_bad_branch_without_imm : (Instr.beq (f 2 3)).wellFormed = false := by decide
theorem test_bad_loop_not_past : (Instr.loop (fi 2 0 [1])).wellFormed = false := by decide
theorem test_bad_helper_start_by_control : (Instr.hend (f 2 0)).wellFormedFor .control = false := by decide
theorem test_bad_register_of_helper : (Instr.add (fr 1 0 false 0 2 3)).wellFormedFor (.helper false) = false := by decide
theorem test_good_register_of_control : (Instr.add (fr 1 0 false 0 2 3)).wellFormedFor .control = true := by decide

/-! ### Words of the spec (R26 to R42) -/

-- 02, the heavily prefixed instruction: amo.add.dev.ar s17, [s20+0x1234].
theorem test_word_amo_add : decode [0xFEC3, 0xFAA0, 0xF809, 0xF834, 0x4814] =
    .ok (.amoAdd { f 1 4 with mod := some { t := 3, rm := 0, s := false, f := false, o := 3 },
                              reg := some { xh := 1, yh := 1, zp := false, z := 0 }, imms := [9, 0x34] }) 5 := by decide +kernel
-- 10: ffma.f64 s5, s6, s7 and kmov k1, s3.
theorem test_word_ffma : decode [0xFE40, 0xFA17, 0x6F56] =
    .ok (.ffma { fm 1 0 5 6 with reg := some { xh := 0, yh := 0, zp := true, z := 7 } }) 3 := by decide +kernel
theorem test_word_kmov : decode [0xCB35] = .ok (.kmov (f 3 5)) 1 := by decide +kernel
-- 13: mstr s5, [s4+32] and rlupd [s7].
theorem test_word_mstr : decode [0xF820, 0xD054] = .ok (.mstr (fi 5 4 [0x20])) 2 := by decide +kernel
theorem test_word_rlupd : decode [0xFC01, 0x0807] = .ok (.rlupd (fp 0 7)) 2 := by decide +kernel
-- 14: br 1b, rejoin j2, bstep 5, act.abn s4, s0, nop.
theorem test_word_br : decode [0x8FFD] = .ok (.br (f 15 13) 7) 1 := by decide +kernel
theorem test_word_rejoin : decode [0xE520] = .ok (.rejoin (f 2 0)) 1 := by decide +kernel
theorem test_word_bstep : decode [0xDB05] = .ok (.bstep (f 0 5)) 1 := by decide +kernel
theorem test_word_act_abn : decode [0xFC01, 0x1B40] = .ok (.actAbn (fp 4 0)) 2 := by decide +kernel
theorem test_word_nop : decode [0xED00] = .ok (.nop (f 0 0)) 1 := by decide +kernel
-- MAJ, MIN, X and Y written out from the opcode map (R26, R40): one parcel a family.
theorem test_word_add : decode [0b0000100000100011] = .ok (.add (f 2 3)) 1 := by decide +kernel
theorem test_word_zero : decode [0] = .illegal [1] := by decide +kernel
theorem test_word_short : decode [0xF820] = .short := by decide +kernel
theorem test_word_five_prefixes : decode [0xF820, 0xF820, 0xF820, 0xF820, 0xF820, 0xD054] = .illegal [4] := by decide +kernel
theorem test_word_reserved_page : decode [0xFC02, 0x0807] = .illegal [3] := by decide +kernel
theorem test_word_order : decode [0xFA00, 0xFE00, 0x0823] = .illegal [4] := by decide +kernel

/-! ### Every place of the opcode map (R39, R40): words of page, type and immediate prefixes with MAJ, MIN, X and Y -/

/-- Each list of parcels decodes to its instruction, all of it. -/
def decodes (l : List (List Parcel × Instr)) : Bool := l.all (fun p => decode p.1 == .ok p.2 p.1.length)

theorem test_words_page0_maj1 : decodes [
    ([0x0823], .add (f 2 3)),
    ([0x0923], .sub (f 2 3)),
    ([0x0A23], .and (f 2 3)),
    ([0x0B23], .or (f 2 3)),
    ([0x0C23], .xor (f 2 3)),
    ([0x0D23], .shl (f 2 3)),
    ([0x0E23], .shr (f 2 3)),
    ([0x0F23], .sra (f 2 3))] = true := by decide +kernel

theorem test_words_page0_maj2 : decodes [
    ([0x1023], .mul (f 2 3)),
    ([0x1123], .mulh (f 2 3)),
    ([0x1223], .mulhu (f 2 3)),
    ([0x1323], .min (f 2 3)),
    ([0x1423], .max (f 2 3)),
    ([0x1523], .minu (f 2 3)),
    ([0x1623], .maxu (f 2 3)),
    ([0x1723], .andn (f 2 3))] = true := by decide +kernel

theorem test_words_page0_maj3 : decodes [
    ([0x1823], .addi (f 2 3)),
    ([0x1923], .andi (f 2 3)),
    ([0x1A23], .ori (f 2 3)),
    ([0x1B23], .xori (f 2 3)),
    ([0x1C23], .shli (f 2 3)),
    ([0x1D23], .shri (f 2 3)),
    ([0x1E23], .srai (f 2 3)),
    ([0x1F23], .movi (f 2 3))] = true := by decide +kernel

theorem test_words_page0_maj4 : decodes [
    ([0x2023], .seq (f 2 3)),
    ([0x2123], .sne (f 2 3)),
    ([0x2223], .slt (f 2 3)),
    ([0x2323], .sltu (f 2 3)),
    ([0x2423], .sle (f 2 3)),
    ([0x2523], .sleu (f 2 3)),
    ([0x2623], .sel (f 2 3)),
    ([0x2723], .mov (f 2 3))] = true := by decide +kernel

theorem test_words_page0_maj5 : decodes [
    ([0x2823], .clz (f 2 3)),
    ([0x2923], .ctz (f 2 3)),
    ([0x2A23], .popc (f 2 3)),
    ([0x2B23], .sextB (f 2 3)),
    ([0x2C23], .sextH (f 2 3)),
    ([0x2D23], .sextW (f 2 3)),
    ([0x2E23], .zextH (f 2 3)),
    ([0x2F23], .zextW (f 2 3))] = true := by decide +kernel

theorem test_words_page0_maj6 : decodes [
    ([0x3023], .addsh1 (f 2 3)),
    ([0x3123], .addsh2 (f 2 3)),
    ([0x3223], .addsh3 (f 2 3)),
    ([0x3323], .addsh4 (f 2 3)),
    ([0x3423], .bfx (f 2 3)),
    ([0x3523], .bfi (f 2 3)),
    ([0x3620], .lpc (f 2 0)),
    ([0x3723], .pwld (f 2 3))] = true := by decide +kernel

theorem test_words_page0_maj7 : decodes [
    ([0x3823], .ldB (f 2 3)),
    ([0x3923], .ldBu (f 2 3)),
    ([0x3A23], .ldH (f 2 3)),
    ([0x3B23], .ldHu (f 2 3)),
    ([0x3C23], .ldW (f 2 3)),
    ([0x3D23], .ldWu (f 2 3)),
    ([0x3E23], .ldD (f 2 3)),
    ([0x3F23], .lda (f 2 3))] = true := by decide +kernel

theorem test_words_page0_maj8 : decodes [
    ([0x4023], .stB (f 2 3)),
    ([0x4123], .stH (f 2 3)),
    ([0x4223], .stW (f 2 3)),
    ([0x4323], .stD (f 2 3)),
    ([0x4423], .stl (f 2 3)),
    ([0x4523], .vld (f 2 3)),
    ([0x4623], .vst (f 2 3)),
    ([0x4723], .vlds (f 2 3))] = true := by decide +kernel

theorem test_words_page0_maj9 : decodes [
    ([0x4823], .amoAdd (f 2 3)),
    ([0x4923], .amoAnd (f 2 3)),
    ([0x4A23], .amoOr (f 2 3)),
    ([0x4B23], .amoXor (f 2 3)),
    ([0x4C23], .amoMin (f 2 3)),
    ([0x4D23], .amoMax (f 2 3)),
    ([0x4E23], .amoSwp (f 2 3)),
    ([0x4F23], .amoCas (f 2 3))] = true := by decide +kernel

theorem test_words_page0_maj10 : decodes [
    ([0x5023], .amoMinu (f 2 3)),
    ([0x5123], .amoMaxu (f 2 3)),
    ([0x5223], .amoFadd (f 2 3)),
    ([0x5323], .redAdd (f 2 3)),
    ([0x5423], .redMin (f 2 3)),
    ([0x5523], .redMax (f 2 3)),
    ([0x5623], .redFadd (f 2 3)),
    ([0x5723], .vsts (f 2 3))] = true := by decide +kernel

theorem test_words_page0_maj11 : decodes [
    ([0x5800], .fence (f 0 0)),
    ([0x5920], .mwait (f 2 0)),
    ([0x5A23], .mbsend (f 2 3)),
    ([0x5B20], .mbpeek (f 2 0)),
    ([0x5C23], .bbset (f 2 3)),
    ([0x5D23], .bbadd (f 2 3)),
    ([0x5E20], .bbwait (f 2 0)),
    ([0x5F23], .bbrd (f 2 3))] = true := by decide +kernel

theorem test_words_page0_maj12 : decodes [
    ([0x6003], .cpq (f 0 3)),
    ([0x6123], .cpqt (f 2 3)),
    ([0x6223], .cpcan (f 2 3)),
    ([0x6320], .cpst (f 2 0)),
    ([0x6423], .vgth (f 2 3)),
    ([0x6523], .vsct (f 2 3))] = true := by decide +kernel

theorem test_words_page0_maj13 : decodes [
    ([0x6823], .fadd (f 2 3)),
    ([0x6923], .fsub (f 2 3)),
    ([0x6A23], .fmul (f 2 3)),
    ([0x6B23], .fdiv (f 2 3)),
    ([0x6C23], .fmin (f 2 3)),
    ([0x6D23], .fmax (f 2 3)),
    ([0x6E23], .fsqrt (f 2 3)),
    ([0x6F23], .ffma (f 2 3))] = true := by decide +kernel

theorem test_words_page0_maj14 : decodes [
    ([0x7023], .feq (f 2 3)),
    ([0x7123], .flt (f 2 3)),
    ([0x7223], .fle (f 2 3)),
    ([0x7323], .fcls (f 2 3)),
    ([0x7423], .fabs (f 2 3)),
    ([0x7523], .fneg (f 2 3)),
    ([0x7623], .fsgnj (f 2 3)),
    ([0x7723], .fcvt (f 2 3))] = true := by decide +kernel

theorem test_words_page0_maj15 : decodes [
    ([0x7823], .ftoi (f 2 3)),
    ([0x7923], .ftou (f 2 3)),
    ([0x7A23], .itof (f 2 3)),
    ([0x7B23], .utof (f 2 3)),
    ([0x7C23], .frnd (f 2 3))] = true := by decide +kernel

theorem test_words_page0_maj16 : decodes [
    ([0xF802, 0x8023], .beq (fi 2 3 [2])),
    ([0xF802, 0x8123], .bne (fi 2 3 [2])),
    ([0xF802, 0x8223], .blt (fi 2 3 [2])),
    ([0xF802, 0x8323], .bge (fi 2 3 [2])),
    ([0xF802, 0x8423], .bltu (fi 2 3 [2])),
    ([0xF802, 0x8523], .bgeu (fi 2 3 [2])),
    ([0xF802, 0x8623], .bbs (fi 2 3 [2])),
    ([0xF802, 0x8723], .bbc (fi 2 3 [2]))] = true := by decide +kernel

theorem test_words_page0_maj17 : decodes [
    ([0x8823], .br (f 2 3) 0)] = true := by decide +kernel

theorem test_words_page0_maj18 : decodes [
    ([0x9023], .bz (f 2 3) 0)] = true := by decide +kernel

theorem test_words_page0_maj19 : decodes [
    ([0x9823], .bnz (f 2 3) 0)] = true := by decide +kernel

theorem test_words_page0_maj20 : decodes [
    ([0xA023], .jal (f 2 3)),
    ([0xA123], .jalr (f 2 3)),
    ([0xA203], .ret (f 0 3)),
    ([0xF810, 0xA323], .loop (fi 2 3 [16])),
    ([0xF810, 0xA423], .loopi (fi 2 3 [16])),
    ([0xA503], .lbrk (f 0 3)),
    ([0xA623], .rep (f 2 3))] = true := by decide +kernel

theorem test_words_page0_maj21 : decodes [
    ([0xA823], .vadd (f 2 3)),
    ([0xA923], .vsub (f 2 3)),
    ([0xAA23], .vmul (f 2 3)),
    ([0xAB23], .vfma (f 2 3)),
    ([0xAC23], .vmin (f 2 3)),
    ([0xAD23], .vmax (f 2 3)),
    ([0xAE23], .vsel (f 2 3)),
    ([0xAF23], .vmov (f 2 3))] = true := by decide +kernel

theorem test_words_page0_maj22 : decodes [
    ([0xB023], .vrcp (f 2 3)),
    ([0xB123], .vrsq (f 2 3)),
    ([0xB223], .vexp2 (f 2 3)),
    ([0xB323], .vlog2 (f 2 3)),
    ([0xB423], .vabs (f 2 3)),
    ([0xB523], .vneg (f 2 3)),
    ([0xB623], .vcvt (f 2 3)),
    ([0xB723], .vcmp (f 2 3))] = true := by decide +kernel

theorem test_words_page0_maj23 : decodes [
    ([0xFF80, 0xB823], .viadd (fm 6 0 2 3)),
    ([0xFF80, 0xB923], .visub (fm 6 0 2 3)),
    ([0xFF80, 0xBA23], .vimul (fm 6 0 2 3)),
    ([0xFF80, 0xBB23], .vand (fm 6 0 2 3)),
    ([0xFF80, 0xBC23], .vor (fm 6 0 2 3)),
    ([0xFF80, 0xBD23], .vxor (fm 6 0 2 3)),
    ([0xFF80, 0xBE23], .vshl (fm 6 0 2 3)),
    ([0xFF80, 0xBF23], .vshr (fm 6 0 2 3))] = true := by decide +kernel

theorem test_words_page0_maj24 : decodes [
    ([0xC023], .vred (f 2 3)),
    ([0xC120], .vbcst (f 2 0)),
    ([0xC223], .vperm (f 2 3)),
    ([0xC323], .vextr (f 2 3)),
    ([0xC423], .vins (f 2 3)),
    ([0xFB54, 0xC523], .vdot (fr 2 2 true 4 2 3)),
    ([0xC623], .vpack (f 2 3)),
    ([0xC723], .vunpk (f 2 3))] = true := by decide +kernel

theorem test_words_page0_maj25 : decodes [
    ([0xC823], .vmxq (f 2 3)),
    ([0xC943], .vnqq (f 4 3)),
    ([0xCA20], .vsrs (f 2 0)),
    ([0xCB23], .kmov (f 2 3))] = true := by decide +kernel

theorem test_words_page0_maj26 : decodes [
    ([0xD023], .mstr (f 2 3)),
    ([0xD123], .mstrt (f 2 3)),
    ([0xD223], .mdrn (f 2 3)),
    ([0xD323], .macz (f 2 3)),
    ([0xD423], .mbld (f 2 3)),
    ([0xD523], .mbrel (f 2 3)),
    ([0xD623], .mcfg (f 2 3)),
    ([0xD723], .maccp (f 2 3))] = true := by decide +kernel

theorem test_words_page0_maj27 : decodes [
    ([0xD823], .barv (f 2 3)),
    ([0xD923], .bwt (f 2 3)),
    ([0xDA23], .barw (f 2 3)),
    ([0xDB23], .bstep (f 2 3)),
    ([0xDC00], .trig (f 0 0)),
    ([0xDD00], .exit (f 0 0)),
    ([0xDE20], .time (f 2 0)),
    ([0xDF20], .cyc (f 2 0))] = true := by decide +kernel

theorem test_words_page0_maj28 : decodes [
    ([0xE023], .hstart (f 2 3)),
    ([0xE120], .hend (f 2 0)),
    ([0xE223], .hjoin (f 2 3)),
    ([0xE320], .fuse (f 2 0)),
    ([0xE400], .split (f 0 0)),
    ([0xE520], .rejoin (f 2 0)),
    ([0xE623], .jmsk (f 2 3)),
    ([0xE720], .gstat (f 2 0))] = true := by decide +kernel

theorem test_words_page0_maj29 : decodes [
    ([0xF810, 0xE823], .srd (fi 2 3 [16])),
    ([0xF810, 0xE923], .swr (fi 2 3 [16])),
    ([0xEA03], .trap (f 0 3)),
    ([0xEB00], .eret (f 0 0)),
    ([0xEC20], .park (f 2 0)),
    ([0xED00], .nop (f 0 0))] = true := by decide +kernel

theorem test_words_page1_maj1 : decodes [
    ([0xFC01, 0x0823], .rlupd (fp 2 3)),
    ([0xFC01, 0x0923], .rltape (fp 2 3)),
    ([0xFC01, 0x0A23], .rlrev (fp 2 3)),
    ([0xFC01, 0x0B20], .rlstat (fp 2 0)),
    ([0xFC01, 0x0C23], .rlver (fp 2 3)),
    ([0xFC01, 0x0D23], .rlsw (fp 2 3)),
    ([0xFC01, 0x0E23], .rlwr (fp 2 3)),
    ([0xFC01, 0x0F23], .rlrd (fp 2 3))] = true := by decide +kernel

theorem test_words_page1_maj2 : decodes [
    ([0xFC01, 0x1023], .rdreg (fp 2 3)),
    ([0xFC01, 0x1120], .rdget (fp 2 0)),
    ([0xFC01, 0x1223], .rdcmp (fp 2 3))] = true := by decide +kernel

theorem test_words_page1_maj3 : decodes [
    ([0xFC01, 0x1820], .actOpn (fp 2 0)),
    ([0xFC01, 0x1923], .actCp (fp 2 3)),
    ([0xFC01, 0x1A20], .actCmt (fp 2 0)),
    ([0xFC01, 0x1B23], .actAbn (fp 2 3)),
    ([0xFC01, 0x1C20], .actRet (fp 2 0)),
    ([0xFC01, 0x1D20], .actRty (fp 2 0)),
    ([0xFC01, 0x1E20], .actSkp (fp 2 0)),
    ([0xFC01, 0x1F23], .actSt (fp 2 3))] = true := by decide +kernel

theorem test_words_page1_maj4 : decodes [
    ([0xFC01, 0x2023], .launch (fp 2 3)),
    ([0xFC01, 0x2123], .ckpt (fp 2 3)),
    ([0xFC01, 0x2223], .cpqz (fp 2 3)),
    ([0xFC01, 0x2323], .bmem (fp 2 3)),
    ([0xFC01, 0x2423], .lkcfg (fp 2 3)),
    ([0xFC01, 0x2523], .mstat (fp 2 3)),
    ([0xFC01, 0x2623], .preq (fp 2 3)),
    ([0xFC01, 0x2723], .twcfg (fp 2 3))] = true := by decide +kernel

theorem test_words_page1_maj5 : decodes [
    ([0xFC01, 0x2823], .div (fp 2 3)),
    ([0xFC01, 0x2923], .divu (fp 2 3)),
    ([0xFC01, 0x2A23], .rem (fp 2 3)),
    ([0xFC01, 0x2B23], .remu (fp 2 3))] = true := by decide +kernel

/-! ### Operands and a state with which every instruction starts (the hypothesis of `completes`), by statement -/

theorem test_witness_ArithmeticResults_starts : ([
    .add (f 2 3), .sub (f 2 3), .and (f 2 3), .or (f 2 3), .xor (f 2 3), .shl (f 2 3), .shr (f 2 3), .sra (f 2 3),
    .mul (f 2 3), .mulh (f 2 3), .mulhu (f 2 3), .min (f 2 3), .max (f 2 3), .minu (f 2 3), .maxu (f 2 3), .andn (f 2 3)] : List Instr).all (begins user) = true := by decide +kernel

theorem test_witness_CompareSelectResults_starts : ([
    .seq (f 2 3), .sne (f 2 3), .slt (f 2 3), .sltu (f 2 3), .sle (f 2 3), .sleu (f 2 3), .sel (f 2 3), .mov (f 2 3)] : List Instr).all (begins user) = true := by decide +kernel

theorem test_witness_UnaryResults_starts : ([
    .clz (f 2 3), .ctz (f 2 3), .popc (f 2 3), .sextB (f 2 3), .sextH (f 2 3), .sextW (f 2 3), .zextH (f 2 3), .zextW (f 2 3)] : List Instr).all (begins user) = true := by decide +kernel

theorem test_witness_AddressResults_starts : ([
    .addsh1 (f 2 3), .addsh2 (f 2 3), .addsh3 (f 2 3), .addsh4 (f 2 3), .bfx (f 2 3), .bfi (f 2 3), .lpc (f 2 0),
    .addi (f 2 3), .andi (f 2 3), .ori (f 2 3), .xori (f 2 3), .shli (f 2 3), .shri (f 2 3), .srai (f 2 3), .movi (f 2 3)] : List Instr).all (begins user) = true := by decide +kernel

theorem test_witness_DivisionResults_starts : ([
    .div (fp 2 3), .divu (fp 2 3), .rem (fp 2 3), .remu (fp 2 3)] : List Instr).all (begins user) = true := by decide +kernel

theorem test_witness_FloatResults_starts : ([
    .fadd (f 2 3), .fsub (f 2 3), .fmul (f 2 3), .fdiv (f 2 3), .fmin (f 2 3), .fmax (f 2 3), .fsqrt (f 2 3), .ffma (f 2 3),
    .feq (f 2 3), .flt (f 2 3), .fle (f 2 3), .frnd (f 2 3), .ftoi (f 2 3), .ftou (f 2 3), .itof (f 2 3), .utof (f 2 3),
    .fcvt (f 2 3), .fabs (f 2 3), .fneg (f 2 3), .fsgnj (f 2 3), .fcls (f 2 3)] : List Instr).all (begins user) = true := by decide +kernel

theorem test_witness_VectorFloatResults_starts : ([
    .vadd (f 2 3), .vsub (f 2 3), .vmul (f 2 3), .vfma (f 2 3), .vmin (f 2 3), .vmax (f 2 3), .vsel (f 2 3), .vmov (f 2 3)] : List Instr).all (begins user) = true := by decide +kernel

theorem test_witness_VectorUnaryResults_starts : ([
    .vrcp (f 2 3), .vrsq (f 2 3), .vexp2 (f 2 3), .vlog2 (f 2 3), .vabs (f 2 3), .vneg (f 2 3), .vcvt (f 2 3), .vcmp (f 2 3)] : List Instr).all (begins user) = true := by decide +kernel

theorem test_witness_VectorIntegerResults_starts : ([
    .viadd (fm 6 0 2 3), .visub (fm 6 0 2 3), .vimul (fm 6 0 2 3), .vand (fm 6 0 2 3), .vor (fm 6 0 2 3), .vxor (fm 6 0 2 3),
    .vshl (fm 6 0 2 3), .vshr (fm 6 0 2 3)] : List Instr).all (begins user) = true := by decide +kernel

theorem test_witness_VectorMoveResults_starts : ([
    .vbcst (f 2 0), .vperm (f 2 3), .vextr (f 2 3), .vins (f 2 3), .vpack (f 2 3), .vunpk (f 2 3), .vred (f 2 3),
    .vdot (fr 2 2 true 4 2 3)] : List Instr).all (begins user) = true := by decide +kernel

theorem test_witness_QuantiserMaskResults_starts : ([
    .vmxq (f 2 3), .vnqq (f 4 3), .vsrs (f 2 0), .kmov (f 2 3)] : List Instr).all (begins user) = true := by decide +kernel

theorem test_witness_BranchResults_starts : ([
    .beq (fi 2 3 [2]), .bne (fi 2 3 [2]), .blt (fi 2 3 [2]), .bge (fi 2 3 [2]), .bltu (fi 2 3 [2]), .bgeu (fi 2 3 [2]),
    .bbs (fi 2 3 [2]), .bbc (fi 2 3 [2]), .br (f 2 3) 0, .bz (f 2 3) 0, .bnz (f 2 3) 0, .jal (f 2 3), .jalr (f 2 3),
    .ret (f 0 3)] : List Instr).all (begins user) = true := by decide +kernel

theorem test_witness_LoopResults_starts : ([
    .loop (fi 2 3 [16]), .loopi (fi 2 3 [16]), .lbrk (f 0 3), .rep (f 2 3)] : List Instr).all (begins user) = true := by decide +kernel

theorem test_witness_LoopBack_starts : ([
    .nop (f 0 0)] : List Instr).all (begins user) = true := by decide +kernel

theorem test_witness_LoadResults_starts : ([
    .ldB (f 2 3), .ldBu (f 2 3), .ldH (f 2 3), .ldHu (f 2 3), .ldW (f 2 3), .ldWu (f 2 3), .ldD (f 2 3), .lda (f 2 3),
    .vld (f 2 3), .vlds (f 2 3)] : List Instr).all (begins user) = true := by decide +kernel

theorem test_witness_StoreResults_starts : ([
    .stB (f 2 3), .stH (f 2 3), .stW (f 2 3), .stD (f 2 3), .stl (f 2 3), .vst (f 2 3)] : List Instr).all (begins user) = true := by decide +kernel

theorem test_witness_StoreFrame_starts : ([
    .stB (f 2 3), .stH (f 2 3), .stW (f 2 3), .stD (f 2 3)] : List Instr).all (begins user) = true := by decide +kernel

theorem test_witness_AtomicResults_starts : ([
    .amoAdd (f 2 3), .amoAnd (f 2 3), .amoOr (f 2 3), .amoXor (f 2 3), .amoMin (f 2 3), .amoMax (f 2 3), .amoSwp (f 2 3),
    .amoCas (f 2 3), .amoMinu (f 2 3), .amoMaxu (f 2 3), .amoFadd (f 2 3), .redAdd (f 2 3), .redMin (f 2 3), .redMax (f 2 3),
    .redFadd (f 2 3)] : List Instr).all (begins user) = true := by decide +kernel

theorem test_witness_GatherScatterResults_starts : ([
    .vgth (f 2 3), .vsct (f 2 3), .vsts (f 2 3), .pwld (f 2 3)] : List Instr).all (begins user) = true := by decide +kernel

theorem test_witness_CopyQueueResults_starts : ([
    .cpq (f 0 3), .cpqt (f 2 3), .cpcan (f 2 3), .cpst (f 2 0), .fence (f 0 0)] : List Instr).all (begins user) = true := by decide +kernel

theorem test_witness_MessageResults_starts : ([
    .mwait (f 2 0), .mbpeek (f 2 0), .mbsend (f 2 3)] : List Instr).all (begins user) = true := by decide +kernel

theorem test_witness_ByteBarrierResults_starts : ([
    .bbset (f 2 3), .bbadd (f 2 3), .bbwait (f 2 0), .bbrd (f 2 3)] : List Instr).all (begins user) = true := by decide +kernel

theorem test_witness_BarrierArrivals_starts : ([
    .barv (f 2 3), .bwt (f 2 3), .barw (f 2 3), .bstep (f 2 3)] : List Instr).all (begins user) = true := by decide +kernel

theorem test_witness_GroupInstructionResults_starts : ([
    .time (f 2 0), .cyc (f 2 0), .trig (f 0 0), .exit (f 0 0)] : List Instr).all (begins user) = true := by decide +kernel

theorem test_witness_HelperResults_starts : ([
    .hstart (f 2 3), .hjoin (f 2 3)] : List Instr).all (begins user) = true := by decide +kernel

theorem test_witness_HelperResults_hend_starts : begins (helper none) (.hend (f 2 0)) = true := by decide +kernel

theorem test_witness_GangResults_starts : ([
    .fuse (f 2 0), .split (f 0 0), .rejoin (f 2 0), .jmsk (f 2 3), .gstat (f 2 0)] : List Instr).all (begins user) = true := by decide +kernel

theorem test_witness_SystemRegisterReads_starts_sup : ([
    .srd (fi 2 3 [1])] : List Instr).all (begins sup) = true := by decide +kernel

theorem test_witness_SystemRegisterWrites_starts_sup : ([
    .swr (fi 2 3 [1])] : List Instr).all (begins sup) = true := by decide +kernel

theorem test_witness_TrapTakesException_starts : ([
    .trap (f 0 3)] : List Instr).all (begins user) = true := by decide +kernel

theorem test_witness_PrivilegeTakesException_starts_sup : ([
    .srd (fi 2 3 [1]), .swr (fi 2 3 [1])] : List Instr).all (begins sup) = true := by decide +kernel

theorem test_witness_EretReturns_starts : ([
    .eret (f 0 0)] : List Instr).all (begins user) = true := by decide +kernel

theorem test_witness_StopInstructions_starts : ([
    .park (f 2 0), .trap (f 0 3), .nop (f 0 0)] : List Instr).all (begins user) = true := by decide +kernel

theorem test_witness_ActivityResults_starts : ([
    .actOpn (fp 2 0), .actCp (fp 2 3), .actCmt (fp 2 0), .actAbn (fp 2 3), .actSt (fp 2 3)] : List Instr).all (begins user) = true := by decide +kernel

theorem test_witness_ActivityResults_starts_sup : ([
    .actRty (fp 2 0), .actSkp (fp 2 0)] : List Instr).all (begins sup) = true := by decide +kernel

theorem test_witness_ActivityResults_actRet_starts : begins routine (.actRet (fp 2 0)) = true := by decide +kernel

theorem test_witness_LaunchResults_starts : ([
    .launch (fp 2 3)] : List Instr).all (begins user) = true := by decide +kernel

theorem test_witness_SupervisorResults_starts_sup : ([
    .ckpt (fp 2 3), .cpqz (fp 2 3), .bmem (fp 2 3), .lkcfg (fp 2 3), .preq (fp 2 3), .twcfg (fp 2 3)] : List Instr).all (begins sup) = true := by decide +kernel

theorem test_witness_MatrixPushResults_starts : ([
    .mstr (f 2 3), .mstrt (f 2 3), .mdrn (f 2 3), .macz (f 2 3), .mbld (f 2 3), .mbrel (f 2 3), .maccp (f 2 3), .mcfg (f 2 3),
    .mstat (fp 2 3)] : List Instr).all (begins user) = true := by decide +kernel

theorem test_witness_RuleInstructionResults_starts : ([
    .rlupd (fp 2 3), .rltape (fp 2 3), .rlrev (fp 2 3), .rdreg (fp 2 3), .rdcmp (fp 2 3), .rlstat (fp 2 0), .rlver (fp 2 3),
    .rdget (fp 2 0)] : List Instr).all (begins user) = true := by decide +kernel

theorem test_witness_RuleInstructionResults_starts_sup : ([
    .rlsw (fp 2 3), .rlwr (fp 2 3), .rlrd (fp 2 3)] : List Instr).all (begins sup) = true := by decide +kernel

/-! ### Operands and states for the hypotheses that a statement adds, with the result that the spec gives -/

/-- The running context is the same in two states. -/
def same (a b : State) : Bool := b.cur == a.cur && b.ctx == a.ctx && b.late == a.late

/-- The access of an instruction passes its checks, and the instruction takes a result. -/
def passes (s : State) (i : Instr) (n acc : Nat) (al : Bool) (scope : Nat) (sysOk : Bool) : Bool :=
  starts s i (fun v s1 => s1.me.flight == none && okAnd (s1.check (v.y.s + i.opnds.imm).toNat n acc al scope sysOk) (fun q =>
    q.2.errs == [] && same s1 q.2 && q.2.me.twin == none && (q.2.takes i (.s 0)).isSome))

/-- Main memory is open to core 0 and its cluster's units, which runs with CID 0: the physical address 2^32 lies in the HBM of die 0. -/
def open' (s : State) : State :=
  { s with access := (upTo 128).map (fun t => { target := t % 64, master := t / 64 * 11, part := 0, r := true, w := true, a := true }),
           ranges := (upTo 64).map (fun t =>
             { target := t, base := 0, limit := 2 ^ 57 - 1, part := 0, only := none, next := none }) }

theorem test_witness_LoadResults_checks : ([(.ldB (f 2 3), 1), (.ldH (f 2 3), 2), (.ldW (f 2 3), 4), (.ldD (f 2 3), 8)] : List (Instr × Nat)).all
    (fun x => passes user x.1 x.2 0 false 9 true) = true ∧ passes user (.lda (f 2 3)) 8 0 true 9 true = true
    ∧ passes user (.vld (f 2 3)) 64 0 false 9 true = true ∧ passes user (.vlds (fm 1 0 2 3)) 8 0 false 9 true = true := by decide +kernel
theorem test_ld_b_sign : (out (machine (ctx 0 [(3, 0x1000)]) [(0x1000, 0x80)]) (.ldB (f 2 3))).cx.sreg 2 = 0xFFFFFFFFFFFFFF80 := by
  decide +kernel
theorem test_ld_w_order : (out (machine (ctx 0 [(3, 0x1000)]) [(0x1000, 0x78), (0x1001, 0x56), (0x1003, 0x12)]) (.ldWu (f 2 3))).cx.win.d1.bits
    = 0x12005678 := by decide +kernel
theorem test_witness_StoreResults_checks : ([(.stB (f 2 3), 1), (.stH (f 2 3), 2), (.stW (f 2 3), 4), (.stD (f 2 3), 8)] : List (Instr × Nat)).all
    (fun x => passes user x.1 x.2 1 false 9 true) = true ∧ passes user (.stl (f 2 3)) 8 1 true 9 true = true
    ∧ passes user (.vst (f 2 3)) 64 1 false 9 true = true := by decide +kernel
theorem test_st_h_bytes : (out (with23 0x123456 0x1001) (.stH (f 2 3))).me.mem = [(0x1001, 0x56), (0x1002, 0x34)] := by decide +kernel
theorem test_witness_StoreFrame_local : starts user (.stD (f 2 3)) (fun v s1 => v.y.s == 0x1000 && s1.errs == [] && s1.me.twin == none
    && memWf s1.me.mem && memWf (s1.cluster s1.myCl).mem && spaceOf 0x1000 8 == some .loc) = true := by decide +kernel
theorem test_witness_StoreFrame_cluster : starts (with23 5 0x029BFFF8) (.stD (f 2 3)) (fun v s1 => v.y.s == 0x029BFFF8 && s1.errs == []
    && s1.me.twin == none && spaceOf 0x029BFFF8 8 == some .clu) = true
    ∧ ((out (with23 0xAA00 0x029BFFF8) (.stD (f 2 3))).cluster 0).mem = [(0x029BFFF9, 0xAA)] := by decide +kernel

/-- The cause and the information of the trap that an instruction takes. -/
def trapped (s : State) (i : Instr) : Word × Word × Bool := ((out s i).me.cause, (out s i).me.info, (out s i).me.handler == some 0)

-- R86, R100: the last byte of local memory, a range past its end, the gap above it, both ends of cluster memory, the undo-log region.
theorem test_place_last_local : (out (with23 7 0x3FFFFF) (.stB (f 2 3))).me.mem = [(0x3FFFFF, 7)] := by decide +kernel
theorem test_place_past_local : trapped (with23 7 0x3FFFFF) (.stH (f 2 3)) = (0x103, 0x3FFFFF, true) := by decide +kernel
theorem test_place_gap : trapped (with23 7 0x400000) (.stB (f 2 3)) = (0x103, 0x400000, true)
    ∧ trapped (with23 7 0xFFFFFF) (.stB (f 2 3)) = (0x103, 0xFFFFFF, true) := by decide +kernel
theorem test_place_cluster : ((out (with23 7 0x01000000) (.stB (f 2 3))).cluster 0).mem = [(0x01000000, 7)] := by decide +kernel
theorem test_place_log_user : trapped (with23 7 0x029C0000) (.ldB (f 2 3)) = (4, 0, true) := by decide +kernel
theorem test_place_log_vector : (out (with23 0 0x029BFFF0) (.vld (f 2 3))).me.ring.map (fun e => (e.2.cls, e.2.sub, e.2.info)) = [(0x0D, 5, 0x029C0000)] := by
  decide +kernel
theorem test_place_log_supervisor : (out (machine (ctx 1 [(3, 0x02BFFFFF)]) []) (.ldB (f 2 3))).me.handler = none := by decide +kernel
theorem test_place_past_cluster : trapped (with23 7 0x02C00000) (.ldB (f 2 3)) = (0x103, 0x02C00000, true) := by decide +kernel
theorem test_place_top : trapped (with23 7 0x200000000000000) (.ldB (f 2 3)) = (0x103, 0x200000000000000, true) := by decide +kernel
theorem test_align_before_scope : trapped (with23 7 0x1004) (.amoAdd (fm 1 0 2 3)) = (0x203, 0x1004, true)
    ∧ trapped (with23 7 0x1008) (.amoAdd (fm 1 0 2 3)) = (0x303, 0x1008, true) := by decide +kernel
theorem test_witness_PlacesOfAccess_global : okAnd ((open' user).check 0x100000000 8 2 true 2 true) (fun r =>
    match r.1 with
    | .glob ps => ps.map (fun p => (p.pa, p.n)) == [(0x100000000, 8)]
    | _ => false) = true := by decide +kernel
theorem test_witness_AtomicResults_checks : ([.amoAdd, .amoAnd, .amoOr, .amoXor, .amoMin, .amoMax, .amoSwp, .amoMinu, .amoMaxu,
    .redAdd, .redMin, .redMax] : List (Fields → Instr)).all (fun c => passes user (c (fm 0 0 2 3)) 8 2 true 0 true) = true
    ∧ passes user (.amoCas { fm 0 0 2 3 with reg := some { xh := 0, yh := 0, zp := true, z := 4 } }) 8 2 true 0 true = true
    ∧ passes user (.amoFadd (fm 0 0 2 3)) 4 2 true 0 false = true
    ∧ passes (open' (with23 7 0x100000000)) (.amoAdd (fm 3 0 2 3)) 8 2 true 3 true = true := by decide +kernel
theorem test_amo_add : (out (machine (ctx 0 [(2, 3), (3, 0x1000)]) [(0x1000, 0xFF)]) (.amoAdd (fm 0 0 2 3))).cx.sreg 2 = 0xFF
    ∧ (out (machine (ctx 0 [(2, 3), (3, 0x1000)]) [(0x1000, 0xFF)]) (.amoAdd (fm 0 0 2 3))).me.mem = [(0x1000, 2), (0x1001, 1)] := by
  decide +kernel
theorem test_red_min : (out (machine (ctx 0 [(2, 0xFFFFFFFFFFFFFFFF), (3, 0x1000)]) [(0x1000, 4)]) (.redMin (fm 0 0 2 3))).me.mem.length = 8 := by
  decide +kernel

/-- A lane of every number 0 to 15, 32 bits wide. -/
def index : VWord := ofLanes 4 ((upTo 16).map (fun k => 4 * (15 - k)))

theorem test_witness_GatherScatterResults_gather : starts (withV index 0) (.vgth (fm 0 0 2 3)) (fun v s1 =>
    okAnd (s1.checkAll 4 0 ((upTo 16).map (fun k => (v.y.s + (BitVec.ofNat 32 (laneAt (v.x.v 4) 4 k)).signExtend 64).toNat))) (fun q =>
      q.2.errs == [] && same s1 q.2)) = true := by decide +kernel
theorem test_vgth : laneAt (out (machine { ctx 0 [(3, 0x1000)] with v := [(2, index)] } [(0x1000, 9)]) (.vgth (fm 0 0 2 3))).cx.win.d1.bits 4 15 = 9 := by
  decide +kernel
theorem test_witness_GatherScatterResults_scatter : starts (withV index 7) (.vsct (fm 0 0 2 3)) (fun v s1 =>
    !(s1.busy 35) && okAnd (s1.checkAll 4 1 ((upTo 16).map (fun k =>
      (v.y.s + (BitVec.ofNat 32 (laneAt (v.x.v 4) 4 k)).signExtend 64).toNat))) (fun q =>
        okAnd (q.2.putLanes 4 q.1 (lanes (q.2.cx.vreg 3) 4)) (same s1))) = true := by decide +kernel
theorem test_vsct : (out (withV index 7) (.vsct (fm 0 0 2 3))).me.mem = [(0x103C, 7)] := by decide +kernel
theorem test_witness_GatherScatterResults_masked : starts (machine { ctx 0 [(3, 0x1000)] with v := [(2, index)], k := [(1, 5)] } [])
    (.vsts (fm 0 0 2 3)) (fun v s1 => okAnd (s1.checkAll 4 1 [0x1000, 0x1008]) (fun q =>
      okAnd (q.2.putLanes 4 q.1 ([0, 2].map (laneAt (v.x.v 4) 4))) (same s1))) = true := by decide +kernel
theorem test_vsts : (out (machine { ctx 0 [(3, 0x1000)] with v := [(2, index)], k := [(1, 5)] } []) (.vsts (fm 0 0 2 3))).me.mem
    = [(0x1000, 60), (0x1008, 52)] := by decide +kernel

/-- Core 0 runs group 0 of a launch of partition 0 whose window 0 is the 12 bytes at 2^32 of the HBM. -/
def windowed : State :=
  let s := open' (with23 0 0x04000008)
  let l : Launch :=
    { newLaunch 0 [0x8000, 0, 0, 0, 0, 0, 0, 0] 0 0 false with wins := [(0, (0x100000000, 12))], winRead := true, started := true }
  let s := { s with phys := [(0x100000009, 0x77), (0x10000000C, 0x55)] }
  (s.modPart 0 (fun q => { q with launches := [l] })).modMe (fun c =>
    { c with group := some { launch := 0, index := 0, ran := 0, trig := false, passed := false, replay := false } })

theorem test_witness_GatherScatterResults_window : starts windowed (.pwld (f 2 3)) (fun v s1 =>
    v.y.s == 0x04000008 && (s1.launchOf s1.cur).isSome && okAnd (s1.windowBytes 0 0 0x100000000 12 8 8) (fun q => same s1 q.2)) = true := by
  decide +kernel
theorem test_pwld_bound : (out windowed (.pwld (f 2 3))).cx.sreg 2 = 0x7700 ∧ (out windowed (.pwld (f 2 3))).cx.tsw.getLsbD 8 = true := by
  decide +kernel

/-- A copy record at 0x1000 of core 0: a local copy with TAG 9 of 64 bytes from 0x100000000 to 0x2000. -/
def record : Mem := bwrite [] 0x1000 32 (wordsNat [9 + 2 ^ 56, 0x100000000, 0x2000, 64])

/-- The request that it names. -/
def request : CopyReq :=
  { w0 := 9 + 2 ^ 56, w1 := 0x100000000, w2 := 0x2000, w3 := 64, cid := 0, lvl := 0, no := 0, pair := none, drop := false }

theorem test_witness_CopyQueueResults_push : ([.cpq (f 0 3), .cpqt (f 2 3)] : List Instr).all (fun i =>
    starts (machine (ctx 0 [(3, 0x1000)]) record) i (fun v s1 => okAnd (s1.nearPlace v.y.s.toNat 32) (fun x =>
      recordOf (BitVec.ofNat 512 (x.2.readAt x.1 32)) == [9 + 2 ^ 56, 0x100000000, 0x2000, 64] && !(copyIllFormed (9 + 2 ^ 56) 64)
      && !(otherAsm x.2.me.asmC x.2.ctx) && x.2.me.fifo.isEmpty
      && okAnd (x.2.recordAt x.1) (fun q => okAnd (q.2.pushCopy q.2.cur q.2.level q.1 false) (same s1))))) = true := by decide +kernel
theorem test_witness_CopyQueueResults_full : starts ((machine (ctx 0 [(3, 0x1000)]) record).modMe (fun c => { c with fifo := List.replicate 8 request }))
    (.cpqt (f 2 3)) (fun v s1 => okAnd (s1.nearPlace v.y.s.toNat 32) (fun x => decide (8 ≤ x.2.me.fifo.length))) = true := by decide +kernel
theorem test_cpq : (out (machine (ctx 0 [(3, 0x1000)]) record) (.cpq (f 0 3))).me.fifo.map (fun r => (r.w0, r.w3)) = [(9 + 2 ^ 56, 64)] := by
  decide +kernel
theorem test_cpqt_full : (out ((machine (ctx 0 [(3, 0x1000)]) record).modMe (fun c => { c with fifo := List.replicate 8 request })) (.cpqt (f 2 3))).cx.sreg 2 = 1 := by
  decide +kernel
theorem test_cpcan : (let t := out ((out (machine (ctx 0 [(3, 0x1000)]) record) (.cpq (f 0 3))).modCx (fun x => { x with s := [(3, 9)] })) (.cpcan (f 2 3))
    (t.cx.sreg 2, t.me.fifo, t.me.mbox.map (fun m => m.body.toNat / 2 ^ 8 % 2 ^ 8))) = (1, [], [6]) := by decide +kernel

/-- Core 0 may send to core 1 by handle 5; the descriptor in s3 has LEN 2. -/
def sending : State := (machine (ctx 0 [(2, 0x1000), (3, 5 + 2 ^ 33)]) [(0x1000, 0x41), (0x1001, 0x42)]).modPart 0 (fun q =>
  { q with grants := [{ first := 5, count := 1, kind := 2, base := 1 }] })

theorem test_witness_MessageResults_send : starts sending (.mbsend (f 2 3)) (fun v s1 => s1.me.twin == none && v.y.s.toNat / 2 ^ 40 == 0
    && s1.endpoint s1.myPart 5 == some (2, 1)
    && okAnd (s1.payloadPlace v.x.s.toNat 2) (fun x => decide (x.2.me.sent < 8) && x.2.me.room 2
      && okAnd (x.2.payload x.1 2) (fun q => same s1 q.2 && q.2.me.twin == none))) = true := by decide +kernel
theorem test_mbsend : (out sending (.mbsend (f 2 3))).msgs.map (fun m => (m.dst, m.len, m.body)) = [(1, 2, 0x4241)]
    ∧ (out sending (.mbsend (f 2 3))).me.resv = [2] := by decide +kernel
theorem test_mbsend_reserved : trapped (with23 0 (2 ^ 40)) (.mbsend (f 2 3)) = (0x108, 2 ^ 40, true) := by decide +kernel
theorem test_mbsend_no_grant : trapped (with23 0 7) (.mbsend (f 2 3)) = (0x208, 7, true) := by decide +kernel
theorem test_witness_MessageResults_mwait : starts (user.modMe (fun c => { c with mbox := [eventEntry 16 0] })) (.mwait (f 2 0)) (fun _ s1 =>
    s1.me.mbox != []) = true := by decide +kernel
theorem test_mwait_waits : (out user (.mwait (f 2 0))).cx.run = .waiting ∧ (out user (.mwait (f 2 0))).cx.pc = 0x400 := by decide +kernel
theorem test_witness_ByteBarrierResults_wait : starts user (.bbwait (f 2 0)) (fun _ s1 => (mget (0, 0) s1.me.bb 2).2 == 0) = true
    ∧ starts (user.modMe (fun c => { c with bb := [(2, (5, 5 + 2 ^ 63))] })) (.bbwait (f 2 0)) (fun _ s1 =>
      (mget (0, 0) s1.me.bb 2).2.getLsbD 63) = true := by decide +kernel
theorem test_bbadd_saturates : mget (0, 0) (out ((with23 0 7).modMe (fun c => { c with bb := [(2, (2 ^ 63 - 2, 1 + 2 ^ 63))] })) (.bbadd (f 2 3))).me.bb 2
    = (2 ^ 63 - 1, 8 + 2 ^ 63) := by decide +kernel

/-! ### Results of single instructions, worked out from the spec's tables, and boundaries of the statements' clauses -/

/-- The scalar result in d1 with s2 and s3 as given. -/
def res (a b : Word) (i : Instr) : Word := lane0 (out (with23 a b) i).cx.win.d1.bits

theorem test_add_wraps : res (2 ^ 64 - 1) 2 (.add (f 2 3)) = 1 := by decide +kernel
theorem test_sub_borrows : res 1 2 (.sub (f 2 3)) = 2 ^ 64 - 1 := by decide +kernel
theorem test_shl_mod_64 : res 3 65 (.shl (f 2 3)) = 6 := by decide +kernel
theorem test_sra_sign : res (2 ^ 63) 4 (.sra (f 2 3)) = 0xF800000000000000 := by decide +kernel
theorem test_mulh_signed : res (2 ^ 64 - 1) 2 (.mulh (f 2 3)) = 2 ^ 64 - 1 ∧ res (2 ^ 64 - 1) 2 (.mulhu (f 2 3)) = 1 := by decide +kernel
theorem test_min_signed : res (2 ^ 63) 1 (.min (f 2 3)) = 2 ^ 63 ∧ res (2 ^ 63) 1 (.minu (f 2 3)) = 1 := by decide +kernel
theorem test_div_zero : res 7 0 (.div (fp 2 3)) = 2 ^ 64 - 1 ∧ res 7 0 (.rem (fp 2 3)) = 7 := by decide +kernel
theorem test_div_overflow : res (2 ^ 63) (2 ^ 64 - 1) (.div (fp 2 3)) = 2 ^ 63 ∧ res (2 ^ 63) (2 ^ 64 - 1) (.rem (fp 2 3)) = 0 := by decide +kernel
theorem test_rem_sign : res (2 ^ 64 - 7) 2 (.rem (fp 2 3)) = 2 ^ 64 - 1 ∧ res (2 ^ 64 - 7) 2 (.div (fp 2 3)) = 2 ^ 64 - 3 := by decide +kernel
theorem test_slt_signed : res (2 ^ 63) 1 (.slt (f 2 3)) = 1 ∧ res (2 ^ 63) 1 (.sltu (f 2 3)) = 0 := by decide +kernel
theorem test_clz : res 0 0 (.clz (f 2 3)) = 64 ∧ res 0 1 (.clz (f 2 3)) = 63 ∧ res 0 0 (.ctz (f 2 3)) = 64 ∧ res 0 8 (.ctz (f 2 3)) = 3 := by decide +kernel
theorem test_sext_w : res 0 0x80000000 (.sextW (f 2 3)) = 0xFFFFFFFF80000000 := by decide +kernel
theorem test_shli_63 : res 1 0 (.shli (fi 2 15 [3])) = 2 ^ 63 := by decide +kernel
theorem test_witness_AddressResults_shift : 63 < (Instr.shli (fi 2 0 [4])).opnds.imm.toNat ∧ 63 < (Instr.shri (fi 2 0 [4])).opnds.imm.toNat
    ∧ 63 < (Instr.srai (fi 2 0 [4])).opnds.imm.toNat ∧ (Instr.shli (fi 2 15 [3])).opnds.imm.toNat = 63 := by decide +kernel
theorem test_witness_AddressResults_movi : (fr 0 0 true 5 2 3).zp = true := by decide +kernel
theorem test_witness_CompareSelectResults_sel : user.cx.win.d1.pend = none ∧ res 5 6 (.sel (f 2 3)) = 6 := by decide +kernel

-- R169 to R174, R190: 1.0 + 2^-53 rounds to even and is inexact; -0 below +0; the square root of -1 is NaN and invalid.
theorem test_fadd_inexact : res 0x3FF0000000000000 0x3CA0000000000000 (.fadd (fm 1 0 2 3)) = 0x3FF0000000000000
    ∧ (out (with23 0x3FF0000000000000 0x3CA0000000000000) (.fadd (fm 1 0 2 3))).cx.tsw.getLsbD 4 = true := by decide +kernel
theorem test_fmin_zeros : res 0x80000000 0 (.fmin (fm 0 0 2 3)) = 0x80000000 := by decide +kernel
theorem test_fsqrt_negative : res 0 0xBF800000 (.fsqrt (fm 0 0 2 3)) = 0x7FC00000
    ∧ (out (with23 0 0xBF800000) (.fsqrt (fm 0 0 2 3))).cx.tsw.getLsbD 7 = true := by decide +kernel
theorem test_ftoi_saturates : res 0 0x7F800000 (.ftoi (fm 0 0 2 3)) = 2 ^ 63 - 1 := by decide +kernel
theorem test_feq_nan : res 0x7FC00000 0x7FC00000 (.feq (fm 0 0 2 3)) = 0 := by decide +kernel

-- R195 to R203.
theorem test_vadd_lane : laneAt (out (withV (ofLanes 4 (List.replicate 16 0x3F800000)) (ofLanes 4 (List.replicate 16 0x40000000))) (.vadd (fm 0 0 2 3))).cx.win.d1.bits 4 15
    = 0x40400000 := by decide +kernel
theorem test_vcmp_mask : (out (withV (ofLanes 4 [0x3F800000, 0]) 0) (.vcmp (fm 0 0 2 3))).cx.kreg 1 = 0xFFFE := by decide +kernel
theorem test_vred_sum : lane0 (out (withV 0 (ofLanes 4 [0x3F800000, 0x40000000])) (.vred (fm 0 0 2 3))).cx.win.d1.bits = 0x40400000 := by decide +kernel
theorem test_witness_QuantiserMaskResults_vmxq : starts user (.vmxq (f 2 3)) (fun _ s1 => !(s1.busy 35)) = true
    ∧ starts user (.vnqq (f 4 3)) (fun _ s1 => !(s1.busy 37) && !(s1.busy 38) && !(s1.busy 39)) = true := by decide +kernel
theorem test_kmov_reads_k0 : res 0 0 (.kmov (f 2 0)) = 2 ^ 64 - 1 := by decide +kernel
theorem test_kmov_writes : (out (with23 0 5) (.kmov (f 3 5))).cx.kreg 1 = 5 := by decide +kernel

-- R270, R271: a taken and an untaken branch, the link of JAL, an odd target.
theorem test_beq_taken : (out (with23 5 5) (.beq (fi 2 3 [8]))).cx.pc = 0x410 ∧ (out (with23 5 6) (.beq (fi 2 3 [8]))).cx.pc = 0x404 := by decide +kernel
theorem test_blt_signed : (out (with23 (2 ^ 63) 1) (.blt (fi 2 3 [8]))).cx.pc = 0x410 ∧ (out (with23 (2 ^ 63) 1) (.bltu (fi 2 3 [8]))).cx.pc = 0x404 := by
  decide +kernel
theorem test_ret : (out (with23 0 0x800) (.ret (f 0 3))).cx.pc = 0x800 := by decide +kernel
theorem test_ret_odd : trapped (with23 0 0x801) (.ret (f 0 3)) = (0x203, 0x801, true) := by decide +kernel
theorem test_witness_BranchResults_even : starts (with23 0 0x800) (.jalr (f 2 3)) (fun v _ =>
    (v.y.s + (Instr.jalr (f 2 3)).opnds.imm).toNat % 2 == 0) = true := by decide +kernel

/-! ### Loops and repetition -/

/-- Core 0 with loop 1 ending after a parcel at 0x400, loop 0 elsewhere. -/
def looping (count : Word) : State :=
  machine { ctx 0 [] with le := [(0, 0x500), (1, 0x402)], ls := [(1, 0x300)], lc := [(0, 4), (1, count)] } []

theorem test_loop_back : (out (looping 3) (.nop (f 0 0))).cx.pc = 0x300 ∧ (out (looping 3) (.nop (f 0 0))).cx.lc = [(0, 4), (1, 2)] := by decide +kernel
theorem test_loop_last : (out (looping 1) (.nop (f 0 0))).cx.pc = 0x402 ∧ (out (looping 1) (.nop (f 0 0))).cx.lc = [(0, 4), (1, 0)] := by decide +kernel
theorem test_loop_none : (out (looping 0) (.nop (f 0 0))).cx.pc = 0x402 := by decide +kernel
theorem test_witness_LoopBack : starts (looping 3) (.nop (f 0 0)) (fun _ _ =>
    mget 0 (looping 3).cx.le 1 == 0x402 && mget 0 (looping 3).cx.lc 1 != 0 && !(mget 0 (looping 3).cx.le 0 == 0x402)) = true
    ∧ (match exec (.nop (f 0 0)) (looping 3) with | .next _ => true | _ => false) = true := by decide +kernel
theorem test_loop_zero : (out (with23 0 0) (.loop (fi 2 3 [16]))).cx.pc = 0x420 := by decide +kernel
theorem test_loopi : (out user (.loopi (fi 2 3 [16]))).cx.lc = [(3, 3)] ∧ (out user (.loopi (fi 2 3 [16]))).cx.ls = [(3, 0x404)]
    ∧ (out user (.loopi (fi 2 3 [16]))).cx.le = [(3, 0x420)] := by decide +kernel

/-- REP 3 with add s2, s3 behind it; and the state in which that ADD is reissued. -/
def repeats : State := machine (ctx 0 [(2, 1), (3, 10)]) [(0x402, 0x23), (0x403, 0x08)]

theorem test_witness_LoopResults_rep : starts repeats (.rep (f 2 0)) (fun _ s1 =>
    okAnd (s1.repParcels (Instr.rep (f 2 0)).opnds.len) (fun q =>
      (match decodeFor (some q.2.who) q.1 with | .ok i _ => i == .add (f 2 3) | _ => false) && same s1 q.2)) = true := by decide +kernel
theorem test_rep_arms : (out repeats (.rep (f 2 0))).cx.rep = { Rep.none with parcels := [0x0823], count := 3 } := by decide +kernel
theorem test_witness_LoopResults_reissue : (let s := out repeats (.rep (f 2 0))
    s.cx.rep.parcels != [] && (match decodeFor (some s.who) s.cx.rep.parcels with | .ok i _ => i == .add (f 2 3) | _ => false)
      && (match formOf (.add (f 2 3)) with
        | some (c, sh) => !(s.behind c sh (stagger s.cx.rep (sh.opnds c.min c.e) 0)) && okAnd (s.readAll sh c.e (stagger s.cx.rep (sh.opnds c.min c.e) 0) s.cx.win) (fun _ => true)
        | none => false)) = true := by decide +kernel
theorem test_rep_reissue : (let s := out (out (out repeats (.rep (f 2 0))) .repReissue) .repReissue
    (s.cx.sreg 2, s.cx.sreg 3, s.cx.rep.next)) = (21, 10, 2) := by decide +kernel

/-- The same REP as the last instruction of loop 0: the loop-back leaves nothing to repeat. -/
def loopRep : State := machine { ctx 0 [(2, 1), (3, 10)] with le := [(0, 0x402)], ls := [(0, 0x300)], lc := [(0, 2)] } [(0x402, 0x23), (0x403, 0x08)]

theorem test_rep_loop_end : (out loopRep (.rep (f 2 0))).cx.pc = 0x300 ∧ (out loopRep (.rep (f 2 0))).cx.rep = Rep.none := by decide +kernel
theorem test_witness_LoopResults_rep_loop : starts loopRep (.rep (f 2 0)) (fun _ s1 =>
    okAnd (s1.repParcels (Instr.rep (f 2 0)).opnds.len) (fun q =>
      (match decodeFor (some q.2.who) q.1 with | .ok i _ => i == .add (f 2 3) | _ => false) && same s1 q.2
        && (q.2.cx.goesTo (q.2.cx.pc + 2) none).1 != q.2.cx.pc + 2)) = true := by decide +kernel

/-! ### Barriers, groups, helpers, gangs -/

/-- Partition 0 owns channel 0x23, of which logical cores 0 and 1 are members; core 0 holds number 0. -/
def barrier (tsw : Word) : State :=
  let s := machine { ctx 0 [(2, 24), (3, 0x1000)] with tsw := tsw } []
  (s.modPart 0 (fun q => { q with bch := BitVec.allOnes 64 })).modChan 0x23 (fun c => { c with members := [0, 1] })

/-- CTX.TSW with an arrival on a channel noted, at a count of releases. -/
def arrived (ch n : Nat) : Word := BitVec.ofNat 64 (2 ^ 16 + ch * 2 ^ 17 + n * 2 ^ 23)

theorem test_witness_BarrierArrivals : (barrier 0).partOf (barrier 0).cur = some 0 ∧ (barrier 0).me.lpid = some 0
    ∧ ((barrier 0).part 0).bch.getLsbD 0x23 = true ∧ 0 ∈ ((barrier 0).chan 0x23).members := by decide +kernel
theorem test_witness_BarrierArrivals_fresh : starts (barrier 0) (.barv (f 2 3)) (fun _ s1 => !(s1.cx.tsw.getLsbD 16)) = true
    ∧ starts (barrier 0) (.barw (f 2 3)) (fun _ s1 => !(s1.cx.tsw.getLsbD 16)) = true
    ∧ starts (barrier 0) (.bstep (f 2 3)) (fun _ s1 => !(s1.cx.tsw.getLsbD 16)) = true := by decide +kernel
theorem test_witness_BarrierArrivals_gone : ([.bwt (f 2 3), .barw (f 2 3), .bstep (f 2 3)] : List Instr).all (fun i =>
    starts (barrier (arrived 0x23 7)) i (fun _ s1 => s1.cx.tsw.getLsbD 16 && s1.cx.tsw.toNat / 2 ^ 17 % 2 ^ 6 == 0x23
      && (s1.rcnt 0x23).toNat != s1.cx.tsw.toNat / 2 ^ 23 % 2 ^ 8)) = true := by decide +kernel
theorem test_barv : ((out (barrier 0) (.barv (f 2 3))).chan 0x23).arr.map (fun a => (a.lpid, a.step)) = [(0, false)]
    ∧ (out (barrier 0) (.barv (f 2 3))).cx.tsw = arrived 0x23 0 := by decide +kernel
theorem test_barw_waits : (out (barrier 0) (.barw (f 2 3))).cx.run = .waiting ∧ (out (barrier 0) (.barw (f 2 3))).cx.pc = 0x400 := by decide +kernel
theorem test_bwt_clears : (out (barrier (arrived 0x23 7)) (.bwt (f 2 3))).cx.tsw = arrived 0x23 7 - 2 ^ 16 := by decide +kernel
theorem test_witness_GroupInstructionResults_exit : starts user (.exit (f 0 0)) (fun _ s1 => !s1.me.liveHelper && !(s1.engineWork s1.cur)) = true := by
  decide +kernel
theorem test_witness_HelperResults_start : starts (with23 0x800 7) (.hstart (f 2 3)) (fun v s1 => !(v.x.s.getLsbD 0) && (s1.me.context 1).run == .free) = true := by
  decide +kernel
theorem test_witness_HelperResults_full : starts ((with23 0x800 7).modMe (fun c => { c with helpers := (upTo 11).map (fun k => (k, ctx 0 [])) })) (.hstart (f 2 3))
    (fun _ s1 => (upTo 11).all (fun h => h == 0 || (s1.me.context h).run != .free)) = true := by decide +kernel
theorem test_hstart : (let t := out (with23 0x800 7) (.hstart (f 2 3))
    (t.cx.sreg 2, (t.me.context 1).pc, (t.me.context 1).sreg 1, (t.me.context 1).sreg 2, (t.me.context 1).run)) = (1, 0x800, 7, 1, .ready) := by decide +kernel
theorem test_witness_HelperResults_join : starts (with23 0 12) (.hjoin (f 2 3)) (fun v _ => decide (10 < v.y.s.toNat % 16)) = true
    ∧ starts (with23 0 3) (.hjoin (f 2 3)) (fun _ s1 => (s1.me.context 3).run == .free) = true := by decide +kernel
theorem test_hend : ((out (helper none) (.hend (f 2 0))).me.context 1).run = .free ∧ ((out (helper none) (.hend (f 2 0))).me.context 1).endWord = 24 := by
  decide +kernel

/-- Cores 0 and 1 hold numbers 0 and 1; core 1 waits at a FUSE or REJOIN with mask 3 at 0x400. -/
def pair (fuse : Bool) (a : Word) : State :=
  let s := machine { ctx 0 [(2, a)] with j := [(2, 3)] } []
  let s := s.setCore 1 { Core.fresh with ctl := { ctx 0 [] with run := .waiting }, lpid := some 1, meet := some (fuse, 3, 0x400, 0x402) }
  s.modPart 0 (fun q => { q with l2p := [(0, 0x8000000000000000), (1, 0x8000000000000001)], n := 2 })

theorem test_witness_GangResults_fuse : starts (pair true 3) (.fuse (f 2 0)) (fun v s1 => s1.fuseMask (v.x.s.setWidth 8)
    && (s1.maskCores s1.myCl 3 == [0, 1]) && (s1.core 1).meet.isSome && [0, 1].all (fun p => !(s1.core p).dead) && !(s1.core 1).entryDue
    && ((s1.modMe (fun c => { c with meet := some (true, 3, 0x400, 0x402), meetHead := none })).meetPops 3 [0, 1]).isSome) = true := by
  decide +kernel
theorem test_fuse : (let t := out (pair true 3) (.fuse (f 2 0))
    ((t.core 0).memb, (t.core 1).memb, (t.core 1).ctl.run, (t.core 1).ctl.pc, mget 0 (t.core 1).ctl.j 0)) = (3, 3, .ready, 0x402, 3) := by decide +kernel
theorem test_witness_GangResults_rejoin : starts (pair false 3) (.rejoin (f 2 0)) (fun _ s1 => mget 0 s1.cx.j 2 == 3
    && (s1.maskCores s1.myCl 3 == [0, 1]) && (match (s1.core 1).meet with | some (false, m, _, _) => m == 3 | _ => false)) = true := by decide +kernel
theorem test_rejoin : (let t := out (pair false 3) (.rejoin (f 2 0)); ((t.core 0).memb, (t.core 1).memb)) = (3, 3) := by decide +kernel
theorem test_gstat : (out (pair false 3) (.gstat (f 2 0))).cx.sreg 2 = 0x108 := by decide +kernel

/-! ### System registers, exceptions and returns -/

theorem test_witness_SystemRegisterReads : starts user (.srd (fi 2 0 [1])) (fun _ s1 => decide (readLevel 0x010 ≤ s1.level) && !(s1.shadowPending 0x010)) = true
    ∧ starts user (.srd (f 2 0)) (fun _ s1 => !s1.vectorsOut && decide (readLevel 0 ≤ s1.level)) = true := by decide +kernel
theorem test_srd_ppid : (out (with23 0 0) (.srd (fi 2 0 [1]))).cx.sreg 2 = 0 ∧ (Instr.srd (fi 2 0 [1])).opnds.imm = 0x10 := by decide +kernel
theorem test_srd_privilege : trapped user (.srd (fi 2 7 [1])) = (4, 0, true) := by decide +kernel
theorem test_witness_SystemRegisterWrites : starts sup (.swr (fi 2 7 [1])) (fun _ s1 => decide (writeLevel 0x017 ≤ s1.level)) = true
    ∧ starts sup (.swr (fi 2 0 [1])) (fun _ s1 => writeLevel 0x010 == 3 && s1.level != 0) = true := by decide +kernel
theorem test_swr_hvec : (out (machine (ctx 1 [(2, 0x1235)]) []) (.swr (fi 2 7 [1]))).me.hvec = 0x1234 := by decide +kernel
theorem test_swr_tsw_user : (out (machine (ctx 0 [(2, 0xFFFFFFFFFFFFFFFF)]) []) (.swr (f 2 0))).cx.tsw = 0x3FF0 := by decide +kernel
theorem test_witness_TrapTakesException : starts user (.trap (f 0 3)) (fun _ _ => true) = true ∧ user.level = 0 ∧ user.cx.comp = none
    ∧ user.me.handler = none := by decide +kernel
theorem test_trap : (let t := out user (.trap (f 0 3))
    (t.me.epc, t.me.cause, t.me.info, t.cx.pc, lvlOf t.cx.tsw)) = (0x402, 1, 3, 0x200, 1) := by decide +kernel
theorem test_witness_IllegalTakesException : (formOf (.add (fr 0 0 false 5 2 3))).isSome = true ∧ user.cx.comp = none ∧ user.me.handler = none
    ∧ ¬ ((Instr.add (fr 0 0 false 5 2 3)).wellFormedFor user.who = true) := by decide +kernel
theorem test_illegal : trapped user (.add (fr 0 0 false 5 2 3)) = (0x502, 0, true) ∧ (out user (.add (fr 0 0 false 5 2 3))).me.epc = 0x400 := by decide +kernel
theorem test_witness_PrivilegeTakesException : (match formOf (.rlsw (fp 2 3)) with | some (c, _) => sOnly c | none => false) = true
    ∧ (Instr.rlsw (fp 2 3)).wellFormedFor user.who = true ∧ user.level = 0
    ∧ [Instr.srd (fi 2 7 [1]), .swr (fi 2 7 [1])].all (fun i => (formOf i).isSome && i.wellFormedFor user.who) = true
    ∧ readLevel (Instr.srd (fi 2 7 [1])).opnds.imm.toNat = 1 ∧ writeLevel (Instr.swr (fi 2 7 [1])).opnds.imm.toNat = 1 := by decide +kernel
theorem test_privilege : trapped user (.rlsw (fp 2 3)) = (4, 0, true) ∧ trapped user (.swr (fi 2 7 [1])) = (4, 0, true) := by decide +kernel

/-- The handler of core 0 is active for its control context and will return to helper k or to itself. -/
def handling (k : Nat) : State :=
  sup.modMe (fun c =>
    { c with handler := some 0, epc := 0x888, tctx := BitVec.ofNat 64 k, shadow := { Shadow.empty with tsw := 0x3F1, gen := 77 } })

theorem test_witness_EretReturns : starts (handling 0) (.eret (f 0 0)) (fun _ s1 => s1.me.handler == some s1.ctx && s1.me.entries == []
    && (mfind s1.me.ring 0).isNone) = true ∧ starts (handling 2) (.eret (f 0 0)) (fun _ s1 => s1.me.tctx.toNat % 16 == 2) = true := by decide +kernel
theorem test_eret : (let t := out (handling 0) (.eret (f 0 0)); (t.cx.pc, t.cx.tsw, t.cx.gen, t.me.handler)) = (0x888, 0x3F0, 77, none) := by decide +kernel
theorem test_eret_other : (let t := out (handling 2) (.eret (f 0 0)); (t.cx.run, (t.me.context 2).pc, (t.me.context 2).run)) = (.stopped .idle, 0x888, .ready) := by
  decide +kernel
theorem test_witness_StopInstructions : starts sup (.park (f 2 0)) (fun _ _ => true) = true ∧ starts sup (.trap (f 0 3)) (fun _ s1 => s1.level != 0) = true := by
  decide +kernel
theorem test_park : (out sup (.park (f 2 0))).cx.run = .stopped .parked ∧ (out sup (.park (f 2 0))).traps.map (fun m => (m.kind, m.arg)) = [(0x23, 24)] := by
  decide +kernel

/-! ### Activities, launches, the supervisor's instructions, matrix and rule records -/

/-- An activity of partition 0 in a state, at U or S level, with one entry of sequence number 1 in a state. -/
def active (lvl st est : Nat) (m : Mem) : State :=
  let s := machine (ctx lvl [(2, 5), (3, 0x1000)]) m
  (s.modPart 0 (fun q => { q with acts := [(5, { state := st, fst := 0x22 })] })).modDie 0 (fun d =>
    { d with chest := [{ seq := 1, id := 5, part := 0, arg := 5, pc := 0x800, tags := 1, core := 0, state := est, lpid := 0, helper := 0 }] })

theorem test_witness_ActivityResults_open : starts user (.actOpn (fp 2 0)) (fun _ s1 => (mfind (s1.part 0).acts 0).isNone) = true
    ∧ starts (user.modPart 0 (fun q => { q with acts := (upTo 256).map (fun k => (k, { state := 1, fst := 0 })) })) (.actOpn (fp 2 0)) (fun _ s1 =>
      decide (256 ≤ (s1.part s1.myPart).acts.length)) = true := by decide +kernel
theorem test_act_opn : ((out user (.actOpn (fp 2 0))).part 0).acts = [(0, { state := 1, fst := 0 })] ∧ (out user (.actOpn (fp 2 0))).cx.sreg 2 = 0 := by
  decide +kernel
theorem test_witness_ActivityResults_push : starts (active 0 1 1 (bwrite [] 0x1000 24 (wordsNat [0x900, 7, 3]))) (.actCp (fp 2 3)) (fun v s1 =>
    v.x.s == 5 && okAnd (s1.loadNear v.y.s.toNat 24) (fun q => same s1 q.2 && (q.2.act q.2.myPart 5).state == 1 && q.1 % 2 == 0)) = true := by decide +kernel
theorem test_act_cp : ((out (active 0 1 1 (bwrite [] 0x1000 24 (wordsNat [0x900, 7, 3]))) (.actCp (fp 2 3))).die 0).chest.map (fun e => (e.pc, e.arg, e.tags))
    = [(0x800, 5, 1), (0x900, 7, 3)] := by decide +kernel
theorem test_witness_ActivityResults_rest : starts (active 0 1 1 []) (.actCmt (fp 2 0)) (fun _ s1 => (s1.act s1.myPart 5).state == 1) = true
    ∧ starts (active 0 1 1 [(0, 0)]) (.actAbn (fp 2 0)) (fun v s1 => (abandonIds v.x.s v.y.s).all (fun i => (s1.act s1.myPart i).state == 1)
      && !(s1.abandonConflict s1.myPart [5])) = true
    ∧ starts (active 1 3 3 []) (.actRty (fp 2 0)) (fun _ s1 => (s1.act s1.myPart 5).state == 3) = true
    ∧ starts (active 1 3 3 []) (.actSkp (fp 2 0)) (fun _ s1 => (s1.act s1.myPart 5).state == 3) = true
    ∧ starts routine (.actRet (fp 2 0)) (fun _ s1 => s1.cx.comp == some 1) = true := by decide +kernel
theorem test_act_st : (out (active 0 1 1 [(0, 0)]) (.actSt (fp 2 2))).cx.sreg 2 = 1 + 2 ^ 8 + 0x22 * 2 ^ 32 := by decide +kernel
theorem test_act_ret_fails : (let t := out routine (.actRet (fp 2 0)); ((t.me.context 1).run, (t.part 0).acts)) = (.free, [(0, { state := 3, fst := 24 })]) := by
  decide +kernel

/-- A launch record at 0x1000: entry 0x800, one group of one core, LID 9; with flags. -/
def launching (lvl : Nat) (flags : Nat) : State :=
  machine (ctx lvl [(3, 0x1000)]) (bwrite [] 0x1000 64 (wordsNat [0x800, BitVec.ofNat 64 (1 + flags * 2 ^ 40 + 9 * 2 ^ 48), 0x01000000, 0, 2 ^ 52, 0, 6, 0]))

theorem test_witness_LaunchResults : ([(launching 0 0, false), (launching 0 0x80, true)] : List (State × Bool)).all (fun x =>
    starts x.1 (.launch (fp 2 3)) (fun v s1 => okAnd (s1.loadNear v.y.s.toNat 64) (fun q => same s1 q.2 && q.2.me.twin == none &&
      (let l := newLaunch 0 (wordsOf 8 q.1) q.2.me.cid q.2.myCl false
       !l.privileged && !l.flag 5 && q.2.illFormed q.2.myPart l == x.2)))) = true
    ∧ starts (launching 1 0x20) (.launch (fp 2 3)) (fun _ s1 => s1.level == 1) = true := by decide +kernel
theorem test_launch : (out (launching 0 0) (.launch (fp 2 3))).cx.sreg 2 = 0
    ∧ ((out (launching 0 0) (.launch (fp 2 3))).part 0).launches.map (fun l => (l.lid, l.word 0, l.winRead)) = [(9, 0x800, true)] := by decide +kernel
theorem test_launch_privileged : trapped (launching 0 0x20) (.launch (fp 2 3)) = (4, 0, true) := by decide +kernel
theorem test_witness_LaunchResults_queue : (upTo 4).all (fun i => !((newLaunch 0 [0, 0, 0, 0, 0, 0, 0, 0] 0 0 false).predV i)) = true := by decide +kernel

/-- At S level with words at 0x1000. -/
def supWith (ws : List Word) : State := machine (ctx 1 [(2, 0), (3, 0x1000)]) (bwrite [] 0x1000 (8 * ws.length) (wordsNat ws))

theorem test_witness_SupervisorResults_ckpt : ([(0x10000, true), (0x10001, false)] : List (Word × Bool)).all (fun x =>
    starts (supWith [5, 6, x.1, 0x100]) (.ckpt (fp 2 3)) (fun v s1 => okAnd (s1.loadNear v.y.s.toNat 32) (fun q =>
      same s1 q.2 && q.2.ckptOk q.2.myPart 5 6 x.1 0x100 == x.2))) = true := by decide +kernel
theorem test_ckpt : ((out (supWith [5, 6, 0x10000, 0x100]) (.ckpt (fp 2 3))).part 0).ckpt.region = 0x10000
    ∧ (out (supWith [5, 6, 0x10001, 0x100]) (.ckpt (fp 2 3))).cx.sreg 2 = 1 := by decide +kernel
theorem test_witness_SupervisorResults_cpqz : starts (sup.modMe (fun c => { c with fifo := [request] })) (.cpqz (fp 2 3)) (fun v s1 =>
    decide (v.y.s.toNat + 0x1000 ≤ 0x400000) && v.y.s.toNat % 4096 == 0 && s1.copiesOf s1.cur == 0) = true := by decide +kernel
theorem test_cpqz : (let t := out (sup.modMe (fun c => { c with fifo := [request] })) (.cpqz (fp 2 3))
    (t.cx.sreg 2, t.me.fifo, bread t.me.mem 0x1350 8, bread t.me.mem 0x1450 8)) = (1, [], 9 + 2 ^ 56, 1) := by decide +kernel

/-- A membership record at 0x1000: channel 2 of partition 0, cluster level, logical core 0. -/
def membership (owned busy : Bool) (w0 : Nat) : State :=
  let s := machine (ctx 1 [(3, 0x1000)]) (bwrite (bwrite [] 0x1000 8 w0) 0x1010 8 1)
  let s := s.modPart 0 (fun q => { q with bch := if owned then 4 else 0 })
  s.modChan 2 (fun c => { c with arr := if busy then [{ lpid := 0, step := false, core := 0, bound := 0 }] else [] })

theorem test_witness_SupervisorResults_bmem : ([(false, false, 2), (true, false, 0x42), (true, true, 2), (true, false, 2)] : List (Bool × Bool × Nat)).all (fun x =>
    starts (membership x.1 x.2.1 x.2.2) (.bmem (fp 2 3)) (fun v s1 => okAnd (s1.loadNear v.y.s.toNat 304) (fun q =>
      same s1 q.2 && q.1 % 2 ^ 6 == 2 && (q.2.part 0).bch.getLsbD 2 == x.1 && (q.2.chan 2).arr.isEmpty == !x.2.1
        && q.2.bmemOk 0 x.2.2 0 (mapMembers q.1) == (x.2.2 == 2)))) = true := by decide +kernel
theorem test_bmem : ([membership false false 2, membership true false 0x42, membership true true 2, membership true false 2].map (fun s =>
    (out s (.bmem (fp 2 3))).cx.sreg 2)) = [3, 1, 2, 0] ∧ ((out (membership true false 2) (.bmem (fp 2 3))).chan 2).members = [0] := by decide +kernel
theorem test_witness_SupervisorResults_preq : starts (machine (ctx 1 [(3, 7)]) []) (.preq (fp 2 3)) (fun v s1 => s1.physOf 0 v.y.s.toNat == none) = true
    ∧ starts (machine (ctx 1 []) []) (.preq (fp 2 3)) (fun v s1 => s1.physOf 0 v.y.s.toNat == some 0 && (s1.core 0).preempt == none) = true
    ∧ starts ((machine (ctx 1 []) []).modMe (fun c => { c with preempt := some 1 })) (.preq (fp 2 3)) (fun _ s1 => (s1.core 0).preempt != none) = true := by
  decide +kernel
theorem test_lkcfg : (out (machine (ctx 1 [(3, 1)]) []) (.lkcfg (fp 2 3))).me.lnk = 1 ∧ (out (machine (ctx 1 [(3, 1)]) []) (.lkcfg (fp 2 3))).cx.sreg 2 = 3 := by
  decide +kernel
theorem test_witness_SupervisorResults_lkcfg : starts (machine (ctx 1 [(3, 1)]) []) (.lkcfg (fp 2 3)) (fun _ s1 =>
    (s1.lands (.lkcfg (fp 2 3)) (some (.s (s1.me.lnk.setWidth 64)))).isSome) = true := by decide +kernel
theorem test_witness_SupervisorResults_members : (let s := (membership true false 2).modChan 66 (fun c => { c with part := 5, members := [3] })
    (s.chan 66).joined = false ∧ (s.chan 66).part ≠ 0 ∧ s.physOf 0 0 = some 0 ∧ dieOf 0 = 0
      ∧ ((s.setMembers 0 2 0 [0]).chan 66).members = [3] ∧ ((s.setMembers 0 2 0 [0]).chan 2).members = [0]) := by decide +kernel
theorem test_twcfg : (out (machine (ctx 1 [(2, 77), (3, 0)]) []) (.twcfg (fp 2 3))).me.twt = 77 := by decide +kernel

theorem test_witness_MatrixPushResults : ([(.mstr (f 2 3), 0), (.mstrt (f 2 3), 1), (.mdrn (f 2 3), 2), (.macz (f 2 3), 3), (.mbld (f 2 3), 4),
    (.mbrel (f 2 3), 5), (.maccp (f 2 3), 7)] : List (Instr × Nat)).all (fun x => starts user x.1 (fun v s1 => s1.me.matRoom && okAnd (s1.nearPlace v.y.s.toNat 32) (fun y => okAnd (y.2.recordAt y.1) (fun q =>
      same s1 q.2 && okAnd (q.2.pushMat q.2.cur 0x400 [wput (q.1.getD 0 0) 61 3 x.2, q.1.getD 1 0 + v.x.s, 0, 0] none false) (same s1))))) = true
    ∧ starts user (.mcfg (f 2 3)) (fun v s1 => okAnd (s1.nearPlace v.y.s.toNat 64) (fun y => okAnd (y.2.takeAt y.1 64) (fun q => same s1 q.2 &&
      okAnd (q.2.pushMat q.2.cur 0x400 [BitVec.ofNat 64 (6 * 2 ^ 61), 0, v.x.s, 0] (some 0) false) (same s1)))) = true
    ∧ (user.core 0).twin = none := by decide +kernel
theorem test_mdrn : (out (machine (ctx 0 [(2, 24), (3, 0x1000)]) [(0x1000, 1), (0x1008, 2)]) (.mdrn (f 2 3))).me.mq.map (fun m => (m.kind, m.w0, m.w1))
    = [(2, 1 + 2 ^ 62, 26)] := by decide +kernel

/-- At S level, partition 0 owns rule slot 2; the words in s2 and s3. -/
def rules (a b : Word) (pend : Bool) (img : Mem) : State :=
  ((machine (ctx 1 [(2, a), (3, b)]) []).modPart 0 (fun q => { q with rls := 4 })).modRule 2 (fun z => { z with pend := pend, b := img })

/-- An image that R240 accepts: version 7, one feature, no layer. -/
def image : Mem := bwrite (bwrite [] 0 8 (7 + 2 ^ 16)) 0x18 4 0x3F800000

theorem test_witness_RuleInstructionResults_push : ([(.rlupd (fp 2 3), 1), (.rltape (fp 2 3), 2), (.rlrev (fp 2 3), 3), (.rdreg (fp 2 3), 0x10),
    (.rdcmp (fp 2 3), 0x12)] : List (Instr × Nat)).all (fun x => starts user x.1 (fun v s1 => s1.ruleRoom s1.cur x.2 && okAnd (s1.nearPlace v.y.s.toNat 32) (fun y => okAnd (y.2.recordAt y.1) (fun q =>
      same s1 q.2 && okAnd (q.2.pushRule q.2.cur q.2.ctx [wput 0 56 8 x.2, v.x.s, 0, 0] false) (same s1))))) = true := by decide +kernel
theorem test_witness_RuleInstructionResults_switch : starts (rules 0 2 true []) (.rlsw (fp 2 3)) (fun _ s1 => (s1.rule 2).pend && (s1.part s1.myPart).rls.getLsbD 2) = true
    ∧ starts (rules 0 2 false []) (.rlsw (fp 2 3)) (fun _ s1 => !(imageOk ((s1.rule 2).image true))) = true
    ∧ starts (rules 0 2 false image) (.rlsw (fp 2 3)) (fun _ s1 => imageOk ((s1.rule 2).image true) && imageVer ((s1.rule 2).image true) == 7) = true := by
  decide +kernel
theorem test_rlsw : [rules 0 2 true [], rules 0 2 false [], rules 0 2 false image].map (fun s => (out s (.rlsw (fp 2 3))).cx.sreg 2) = [3, 1, 0] := by decide +kernel
theorem test_witness_RuleInstructionResults_write : starts (rules 0x1000 (BitVec.ofNat 64 (16 + 2 * 2 ^ 13 + 8 * 2 ^ 16)) false []) (.rlwr (fp 2 3)) (fun v s1 =>
    okAnd (s1.loadNear v.x.s.toNat 8) (fun q => same s1 q.2)) = true
    ∧ starts (rules 0x1000 (BitVec.ofNat 64 (16 + 2 * 2 ^ 13 + 8 * 2 ^ 16)) false []) (.rlrd (fp 2 3)) (fun v s1 =>
      okAnd (s1.storeNear v.x.s.toNat 8 0) (fun q => same s1 q && !(q.hardErr (.rule 2 false) 16 8))) = true := by decide +kernel
theorem test_rlver : (out (rules 0 2 true image) (.rlver (fp 2 3))).cx.sreg 2 = 7 * 2 ^ 16 + 2 ^ 33 + 2 ^ 35 ∧ (out (rules 0 3 true image) (.rlver (fp 2 3))).cx.sreg 2 = 0 := by
  decide +kernel

/-! ### The headline statements -/

theorem test_witness_EncodeDecode : (Instr.amoAdd (fm 3 0 2 3)).code.isSome = true ∧ (Instr.amoAdd (fm 3 0 2 3)).wellFormed = true
    ∧ decode (encode (.amoAdd (fm 3 0 2 3)) ++ [0xED00]) = .ok (.amoAdd (fm 3 0 2 3)) 2 := by decide +kernel

/-- Core 0 is in focus, and add s2, s3 stands at its PC. -/
def stepping : State := machine (ctx 0 [(2, 1), (3, 10)]) [(0x400, 0x23), (0x401, 0x08)]

theorem test_witness_StepRunsDecoded : stepping.power = true ∧ stepping.sched = [] ∧ stepping.errs = [] ∧ stepping.alive 0 = true
    ∧ ({ stepping with late := false }).beforeIssue 0 = none ∧ ({ stepping with late := false }).pick 0 = some 0 ∧ (stepping.core 0).replay = none
    ∧ (stepping.core 0).fused = false ∧ ((stepping.core 0).context 0).rep.parcels = [] ∧ (Instr.add (f 2 3)).code.isSome = true
    ∧ (Instr.add (f 2 3)).wellFormed = true ∧ (encode (.add (f 2 3))).length = 1
    ∧ bread (stepping.core 0).mem 0x400 2 = 0x0823 ∧ (encode (.add (f 2 3)))[0]? = some 0x0823 := by decide +kernel
theorem test_step : (match Sys2Proof.Machine.step stepping with | .next t => (t.cx.sreg 2, t.cx.pc) | _ => (0, 0)) = (11, 0x402) := by decide +kernel
theorem test_witness_StepRunsDecoded_event : (match Sys2Proof.Machine.step { stepping with sched := [.event (.heartbeat 0), .elapse 1 2 3] } with
    | .next t => t.sched == [.elapse 1 2 3] | _ => false) = true
    ∧ (match Sys2Proof.Machine.step { stepping with sched := [.elapse 1 2 3] } with | .next t => t.time == 3 && t.sched == [] | _ => false) = true
    ∧ (match Sys2Proof.Machine.step { stepping with power := false } with | .fault _ => true | _ => false) = true
    ∧ (Instr.heartbeat 0).code = none ∧ dieNeeded (.heartbeat 0) = some 0 ∧ stepping.die0.relock = false := by decide +kernel
theorem test_witness_MemoriesStayCanonical : (match Sys2Proof.Machine.step stepping with | .next _ => true | _ => false) = true
    ∧ memWf (stepping.core 0).mem = true ∧ memWf stepping.phys = true := by decide +kernel

/-! ### Device steps: states that meet the hypotheses of each clause, with what the step leaves -/

/-- Core 0 has this request at the head of its FIFO. -/
def queued (r : CopyReq) : State := (open' user).modMe (fun c => { c with fifo := [r], mem := [(0x2041, 7)] })

/-- The request `op`, 100 bytes from w1 to w2. -/
def copyOf (op : Nat) (w1 w2 : Word) : CopyReq :=
  { request with w0 := 9 + 2 ^ 40 * 255 + BitVec.ofNat 64 (op * 2 ^ 56), w1 := w1, w2 := w2, w3 := 128 }

theorem test_witness_CopyEngineSteps_start : ((queued (copyOf 1 0x2040 0x3000)).cluster 0).slotsUsed < 16
    ∧ ((upTo 9).map (fun j => (((queued (copyOf 1 0x2040 0x3000)).cluster 0).crr + j) % 9)).find? ((queued (copyOf 1 0x2040 0x3000)).copyReady 0) = some 0
    ∧ okAnd (((queued (copyOf 1 0x2040 0x3000)).core 0).walkOf (copyOf 1 0x2040 0x3000)) (fun w => w == .plain 128) = true
    ∧ (queued (copyOf 1 0x2040 0x3000)).geoHard 0 (copyOf 1 0x2040 0x3000) = false
    ∧ (queued (copyOf 1 0x2040 0x3000)).copyCheck 0 (copyOf 1 0x2040 0x3000) (.plain 128) = 0 ∧ (Walk.plain 128).units (copyOf 1 0x2040 0x3000) = 2 := by
  decide +kernel

/-- The request in slot 0 of cluster 0. -/
def slotted (r : CopyReq) : State := out (queued r) (.copyStart 0)

theorem test_copy_start : ((slotted (copyOf 1 0x2040 0x3000)).cluster 0).slots.map (fun z => (z.cidx, z.total, z.held)) = [(0, 2, [])]
    ∧ ((slotted (copyOf 1 0x2040 0x3000)).cluster 0).slots.all (fun z => z.walk == .plain 128) = true
    ∧ ((slotted (copyOf 1 0x2040 0x3000)).core 0).fifo = [] ∧ ((slotted (copyOf 1 0x2040 0x3000)).cluster 0).crr = 1 := by decide +kernel
theorem test_witness_CopyEngineSteps_read : (match ((slotted (copyOf 1 0x2040 0x3000)).cluster 0).slots[0]? with
    | some z => z.req.op == 1 && z.open' 0 && okAnd ((slotted (copyOf 1 0x2040 0x3000)).engineRead 0 0 0 0x2040 64) (fun q => q.1.getD 1 0 == 7)
    | none => false) = true := by decide +kernel

/-- Unit 0 has been read. -/
def read0 : State := out (slotted (copyOf 1 0x2040 0x3000)) (.copy 0 0 0)

theorem test_witness_CopyEngineSteps_land : (match (read0.cluster 0).slots[0]? with
    | some z => (mfind z.held 0).isSome && !z.req.drop && ((Walk.plain 128).unit z.req 0).2.1 == 0x3000 && ((Walk.plain 128).unit z.req 0).2.2 == 64
      && z.walk.mates z.req 0 == [0]
    | none => false) = true ∧ memWf (read0.core 0).mem = true ∧ spaceOf 0x3000 64 = some .loc := by decide +kernel
theorem test_copy_landing : ((out read0 (.copyLanding 0 0 0)).core 0).mem = [(0x2041, 7), (0x3001, 7)] := by decide +kernel
theorem test_witness_CopyEngineSteps_fill : (match ((slotted (copyOf 3 0x0807060504030201 0x3003)).cluster 0).slots[0]? with
    | some z => z.req.op == 3 && z.open' 0
    | none => false) = true := by decide +kernel
theorem test_fill : ((((out (slotted (copyOf 3 0x0807060504030201 0x3003)) (.fill 0 0 1)).cluster 0).slots.getD 0
    { cidx := 0, req := request, walk := .plain 0, total := 0, held := [], landed := [], bytes := 0, status := none, posted := false }).held.map
      (fun x => (x.1, x.2.take 4, x.2.length))) = [(1, [6, 7, 8, 1], 64)] := by decide +kernel

/-- Slot 0 of cluster 0 has ended with a status. -/
def ended : State := (slotted (copyOf 1 0x2040 0x3000)).modCluster 0 (fun c =>
  { c with slots := c.slots.map (fun z => { z with status := some 0, bytes := 128 }) })

theorem test_witness_CopyEngineSteps_end : ended.silent 0 = false ∧ (ended.core 0).room 16 = true ∧ ended.posts = []
    ∧ (ended.cluster 0).slots.all (ended.copyOver 0) = true := by decide +kernel
theorem test_copy_completion : ((out ended (.copyCompletion 0 0)).core 0).mbox.map (fun m => m.body.toNat) = [1 + 255 * 2 ^ 16 + 2 ^ 24 + 9 * 2 ^ 32 + 128 * 2 ^ 64]
    ∧ ((out ended (.copyCompletion 0 0)).cluster 0).slots = [] := by decide +kernel

/-- The mailbox of core 0 has no room. -/
def fullBox (s : State) : State := s.modCore 0 (fun c => { c with mbox := List.replicate 64 (eventEntry 64 0) })

theorem test_witness_CopyEngineSteps_full : ((fullBox ended).core 0).room 16 = false ∧ (fullBox ended).silent 0 = false
    ∧ (out (fullBox ended) (.copyCompletion 0 0)).posts.map (fun w => (w.dst, w.copy)) = [(0, some 0)] := by decide +kernel

/-- A network send of 128 bytes on handle 6, in slot 0; the port of its queue admits the copy engine of cluster 0. -/
def sends : State :=
  let s := (queued (copyOf 2 0x2040 6)).modPart 0 (fun q => { q with grants := [{ first := 6, count := 1, kind := 3, base := 70 }] })
  out { s with access := [{ target := 0x2001, master := 9, part := 0, r := false, w := true, a := false }] } (.copyStart 0)

theorem test_witness_CopyEngineSteps_send : (match (sends.cluster 0).slots[0]? with
    | some z => z.req.op == 2 && z.status == none && decide (z.landed.length < z.total) && okAnd (sends.readPieces 0 0 0 ((Walk.plain 128).stream z.req 0 4096)) (fun q =>
        q.1.length == 128 && q.2.granted 0 6 [3] == some (3, 70))
    | none => false) = true ∧ sends.partOf 0 = some 0 ∧ sends.portBars 9 0 ((sends.queueOf 70).port % 8) = none
    ∧ (sends.cluster 0).slots.all (fun z => !(sends.unmatched 0 z) && !(sends.pairDrops 0 z.req.pair z.req.drop) && z.held == []) = true := by decide +kernel
theorem test_network_send : (out sends (.networkSend 0 0)).packets.map (fun x => (x.queue, x.bytes.length)) = [(70, 128)] := by decide +kernel

/-- A packet of the first slot is out, of two. -/
def packeted : State := (out sends (.networkSend 0 0)).modCluster 0 (fun c => { c with slots := c.slots.map (fun z => { z with total := 2 }) })

theorem test_witness_CopyEngineSteps_ack : packeted.packets.length = 1 ∧ packeted.packets.all (fun x => packeted.slotOf x == some 0
    && decide (x.tries < 8) && decide ((packeted.time - x.sent).toNat < 250000)) = true
    ∧ ((out packeted (.packetAck 0)).cluster 0).slots.map (fun z => (z.landed, z.bytes)) = [([0], 128)]
    ∧ (out packeted (.packetRetransmit 0)).packets.map (fun x => x.tries) = [1] := by decide +kernel

/-- Context 0 has assembled one copy word, sixteen instructions ago. -/
def partial' : State := user.modMe (fun c => { c with asmC := some { ctx := 0, words := [1], since := 16 } })

theorem test_witness_CopyEngineSteps_discard : (partial'.core 0).asmOf .copy = some { ctx := 0, words := [1], since := 16 }
    ∧ ((out partial' (.copyAssemblyDiscard 0 .copy)).core 0).asmC = none ∧ (out partial' (.copyAssemblyDiscard 0 .copy)).cx.tsw.getLsbD 9 = true := by decide +kernel

/-! Messages, links, results. -/

/-- A message from core 0 to core 1; `fixed` by a fixed handle. -/
def message (fixed : Bool) : Msg :=
  { src := 0, ctx := 0, kind := 0, dst := 1, handle := 5, fixed := fixed, len := 8, body := 0x4142, no := 0, status := 0 }

/-- The message is on its way to core 1, with room reserved at its sender. -/
def mailed (fixed : Bool) (f : Core → Core) : State :=
  { (user.modMe (fun c => { c with resv := [8], sent := 1 })).setCore 1 (f Core.fresh) with msgs := [message fixed] }

theorem test_witness_MessageDelivery_arrival : (mailed false id).msgs[0]? = some (message false) ∧ (mailed false id).inTurn (message false) 0 = true := by decide +kernel
theorem test_message_arrival : ((out (mailed false id) (.messageArrival 0)).core 1).mbox = [{ status := 0, cls := 1, src := 0x80000000, len := 8, next := 0, body := 0x4142 }]
    ∧ (out (mailed false id) (.messageArrival 0)).accs = [message false] := by decide +kernel
theorem test_message_refused : ([mailed false (fun c => { c with dead := true }), mailed false (fun c => { c with poisoned := true }), mailed true id,
    mailed false (fun c => { c with mbox := List.replicate 64 (eventEntry 64 0) })].map (fun s => (out s (.messageArrival 0)).backs.map (fun m => m.status)))
    = [[2], [1], [3], [1]] := by decide +kernel

/-- The message comes back, or its acceptance does. -/
def returned (back : Bool) : State :=
  let s := mailed false id
  if back then { { s with msgs := [] } with backs := [{ message false with status := 3 }] } else { { s with msgs := [] } with accs := [message false] }

theorem test_witness_MessageDelivery_return : (returned true).backs.length = 1 ∧ (returned false).accs.length = 1
    ∧ ((out (returned true) (.messageReturn 0)).core 0).mbox.map (fun m => (m.cls, m.status, m.src)) = [(2, 3, 5)]
    ∧ ((out (returned false) (.messageAcceptNotice 0)).core 0).resv = [] ∧ ((out (returned false) (.messageAcceptNotice 0)).core 0).sent = 0 := by decide +kernel

/-- A completion waits for the mailbox of core 0, or of supervisor core 0. -/
def waits (sup : Bool) : State := { user with posts := [{ sup := sup, dst := 0, entry := eventEntry 16 5, rule := none, copy := none }] }

theorem test_witness_MessageDelivery_post : mailRoom ((waits true).supBox 0) [] 16 = true ∧ ((waits false).core 0).room 16 = true
    ∧ (out (waits true) (.mailboxDeferredPost 0)).supBox 0 = [eventEntry 16 5] ∧ ((out (waits false) (.mailboxDeferredPost 0)).core 0).mbox = [eventEntry 16 5] := by
  decide +kernel

/-- A word is on its way to the west or east FIFO of core 0, which holds so many. -/
def linked (west : Bool) (n : Nat) : State :=
  { (user.modMe (fun c => { c with west := List.replicate n 1 })) with links := [{ dst := 0, west := west, word := 9, src := 1, no := 0 }] }

theorem test_witness_MessageDelivery_link : ((linked true 3).core 0).west.length < 4 ∧ ((out (linked true 3) (.linkWordArrival 0)).core 0).west = [1, 1, 1, 9]
    ∧ ((out (linked false 4) (.linkWordArrival 0)).core 0).east = [9] ∧ (out (linked true 4) (.linkWordArrival 0)).links.length = 1 := by decide +kernel

/-- A vector result of ring entry 3 is due for context 0. -/
def due (v : Option VWord) : State := user.modMe (fun c =>
  { c with due := [{ id := 6, ctx := 0, dest := some 35, vec := true, value := v, ring := some 3 }], ring := [(3, { RingEntry.empty with v := true, id := some 6 })] })

theorem test_witness_ResultDelivery : ((due (some 5)).core 0).due.find? (fun x => x.id == 6) ≠ none
    ∧ (let t := out (due (some 5)) (.resultDelivery 0 6); (t.cx.vreg 3, t.me.due, t.me.ring)) = (5, [], [])
    ∧ (mfind (out (due none) (.resultDelivery 0 6)).me.ring 3).map (fun r => r.st) = some 2 := by decide +kernel

/-! Global accesses, trap messages, heartbeats, pairs. -/

/-- A store of core 0 to a global address is on its way: physical, or through CID 1. -/
def request' (cid : BitVec 12) : GReq :=
  { id := 1, core := 0, ctx := 0, cid := cid, va := 0x100000000, n := 8, acc := 1, op := 0, rm := 0, x := 5, e := 0, posted := false, pas := [], no := 0 }

/-- It is on its way, or waits for a walk. -/
def asks (cid : BitVec 12) (walk : Bool) : State :=
  if walk then { open' user with walks := [request' cid] } else { open' user with greqs := [request' cid] }

theorem test_witness_GlobalAccessSteps_request : firstOf (asks 1 false).greqs 0 (request' 1).meets = true ∧ (asks 1 false).misses (request' 1) = true
    ∧ (asks 0 false).misses (request' 0) = false ∧ okAnd ({ asks 0 false with greqs := [] }.serve (request' 0)) (fun _ => true) = true
    ∧ okAnd ({ asks 0 true with walks := [] }.serve (request' 0)) (fun _ => true) = true
    ∧ (asks 0 true).walking 0 (request' 0) = true ∧ firstOf (asks 0 true).walks 0 (request' 0).meets = true := by decide +kernel
theorem test_global_request : (out (asks 1 false) (.globalRequestArrival 0)).walks = [request' 1]
    ∧ (out (asks 0 false) (.globalRequestArrival 0)).gresps.map (fun a => a.fault) = [0]
    ∧ (out (asks 0 true) (.translationWalk 0)).gresps.map (fun a => a.fault) = [0] := by decide +kernel

/-- An answer is on its way to core 0, which waits for request `id`. -/
def answers (id : Nat) : State :=
  { (user.modMe (fun c => { c with flight := some id })) with gresps := [{ req := request' 0, fault := 0, value := 5 }] }

theorem test_witness_GlobalAccessSteps_answer : ((answers 1).core 0).flight = some 1 ∧ ((out (answers 1) (.globalResponse 0)).core 0).answer = some (0, 5)
    ∧ ((answers 2).core 0).flight ≠ some 1 ∧ ((out (answers 2) (.globalResponse 0)).core 0).answer = none := by decide +kernel

/-- Core 0 invalidates CID 1 of its partition; slices hold a translation of CID 1 and one of CID 2. -/
def invalidates (st : Nat) : State :=
  ((user.modMe (fun c => { c with xlat := some (1 + 2 ^ 14, st) })).modSlice 0 (fun z => { z with tlb := [
    { cid := 1, part := 0, va := 0, size := 0x10000, pa := 0, r := true, w := true, x := true, d := true },
    { cid := 2, part := 0, va := 0, size := 0x10000, pa := 0, r := true, w := true, x := true, d := true }] }))

theorem test_witness_GlobalAccessSteps_invalidate : ((out (invalidates 0) (.xlatInv 0)).slice 0).tlb.map (fun t => t.cid) = [2]
    ∧ ((out (invalidates 0) (.xlatInv 0)).core 0).xlat = some (1 + 2 ^ 14, 1) ∧ (invalidates 0).partOf 0 = some 0
    ∧ (invalidates 1).walks = [] ∧ ((out (invalidates 1) (.xlatInvDone 0)).core 0).xlat = some (1 + 2 ^ 14, 2) := by decide +kernel
/-- A PWLD of core 0 has missed the line of its window. -/
def missed : State := windowed.modMe (fun c => { c with wmiss := some (0, 0x100000000, false) })

theorem test_witness_GlobalAccessSteps_fill : (missed.launchOf 0).isSome = true ∧ (missed.cluster 0).wline 0 0x100000008 = none
    ∧ okAnd (missed.fillLine 0 0 0 0x100000008) (fun _ => true) = true
    ∧ (let t := out missed (.windowCacheFill 0 0 8)
       ((t.cluster 0).wcache.map (fun w => w.va), (t.core 0).wmiss)) = ([0x100000000], none)
    ∧ ((out windowed (.windowCacheFill 0 0 8)).cluster 0).wcache = [] := by decide +kernel

/-- A trap message of row 2 in column `col`. -/
def trapMessage (col : Nat) : TrapMsg := { kind := 0x20, sub := 0, cid := 0, die := 0, row := 2, acc := 0, agent := 0, arg := 5, map := 2, col := col }

theorem test_witness_TrapMessageSteps_hop : firstSuch 1 (fun j => j != 0 && ((([trapMessage 3] : List TrapMsg).getD j (trapMessage 3)).same (trapMessage 3))) = none
    ∧ (out { user with traps := [trapMessage 3] } (.trapMessageHop 0)).traps = [trapMessage 2]
    ∧ mget [] (out { user with traps := [trapMessage 0] } (.trapMessageHop 0)).die0.coll 2 = [trapMessage 0]
    ∧ (out { user with traps := [trapMessage 3, { trapMessage 3 with map := 4, agent := 1 }] } (.trapMessageHop 0)).traps
      = [{ trapMessage 3 with map := 6, agent := 15 }] := by decide +kernel
theorem test_witness_TrapMessageSteps_post : mailRoom (user.supBox 2) [] 32 = true
    ∧ (let t := out (user.modDie 0 (fun d => { d with coll := [(2, [trapMessage 0])] })) (.collectorPost 0 2)
       (t.supBox 2).map (fun e => (e.len, e.body.toNat % 2 ^ 8)) = [(32, 0x20)] ∧ mget [] t.die0.coll 2 = []) := by decide +kernel

/-- Core 0 last beat at cycle 0; its die stands at cycle `now`. -/
def beats (now : Word) (f : Core → Core) : State := (user.modDie 0 (fun d => { d with cyc := now })).modMe f

theorem test_witness_HeartbeatSteps_beat : (beats 4096 id).fusedOff 0 = false ∧ (let t := out (beats 4096 id) (.heartbeat 0); (t.me.hbSeen, t.me.hbCyc)) = (true, 4096)
    ∧ (out (beats 4095 id) (.heartbeat 0)).me.hbSeen = false := by decide +kernel
theorem test_witness_HeartbeatSteps_window : (out (beats 8256 (fun c => { c with hbSeen := true, hbMiss := 1 })) (.heartbeatWindowEnd 0)).me.hbMiss = 0
    ∧ (out (beats 8256 (fun c => { c with poisoned := true })) (.heartbeatWindowEnd 0)).me.hbMiss = 1
    ∧ (let t := out (beats 8256 (fun c => { c with poisoned := true, hbMiss := 1, mem := [(5, 6)] })) (.heartbeatWindowEnd 0)
       (t.me.dead, t.me.mem)) = (true, [(5, 6)]) := by decide +kernel

/-- One copy of a paired message, of core 0 or of its twin, core 1; with what is compared. -/
def copyOf' (p what : Nat) : Paired :=
  { id := p, core := 0, twin := 1, sender := p, sent := 0, no := 4, opNo := 0, what := (3, 5, 8, what), act := .msg { message false with src := p, dst := 2 } }

/-- Cores 0 and 1 are a pair, with these copies at the router. -/
def pairs (l : List Paired) (now : Word) : State :=
  let s := (beats now (fun c => { c with twin := some 1, pairNo := 5, sent := 1, resv := [8] }))
  { (s.setCore 1 { s.me with twin := some 0, lpid := some 1 }) with paired := l }

theorem test_witness_HeartbeatSteps_pair : (pairs [copyOf' 0 7, copyOf' 1 7] 0).paired.find? (copyOf' 0 7).mates = some (copyOf' 1 7)
    ∧ (let t := out (pairs [copyOf' 0 7, copyOf' 1 7] 0) (.pairedOpArrival 0)
       (t.msgs.map (fun m => m.src), t.paired, mfind (t.core 0).matched 4, mfind (t.core 1).matched 4)) = ([0], [], some none, some none)
    ∧ (copyOf' 0 7).what ≠ (copyOf' 1 8).what ∧ (pairs [copyOf' 0 7, copyOf' 1 8] 0).paired.find? (copyOf' 0 7).mates = some (copyOf' 1 8)
    ∧ (pairs [copyOf' 0 7] 4096).paired.find? (copyOf' 0 7).mates = none := by decide +kernel

/-! Matrix and rule commands, replicas, barriers, checkpoints. -/

/-- A MACZ of tile 3 with TAG 7, failed at its push with a status or not. -/
def macz (fail : Nat) : MatCmd :=
  { w0 := BitVec.ofNat 64 (3 * 2 ^ 61 + 3 * 2 ^ 48), w1 := 0, w2 := 7, w3 := 0, fmt := none, cid := 0, fail := fail, range := some [], ring := 5, no := 0,
    pair := none, drop := false }

/-- It stands in core 0's queue, and tiles 3 and 4 hold a value. -/
def matrix (fail : Nat) : State :=
  (user.modMe (fun c => { c with mq := [macz fail], ring := [(5, { RingEntry.empty with v := true, mat := true })] })).modCluster 0 (fun c =>
    { c with tiles := [(3, [(0, 0x3F800000)]), (4, [(0, 1)])] })

theorem test_witness_MatrixSteps_start : (matrix 0).nextQueue 0 = some (0, 1) ∧ (macz 0).kind = 3 ∧ ((matrix 0).core 0).mq = [macz 0]
    ∧ ((matrix 0).modCore 0 (fun c => { c with mq := [] })).startFail 0 (mget 0 ((matrix 0).cluster 0).fmts 0) (macz 0) = none := by decide +kernel

theorem test_matrix_start : ((out (matrix 0) (.matrixCommandStart 0)).cluster 0).runs.map (fun r => (r.cidx, r.cmd, r.status)) = [(0, macz 0, 0)] ∧ ((out (matrix 0) (.matrixCommandStart 0)).core 0).mq = []
    ∧ ((out (matrix 0) (.matrixCommandStart 0)).cluster 0).mrr = (0, 1) := by decide +kernel
theorem test_witness_MatrixSteps_complete : (((out (matrix 0) (.matrixCommandStart 0)).cluster 0).runs.all (fun r => r.ended == none && r.status == 0 && r.cmd.kind == 3
    && ((out (matrix 0) (.matrixCommandStart 0)).runMatrix 0 r).1 == none && !(((out (matrix 0) (.matrixCommandStart 0)).runMatrix 0 r).2.2.2.core 0).poisoned)) = true
    ∧ ((out (matrix 0) (.matrixCommandStart 0)).cluster 0).runs.length = 1 := by decide +kernel
theorem test_macz : (let t := out (out (matrix 0) (.matrixCommandStart 0)) (.matrixCommandComplete 0 0)
    (t.me.cq, (t.cluster 0).tiles, mfind t.me.ring 5, (t.cluster 0).runs.length)) = ([7 + 3 * 2 ^ 40], [(4, [(0, 1)])], none, 0) := by decide +kernel
theorem test_witness_MatrixSteps_failed : ((out (matrix 3) (.matrixCommandStart 0)).cluster 0).runs.all (fun r => r.ended == none && r.status == 3
    && (mfind ((out (matrix 3) (.matrixCommandStart 0)).core 0).ring r.cmd.ring).isSome) = true ∧ ((out (matrix 3) (.matrixCommandStart 0)).cluster 0).runs.length = 1 := by decide +kernel
theorem test_matrix_failed : (let t := out (out (matrix 3) (.matrixCommandStart 0)) (.matrixCommandComplete 0 0)
    (t.me.cq, (t.cluster 0).tiles, (mfind t.me.ring 5).map (fun r => (r.st, r.cls, r.sub)))) = ([7 + 3 * 2 ^ 32 + 3 * 2 ^ 40],
      ((matrix 3).cluster 0).tiles, some (2, 0x0E, 3)) := by decide +kernel

/-- Units of home slices may reach main memory. -/
def openAll (s : State) (ms : List Nat) : State :=
  { open' s with access := (upTo 32).flatMap (fun t => ms.map (fun m => { target := t, master := m, part := 0, r := true, w := true, a := true })) }

/-- A rule command of core 0 with TAG 9 on slot 2. -/
def command (op n : Nat) : RuleCmd :=
  { id := 1, core := 0, ctx := 0, part := 0, cid := 0, w0 := BitVec.ofNat 64 (op * 2 ^ 56 + 2 * 2 ^ 32 + 9), w1 := 0x100000000, w2 := 0x6000, w3 := BitVec.ofNat 64 n,
    bad := false, held := false, gated := false, bank := false, done := [], status := 0, sums := (0, 0, 0, 0, 0), posted := false, taken := none,
    ready := false, no := 0, wasHeld := false, grp := none, spill := none }

/-- It is under way; slot 2 holds the image, main memory an empty block at 2^32. -/
def commanded (c : RuleCmd) : State :=
  let s := openAll user ((upTo 16).map reuMaster)
  let s := { s with cmds := [c] }
  (s.modPart 0 (fun q => { q with rls := 4 })).modRule 2 (fun z => { z with a := image })

theorem test_witness_RuleEngineSteps_update : (commanded (command 1 1)).cmdBy 1 = some (command 1 1) ∧ (command 1 1).op = 1
    ∧ (commanded (command 1 1)).rulePre (command 1 1) = 0 ∧ (commanded (command 1 1)).updateBefore (command 1 1) (blockVa 0x100000000 0x6000 0) = false
    ∧ okAnd ((commanded (command 1 1)).updateBlock (command 1 1) (blockVa 0x100000000 0x6000 0)) (fun q => q.2 == (0, 0, 0, 0)) = true := by decide +kernel
theorem test_reu_update : (out (commanded (command 1 1)) (.reuUpdate 1 0)).cmds.map (fun c => (c.done, c.sums.1)) = [([0], 1)]
    ∧ bread (out (commanded (command 1 1)) (.reuUpdate 1 0)).phys (0x100000000 + 6) 2 = 7 := by decide +kernel
theorem test_witness_RuleEngineSteps_done : ([{ command 1 1 with done := [0], sums := (1, 0, 0, 0, 0) }, { command 1 1 with gated := true }] : List RuleCmd).all (fun c =>
    (commanded c).rulePre c == 0 && (c.gated || c.done.length == c.nb) && decide (c.sums.2.1 ≤ (ruleOf ((commanded c).boundImage c)).dlim)
      && !(commanded c).silent 0 && ((commanded c).core 0).room 32 && (commanded c).posts.isEmpty) = true := by decide +kernel
theorem test_rule_update_completion : (out (commanded { command 1 1 with done := [0], sums := (1, 0, 0, 0, 0) }) (.ruleUpdateCompletion 1)).me.mbox.map (fun m => m.body.toNat)
    = [2 + 2 * 2 ^ 24 + 9 * 2 ^ 32 + 2 ^ 64 + 7 * 2 ^ 112] := by decide +kernel
theorem test_witness_RuleEngineSteps_invalid : (command 5 1).op ∉ [1, 2, 3, 0x10, 0x12, 0x14] ∧ ((commanded (command 5 1)).core 0).room 32 = true
    ∧ (out (commanded (command 5 1)) (.ruleInvalidOp 1)).me.mbox.map (fun m => m.body.toNat) = [2 + 2 ^ 8 + 9 * 2 ^ 32] := by decide +kernel
theorem test_witness_RuleEngineSteps_short : ((commanded (command 2 1)).makeTape (command 2 1)).2.silent 0 = false
    ∧ (((commanded (command 2 1)).makeTape (command 2 1)).2.core 0).room 16 = true ∧ ((commanded (command 3 1)).reverse (command 3 1)).2.2.silent 0 = false
    ∧ (((commanded (command 3 1)).reverse (command 3 1)).2.2.core 0).room 16 = true ∧ (commanded (command 2 1)).rulePre (command 2 1) ≠ 0
    ∧ (commanded (command 3 1)).rulePre (command 3 1) ≠ 0 := by decide +kernel

/-- An RDREG of one block; `key` with a digest key. -/
def registers (key : Bool) : State :=
  (commanded { command 0x10 1 with w0 := BitVec.ofNat 64 (0x10 * 2 ^ 56 + 2 ^ 48 + 9) }).modPart 0 (fun q => { q with key := if key then some (1, 2) else none })

theorem test_witness_RuleEngineSteps_register : (registers true).cmds.all (fun c => c.op == 0x10 && !c.regBad && c.on
    && (((registers true).regBlocks c (1, 2) (upTo c.nb)).2.2.core 0).room 16 && !((registers true).regBlocks c (1, 2) (upTo c.nb)).2.2.silent 0) = true
    ∧ ((registers true).part 0).key = some (1, 2) ∧ ((registers false).part 0).key = none := by decide +kernel
theorem test_witness_RuleEngineSteps_deregister : ((registers false).regBlocks { command 0x10 1 with w0 := BitVec.ofNat 64 (0x10 * 2 ^ 56 + 9) } (0, 0) [0]).1 = 0
    ∧ ({ command 0x10 1 with w0 := BitVec.ofNat 64 (0x10 * 2 ^ 56 + 9) } : RuleCmd).on = false ∧ (command 0x10 0).regBad = true := by decide +kernel
theorem test_rdreg : ((out (registers true) (.rdregCompletion 1)).slice 0).dig.map (fun d => (d.part, d.page)) = [(0, 0x100000)]
    ∧ (out (registers false) (.rdregCompletion 1)).me.mbox.map (fun m => m.body.toNat / 2 ^ 8 % 2 ^ 8) = [3] := by decide +kernel

/-- An RDCMP of rank 0 of two in group 8, with the other rank's digest. -/
def compares (taken : Option (BitVec 128)) (other : BitVec 128) : State :=
  let c : RuleCmd := { command 0x12 0 with w0 := BitVec.ofNat 64 (0x12 * 2 ^ 56 + 9), w1 := 8, w2 := BitVec.ofNat 64 (2 ^ 8 + 6 * 2 ^ 32), taken := taken }
  let s := (commanded c).modPart 0 (fun q => { q with grants := [{ first := 8, count := 1, kind := 4, base := 0 }] })
  { (s.modMe (fun c => { c with resv := [32] })) with
      peers := [{ part := 0, group := 8, tag := 9, rank := 1, n := 2, count := 0, elems := [], pair := (other, 6) }],
      access := s.access ++ [{ target := 0x2000, master := 0, part := 0, r := false, w := true, a := false }] }

theorem test_witness_ReplicaSteps_take : (compares none 0).cmds.all (fun c => c.op == 0x12 && !c.posted && c.taken == none
    && (compares none 0).cmds.all (fun d => !(decide (d.id < c.id)))) = true ∧ (compares none 0).cmds.length = 1 := by decide +kernel
theorem test_witness_ReplicaSteps_compare : (compares (some 0) 0).cmds.all (fun c => (compares (some 0) 0).compared c 0 == some (0, 0, 0)) = true
    ∧ (compares (some 0) 1).cmds.all (fun c => ((compares (some 0) 1).compared c 0).isSome) = true ∧ (compares (some 0) 0).silent 0 = false
    ∧ (compares (some 0) 0).cmds.all (fun c => c.spill == none && !c.bad && c.grp == ((compares (some 0) 0).core 0).group.map (fun g => (g.launch, g.index))) = true := by decide +kernel
theorem test_rdcmp : (out (compares none 0) (.rdcmpEnd 1)).cmds.map (fun c => c.taken) = [some 0]
    ∧ (let t := out (compares (some 0) 0) (.rdcmpEnd 1); (t.cmds.length, t.me.resv, (t.part 0).shut, (t.part 0).lastStep)) = (0, [], false, (6, true))
    ∧ (let t := out (compares (some 0) 1) (.rdcmpEnd 1); ((t.part 0).shut, t.me.diverge.length)) = (true, 1) := by decide +kernel

/-- The same RDCMP, pushed by words 5 to 8 of a record whose last ones are not zero, or one whose context has been saved. -/
def compares' (bad : Bool) : State :=
  let s := compares (some 0) 0
  { s with cmds := s.cmds.map (fun c => { c with bad := bad, spill := if bad then none else some (1, 0x2000) }) }

theorem test_rdcmp_bad : (let t := out (compares' true) (.rdcmpEnd 1)
    (t.cmds.length, t.me.mbox.map (fun m => m.body.toNat / 2 ^ 8 % 2 ^ 8), (t.part 0).lastStep)) = (0, [1], ((compares none 0).part 0).lastStep) := by decide +kernel
theorem test_rdcmp_spilled : (let t := out (compares' false) (.rdcmpEnd 1)
    (t.me.mbox, bread t.me.mem 0x3000 1, bread t.me.mem 0x3004 4, bread t.me.mem 0x3108 1)) = ([], 1, 40, 8) := by decide +kernel

/-- A collective of a kind over two FP32 elements at 2^32 between two ranks; this one is rank 0. -/
def collective (kind : Nat) (ready : Bool) : State :=
  let c : RuleCmd := { command 0x14 0 with w0 := BitVec.ofNat 64 (0x14 * 2 ^ 56 + kind * 2 ^ 48 + 9), w1 := 8, w2 := BitVec.ofNat 64 (2 ^ 8 + 2 * 2 ^ 32), w3 := 0x100000000, ready := ready }
  let s := ((openAll user [179 * 16])).modPart 0 (fun q => { q with grants := [{ first := 8, count := 1, kind := 4, base := 0 }] })
  { s with cmds := [c], phys := bwrite [] 0x100000000 4 0x3F800000, access := s.access ++ [{ target := 0x2000, master := 0, part := 0, r := false, w := true, a := false }],
           peers := [{ part := 0, group := 8, tag := 9, rank := 1, n := 2, count := 2, elems := [0x40000000, 0x3F800000], pair := (0, 0) }] }

theorem test_witness_ReplicaSteps_collective : [0, 1, 2].all (fun kind => (collective kind false).cmds.all (fun c => c.op == 0x14 && c.ckind == kind
    && (collective kind false).collPre c == 0 && (collective kind false).gathered c && okAnd ((collective kind false).readElems c 0 c.high) (fun q => q.1 == [0x3F800000, 0]
      && okAnd (q.2.cmdWrites ((collective kind false).portAgent c) [(0x100000000, 4, 0)]) (fun _ => true)))) = true := by decide +kernel
theorem test_collectives : [bread (out (collective 0 false) (.allReduce 1)).phys 0x100000000 8, bread (out (collective 1 false) (.allGather 1)).phys 0x100000000 8,
    bread (out (collective 2 false) (.reduceScatter 1)).phys 0x100000000 8]
    = [0x3F80000040400000, 0x3F8000003F800000, 0x40400000] := by decide +kernel
theorem test_witness_ReplicaSteps_done : (collective 0 true).cmds.all (fun c => c.ready) = true ∧ ((collective 0 true).core 0).room 16 = true
    ∧ (out (collective 0 true) (.collectiveCompletion 1)).peers = [] ∧ (out (collective 0 true) (.collectiveCompletion 1)).me.mbox.length = 1 := by decide +kernel

/-- Every member of channel 0x23 has arrived; of a level. -/
def arrivedAll (level : Nat) : State :=
  let s := (barrier 0).modPart 0 (fun q => { q with n := 1 })
  (s.modMe (fun c => { c with ulog := [{ line := 5, old := 0 }] })).modChan 0x23 (fun c =>
    { c with members := [0], level := level, arr := [{ lpid := 0, step := false, core := 0, bound := 0 }] })

theorem test_witness_BarrierCheckpointSteps_release : (arrivedAll 0).canRelease 0x23 = true ∧ (arrivedAll 1).canRelease 0x23 = true
    ∧ ((arrivedAll 1).chan 0x23).level ≠ 3 ∧ (arrivedAll 1).physOf 0 0 = some 0 := by decide +kernel
theorem test_barrier_release : (let t := out (arrivedAll 0) (.barrierRelease 0x23); ((t.chan 0x23).rcnt, (t.chan 0x23).arr.length, t.me.ulog.length)) = (1, 0, 1)
    ∧ (out (arrivedAll 1) (.barrierRelease 0x23)).me.ulog = [] := by decide +kernel

/-- The checkpoint configuration of partition 0. -/
def checkpoint (c : Ckpt) : State := { (openAll user ((upTo 32).map (fun sl => sl / 16 * 4096 + (160 + sl % 16) * 16 + 14))) with time := 100 }.modPart 0 (fun q => { q with ckpt := c })

theorem test_witness_BarrierCheckpointSteps_timer : ([{ Ckpt.off with ticks := 100 }, { Ckpt.off with ticks := 100, active := true }] : List Ckpt).map (fun c =>
    (let t := out (checkpoint c) (.checkpointTimer 0); ((t.part 0).ckpt.armed, (t.part 0).ckpt.dropped, (t.part 0).ckpt.last)))
    = [(true, 0, 0), (false, 1, 100)] := by decide +kernel
theorem test_witness_BarrierCheckpointSteps_copy : (let c : Ckpt := { Ckpt.off with active := true, region := 0x100000000, todo := [(0, (0, [(5, 6)]))] }
    (mfind ((checkpoint c).part 0).ckpt.todo 0).isSome && ((checkpoint c).ckptPut (ckptAgent 0 0 0) ((upTo 6).map (fun k =>
      (c.base + 0x10000 + 4096 * k, 4096, bread [(5, 6)] (4096 * k) 4096)))).1) = true := by decide +kernel
theorem test_witness_BarrierCheckpointSteps_end : (let t := out (checkpoint { Ckpt.off with active := true, region := 0x100000000 }) (.checkpointComplete 0)
    ((t.part 0).ckpt.active, (t.part 0).ckpt.half, (t.part 0).ckpt.seq)) = (false, 1, 1) := by decide +kernel

/-! Launches, swaps, entries to the handler, save and restore, the platform. -/

/-- A launch of partition 0 with LID 9: entry 0x800, ARG 6, one group; with more of its words. -/
def launch (level : Nat) (w5 w7 : Word) : Launch :=
  { newLaunch 0 [0x800, BitVec.ofNat 64 (1 + level * 2 ^ 36 + 9 * 2 ^ 48 + (if w5 = 0 then 0 else 2 ^ 60)), 0x100000000, 0, 2 ^ 52, w5, 6, w7] 0 0 true with winRead := w5 == 0 }

/-- Core 0 is idle and its partition holds these launches. -/
def holding (ls : List Launch) : State :=
  let s := openAll (machine { ctx 0 [] with run := .stopped .idle } []) [176 * 16]
  { s with access := s.access.map (fun (r : AccessRow) => { r with part := 16 }) }.modPart 0 (fun q => { q with launches := ls, serial := 5 })

/-- The host has written this record. -/
def inbox (l : Launch) : State :=
  (holding []).modPart 0 (fun q => { q with inbox := [(0, l.words)], tail := 1 })

theorem test_witness_LaunchSteps_intake : ([(launch 0 0 0, false), ({ launch 0 0 0 with words := [0x801, BitVec.ofNat 64 (1 + 9 * 2 ^ 48), 0, 0, 0, 0, 6, 0] }, true)] :
    List (Launch × Bool)).all (fun x =>
      (let s := inbox x.1
       let l := newLaunch 5 (mget [] (s.part 0).inbox 0) (s.part 0).cid 0 true
       !(s.part 0).stopped && !l.privileged && s.illFormed 0 l == x.2 && (upTo 4).all (fun i => !(l.predV i)))) = true := by decide +kernel
theorem test_intake : ((out (inbox (launch 0 0 0)) (.inboxRecordIntake 0)).part 0).launches.map (fun l => (l.lid, l.serial)) = [(9, 5)]
    ∧ ((out (inbox (launch 0 0 0)) (.inboxRecordIntake 0)).part 0).head = 1
    ∧ ((out (inbox { launch 0 0 0 with words := [0x801, BitVec.ofNat 64 (1 + 9 * 2 ^ 48), 0, 0, 0, 0, 6, 0] }) (.inboxRecordIntake 0)).part 0).verds = [(9, 3)] := by
  decide +kernel
theorem test_witness_LaunchSteps_window : (holding [launch 0 0x100000000 0]).byLid 0 9 = some (launch 0 0x100000000 0) ∧ (launch 0 0x100000000 0).free = true
    ∧ (launch 0 0x100000000 0).nw = 1 ∧ ((holding [launch 0 0x100000000 0]).readWindows (launch 0 0x100000000 0) 1 0).toOption.isSome = true := by decide +kernel
theorem test_window_table : ((out (holding [launch 0 0x100000000 0]) (.windowTableRead 0 9)).part 0).launches.map (fun l => l.winRead) = [true] := by decide +kernel
theorem test_witness_LaunchSteps_age : { launch 0 0 0 with elig := 2 ^ 20 }.eligible = true
    ∧ ((out (holding [{ launch 0 0 0 with elig := 2 ^ 20 + 3 }]) (.ageingStep 0 9)).part 0).launches.map (fun l => (l.elig, l.aged)) = [(3, 1)] := by decide +kernel
theorem test_witness_LaunchSteps_start : (holding [launch 0 0 0]).nextLaunch 0 = some (launch 0 0 0) ∧ (launch 0 0 0).flag 0 = false ∧ (launch 0 0 0).flag 1 = false := by
  decide +kernel

/-- The launch has started. -/
def running (l : Launch) : State := holding [{ l with started := true, shares := dealShares l.g [[0]] }]

theorem test_launch_start : ((out (holding [launch 0 0 0]) (.launchStart 0)).part 0).launches = ((running (launch 0 0 0)).part 0).launches := by decide +kernel
theorem test_deal : (dealShares 5 [[0], [1]]).map (fun h => (h.unit, h.next, h.stop)) = [([0], 0, 3), ([1], 3, 5)] := by decide +kernel
theorem test_witness_LaunchSteps_group : ((running (launch 0 0 0)).nextShare 0 0).map (fun x => (x.1.gang, x.2.unit, x.1.pairs)) = some (1, [0], [])
    ∧ (running (launch 0 0 0)).partOf 0 = some 0 ∧ (running (launch 0 0 0)).physOf 0 0 = some 0 ∧ ((running (launch 0 0 0)).core 0).group = none := by decide +kernel
theorem test_group_start : (let t := out (running (launch 0 0 0)) (.groupStart 0)
    (t.me.ctl.pc, t.me.ctl.sreg 30, t.me.ctl.sreg 31, t.me.ctl.run, t.me.group.map (fun g => (g.launch, g.index)))) = (0x800, 6, 0, .ready, some (0, 0)) := by decide +kernel
theorem test_group_start_cache : ([true, false].map (fun b => (let s := (running (launch 0 0 0)).modCluster 0 (fun k =>
    { k with wcache := [{ cid := 0, va := 64, bits := 5 }], begun := if b then [(0, 0)] else [] })
    ((out s (.groupStart 0)).cluster 0).wcache.length))) = [1, 0] := by decide +kernel
theorem test_witness_LaunchSteps_complete : (let s := holding [{ launch 0 0 0 with started := true, exits := 1, verd := 1 }]
    ((out s (.launchComplete 0 9)).part 0).launches = [] ∧ mget 0 ((out s (.launchComplete 0 9)).part 0).verds 9 = 1) := by decide +kernel

/-- Core 0 runs group 0 of the launch, which has run so long, beside other launches. -/
def grouped (l : Launch) (ran : Nat) (others : List Launch) (f : Core → Core) : State :=
  (((running l).modPart 0 (fun q => { q with launches := q.launches ++ others })).modMe (fun c =>
    { c with ctl := ctx 0 [], group := some { launch := l.serial, index := 0, ran := ran, trig := false, passed := false, replay := false } })).modMe f

/-- A launch of a higher level. -/
def urgent : Launch := { launch 3 0 0 with serial := 1 }

theorem test_witness_SwapSteps_slice : ((grouped (launch 0 0 3000) 3000 [urgent] id).runsLaunch 0).isSome = true ∧ (launch 0 0 3000).slice = 3000
    ∧ (launch 0 0 3000).level < urgent.level ∧ urgent.eligible = true
    ∧ (let t := out (grouped (launch 0 0 3000) 3000 [urgent] id) (.sliceExpiry 0); (t.me.swapping, t.me.preempt)) = (true, some 1)
    ∧ (let t := out (grouped (launch 0 0 0) 0 [urgent] (fun c => { c with ctl := { ctx 0 [] with run := .waiting } })) (.sliceExpiry 0)
       (t.me.swapping, t.me.preempt)) = (true, some 4) := by decide +kernel

/-- The wait of core 0 has been counted past LIM. -/
def longWait (others : List Launch) : State := grouped (launch 0 0 0) 0 others (fun c => { c with counted := true, twt := 10, waited := 10 })

theorem test_witness_SwapSteps_wait : (let t := out (longWait [urgent]) (.longWaitExpiry 0); (t.me.swapping, t.me.preempt)) = (true, some 3)
    ∧ (let t := out (longWait []) (.longWaitExpiry 0); (t.me.swapping, t.me.noCount)) = (false, true) := by decide +kernel
/-- Group 4 of launch 0, swapped out, its context saved by CORE.MSB. -/
def outside : Swapped :=
  { group := { launch := 0, index := 4, ran := 9, trig := false, passed := false, replay := false }, by' := 7, saved := true, base := 0,
    diverge := [], returned := [], twin := none, pairNo := 1, matched := [], snap := none, repeating := false, again := none }

theorem test_witness_SwapSteps_resume : (let s := (holding []).modMe (fun c => { c with hvec := 0x200, swaps := [outside] })
    let t := out s (.swapResume 0)
    (s.swappedCore 0, s.idleCore 0, t.me.swaps.length) = (false, true, 0)
      ∧ (t.me.group.map (fun g => (g.index, g.ran)), t.me.handler, t.me.cause, t.me.ctl.pc) = (some (4, 0), some 0, 0x11, 0x200)) := by decide +kernel

/-- Activity 5 is being abandoned, with one held entry. -/
def abandoned : State := active 0 2 1 [(0, 0)]

theorem test_witness_SwapSteps_compensate : ((abandoned.die 0).chestBy 1).isSome = true ∧ ((abandoned.die 0).chest.all (fun e => abandoned.runnable e)) = true
    ∧ (abandoned.core 0).freeHelperNo = some 1 ∧ abandoned.physOf 0 0 = some 0 := by decide +kernel
theorem test_compensation : (let x := (out abandoned (.compensationStart 0 1)).me.context 1; (x.pc, x.sreg 1, x.sreg 2, x.sreg 3, x.comp)) = (0x800, 5, 5, 1, some 1) := by decide +kernel

/-- What an entry to the handler leaves of the first clauses. -/
def entries (t : State) : Option Nat × Word × Word × Word := (t.me.handler, t.me.cause, t.me.epc, t.cx.pc)

theorem test_witness_HandlerEntrySteps_preempt : (user.modMe (fun c => { c with preempt := some 2 })).preemptReady 0 = true
    ∧ entries (out (user.modMe (fun c => { c with preempt := some 2 })) (.preemptEntry 0)) = (some 0, 0x20F, 0x400, 0x200) := by decide +kernel

/-- Ring entry 3 of core 0 holds an unreported fault. -/
def faulted : State := user.modMe (fun c => { c with ring := [(3, { RingEntry.empty with v := true, st := 2, cls := 3, sub := 1, info := 9, told := false })] })

theorem test_witness_HandlerEntrySteps_late : (faulted.core 0).lateFault.isSome = true ∧ (faulted.core 0).atBoundary 0 = true ∧ (faulted.core 0).replay = none
    ∧ (faulted.core 0).handler = none
    ∧ entries (out faulted (.lateFaultEntry 0)) = (some 0, 0x103, 0x400, 0x200) := by decide +kernel
theorem test_witness_HandlerEntrySteps_diverge : (let s := user.modMe (fun c => { c with diverge := [(0, 2, 7)] })
    (s.core 0).atBoundary 0 = true ∧ (s.core 0).saved = false ∧ (s.core 0).handler = none ∧ entries (out s (.divergeEntry 0)) = (some 0, 0x210, 0x400, 0x200)) := by decide +kernel

/-- A resume message for the parked context 0 of core 0, with INFO 5. -/
def resumes : State :=
  { (user.modCx (fun x => { x with run := .stopped .parked })) with
    msgs := [{ message false with kind := 1, dst := 0, len := 16, body := BitVec.ofNat 512 (5 * 2 ^ 64) }] }

theorem test_witness_HandlerEntrySteps_resume : resumes.msgs.all (fun m => resumes.refusal m == 0 && resumes.inTurn m 0 && !(m.word 0).getLsbD 8 && m.target == 0) = true
    ∧ (resumes.core 0).handler = none ∧ entries (out resumes (.resumeMessage 0)) = (some 0, 0x11, 0x400, 0x200)
    ∧ (out resumes (.resumeMessage 0)).me.info = 5 := by decide +kernel
theorem test_resume_reserved : entries (out ((resumes.modCx (fun x => { x with run := .stopped .reserved })).modMe (fun c => { c with stopPc := some 0x300 }))
    (.resumeMessage 0)) = (some 0, 0x11, 0x300, 0x200) := by decide +kernel

/-- Cores 0 and 1 are a gang of which core 0 is asked to make way. -/
def ganged : State :=
  let s := (pair true 3).modCore 1 (fun c => { c with meet := none, ctl := ctx 0 [], memb := 3, hvec := 0x200 })
  s.modCore 0 (fun c => { c with memb := 3, preempt := some 2 })

theorem test_witness_HandlerEntrySteps_gang : ganged.preemptReady 0 = true ∧ ganged.mates 0 = [1]
    ∧ (let t := out ganged (.preemptEntry 0); [(t.core 0).handler, (t.core 1).handler]) = [some 0, some 0] := by decide +kernel

/-- CORE.MSB of core 0 with OP and BASE. -/
def saves (op base : Nat) (f : Core → Core) : State :=
  user.modMe (fun c => f { c with msb := BitVec.ofNat 64 (op + base), mbox := [eventEntry 16 5], cq := [7] })

theorem test_witness_SaveRestoreSteps_save : msbFits ((saves 1 0x3FF000 id).core 0).msbBase = false ∧ msbFits ((saves 1 0x2000 id).core 0).msbBase = true
    ∧ (saves 1 0x2000 id).saveReady 0 = true ∧ ((saves 1 0x2000 id).core 0).msb.toNat % 8 = 1 := by decide +kernel
theorem test_save_refused : (out (saves 1 0x3FF000 id) (.msbSave 0)).me.mbox.length = 1 ∧ (out (saves 1 0x3FF000 id) (.msbSave 0)).me.msb ≠ (saves 1 0x3FF000 id).me.msb := by
  decide +kernel
theorem test_witness_SaveRestoreSteps_restore : msbFits ((saves 2 0x2000 id).core 0).msbBase = true
    ∧ ((saves 2 0x2000 (fun c => { c with mbox := [], cq := [] })).core 0).mbox = [] ∧ (out (saves 2 0x2000 id) (.msbRestore 0)).me.mbox.length = 1 := by decide +kernel
theorem test_restore : (let t := out (saves 2 0x2000 (fun c => { c with mbox := [], cq := [], mem := [(0x2000, 0x41), (0x3001, 2)] })) (.msbRestore 0)
    (t.me.shadow.tsw, t.me.cq.length)) = (0x41, 2) := by decide +kernel
theorem test_witness_SaveRestoreSteps_l2p : user.physOf 0 1 = none ∧ ((out user (.l2pRemap 0 1 0x7)).part 0).l2p = [(0, 0x8000000000000000), (1, 7)]
    ∧ (out user (.l2pRemap 0 1 0x8000000000000001)).physOf 0 1 = some 1 ∧ ((out user (.l2pRemap 0 1 0x8000000000000001)).core 1).lpid = some 1
    ∧ user.partOf 1 = some 0 ∧ user.fusedOff 1 = false
    ∧ (user.modCluster 0 (fun k => { k with cmask := 2 })).fusedOff 1 = true := by decide +kernel
theorem test_witness_SaveRestoreSteps_rls : (let t := out (rules 0 2 true image) (.partRlsWrite 0 1); ((t.part 0).rls, t.rule 2)) = (1, Slot.fresh) := by decide +kernel

/-- Cluster 0 has no work; as granted, in a state of power, idle so long. -/
def idle (q : Option Nat) (p : Power) (n : Nat) : State :=
  ((machine { ctx 0 [] with run := .stopped .idle } [(5, 6)]).modCluster 0 (fun c => { c with part := q, power := p, idle := n, mem := [(0x01000000, 1)] }))

theorem test_witness_PlatformSteps_cluster : (idle none .run 0).clusterIdle 0 = true
    ∧ (let t := out (idle none .run 0) (.clusterScrub 0); ((t.cluster 0).mem, t.me.mem)) = ([], [])
    ∧ ((out (idle (some 0) .run 250000) (.clusterClkoff 0)).cluster 0).power = .clkoff
    ∧ (let t := out (idle (some 0) .clkoff 0) (.clusterGate 0); ((t.cluster 0).power, t.me.mem)) = (.gated, []) := by decide +kernel
theorem test_witness_PlatformSteps_tick : (let s := { (user.modPart 0 (fun q => { q with svct := 5, groups := 4, below := 2 })) with time := 250000 }
    let t := out s .serviceControllerTick; ((t.part 0).below, (t.part 0).groups, t.secure.ticked)) = (3, 0, 250000) := by decide +kernel
theorem test_witness_PlatformSteps_grant : (let t := out ((idle (some 0) .run 0).modCluster 0 (fun c => { c with moving := some 1 })) (.borderMoveGrant 0)
    ((t.cluster 0).part, (t.cluster 0).moving, t.me.mem)) = (some 1, none, []) ∧ (idle (some 0) .run 0).unitsBusy 0 = false := by decide +kernel
theorem test_witness_PlatformSteps_clock : (out user (.clockStep 0 13)).die0.err = true
    ∧ (out (user.modDie 0 (fun d => { d with err := true })) (.clockStep 0 (2 ^ 32 + 4))).die0.err = false ∧ (out (user.modDie 0 (fun d => { d with cap := 3 })) (.clockStep 0 4)).die0.want = some 4
    ∧ (let t := out user (.clockStep 0 12); (t.die0.set, t.die0.relock)) = (12, true)
    ∧ (let t := out { (user.modDie 0 (fun d => { d with relock := true })) with time := 500 } (.clockRelockDone 0); t.die0.relock) = false := by decide +kernel
theorem test_witness_PlatformSteps_power : [3401, 3400, 3100, 3099].map (fun w => (let t := out { user with time := 250000 } (.powerSample w); (t.die0.set, t.die0.cap, t.secure.calm)))
    = [(9, 9, 0), (10, 12, 0), (10, 12, 0), (10, 12, 1)]
    ∧ (let t := out { (user.modDie 0 (fun d => { d with cap := 9 })) with time := 250000, secure := { Secure.fresh with calm := 15 } } (.powerSample 3099); t.die0.cap) = 10 := by
  decide +kernel
theorem test_witness_PlatformSteps_heat : [94, 95, 99, 100].map (fun c => (out (user.modDie 0 (fun d => { d with hot := c < 100 })) (.thermalStepdown 0 c)).die0.hot)
    = [false, true, true, true] ∧ (out user (.thermalStepdown 0 100)).die0.set = 9 ∧ (out user (.thermalTrip 0 115)).secure.trip = some 0
    ∧ (out user (.thermalTrip 0 115)).cores = [] ∧ (out user (.thermalTrip 0 114)).secure.trip = none := by decide +kernel

theorem test_witness_ResetSecuritySteps_reset : (let s := { user with phys := [(5, 6), (0x8000000000000, 7)], time := 9, seq := 4 }
    ((out s .coldReset).phys.length, (out s .coldReset).time, (out s .warmReset).time, (out s .warmReset).seq) = (34, 0, 9, 4)
      ∧ ((out s .lossOfPower).phys, (out s .lossOfPower).power) = ([(0x8000000000000, 7)], false)) := by decide +kernel
theorem test_witness_ResetSecuritySteps_scrub : (let s := { user with phys := [(5, 6), (0x1005, 7), (0x3FFFFF0000, 1)] }
    let t := out s (.hbmScrubChunk 0); (memWf s.phys, s.journal 0, t.phys, t.journal 0))
    = (true, some (0, 0), [(0x1005, 7), (0x3FFFFF0000, 1), (0x3FFFFF0001, 1)], some (0, 1)) := by decide +kernel
theorem test_witness_ResetSecuritySteps_zero : (let s := { user with phys := [(5, 6), (0x1005, 7)], ranges := [{ target := 0, base := 0, limit := 2 ^ 20, part := 0, only := none, next := some 3 }] }
    let t := out s (.rangeZeroing 0); (t.phys, t.ranges.map (fun r => (r.part, r.next)))) = ([(0x1005, 7)], [(3, none)]) := by decide +kernel
theorem test_witness_ResetSecuritySteps_firmware : { user with secure := { Secure.fresh with staged := some (3, 8) } }.secure.staged = some (3, 8)
    ∧ (Config.signed 3 8 = false ∨ Config.signed 3 8 = true) := ⟨by decide +kernel, by cases Config.signed 3 8 <;> simp⟩
theorem test_witness_ResetSecuritySteps_session : mfind user.secure.sessions 4 = none ∧ (mfind (out user (.securedSessionOpen 4)).secure.sessions 4).isSome = true
    ∧ mfind (out (out user (.securedSessionOpen 4)) (.securedSessionClose 4)).secure.sessions 4 = none
    ∧ user.registered 0 = 0 ∧ mfind (out user (.keyDelivery 0 4 1 2)).secure.keyResults 4 = some 3
    ∧ (let s := { user with secure := { Secure.fresh with keyGroups := [(4, (8, 3))] } }
       let t := out (out s (.securedSessionOpen 4)) (.keyDelivery 0 4 1 2)
       let u := out t (.keyDelivery 0 4 1 2)
       t.secure.keyAsks = [4] ∧ ((u.part 0).key, (u.part 0).grants.map (fun g => (g.first, g.kind, g.base)), mfind u.secure.keyResults 4, u.secure.keyAsks)
      = (some (1, 2), [(8, 4, 3)], some 0, [])) := by decide +kernel
theorem test_witness_ResetSecuritySteps_flr : (user.part 0).stopped = false ∧ (let t := out user (.functionLevelReset 0); ((t.part 0).stopped, t.flrQuiet 0)) = (true, true)
    ∧ (let t := out (out user (.functionLevelReset 0)) (.functionLevelReset 0); ((t.part 0).stopped, t.flrCores 0 == (upTo 9))) = (false, true) := by decide +kernel
theorem test_witness_ResetSecuritySteps_evidence : mfind { user with secure := { Secure.fresh with asks := [(2, 77)] } }.secure.asks 2 = some 77 := by decide +kernel

/-! Further hypotheses of the statements, and boundaries of the clauses that came last. -/

theorem test_witness_StepRunsDecoded_host : stepping.secure.halted = false ∧ (stepping.core 0).queued = false
    ∧ (({ stepping with sched := [] } : State).arrivalDies (.heartbeat 0)).all (fun d => !(stepping.die d).relock) = true
    ∧ ([1, 16].map (fun fn => match Sys2Proof.Machine.step { stepping with sched := [.host fn 0x4000 8 7] } with
      | .next t => (t.sched, (t.part (fn - 1)).tail, (t.part 5).tail)
      | _ => ([], 0, 1))) = [([], 7, 0), ([], 7, 0)] := by decide +kernel
theorem test_witness_GroupInstructionResults_numbered : (starts user (.exit (f 0 0)) (fun _ s1 => s1.me.lpid == some 0)
      && starts (user.modMe (fun c => { c with lpid := none })) (.exit (f 0 0)) (fun _ s1 => !s1.me.liveHelper && !(s1.engineWork s1.cur))) = true
    ∧ [out user (.exit (f 0 0)), out (user.modMe (fun c => { c with lpid := none })) (.exit (f 0 0))].map (fun t => t.cx.run)
      = [.stopped .idle, .stopped .noLogical] := by decide +kernel
theorem test_witness_BarrierArrivals_chan : (barrier 0).myChan 0x23 = 0x23 ∧ ((barrier 0).chan 0x23).part = 0 := by decide +kernel
theorem test_witness_SupervisorResults_pieces : starts (sup.modMe (fun c => { c with fifo := [request] })) (.cpqz (fp 2 3)) (fun _ s1 =>
    !(s1.piecesBad s1.cur 0x1000 [(0x350, 32, 0), (0x450, 8, 1)])) = true := by decide +kernel
theorem test_witness_CopyEngineSteps_land_rest : (read0.cluster 0).slots.all (fun z => z.req.op != 2 && z.total != 0 && !(read0.unmatched 0 z)
    && !(read0.pairDrops 0 z.req.pair z.req.drop)) = true ∧ (read0.cluster 0).slots.length = 1 := by decide +kernel
theorem test_witness_MessageDelivery_lanes : (mailed false id).msgHeld 0 1 = false ∧ (returned true).msgHeld 1 0 = false ∧ (returned false).msgHeld 1 0 = false := by
  decide +kernel
theorem test_witness_GlobalAccessSteps_lanes : ([0, 1] : List (BitVec 12)).all (fun c => !((asks c false).reqHeld (request' c)) && (asks c false).walks.isEmpty
      && firstOf (asks c false).greqs 0 (fun x => (request' c).meets x || (asks c false).sameLane x (request' c))) = true
    ∧ (asks 0 true).reqHeld (request' 0) = false ∧ (asks 0 true).walks.length = 1 ∧ (answers 1).reqHeld (request' 0) = false
    ∧ okAnd ((asks 0 true).serve (request' 0)) (fun _ => true) = true := by decide +kernel
theorem test_witness_MatrixSteps_go : ((out (matrix 0) (.matrixCommandStart 0)).cluster 0).runs.all (fun r =>
    match (out (matrix 0) (.matrixCommandStart 0)).matStep 0 r with
    | .go => true
    | _ => false) = true := by decide +kernel
theorem test_witness_ReplicaSteps_spilled : (let s := compares' false
    s.cmds.all (fun c => c.spill == some (1, 0x2000) && (s.compared c 0).isSome && !(s.piecesBad 0 0x3000 ((s.core 0).spillItem 0x2000 (eventEntry 32 8))))
      && !(s.silent 0)) = true := by decide +kernel

/-- A collective that has ended with a status. -/
def collEnded (st : Nat) : State :=
  let s := collective 0 true
  { s with cmds := s.cmds.map (fun c => { c with status := st }) }

theorem test_witness_ReplicaSteps_shut : [0, 3, 4, 5].map (fun st => (let t := out (collEnded st) (.collectiveCompletion 1)
    ((t.part 0).shut, t.cmds.length, t.me.mbox.map (fun m => m.body.toNat / 2 ^ 8 % 2 ^ 8))))
    = [(false, 0, [0]), (false, 0, [3]), (true, 0, [4]), (true, 0, [5])] ∧ (collEnded 4).silent 0 = false ∧ (collEnded 4).posts = [] := by decide +kernel

/-- A checkpoint with one block's copy to write, and a buddy on device 1 or none. -/
def buddied (b : BitVec 32) : State :=
  let s := (checkpoint { Ckpt.off with active := true, region := 0x100000000, buddy := b, todo := [(0, (0, [(5, 6)]))] }).modPart 0 (fun q =>
    { q with grants := [{ first := 8, count := 1, kind := 5, base := 3 }] })
  { s with access := s.access ++ [{ target := 0x2000, master := 160 * 16 + 14, part := 0, r := false, w := true, a := false }] }

theorem test_witness_BarrierCheckpointSteps_buddy : [0, 8].map (fun b => ((buddied b).ckptPut (ckptAgent 0 0 0) ((upTo 6).map (fun k =>
      (((buddied b).part 0).ckpt.base + 0x10000 + 4096 * k, 4096, bread [(5, 6)] (4096 * k) 4096)))).1) = [true, true]
    ∧ (buddied 8).buddyQueue 0 = some (515, (buddied 8).queueOf 515)
    ∧ (buddied 8).portBars (ckptAgent 0 0 0).master 0 (((buddied 8).queueOf 515).port % 8) = none
    ∧ (buddied 0).packets.any (fun x => x.buddyOf 0) = false := by decide +kernel
theorem test_checkpoint_buddy : (out (buddied 0) (.checkpointPageCopy 0 0)).packets = []
    ∧ (out (buddied 8) (.checkpointPageCopy 0 0)).packets.map (fun x => (x.queue, x.bytes.length, x.buddyOf 0))
      = List.replicate 6 (515, 4096, true) := by decide +kernel
theorem test_witness_SwapSteps_wanted : (grouped (launch 0 0 3000) 3000 [urgent] id).wanted 0 0 (launch 0 0 3000) true = true
    ∧ (longWait [urgent]).wanted 0 0 (launch 0 0 0) false = true ∧ (longWait []).wanted 0 0 (launch 0 0 0) false = false
    ∧ outside.group.replay = false ∧ (holding []).partOf 0 = some 0 := by decide +kernel
theorem test_witness_HandlerEntrySteps_unnumbered : (let s := (resumes.modCx (fun x => { x with run := .stopped .noLogical })).modMe (fun c => { c with lpid := none })
    (s.msgs.all (fun m => s.refusal m == 0 && s.inTurn m 0 && m.kind == 1 && m.target == 0), entries (out s (.resumeMessage 0)))) = (true, some 0, 0x11, 0, 0x200) := by
  decide +kernel
theorem test_witness_SaveRestoreSteps_pieces : (let s := saves 1 0x2000 id
    let u := (s.dropHelperAsm 0).spillCmds 0 0x2000
    u.piecesBad 0 0x2000 (u.areaBytes 0 ++ (u.core 0).spillBytes.map (fun x => (0x1000 + x.1, x.2)))) = false
    ∧ (let s := saves 2 0x2000 (fun c => { c with mbox := [], cq := [] })
       (s.restoreReads 0 0x2000).all (fun x => !(s.hardErr (.loc 0) x.1 x.2))) = true := by decide +kernel
theorem test_witness_PlatformSteps_relock : user.die0.want = none ∧ user.die0.set ≤ user.die0.cap := by decide +kernel

theorem test_witness_StepRunsDecoded_link : ({ stepping with sched := [] } : State).stepHolds (.heartbeat 0) = false := by decide +kernel
theorem test_witness_LaunchResults_way : starts (launching 0 0) (.launch (fp 2 3)) (fun _ s1 => !(s1.farDistributor s1.cur)) = true := by decide +kernel
/-- R385: a launch of a core of die 1 waits while die 0 relocks. -/
theorem test_far_distributor : ((user.modDie 0 (fun d => { d with relock := true })).farDistributor 4096, user.farDistributor 4096) = (true, false) := by decide +kernel
theorem test_witness_RuleInstructionResults_headers : starts (rules 0 2 true image) (.rlver (fp 2 3)) (fun _ s1 => (s1.part s1.myPart).rls.getLsbD 2
      && okAnd (s1.readImages 2 8 [false, true]) (fun _ => true)) = true
    ∧ starts (rules 0 2 false image) (.rlsw (fp 2 3)) (fun _ s1 => okAnd (s1.readImages 2 0x100 [true]) (fun u => okAnd (u.readImages 2 8 [false]) (fun _ => true))) = true
    ∧ starts (rules 0x1000 (BitVec.ofNat 64 (16 + 2 * 2 ^ 13 + 8 * 2 ^ 16)) false []) (.rlwr (fp 2 3)) (fun _ s1 => !(s1.partBad (.rule 2 true) 16 8)) = true
    ∧ starts (rules 0x1000 (BitVec.ofNat 64 (16 + 2 * 2 ^ 13 + 8 * 2 ^ 16)) false []) (.rlrd (fp 2 3)) (fun _ s1 => !(s1.hardErr (.rule 2 false) 16 8)) = true := by
  decide +kernel
/-- R361: a header with an uncorrectable error poisons the core that asks for it. -/
theorem test_rlver_poison : (out { rules 0 2 true image with errs := [{ store := .rule 2 true, addr := 4, hard := true }] } (.rlver (fp 2 3))).me.poisoned = true := by
  decide +kernel
theorem test_witness_GlobalAccessSteps_back : (answers 1).respHeld (request' 0) = false ∧ (answers 2).respHeld (request' 0) = false := by decide +kernel

/-- A message from core 0 to a core of die 1; a flit of row lane 0 has failed its CRC. -/
def crossing : State := { mailed false id with msgs := [{ message false with dst := 4096 }], replays := [(0, 1)] }

/-- R383: the message waits for the flit before it, and arrives after that has been sent again. -/
theorem test_witness_TrapMessageSteps_lane : (dieOf 0, dieOf 4096, mget 0 crossing.replays (siteOf 0 / 16)) = (0, 1, 1)
    ∧ (out crossing (.messageArrival 0)).msgs.length = 1 ∧ (out (out crossing (.sahdanCrcReplay 0)) (.messageArrival 0)).msgs.length = 0
    ∧ (out user (.sahdanCrcReplay 3)).replays = [(3, 1)] := by decide +kernel

/-- Cores 0 and 1 run one group of launch 0 as a pair, with a snapshot, and their stores differ; `again` in the repeat of the interval. -/
def differing (again : Bool) (snap : Bool) : State :=
  let s := pairs [copyOf' 0 7, copyOf' 1 8] 0
  let x : Context := { ctx 0 [(2, 99)] with pc := 0x600 }
  let put (c : Core) : Core :=
    { c with group := some { launch := 0, index := 0, ran := 0, trig := false, passed := false, replay := false }, repeating := again
             snap := if snap then some { ctl := x, bb := [], memb := 0, queue := [], due := [], ring := [] } else none
             mem := [(0x40, 1)], ulog := [{ line := 1, old := 5 }] }
  (({ s with clusters := user.clusters }.modCore 0 put).modCore 1 put).modPart 0 (fun q =>
    { q with launches := [launch 0 0 0], l2p := [(0, 0x8000000000000000), (1, 0x8000000000000001)], n := 2 })

theorem test_witness_HeartbeatSteps_failed : (differing false true).noRollback (copyOf' 0 7) = false ∧ ((differing false true).core 0).repeating = false
    ∧ (differing false false).noRollback (copyOf' 0 7) = true ∧ ((differing true true).core 0).repeating = true
    ∧ (differing false true).pairCores (copyOf' 0 7) = [0, 1] ∧ ((differing false true).launchOf 0).isSome = true
    ∧ mailRoom ((differing false true).supBox ((differing false true).supOf 0)) [] 16 = true ∧ (differing false true).posts = [] := by decide +kernel
/-- R366, R367: a rollback of both twins with STATUS 0; a failure in the repeat with STATUS 1; an impossible rollback with STATUS 2. -/
theorem test_pair_failed : [differing false true, differing true true, differing false false].map (fun s =>
      let t := (out s (.pairedOpArrival 0)).core 1
      (t.mem, t.ctl.pc, t.repeating)) = [([(0x40, 5)], 0x600, true), ([(0x40, 1)], 0x400, true), ([(0x40, 1)], 0x400, false)]
    ∧ [differing false true, differing true true, differing false false].map (fun s =>
      let t := out s (.pairedOpArrival 0)
      ((t.part 0).launches.map (fun l => (l.cause.toNat, l.verd)), (t.supBox (t.supOf 0)).map (fun e => e.body.toNat % 2 ^ 16)))
      = [([(4, 1)], [0x000E]), ([(4, 2)], [0x010E]), ([(12, 2)], [0x020E])] := by decide +kernel

/-- A drain of one row of tile 3 in FP32 to cluster memory, with its zeroing option, has been started. -/
def drains : State :=
  let m : MatCmd := { macz 0 with w0 := BitVec.ofNat 64 (2 * 2 ^ 61 + 3 * 2 ^ 48 + 2 ^ 60), w1 := 0x01001000 }
  (matrix 0).modCluster 0 (fun c => { c with runs := [{ cidx := 0, cmd := m, status := 0, fmt := 0, ended := none }] })

theorem test_witness_MatrixSteps_drain : (drains.cluster 0).runs.all (fun r => r.ended == none && r.status == 0 && r.cmd.kind == 2 && r.cmd.pair.isNone && !r.cmd.drop
      && !((drains.drained 0 r.fmt r.cmd).isEmpty) && (drains.drained 0 r.fmt r.cmd).all (fun x => inPrograms x.1 x.2.1)) = true ∧ drains.errs = [] := by decide +kernel
/-- R220: the row's first element, 1.0, stands at the destination. -/
theorem test_drain : bread ((out drains (.matrixCommandComplete 0 0)).cluster 0).mem 0x01001000 4 = 0x3F800000 := by decide +kernel

/-- Every member has arrived with a BSTEP at device level; the partition's slot 2 waits to exchange its banks. -/
def boundary (c : Ckpt) : State :=
  ((arrivedAll 3).modChan 0x23 (fun x => { x with arr := x.arr.map (fun a => { a with step := true }) })).modPart 0 (fun q => { q with ckpt := c, rls := 4 })
    |>.modRule 2 (fun z => { z with pend := true })

theorem test_witness_BarrierCheckpointSteps_boundary : ([Ckpt.off, { Ckpt.off with steps := 2 }, { Ckpt.off with steps := 1, active := true }, { Ckpt.off with armed := true }]
      : List Ckpt).all (fun c => (boundary c).canRelease 0x23 && ((boundary c).chan 0x23).level == 3 && ((boundary c).chan 0x23).arr.all (·.step)) = true := by decide +kernel
/-- R239, R368: the banks exchange; a release counts toward a checkpoint, or arms one, or is dropped while one is written. -/
theorem test_boundary : ([Ckpt.off, { Ckpt.off with steps := 2 }, { Ckpt.off with steps := 1 }, { Ckpt.off with steps := 1, active := true }] : List Ckpt).map (fun c =>
      let t := out (boundary c) (.barrierRelease 0x23)
      ((t.rule 2).active, (t.rule 2).pend, (t.part 0).ckpt.count, (t.part 0).ckpt.armed, (t.part 0).ckpt.dropped, t.me.ulog.length))
    = [(true, false, 0, false, 0, 0), (true, false, 1, false, 0, 0), (true, false, 0, true, 0, 0), (true, false, 0, false, 1, 0)] := by decide +kernel

/-- R322, R327: of two contexts that stand at a boundary the control context's DIVERGE entry comes first; one in its handler is passed over. -/
theorem test_witness_HandlerEntrySteps_first : (let s := (helper none).modMe (fun c => { c with diverge := [(1, 3, 9), (0, 2, 7)], hvec := 0x200 })
    ((s.core 0).diverge.filter (fun d => (s.core 0).atBoundary d.1), (entries (out s (.divergeEntry 0))).1, (out s (.divergeEntry 0)).me.diverge))
    = ([(1, 3, 9), (0, 2, 7)], some 0, [(1, 3, 9)]) := by decide +kernel
/-- R122: a core that the device does not have refuses as a dead one does. -/
theorem test_message_absent : (out { mailed false id with msgs := [{ message false with dst := 15 }] } (.messageArrival 0)).backs.map (fun m => m.status) = [2] := by
  decide +kernel

end Sys2Proof.Tests
end

section
/-! SUPPORT. What the shared operations keep: who runs, the issue of an instruction, states alike beside their contexts, links, every core's
memory and life, and steps that only keep account. -/

namespace Sys2Proof.Machine

/-! ### Fields of numbers -/

theorem bits_mod_word (x lo n : Nat) (h : lo + n ≤ 64) : bits (x % 2 ^ 64) lo n = x / 2 ^ lo % 2 ^ n := by
  unfold bits
  rw [show (64 : Nat) = lo + (64 - lo) from by omega, Nat.pow_add, Nat.mod_mul_right_div_self]
  exact Nat.mod_mod_of_dvd _ (Nat.pow_dvd_pow 2 (by omega))

theorem ofNat_bits (x lo n : Nat) : BitVec.ofNat n (bits x lo n) = BitVec.ofNat n (x / 2 ^ lo) := by
  apply BitVec.eq_of_toNat_eq
  simp [bits]

theorem wordsOf_getD (x : Nat) : ∀ n k, k < n → (wordsOf n x).getD k 0 = BitVec.ofNat 64 (x / 2 ^ (64 * k)) := by
  intro n
  induction n generalizing x with
  | zero => intro k hk; omega
  | succ n ih =>
    intro k hk
    cases k with
    | zero => simp [wordsOf]
    | succ k =>
      rw [wordsOf, List.getD_cons_succ, ih _ k (by omega), Nat.div_div_eq_div_mul, ← Nat.pow_add]
      congr 3; omega

/-! ### What the effects keep of who runs -/

/-- A fold of steps that each stay in a preorder stays in it. -/
theorem foldl_rel {α : Type} {R : State → State → Prop} (refl : ∀ s, R s s) (trans : ∀ {s t u}, R s t → R t u → R s u) (l : List α)
    (f : State → α → State) (h : ∀ s a, R s (f s a)) (s : State) : R s (l.foldl f s) := by
  induction l generalizing s with
  | nil => exact refl s
  | cons a l ih => exact trans (h s a) (ih (f s a))

theorem same_foldl {α : Type} (l : List α) (f : State → α → State) (h : ∀ s a, Same s (f s a)) (s : State) :
    Same s (l.foldl f s) := foldl_rel Same.refl Same.trans l f h s

theorem same_ite {c : Prop} [Decidable c] {s t u : State} (ht : Same s t) (hu : Same s u) : Same s (if c then t else u) := by
  split
  · exact ht
  · exact hu

theorem same_clearErr (s : State) (st : Store) (a n : Nat) : Same s (s.clearErr st a n) := same_ite (Same.refl s) ⟨rfl, rfl, rfl⟩

theorem same_correct (s : State) (p : Nat) (st : Store) (a n : Nat) : Same s (s.correct p st a n) := by
  unfold State.correct
  split
  · dsimp only
    split <;> exact ⟨rfl, rfl, rfl⟩
  · exact Same.refl s

theorem same_partFix (s : State) (p : Nat) (st : Store) (a n : Nat) : Same s (s.partFix p st a n) :=
  same_ite (Same.refl s) (same_correct _ _ _ _ _)

theorem same_putPieces (s : State) (p b : Nat) (ps : List (Nat × Nat × Nat)) : Same s (s.putPieces p b ps) :=
  (Same.modCore s _ _).trans (same_foldl _ _ (fun u _ => (same_partFix u _ _ _ _).trans (same_clearErr _ _ _ _)) _)

/-! ### Issuing without a ring entry -/

/-- An instruction that starts, takes no ring entry and discards no record, is issued as its effect says. -/
theorem issue_of_starts {i : Instr} {c : Code} {row : Row} {s s1 : State} {vs : Vals} (h : s.starts i = some (vs, s1))
    (hc : i.code = some c) (hrow : rowAt c.p1 c.maj c.min = some row) (hv : isVector c = false) (hw : isWaitInsn c = false) (eff : Eff) :
    s.readAll row.shape c.e i.opnds s.cx.win = .ok (vs, s1) ∧ targetName i = row.shape.target c.e i.opnds
      ∧ s.issue i eff = match s.perform row.shape c.e i.opnds eff none with
        | .ok (u, jump) => (closed u s.me).retire c (s.nextPc i) jump s.me.queued
        | .error st => s.stopped c st := by
  have hform : formOf i = some (c, row.shape) := by unfold formOf; rw [hc]; dsimp only; rw [hrow]
  have hopnds : i.opnds = row.shape.opnds c.min c.e := by unfold Instr.opnds; rw [hc]; dsimp only; rw [hrow]
  have htarget : targetName i = row.shape.target c.e i.opnds := by unfold targetName; rw [hform, hopnds]
  have hbegin : s.begin i = some s := by unfold State.begin; rw [hform]; simp [hv, hw]
  unfold State.starts at h
  rw [hform, hbegin] at h
  split at h
  swap; · cases h
  rename_i hissues
  unfold State.issues at hissues
  rw [hform] at hissues
  simp only [Bool.and_eq_true, Bool.not_eq_true'] at hissues
  obtain ⟨⟨⟨hwell, hlevel⟩, hbehind⟩, -⟩ := hissues
  have hlegal : (i.subcauses ++ subIf (c.barred row.shape s.who) 7).isEmpty = true := by
    unfold Instr.wellFormedFor Instr.wellFormed at hwell
    rw [hc] at hwell; dsimp only at hwell; rw [hrow] at hwell
    simp only [Bool.and_eq_true, Bool.not_eq_true', List.isEmpty_iff] at hwell
    rw [hwell.2, hwell.1]; rfl
  refine ⟨?_, htarget, ?_⟩
  · rw [hopnds]
    dsimp only at h
    split at h
    · cases h
    · rename_i hread; cases h; exact hread
  · unfold State.issue State.nextPc
    rw [hc]; dsimp only; rw [hrow, hopnds]; dsimp only
    rw [hlegal, hlevel]
    unfold State.issueWith
    simp only [Bool.not_true, Bool.false_eq_true, if_false, hw, hbehind, hv, Bool.false_and]
    cases s.perform row.shape c.e (row.shape.opnds c.min c.e) eff none <;> rfl

/-- What an effect does after the write of its result follows all else that performing it does. -/
theorem perform_after {u s1 w : State} {sh : Shape} {e : Fields} {o : Opnds} {eff : Eff} {vs : Vals} {d : Done} {ring : Option Nat}
    {g : State → State} {jump : Option Word} (hread : u.readAll sh e o u.cx.win = .ok (vs, s1)) (he : eff o vs s1 = .ok { d with after := g })
    (hw : u.perform sh e o (fun _ _ _ => .ok { d with after := fun t => t }) ring = .ok (w, jump)) :
    u.perform sh e o eff ring = .ok (g w, jump) := by
  unfold State.perform at hw ⊢
  rw [hread] at hw ⊢
  dsimp only at hw ⊢
  rw [he]
  dsimp only
  cases hres : d.res with
  | none => rw [hres] at hw; cases hw; rfl
  | some r =>
    rw [hres] at hw
    dsimp only at hw ⊢
    cases htarget : sh.target e o with
    | none => rw [htarget] at hw; cases hw; rfl
    | some n =>
      rw [htarget] at hw
      dsimp only at hw ⊢
      cases hdst : d.st.dst n r ring with
      | error st => rw [hdst] at hw; cases hw
      | ok t => rw [hdst] at hw; cases hw; rfl

/-! ### States alike beside their contexts -/

/-- The two states have the same cores beside their contexts and the order of issue, and the same device. -/
def Alike (s t : State) : Prop := (∀ p, (t.core p).rest = (s.core p).rest) ∧ { t with cores := [] } = { s with cores := [] }

theorem Quiet.alike {s t : State} (h : Quiet s t) : Alike s t := h.2

theorem Alike.symm {s t : State} (h : Alike s t) : Alike t s := ⟨fun p => (h.1 p).symm, h.2.symm⟩

theorem Alike.trans {s t u : State} (h : Alike s t) (g : Alike t u) : Alike s u := ⟨fun p => (g.1 p).trans (h.1 p), g.2.trans h.2⟩

theorem Alike.core {s t : State} (h : Alike s t) {α : Type} (g : Core → α) (hg : ∀ c : Core, g c = g c.rest) (p : Nat) :
    g (t.core p) = g (s.core p) := by
  rw [hg, h.1 p, ← hg]

theorem Alike.device {s t : State} (h : Alike s t) {α : Type} (g : State → α) (hg : ∀ u : State, g u = g { u with cores := [] }) :
    g t = g s := by
  rw [hg, h.2, ← hg]

theorem alike_modCx (s : State) (f : Context → Context) : Alike s (s.modCx f) := by
  refine ⟨fun p => ?_, rfl⟩
  rw [State.core_modCx]
  split
  · rename_i hp; subst hp; exact rest_modContext _ _ _
  · rfl

theorem Alike.modCore {s t : State} (h : Alike s t) (p : Nat) (f : Core → Core) (hf : ∀ c : Core, (f c).rest = f c.rest) :
    Alike (s.modCore p f) (t.modCore p f) := by
  refine ⟨fun q => ?_, h.2⟩
  rw [State.core_modCore, State.core_modCore]
  split
  · rw [hf, h.1 p, ← hf]
  · exact h.1 q

theorem Alike.withLinks {s t : State} (h : Alike s t) (f : List LinkWord → List LinkWord) :
    Alike { s with links := f s.links } { t with links := f t.links } :=
  ⟨h.1, congrArg (fun u : State => { u with links := f u.links }) h.2⟩

/-- States alike have the same links (R152). -/
theorem Alike.link {s t : State} (h : Alike s t) (p : Nat) (west : Bool) : t.link p west = s.link p west := by
  have hdead : ∀ q, (t.core q).dead = (s.core q).dead := h.core Core.dead (fun _ => rfl)
  have hlnk : ∀ q, (t.core q).lnk = (s.core q).lnk := h.core Core.lnk (fun _ => rfl)
  have hfused : ∀ q, t.fusedOff q = s.fusedOff q := fun q => h.device (fun u => u.fusedOff q) (fun _ => rfl)
  have hpart : ∀ q, t.partOf q = s.partOf q := fun q => h.device (fun u => u.partOf q) (fun _ => rfl)
  unfold State.link
  simp only [hdead, hlnk, hfused, hpart]

/-! ### Links that are absent -/

/-- The words that wait in one of a core's link FIFOs are gone. -/
def Core.noWords (c : Core) (west : Bool) : Core := if west then { c with west := [] } else { c with east := [] }

/-- The words that wait or travel in one direction of a core's links are gone. -/
def State.noWords (s : State) (p : Nat) (west : Bool) : State :=
  let t := s.modCore p (·.noWords west)
  { t with links := t.links.filter (fun l => !(l.dst == p && l.west == west)) }

/-- `dropLinks` for one of the two links. -/
def State.cutLink (s : State) (p : Nat) (west : Bool) : State :=
  if (s.link p west).isSome then s
  else match neighbour p west with
    | none => s.noWords p west
    | some r => (s.noWords p west).noWords r !west

theorem dropLinks_eq (s : State) (p : Nat) : s.dropLinks p = (s.cutLink p true).cutLink p false := rfl

theorem noWords_context (c : Core) (west : Bool) (k : Nat) : (c.noWords west).context k = c.context k := by cases west <;> rfl

theorem sameContexts_noWords (s : State) (p : Nat) (west : Bool) : SameContexts s (s.noWords p west) := by
  intro q k
  change ((s.modCore p (·.noWords west)).core q).context k = _
  rw [State.core_modCore]
  split
  · rename_i hq; subst hq; exact noWords_context _ _ _
  · rfl

theorem SameContexts.trans {s t u : State} (h : SameContexts s t) (g : SameContexts t u) : SameContexts s u :=
  fun p k => (g p k).trans (h p k)

theorem sameContexts_cutLink (s : State) (p : Nat) (west : Bool) : SameContexts s (s.cutLink p west) := by
  unfold State.cutLink
  split
  · exact fun _ _ => rfl
  · split
    · exact sameContexts_noWords _ _ _
    · exact (sameContexts_noWords _ _ _).trans (sameContexts_noWords _ _ _)

theorem Alike.noWords {s t : State} (h : Alike s t) (p : Nat) (west : Bool) : Alike (s.noWords p west) (t.noWords p west) :=
  (h.modCore p _ (fun c => by cases west <;> rfl)).withLinks _

theorem Alike.cutLink {s t : State} (h : Alike s t) (p : Nat) (west : Bool) : Alike (s.cutLink p west) (t.cutLink p west) := by
  unfold State.cutLink
  rw [h.link]
  split
  · exact h
  · split
    · exact h.noWords _ _
    · exact (h.noWords _ _).noWords _ _

theorem same_cutLink (s : State) (p : Nat) (west : Bool) : Same s (s.cutLink p west) := by
  unfold State.cutLink
  split
  · exact Same.refl s
  · split <;> exact ⟨rfl, rfl, rfl⟩

/-! ### Writing CORE.LNK -/

theorem setLnk_eq (s : State) (p : Nat) (v : Word) :
    s.setLnk p v = ((s.modCore p (fun c => { c with lnk := v.setWidth 2 })).cutLink p true).cutLink p false := dropLinks_eq _ _

theorem same_setLnk (s : State) (p : Nat) (v : Word) : Same s (s.setLnk p v) := by
  rw [setLnk_eq]
  exact ((Same.modCore s p _).trans (same_cutLink _ _ _)).trans (same_cutLink _ _ _)

theorem Alike.setLnk {s t : State} (h : Alike s t) (p : Nat) (v : Word) : Alike (s.setLnk p v) (t.setLnk p v) := by
  rw [setLnk_eq, setLnk_eq]
  exact ((h.modCore p (fun c => { c with lnk := v.setWidth 2 }) (fun _ => rfl)).cutLink p true).cutLink p false

theorem sameContexts_setLnk (s : State) (p : Nat) (v : Word) : SameContexts s (s.setLnk p v) := by
  rw [setLnk_eq]
  refine SameContexts.trans (fun q k => ?_) ((sameContexts_cutLink _ _ _).trans (sameContexts_cutLink _ _ _))
  rw [State.core_modCore]
  split
  · rename_i hq; subst hq; rfl
  · rfl

theorem context_modCx (s : State) (f : Context → Context) (p k : Nat) :
    ((s.modCx f).core p).context k = if p = s.cur ∧ k = s.ctx then f ((s.core p).context k) else (s.core p).context k := by
  rw [State.core_modCx]
  by_cases hp : p = s.cur
  · subst hp
    by_cases hk : k = s.ctx <;> simp [Core.context_modContext, hk, State.me]
  · simp [hp]

/-- A write of CORE.LNK goes before or after a change of the running context. -/
theorem quiet_setLnk {s w : State} {f : Context → Context} (p : Nat) (v : Word) (h : Quiet (s.modCx f) w) :
    Quiet ((s.setLnk p v).modCx f) (w.setLnk p v) := by
  have hlike : Alike ((s.setLnk p v).modCx f) (w.setLnk p v) :=
    (alike_modCx _ f).symm.trans (((alike_modCx s f).trans h.alike).setLnk p v)
  obtain ⟨hcur, hctx, -⟩ := same_setLnk s p v
  refine ⟨fun q k => ?_, hlike⟩
  rw [sameContexts_setLnk, h.1, context_modCx, context_modCx, sameContexts_setLnk, hcur, hctx]

/-! ### What a death and a rollback need of a core -/

/-- What a fold of steps that each keep a reading keeps of it. -/
theorem foldl_keeps {σ α β : Type} (g : σ → β) {f : σ → α → σ} (h : ∀ s a, g (f s a) = g s) (l : List α) (s : σ) :
    g (l.foldl f s) = g s := by
  induction l generalizing s with
  | nil => rfl
  | cons a l ih => exact (ih (f s a)).trans (h s a)

/-- A core's memory, undo log, snapshot and life. -/
def Core.stock (c : Core) : Mem × List LogLine × Option Snapshot × Bool := (c.mem, c.ulog, c.snap, c.dead)

/-- Memory, undo log, snapshot and life of every core. -/
def State.stock (s : State) (p : Nat) : Mem × List LogLine × Option Snapshot × Bool := (s.core p).stock

theorem stock_modCore {s : State} {p : Nat} {f : Core → Core} (hf : ∀ c, (f c).stock = c.stock) : (s.modCore p f).stock = s.stock := by
  funext q
  unfold State.stock
  rw [State.core_modCore]
  split
  · rename_i hq; subst hq; exact hf _
  · rfl

theorem Alike.stock {s t : State} (h : Alike s t) : t.stock = s.stock := funext (h.core Core.stock (fun _ => rfl))

theorem stock_modContext (c : Core) (k : Nat) (f : Context → Context) : (c.modContext k f).stock = c.stock := by simp [Core.stock]

theorem stock_setContext (c : Core) (k : Nat) (x : Context) : (c.setContext k x).stock = c.stock := by simp [Core.stock]

theorem quiet_leaveGang (s : State) (p : Nat) : Quiet s (s.leaveGang p) := by
  have alone : ∀ s : State, Quiet s (s.modCore p (fun c =>
      { c with memb := 0, hold := false, outcome := none, queue := [], regang := none, stood := none, gpos := none })) :=
    fun s => Quiet.modCore s p _ (fun _ => rfl) rfl
  unfold State.leaveGang
  dsimp only
  split
  · exact Quiet.refl s
  · split
    · exact (quiet_foldl _ _ (fun s q => Quiet.modCore s q _ (fun _ => rfl) rfl) s).trans (alone _)
    · split
      · exact (alone s).trans (Quiet.modCore _ _ _ (fun _ => rfl) rfl)
      · exact ((alone s).trans (quiet_foldl _ _ (fun s q => Quiet.modCore s q _ (fun _ => rfl) rfl) _)).trans (quiet_resolveGang _ _)

theorem stock_leaveGang (s : State) (p : Nat) : (s.leaveGang p).stock = s.stock := (quiet_leaveGang s p).alike.stock

theorem postSup_cores (s : State) (n : Nat) (e : MailEntry) : (s.postSup n e).cores = s.cores := by
  unfold State.postSup State.supPut
  split
  · exact State.modDie_cores _ _ _
  · rfl

theorem stock_of_cores {s t : State} (h : t.cores = s.cores) : t.stock = s.stock := by
  unfold State.stock State.core
  rw [h]

/-! ### Traps keep every core's memory and life -/

theorem stock_stopAll (c : Core) (why : StopWhy) : (c.stopAll why).stock = c.stock := rfl

theorem stock_dropAsm (s : State) (p k : Nat) : (s.dropAsm p k).stock = s.stock := stock_modCore (fun _ => stock_modContext _ _ _)

theorem stock_enterHandler (s : State) (p : Nat) (e : Entry) : (s.enterHandler p e).stock = s.stock :=
  stock_modCore (fun _ => stock_setContext _ _ _)

theorem stock_deliver (s : State) (p : Nat) (e : Entry) : (s.deliver p e).stock = s.stock := by
  unfold State.deliver
  dsimp only
  split
  · exact stock_enterHandler _ _ _
  · exact stock_modCore (fun c => stock_modContext c _ _)

theorem stock_doubleTrap (s : State) (p : Nat) (c : Cause) : (s.doubleTrap p c).stock = s.stock :=
  stock_modCore (fun _ => stock_stopAll _ _)

theorem freezeAct_cores (s : State) (seq : Nat) (status : Word) : (s.freezeAct seq status).cores = s.cores := by
  unfold State.freezeAct
  dsimp only
  split
  · rfl
  · rw [postSup_cores]; simp

theorem stock_freeHelper (s : State) (p k : Nat) : (s.freeHelper p k).stock = s.stock := stock_modCore (fun _ => stock_modContext _ _ _)

theorem stock_takeTrap (s : State) (c : Cause) (epc : Word) : (s.takeTrap c epc).stock = s.stock := by
  unfold State.takeTrap
  split
  · rfl
  · dsimp only
    generalize hu : (if (s.dropAsm s.cur s.ctx).ctx = 0 then _ else _ : State) = u
    have hstock : u.stock = s.stock := by
      rw [← hu]
      split
      · rw [stock_leaveGang, stock_dropAsm]
      · exact stock_dropAsm _ _ _
    rw [← hstock]
    split
    · rw [stock_of_cores (freezeAct_cores _ _ _), stock_freeHelper]
    · split
      · exact stock_doubleTrap _ _ _
      · exact stock_deliver _ _ _

theorem stock_breakFuse (s : State) (p : Nat) : (s.breakFuse p).stock = s.stock := by
  refine foldl_keeps State.stock (fun s r => ?_) _ s
  split
  · exact (stock_takeTrap _ _ _).trans (stock_modCore (fun _ => rfl))
  · rfl

theorem stock_noWords (s : State) (p : Nat) (west : Bool) : (s.noWords p west).stock = s.stock :=
  stock_modCore (f := (·.noWords west)) (fun _ => by cases west <;> rfl)

theorem stock_cutLink (s : State) (p : Nat) (west : Bool) : (s.cutLink p west).stock = s.stock := by
  unfold State.cutLink
  split
  · rfl
  · split
    · exact stock_noWords _ _ _
    · exact (stock_noWords _ _ _).trans (stock_noWords _ _ _)

theorem stock_dropLinks (s : State) (p : Nat) : (s.dropLinks p).stock = s.stock := by
  rw [dropLinks_eq, stock_cutLink, stock_cutLink]

/-! ### What only keeps account -/

/-- No memory, context, undo log or snapshot has changed. -/
structure Unmoved (s t : State) : Prop where
  /-- Memory, undo log, snapshot and life of every core. -/
  stock : t.stock = s.stock
  /-- Every context. -/
  contexts : SameContexts s t
  /-- Cluster memory. -/
  clusterMem : ∀ cl, (t.cluster cl).mem = (s.cluster cl).mem
  /-- Main memory. -/
  phys : t.phys = s.phys

/-- The partitions with their launches, and the dies with their supervisor mailboxes. -/
def State.desk (s : State) : Map Partition × Die × Die := (s.parts, s.die0, s.die1)

/-- Beside that, no launch and no supervisor mailbox has changed. -/
structure Account (s t : State) : Prop extends Unmoved s t where
  /-- Partitions and dies. -/
  desk : t.desk = s.desk

theorem Unmoved.trans {s t u : State} (h : Unmoved s t) (g : Unmoved t u) : Unmoved s u :=
  ⟨g.stock.trans h.stock, h.contexts.trans g.contexts, fun cl => (g.clusterMem cl).trans (h.clusterMem cl), g.phys.trans h.phys⟩

theorem Account.refl (s : State) : Account s s := ⟨⟨rfl, fun _ _ => rfl, fun _ => rfl, rfl⟩, rfl⟩

theorem Account.of_fields {s t : State} (hcores : t.cores = s.cores) (hclusters : t.clusters = s.clusters) (hphys : t.phys = s.phys)
    (hdesk : t.desk = s.desk) : Account s t :=
  ⟨⟨stock_of_cores hcores, fun p k => by unfold State.core; rw [hcores], fun cl => by unfold State.cluster; rw [hclusters], hphys⟩, hdesk⟩

theorem Account.trans {s t u : State} (h : Account s t) (g : Account t u) : Account s u :=
  ⟨h.toUnmoved.trans g.toUnmoved, g.desk.trans h.desk⟩

theorem Unmoved.sameMemory {s t : State} (h : Unmoved s t) : SameMemory s t :=
  ⟨fun p => congrArg (·.1) (congrFun h.stock p), h.clusterMem, h.phys⟩

theorem account_foldl {α : Type} (l : List α) (f : State → α → State) (h : ∀ s a, Account s (f s a)) (s : State) :
    Account s (l.foldl f s) := foldl_rel Account.refl Account.trans l f h s

theorem account_modCore (s : State) (p : Nat) {f : Core → Core} (hf : ∀ c, (f c).stock = c.stock) (hc : ∀ c k, (f c).context k = c.context k) :
    Account s (s.modCore p f) := by
  refine ⟨⟨stock_modCore hf, fun q k => ?_, fun _ => rfl, rfl⟩, rfl⟩
  rw [State.core_modCore]
  split
  · rename_i hq; subst hq; exact hc _ _
  · rfl

theorem account_modCluster (s : State) (cl : Nat) {f : Cluster → Cluster} (hf : ∀ c, (f c).mem = c.mem) : Account s (s.modCluster cl f) := by
  refine ⟨⟨rfl, fun _ _ => rfl, fun c => ?_, rfl⟩, rfl⟩
  rw [State.cluster_modCluster]
  split
  · rename_i hc; subst hc; exact hf _
  · rfl

theorem Quiet.account {s t : State} (h : Quiet s t) : Account s t :=
  ⟨⟨h.alike.stock, h.1, fun cl => h.alike.device (fun u => (u.cluster cl).mem) (fun _ => rfl), h.alike.device State.phys (fun _ => rfl)⟩,
    h.alike.device State.desk (fun _ => rfl)⟩

end Sys2Proof.Machine
end

section
/-! PROOF. The state after reset (O5). -/

namespace Sys2Proof.Machine

/-- Settles O5: after reset every table is empty, so that every core, cluster and partition is the fresh one. -/
theorem resetState : Obligations.ResetState := by
  have hcore : ∀ p, State.reset.core p = Core.fresh := fun _ => rfl
  have hhelper : ∀ k, 1 ≤ k → Core.fresh.context k = Context.freeHelper := fun k hk => if_neg (by omega)
  refine ⟨⟨fun _ => rfl, fun _ => rfl, rfl⟩, fun _ _ => rfl, fun _ _ => rfl, fun _ => rfl, fun p => ?_, rfl, rfl, rfl,
    fun _ => ⟨rfl, rfl⟩⟩
  rw [hcore]
  exact ⟨rfl, rfl, rfl, rfl, rfl, fun k hk => by rw [hhelper k hk]; rfl⟩

end Sys2Proof.Machine
end

section
/-! PROOF. The supervisor instructions (O42): CKPT, CPQZ, BMEM, LKCFG, PREQ and TWCFG. -/

namespace Sys2Proof.Machine

/-! ### CKPT -/

/-- Word `k` of a record that has been read as one number. -/
def recWord (x k : Nat) : Word := BitVec.ofNat 64 (x / 2 ^ (64 * k))

/-- The checkpoint configuration that a record gives a partition (R294), read by a core with this context ID at this time. -/
def Ckpt.configured (c : Ckpt) (x : Nat) (now : Word) (cid : BitVec 12) : Ckpt :=
  { c with
    ticks := (recWord x 0).toNat % 2 ^ 40, steps := (recWord x 1).toNat % 2 ^ 32, region := recWord x 2
    rank := (recWord x 3).toNat % 2 ^ 6, rm1 := (recWord x 3).toNat / 2 ^ 8 % 2 ^ 6
    buddy := BitVec.ofNat 32 ((recWord x 3).toNat / 2 ^ 32), last := now, count := 0, armed := false, cid := cid
    active := false, todo := [], done := 0 }

/-- CKPT, once its record has been read. -/
theorem effCkpt_of_load {o : Opnds} {v : Vals} {s sc : State} {x : Nat} (hl : s.loadNear (v.y.s + o.imm).toNat 32 = .ok (x, sc)) :
    effCkpt o v s = if sc.ckptOk sc.myPart (recWord x 0) (recWord x 1) (recWord x 2) (recWord x 3)
      then Done.result (sc.modPart sc.myPart (fun p => { p with ckpt := p.ckpt.configured x sc.time sc.me.cid })) (.s 0)
      else Done.result sc (.s 1) := by
  unfold effCkpt effAddr
  rw [hl]
  simp only [wordsOf_getD x 4 _ (by decide : 0 < 4), wordsOf_getD x 4 _ (by decide : 1 < 4), wordsOf_getD x 4 _ (by decide : 2 < 4),
    wordsOf_getD x 4 _ (by decide : 3 < 4)]
  have hb : BitVec.ofNat 32 (wfield (recWord x 3) 32 32) = BitVec.ofNat 32 ((recWord x 3).toNat / 2 ^ 32) := ofNat_bits _ _ _
  cases hok : sc.ckptOk sc.myPart (recWord x 0) (recWord x 1) (recWord x 2) (recWord x 3) <;> unfold recWord at hok hb <;> rw [hok]
  · rfl
  · rw [hb]
    simp only [wfield, bits, Nat.pow_zero, Nat.div_one]
    rfl

/-! ### BMEM -/

/-- BMEM, once its record has been read: codes 3, 1, 2 in this order (R296). -/
theorem effBmem_of_load {o : Opnds} {v : Vals} {s sc : State} {x : Nat} (hl : s.loadNear (v.y.s + o.imm).toNat 304 = .ok (x, sc)) :
    effBmem o v s =
      if (sc.part sc.myPart).bch.getLsbD (x % 2 ^ 6) = false then Done.result sc (.s 3)
      else if sc.bmemOk sc.myPart (x % 2 ^ 64) (x / 2 ^ 64 % 2 ^ 64) (mapMembers x) = false then Done.result sc (.s 1)
      else if (∃ k ∈ sc.chanEntries sc.myPart (x % 2 ^ 6) (sc.memberDies sc.myPart (mapMembers x)), (sc.chan k).arr ≠ []) ∧ sc.level ≤ 1
        then Done.result sc (.s 2)
      else Done.result (sc.setMembers sc.myPart (x % 2 ^ 6) (x / 2 ^ 8 % 2 ^ 2) (mapMembers x)) (.s 0) := by
  unfold effBmem effAddr
  rw [hl]
  simp only [bits_mod_word x 0 6 (by decide), bits_mod_word x 8 2 (by decide), Nat.pow_zero, Nat.div_one]
  simp

theorem same_modChan (s : State) (c : Nat) (f : Channel → Channel) : Same s (s.modChan c f) := ⟨rfl, rfl, rfl⟩

theorem same_setMembers (s : State) (q ch lvl : Nat) (ms : List Nat) : Same s (s.setMembers q ch lvl ms) := by
  unfold State.setMembers
  exact Same.trans (same_ite (same_modChan _ _ _) (Same.refl s)) (same_modChan _ _ _)

/-- Members that all stand on one die (R296). -/
theorem memberDies_of_oneDie {s : State} {q d : Nat} {ms : List Nat} (hne : ms ≠ [])
    (hd : ∀ l ∈ ms, ∃ p, s.physOf q l = some p ∧ dieOf p = d) : s.memberDies q ms = [d] := by
  have hall : ∀ x ∈ (ms.filterMap (s.physOf q)).map dieOf, x = d := by
    intro x hx
    obtain ⟨p, hp, rfl⟩ := List.mem_map.1 hx
    obtain ⟨l, hl, hp⟩ := List.mem_filterMap.1 hp
    obtain ⟨p', hp', hdie⟩ := hd l hl
    rw [hp] at hp'
    cases hp'
    exact hdie
  obtain ⟨l, rest, rfl⟩ := List.exists_cons_of_ne_nil hne
  obtain ⟨p, hp, hdie⟩ := hd l (by simp)
  have hcons : ((l :: rest).filterMap (s.physOf q)).map dieOf = d :: (rest.filterMap (s.physOf q)).map dieOf := by
    simp [hp, hdie]
  rw [hcons] at hall
  have hgone : ((rest.filterMap (s.physOf q)).map dieOf).filter (fun x => !(x == d)) = [] :=
    List.filter_eq_nil_iff.2 (fun x hx => by simp [hall x (List.mem_cons_of_mem _ hx)])
  unfold State.memberDies
  rw [hcons, List.eraseDups_cons, hgone]
  rfl

/-- A channel that a membership on the other die leaves empty. -/
def Channel.emptied (c : Channel) (q : Nat) : Channel := { c with part := q, members := [], arr := [], joined := false }

/-- The arrivals that stay where a partition's channel gets new members. -/
def State.staying (s : State) (q ch : Nat) (ms : List Nat) : List Arrival :=
  ((s.chanEntries q ch (s.memberDies q ms)).flatMap (fun k => (s.chan k).arr)).filter (fun a => ms.contains a.lpid)

/-- Members on one die: the channel of that die gets them, and that of the other die is emptied if the two were joined or it was the
partition's too (R296). -/
theorem setMembers_of_oneDie {s : State} {q ch d : Nat} (lvl : Nat) {ms : List Nat} (hd : d < 2) (h : s.memberDies q ms = [d]) :
    s.setMembers q ch lvl ms =
      (if (s.chan (64 + ch)).joined || (s.chan (64 * (1 - d) + ch)).part == q then s.modChan (64 * (1 - d) + ch) (·.emptied q) else s).modChan
        (64 * d + ch) (fun c => { c with level := lvl, part := q, members := ms, arr := s.staying q ch ms, joined := false }) := by
  unfold State.setMembers State.staying
  rw [h]
  obtain rfl | rfl : d = 0 ∨ d = 1 := by omega
  all_goals simp [Channel.emptied]


/-- What a membership on one die leaves (R16, R296). -/
theorem setMembers_oneDie_spec {s : State} {q ch d : Nat} (lvl : Nat) {ms : List Nat} (hch : ch < 64) (hd : d < 2)
    (h : s.memberDies q ms = [d]) :
    let t := s.setMembers q ch lvl ms
    let key := 64 * d + ch
    (t.chan key).members = ms ∧ (t.chan key).part = q ∧ (t.chan key).level = lvl ∧ (t.chan key).rcnt = (s.chan key).rcnt
      ∧ (∀ a ∈ (t.chan key).arr, a.lpid ∈ ms)
      ∧ ((s.chan (64 + ch)).joined = false → (s.chan (64 * (1 - d) + ch)).part ≠ q →
          t.chan (64 * (1 - d) + ch) = s.chan (64 * (1 - d) + ch))
      ∧ (∀ k, k % 64 ≠ ch → t.chan k = s.chan k) ∧ t.cores = s.cores ∧ SameMemory s t := by
  intro t key
  have hother : 64 * (1 - d) + ch ≠ key := by omega
  generalize hu : (if (s.chan (64 + ch)).joined || (s.chan (64 * (1 - d) + ch)).part == q
    then s.modChan (64 * (1 - d) + ch) (·.emptied q) else s) = u
  have ht : t = u.modChan key (fun c => { c with level := lvl, part := q, members := ms, arr := s.staying q ch ms, joined := false }) := by
    rw [← hu]
    exact setMembers_of_oneDie lvl hd h
  have hkeep : ∀ k, k ≠ 64 * (1 - d) + ch → u.chan k = s.chan k := by
    intro k hk
    rw [← hu]
    split
    · rw [State.chan_modChan, if_neg hk]
    · rfl
  have hdev : u.cores = s.cores ∧ u.clusters = s.clusters ∧ u.phys = s.phys := by
    rw [← hu]
    split <;> exact ⟨rfl, rfl, rfl⟩
  have hcores : t.cores = s.cores := by rw [ht]; exact hdev.1
  have hclusters : t.clusters = s.clusters := by rw [ht]; exact hdev.2.1
  have hphys : t.phys = s.phys := by rw [ht]; exact hdev.2.2
  have hself : t.chan key = { s.chan key with level := lvl, part := q, members := ms, arr := s.staying q ch ms, joined := false } := by
    rw [ht, State.chan_modChan_self, hkeep key hother.symm]
  refine ⟨by rw [hself], by rw [hself], by rw [hself], by rw [hself], ?_, ?_, ?_, hcores, ?_⟩
  · intro a ha
    rw [hself] at ha
    simpa using (List.mem_filter.1 ha).2
  · intro hj hq
    rw [ht, State.chan_modChan, if_neg hother, ← hu, if_neg (by simp [hj, hq])]
  · intro k hk
    rw [ht, State.chan_modChan, if_neg (by omega), hkeep k (by omega)]
  · exact ⟨fun p => by unfold State.core; rw [hcores], fun cl => by unfold State.cluster; rw [hclusters], hphys⟩

/-! ### LKCFG -/

/-- LKCFG completes with the old CORE.LNK as its result, and then the new value stands (R297). -/
theorem lkcfg_ran {e : Fields} {s s1 s2 : State} {v : Vals} (hs : s.starts (.lkcfg e) = some (v, s1))
    (hl : s1.lands (.lkcfg e) (some (.s (s1.me.lnk.setWidth 64))) = some s2) :
    Ran (.lkcfg e) s (s2.setLnk s.cur v.y.s) (s.issue (.lkcfg e) effLkcfg) (some (.s (s1.me.lnk.setWidth 64))) none := by
  obtain ⟨hread, htarget, hissue⟩ := issue_of_starts hs (row := ⟨.lkcfg, _⟩) rfl rfl rfl rfl effLkcfg
  obtain ⟨hsame, hlate⟩ := starts_same hs
  have hland : Same s1 s2 := same_takes hl
  let d : Done := { st := s1, res := some (.s (s1.me.lnk.setWidth 64)), jump := none }
  obtain ⟨w, hw, hq⟩ := perform_now (d := d) (eff := fun _ _ _ => .ok d) none rfl htarget hread rfl hl (hland.2.2.trans hlate)
  have hcur : w.cur = s.cur := hq.cur.trans (hland.1.trans hsame.1)
  rw [hissue, perform_after (d := d) hread rfl hw, hcur]
  have hctx : (s2.setLnk s.cur v.y.s).ctx = s2.ctx := (same_setLnk _ _ _).2.1
  have hend := quiet_end ⟨true, 4, 4, e⟩ s.me (s.nextPc (.lkcfg e)) none s.me.queued (quiet_setLnk s.cur v.y.s hq)
  rw [← hctx] at hend
  exact ran_of_quiet _ _ _ _ _ _ hend

/-- Settles O42: each effect by the equation of its instruction, LKCFG through what its write of CORE.LNK leaves alone. -/
theorem supervisorResults : Obligations.SupervisorResults := by
  unfold Obligations.SupervisorResults
  refine ⟨fun e s => ⟨?ckpt, ?cpqz, ?bmem, ?lkcfg, ?preq, ?twcfg⟩, ?members⟩
  case ckpt =>
    refine completes_intro (eff := effCkpt) rfl ?_
    rintro v s1 s' r jump - ⟨rfl, x, sc, hload, hsame, hcase⟩
    rw [effCkpt_of_load hload]
    rcases hcase with ⟨hok, rfl, rfl⟩ | ⟨hok, rfl, rfl⟩
    · exact ⟨if_neg (ne_true_of_eq_false hok), hsame⟩
    · exact ⟨if_pos hok, hsame⟩
  case cpqz =>
    refine completes_intro (eff := effCpqz) rfl ?_
    rintro v s1 s' r jump - ⟨rfl, hfit, halign, hidle, hgood, rfl, rfl⟩
    refine ⟨?_, (same_putPieces _ _ _ _).trans (Same.modCore _ _ _)⟩
    unfold effCpqz
    simp only [if_neg (Nat.not_lt.2 hfit), halign, hidle, hgood]
    rfl
  case bmem =>
    refine completes_intro (eff := effBmem) rfl ?_
    rintro v s1 s' r jump - ⟨rfl, x, sc, hload, hsame, hcase⟩
    rw [effBmem_of_load hload]
    rcases hcase with ⟨hown, rfl, rfl⟩ | ⟨hown, hgood, rfl, rfl⟩ | ⟨hown, hgood, hbusy, rfl, rfl⟩ | ⟨hown, hgood, hfree, rfl, rfl⟩
    · exact ⟨if_pos hown, hsame⟩
    · exact ⟨(if_neg (ne_false_of_eq_true hown)).trans (if_pos hgood), hsame⟩
    · exact ⟨(if_neg (ne_false_of_eq_true hown)).trans ((if_neg (ne_false_of_eq_true hgood)).trans (if_pos hbusy)), hsame⟩
    · exact ⟨(if_neg (ne_false_of_eq_true hown)).trans ((if_neg (ne_false_of_eq_true hgood)).trans (if_neg hfree)),
        hsame.trans (same_setMembers _ _ _ _ _)⟩
  case lkcfg => exact fun v s1 s2 hs hl => ⟨_, rfl, lkcfg_ran hs hl⟩
  case preq =>
    refine completes_intro (eff := effPreq) rfl ?_
    rintro v s1 s' r jump - ⟨rfl, hcase⟩
    unfold effPreq
    rcases hcase with ⟨hnone, rfl, rfl⟩ | ⟨p, hp, ⟨hpend, rfl, rfl⟩ | ⟨hidle, rfl, hsame, rfl⟩⟩
    · exact ⟨by rw [hnone]; rfl, Same.refl _⟩
    · exact ⟨by rw [hp]; exact if_pos (Option.isSome_iff_ne_none.2 hpend), Same.refl _⟩
    · exact ⟨by rw [hp]; exact if_neg (by simp [hidle]), hsame⟩
  case twcfg =>
    refine completes_intro (eff := effTwcfg) rfl ?_
    rintro v s1 s' r jump - ⟨rfl, rfl, hsame, rfl⟩
    exact ⟨rfl, hsame⟩
  case members => exact fun s q ch lvl d ms hch hd hne hall => setMembers_oneDie_spec lvl hch hd (memberDies_of_oneDie hne hall)

end Sys2Proof.Machine
end

section
/-! PROOF. Heartbeats, dead cores and paired operations (O50). -/

namespace Sys2Proof.Machine

/-! ### Dead cores -/

/-- A core that is declared dead keeps its memory (R362). -/
theorem declareDead_core (s : State) (p : Nat) :
    ((s.declareDead p).core p).dead = true ∧ ((s.declareDead p).core p).mem = (s.core p).mem := by
  have hmem : ((s.leaveGang p).core p).mem = (s.core p).mem := congrArg (·.1) (congrFun (stock_leaveGang s p) p)
  have hstock : (s.declareDead p).stock p
      = (((s.leaveGang p).modCore p (fun c => { c with dead := true, meet := none, meetHead := none })).core p).stock := by
    unfold State.declareDead
    dsimp only
    rw [stock_of_cores (postSup_cores _ _ _), stock_breakFuse, foldl_keeps State.stock (fun _ _ => stock_dropLinks _ _),
      foldl_keeps State.stock (fun _ _ => stock_dropLinks _ _)]
    rfl
  rw [State.core_modCore_self] at hstock
  exact ⟨congrArg (·.2.2.2) hstock, (congrArg (·.1) hstock).trans hmem⟩

/-! ### Paired operations -/

theorem account_releaseCopy (s : State) (w : Paired) : Account s (s.releaseCopy w) := by
  unfold State.releaseCopy
  split
  · exact account_modCore s _ (fun _ => rfl) (fun _ _ => rfl)
  · exact Account.refl s

theorem account_reply (s : State) (p id fault : Nat) (v : Word) : Account s (s.reply p id fault v) := by
  refine account_modCore s p (fun c => ?_) (fun c k => ?_) <;> unfold Core.takeAnswer <;> split <;> rfl

theorem account_mapPairs (s : State) (p : Nat) (f : Nat → Bool → Option Nat × Bool) : Account s (s.mapPairs p f) := by
  unfold State.mapPairs
  refine Account.trans (account_modCore s p ?_ ?_) (account_modCluster _ _ ?_)
  · exact fun _ => rfl
  · exact fun _ _ => rfl
  · exact fun _ => rfl

theorem account_settlePairs (s : State) (p : Nat) : Account s (s.settlePairs p) := by
  unfold State.settlePairs
  split
  · exact Account.refl s
  · exact account_mapPairs _ _ _

theorem account_dropPaired (s : State) (mine : Paired → Bool) : Account s (s.dropPaired mine) := by
  unfold State.dropPaired
  refine Account.trans (t := { s with paired := s.paired.filter (fun v => !mine v) }) (Account.of_fields rfl rfl rfl rfl) ?_
  exact account_foldl _ _ account_releaseCopy _

theorem account_undoArrivals (s : State) (p : Nat) : Account s (s.undoArrivals p) := by
  unfold State.undoArrivals
  split
  · exact Account.of_fields rfl rfl rfl rfl
  · exact Account.refl s

theorem account_clearErr (s : State) (st : Store) (a n : Nat) : Account s (s.clearErr st a n) := by
  unfold State.clearErr
  split
  · exact Account.refl s
  · exact Account.of_fields rfl rfl rfl rfl

/-- `discardOp` for one twin. -/
def State.discardOn (s : State) (w : Paired) (v : Word) (p : Nat) : State :=
  (s.dropMarked p w.no).modCore p (fun c => { c with matched := mset c.matched w.no (if w.act.logs then some v else none) })

theorem discardOp_eq (s : State) (w : Paired) (v : Word) : s.discardOp w v = (s.discardOn w v w.core).discardOn w v w.twin := rfl

theorem account_discardOn (s : State) (w : Paired) (v : Word) (p : Nat) : Account s (s.discardOn w v p) :=
  (account_mapPairs s p _).trans (account_modCore _ p (by intros; rfl) (by intros; rfl))

theorem account_discardOp (s : State) (w : Paired) (v : Word) : Account s (s.discardOp w v) :=
  (account_discardOn s w v _).trans (account_discardOn _ w v _)

/-! ### Numbers that have matched -/

theorem matched_modCore {s : State} {p : Nat} {f : Core → Core} (hf : ∀ c, (f c).matched = c.matched) (q : Nat) :
    ((s.modCore p f).core q).matched = (s.core q).matched := by
  rw [State.core_modCore]
  split
  · rename_i hq; subst hq; exact hf _
  · rfl

theorem matched_releaseCopy (s : State) (w : Paired) (q : Nat) : ((s.releaseCopy w).core q).matched = (s.core q).matched := by
  unfold State.releaseCopy
  split
  · exact matched_modCore (by intros; rfl) q
  · rfl

theorem matched_reply (s : State) (p id fault : Nat) (v : Word) (q : Nat) : ((s.reply p id fault v).core q).matched = (s.core q).matched :=
  matched_modCore (fun c => by unfold Core.takeAnswer; split <;> rfl) q

theorem matched_dropMarked (s : State) (p no q : Nat) : ((s.dropMarked p no).core q).matched = (s.core q).matched := by
  unfold State.dropMarked State.mapPairs
  exact (congrArg Core.matched (State.modCluster_core_get _ _ _ q)).trans (matched_modCore (by intros; rfl) q)

/-- Writing a number's match on one core. -/
theorem mfind_matched_modCore (s : State) (p no : Nat) (old : Option Word) (q n : Nat) :
    mfind ((s.modCore p (fun c => { c with matched := mset c.matched no old })).core q).matched n
      = if q = p ∧ n = no then some old else mfind (s.core q).matched n := by
  rw [State.core_modCore]
  by_cases hq : q = p
  · subst hq
    simp [mfind_mset]
  · simp [hq]

/-- A discarded operation's number counts as matched on both twins (R366). -/
theorem discardOp_matched (s : State) (w : Paired) (v : Word) {p : Nat} (hp : p = w.core ∨ p = w.twin) :
    (mfind ((s.discardOp w v).core p).matched w.no).isSome = true := by
  have hon : ∀ (u : State) q, mfind ((u.discardOn w v q).core p).matched w.no
      = if p = q then some (if w.act.logs then some v else none) else mfind (u.core p).matched w.no := by
    intro u q
    unfold State.discardOn
    rw [mfind_matched_modCore, matched_dropMarked]
    simp
  rw [discardOp_eq, hon, hon]
  rcases hp with rfl | rfl
  · split <;> simp
  · simp

/-! ### A match -/

/-- What a match of a copy leaves: its number has matched, with the old value of an atomic, and its sender gets its answer. -/
def State.note (s : State) (w : Paired) (fault : Nat) (old : Option Word) : State :=
  (s.modCore w.sender (fun c => { c with matched := mset c.matched w.no (if w.act.logs then old else none) })).reply w.sender w.id fault
    (if fault = 0 then old.getD 0 else w.act.cid.setWidth 64)

/-- The copies of a match, the primary's first. -/
def Paired.primaryFirst (a b : Paired) : Paired × Paired := if a.sender = a.core then (a, b) else (b, a)

theorem primaryFirst_fst (a b : Paired) : (a.primaryFirst b).1 = if a.sender = a.core then a else b := by
  unfold Paired.primaryFirst
  split <;> rfl

theorem pairMatch_eq (s : State) (a b : Paired) :
    s.pairMatch a b =
      let w := a.primaryFirst b
      let r := s.performPair w.1.act
      ((r.2.2.releaseCopy w.2).note w.1 r.1 r.2.1).note w.2 r.1 r.2.1 := by
  unfold State.pairMatch Paired.primaryFirst
  split <;> rfl

theorem account_note (s : State) (w : Paired) (fault : Nat) (old : Option Word) : Account s (s.note w fault old) :=
  (account_modCore s w.sender (f := fun c => { c with matched := mset c.matched w.no (if w.act.logs then old else none) })
    (fun _ => rfl) (fun _ _ => rfl)).trans (account_reply _ _ _ _ _)

theorem mfind_note (s : State) (w : Paired) (fault q n : Nat) :
    mfind ((s.note w fault none).core q).matched n = if q = w.sender ∧ n = w.no then some none else mfind (s.core q).matched n := by
  unfold State.note
  rw [matched_reply, mfind_matched_modCore, ite_self]

theorem note_msgs (s : State) (w : Paired) (fault : Nat) (old : Option Word) : (s.note w fault old).msgs = s.msgs := rfl

theorem note_paired (s : State) (w : Paired) (fault : Nat) (old : Option Word) : (s.note w fault old).paired = s.paired := rfl

theorem releaseCopy_msgs (s : State) (w : Paired) : (s.releaseCopy w).msgs = s.msgs := by
  unfold State.releaseCopy
  split <;> rfl

theorem releaseCopy_paired (s : State) (w : Paired) : (s.releaseCopy w).paired = s.paired := by
  unfold State.releaseCopy
  split <;> rfl

/-- A match whose primary sends a message: it is sent once, and the number has matched on both twins (R365). -/
theorem pairMatch_msg (s : State) {a b : Paired} {m : Msg} (h : (a.primaryFirst b).1.act = .msg m) :
    (s.pairMatch a b).msgs = s.msgs ++ [m] ∧ (s.pairMatch a b).paired = s.paired
      ∧ mfind ((s.pairMatch a b).core a.sender).matched a.no = some none ∧ mfind ((s.pairMatch a b).core b.sender).matched b.no = some none
      ∧ SameMemory s (s.pairMatch a b) ∧ SameContexts s (s.pairMatch a b) := by
  have heq : s.pairMatch a b = ((({ s with msgs := s.msgs ++ [m] }).releaseCopy (a.primaryFirst b).2).note (a.primaryFirst b).1 0 none).note
      (a.primaryFirst b).2 0 none := by
    rw [pairMatch_eq]
    dsimp only
    rw [h]
    rfl
  have haccount : Account s (s.pairMatch a b) := by
    rw [heq]
    refine Account.trans (t := { s with msgs := s.msgs ++ [m] }) (Account.of_fields rfl rfl rfl rfl) ?_
    exact ((account_releaseCopy _ _).trans (account_note _ _ _ _)).trans (account_note _ _ _ _)
  refine ⟨?_, ?_, ?_, ?_, haccount.sameMemory, haccount.contexts⟩ <;> rw [heq]
  · rw [note_msgs, note_msgs, releaseCopy_msgs]
  · rw [note_paired, note_paired, releaseCopy_paired]
  · rw [mfind_note, mfind_note]
    unfold Paired.primaryFirst
    split <;> simp
  · rw [mfind_note, mfind_note]
    unfold Paired.primaryFirst
    split <;> simp

/-! ### A failure: the launch and the event -/

/-- STATUS of the failure of a pair (R366, R367, R392): 0 a rollback, 1 in the repeat, 2 a rollback that is impossible. -/
def State.failStatus (s : State) (w : Paired) : Nat := if (s.core w.core).repeating then 1 else if s.noRollback w then 2 else 0

/-- A failure's effect on the launch, and its event. -/
def State.failNoted (s : State) (w : Paired) (st : Nat) : State :=
  (s.pairTaint w (if st = 2 then 12 else 4) (if st = 0 then 1 else 2)).pairEvent w st

theorem pairFail_eq (s : State) (w : Paired) (ws : List Paired) :
    s.pairFail (w :: ws) =
      let u := s.failNoted w (s.failStatus w)
      if s.failStatus w = 0 then ((w :: ws).foldl State.releaseCopy u).rollBack (s.pairCores w)
      else (w :: ws).foldl (fun t v => (t.releaseCopy v).reply v.sender v.id 0 (Config.freeWord u.draw.1))
        (u.draw.2.discardOp w (Config.freeWord u.draw.1)) := by
  unfold State.pairFail State.failNoted State.failStatus
  dsimp only
  cases (s.core w.core).repeating <;> cases s.noRollback w <;> rfl

/-! What the launch and its supervisor's mailbox read, from the partitions and the dies alone. -/

theorem part_of_desk {s t : State} (h : t.desk = s.desk) (q : Nat) : t.part q = s.part q := by
  have hparts : t.parts = s.parts := congrArg (·.1) h
  unfold State.part
  rw [hparts]

theorem supBox_of_desk {s t : State} (h : t.desk = s.desk) (n : Nat) : t.supBox n = s.supBox n := by
  have hdie0 : t.die0 = s.die0 := congrArg (·.2.1) h
  have hdie1 : t.die1 = s.die1 := congrArg (·.2.2) h
  unfold State.supBox State.die
  rw [hdie0, hdie1]

theorem unmoved_taint (s : State) (q serial : Nat) (cause : BitVec 8) (verd : Nat) : Unmoved s (s.taint q serial cause verd) :=
  ⟨rfl, fun _ _ => rfl, fun _ => rfl, rfl⟩

theorem unmoved_postSup (s : State) (n : Nat) (e : MailEntry) : Unmoved s (s.postSup n e) := by
  unfold State.postSup State.supPut
  split
  · exact ⟨funext fun p => by simp [State.stock], fun p k => by simp, fun cl => by simp, by simp⟩
  · exact ⟨rfl, fun _ _ => rfl, fun _ => rfl, rfl⟩

theorem unmoved_pairTaint (s : State) (w : Paired) (cause : BitVec 8) (verd : Nat) : Unmoved s (s.pairTaint w cause verd) := by
  unfold State.pairTaint
  split
  · exact (Account.refl s).toUnmoved
  · exact unmoved_taint _ _ _ _ _

theorem unmoved_pairEvent (s : State) (w : Paired) (st : Nat) : Unmoved s (s.pairEvent w st) := by
  unfold State.pairEvent
  split
  · exact (Account.refl s).toUnmoved
  · exact unmoved_postSup _ _ _

theorem unmoved_failNoted (s : State) (w : Paired) (st : Nat) : Unmoved s (s.failNoted w st) :=
  (unmoved_pairTaint s w _ _).trans (unmoved_pairEvent _ w st)

/-- A launch with more cause bits and at least this verdict. -/
def Launch.tainted (l : Launch) (cause : BitVec 8) (verd : Nat) : Launch := { l with cause := l.cause ||| cause, verd := max l.verd verd }

theorem launchOf_eq_some {s : State} {p q : Nat} {l : Launch} : s.launchOf p = some (q, l) ↔
    ∃ g, (s.core p).group = some g ∧ s.partOf p = some q ∧ (s.part q).launches.find? (fun x => x.serial == g.launch) = some l := by
  unfold State.launchOf
  constructor
  · intro h
    split at h
    · rename_i g q' hg hq
      split at h
      · rename_i l' hl
        cases h
        exact ⟨g, hg, hq, hl⟩
      · cases h
    · cases h
  · rintro ⟨g, hg, hq, hl⟩
    rw [hg, hq]
    dsimp only
    rw [hl]

theorem launches_taint (s : State) (q serial : Nat) (cause : BitVec 8) (verd : Nat) :
    ((s.taint q serial cause verd).part q).launches
      = (s.part q).launches.map (fun x => if x.serial = serial then x.tainted cause verd else x) := by
  unfold State.taint State.modLaunch
  rw [State.part_modPart_self]
  simp [Launch.tainted]

theorem launchOf_taint {s : State} {p q : Nat} {l : Launch} (h : s.launchOf p = some (q, l)) (cause : BitVec 8) (verd : Nat) :
    (s.taint q l.serial cause verd).launchOf p = some (q, l.tainted cause verd) := by
  obtain ⟨g, hg, hq, hl⟩ := launchOf_eq_some.1 h
  refine launchOf_eq_some.2 ⟨g, hg, hq, ?_⟩
  have hserial : ((fun x : Launch => x.serial == g.launch) ∘ fun x => if x.serial = l.serial then x.tainted cause verd else x)
      = fun x => x.serial == g.launch := by
    funext x
    dsimp only [Function.comp]
    split <;> rfl
  rw [launches_taint, List.find?_map, hserial, hl]
  simp

theorem postSup_parts (s : State) (n : Nat) (e : MailEntry) : (s.postSup n e).parts = s.parts := by
  unfold State.postSup State.supPut
  split <;> simp

/-- An event enters a supervisor mailbox that has room and for which none waits (R393). -/
theorem supBox_postSup {s : State} {n : Nat} {e : MailEntry} (hroom : mailRoom (s.supBox n) [] e.len = true)
    (hfree : ∀ x ∈ s.posts, x.sup = false ∨ x.dst ≠ n) : (s.postSup n e).supBox n = s.supBox n ++ [e] := by
  have hnone : s.posts.any (fun w => w.sup && w.dst == n) = false := by
    simp only [List.any_eq_false, Bool.and_eq_true, beq_iff_eq, not_and]
    intro x hx hsup
    rcases hfree x hx with h | h
    · rw [h] at hsup; cases hsup
    · exact h
  unfold State.postSup State.supPut
  rw [hroom, hnone]
  simp [State.supBox]

/-- The launch and the event of a pair's failure. -/
theorem failNoted_launch {s : State} {w : Paired} (st : Nat) {q : Nat} {l : Launch} (h : s.launchOf w.core = some (q, l)) :
    ((s.failNoted w st).part q).launches = (s.part q).launches.map (fun x => if x.serial = l.serial
        then x.tainted (if st = 2 then 12 else 4) (if st = 0 then 1 else 2) else x)
      ∧ (mailRoom (s.supBox (s.supOf q)) [] 16 = true → (∀ x ∈ s.posts, x.sup = false ∨ x.dst ≠ s.supOf q) →
        (s.failNoted w st).supBox (s.supOf q) = s.supBox (s.supOf q) ++
          [eventEntry 16 (0x0E + st * 2 ^ 8 + l.lid * 2 ^ 16 + s.lp w.core * 2 ^ 32 + w.no % 2 ^ 32 * 2 ^ 64)]) := by
  generalize hu : s.taint q l.serial (if st = 2 then 12 else 4) (if st = 0 then 1 else 2) = u
  have hsup : u.supOf q = s.supOf q := by
    rw [← hu]
    unfold State.supOf State.taint State.modLaunch
    rw [State.part_modPart_self]
  have hnoted : s.failNoted w st = u.postSup (s.supOf q)
      (eventEntry 16 (0x0E + st * 2 ^ 8 + l.lid * 2 ^ 16 + s.lp w.core * 2 ^ 32 + w.no % 2 ^ 32 * 2 ^ 64)) := by
    unfold State.failNoted State.pairTaint
    rw [h]
    dsimp only
    unfold State.pairEvent
    rw [launchOf_taint h, hu]
    dsimp only
    rw [hsup, ← hu]
    rfl
  rw [hnoted]
  constructor
  · unfold State.part
    rw [postSup_parts, ← hu]
    exact launches_taint _ _ _ _ _
  · intro hroom hfree
    subst hu
    exact supBox_postSup hroom hfree

/-! ### A failure: rollback -/

/-- The memory that undoing the log of the interval gives (R96). -/
def Core.undone (c : Core) : Mem := c.ulog.foldl (fun m l => bwrite m (l.line * 64) 64 l.old.toNat) c.mem

/-- A core that goes back, or has gone back, to this memory and this snapshot. -/
structure GoesBack (m : Mem) (x : Snapshot) (c : Core) : Prop where
  /-- Its snapshot. -/
  snap : c.snap = some x
  /-- What its log gives back. -/
  undone : c.undone = m

/-- A core that has gone back to this memory and this snapshot, and repeats its superstep (R366). -/
structure WentBack (m : Mem) (x : Snapshot) (c : Core) : Prop where
  /-- Its snapshot stands. -/
  snap : c.snap = some x
  /-- Its memory is restored. -/
  mem : c.mem = m
  /-- The log is empty. -/
  ulog : c.ulog = []
  /-- The control context is the snapshot's, beside its issue state. -/
  ctl : ∃ r, c.ctl = { x.ctl with run := r }
  /-- So are the byte barriers. -/
  bb : c.bb = x.bb
  /-- The FIFO is empty, the numbers begin at 1 again. -/
  again : c.fifo = [] ∧ c.pairNo = 1 ∧ c.repeating = true

theorem WentBack.goesBack {m : Mem} {x : Snapshot} {c : Core} (h : WentBack m x c) : GoesBack m x c :=
  ⟨h.snap, by unfold Core.undone; rw [h.ulog, h.mem]; rfl⟩

theorem GoesBack.of_stock {m : Mem} {x : Snapshot} {c d : Core} (h : GoesBack m x c) (hs : d.stock = c.stock) : GoesBack m x d := by
  have hmem : d.mem = c.mem := congrArg (·.1) hs
  have hulog : d.ulog = c.ulog := congrArg (·.2.1) hs
  have hsnap : d.snap = c.snap := congrArg (·.2.2.1) hs
  exact ⟨hsnap.trans h.snap, by rw [← h.undone]; unfold Core.undone; rw [hmem, hulog]⟩

theorem stock_oweAgain (c : Core) (k : Nat) (r : RingEntry) : (c.oweAgain k r).stock = c.stock := rfl

/-- A core's own rollback (R366). -/
theorem repeatPair_wentBack {m : Mem} {x : Snapshot} {c : Core} (h : GoesBack m x c) (mask : BitVec 8) : WentBack m x (c.repeatPair mask) := by
  have hsnap : c.rollback.snap = some x := h.snap
  unfold Core.repeatPair
  dsimp only
  rw [hsnap]
  dsimp only
  generalize hd : x.ring.foldl (fun (c : Core) (kr : Nat × RingEntry) => c.oweAgain kr.1 kr.2) _ = d
  have hstock : d.stock = c.rollback.stock := by
    rw [← hd, foldl_keeps Core.stock (fun c (kr : Nat × RingEntry) => stock_oweAgain c kr.1 kr.2), ← hsnap]
    rfl
  exact ⟨(congrArg (·.2.2.1) hstock).trans hsnap, (congrArg (·.1) hstock).trans h.undone,
    congrArg (·.2.1) hstock, ⟨_, rfl⟩, rfl, rfl, rfl, rfl⟩

/-- Rolling back one core: the arrivals and the errors that it undoes, then the core. -/
def State.rollBackCore (s : State) (p : Nat) (mask : BitVec 8) : State :=
  ((s.core p).ulog.foldl (fun s l => s.clearErr (.loc p) (l.line * 64) 64) (s.undoArrivals p)).modCore p (fun c => c.repeatPair mask)

theorem undoArrivals_cores (s : State) (p : Nat) : (s.undoArrivals p).cores = s.cores := by
  unfold State.undoArrivals
  split <;> rfl

theorem clearErr_cores (s : State) (st : Store) (a n : Nat) : (s.clearErr st a n).cores = s.cores := by
  unfold State.clearErr
  split <;> rfl

theorem core_rollBackCore (s : State) (p q : Nat) (mask : BitVec 8) :
    (s.rollBackCore p mask).core q = if q = p then (s.core p).repeatPair mask else s.core q := by
  unfold State.rollBackCore
  generalize hu : (s.core p).ulog.foldl _ _ = u
  have hcore : ∀ r, u.core r = s.core r := by
    intro r
    unfold State.core
    rw [← hu, foldl_keeps State.cores (fun u _ => clearErr_cores u _ _ _), undoArrivals_cores]
  rw [State.core_modCore, hcore, hcore]

theorem desk_rollBackCore (s : State) (p : Nat) (mask : BitVec 8) : (s.rollBackCore p mask).desk = s.desk :=
  ((account_undoArrivals s p).trans (account_foldl (s.core p).ulog (fun u l => u.clearErr (.loc p) (l.line * 64) 64)
    (fun u _ => account_clearErr u _ _ _) _)).desk

/-- What a core has, and keeps when it is rolled back, it has after the rollback of any cores. -/
theorem foldl_rollBackCore_keeps {P : Core → Prop} (hP : ∀ c mask, P c → P (c.repeatPair mask)) (mask : Nat → BitVec 8) {q : Nat}
    (ps : List Nat) {s : State} (h : P (s.core q)) : P ((ps.foldl (fun u p => u.rollBackCore p (mask p)) s).core q) := by
  induction ps generalizing s with
  | nil => exact h
  | cons p ps ih =>
    refine ih ?_
    rw [core_rollBackCore]
    split
    · rename_i hq; subst hq; exact hP _ _ h
    · exact h

theorem rollBack_eq (s : State) (ps : List Nat) : ∃ (mask : Nat → BitVec 8) (t : State), Account s t
    ∧ s.rollBack ps = ps.foldl (fun u p => u.rollBackCore p (mask p)) t :=
  ⟨_, _, ((account_dropPaired _ _).trans (account_foldl ps _ account_settlePairs _)).trans
    (account_foldl ps _ (fun u p => (quiet_leaveGang u p).account) _), rfl⟩

theorem desk_rollBack (s : State) (ps : List Nat) : (s.rollBack ps).desk = s.desk := by
  obtain ⟨mask, t, ht, heq⟩ := rollBack_eq s ps
  rw [heq, foldl_keeps State.desk (fun u p => desk_rollBackCore u p (mask p))]
  exact ht.desk

/-- Every core that is rolled back has gone back to its snapshot (R366). -/
theorem rollBack_wentBack {s : State} {ps : List Nat} {p : Nat} (hp : p ∈ ps) {m : Mem} {x : Snapshot} (h : GoesBack m x (s.core p)) :
    WentBack m x ((s.rollBack ps).core p) := by
  obtain ⟨mask, t, ht, heq⟩ := rollBack_eq s ps
  obtain ⟨before, after, rfl⟩ := List.append_of_mem hp
  rw [heq, List.foldl_append, List.foldl_cons]
  refine foldl_rollBackCore_keeps (P := WentBack m x) (fun c k hc => repeatPair_wentBack hc.goesBack k) mask after ?_
  rw [core_rollBackCore, if_pos rfl]
  exact repeatPair_wentBack (foldl_rollBackCore_keeps (P := GoesBack m x) (fun c k hc => (repeatPair_wentBack hc k).goesBack) mask before
    (h.of_stock (congrFun ht.stock p))) _

/-! ### A failure as a whole -/

theorem account_releases (s : State) (ws : List Paired) : Account s (ws.foldl State.releaseCopy s) := account_foldl _ _ account_releaseCopy s

/-- What a failure that rolls back leaves (R366). -/
theorem pairFail_rollback {s : State} {w : Paired} (ws : List Paired) (h : s.failStatus w = 0) :
    (s.pairFail (w :: ws)).desk = (s.failNoted w 0).desk
      ∧ ∀ p ∈ s.pairCores w, ∀ x, (s.core p).snap = some x → WentBack (s.core p).undone x ((s.pairFail (w :: ws)).core p) := by
  have hrel := account_releases (s.failNoted w 0) (w :: ws)
  have heq : s.pairFail (w :: ws) = ((w :: ws).foldl State.releaseCopy (s.failNoted w 0)).rollBack (s.pairCores w) := by
    rw [pairFail_eq, h]
    rfl
  rw [heq]
  refine ⟨(desk_rollBack _ _).trans hrel.desk, fun p hp x hx => rollBack_wentBack hp ?_⟩
  have hstock := ((unmoved_failNoted s w 0).trans hrel.toUnmoved).stock
  exact GoesBack.of_stock ⟨hx, rfl⟩ (congrFun hstock p)

/-- What a failure that discards its operation leaves (R366, R367). -/
theorem pairFail_discard {s : State} {w : Paired} (ws : List Paired) (h : s.failStatus w ≠ 0) :
    (s.pairFail (w :: ws)).desk = (s.failNoted w (s.failStatus w)).desk ∧ Unmoved s (s.pairFail (w :: ws))
      ∧ ∀ p, p = w.core ∨ p = w.twin → (mfind ((s.pairFail (w :: ws)).core p).matched w.no).isSome = true := by
  generalize hv : Config.freeWord (s.failNoted w (s.failStatus w)).draw.1 = v
  generalize hd : (s.failNoted w (s.failStatus w)).draw.2.discardOp w v = d
  have heq : s.pairFail (w :: ws) = (w :: ws).foldl (fun t c => (t.releaseCopy c).reply c.sender c.id 0 v) d := by
    rw [pairFail_eq]
    dsimp only
    rw [if_neg h, hv, hd]
  have hacc : Account (s.failNoted w (s.failStatus w)) (s.pairFail (w :: ws)) := by
    rw [heq, ← hd]
    refine Account.trans (t := (s.failNoted w (s.failStatus w)).draw.2) (Account.of_fields rfl rfl rfl rfl) ?_
    exact (account_discardOp _ w v).trans (account_foldl _ _ (fun u c => (account_releaseCopy u c).trans (account_reply _ _ _ _ _)) _)
  refine ⟨hacc.desk, (unmoved_failNoted s w _).trans hacc.toUnmoved, fun p hp => ?_⟩
  have hmatched : ((s.pairFail (w :: ws)).core p).matched = (d.core p).matched := by
    rw [heq]
    refine foldl_keeps (fun t : State => (t.core p).matched) (fun u c => ?_) _ d
    rw [matched_reply, matched_releaseCopy]
  rw [hmatched, ← hd]
  exact discardOp_matched _ _ _ hp

/-- The launch and the mailbox of its supervisor after a failure that has left the desk as its own note did. -/
theorem launch_of_noted {s t : State} {w : Paired} {st q : Nat} {l : Launch} (hdesk : t.desk = (s.failNoted w st).desk)
    (h : s.launchOf w.core = some (q, l)) :
    (t.part q).launches = (s.part q).launches.map (fun x => if x.serial = l.serial
        then x.tainted (if st = 2 then 12 else 4) (if st = 0 then 1 else 2) else x)
      ∧ (mailRoom (s.supBox (s.supOf q)) [] 16 = true → (∀ x ∈ s.posts, x.sup = false ∨ x.dst ≠ s.supOf q) →
        t.supBox (s.supOf q) = s.supBox (s.supOf q) ++
          [eventEntry 16 (0x0E + st * 2 ^ 8 + l.lid * 2 ^ 16 + s.lp w.core * 2 ^ 32 + w.no % 2 ^ 32 * 2 ^ 64)]) := by
  rw [part_of_desk hdesk, supBox_of_desk hdesk]
  exact failNoted_launch st h

theorem pairFail_desk (s : State) (w : Paired) (ws : List Paired) : (s.pairFail (w :: ws)).desk = (s.failNoted w (s.failStatus w)).desk := by
  by_cases h : s.failStatus w = 0
  · rw [h]; exact (pairFail_rollback ws h).1
  · exact (pairFail_discard ws h).1

/-! ### The steps: heartbeats, windows, and the routers of paired operations -/

theorem heartbeat_beats {s : State} {p : Nat} (hp : (s.core p).poisoned = false) (hd : (s.core p).dead = false) (hf : s.fusedOff p = false)
    (hc : 4096 ≤ ((s.die (dieOf p)).cyc - (s.core p).hbCyc).toNat) :
    Sys2Proof.Machine.exec (.heartbeat p) s
      = .next (s.modCore p (fun c => { c with hbCyc := (s.die (dieOf p)).cyc, hbTime := s.time, hbSeen := true })) := by
  change execHeartbeat p s = _
  unfold execHeartbeat
  simp only [hp, hd, hf, Bool.false_or, decide_eq_true_eq, if_neg (Nat.not_lt.2 hc)]

/-- The end of an assigned core's window (R362). -/
theorem heartbeatWindowEnd_eq {s : State} {p : Nat} (hl : (s.core p).lpid ≠ none) (hd : (s.core p).dead = false)
    (hw : (s.core p).hbWin.toNat < (BitVec.ofNat 64 (((s.die (dieOf p)).cyc.toNat - 64) / 4096 * 4096)).toNat) :
    Sys2Proof.Machine.exec (.heartbeatWindowEnd p) s =
      let win := BitVec.ofNat 64 (((s.die (dieOf p)).cyc.toNat - 64) / 4096 * 4096)
      if (s.core p).hbSeen then .next (s.modCore p (fun c => { c with hbSeen := false, hbMiss := 0, hbWin := win }))
      else if !(s.core p).poisoned then .next s
      else if (s.core p).hbMiss = 0 then .next (s.modCore p (fun c => { c with hbMiss := 1, hbWin := win }))
      else if decide (((s.die (dieOf p)).cyc - (s.core p).hbCyc).toNat < 8256) then .next s
      else .next ((s.modCore p (fun c => { c with hbMiss := 2, hbWin := win })).declareDead p) := by
  change execHeartbeatWindowEnd p s = _
  unfold execHeartbeatWindowEnd
  dsimp only
  rw [if_neg]
  simp only [hd, Bool.or_false, Bool.or_eq_true, Option.isNone_iff_eq_none, decide_eq_true_eq, not_or]
  exact ⟨hl, Nat.not_le.2 hw⟩

/-- The second copy of a paired operation at its router. -/
theorem pairedOpArrival_eq {s : State} {k : Nat} {a b : Paired} (ha : s.paired[k]? = some a) (hb : s.paired.find? a.mates = some b) :
    Sys2Proof.Machine.exec (.pairedOpArrival k) s =
      let t := { s with paired := s.paired.filter (fun w => w != a && w != b) }
      .next (if a.what = b.what then t.pairMatch a b else t.pairFail [a, b]) := by
  change execPairedOpArrival k s = _
  unfold execPairedOpArrival
  rw [ha]
  dsimp only
  rw [hb]
  simp

/-- A copy whose mate has not come in time (R366). -/
theorem pairedOpTimeout_eq {s : State} {k : Nat} {a : Paired} (ha : s.paired[k]? = some a) (hb : s.paired.find? a.mates = none)
    (hc : 4096 ≤ ((s.die (dieOf a.sender)).cyc - a.sent).toNat) :
    Sys2Proof.Machine.exec (.pairedOpTimeout k) s = .next (({ s with paired := s.paired.filter (fun w => w != a) } : State).pairFail [a]) := by
  change execPairedOpTimeout k s = _
  unfold execPairedOpTimeout
  rw [ha]
  dsimp only
  rw [hb, if_neg]
  simp only [Option.isSome_none, Bool.false_or, decide_eq_true_eq]
  exact Nat.not_lt.2 hc

/-- Settles O50: heartbeats by the equations of their two steps, a match and a failure by what they leave. -/
theorem heartbeatSteps : Obligations.HeartbeatSteps := by
  unfold Obligations.HeartbeatSteps
  refine ⟨fun s p => ⟨?beat, ?window⟩, ?pair⟩
  case beat =>
    intro hp hd hf hc
    have hacc : Account s (s.modCore p (fun c => { c with hbCyc := (s.die (dieOf p)).cyc, hbTime := s.time, hbSeen := true })) :=
      account_modCore s p (by intros; rfl) (by intros; rfl)
    exact ⟨_, heartbeat_beats hp hd hf hc, by simp, by simp, by simp, hacc.sameMemory, hacc.contexts⟩
  case window =>
    intro hl hd hw
    have heq := heartbeatWindowEnd_eq hl hd hw
    dsimp only at heq
    refine ⟨fun hseen => ?_, fun hseen hpoison hmiss => ?_, fun hseen hpoison hmiss hc => ?_⟩
    · rw [if_pos hseen] at heq
      exact ⟨_, heq, by simp, by simp, by simp, by simpa using hd, (account_modCore s p (by intros; rfl) (by intros; rfl)).contexts⟩
    · simp only [hseen, hpoison, hmiss, Bool.false_eq_true, if_false, Bool.not_true, if_true] at heq
      exact ⟨_, heq, by simp, by simpa using hd, (account_modCore s p (by intros; rfl) (by intros; rfl)).contexts⟩
    · simp only [hseen, hpoison, hmiss, Bool.false_eq_true, if_false, Bool.not_true, decide_eq_true_eq, if_neg (Nat.not_lt.2 hc)] at heq
      obtain ⟨hdead, hmem⟩ := declareDead_core (s.modCore p (fun c => { c with hbMiss := 2, hbWin := _ })) p
      exact ⟨_, heq, hdead, hmem.trans (by simp)⟩
  case pair =>
    intro failed
    have hfail : ∀ (s : State) (a : Paired) (ws others : List Paired),
        failed s (({ s with paired := others } : State).pairFail (a :: ws)) a := by
      intro s a ws others
      refine ⟨fun h p hp x hx => ?_, fun h => ?_, fun q l hl => ?_⟩
      · obtain ⟨-, hmem, hulog, ⟨r, hctl⟩, hbb, hfifo, hno, hrep⟩ :=
          (pairFail_rollback (s := { s with paired := others }) ws h).2 p hp x hx
        exact ⟨hmem, hulog, by rw [hctl], by rw [hctl], by rw [hctl], by rw [hctl], by rw [hctl], fun n => by rw [hctl]; exact ⟨rfl, rfl, rfl⟩,
          by rw [hctl], hbb, hfifo, hno, hrep⟩
      · obtain ⟨-, hun, hmatched⟩ := pairFail_discard (s := { s with paired := others }) ws h
        exact ⟨hmatched, hun.sameMemory, hun.contexts⟩
      · exact launch_of_noted (s := { s with paired := others }) (pairFail_desk _ a ws) hl
    refine ⟨fun s k a b ha hb => ⟨fun m hwhat hact => ?_, fun hwhat => ?_⟩, fun s k a ha hb hc => ?_⟩
    · have heq := pairedOpArrival_eq ha hb
      dsimp only at heq
      rw [if_pos hwhat] at heq
      rw [← primaryFirst_fst] at hact
      obtain ⟨hmsgs, hpaired, ha', hb', hmem, hctx⟩ :=
        pairMatch_msg { s with paired := s.paired.filter (fun w => w != a && w != b) } hact
      exact ⟨_, heq, hmsgs, hpaired, ha', hb', hmem, hctx⟩
    · have heq := pairedOpArrival_eq ha hb
      dsimp only at heq
      rw [if_neg hwhat] at heq
      exact ⟨_, heq, hfail s a [b] _⟩
    · exact ⟨_, pairedOpTimeout_eq ha hb hc, hfail s a [] _⟩

end Sys2Proof.Machine
end

section
/-! PROOF. Encoding and decoding (O3, O2): each parcel gives its fields back, the prefixes of an encoding are gathered as they were, and the
opcode map holds every instruction at its place. -/

namespace Sys2Proof

/-! ### Places in the opcode map -/

/-- The entries of BR, BZ and BNZ: MIN holds the top of the offset (R39, R41). -/
theorem rowAt_branchOffset (h : BitVec 3) :
    rowAt false 17 h.toNat = some ⟨(.br · h), .brShape⟩ ∧ rowAt false 18 h.toNat = some ⟨(.bz · h), .bzShape⟩
      ∧ rowAt false 19 h.toNat = some ⟨(.bnz · h), .bzShape⟩ := by
  obtain ⟨⟨n, hn⟩⟩ := h
  interval_cases n <;> exact ⟨rfl, rfl, rfl⟩

/-- The opcode map holds every instruction at its place (R39, R40). -/
theorem rowAt_code {i : Instr} {c : Code} (h : i.code = some c) : ∃ r, rowAt c.p1 c.maj c.min = some r ∧ r.make c.e = i := by
  cases i
  case br e w => cases h; exact ⟨_, (rowAt_branchOffset w).1, rfl⟩
  case bz e w => cases h; exact ⟨_, (rowAt_branchOffset w).2.1, rfl⟩
  case bnz e w => cases h; exact ⟨_, (rowAt_branchOffset w).2.2, rfl⟩
  all_goals cases h <;> exact ⟨_, rfl, rfl⟩

/-- Every place of the map fits MAJ and MIN, and none has MAJ 31 (R26, R28). -/
theorem rowAt_bounds {p1 : Bool} {maj min : Nat} {r : Row} (h : rowAt p1 maj min = some r) : maj < 31 ∧ min < 8 := by
  have hpages : ∀ page ∈ [page0, page1], page.length < 31 ∧ ∀ rows ∈ page, rows.length ≤ 8 := by decide
  obtain ⟨hlen, hrows⟩ := hpages (if p1 then page1 else page0) (by cases p1 <;> simp)
  unfold rowAt at h
  cases hmaj : (if p1 then page1 else page0)[maj]? with
  | none => rw [hmaj] at h; cases h
  | some rows =>
    rw [hmaj] at h
    have hmin : rows[min]? = some r := h
    have hle := hrows rows (List.mem_of_getElem? hmaj)
    obtain ⟨hlt, -⟩ := List.getElem?_eq_some_iff.1 hmaj
    obtain ⟨hlt', -⟩ := List.getElem?_eq_some_iff.1 hmin
    omega

/-! ### The fields of a parcel -/

theorem isPfx_pfxParcel (k : BitVec 2) (p : BitVec 9) : isPfx (pfxParcel k p) = true := by
  have hmaj : (31#5 ++ k ++ p).extractLsb' 11 5 = 31#5 := by
    rw [BitVec.extractLsb'_append_eq_of_le (by decide)]
    exact BitVec.extractLsb'_append_eq_left
  exact beq_iff_eq.2 hmaj

theorem kind_pfxParcel (k : BitVec 2) (p : BitVec 9) : (pfxParcel k p).extractLsb' 9 2 = k := by
  unfold pfxParcel
  rw [BitVec.extractLsb'_append_eq_of_le (by decide)]
  exact BitVec.extractLsb'_append_eq_right

theorem pay_pfxParcel (k : BitVec 2) (p : BitVec 9) : pay (pfxParcel k p) = p := BitVec.extractLsb'_append_eq_right

theorem modOf_pay (m : ModFields) : modOf m.pay = m := by
  obtain ⟨t, rm, s, f, o⟩ := m
  have ht : (t ++ rm ++ BitVec.ofBool s ++ BitVec.ofBool f ++ o).extractLsb' 6 3 = t := by
    iterate 3 rw [BitVec.extractLsb'_append_eq_of_le (by decide)]
    exact BitVec.extractLsb'_append_eq_left
  have hrm : (t ++ rm ++ BitVec.ofBool s ++ BitVec.ofBool f ++ o).extractLsb' 4 2 = rm := by
    iterate 3 rw [BitVec.extractLsb'_append_eq_of_le (by decide)]
    exact BitVec.extractLsb'_append_eq_right
  have hs : (t ++ rm ++ BitVec.ofBool s ++ BitVec.ofBool f ++ o).getLsbD 3 = s := by
    simp only [BitVec.getLsbD_append]
    cases s <;> rfl
  have hf : (t ++ rm ++ BitVec.ofBool s ++ BitVec.ofBool f ++ o).getLsbD 2 = f := by
    simp only [BitVec.getLsbD_append]
    cases f <;> rfl
  unfold modOf ModFields.pay
  rw [ht, hrm, hs, hf, BitVec.extractLsb'_append_eq_right]

theorem regOf_pay (r : RegFields) : regOf r.pay = r := by
  obtain ⟨xh, yh, zp, z⟩ := r
  have hx : (xh ++ yh ++ BitVec.ofBool zp ++ z).extractLsb' 7 2 = xh := by
    iterate 2 rw [BitVec.extractLsb'_append_eq_of_le (by decide)]
    exact BitVec.extractLsb'_append_eq_left
  have hy : (xh ++ yh ++ BitVec.ofBool zp ++ z).extractLsb' 5 2 = yh := by
    iterate 2 rw [BitVec.extractLsb'_append_eq_of_le (by decide)]
    exact BitVec.extractLsb'_append_eq_right
  have hzp : (xh ++ yh ++ BitVec.ofBool zp ++ z).getLsbD 4 = zp := by
    simp only [BitVec.getLsbD_append]
    cases zp <;> rfl
  unfold regOf RegFields.pay
  rw [hx, hy, hzp, BitVec.extractLsb'_append_eq_right]

/-- A base parcel gives back the place and the fields that it was made of (R26). -/
theorem fields_base {c : Code} (hmaj : c.maj < 32) (hmin : c.min < 8) :
    (c.base.extractLsb' 11 5).toNat = c.maj ∧ (c.base.extractLsb' 8 3).toNat = c.min ∧ c.base.extractLsb' 4 4 = c.e.x
      ∧ c.base.extractLsb' 0 4 = c.e.y := by
  unfold Code.base
  refine ⟨?_, ?_, ?_, BitVec.extractLsb'_append_eq_right⟩
  · iterate 2 rw [BitVec.extractLsb'_append_eq_of_le (by decide)]
    rw [BitVec.extractLsb'_append_eq_left, BitVec.toNat_ofNat, Nat.mod_eq_of_lt hmaj]
  · iterate 2 rw [BitVec.extractLsb'_append_eq_of_le (by decide)]
    rw [BitVec.extractLsb'_append_eq_right, BitVec.toNat_ofNat, Nat.mod_eq_of_lt hmin]
  · rw [BitVec.extractLsb'_append_eq_of_le (by decide)]
    exact BitVec.extractLsb'_append_eq_right

theorem isPfx_base {c : Code} (hmaj : c.maj < 31) (hmin : c.min < 8) : isPfx c.base = false := by
  obtain ⟨hfield, -⟩ := fields_base (c := c) (by omega) hmin
  refine beq_false_of_ne (fun h => ?_)
  rw [h] at hfield
  exact absurd hfield (by change 31 ≠ c.maj; omega)

/-! ### The prefixes of an encoding -/

theorem pfxs_eq (c : Code) :
    c.pfxs = (if c.e.page then [pfxParcel 2#2 (if c.p1 then 1#9 else 0#9)] else [])
      ++ ((c.e.mod.map (fun m => pfxParcel 3#2 m.pay)).toList
        ++ ((c.e.reg.map (fun r => pfxParcel 1#2 r.pay)).toList ++ c.e.imms.map (pfxParcel 0#2))) := by
  unfold Code.pfxs
  rw [List.append_assoc, List.append_assoc]
  congr 2
  · cases c.e.mod <;> rfl
  · cases c.e.reg <;> rfl

theorem isPfx_of_mem_pfxs {c : Code} {p : Parcel} (h : p ∈ c.pfxs) : isPfx p = true := by
  simp only [pfxs_eq, List.mem_append, Option.mem_toList, Option.map_eq_some_iff, List.mem_map] at h
  obtain hpage | ⟨m, -, rfl⟩ | ⟨r, -, rfl⟩ | ⟨v, -, rfl⟩ := h
  · split at hpage
    · rw [List.mem_singleton.1 hpage]; exact isPfx_pfxParcel _ _
    · cases hpage
  all_goals exact isPfx_pfxParcel _ _

theorem length_pfxs (c : Code) : c.pfxs.length + 1 = c.e.parcels := by
  have hopt : ∀ {α : Type} (x : Option α) (f : α → Parcel), (x.map f).toList.length = x.isSome.toNat := by
    intro α x f; cases x <;> rfl
  have hpage : ∀ v : Parcel, (if c.e.page then [v] else []).length = c.e.page.toNat := by intro v; cases c.e.page <;> rfl
  simp only [pfxs_eq, List.length_append, List.length_map, hopt, hpage, Fields.parcels]
  omega

theorem splitPfx_append {ps : List Parcel} {b : Parcel} (hps : ∀ p ∈ ps, isPfx p = true) (hb : isPfx b = false) (rest : List Parcel) :
    splitPfx (ps ++ b :: rest) = (ps, b :: rest) := by
  induction ps with
  | nil => simp [splitPfx, hb]
  | cons p ps ih =>
    have hp : isPfx p = true := hps p (by simp)
    simp [splitPfx, hp, ih (fun q hq => hps q (by simp [hq]))]

/-- The IMM chunks of a chain are gathered in memory order (R29). -/
theorem gather_imms (vs : List (BitVec 9)) :
    gather (vs.map (pfxParcel 0#2)) = { page := none, mod := none, reg := none, imms := vs, bad := false } := by
  induction vs with
  | nil => rfl
  | cons v vs ih => simp [gather, ih, kind_pfxParcel, pay_pfxParcel]

/-- Prefixes in the order PAGE, MOD, REG, IMM are gathered as they were (R33). -/
theorem gather_pfxs (c : Code) :
    gather c.pfxs = { page := if c.e.page then some (if c.p1 then 1#9 else 0#9) else none, mod := c.e.mod, reg := c.e.reg,
                      imms := c.e.imms, bad := false } := by
  rw [pfxs_eq]
  have hreg : gather ((c.e.reg.map (fun r => pfxParcel 1#2 r.pay)).toList ++ c.e.imms.map (pfxParcel 0#2))
      = { page := none, mod := none, reg := c.e.reg, imms := c.e.imms, bad := false } := by
    cases c.e.reg <;> simp [gather, gather_imms, kind_pfxParcel, pay_pfxParcel, regOf_pay]
  have hmod : gather ((c.e.mod.map (fun m => pfxParcel 3#2 m.pay)).toList
        ++ ((c.e.reg.map (fun r => pfxParcel 1#2 r.pay)).toList ++ c.e.imms.map (pfxParcel 0#2)))
      = { page := none, mod := c.e.mod, reg := c.e.reg, imms := c.e.imms, bad := false } := by
    cases c.e.mod <;> simp [gather, hreg, kind_pfxParcel, pay_pfxParcel, modOf_pay]
  cases c.e.page <;> simp [gather, hmod, kind_pfxParcel, pay_pfxParcel]

/-! ### Decoding an encoding -/

/-- What makes an instruction well-formed: its prefixes are at most four, one of page 1 has its page, and its form accepts its fields. -/
theorem wellFormed_iff {i : Instr} {c : Code} {r : Row} (hc : i.code = some c) (hr : rowAt c.p1 c.maj c.min = some r) :
    i.wellFormed = true ↔ c.e.parcels ≤ 5 ∧ (c.p1 = true → c.e.page = true) ∧ r.shape.illegal c.min c.e = [] := by
  unfold Instr.wellFormed Instr.subcauses subIf
  rw [hc]; dsimp only; rw [hr]
  simp

/-- An instruction's parcels are its prefixes and its base parcel. -/
theorem encode_eq {i : Instr} {c : Code} (hc : i.code = some c) : encode i = c.pfxs ++ [c.base] := by
  unfold encode; rw [hc]

theorem length_encode {i : Instr} {c : Code} (hc : i.code = some c) : (encode i).length = c.e.parcels := by
  rw [encode_eq hc, List.length_append, List.length_singleton, length_pfxs]

theorem len_opnds {i : Instr} {c : Code} (hc : i.code = some c) : i.opnds.len = 2 * c.e.parcels := by
  obtain ⟨r, hr, -⟩ := rowAt_code hc
  unfold Instr.opnds; rw [hc]; dsimp only; rw [hr]; rfl

/-- The decoder reads a well-formed instruction from its parcels, whatever follows them. -/
theorem decode_encode {i : Instr} {c : Code} (hc : i.code = some c) (hw : i.wellFormed = true) (rest : List Parcel) :
    decode (encode i ++ rest) = .ok i (encode i).length := by
  obtain ⟨r, hr, hmake⟩ := rowAt_code hc
  obtain ⟨hmaj, hmin⟩ := rowAt_bounds hr
  obtain ⟨hcount, hpage, hlegal⟩ := (wellFormed_iff hc hr).1 hw
  obtain ⟨hfmaj, hfmin, hfx, hfy⟩ := fields_base (c := c) (by omega) hmin
  have hlen := length_pfxs c
  have hsplit : splitPfx (encode i ++ rest) = (c.pfxs, c.base :: rest) := by
    rw [encode_eq hc, List.append_assoc]
    exact splitPfx_append (fun p => isPfx_of_mem_pfxs) (isPfx_base hmaj hmin) rest
  have hread : ∀ page, page = c.e.page → { c.e with page := page } = c.e := by rintro _ rfl; rfl
  unfold decode decodeFor
  rw [hsplit]
  dsimp only
  rw [if_neg (by omega), gather_pfxs, hfmaj, hfmin, hfx, hfy, length_encode hc, ← hlen, ← hmake]
  cases hp1 : c.p1 with
  | true =>
    rw [hp1] at hr
    have hg := hread true (hpage hp1).symm
    simp [hpage hp1, hr, hg, hlegal, subIf]
  | false =>
    rw [hp1] at hr
    cases hpg : c.e.page with
    | true => simp [hr, hread true hpg.symm, hlegal, subIf]
    | false => simp [hr, hread false hpg.symm, hlegal, subIf]

/-- Settles O3, by the parcels of an encoding: each is read back as it was written. -/
theorem encodeDecode : Obligations.EncodeDecode := by
  unfold Obligations.EncodeDecode
  intro i rest hsome hw
  obtain ⟨c, hc⟩ := Option.isSome_iff_exists.1 hsome
  obtain ⟨r, hr, -⟩ := rowAt_code hc
  refine ⟨decode_encode hc hw rest, ?_, ?_⟩
  · rw [length_encode hc, len_opnds hc]
  · rw [length_encode hc]
    exact ((wellFormed_iff hc hr).1 hw).1

/-- Parcels that are the encoding of a well-formed instruction decode to it. -/
theorem decode_of_encode {i : Instr} {ps : List Parcel} (henc : encode i = ps) (hsome : i.code.isSome = true) (hw : i.wellFormed = true) :
    decode ps = .ok i ps.length := by
  subst henc
  obtain ⟨c, hc⟩ := Option.isSome_iff_exists.1 hsome
  simpa using decode_encode hc hw []

/-- Settles O2: each word is the encoding of its instruction, which is well-formed; a parcel of zeros is of MAJ 0, where the map is empty. -/
theorem decodeWords : Obligations.DecodeWords := by
  unfold Obligations.DecodeWords
  intro f
  refine ⟨?ffma, ?kmov, ?mstr, ?rlupd, ?br, ?rejoin, ?bstep, ?actAbn, ?nop, ?zero⟩
  case zero => decide
  all_goals exact decode_of_encode (by decide) (by decide) (by decide)

end Sys2Proof
end

section
/-! PROOF. What traps at decode (O36, O37): an ill-formed instruction and one that the level may not run enter the resident handler. -/

namespace Sys2Proof.Machine

/-! ### The level in CTX.TSW -/

theorem lvlOf_wput (x : Word) {l : Nat} (hl : l < 4) : lvlOf (wput x 0 2 l) = l := by
  unfold lvlOf wput wfield withBits bits
  have hx : x.toNat < 2 ^ 64 := x.isLt
  simp
  omega

theorem lvlOf_or (x y : Word) : lvlOf (x ||| y) = lvlOf x ||| lvlOf y := by
  unfold lvlOf wfield bits
  simp only [Nat.pow_zero, Nat.div_one, BitVec.toNat_or, Nat.or_mod_two_pow]

/-! ### Entering the handler -/

/-- What a trap of the running context leaves when no handler is active (R326): the context has entered the handler, and nothing else has
come of its instruction. -/
structure TookTrap (s : State) (cause : Cause) (epc : Word) (t : State) : Prop where
  /-- TRAP.EPC. -/
  epcWord : t.me.epc = epc &&& ~~~1#64
  /-- TRAP.CAUSE. -/
  causeWord : t.me.cause = BitVec.ofNat 64 (cause.sub * 256 + cause.cls)
  /-- TRAP.INFO. -/
  infoWord : t.me.info = cause.info
  /-- The handler is the running context's. -/
  handler : t.me.handler = some s.ctx
  /-- It goes on at CORE.HVEC. -/
  pc : t.cx.pc = s.me.hvec
  /-- At S level. -/
  level : lvlOf t.cx.tsw = 1
  /-- The shadow's window. -/
  window : t.me.shadow.win = s.cx.win
  /-- The level that the shadow holds. -/
  shadowLevel : lvlOf t.me.shadow.tsw = s.level
  /-- Scalar and vector registers. -/
  regs : ∀ n, t.cx.sreg n = s.cx.sreg n ∧ t.cx.vreg n = s.cx.vreg n
  /-- Every core's local memory. -/
  mem : ∀ p, (t.core p).mem = (s.core p).mem

/-- Dropping the running context's unfinished records sets no bit of its level (R70). -/
theorem dropAsm_running (s : State) :
    ∃ b, lvlOf b = 0 ∧ (s.dropAsm s.cur s.ctx).cx = { s.cx with tsw := s.cx.tsw ||| b }
      ∧ (s.dropAsm s.cur s.ctx).me.handler = s.me.handler ∧ (s.dropAsm s.cur s.ctx).me.hvec = s.me.hvec := by
  have hflag : ∀ (h : Bool) (n : Nat), n ∈ [9, 10, 11] → lvlOf (if h then orBit 0 n else 0) = 0 := by
    intro h n hn
    fin_cases hn <;> cases h <;> rfl
  unfold State.cx State.me State.dropAsm
  simp only [State.modCore_cur, State.modCore_ctx, State.core_modCore_self, Core.context_modContext_self]
  refine ⟨_, ?_, rfl, by simp, by simp⟩
  rw [lvlOf_or, lvlOf_or, hflag _ 9 (by simp), hflag _ 10 (by simp), hflag _ 11 (by simp)]
  rfl

theorem Quiet.cx {s t : State} (h : Quiet s t) : t.cx = s.cx := by
  unfold State.cx State.me
  rw [h.cur, h.ctx]
  exact h.1 _ _

theorem Quiet.me {s t : State} (h : Quiet s t) {α : Type} (g : Core → α) (hg : ∀ c : Core, g c = g c.rest) : g t.me = g s.me := by
  unfold State.me
  rw [h.cur]
  exact h.alike.core g hg _

/-- The entry of a precise trap of the running context. -/
def State.entryHere (s : State) (cause : Cause) (epc : Word) : Entry :=
  { ctx := s.ctx, cls := cause.cls, sub := cause.sub, info := cause.info, epc := epc, seq := 0 }

theorem enterHandler_tookTrap (u : State) (cause : Cause) (epc : Word) : TookTrap u cause epc (u.enterHandler u.cur (u.entryHere cause epc)) where
  epcWord := by simp [State.enterHandler, State.entryHere, State.me]
  causeWord := by simp [State.enterHandler, State.entryHere, State.me]
  infoWord := by simp [State.enterHandler, State.entryHere, State.me]
  handler := by simp [State.enterHandler, State.entryHere, State.me]
  pc := by simp [State.enterHandler, State.entryHere, State.me, State.cx]
  level := by simp [State.enterHandler, State.entryHere, State.me, State.cx, lvlOf_wput]
  window := by simp [State.enterHandler, State.entryHere, State.me, State.cx]
  shadowLevel := by simp [State.enterHandler, State.entryHere, State.me, State.cx, State.level]
  regs n := by simp [State.enterHandler, State.entryHere, State.me, State.cx, Context.sreg, Context.vreg]
  mem p := congrArg (·.1) (congrFun (stock_enterHandler u u.cur _) p)

/-- What a trap leaves does not turn on bits of CTX.TSW above the level. -/
theorem TookTrap.of_running {s u t : State} {cause : Cause} {epc b : Word} (h : TookTrap u cause epc t) (hctx : u.ctx = s.ctx)
    (hhvec : u.me.hvec = s.me.hvec) (hb : lvlOf b = 0) (hcx : u.cx = { s.cx with tsw := s.cx.tsw ||| b })
    (hmem : ∀ p, (u.core p).mem = (s.core p).mem) : TookTrap s cause epc t where
  epcWord := h.epcWord
  causeWord := h.causeWord
  infoWord := h.infoWord
  handler := hctx ▸ h.handler
  pc := h.pc.trans hhvec
  level := h.level
  window := h.window.trans (by rw [hcx])
  shadowLevel := h.shadowLevel.trans (by unfold State.level; rw [hcx, lvlOf_or, hb, Nat.or_zero])
  regs n := by
    obtain ⟨hs, hv⟩ := h.regs n
    rw [hs, hv, hcx]
    exact ⟨rfl, rfl⟩
  mem p := (h.mem p).trans (hmem p)

/-- A trap of a context that runs no compensation routine, on a core with no active handler, enters the handler (R326). -/
theorem takeTrap_tookTrap {s : State} (hcomp : s.cx.comp = none) (hh : s.me.handler = none) (cause : Cause) (epc : Word) :
    TookTrap s cause epc (s.takeTrap cause epc) := by
  obtain ⟨b, hb, hcx, hhandler, hhvec⟩ := dropAsm_running s
  have hwaits : s.trapWaits = false := by unfold State.trapWaits; rw [hcomp]; rfl
  obtain ⟨u, hu⟩ : ∃ u, u = if (s.dropAsm s.cur s.ctx).ctx = 0 then (s.dropAsm s.cur s.ctx).leaveGang (s.dropAsm s.cur s.ctx).cur
    else s.dropAsm s.cur s.ctx := ⟨_, rfl⟩
  have hquiet : Quiet (s.dropAsm s.cur s.ctx) u := by
    rw [hu]
    split
    · exact quiet_leaveGang _ _
    · exact Quiet.refl _
  have hucx := hquiet.cx.trans hcx
  have huhandler := (hquiet.me Core.handler (fun _ => rfl)).trans (hhandler.trans hh)
  have henter : s.takeTrap cause epc = u.enterHandler u.cur (u.entryHere cause epc) := by
    unfold State.takeTrap
    rw [hwaits, if_neg (by decide)]
    dsimp only
    rw [← hu, hucx]
    dsimp only
    rw [hcomp]
    dsimp only
    rw [huhandler, if_neg (by simp)]
    unfold State.deliver
    have hnone : (u.core u.cur).handler = none := huhandler
    rw [hnone]
    rfl
  rw [henter]
  refine (enterHandler_tookTrap u cause epc).of_running hquiet.ctx ?_ hb hucx (fun p => ?_)
  · exact (hquiet.me Core.hvec (fun _ => rfl)).trans hhvec
  · exact congrArg (·.1) (congrFun (hquiet.alike.stock.trans (stock_dropAsm s s.cur s.ctx)) p)

/-! ### Decode-time traps -/

/-- Every instruction that has an encoding is issued. -/
theorem exec_eq_issue {i : Instr} {c : Code} (h : i.code = some c) (s : State) :
    ∃ eff, Sys2Proof.Machine.exec i s = .next (s.issue i eff) := by
  cases i <;> cases h <;> exact ⟨_, rfl⟩

theorem row_of_formOf {i : Instr} {c : Code} {sh : Shape} (h : formOf i = some (c, sh)) :
    i.code = some c ∧ ∃ r, rowAt c.p1 c.maj c.min = some r ∧ r.shape = sh := by
  unfold formOf at h
  cases hc : i.code with
  | none => rw [hc] at h; cases h
  | some c' =>
    rw [hc] at h; dsimp only at h
    cases hr : rowAt c'.p1 c'.maj c'.min with
    | none => rw [hr] at h; cases h
    | some r => rw [hr] at h; cases h; exact ⟨rfl, r, hr, rfl⟩

theorem opnds_of_formOf {i : Instr} {c : Code} {sh : Shape} (h : formOf i = some (c, sh)) : i.opnds = sh.opnds c.min c.e := by
  obtain ⟨hc, r, hr, rfl⟩ := row_of_formOf h
  unfold Instr.opnds
  rw [hc]; dsimp only; rw [hr]

/-- The subcauses of R42 that apply to an instruction in the running context, by its form. -/
def State.subsOf (s : State) (i : Instr) (c : Code) (sh : Shape) : List Nat := i.subcauses ++ subIf (c.barred sh s.who) 7

theorem wellFormedFor_iff {i : Instr} {c : Code} {sh : Shape} (h : formOf i = some (c, sh)) (s : State) :
    i.wellFormedFor s.who = true ↔ s.subsOf i c sh = [] := by
  obtain ⟨hc, r, hr, rfl⟩ := row_of_formOf h
  unfold Instr.wellFormedFor Instr.wellFormed State.subsOf subIf
  rw [hc]; dsimp only; rw [hr]
  simp

/-- An instruction to which a subcause applies traps with the lowest (R42). -/
theorem issue_illegal {i : Instr} {c : Code} {sh : Shape} {s : State} (h : formOf i = some (c, sh)) (hill : s.subsOf i c sh ≠ []) (eff : Eff) :
    s.issue i eff = s.takeTrap { cls := 2, sub := lowest (s.subsOf i c sh), info := 0 } s.cx.pc := by
  obtain ⟨hc, r, hr, rfl⟩ := row_of_formOf h
  have hsubs : (i.subcauses ++ subIf (c.barred r.shape s.who) 7).isEmpty = false := List.isEmpty_eq_false_iff.2 hill
  unfold State.issue
  rw [hc]; dsimp only; rw [hr]; dsimp only
  rw [hsubs]
  rfl

/-- A well-formed instruction that the level may not run traps at decode (R44). -/
theorem issue_privileged {i : Instr} {c : Code} {sh : Shape} {s : State} (h : formOf i = some (c, sh)) (hlegal : s.subsOf i c sh = [])
    (hbar : privBars c i.opnds s.level = true) (eff : Eff) : s.issue i eff = s.takeTrap { cls := 4, sub := 0, info := 0 } s.cx.pc := by
  rw [opnds_of_formOf h] at hbar
  obtain ⟨hc, r, hr, rfl⟩ := row_of_formOf h
  have hsubs : (i.subcauses ++ subIf (c.barred r.shape s.who) 7).isEmpty = true := List.isEmpty_iff.2 hlegal
  unfold State.issue
  rw [hc]; dsimp only; rw [hr]; dsimp only
  rw [hsubs, hbar]
  rfl

/-- U level may not run the S-only instructions, nor SRD and SWR of a register above it (R44, R286). -/
theorem privBars_user {i : Instr} {c : Code} (hc : i.code = some c) (h : sOnly c = true ∨ (∃ e, i = .srd e ∧ 1 ≤ readLevel i.opnds.imm.toNat)
    ∨ ∃ e, i = .swr e ∧ 1 ≤ writeLevel i.opnds.imm.toNat) : privBars c i.opnds 0 = true := by
  unfold privBars
  obtain hs | ⟨e, rfl, hlvl⟩ | ⟨e, rfl, hlvl⟩ := h
  · simp [hs]
  · cases hc
    simp; omega
  · cases hc
    simp; omega

/-- Settles O36: the lowest subcause is taken to the handler. -/
theorem illegalTakesException : Obligations.IllegalTakesException := by
  unfold Obligations.IllegalTakesException
  intro i s c sh hform hcomp hh hill
  obtain ⟨eff, hexec⟩ := exec_eq_issue (row_of_formOf hform).1 s
  have htrap := takeTrap_tookTrap hcomp hh { cls := 2, sub := lowest (s.subsOf i c sh), info := 0 } s.cx.pc
  rw [← issue_illegal hform (fun h => hill ((wellFormedFor_iff hform s).2 h)) eff] at htrap
  exact ⟨_, hexec, htrap.epcWord, htrap.causeWord, htrap.infoWord, htrap.handler, htrap.pc, htrap.level, htrap.window, htrap.regs, htrap.mem⟩

/-- Settles O37: the level bars the instruction at decode, and the trap of class 4 is taken to the handler. -/
theorem privilegeTakesException : Obligations.PrivilegeTakesException := by
  unfold Obligations.PrivilegeTakesException
  intro i s c sh hform hwell hbars hlevel hcomp hh
  obtain ⟨hc, -⟩ := row_of_formOf hform
  obtain ⟨eff, hexec⟩ := exec_eq_issue hc s
  have htrap := takeTrap_tookTrap hcomp hh { cls := 4, sub := 0, info := 0 } s.cx.pc
  rw [← issue_privileged hform ((wellFormedFor_iff hform s).1 hwell) (hlevel ▸ privBars_user hc hbars) eff] at htrap
  have hshadow := htrap.shadowLevel.trans hlevel
  unfold lvlOf wfield bits at hshadow
  refine ⟨_, hexec, htrap.epcWord, htrap.causeWord, htrap.infoWord, htrap.handler, htrap.pc, htrap.level, ?_, htrap.regs, htrap.mem⟩
  simpa using hshadow

end Sys2Proof.Machine
end

section
/-! PROOF. A step (O1): the fetch of an instruction that stands in local memory, a device step, time that passes, the host's write of TAIL. -/

namespace Sys2Proof.Machine

/-! ### Fetching from local memory (R25, R27) -/

theorem spaceOf_local {a n : Nat} (hn : 0 < n) (h : a + n ≤ 0x400000) : spaceOf a n = some .loc := by
  unfold spaceOf spaceAt
  rw [if_pos (by omega), if_pos (by omega)]
  rfl

/-- A parcel of local memory, with no error marks, is read as it stands. -/
theorem fetchParcel_local {u : State} (herrs : u.errs = []) {a : Nat} (ha : a + 2 ≤ 0x400000) :
    u.fetchParcel a = .ok (BitVec.ofNat 16 (bread u.me.mem a 2), u) := by
  have hcheck : u.check a 2 3 false 9 true = .ok (.loc a, u) := by
    unfold State.check
    rw [spaceOf_local (by decide) ha]
    rfl
  have hbad : u.placeBad (.loc a) 2 = false := by simp [State.placeBad, State.hardErr, herrs]
  have hfix : u.placeFix (.loc a) 2 = u := by simp [State.placeFix, herrs]
  unfold State.fetchParcel
  rw [hcheck]
  dsimp only
  rw [hbad, hfix]
  rfl

/-- The parcels `ps` stand in a memory from an address on. -/
def Stands (m : Mem) (a : Nat) (ps : List Parcel) : Prop :=
  ∀ j, j < ps.length → some (bread m (a + 2 * j) 2) = ps[j]?.map (fun w => w.toNat)

theorem Stands.head {m : Mem} {a : Nat} {p : Parcel} {ps : List Parcel} (h : Stands m a (p :: ps)) : bread m a 2 = p.toNat := by
  simpa using h 0 (by simp)

theorem Stands.tail {m : Mem} {a : Nat} {p : Parcel} {ps : List Parcel} (h : Stands m a (p :: ps)) : Stands m (a + 2) ps := by
  intro j hj
  have hnext := h (j + 1) (by simpa using hj)
  rw [List.getElem?_cons_succ, show a + 2 * (j + 1) = a + 2 + 2 * j from by omega] at hnext
  exact hnext

/-- An instruction of at most `fuel` parcels that stands in local memory is fetched whole. -/
theorem fetchFrom_standing {u : State} (herrs : u.errs = []) {b : Parcel} (hb : isPfx b = false) :
    ∀ (ps : List Parcel) (a fuel : Nat), (∀ p ∈ ps, isPfx p = true) → Stands u.me.mem a (ps ++ [b]) →
      a + 2 * (ps.length + 1) ≤ 0x400000 → ps.length < fuel → u.fetchFrom a fuel = .ok (ps ++ [b], u) := by
  intro ps
  induction ps with
  | nil =>
    intro a fuel _ hstands ha hfuel
    obtain ⟨n, rfl⟩ : ∃ n, fuel = n + 1 := ⟨fuel - 1, by simp at hfuel; omega⟩
    unfold State.fetchFrom
    rw [fetchParcel_local herrs (by simpa using ha), hstands.head]
    simp [hb]
  | cons p ps ih =>
    intro a fuel hpfx hstands ha hfuel
    rw [List.length_cons] at ha hfuel
    obtain ⟨n, rfl⟩ : ∃ n, fuel = n + 1 := ⟨fuel - 1, by omega⟩
    have hrest := ih (a + 2) n (fun q hq => hpfx q (List.mem_cons_of_mem _ hq)) hstands.tail (by omega) (by omega)
    have hwrap : (a + 2) % 2 ^ 64 = a + 2 := Nat.mod_eq_of_lt (by omega)
    unfold State.fetchFrom
    rw [fetchParcel_local herrs (by omega), hstands.head]
    dsimp only
    rw [BitVec.ofNat_toNat, BitVec.setWidth_eq, if_pos (hpfx p List.mem_cons_self), hwrap, hrest]
    rfl

/-- A well-formed instruction that stands in local memory at the running context's PC is fetched and run. -/
theorem fetchTurn_standing {u : State} {i : Instr} (herrs : u.errs = []) (hsome : i.code.isSome = true) (hw : i.wellFormed = true)
    (hstands : Stands u.me.mem u.cx.pc.toNat (encode i)) (hin : u.cx.pc.toNat + 2 * (encode i).length ≤ 0x400000) :
    u.fetchTurn = .run i u := by
  obtain ⟨c, hc⟩ := Option.isSome_iff_exists.1 hsome
  obtain ⟨r, hr, -⟩ := rowAt_code hc
  obtain ⟨hmaj, hmin⟩ := rowAt_bounds hr
  have hlen := (encodeDecode i [] hsome hw).2.2
  have hdec := decode_of_encode rfl hsome hw
  rw [encode_eq hc, List.length_append, List.length_singleton] at hlen hin
  have hfetch : u.fetch u.cx.pc = .ok (encode i, u) := by
    rw [encode_eq hc] at hstands ⊢
    exact fetchFrom_standing herrs (isPfx_base hmaj hmin) c.pfxs _ 5 (fun p => isPfx_of_mem_pfxs) hstands hin (by omega)
  unfold State.fetchTurn
  rw [hfetch]
  dsimp only
  unfold State.decodeTurn
  rw [hdec]

/-- A fused member issues from its queue (R153). -/
theorem queued_of_fused {c : Core} (h : c.fused = true) : c.queued = true := by
  unfold Core.fused at h
  unfold Core.queued
  rw [Bool.and_eq_true] at h ⊢
  exact ⟨by rw [h.1, Bool.true_or], h.2⟩

/-- A context with no replay, no repetition and no queue fetches its own next instruction. -/
theorem contextTurn_eq_fetchTurn {u : State} (hrep : u.cx.rep.parcels = [])
    (hctl : u.ctx = 0 → (u.me.replay = none ∨ u.me.handler = some 0) ∧ u.me.queued = false) : u.contextTurn = u.fetchTurn := by
  have hahead : (if u.ctx = 0 && u.me.fused then u.fetchAhead else u) = u := by
    refine if_neg (fun h => ?_)
    simp only [Bool.and_eq_true, decide_eq_true_eq] at h
    obtain ⟨hzero, hfused⟩ := h
    exact absurd (queued_of_fused hfused) (ne_true_of_eq_false (hctl hzero).2)
  have hreplay : (if u.ctx = 0 && u.me.handler != some 0 then u.me.replay else none) = none := by
    by_cases hzero : u.ctx = 0
    · obtain hnone | hactive := (hctl hzero).1
      · rw [hnone, ite_self]
      · simp [hactive]
    · simp [hzero]
  have hqueue : (u.ctx = 0 && u.me.queued) = false := by
    by_cases hzero : u.ctx = 0
    · simp [(hctl hzero).2]
    · simp [hzero]
  unfold State.contextTurn
  dsimp only
  rw [hahead, hreplay, hrep]
  dsimp only
  rw [hqueue]
  rfl

/-! ### Cycles -/

theorem mfind_map {α : Type} (m : Map α) (f : Nat → α → α) (i : Nat) :
    mfind (m.map (fun kv => (kv.1, f kv.1 kv.2))) i = (mfind m i).map (f i) := by
  induction m with
  | nil => rfl
  | cons kv m ih =>
    obtain ⟨k, v⟩ := kv
    simp only [List.map_cons, mfind, ih]
    split
    · rename_i h; subst h; rfl
    · rfl

theorem mget_map {α : Type} {d : α} (m : Map α) (f : Nat → α → α) (i : Nat) (hd : f i d = d) :
    mget d (m.map (fun kv => (kv.1, f kv.1 kv.2))) i = f i (mget d m i) := by
  unfold mget
  rw [mfind_map]
  cases mfind m i with
  | none => exact hd.symm
  | some v => rfl

theorem core_cyclesOn (s : State) (die n p : Nat) :
    (s.cyclesOn die n).core p = if dieOf p = die then (s.core p).cycles n else s.core p :=
  mget_map s.cores (fun p c => if dieOf p = die then c.cycles n else c) p (ite_self _)

@[simp] theorem cyclesOn_sched (s : State) (die n : Nat) : (s.cyclesOn die n).sched = s.sched := State.modDie_sched _ _ _
@[simp] theorem cyclesOn_errs (s : State) (die n : Nat) : (s.cyclesOn die n).errs = s.errs := State.modDie_errs _ _ _
@[simp] theorem cyclesOn_time (s : State) (die n : Nat) : (s.cyclesOn die n).time = s.time := State.modDie_time _ _ _
@[simp] theorem cyclesOn_clusters (s : State) (die n : Nat) : (s.cyclesOn die n).clusters = s.clusters := State.modDie_clusters _ _ _
@[simp] theorem cyclesOn_phys (s : State) (die n : Nat) : (s.cyclesOn die n).phys = s.phys := State.modDie_phys _ _ _

/-- What a cycle of a die leaves of a core: its memory, its contexts and the order of its issue. -/
theorem cyclesOn_core (s : State) (die n p : Nat) {α : Type} (g : Core → α) (hg : ∀ c : Core, g (c.cycles n) = g c) :
    g ((s.cyclesOn die n).core p) = g (s.core p) := by
  rw [core_cyclesOn]
  split
  · exact hg _
  · rfl

/-! ### The turn of a core in focus -/

/-- The state in which a core's context runs once the round robin has taken it: its die has counted a cycle. -/
def State.picked (s : State) (p k : Nat) : State :=
  { (s.cyclesOn (dieOf p) 1).modCore p (fun c => { c with rr := (k + 1) % 11 }) with cur := p, ctx := k }

/-- The round robin and the cycle leave everything of the core that its issue looks at. -/
theorem picked_me (s : State) (p k : Nat) {α : Type} (g : Core → α) (hg : ∀ (c : Core) (n r : Nat), g { c.cycles n with rr := r } = g c) :
    g (s.picked p k).me = g (s.core p) := by
  have hme : (s.picked p k).me = { (s.cyclesOn (dieOf p) 1).core p with rr := (k + 1) % 11 } :=
    State.core_modCore_self (s.cyclesOn (dieOf p) 1) p (fun c => { c with rr := (k + 1) % 11 })
  rw [hme, core_cyclesOn, if_pos rfl, hg]

/-! ### Whose turn it is (R6, R386) -/

/-- The turn that the head of the schedule gives; with an empty schedule it is the core's in focus. -/
def State.scheduled (s : State) : List Move → Turn
  | [] => { s with late := false }.issueTurn s.focus
  | .host fn off n v :: rest => .settled ({ s with sched := rest }.hostWrite fn off n v)
  | .event i :: rest => { s with sched := rest }.eventTurn i
  | .issue p late :: rest => { s with sched := rest, late := late }.issueTurn p
  | .elapse a b n :: rest => .settled ({ s with sched := rest }.elapse a b n)

/-- With power, the schedule decides, after a boot that has stopped only of what runs then. -/
theorem turn_eq_scheduled {s : State} {ms : List Move} (hpower : s.power = true) (hsched : s.sched = ms)
    (hboot : s.secure.halted = false ∨ (ms.head?).any Move.whenHalted = true) : s.turn = s.scheduled ms := by
  subst hsched
  have hruns : ¬(s.secure.halted && !((s.sched.head?).any Move.whenHalted)) = true := by
    obtain h | h := hboot <;> simp [h]
  unfold State.turn
  rw [if_neg (by simp [hpower]), if_neg hruns]
  split <;> rename_i h <;> exact (congrArg s.scheduled h).symm

/-- A living core with nothing to do first gives the turn to the context that the round robin takes (R148). -/
theorem issueTurn_of_pick {s : State} {p k : Nat} (halive : s.alive p = true) (hbefore : s.beforeIssue p = none) (hpick : s.pick p = some k) :
    s.issueTurn p = (s.picked p k).contextTurn := by
  unfold State.issueTurn
  rw [halive, hbefore]
  dsimp only
  rw [hpick]
  rfl

theorem step_of_run {s t : State} {i : Instr} (h : s.turn = .run i t) : Sys2Proof.Machine.step s = Sys2Proof.Machine.exec i t := by
  unfold Sys2Proof.Machine.step; rw [h]

theorem step_of_settled {s t : State} (h : s.turn = .settled t) : Sys2Proof.Machine.step s = .next t := by
  unfold Sys2Proof.Machine.step; rw [h]

/-- The step of the core in focus runs the instruction that stands at the PC of the context whose turn it is. -/
theorem step_of_standing {s : State} {i : Instr} {k : Nat} (hpower : s.power = true) (hboot : s.secure.halted = false) (hsched : s.sched = [])
    (herrs : s.errs = []) (halive : s.alive s.focus = true) (hbefore : ({ s with late := false }).beforeIssue s.focus = none)
    (hpick : ({ s with late := false }).pick s.focus = some k)
    (hctl : k = 0 → ((s.core s.focus).replay = none ∨ (s.core s.focus).handler = some 0) ∧ (s.core s.focus).queued = false)
    (hrep : ((s.core s.focus).context k).rep.parcels = []) (hsome : i.code.isSome = true) (hw : i.wellFormed = true)
    (hin : ((s.core s.focus).context k).pc.toNat + 2 * (encode i).length ≤ 0x400000)
    (hstands : Stands (s.core s.focus).mem ((s.core s.focus).context k).pc.toNat (encode i)) :
    Sys2Proof.Machine.step s = Sys2Proof.Machine.exec i (({ s with late := false } : State).picked s.focus k) := by
  generalize hu : ({ s with late := false } : State).picked s.focus k = u
  have hme : ∀ {α : Type} (g : Core → α), (∀ (c : Core) (n r : Nat), g { c.cycles n with rr := r } = g c) → g u.me = g (s.core s.focus) :=
    fun g hg => hu ▸ picked_me ({ s with late := false } : State) s.focus k g hg
  have huctx : u.ctx = k := hu ▸ rfl
  have huerrs : u.errs = [] := by rw [← hu]; exact (cyclesOn_errs _ _ _).trans herrs
  have hucx : u.cx = (s.core s.focus).context k := by
    unfold State.cx
    rw [huctx]
    exact hme (fun c => c.context k) (fun _ _ _ => rfl)
  have humem := hme Core.mem (fun _ _ _ => rfl)
  have hturn : s.turn = u.contextTurn :=
    (turn_eq_scheduled hpower hsched (.inl hboot)).trans
      ((issueTurn_of_pick (s := { s with late := false }) halive hbefore hpick).trans (hu ▸ rfl))
  apply step_of_run
  rw [hturn, contextTurn_eq_fetchTurn]
  · refine fetchTurn_standing huerrs hsome hw ?_ ?_
    · rw [humem, hucx]; exact hstands
    · rw [hucx]; exact hin
  · rw [hucx]; exact hrep
  · rw [huctx, hme Core.replay (fun _ _ _ => rfl), hme Core.handler (fun _ _ _ => rfl), hme Core.queued (fun _ _ _ => rfl)]
    exact hctl

/-! ### The schedule -/

/-- A device step at the head of the schedule, which no stopped clock and no held link keeps back (R383, R385). -/
theorem eventTurn_run {s : State} {i : Instr} (hcode : i.code = none) (hne : i ≠ .repReissue)
    (hneeds : ∀ d, dieNeeded i = some d → (s.die d).relock = false) (hlink : s.stepHolds i = false)
    (harrives : ∀ d ∈ s.arrivalDies i, (s.die d).relock = false) : s.eventTurn i = .run i s := by
  have hheld : ((dieNeeded i).toList ++ s.arrivalDies i).any (fun d => (s.die d).relock) = false := by
    rw [List.any_eq_false]
    intro d hd
    rw [List.mem_append, Option.mem_toList] at hd
    obtain hd | hd := hd
    · rw [hneeds d hd]; decide
    · rw [harrives d hd]; decide
  unfold State.eventTurn
  dsimp only
  rw [hheld, hcode, hlink, beq_false_of_ne hne]
  rfl

/-- Time that passes counts for cores and clusters, and moves no register and no memory. -/
theorem elapse_spec (s : State) (a b n : Nat) : (s.elapse a b n).sched = s.sched ∧ (s.elapse a b n).time = s.time + BitVec.ofNat 64 n
    ∧ SameMemory s (s.elapse a b n) ∧ SameContexts s (s.elapse a b n) := by
  have hcore : ∀ p {α : Type} (g : Core → α), (∀ (c : Core) (m : Nat), g (c.cycles m) = g c) → g ((s.elapse a b n).core p) = g (s.core p) := by
    intro p α g hg
    unfold State.elapse
    rw [cyclesOn_core _ _ _ _ g (fun c => hg c _), cyclesOn_core _ _ _ _ g (fun c => hg c _)]
    rfl
  have hcluster : ∀ cl, ((s.elapse a b n).cluster cl).mem = (s.cluster cl).mem := by
    intro cl
    unfold State.elapse State.cluster mget
    rw [cyclesOn_clusters, cyclesOn_clusters]
    dsimp only
    rw [mfind_map s.clusters (fun j c => { c with idle := if s.clusterIdle j then c.idle + n else 0 })]
    cases mfind s.clusters cl <;> rfl
  refine ⟨?_, ?_, ⟨fun p => hcore p Core.mem (fun _ _ => rfl), hcluster, ?_⟩, fun p k => hcore p (fun c => c.context k) (fun _ _ => rfl)⟩
  · unfold State.elapse; rw [cyclesOn_sched, cyclesOn_sched]
  · unfold State.elapse; rw [cyclesOn_time, cyclesOn_time]
  · unfold State.elapse; rw [cyclesOn_phys, cyclesOn_phys]

/-- The host's write of TAIL in BAR 0 of a virtual function (R379). -/
theorem hostWrite_tail (s : State) {fn : Nat} (v : Nat) (hlo : 1 ≤ fn) (hhi : fn ≤ 16) :
    s.hostWrite fn 0x4000 8 v = s.modPart (fn - 1) (fun x => { x with tail := BitVec.ofNat 64 v }) := by
  have hpart : fnPart fn = fn - 1 := if_neg (by omega)
  unfold State.hostWrite
  rw [hpart]
  simp [hhi, show fn ≠ 0 by omega]

/-- Settles O1: the turn of a schedule, the fetch of what stands in local memory by the round trip of O3, and what each move leaves. -/
theorem stepRunsDecoded : Obligations.StepRunsDecoded := by
  unfold Obligations.StepRunsDecoded
  refine ⟨?decoded, ?event, ?elapse, ?host, ?off⟩
  case decoded =>
    intro s i k p u x hpower hboot hsched herrs halive hbefore hpick hctl hrep hsome hw hin hstands
    exact step_of_standing hpower hboot hsched herrs halive hbefore hpick hctl hrep hsome hw hin hstands
  case event =>
    intro s i rest hpower hboot hsched hcode hne hneeds hlink harrives
    exact step_of_run ((turn_eq_scheduled hpower hsched (.inl hboot)).trans (eventTurn_run hcode hne hneeds hlink harrives))
  case elapse =>
    intro s a b n rest hpower hsched
    exact ⟨_, step_of_settled (turn_eq_scheduled hpower hsched (.inr rfl)), elapse_spec _ a b n⟩
  case host =>
    intro s fn v rest hpower hboot hsched hlo hhi
    have hwrite := hostWrite_tail ({ s with sched := rest } : State) v hlo hhi
    refine ⟨_, step_of_settled (turn_eq_scheduled hpower hsched (.inl hboot)), ?_⟩
    rw [hwrite]
    exact ⟨rfl, by rw [State.part_modPart_self], fun q hq => (State.part_modPart _ _ _ _).trans (if_neg hq), rfl, fun _ => rfl, fun _ => rfl, rfl⟩
  case off =>
    intro s hpower hsched
    unfold Sys2Proof.Machine.step State.turn
    rw [hpower, hsched]
    rfl

end Sys2Proof.Machine
end

section
/-! PROOF. The global network (O48): requests, walks, answers, XLAT.INV and the fill of a window's line. -/

namespace Sys2Proof.Machine

/-! ### Requests at their slice (R57, R66) -/

theorem answerReq_served {s u : State} {r : GReq} {v : Nat} (hposted : r.posted = false) (hserve : s.serve r = .ok (v, u)) :
    s.answerReq r = { u with gresps := u.gresps ++ [{ req := r, fault := 0, value := BitVec.ofNat 512 v }] } := by
  unfold State.answerReq
  rw [hserve]
  simp [hposted]

/-- A request that nothing before it holds up. -/
theorem globalRequestArrival_eq {s : State} {k : Nat} {r : GReq} (hr : s.greqs[k]? = some r)
    (hfirst : firstOf s.greqs k (fun x => r.meets x || s.sameLane x r) = true) (hheld : s.reqHeld r = false)
    (hwalks : s.walks.any r.meets = false) :
    Sys2Proof.Machine.exec (.globalRequestArrival k) s =
      let t := { s with greqs := s.greqs.eraseIdx k }
      .next (if s.misses r then { t with walks := t.walks ++ [r] } else t.answerReq r) := by
  change execGlobalRequestArrival k s = _
  unfold execGlobalRequestArrival
  rw [hr]
  simp [hfirst, hheld, hwalks]

/-! ### Walks (R61, R63) -/

theorem filter_eq_singleton_of_getElem? {α : Type} {l : List α} {k : Nat} {a : α} {p : α → Bool} (ha : l[k]? = some a) (hp : p a = true)
    (hother : ∀ j x, l[j]? = some x → j ≠ k → p x = false) : l.filter p = [a] := by
  induction l generalizing k with
  | nil => cases ha
  | cons b l ih =>
    cases k with
    | zero =>
      cases ha
      have hrest : l.filter p = [] := by
        refine List.filter_eq_nil_iff.2 fun x hx => ?_
        obtain ⟨j, hj⟩ := List.mem_iff_getElem?.1 hx
        simp [hother (j + 1) x hj (Nat.succ_ne_zero j)]
      rw [List.filter_cons_of_pos hp, hrest]
    | succ k =>
      have hb : ¬ p b = true := by simp [hother 0 b rfl (Nat.succ_ne_zero k).symm]
      rw [List.filter_cons_of_neg hb]
      exact ih ha fun j x hj hne => hother (j + 1) x hj fun h => hne (Nat.succ.inj h)

/-- No other request has joined the walk for request `k`: that one goes on alone. -/
theorem translationWalk_alone {s : State} {k : Nat} {r : GReq} (hr : s.walks[k]? = some r) (hwalking : s.walking k r = true)
    (hfirst : firstOf s.walks k r.meets = true) (halone : ∀ j x, s.walks[j]? = some x → j ≠ k → x.walkKey ≠ r.walkKey)
    (hheld : s.reqHeld r = false) :
    Sys2Proof.Machine.exec (.translationWalk k) s =
      .next { s.answerReq r with walks := s.walks.filter (fun x => x.walkKey != r.walkKey) } := by
  have hjoined : s.walks.filter (fun x => x.walkKey == r.walkKey) = [r] :=
    filter_eq_singleton_of_getElem? hr (beq_self_eq_true _) fun j x hx hj => beq_false_of_ne (halone j x hx hj)
  have hgoes (stay : GReq → Bool) (hstay : stay r = false) :
      s.walks.filter (fun x => x.walkKey != r.walkKey || stay x) = s.walks.filter (fun x => x.walkKey != r.walkKey) := by
    refine List.filter_congr fun x hx => ?_
    by_cases hkey : x.walkKey = r.walkKey
    · have hxr : x ∈ s.walks.filter (fun x => x.walkKey == r.walkKey) := List.mem_filter.2 ⟨hx, beq_iff_eq.2 hkey⟩
      rw [hjoined, List.mem_singleton] at hxr
      simp [hxr, hstay]
    · simp [hkey]
  change execTranslationWalk k s = _
  unfold execTranslationWalk
  rw [hr]
  dsimp only
  rw [if_neg (by simp [hwalking, hfirst]), hjoined, hgoes _ (by simp [hheld])]
  simp [hheld]

/-! ### Answers (R66) -/

theorem takeAnswer_awaited {c : Core} {id : Nat} (h : c.flight = some id) (a : Nat × VWord) : (c.takeAnswer id a).answer = some a := by
  unfold Core.takeAnswer
  rw [if_pos h]

theorem takeAnswer_other {c : Core} {id : Nat} (h : c.flight ≠ some id) (a : Nat × VWord) : (c.takeAnswer id a).answer = c.answer := by
  unfold Core.takeAnswer
  rw [if_neg h]

theorem account_takeAnswer (s : State) (p id : Nat) (a : Nat × VWord) : Account s (s.modCore p (fun c => c.takeAnswer id a)) := by
  refine account_modCore s p (fun c => ?_) (fun c k => ?_) <;> unfold Core.takeAnswer <;> split <;> rfl

theorem globalResponse_eq {s : State} {k : Nat} {a : GResp} (ha : s.gresps[k]? = some a) (hheld : s.respHeld a.req = false) :
    Sys2Proof.Machine.exec (.globalResponse k) s =
      .next (({ s with gresps := s.gresps.eraseIdx k } : State).modCore a.req.core (fun c => c.takeAnswer a.req.id (a.fault, a.value))) := by
  change execGlobalResponse k s = _
  unfold execGlobalResponse
  rw [ha]
  simp [hheld]

/-! ### XLAT.INV (R64) -/

theorem slice_invalidate_tlb (s : State) (q z : Nat) (v : Word) :
    ((s.invalidate q v).slice z).tlb = (s.slice z).tlb.filter (fun x => !(invHits q v x)) :=
  congrArg Slice.tlb (mget_map s.slices (fun _ y => { y with tlb := y.tlb.filter (fun x => !(invHits q v x)) }) z rfl)

theorem account_invalidate (s : State) (q : Nat) (v : Word) : Account s (s.invalidate q v) := Account.of_fields rfl rfl rfl rfl

theorem account_xlat (s : State) (p : Nat) (x : Option (Word × Nat)) : Account s (s.modCore p (fun c => { c with xlat := x })) :=
  account_modCore s p (fun _ => rfl) (fun _ _ => rfl)

theorem xlatInv_eq {s : State} {p q : Nat} {v : Word} (hx : (s.core p).xlat = some (v, 0)) (hq : s.partOf p = some q) :
    Sys2Proof.Machine.exec (.xlatInv p) s = .next ((s.invalidate q v).modCore p (fun c => { c with xlat := some (v, 1) })) := by
  change execXlatInv p s = _
  unfold execXlatInv
  simp only [hx, hq]

theorem xlatInvDone_eq {s : State} {p : Nat} {v : Word} (hx : (s.core p).xlat = some (v, 1))
    (hwalks : s.walks.any (s.walkMeets p v) = false) :
    Sys2Proof.Machine.exec (.xlatInvDone p) s = .next (s.modCore p (fun c => { c with xlat := some (v, 2) })) := by
  change execXlatInvDone p s = _
  unfold execXlatInvDone
  rw [hx]
  simp [hwalks]

/-! ### Lines of windows (R93) -/

theorem fillLine_caches {s u : State} {p q va : Nat} {cid : BitVec 12} (h : s.fillLine p q cid va = .ok u) :
    ∃ x ∈ (u.cluster (clusterOf p)).wcache, x.cid = cid ∧ x.va = va / 64 * 64 := by
  unfold State.fillLine at h
  dsimp only at h
  split at h
  · cases h
  · split at h
    · cases h
    · cases h
      rw [State.cluster_modCluster_self]
      exact ⟨_, List.mem_cons_self, rfl, rfl⟩

theorem windowCacheFill_eq {s u : State} {p w off q base size : Nat} {l : Launch} (hl : s.launchOf p = some (q, l))
    (hw : mfind l.wins w = some (base, size)) (hoff : off < size)
    (hmiss : (s.core p).wmiss = some (l.cid, (base + off) % 2 ^ 64 / 64 * 64, false))
    (hline : (s.cluster (clusterOf p)).wline l.cid ((base + off) % 2 ^ 64) = none)
    (hfill : s.fillLine p q l.cid ((base + off) % 2 ^ 64) = .ok u) :
    Sys2Proof.Machine.exec (.windowCacheFill p w off) s = .next (u.modCore p (fun c => { c with wmiss := none })) := by
  change execWindowCacheFill p w off s = _
  unfold execWindowCacheFill
  rw [hl, hmiss]
  dsimp only
  rw [hw]
  dsimp only
  rw [hline, if_neg (by simp [hoff]), hfill]

/-! ### The steps of the global network -/

/-- Settles O48: each step by its equation, with what the answer, the invalidation and the fill leave of cores, slices and caches. -/
theorem globalAccessSteps : Obligations.GlobalAccessSteps := by
  unfold Obligations.GlobalAccessSteps
  refine ⟨?request, ?walk, ?answer, ?invalidate, ?invalidated, ?fill⟩
  case request =>
    intro s k r hr hfirst hheld hwalks
    have hexec := globalRequestArrival_eq hr hfirst hheld hwalks
    refine ⟨fun hmiss => ⟨_, hexec, if_pos hmiss⟩, fun v u hmiss hposted hserve => ⟨_, hexec, ?_⟩⟩
    exact (if_neg (by simp [hmiss])).trans (answerReq_served hposted hserve)
  case walk =>
    intro s u k v r hr hwalking hfirst halone hposted hheld hserve
    refine ⟨_, translationWalk_alone hr hwalking hfirst halone hheld, ?_⟩
    rw [answerReq_served hposted hserve]
  case answer =>
    intro s k a ha hheld
    have hkeeps : Account s { s with gresps := s.gresps.eraseIdx k } := Account.of_fields rfl rfl rfl rfl
    have hacc := hkeeps.trans (account_takeAnswer _ a.req.core a.req.id (a.fault, a.value))
    refine ⟨_, globalResponse_eq ha hheld, rfl, fun h => ?_, fun h => ?_, hacc.sameMemory, hacc.contexts⟩
    · rw [State.core_modCore_self]; exact takeAnswer_awaited h _
    · rw [State.core_modCore_self]; exact takeAnswer_other h _
  case invalidate =>
    intro s p q v hx hq
    have hacc := (account_invalidate s q v).trans (account_xlat _ p (some (v, 1)))
    refine ⟨_, xlatInv_eq hx hq, ?_, fun z => slice_invalidate_tlb s q z v, hacc.sameMemory, hacc.contexts⟩
    rw [State.core_modCore_self]
  case invalidated =>
    intro s p v hx hwalks
    have hacc := account_xlat s p (some (v, 2))
    refine ⟨_, xlatInvDone_eq hx hwalks, ?_, hacc.sameMemory, hacc.contexts⟩
    rw [State.core_modCore_self]
  case fill =>
    intro s u p w off q base size l hl hw hoff hmiss hline hfill
    have hcached := fillLine_caches hfill
    exact ⟨_, windowCacheFill_eq hl hw hoff hmiss hline hfill, rfl, hcached⟩

end Sys2Proof.Machine
end

section
/-! PROOF. Byte barriers (O28): each instruction by its effect. -/

namespace Sys2Proof.Machine

/-! BBWAIT names its barrier by X, BBRD by Y, as numbers of their own (R125). -/

theorem bbwait_opnds_x (e : Fields) : (Instr.bbwait e).opnds.x = e.x.toNat := rfl

theorem bbrd_opnds_y (e : Fields) : (Instr.bbrd e).opnds.y = e.y.toNat := rfl

/-- Settles O28: the barrier that an instruction names in its own field is the one whose target and pending bytes it changes or reads. -/
theorem byteBarrierResults : Obligations.ByteBarrierResults := by
  unfold Obligations.ByteBarrierResults
  intro e s
  refine ⟨?set, ?add, ?wait, ?read⟩
  case set => exact does_intro (eff := effBbset) rfl (fun _ s1 _ => ⟨rfl, Same.modCore s1 _ _⟩)
  case add => exact does_intro (eff := effBbadd) rfl (fun _ s1 _ => ⟨rfl, Same.modCore s1 _ _⟩)
  case wait =>
    refine completes_intro (eff := effBbwait) rfl ?_
    rintro v s1 s' r jump - ⟨rfl, rfl, rfl, hover⟩
    unfold effBbwait
    rw [bbwait_opnds_x]
    exact ⟨if_pos (by rw [Bool.or_eq_true, decide_eq_true_eq]; exact hover), Same.refl s'⟩
  case read =>
    refine gives_intro (eff := effBbrd) rfl (fun v s1 _ => ?_)
    unfold effBbrd
    rw [bbrd_opnds_y]
    have hy : e.y.toNat < 16 := e.y.isLt
    by_cases h : e.y.toNat < 8
    · simp only [if_pos h, Nat.mod_eq_of_lt h]
    · simp only [if_neg h, show e.y.toNat % 8 = e.y.toNat - 8 by omega]

end Sys2Proof.Machine
end

section
/-! PROOF. Copy instructions on the FIFO (O26): CPQ and CPQT through what trying a push gives, CPCAN by whether a request has the tag. -/

namespace Sys2Proof.Machine

/-! ### Trying a push (R72, R116) -/

theorem tryCopy_wait {s sc : State} {ea : Nat} {pl : Place} (hplace : s.nearPlace ea 32 = .ok (pl, sc))
    (hwait : sc.copyWaits (recordOf (BitVec.ofNat 512 (sc.readAt pl 32))) = true) : s.tryCopy ea = .ok none := by
  unfold State.tryCopy
  rw [hplace]
  exact if_pos hwait

theorem tryCopy_push {s sc u t : State} {ea : Nat} {pl : Place} {w : List Word} (hplace : s.nearPlace ea 32 = .ok (pl, sc))
    (hroom : sc.copyWaits (recordOf (BitVec.ofNat 512 (sc.readAt pl 32))) = false) (hread : sc.recordAt pl = .ok (w, u))
    (hpush : u.pushCopy u.cur u.level w false = .ok t) : s.tryCopy ea = .ok (some t) := by
  unfold State.tryCopy
  rw [hplace]
  dsimp only
  rw [hroom, if_neg Bool.false_ne_true, hread]
  dsimp only
  rw [hpush]

/-! ### Cancelling by tag (R82, R84, R117) -/

/-- The request's TAG is the low half of this word. -/
def CopyReq.tagged (r : CopyReq) (y : Word) : Bool := r.w0.toNat % 2 ^ 32 == y.toNat % 2 ^ 32

/-- CPCAN, where the mailbox has room for the messages of all that it cancels. -/
theorem effCpcan_eq {o : Opnds} {v : Vals} {s : State} {gone : List CopyReq} (hgone : s.me.fifo.filter (·.tagged v.y.s) = gone)
    (hroom : gone ≠ [] → roomFor s.me gone.length = true) :
    effCpcan o v s = Done.result (if gone = [] then s else s.modMe (fun c =>
      { c with fifo := c.fifo.filter (fun q => !q.tagged v.y.s), mbox := c.mbox ++ gone.map (fun q => copyMsg 6 q.w0 0) }))
      (.s (BitVec.ofNat 64 gone.length)) := by
  have htag : ∀ r : CopyReq, (wfield r.w0 0 32 == v.y.s.toNat % 2 ^ 32) = r.tagged v.y.s := fun r => by simp [wfield, bits, CopyReq.tagged]
  unfold effCpcan
  simp only [htag, hgone, List.isEmpty_iff]
  by_cases h : gone = []
  · rw [if_pos h, if_pos h, h]
    rfl
  · simp only [if_neg h, hroom h, Bool.not_true, Bool.false_eq_true, if_false]

theorem cpst_word (s : State) : s.me.fifo.length + s.copiesOf s.cur * 256 + s.me.asmC.isSome.toNat * 2 ^ 14 + wfield s.cx.tsw 9 1 * 2 ^ 15
    = s.me.fifo.length + 2 ^ 8 * ((s.cluster s.myCl).slots.filter (fun z => z.cidx == cidxOf s.cur)).length
      + 2 ^ 14 * (if s.me.asmC.isSome then 1 else 0) + 2 ^ 15 * (s.cx.tsw.toNat / 2 ^ 9 % 2) := by
  have hasm : s.me.asmC.isSome.toNat = if s.me.asmC.isSome then 1 else 0 := by cases s.me.asmC <;> rfl
  rw [hasm, Nat.mul_comm (s.copiesOf s.cur), Nat.mul_comm _ (2 ^ 14), Nat.mul_comm _ (2 ^ 15)]
  rfl

/-- Settles O26: each instruction by the equation of its effect. -/
theorem copyQueueResults : Obligations.CopyQueueResults := by
  unfold Obligations.CopyQueueResults
  intro e s four would
  refine ⟨?cpq, ?cpqt, ?cpcan, ?cpst, ?fence⟩
  case cpq =>
    refine completes_intro (eff := effCpq) rfl ?_
    rintro v s1 s' r jump - ⟨rfl, rfl, pl, sc, w, u, hplace, hroom, hread, hpush, hsame⟩
    unfold effCpq effAddr
    rw [tryCopy_push hplace hroom hread hpush]
    exact ⟨rfl, hsame⟩
  case cpqt =>
    refine completes_intro (eff := effCpqt) rfl ?_
    rintro v s1 s' r jump - ⟨rfl, pl, sc, hplace, ⟨hwait, rfl, rfl⟩ | ⟨hroom, rfl, w, u, hread, hpush, hsame⟩⟩
    all_goals unfold effCpqt effAddr
    · rw [tryCopy_wait hplace hwait]
      exact ⟨rfl, Same.refl _⟩
    · rw [tryCopy_push hplace hroom hread hpush]
      exact ⟨rfl, hsame⟩
  case cpcan =>
    refine completes_intro (eff := effCpcan) rfl ?_
    rintro v s1 s' r jump - ⟨rfl, hroom, rfl, rfl⟩
    exact ⟨effCpcan_eq rfl hroom, same_ite (Same.refl s1) (Same.modCore s1 _ _)⟩
  case cpst =>
    refine gives_intro (eff := effCpst) rfl (fun v s1 _ => ?_)
    unfold effCpst
    rw [cpst_word]
  case fence => exact does_intro (eff := effFence) rfl (fun _ s1 _ => ⟨rfl, Same.refl s1⟩)

end Sys2Proof.Machine
end

section
/-! SUPPORT. What a copy engine's steps look up and leave: slots, corrected errors, reads through the page tables, and landed bytes. -/

namespace Sys2Proof.Machine

/-! ### Slots (R69) -/

theorem slot_modSlot {s : State} {cl k : Nat} {z : CopySlot} (h : (s.cluster cl).slots[k]? = some z) (f : CopySlot → CopySlot) :
    ((s.modSlot cl k f).cluster cl).slots[k]? = some (f z) := by
  unfold State.modSlot
  rw [State.cluster_modCluster_self]
  simp [h]

theorem modSlot_cluster (s : State) {cl c : Nat} (k : Nat) (f : CopySlot → CopySlot) (hc : c ≠ cl) :
    (s.modSlot cl k f).cluster c = s.cluster c := by
  unfold State.modSlot
  rw [State.cluster_modCluster, if_neg hc]

theorem account_modSlot (s : State) (cl k : Nat) (f : CopySlot → CopySlot) : Account s (s.modSlot cl k f) :=
  account_modCluster s cl (fun _ => rfl)

theorem account_freeSlot (s : State) (cl k : Nat) : Account s (s.freeSlot cl k) := account_modCluster s cl (fun _ => rfl)

/-- A copy that has ended already, or has still to land some of its units, goes on as it is. -/
theorem settleCopy_unlanded {s : State} {cl k : Nat} {z : CopySlot} (h : (s.cluster cl).slots[k]? = some z)
    (hmore : z.status.isSome = true ∨ z.landed.length < z.total) : s.settleCopy cl k = s := by
  unfold State.settleCopy
  rw [h]
  exact if_pos (by simpa using hmore)

/-- The end of a copy with OK changes its slot alone. -/
theorem endCopy_ok {s : State} {cl k : Nat} {z : CopySlot} (h : (s.cluster cl).slots[k]? = some z) (fault : CFail) :
    ∃ f, s.endCopy cl k 0 fault = s.modSlot cl k f := by
  unfold State.endCopy
  rw [h]
  exact ⟨_, rfl⟩

/-- Settling a copy leaves it, frees its slot, or changes its slot. -/
theorem settleCopy_cases (s : State) (cl k : Nat) :
    s.settleCopy cl k = s ∨ s.settleCopy cl k = s.freeSlot cl k ∨ ∃ f, s.settleCopy cl k = s.modSlot cl k f := by
  unfold State.settleCopy
  split
  · exact .inl rfl
  · rename_i z hz
    split
    · exact .inl rfl
    · split
      · exact .inr (.inl rfl)
      · exact .inr (.inr (endCopy_ok hz _))

theorem settleCopy_cores (s : State) (cl k : Nat) : (s.settleCopy cl k).cores = s.cores := by
  obtain h | h | ⟨f, h⟩ := settleCopy_cases s cl k <;> rw [h] <;> rfl

theorem account_settleCopy (s : State) (cl k : Nat) : Account s (s.settleCopy cl k) := by
  obtain h | h | ⟨f, h⟩ := settleCopy_cases s cl k <;> rw [h]
  · exact Account.refl s
  · exact account_freeSlot s cl k
  · exact account_modSlot s cl k f

theorem account_credit (s : State) (p : Nat) (w0 : Word) (n : Nat) : Account s (s.modCore p (fun c => c.credit w0 n)) := by
  refine account_modCore s p (fun c => ?_) (fun c k => ?_) <;> unfold Core.credit <;> dsimp only <;> split <;> rfl

/-! ### Corrected errors (R359, R360) -/

/-- A launch without what it has noted of errors. -/
def Launch.unnoted (l : Launch) : Launch := { l with cause := 0, verd := 0 }

/-- A partition without what its launches have noted of errors. -/
def Partition.unnoted (x : Partition) : Partition := { x with launches := x.launches.map Launch.unnoted }

/-- A correction changes error marks and what a launch notes. -/
theorem correct_device (s : State) (p : Nat) (st : Store) (a n : Nat) :
    { s.correct p st a n with parts := [], errs := [] } = { s with parts := [], errs := [] } := by
  unfold State.correct
  split
  · dsimp only
    split <;> rfl
  · rfl

theorem unnoted_correct (s : State) (p : Nat) (st : Store) (a n q : Nat) : ((s.correct p st a n).part q).unnoted = (s.part q).unnoted := by
  unfold State.correct
  split
  · dsimp only
    split
    · rw [State.part_modPart]
      split
      · rename_i hq
        subst hq
        unfold Partition.unnoted
        dsimp only
        rw [List.map_map]
        congr 2
        funext l
        dsimp only [Function.comp]
        split <;> rfl
      · rfl
    · rfl
  · rfl

/-- Uncorrectable errors stay. -/
theorem hardErr_correct (s : State) (p : Nat) (st st' : Store) (a n a' n' : Nat) :
    (s.correct p st a n).hardErr st' a' n' = s.hardErr st' a' n' := by
  have hkeep : ∀ l : List ErrMark, (l.filter (fun m => !(!m.hard && m.meets st a n))).any (fun m => m.hard && m.meets st' a' n')
      = l.any (fun m => m.hard && m.meets st' a' n') := by
    intro l
    rw [List.any_filter]
    congr 1
    funext m
    cases m.hard <;> simp
  unfold State.correct
  split
  · dsimp only
    split <;> exact hkeep s.errs
  · rfl

theorem correct_cores (s : State) (p : Nat) (st : Store) (a n : Nat) : (s.correct p st a n).cores = s.cores := by
  have h := congrArg State.cores (correct_device s p st a n)
  exact h

theorem correct_clusters (s : State) (p : Nat) (st : Store) (a n : Nat) : (s.correct p st a n).clusters = s.clusters := by
  have h := congrArg State.clusters (correct_device s p st a n)
  exact h

theorem correct_tables (s : State) (p : Nat) (st : Store) (a n : Nat) :
    ((s.correct p st a n).queues, (s.correct p st a n).fwGrants, (s.correct p st a n).die0, (s.correct p st a n).die1)
      = (s.queues, s.fwGrants, s.die0, s.die1) := by
  have h := congrArg (fun u : State => (u.queues, u.fwGrants, u.die0, u.die1)) (correct_device s p st a n)
  exact h

theorem unmoved_correct (s : State) (p : Nat) (st : Store) (a n : Nat) : Unmoved s (s.correct p st a n) := by
  have hphys := congrArg State.phys (correct_device s p st a n)
  exact ⟨stock_of_cores (correct_cores s p st a n), fun q k => by unfold State.core; rw [correct_cores],
    fun cl => by unfold State.cluster; rw [correct_clusters], hphys⟩

/-! ### What an engine looks up -/

/-- Clusters stand in the same partitions and sites, and partitions, send queues, grants and dies are the same beside what launches have noted of
errors. -/
structure SameSetup (s t : State) : Prop where
  /-- The partition of a cluster, and its cores that are fused off. -/
  places : ∀ cl, (t.cluster cl).part = (s.cluster cl).part ∧ (t.cluster cl).cmask = (s.cluster cl).cmask
  /-- Partitions. -/
  parts : ∀ q, (t.part q).unnoted = (s.part q).unnoted
  /-- Send queues, context 0's grants, dies. -/
  tables : (t.queues, t.fwGrants, t.die0, t.die1) = (s.queues, s.fwGrants, s.die0, s.die1)

/-- Beside that, no core has changed. -/
structure Looked (s t : State) : Prop extends SameSetup s t where
  /-- Every core. -/
  cores : t.cores = s.cores

theorem SameSetup.trans {s t u : State} (h : SameSetup s t) (g : SameSetup t u) : SameSetup s u :=
  ⟨fun cl => ⟨(g.places cl).1.trans (h.places cl).1, (g.places cl).2.trans (h.places cl).2⟩, fun q => (g.parts q).trans (h.parts q),
    g.tables.trans h.tables⟩

theorem Looked.refl (s : State) : Looked s s := ⟨⟨fun _ => ⟨rfl, rfl⟩, fun _ => rfl, rfl⟩, rfl⟩

theorem Looked.trans {s t u : State} (h : Looked s t) (g : Looked t u) : Looked s u :=
  ⟨h.toSameSetup.trans g.toSameSetup, g.cores.trans h.cores⟩

theorem sameSetup_modCluster (s : State) (cl : Nat) {f : Cluster → Cluster} (hf : ∀ c, (f c).part = c.part ∧ (f c).cmask = c.cmask) :
    SameSetup s (s.modCluster cl f) := by
  refine ⟨fun c => ?_, fun _ => rfl, rfl⟩
  rw [State.cluster_modCluster]
  split
  · rename_i hc; subst hc; exact hf _
  · exact ⟨rfl, rfl⟩

theorem looked_modSlot (s : State) (cl k : Nat) (f : CopySlot → CopySlot) : Looked s (s.modSlot cl k f) :=
  ⟨sameSetup_modCluster s cl (fun _ => ⟨rfl, rfl⟩), rfl⟩

theorem looked_correct (s : State) (p : Nat) (st : Store) (a n : Nat) : Looked s (s.correct p st a n) :=
  ⟨⟨fun cl => by unfold State.cluster; rw [correct_clusters]; exact ⟨rfl, rfl⟩, unnoted_correct s p st a n, correct_tables s p st a n⟩,
    correct_cores s p st a n⟩

theorem SameSetup.partOf {s t : State} (h : SameSetup s t) (p : Nat) : t.partOf p = s.partOf p := (h.places _).1

theorem SameSetup.queueOf {s t : State} (h : SameSetup s t) (n : Nat) : t.queueOf n = s.queueOf n := by
  have hqueues : t.queues = s.queues := congrArg (·.1) h.tables
  unfold State.queueOf
  rw [hqueues]

theorem SameSetup.granted {s t : State} (h : SameSetup s t) (q x : Nat) (kinds : List Nat) : t.granted q x kinds = s.granted q x kinds := by
  have hgrants : (t.part q).grants = (s.part q).grants := congrArg (·.grants) (h.parts q)
  have hfw : t.fwGrants = s.fwGrants := congrArg (·.2.1) h.tables
  have hdie : ∀ d, t.die d = s.die d := fun d => by
    have hdie0 : t.die0 = s.die0 := congrArg (·.2.2.1) h.tables
    have hdie1 : t.die1 = s.die1 := congrArg (·.2.2.2) h.tables
    unfold State.die
    rw [hdie0, hdie1]
  have hfused : ∀ p, t.fusedOff p = s.fusedOff p := fun p => by
    unfold State.fusedOff
    rw [(h.places _).2, hdie]
  unfold State.granted State.grantTable
  simp only [hgrants, hfw, hfused]

theorem SameSetup.copyCheck {s t : State} (h : SameSetup s t) (p : Nat) (r : CopyReq) (w : Walk) : t.copyCheck p r w = s.copyCheck p r w := by
  unfold State.copyCheck
  simp only [h.partOf, h.granted]

theorem Looked.core {s t : State} (h : Looked s t) (p : Nat) : t.core p = s.core p := by
  unfold State.core
  rw [h.cores]

/-- The pairs of a launch do not turn on what it has noted. -/
theorem pairs_unnoted (x : Partition) (n : Nat) :
    (x.unnoted.launches.filter (fun l => l.serial == n)).flatMap (·.pairs) = (x.launches.filter (fun l => l.serial == n)).flatMap (·.pairs) := by
  unfold Partition.unnoted
  rw [List.filter_map, List.flatMap_map]
  rfl

theorem Looked.pairsOf {s t : State} (h : Looked s t) (p : Nat) : t.pairsOf p = s.pairsOf p := by
  unfold State.pairsOf
  rw [h.core, h.partOf]
  cases (s.core p).group <;> cases s.partOf p <;> try rfl
  rename_i g q
  dsimp only
  rw [← pairs_unnoted, h.parts, pairs_unnoted]

theorem Looked.pairDrops {s t : State} (h : Looked s t) (p : Nat) (pair : Option Nat) (drop : Bool) :
    t.pairDrops p pair drop = s.pairDrops p pair drop := by
  unfold State.pairDrops State.primaryOf State.lp
  simp only [h.pairsOf, h.core]

theorem Looked.unmatched {s t : State} (h : Looked s t) (cl : Nat) (z : CopySlot) : t.unmatched cl z = s.unmatched cl z := by
  unfold State.unmatched
  rw [h.core]

/-! ### Reads through the page tables (R57, R61 to R63) -/

/-- What a translation leaves as it was: all that an engine looks up beside the tables themselves. -/
def State.bench (s : State) : Map Core × Map Cluster × Map Partition × Map SendQueue × List Grant × Die × Die :=
  (s.cores, s.clusters, s.parts, s.queues, s.fwGrants, s.die0, s.die1)

theorem Looked.of_bench {s t : State} (h : t.bench = s.bench) : Looked s t := by
  have hclusters : t.clusters = s.clusters := congrArg (·.2.1) h
  have hparts : t.parts = s.parts := congrArg (·.2.2.1) h
  exact ⟨⟨fun cl => by unfold State.cluster; rw [hclusters]; exact ⟨rfl, rfl⟩, fun q => by unfold State.part; rw [hparts],
    congrArg (·.2.2.2) h⟩, congrArg (·.1) h⟩

theorem mend_bench (s : State) (as : List Nat) : (s.mend as).bench = s.bench := by
  unfold State.mend
  split <;> rfl

theorem marked_bench (c : Prop) [Decidable c] (s : State) (m : Mem) : (if c then s else { s with phys := m }).bench = s.bench := by
  split <;> rfl

theorem walk_bench {s : State} {z va acc : Nat} {cid : BitVec 12} {r : Tlb × State} (h : s.walk z cid va acc = .ok r) :
    r.2.bench = s.bench := by
  unfold State.walk at h
  dsimp only at h
  split at h
  · cases h
  · split at h
    · cases h
    · split at h
      · cases h
      · generalize (if (acc == 1 || acc == 2) = true then 0x100 else 0) = dirty at h
        split at h
        · cases h
        · injection h with h
          subst h
          exact (marked_bench _ _ _).trans (mend_bench s _)

theorem walksFirst_bench (s : State) (z : Nat) (cid : BitVec 12) (va : Nat) : (s.walksFirst z cid va).bench = s.bench := by
  refine foldl_keeps State.bench (fun u r => ?_) _ s
  split
  · rename_i hw; exact walk_bench hw
  · rfl

theorem translate_bench {s : State} {die va acc : Nat} {cid : BitVec 12} {r : Nat × State} (h : s.translate die cid va acc = .ok r) :
    r.2.bench = s.bench := by
  have walked : ∀ {r : Nat × State}, (match (s.walksFirst (xlatSlice die va) cid va).walk (xlatSlice die va) cid va acc with
      | .error k => (.error k : Except XFail (Nat × State))
      | .ok (t, s) => .ok (t.pa + (va - t.va), s)) = .ok r → r.2.bench = s.bench := by
    intro r h
    split at h
    · cases h
    · rename_i hw
      cases h
      exact (walk_bench hw).trans (walksFirst_bench _ _ _ _)
  unfold State.translate at h
  split at h
  · split at h <;> cases h
    rfl
  · dsimp only at h
    split at h
    · exact walked h
    · split at h
      · exact walked h
      · split at h <;> cases h
        rfl

theorem onePage_bench {s : State} {g : Agent} {va n acc scope : Nat} {r : Piece × State} (h : s.onePage g va n acc scope = .ok r) :
    r.2.bench = s.bench := by
  unfold State.onePage at h
  split at h
  · cases h
  · rename_i htr
    dsimp only at h
    repeat' split at h
    all_goals cases h
    exact translate_bench htr

theorem gcheck_bench {s : State} {g : Agent} {va n acc scope : Nat} {r : List Piece × State} (h : s.gcheck g va n acc scope = .ok r) :
    r.2.bench = s.bench := by
  unfold State.gcheck at h
  split at h
  · cases h
  · rename_i h1
    split at h
    · cases h; exact onePage_bench h1
    · split at h
      · cases h
      · rename_i h2
        cases h
        exact (onePage_bench h2).trans (onePage_bench h1)

/-- An engine's read changes nothing that the engine looks up afterwards. -/
theorem engineRead_looked {s : State} {cl p a n : Nat} {cid : BitVec 12} {r : List Byte × State}
    (h : s.engineRead cl p cid a n = .ok r) : Looked s r.2 := by
  unfold State.engineRead at h
  split at h
  · split at h <;> cases h
    exact looked_correct _ _ _ _ _
  · split at h <;> cases h
    exact looked_correct _ _ _ _ _
  · split at h
    · cases h
    · rename_i hg
      split at h <;> cases h
      exact (Looked.of_bench (gcheck_bench hg)).trans (foldl_rel Looked.refl Looked.trans _ _ (fun u x => looked_correct _ _ _ _ _) _)
  · cases h

theorem readPieces_looked {cl p : Nat} {cid : BitVec 12} (ps : List (Nat × Nat)) :
    ∀ {s : State} {r : List Byte × State}, s.readPieces cl p cid ps = .ok r → Looked s r.2 := by
  induction ps with
  | nil => intro s r h; cases h; exact Looked.refl s
  | cons x ps ih =>
    intro s r h
    unfold State.readPieces at h
    split at h
    · cases h
    · rename_i h1
      split at h
      · cases h
      · rename_i h2
        cases h
        have hrest := ih h2
        exact (engineRead_looked h1).trans hrest

/-! ### Landed bytes (R73, R94) -/

/-- A byte of a number that little-endian bytes hold. -/
theorem getElem?_of_ofBytes (b : List Byte) : ∀ i, i < b.length → b[i]? = some (BitVec.ofNat 8 (ofBytes b / 256 ^ i)) := by
  induction b with
  | nil => intro i h; cases h
  | cons x b ih =>
    intro i h
    have hx : x.toNat < 256 := x.isLt
    cases i with
    | zero =>
      have hbyte : BitVec.ofNat 8 (x.toNat + 256 * ofBytes b) = x := BitVec.eq_of_toNat_eq (by simp; omega)
      simp [ofBytes, hbyte]
    | succ i =>
      have hdrop : (x.toNat + 256 * ofBytes b) / 256 = ofBytes b := by omega
      rw [List.getElem?_cons_succ, ih i (by simpa using h), Nat.pow_succ', ← Nat.div_div_eq_div_mul, ofBytes, hdrop]

theorem logLine_mem (c : Core) (line : Nat) : (c.logLine line).mem = c.mem := by
  unfold Core.logLine
  repeat' split
  all_goals rfl

theorem writeLocal_mem (c : Core) (a n v : Nat) : (c.writeLocal a n v).mem = bwrite c.mem a n v :=
  congrArg (fun m => bwrite m a n v) (foldl_keeps Core.mem (fun c _ => logLine_mem c _) _ c)

/-- Whole lines land in local memory without merging. -/
theorem engineWrite_localLines {s : State} {cl p a : Nat} {cid : BitVec 12} {b : List Byte} (hspace : spaceOf a b.length = some .loc)
    (ha : a % 64 = 0) (hb : b.length % 64 = 0) :
    s.engineWrite cl p cid a b = .ok ((s.modCore p (fun c => c.writeLocal a b.length (ofBytes b))).clearErr (.loc p) a b.length) := by
  unfold State.engineWrite
  dsimp only
  rw [hspace]
  simp [ha, hb, State.partFix]

end Sys2Proof.Machine
end

section
/-! PROOF. The copy engine (O45): COPY_START, COPY, FILL, COPY_LANDING, COPY_COMPLETION, NETWORK_SEND, packets, and the discard of a partial
record. An equation for each instruction, then what the state on its right side leaves as it was. -/

namespace Sys2Proof.Machine

theorem next_congr {s t : State} (h : s = t) : (.next s : Answer) = .next t := by rw [h]

/-! ### A copy starts (R73, R76) -/

/-- The slot that COPY_START gives a request (R73). -/
def newSlot (i : Nat) (r : CopyReq) (w : Walk) : CopySlot :=
  { cidx := i, req := r, walk := w, total := w.units r, held := [], landed := [], bytes := 0, status := none, posted := false }

/-- A cluster whose engine has taken the head of a FIFO (R73). -/
def State.tookHead (s : State) (cl i : Nat) (rest : List CopyReq) : State :=
  (s.modCore (coreAt cl i) (fun c => { c with fifo := rest })).modCluster cl (fun c => { c with crr := (i + 1) % 9 })

theorem account_tookHead (s : State) (cl i : Nat) (rest : List CopyReq) : Account s (s.tookHead cl i rest) := by
  unfold State.tookHead
  exact (account_modCore s _ (by intros; rfl) (by intros; rfl)).trans (account_modCluster _ cl (by intros; rfl))

theorem sameSetup_tookHead (s : State) (cl i : Nat) (rest : List CopyReq) : SameSetup s (s.tookHead cl i rest) := by
  unfold State.tookHead
  have hcore : SameSetup s (s.modCore (coreAt cl i) (fun c => { c with fifo := rest })) := ⟨fun _ => ⟨rfl, rfl⟩, fun _ => rfl, rfl⟩
  exact hcore.trans (sameSetup_modCluster _ cl (by intros; exact ⟨rfl, rfl⟩))

theorem geoHard_congr {s t : State} {p : Nat} {r : CopyReq} (hmem : (t.core p).mem = (s.core p).mem)
    (herr : ∀ st a n, t.hardErr st a n = s.hardErr st a n) : t.geoHard p r = s.geoHard p r := by
  unfold State.geoHard
  simp only [hmem, herr]

theorem walkOf_congr {c d : Core} {r : CopyReq} (hmem : d.mem = c.mem) : d.walkOf r = c.walkOf r := by
  unfold Core.walkOf Core.geometry
  rw [hmem]

/-- A geometry block is read with its errors corrected. -/
theorem geoFix_cases (s : State) (p : Nat) (r : CopyReq) : s.geoFix p r = s ∨ ∃ a n, s.geoFix p r = s.correct p (.loc p) a n := by
  unfold State.geoFix
  dsimp only
  split
  · exact .inr ⟨_, _, rfl⟩
  · exact .inl rfl

theorem looked_geoFix (s : State) (p : Nat) (r : CopyReq) : Looked s (s.geoFix p r) := by
  obtain h | ⟨a, n, h⟩ := geoFix_cases s p r <;> rw [h]
  · exact Looked.refl s
  · exact looked_correct _ _ _ _ _

theorem unmoved_geoFix (s : State) (p : Nat) (r : CopyReq) : Unmoved s (s.geoFix p r) := by
  obtain h | ⟨a, n, h⟩ := geoFix_cases s p r <;> rw [h]
  · exact (Account.refl s).toUnmoved
  · exact unmoved_correct _ _ _ _ _

theorem hardErr_geoFix (s : State) (p : Nat) (r : CopyReq) (st : Store) (a n : Nat) : (s.geoFix p r).hardErr st a n = s.hardErr st a n := by
  obtain h | ⟨a', n', h⟩ := geoFix_cases s p r <;> rw [h]
  exact hardErr_correct _ _ _ _ _ _ _ _

theorem clusters_geoFix (s : State) (p : Nat) (r : CopyReq) : (s.geoFix p r).clusters = s.clusters := by
  obtain h | ⟨a, n, h⟩ := geoFix_cases s p r <;> rw [h]
  exact correct_clusters _ _ _ _ _

theorem hardErr_tookHead (s : State) (cl i : Nat) (rest : List CopyReq) (st : Store) (a n : Nat) :
    (s.tookHead cl i rest).hardErr st a n = s.hardErr st a n := rfl

/-- A request's geometry block has been read, its errors corrected, after the head was taken (R73, R76). -/
def State.readHead (s : State) (cl i : Nat) (r : CopyReq) (rest : List CopyReq) : State := (s.tookHead cl i rest).geoFix (coreAt cl i) r

section
variable (s : State) (cl i : Nat) (r : CopyReq) (rest : List CopyReq) (w : Walk)

theorem unmoved_readHead : Unmoved s (s.readHead cl i r rest) := (account_tookHead s cl i rest).toUnmoved.trans (unmoved_geoFix _ _ _)

theorem readHead_core : (s.readHead cl i r rest).core (coreAt cl i) = { s.core (coreAt cl i) with fifo := rest } := by
  have hfix := (looked_geoFix (s.tookHead cl i rest) (coreAt cl i) r).core (coreAt cl i)
  refine hfix.trans ?_
  unfold State.tookHead
  rw [State.modCluster_core_get, State.core_modCore_self]

theorem readHead_cluster : (s.readHead cl i r rest).cluster cl = { s.cluster cl with crr := (i + 1) % 9 } := by
  unfold State.readHead State.cluster
  rw [clusters_geoFix]
  exact State.cluster_modCluster_self _ _ _

theorem readHead_geoHard : (s.readHead cl i r rest).geoHard (coreAt cl i) r = s.geoHard (coreAt cl i) r :=
  geoHard_congr ((unmoved_readHead s cl i r rest).sameMemory.1 _) (hardErr_geoFix _ _ _)

theorem readHead_walkOf : ((s.readHead cl i r rest).core (coreAt cl i)).walkOf r = (s.core (coreAt cl i)).walkOf r :=
  walkOf_congr ((unmoved_readHead s cl i r rest).sameMemory.1 _)

theorem readHead_copyCheck : (s.readHead cl i r rest).copyCheck (coreAt cl i) r w = s.copyCheck (coreAt cl i) r w :=
  ((sameSetup_tookHead s cl i rest).trans (looked_geoFix _ _ _).toSameSetup).copyCheck _ _ _

/-- The cluster after a start (R73). -/
def State.startedCopy : State := (s.readHead cl i r rest).modCluster cl (fun c => { c with slots := c.slots ++ [newSlot i r w] })

theorem startedCopy_cluster : (s.startedCopy cl i r rest w).cluster cl
    = { s.cluster cl with crr := (i + 1) % 9, slots := (s.cluster cl).slots ++ [newSlot i r w] } := by
  unfold State.startedCopy
  rw [State.cluster_modCluster_self, readHead_cluster]

theorem unmoved_startedCopy : Unmoved s (s.startedCopy cl i r rest w) := by
  unfold State.startedCopy
  exact (unmoved_readHead s cl i r rest).trans (account_modCluster _ cl (by intros; rfl)).toUnmoved

end

theorem copyStart_eq {s : State} {cl i : Nat} {r : CopyReq} {rest : List CopyReq} {w : Walk} (hroom : (s.cluster cl).slotsUsed < 16)
    (hfirst : ((upTo 9).map (fun j => ((s.cluster cl).crr + j) % 9)).find? (s.copyReady cl) = some i)
    (hfifo : (s.core (coreAt cl i)).fifo = r :: rest) (hgeo : s.geoHard (coreAt cl i) r = false)
    (hwalk : (s.core (coreAt cl i)).walkOf r = .ok w) (hcheck : s.copyCheck (coreAt cl i) r w = 0) (hunits : 0 < w.units r) :
    Sys2Proof.Machine.exec (.copyStart cl) s = .next (s.startedCopy cl i r rest w) := by
  have hgeo' : (s.tookHead cl i rest).geoHard (coreAt cl i) r = false :=
    (geoHard_congr ((account_tookHead s cl i rest).toUnmoved.sameMemory.1 _) (hardErr_tookHead s cl i rest)).trans hgeo
  have hslot : ((s.startedCopy cl i r rest w).cluster cl).slots[((s.readHead cl i r rest).cluster cl).slots.length]? = some (newSlot i r w) := by
    simp [startedCopy_cluster, readHead_cluster]
  change execCopyStart cl s = _
  unfold execCopyStart
  dsimp only
  rw [if_neg (by omega), hfirst]
  dsimp only
  rw [hfifo]
  dsimp only
  rw [← State.tookHead, hgeo', if_neg Bool.false_ne_true, ← State.readHead, readHead_geoHard, hgeo, if_neg Bool.false_ne_true,
    readHead_walkOf, hwalk]
  dsimp only
  rw [readHead_copyCheck, hcheck, if_neg (by simp), if_neg (by omega)]
  exact next_congr (settleCopy_unlanded hslot (.inr hunits))

/-! ### Units are read and filled (R73, R75) -/

/-- A slot that holds the bytes of one more unit. -/
def CopySlot.holding (z : CopySlot) (n : Nat) (b : List Byte) : CopySlot := { z with held := mset z.held n b }

theorem copy_eq {s u : State} {cl k n : Nat} {z : CopySlot} {b : List Byte} (hz : (s.cluster cl).slots[k]? = some z)
    (hop : z.req.op = 1) (hopen : z.open' n = true)
    (hread : s.engineRead cl (coreAt cl z.cidx) z.req.cid (z.walk.unit z.req n).1 (z.walk.unit z.req n).2.2 = .ok (b, u)) :
    Sys2Proof.Machine.exec (.copy cl k n) s = .next (u.modSlot cl k (fun y => y.holding n b)) := by
  change execCopy cl k n s = _
  unfold execCopy
  rw [hz]
  dsimp only
  rw [if_neg (by simp [hop, hopen]), hread]
  rfl

/-- The bytes of unit `n` of a copy that repeats `w` from byte `o` on (R75). -/
def fillBytes (w : Word) (o len : Nat) : List Byte := (upTo len).map (fun i => BitVec.ofNat 8 (bits w.toNat (8 * ((o + i) % 8)) 8))

theorem length_fillBytes (w : Word) (o len : Nat) : (fillBytes w o len).length = len := by
  simp [fillBytes, upTo]

theorem getElem?_fillBytes (w : Word) (o len j : Nat) (h : j < len) :
    (fillBytes w o len)[j]? = some (BitVec.ofNat 8 (w.toNat / 2 ^ (8 * ((o + j) % 8)))) := by
  have hj : (upTo len)[j]? = some j := by simp [upTo, h]
  unfold fillBytes
  rw [List.getElem?_map, hj, Option.map_some, ofNat_bits]

theorem fill_eq {s : State} {cl k n len : Nat} {z : CopySlot} (hz : (s.cluster cl).slots[k]? = some z)
    (hop : z.req.op = 3) (hopen : z.open' n = true) (hwalk : z.walk = .plain len) :
    Sys2Proof.Machine.exec (.fill cl k n) s = .next (s.modSlot cl k (fun y => y.holding n
      (fillBytes z.req.w1 (64 * n - z.req.w2.toNat % 64) ((Walk.plain len).unit z.req n).2.2))) := by
  change execFill cl k n s = _
  unfold execFill
  rw [hz]
  dsimp only
  rw [if_neg (by simp [hop, hopen]), hwalk]
  rfl

/-! ### A unit lands (R73) -/

theorem primaryOwes_of_pairDrops {s : State} {p : Nat} {pair : Option Nat} {drop : Bool} (h : s.pairDrops p pair drop = false)
    (inSlot : CopySlot → Bool) : s.primaryOwes p pair drop inSlot = false := by
  unfold State.pairDrops at h
  unfold State.primaryOwes
  cases pair with
  | none => rfl
  | some n =>
    cases ht : (s.core p).twin with
    | none => rfl
    | some t =>
      have hprimary : (s.primaryOf p t != p) = false := by simp_all
      simp only [hprimary, Bool.and_false, Bool.false_and]

/-- A slot one of whose units has landed (R73). -/
def CopySlot.landing (z : CopySlot) (n len : Nat) : CopySlot :=
  { z with held := merase z.held n, landed := n :: z.landed, bytes := z.bytes + len }

theorem landUnit_ok {s u : State} {cl k n : Nat} {z : CopySlot} {b : List Byte} (hz : (s.cluster cl).slots[k]? = some z)
    (hheld : mfind z.held n = some b) (hdrop : s.pairDrops (coreAt cl z.cidx) z.req.pair z.req.drop = false)
    (hput : s.engineWrite cl (coreAt cl z.cidx) z.req.cid (z.walk.unit z.req n).2.1 b = .ok u) :
    s.landUnit cl k n = (u.modSlot cl k (fun y => y.landing n b.length)).modCore (coreAt cl z.cidx) (fun c => c.credit z.req.w0 b.length) := by
  unfold State.landUnit
  rw [hz]
  dsimp only
  rw [hheld]
  dsimp only
  rw [hdrop, if_neg Bool.false_ne_true, hput]
  rfl

theorem copyLanding_eq {s : State} {cl k n : Nat} {z : CopySlot} {b : List Byte} (hz : (s.cluster cl).slots[k]? = some z)
    (hheld : mfind z.held n = some b) (hop : z.req.op ≠ 2) (htotal : z.total ≠ 0) (hmatched : s.unmatched cl z = false)
    (hdrop : s.pairDrops (coreAt cl z.cidx) z.req.pair z.req.drop = false) (hmates : z.walk.mates z.req n = [n]) :
    Sys2Proof.Machine.exec (.copyLanding cl k n) s = .next ((s.landUnit cl k n).settleCopy cl k) := by
  change execCopyLanding cl k n s = _
  unfold execCopyLanding
  rw [hz]
  simp [hop, htotal, hmatched, hmates, hheld, primaryOwes_of_pairDrops hdrop]

/-- Bytes have landed in a core's memory, and are counted (R73, R83). -/
def State.landedLocal (s : State) (cl k n a : Nat) (z : CopySlot) (b : List Byte) : State :=
  let p := coreAt cl z.cidx
  ((((s.modCore p (fun c => c.writeLocal a b.length (ofBytes b))).clearErr (.loc p) a b.length).modSlot cl k
    (fun y => y.landing n b.length)).modCore p (fun c => c.credit z.req.w0 b.length)).settleCopy cl k

theorem account_landedLocal (s : State) (cl k n a : Nat) (z : CopySlot) (b : List Byte) :
    Account (s.modCore (coreAt cl z.cidx) (fun c => c.writeLocal a b.length (ofBytes b))) (s.landedLocal cl k n a z b) :=
  (((account_clearErr _ _ _ _).trans (account_modSlot _ _ _ _)).trans (account_credit _ _ _ _)).trans (account_settleCopy _ _ _)

theorem landedLocal_core (s : State) (cl k n a : Nat) (z : CopySlot) (b : List Byte) {q : Nat} (hq : q ≠ coreAt cl z.cidx) :
    (s.landedLocal cl k n a z b).core q = s.core q := by
  unfold State.landedLocal
  dsimp only
  unfold State.core
  rw [settleCopy_cores]
  change State.core (State.modCore _ _ _) q = s.core q
  rw [State.core_modCore, if_neg hq]
  change State.core (State.clearErr _ _ _ _) q = s.core q
  unfold State.core
  rw [clearErr_cores]
  change State.core (State.modCore _ _ _) q = s.core q
  rw [State.core_modCore, if_neg hq]

theorem landedLocal_mem (s : State) (cl k n a : Nat) (z : CopySlot) (b : List Byte) :
    ((s.landedLocal cl k n a z b).core (coreAt cl z.cidx)).mem = bwrite (s.core (coreAt cl z.cidx)).mem a b.length (ofBytes b) := by
  have hmem := (account_landedLocal s cl k n a z b).sameMemory.1 (coreAt cl z.cidx)
  rw [hmem, State.core_modCore_self, writeLocal_mem]

theorem copyLanding_local {s : State} {cl k n : Nat} {z : CopySlot} {b : List Byte} (hz : (s.cluster cl).slots[k]? = some z)
    (hheld : mfind z.held n = some b) (hop : z.req.op ≠ 2) (htotal : z.total ≠ 0) (hmatched : s.unmatched cl z = false)
    (hdrop : s.pairDrops (coreAt cl z.cidx) z.req.pair z.req.drop = false) (hmates : z.walk.mates z.req n = [n])
    (hspace : spaceOf (z.walk.unit z.req n).2.1 b.length = some .loc) (ha : (z.walk.unit z.req n).2.1 % 64 = 0) (hb : b.length % 64 = 0) :
    Sys2Proof.Machine.exec (.copyLanding cl k n) s = .next (s.landedLocal cl k n (z.walk.unit z.req n).2.1 z b) := by
  rw [copyLanding_eq hz hheld hop htotal hmatched hdrop hmates, landUnit_ok hz hheld hdrop (engineWrite_localLines hspace ha hb)]
  rfl

/-- Written bytes are read back. -/
theorem bget_bwrite_ofBytes {m : Mem} (h : memWf m = true) (a : Nat) (b : List Byte) {i : Nat} (hi : i < b.length) :
    some (bget (bwrite m a b.length (ofBytes b)) (a + i)) = b[i]? := by
  rw [bget_bwrite _ _ _ _ h, if_pos ⟨Nat.le_add_right a i, by omega⟩, Nat.add_sub_cancel_left, getElem?_of_ofBytes b i hi]

theorem bget_bwrite_outside {m : Mem} (h : memWf m = true) (a n v : Nat) {i : Nat} (hi : i < a ∨ a + n ≤ i) :
    bget (bwrite m a n v) i = bget m i := by
  rw [bget_bwrite _ _ _ _ h, if_neg (by omega)]

/-! ### The end of a copy (R79, R83) -/

theorem freeSlot_slots (s : State) (cl k : Nat) : ((s.freeSlot cl k).cluster cl).slots = (s.cluster cl).slots.eraseIdx k := by
  unfold State.freeSlot
  rw [State.cluster_modCluster_self]

theorem copyCompletion_room {s : State} {cl k st : Nat} {z : CopySlot} (hz : (s.cluster cl).slots[k]? = some z) (hst : z.status = some st)
    (hposted : z.posted = false) (hover : s.copyOver cl z = true) (hsilent : s.silent (coreAt cl z.cidx) = false)
    (hroom : (s.core (coreAt cl z.cidx)).room (copyMsg st z.req.w0 z.bytes).len = true)
    (hposts : ∀ w ∈ s.posts, w.sup = true ∨ w.dst ≠ coreAt cl z.cidx) :
    Sys2Proof.Machine.exec (.copyCompletion cl k) s = .next ((s.freeSlot cl k).modCore (coreAt cl z.cidx)
      (fun c => { c with mbox := c.mbox ++ [copyMsg st z.req.w0 z.bytes] })) := by
  have hnone : s.posts.any (fun w => !w.sup && w.dst == coreAt cl z.cidx) = false := by
    rw [List.any_eq_false]
    intro w hw
    obtain hsup | hdst := hposts w hw
    · simp [hsup]
    · simp [hdst]
  change execCopyCompletion cl k s = _
  unfold execCopyCompletion
  rw [hz]
  dsimp only
  rw [hst]
  dsimp only
  rw [if_neg (by simp [hposted, hover]), hsilent, if_neg Bool.false_ne_true, if_pos (by simp [hroom, hnone])]

/-- A copy's completion message waits for room in the mailbox (R83). -/
def State.copyDeferred (s : State) (cl k : Nat) (z : CopySlot) (e : MailEntry) : State :=
  { s.modSlot cl k (fun y => { y with posted := true }) with
    posts := s.posts ++ [{ sup := false, dst := coreAt cl z.cidx, entry := e, rule := none, copy := some z.req.no }] }

theorem account_copyDeferred (s : State) (cl k : Nat) (z : CopySlot) (e : MailEntry) : Account s (s.copyDeferred cl k z e) :=
  (account_modSlot s cl k _).trans (Account.of_fields rfl rfl rfl rfl)

theorem copyCompletion_full {s : State} {cl k st : Nat} {z : CopySlot} (hz : (s.cluster cl).slots[k]? = some z) (hst : z.status = some st)
    (hposted : z.posted = false) (hover : s.copyOver cl z = true) (hsilent : s.silent (coreAt cl z.cidx) = false)
    (hroom : (s.core (coreAt cl z.cidx)).room (copyMsg st z.req.w0 z.bytes).len = false) :
    Sys2Proof.Machine.exec (.copyCompletion cl k) s = .next (s.copyDeferred cl k z (copyMsg st z.req.w0 z.bytes)) := by
  change execCopyCompletion cl k s = _
  unfold execCopyCompletion
  rw [hz]
  dsimp only
  rw [hst]
  dsimp only
  rw [if_neg (by simp [hposted, hover]), hsilent, if_neg Bool.false_ne_true, if_neg (by simp [hroom])]
  rfl

/-! ### Network sends (R70, R77) -/

/-- A slot that holds the bytes of a unit no more. -/
def CopySlot.dropping (z : CopySlot) (n : Nat) : CopySlot := { z with held := merase z.held n }

/-- A send's next packet is on its way (R77). -/
def State.sentPacket (u : State) (cl k tgt n : Nat) (z : CopySlot) (b : List Byte) : State :=
  let t := (u.modSlot cl k (fun y => y.holding n b)).modSlot cl k (fun y => y.dropping n)
  { t with packets := t.packets ++ [{ cl := cl, cidx := z.cidx, no := z.req.no, queue := tgt, peer := (t.queueOf tgt).peer, bytes := b,
                                      tries := 0, sent := t.time }] }

theorem account_sentPacket (u : State) (cl k tgt n : Nat) (z : CopySlot) (b : List Byte) : Account u (u.sentPacket cl k tgt n z b) :=
  ((account_modSlot u cl k _).trans (account_modSlot _ cl k _)).trans (Account.of_fields rfl rfl rfl rfl)

theorem wfield_low (w : Word) (n : Nat) : wfield w 0 n = w.toNat % 2 ^ n := by simp [wfield, bits]

theorem packetDue_matched {s : State} {cl : Nat} {z : CopySlot} (h : s.unmatched cl z = false) :
    s.packetDue cl z = z.landed.length + (s.packets.filter (fun x => x.of cl z)).length := by
  unfold State.packetDue
  rw [h]
  rfl

theorem copyPort_granted {s : State} {p q c tgt : Nat} {z : CopySlot} (hq : s.partOf p = some q)
    (hgrant : s.granted q (z.req.w2.toNat % 2 ^ 32) [3] = some (c, tgt)) : s.copyPort p z = (s.queueOf tgt).port % 8 := by
  unfold State.copyPort
  rw [hq, wfield_low, Option.getD_some, hgrant]
  rfl

theorem networkSend_eq {s u : State} {cl k q c tgt n : Nat} {z : CopySlot} {b : List Byte} (hz : (s.cluster cl).slots[k]? = some z)
    (hop : z.req.op = 2) (hstatus : z.status = none) (hn : s.packetDue cl z = n) (hmore : n < z.total)
    (hread : s.readPieces cl (coreAt cl z.cidx) z.req.cid (z.walk.stream z.req (4096 * n) 4096) = .ok (b, u))
    (hq : s.partOf (coreAt cl z.cidx) = some q) (hgrant : s.granted q (z.req.w2.toNat % 2 ^ 32) [3] = some (c, tgt))
    (hport : s.portBars (masterOf cl 9) q ((s.queueOf tgt).port % 8) = none) (hmatched : s.unmatched cl z = false)
    (hdrop : s.pairDrops (coreAt cl z.cidx) z.req.pair z.req.drop = false) (hheld : mfind z.held n = none) :
    Sys2Proof.Machine.exec (.networkSend cl k) s = .next (u.sentPacket cl k tgt n z b) := by
  have hlook : Looked s (u.modSlot cl k (fun y => y.holding n b)) := (readPieces_looked _ hread).trans (looked_modSlot _ _ _ _)
  have hlook' := hlook.trans (looked_modSlot _ cl k (fun y => y.dropping n))
  have hmatched' := (hlook.unmatched cl z).trans hmatched
  have hdrop' := (hlook'.pairDrops (coreAt cl z.cidx) z.req.pair z.req.drop).trans hdrop
  have hskip : (z.req.op != 2 || z.status.isSome || z.total = 0 || (!(s.unmatched cl z) && (decide (z.total ≤ n)
      || s.primaryOwes (coreAt cl z.cidx) z.req.pair z.req.drop (fun y => !(y.landed.contains n))))) = false := by
    rw [primaryOwes_of_pairDrops hdrop, hmatched]
    simp [hop, hstatus]
    omega
  change execNetworkSend cl k s = _
  unfold execNetworkSend
  rw [hz]
  dsimp only
  rw [hn, hskip, if_neg Bool.false_ne_true, copyPort_granted hq hgrant, hq, wfield_low]
  dsimp only
  rw [hgrant]
  dsimp only
  rw [hport]
  dsimp only
  rw [hheld]
  dsimp only
  rw [if_neg (by omega), hread]
  dsimp only
  rw [if_pos hmore]
  exact (if_neg (ne_true_of_eq_false hmatched')).trans (next_congr (if_neg (ne_true_of_eq_false hdrop')))

theorem sentPacket_packets (u : State) (cl k tgt n : Nat) (z : CopySlot) (b : List Byte) : (u.sentPacket cl k tgt n z b).packets
    = u.packets ++ [{ cl := cl, cidx := z.cidx, no := z.req.no, queue := tgt, peer := (u.queueOf tgt).peer, bytes := b, tries := 0,
                      sent := u.time }] := rfl

theorem sentPacket_cluster (u : State) (cl k tgt n : Nat) (z : CopySlot) (b : List Byte) {c : Nat} (hc : c ≠ cl) :
    (u.sentPacket cl k tgt n z b).cluster c = u.cluster c := by
  exact (modSlot_cluster _ k (fun y => y.dropping n) hc).trans (modSlot_cluster u k (fun y => y.holding n b) hc)

/-- A packet's acknowledgement counts its bytes in the slot and for the byte barrier (R77, R83). -/
def State.ackedPacket (s : State) (k i : Nat) (x : Packet) (z : CopySlot) : State :=
  (State.modSlot { s with packets := s.packets.eraseIdx k } x.cl i
    (fun y => { y with landed := y.landed.length :: y.landed, bytes := y.bytes + x.bytes.length })).modCore (coreAt x.cl z.cidx)
    (fun c => c.credit z.req.w0 x.bytes.length)

theorem account_ackedPacket (s : State) (k i : Nat) (x : Packet) (z : CopySlot) : Account s (s.ackedPacket k i x z) := by
  have hpackets : Account s { s with packets := s.packets.eraseIdx k } := Account.of_fields rfl rfl rfl rfl
  exact (hpackets.trans (account_modSlot _ _ _ _)).trans (account_credit _ _ _ _)

theorem ackedPacket_slot {s : State} (k : Nat) {i : Nat} {x : Packet} {z : CopySlot} (hz : (s.cluster x.cl).slots[i]? = some z) :
    ((s.ackedPacket k i x z).cluster x.cl).slots[i]?
      = some { z with landed := z.landed.length :: z.landed, bytes := z.bytes + x.bytes.length } :=
  slot_modSlot (s := { s with packets := s.packets.eraseIdx k }) hz _

theorem packetAck_eq {s : State} {k i : Nat} {x : Packet} {z : CopySlot} (hx : s.packets[k]? = some x)
    (hfirst : ∀ y ∈ s.packets.take k, y.queue ≠ x.queue) (hi : s.slotOf x = some i) (hz : (s.cluster x.cl).slots[i]? = some z)
    (hmore : z.landed.length + 1 < z.total) :
    Sys2Proof.Machine.exec (.packetAck k) s = .next (s.ackedPacket k i x z) := by
  have hnone : (s.packets.take k).any (fun y => y.queue == x.queue) = false := by
    rw [List.any_eq_false]
    intro y hy
    simpa using hfirst y hy
  have hslot : State.slotOf { s with packets := s.packets.eraseIdx k } x = some i := hi
  have hz' : (State.cluster { s with packets := s.packets.eraseIdx k } x.cl).slots[i]? = some z := hz
  change execPacketAck k s = _
  unfold execPacketAck
  rw [hx]
  dsimp only
  rw [hnone, if_neg Bool.false_ne_true, hslot]
  dsimp only
  unfold State.landPacket
  rw [hz']
  exact next_congr (settleCopy_unlanded (ackedPacket_slot k hz) (.inr hmore))

theorem packetRetransmit_eq {s : State} {k : Nat} {x : Packet} (hx : s.packets[k]? = some x) (htries : x.tries < 8)
    (htime : (s.time - x.sent).toNat < 250000) :
    Sys2Proof.Machine.exec (.packetRetransmit k) s = .next { s with packets := s.packets.set k { x with tries := x.tries + 1 } } := by
  change execPacketRetransmit k s = _
  unfold execPacketRetransmit
  rw [hx]
  exact if_pos (by rw [decide_eq_true htime, decide_eq_true htries]; rfl)

/-! ### Partial records (R381) -/

theorem setAsm_context (c : Core) (q : AsmQueue) (a : Option Asm) (k : Nat) : (c.setAsm q a).context k = c.context k := by
  cases q <;> rfl

theorem setAsm_mem (c : Core) (q : AsmQueue) (a : Option Asm) : (c.setAsm q a).mem = c.mem := by
  cases q <;> rfl

theorem asmOf_modContext (c : Core) (q : AsmQueue) (k : Nat) (f : Context → Context) : (c.modContext k f).asmOf q = c.asmOf q := by
  cases q <;> simp [Core.asmOf]

theorem asmOf_setAsm (c : Core) (q : AsmQueue) (a : Option Asm) : (c.setAsm q a).asmOf q = a := by
  cases q <;> rfl

/-- A core that drops a partial record. -/
def Core.dropRecord (c : Core) (q : AsmQueue) (a : Asm) : Core :=
  (c.setAsm q none).modContext a.ctx (fun x => { x with tsw := orBit x.tsw (discardBit q) })

theorem dropRecord_asmOf (c : Core) (q : AsmQueue) (a : Asm) : (c.dropRecord q a).asmOf q = none := by
  rw [Core.dropRecord, asmOf_modContext, asmOf_setAsm]

theorem dropRecord_context (c : Core) (q : AsmQueue) (a : Asm) : (c.dropRecord q a).context a.ctx
    = { c.context a.ctx with tsw := orBit (c.context a.ctx).tsw (discardBit q) } := by
  rw [Core.dropRecord, Core.context_modContext_self, setAsm_context]

theorem dropRecord_mem (c : Core) (q : AsmQueue) (a : Asm) : (c.dropRecord q a).mem = c.mem := by
  rw [Core.dropRecord, Core.modContext_mem, setAsm_mem]

theorem copyAssemblyDiscard_eq {s : State} {p : Nat} {q : AsmQueue} {a : Asm} (ha : (s.core p).asmOf q = some a) (hsince : 16 ≤ a.since) :
    Sys2Proof.Machine.exec (.copyAssemblyDiscard p q) s = .next (s.modCore p (fun c => c.dropRecord q a)) := by
  change (.next (s.discardAsm p q) : Answer) = _
  unfold State.discardAsm
  rw [ha]
  exact next_congr (if_neg (by omega))

theorem sameMemory_modCore (s : State) (p : Nat) {f : Core → Core} (hf : ∀ c, (f c).mem = c.mem) : SameMemory s (s.modCore p f) := by
  refine ⟨fun q => ?_, fun _ => rfl, rfl⟩
  rw [State.core_modCore]
  split
  · rename_i hq; subst hq; exact hf _
  · rfl

/-- Settles O45: every step is the equation above for its instruction. -/
theorem copyEngineSteps : Obligations.CopyEngineSteps := by
  refine ⟨⟨?start, ?read, ?fill, ?land, ?complete⟩, ?send, ?ack, ?retransmit, ?discard⟩
  case start =>
    intro s cl i r rest w hroom hfirst hfifo hgeo hwalk hcheck hunits
    have hunmoved := unmoved_startedCopy s cl i r rest w
    have hcluster := startedCopy_cluster s cl i r rest w
    exact ⟨_, copyStart_eq hroom hfirst hfifo hgeo hwalk hcheck hunits, congrArg (·.fifo) (readHead_core s cl i r rest),
      congrArg (·.slots) hcluster, congrArg (·.crr) hcluster, hunmoved.sameMemory, hunmoved.contexts⟩
  case read =>
    intro s u cl k n z b hz hop hopen hread
    exact copy_eq hz hop hopen hread
  case fill =>
    intro s cl k n len z hz hop hopen hwalk
    have hlen := length_fillBytes z.req.w1 (64 * n - z.req.w2.toNat % 64) ((Walk.plain len).unit z.req n).2.2
    refine ⟨_, _, _, fill_eq hz hop hopen hwalk, slot_modSlot hz _, rfl, hlen, fun j hj => ?_,
      (account_modSlot _ _ _ _).toUnmoved.sameMemory, rfl⟩
    exact getElem?_fillBytes _ _ _ j (hlen ▸ hj)
  case land =>
    intro s cl k n z b hz hheld hop htotal hmatched hdrop hmates
    dsimp only
    intro hwf hspace ha hb
    have haccount := account_landedLocal s cl k n (z.walk.unit z.req n).2.1 z b
    refine ⟨_, copyLanding_local hz hheld hop htotal hmatched hdrop hmates hspace ha hb, fun i hi => ?_, fun i hi => ?_,
      fun q hq => landedLocal_core s cl k n _ z b hq, haccount.clusterMem, haccount.phys⟩
    · rw [landedLocal_mem, bget_bwrite_ofBytes hwf _ b hi]
    · rw [landedLocal_mem, bget_bwrite_outside hwf _ _ _ hi]
  case complete =>
    intro s cl k st z hz hst hposted hover
    dsimp only
    intro hsilent
    refine ⟨fun hroom hposts => ?room, fun hroom => ?full⟩
    case room =>
      have haccount := (account_freeSlot s cl k).trans (account_modCore _ (coreAt cl z.cidx)
        (f := fun c => { c with mbox := c.mbox ++ [copyMsg st z.req.w0 z.bytes] }) (by intros; rfl) (by intros; rfl))
      exact ⟨_, copyCompletion_room hz hst hposted hover hsilent hroom hposts, congrArg (·.mbox) (State.core_modCore_self _ _ _),
        freeSlot_slots s cl k, haccount.sameMemory, haccount.contexts⟩
    case full =>
      exact ⟨_, copyCompletion_full hz hst hposted hover hsilent hroom, rfl, rfl, slot_modSlot hz _,
        (account_copyDeferred s cl k z _).sameMemory⟩
  case send =>
    intro s u cl k q c tgt z b hz hop hstatus hmore hread hq hgrant hport hmatched hdrop hheld
    have hqueue : u.queueOf tgt = s.queueOf tgt := (readPieces_looked _ hread).queueOf tgt
    refine ⟨_, networkSend_eq hz hop hstatus (packetDue_matched hmatched) hmore hread hq hgrant hport hmatched hdrop hheld, ?_,
      (account_sentPacket _ _ _ _ _ _ _).sameMemory, rfl, fun c hc => sentPacket_cluster _ _ _ _ _ _ _ hc⟩
    rw [sentPacket_packets, hqueue]
  case ack =>
    intro s k i x z hx hfirst hi hz hmore
    have haccount := account_ackedPacket s k i x z
    exact ⟨_, packetAck_eq hx hfirst hi hz hmore, rfl, ackedPacket_slot k hz, haccount.sameMemory, haccount.contexts⟩
  case retransmit =>
    intro s k x hx htries htime
    exact ⟨_, packetRetransmit_eq hx htries htime, rfl⟩
  case discard =>
    intro s p q a ha hsince
    refine ⟨_, copyAssemblyDiscard_eq ha hsince, ?_, ?_, fun n => ?_, sameMemory_modCore s p (fun c => dropRecord_mem c q a)⟩ <;>
      rw [State.core_modCore_self]
    · exact dropRecord_asmOf _ q a
    · rw [dropRecord_context]
    · rw [dropRecord_context]
      rfl

end Sys2Proof.Machine
end

section
/-! PROOF. What an access reaches (O20): an access to global addresses of a core whose die relocks waits, whatever the page tables say. -/

namespace Sys2Proof.Machine

/-- An access to global addresses that passes alignment and scope waits while its path holds (R383, R385), before any page is looked up. -/
theorem check_waits_of_pathHolds {s : State} {ea n acc scope : Nat} {al sysOk : Bool} (hspace : spaceOf ea n = some .glob)
    (halign : (al && ea % n != 0) = false) (hscope : (!(spaceTakes .glob scope) || (scope == 4 && !sysOk)) = false)
    (hholds : s.pathHolds (s.coreAgent s.cur) ea n acc = true) : s.check ea n acc al scope sysOk = .error .wait := by
  unfold State.check
  rw [hspace]
  dsimp only
  rw [halign, hscope, hholds]
  rfl

/-- A failed global access traps or faults: it never makes its instruction wait. -/
theorem gstop_ne_wait (acc : Nat) (cid : BitVec 12) (p : Nat) (e : GFail) : gstop acc cid p e ≠ .wait := by
  unfold gstop addrFault
  split
  · exact Stop.noConfusion
  · split <;> exact Stop.noConfusion

/-- Nothing of a core's goes on while its own die relocks (R385). -/
theorem pathHolds_of_relock {s : State} {p : Nat} (h : (s.die (dieOf p)).relock = true) (va n acc : Nat) :
    s.pathHolds (s.coreAgent p) va n acc = true := by
  have hquiet : s.linkQuiet = false := by
    unfold State.die at h
    unfold State.linkQuiet
    split at h <;> simp [h]
  have hdie : (s.die (s.coreAgent p).die).relock = true := h
  unfold State.pathHolds
  rw [hquiet, hdie]
  rfl

/-- Refutes O20: while die 0 relocks, an aligned 8-byte read of core 0 at 0x100000000 waits at its core, where the statement has what the page
tables give: a place or a fault. -/
theorem not_placesOfAccess : ¬ Obligations.PlacesOfAccess := by
  unfold Obligations.PlacesOfAccess
  intro h
  have hwaits : (State.reset.modDie 0 (fun d => { d with relock := true })).check 0x100000000 8 0 false 9 true = .error .wait :=
    check_waits_of_pathHolds (by decide) rfl rfl (pathHolds_of_relock rfl _ _ _)
  obtain ⟨-, -, hglobal, -⟩ := h (State.reset.modDie 0 (fun d => { d with relock := true })) 0x100000000 8 0 9 false true (by decide)
  specialize hglobal (by decide)
  rw [hwaits, if_neg (by decide), if_neg (by decide)] at hglobal
  split at hglobal
  · exact gstop_ne_wait _ _ _ _ (Except.error.inj hglobal).symm
  · cases hglobal

end Sys2Proof.Machine
end

section
/-! PROOF. Gathers, scatters, masked stores and windows (O25): each instruction by its effect, lane addresses as the lanes of X give them. -/

namespace Sys2Proof.Machine

/-! ### Lane addresses (R110, R111) -/

theorem sextWord_eq_signExtend (i : Nat) : sextWord 32 (BitVec.ofNat 64 i) = (BitVec.ofNat 32 i).signExtend 64 := by
  have hsigned : toSigned 32 (BitVec.ofNat 64 i).toNat = (BitVec.ofNat 32 i).toInt := by
    unfold toSigned
    rw [BitVec.toInt_eq_toNat_cond, BitVec.toNat_ofNat, BitVec.toNat_ofNat, Nat.mod_mod_of_dvd i (by decide : 2 ^ 32 ∣ 2 ^ 64)]
    split <;> split <;> omega
  exact congrArg (BitVec.ofInt 64) hsigned

/-- Bytes of an element of a gather or scatter. -/
def elementBytes (o : Opnds) : Nat := if o.t = 1 then 8 else 4

/-- The address of lane `k`. -/
def laneAddr (o : Opnds) (b : Word) (x : VWord) (n k : Nat) : Nat :=
  (b + o.imm + (if n = 4 then (BitVec.ofNat 32 (laneAt x n k)).signExtend 64 else BitVec.ofNat 64 (laneAt x n k))).toNat

theorem gatherAddrs_eq (o : Opnds) (b : Word) (x : VWord) :
    gatherAddrs o b x = (upTo (64 / elementBytes o)).map (laneAddr o b x (elementBytes o)) := by
  unfold gatherAddrs lanes
  dsimp only
  rw [List.map_map]
  refine List.map_congr_left fun k _ => ?_
  unfold laneAddr
  rw [← sextWord_eq_signExtend]
  rfl

/-! ### Gathers where no error mark stands (R110) -/

theorem placeBad_of_noErrs {s : State} (h : s.errs = []) (pl : Place) (n : Nat) : s.placeBad pl n = false := by
  cases pl <;> simp [State.placeBad, State.hardErr, h]

theorem placeFix_of_noErrs {s : State} (h : s.errs = []) (pl : Place) (n : Nat) : s.placeFix pl n = s := if_pos (by rw [h]; rfl)

theorem serveBanks_errs (s : State) (pl : Place) (n : Nat) : (s.serveBanks pl n).errs = s.errs := by cases pl <;> rfl

theorem same_serveBanks (s : State) (pl : Place) (n : Nat) : Same s (s.serveBanks pl n) := by cases pl <;> exact ⟨rfl, rfl, rfl⟩

theorem foldl_serve_of_noErrs (n : Nat) (pls : List (Place × Nat)) {s : State} (h : s.errs = []) :
    pls.foldl (fun s p => (s.placeFix p.1 n).serveBanks p.1 n) s = pls.foldl (fun s p => s.serveBanks p.1 n) s := by
  induction pls generalizing s with
  | nil => rfl
  | cons p pls ih =>
    rw [List.foldl_cons, List.foldl_cons, placeFix_of_noErrs h]
    exact ih ((serveBanks_errs s p.1 n).trans h)

theorem effVgth_of_check {o : Opnds} {v : Vals} {s sc : State} {pls : List (Place × Nat)}
    (hcheck : s.checkAll (elementBytes o) 0 (gatherAddrs o v.y.s (v.x.v (elementBytes o))) = .ok (pls, sc)) (herrs : sc.errs = []) :
    effVgth o v s = Done.result (pls.foldl (fun u p => u.serveBanks p.1 (elementBytes o)) sc)
      (.v (ofLanes (elementBytes o) (pls.map (fun p => sc.readAt p.1 (elementBytes o))))) := by
  have hgood : pls.any (fun p => sc.placeBad p.1 (elementBytes o)) = false := by simp [placeBad_of_noErrs herrs]
  unfold elementBytes at *
  unfold effVgth
  dsimp only
  rw [hcheck]
  dsimp only
  rw [hgood, foldl_serve_of_noErrs _ pls herrs]
  rfl

/-! ### The data of a scatter (R111) -/

theorem starts_wellFormed {s : State} {i : Instr} {r : Vals × State} (h : s.starts i = some r) : i.wellFormed = true := by
  unfold State.starts at h
  split at h
  · rename_i hissues
    unfold State.issues at hissues
    split at hissues
    · cases hissues
    · simp only [Bool.and_eq_true] at hissues
      obtain ⟨⟨⟨hfor, -⟩, -⟩, -⟩ := hissues
      unfold Instr.wellFormedFor at hfor
      exact (Bool.and_eq_true_iff.1 hfor).1
  · cases h

/-- A VSCT that starts names an even vector register: the next one exists. -/
theorem vsct_next_register {e : Fields} {s : State} {r : Vals × State} (h : s.starts (.vsct e) = some r) : (Instr.vsct e).opnds.x + 1 < 48 := by
  have hform : formOf (.vsct e) = some (⟨false, 12, 5, e⟩, .scatter) := rfl
  obtain ⟨hc, row, hrow, hshape⟩ := row_of_formOf hform
  obtain ⟨-, -, hlegal⟩ := (wellFormed_iff hc hrow).1 (starts_wellFormed h)
  rw [hshape] at hlegal
  have hextra : subIf (!(isVecName (Instr.vsct e).opnds.x) || (Instr.vsct e).opnds.x % 2 == 1) 7 = [] := (List.append_eq_nil_iff.1 hlegal).2
  generalize (Instr.vsct e).opnds.x = x at hextra ⊢
  have heven : (32 ≤ x ∧ x ≤ 47) ∧ x % 2 = 0 := by simpa [subIf, isVecName] using hextra
  omega

theorem furtherVec_register {s : State} {x : Nat} (h : x < 48) : s.furtherVec x = (s.cx.vreg (x - 32), s) := if_pos h

theorem effVsct_of_check {o : Opnds} {v : Vals} {s sc s' : State} {pls : List (Place × Nat)} (hx : o.x + 1 < 48)
    (hbusy : s.busy (o.x + 1) = false)
    (hcheck : s.checkAll (elementBytes o) 1 (gatherAddrs o v.y.s (v.x.v (elementBytes o))) = .ok (pls, sc))
    (hput : sc.putLanes (elementBytes o) pls (lanes (sc.cx.vreg (o.x + 1 - 32)) (elementBytes o)) = .ok s') :
    effVsct o v s = Done.plain s' := by
  unfold elementBytes at *
  unfold effVsct
  dsimp only
  rw [hbusy, hcheck]
  dsimp only
  rw [furtherVec_register hx]
  dsimp only
  rw [hput]
  rfl

/-! ### Masked stores (R109) -/

theorem effVsts_of_check {o : Opnds} {v : Vals} {s sc s' : State} {pls : List (Place × Nat)} {sel : List Nat}
    (hsel : (upTo (64 / laneBytes o.t)).filter (fun k => (s.cx.kreg 1).getLsbD k) = sel)
    (hcheck : s.checkAll (laneBytes o.t) 1 (sel.map (fun k => (effAddr o v + k * laneBytes o.t) % 2 ^ 64)) = .ok (pls, sc))
    (hput : sc.putLanes (laneBytes o.t) pls (sel.map (laneAt (v.x.v (laneBytes o.t)) (laneBytes o.t))) = .ok s') :
    effVsts o v s = Done.plain s' := by
  unfold effVsts
  dsimp only
  rw [hsel, hcheck]
  dsimp only
  rw [hput]

/-! ### Windows (R104) -/

/-- What PWLD leaves beside its result: its core waits for no line any more, and OOB is set where it reaches past the bound. -/
def State.windowRead (s : State) (size off : Nat) : State :=
  let sw := if s.ctx = 0 then s.modMe (fun c => { c with wmiss := none }) else s
  if size < off + 8 then sw.sticky 8 else sw

theorem same_windowRead (s : State) (size off : Nat) : Same s (s.windowRead size off) := by
  have hmiss : Same s (if s.ctx = 0 then s.modMe (fun c => { c with wmiss := none }) else s) := same_ite (Same.modCore s _ _) (Same.refl s)
  exact same_ite (hmiss.trans (Same.modCore _ _ _)) hmiss

theorem effPwld_of_window {o : Opnds} {v : Vals} {s sc : State} {q base size x : Nat} {l : Launch} (hlo : 0x04000000 ≤ effAddr o v)
    (hhi : effAddr o v + 8 ≤ 0x04800000) (hoff : effAddr o v % 0x100000 ≤ 0xFFFF8) (hl : s.launchOf s.cur = some (q, l))
    (hw : mfind l.wins ((effAddr o v - 0x04000000) / 0x100000) = some (base, size))
    (hbytes : s.windowBytes q l.cid base size 8 (effAddr o v % 0x100000) = .ok (x, sc)) :
    effPwld o v s = Done.result (sc.windowRead size (effAddr o v % 0x100000)) (.s (BitVec.ofNat 64 x)) := by
  unfold effPwld
  dsimp only
  rw [if_neg (by simp [hlo, hhi, hoff]), hl]
  dsimp only
  rw [hw]
  dsimp only
  rw [hbytes]
  rfl

/-- Settles O25: each instruction by its effect, where its checks pass. -/
theorem gatherScatterResults : Obligations.GatherScatterResults := by
  unfold Obligations.GatherScatterResults
  intro e s at' width
  refine ⟨?gather, ?scatter, ?masked, ?window⟩
  case gather =>
    refine completes_intro (eff := effVgth) rfl ?_
    rintro v s1 s' r jump - ⟨rfl, pls, sc, hcheck, herrs, hsame, rfl, rfl⟩
    refine ⟨effVgth_of_check ?_ herrs, hsame.trans (same_foldl pls _ (fun u p => same_serveBanks u p.1 _) sc)⟩
    rw [gatherAddrs_eq]
    exact hcheck
  case scatter =>
    refine completes_intro (eff := effVsct) rfl ?_
    rintro v s1 s' r jump hstarts ⟨rfl, rfl, hbusy, pls, sc, hcheck, hsame, hput⟩
    refine ⟨effVsct_of_check (vsct_next_register hstarts) hbusy ?_ hput, hsame⟩
    rw [gatherAddrs_eq]
    exact hcheck
  case masked =>
    refine completes_intro (eff := effVsts) rfl ?_
    rintro v s1 s' r jump - ⟨rfl, rfl, pls, sc, hcheck, hsame, hput⟩
    exact ⟨effVsts_of_check rfl hcheck hput, hsame⟩
  case window =>
    refine completes_intro (eff := effPwld) rfl ?_
    rintro v s1 s' r jump - ⟨rfl, q, l, base, size, x, sc, hlo, hhi, hoff, hl, hw, hbytes, hsame, rfl, rfl⟩
    exact ⟨effPwld_of_window hlo hhi hoff hl hw hbytes, hsame.trans (same_windowRead sc _ _)⟩

end Sys2Proof.Machine
end

section
/-! PROOF. Launches (O55): a record is taken in, ages, its groups are dealt and started, and it leaves the queue with its verdict. -/

namespace Sys2Proof.Machine

/-! ### The record at HEAD (R305 to R307) -/

/-- HEAD of a partition's inbox moves on past a slot. -/
def State.pastHead (s : State) (q slot : Nat) : State := s.modPart q (fun x => { x with head := BitVec.ofNat 64 ((slot + 1) % 256) })

theorem pastHead_part (s : State) (q slot : Nat) :
    (s.pastHead q slot).part q = { s.part q with head := BitVec.ofNat 64 ((slot + 1) % 256) } := State.part_modPart_self _ _ _

theorem pastHead_head (s : State) (q slot : Nat) : ((s.pastHead q slot).part q).head.toNat = (slot + 1) % 256 := by
  rw [pastHead_part, BitVec.toNat_ofNat]
  omega

/-- The launch that the record at HEAD describes. -/
def State.inboxLaunch (s : State) (q : Nat) : Launch :=
  newLaunch (s.part q).serial (mget [] (s.part q).inbox ((s.part q).head.toNat % 256)) (s.part q).cid 0 true

theorem inboxRecordIntake_refused {s : State} {q : Nat} (hstopped : (s.part q).stopped = false)
    (hrecord : (s.part q).head.toNat % 256 ≠ (s.part q).tail.toNat % 256)
    (hbad : (s.inboxLaunch q).privileged = true ∨ s.illFormed q (s.inboxLaunch q) = true) :
    Sys2Proof.Machine.exec (.inboxRecordIntake q) s
      = .next ((s.refuseHost q (s.inboxLaunch q)).pastHead q ((s.part q).head.toNat % 256)) := by
  have hrefused : ((s.inboxLaunch q).privileged || s.illFormed q (s.inboxLaunch q)) = true := by
    rw [Bool.or_eq_true]
    exact hbad
  change execInboxRecordIntake q s = _
  unfold execInboxRecordIntake
  dsimp only
  rw [if_neg (by simp [hstopped, hrecord])]
  exact if_pos hrefused

/-- A record that is in order, and for which the queue has room. -/
theorem submit_queued {s : State} {q : Nat} {l : Launch} (hgood : s.illFormed q l = false) (hroom : (s.part q).launches.length < 128) :
    s.submit q l = (0, s.enqueue q { l with serial := (s.part q).serial }) := by
  unfold State.submit
  rw [hgood, if_neg Bool.false_ne_true, if_neg (by omega)]

/-- A launch without predecessors enters the queue. -/
theorem enqueue_of_noPred {l : Launch} (h : ∀ i, i < 4 → l.predV i = false) (s : State) (q : Nat) :
    s.enqueue q l = s.modPart q (fun x => { x with launches := x.launches ++ [{ l with winRead := l.nw == 0 }], serial := x.serial + 1 }) := by
  have hnone : (upTo 4).filter l.predV = [] :=
    List.filter_eq_nil_iff.2 fun i hi => by rw [h i (List.mem_range.1 hi)]; exact Bool.false_ne_true
  unfold State.enqueue
  rw [hnone]
  rfl

theorem inboxRecordIntake_queued {s : State} {q : Nat} (hstopped : (s.part q).stopped = false)
    (hrecord : (s.part q).head.toNat % 256 ≠ (s.part q).tail.toNat % 256) (hfree : (s.inboxLaunch q).privileged = false)
    (hgood : s.illFormed q (s.inboxLaunch q) = false) (hroom : (s.part q).launches.length < 128) :
    Sys2Proof.Machine.exec (.inboxRecordIntake q) s
      = .next ((s.enqueue q (s.inboxLaunch q)).pastHead q ((s.part q).head.toNat % 256)) := by
  have hsubmit : s.submit q (s.inboxLaunch q) = (0, s.enqueue q (s.inboxLaunch q)) := submit_queued hgood hroom
  have hgoes : ((s.inboxLaunch q).privileged || s.illFormed q (s.inboxLaunch q)) = false := by rw [hfree, hgood]; rfl
  change execInboxRecordIntake q s = _
  unfold execInboxRecordIntake
  unfold State.inboxLaunch at hsubmit hgoes ⊢
  dsimp only
  rw [if_neg (by simp [hstopped, hrecord]), hgoes, hsubmit]
  rfl

theorem refuseHost_verd (s : State) (q : Nat) (l : Launch) : mget 0 ((s.refuseHost q l).part q).verds l.lid = 3 := by
  unfold State.refuseHost
  dsimp only
  rw [State.part_modPart_self, mget_mset_self]

/-! ### Windows, ageing, the start of a launch (R305, R308, R312) -/

theorem windowTableRead_eq {s u : State} {q lid : Nat} {l : Launch} {m : Map (Nat × Nat)} (hl : s.byLid q lid = some l) (hfree : l.free = true)
    (hnew : l.winRead = false) (hread : s.readWindows l l.nw 0 = .ok (m, u)) : Sys2Proof.Machine.exec (.windowTableRead q lid) s
      = .next (u.modLaunch q l.serial (fun l => { l with winRead := true, wins := m })) := by
  change execWindowTableRead q lid s = _
  unfold execWindowTableRead
  rw [hl]
  dsimp only
  rw [if_neg (by simp [hfree, hnew]), hread]

theorem ageingStep_eq {s : State} {q lid : Nat} {l : Launch} (hl : s.byLid q lid = some l) (heligible : l.eligible = true)
    (hlong : 2 ^ 20 ≤ l.elig) : Sys2Proof.Machine.exec (.ageingStep q lid) s
      = .next (s.modLaunch q l.serial (fun l => { l with elig := l.elig - 2 ^ 20, aged := l.aged + 1 })) := by
  change execAgeingStep q lid s = _
  unfold execAgeingStep
  rw [hl]
  exact if_pos (by rw [heligible, decide_eq_true hlong]; rfl)

theorem launchStart_eq {s : State} {q : Nat} {l : Launch} (hl : s.nextLaunch q = some l) (hpair : l.flag 0 = false) (hbuddy : l.flag 1 = false) :
    Sys2Proof.Machine.exec (.launchStart q) s = .next ((s.modLaunch q l.serial (fun x =>
      { x with started := true, startNo := (s.part q).starts, shares := dealShares l.g (s.units q l.gang), pairs := [] })).modPart q (fun x =>
      { x with starts := x.starts + 1 })) := by
  change execLaunchStart q s = _
  unfold execLaunchStart
  rw [hl]
  dsimp only
  rw [hpair, hbuddy, if_neg (by simp), if_neg (by simp)]
  rfl

/-! ### Shares (R312) -/

/-- The first group of share `i` when `g` groups are dealt to `u` units. -/
def shareStart (g u i : Nat) : Nat := i * (g / u) + min i (g % u)

theorem shareStart_zero (g u : Nat) : shareStart g u 0 = 0 := by simp [shareStart]

theorem shareStart_succ (g u i : Nat) : shareStart g u (i + 1) = shareStart g u i + g / u + (if i < g % u then 1 else 0) := by
  unfold shareStart
  rw [Nat.succ_mul]
  split <;> omega

theorem shareStart_all {u : Nat} (hu : 0 < u) (g : Nat) : shareStart g u u = g := by
  have hmin : min u (g % u) = g % u := Nat.min_eq_right (Nat.mod_lt g hu).le
  rw [shareStart, hmin]
  exact Nat.div_add_mod g u

theorem shareStart_mono (g u : Nat) : Monotone (shareStart g u) :=
  monotone_nat_of_le_succ fun i => by
    rw [shareStart_succ, Nat.add_assoc]
    exact Nat.le_add_right _ _

/-- Share `i` of a launch. -/
def shareAt (g : Nat) (us : List (List Nat)) (i : Nat) : Share :=
  { unit := us.getD i [], next := shareStart g us.length i, stop := shareStart g us.length (i + 1) }

theorem dealShares_eq (g : Nat) (us : List (List Nat)) : dealShares g us = (upTo us.length).map (shareAt g us) := by
  refine List.map_congr_left fun i _ => ?_
  unfold shareAt
  rw [shareStart_succ]
  rfl

theorem mem_dealShares {g : Nat} {us : List (List Nat)} {h : Share} : h ∈ dealShares g us ↔ ∃ i, i < us.length ∧ shareAt g us i = h := by
  simp [dealShares_eq, upTo]

theorem dealShares_units (g : Nat) (us : List (List Nat)) : (dealShares g us).map (·.unit) = us := by
  rw [dealShares_eq, List.map_map]
  refine List.ext_getElem (by simp [upTo]) fun i _ hi => ?_
  simp [upTo, shareAt, hi]

theorem dealShares_even {g : Nat} {us : List (List Nat)} {h : Share} (hh : h ∈ dealShares g us) :
    h.next + g / us.length ≤ h.stop ∧ h.stop ≤ h.next + g / us.length + 1 := by
  obtain ⟨i, -, rfl⟩ := mem_dealShares.1 hh
  have hstop : (shareAt g us i).stop = (shareAt g us i).next + g / us.length + if i < g % us.length then 1 else 0 := shareStart_succ _ _ _
  rw [hstop]
  split <;> omega

theorem dealShares_stop_le {g : Nat} {us : List (List Nat)} {h : Share} (hh : h ∈ dealShares g us) : h.stop ≤ g := by
  obtain ⟨i, hi, rfl⟩ := mem_dealShares.1 hh
  exact (shareStart_mono g us.length hi).trans (shareStart_all (by omega) g).le

/-- A number below the start of share `k` lies in one of the shares before it. -/
theorem exists_shareStart_le {g u n k : Nat} (h : n < shareStart g u k) : ∃ i, i < k ∧ shareStart g u i ≤ n ∧ n < shareStart g u (i + 1) := by
  induction k with
  | zero =>
    rw [shareStart_zero] at h
    omega
  | succ k ih =>
    by_cases hk : n < shareStart g u k
    · obtain ⟨i, hi, hlo, hhi⟩ := ih hk
      exact ⟨i, by omega, hlo, hhi⟩
    · exact ⟨k, Nat.lt_succ_self k, Nat.le_of_not_lt hk, h⟩

theorem dealShares_cover {g n : Nat} {us : List (List Nat)} (hus : us ≠ []) (hn : n < g) : ∃ h ∈ dealShares g us, h.next ≤ n ∧ n < h.stop := by
  rw [← shareStart_all (List.length_pos_iff.2 hus) g] at hn
  obtain ⟨i, hi, hlo, hhi⟩ := exists_shareStart_le hn
  exact ⟨_, mem_dealShares.2 ⟨i, hi, rfl⟩, hlo, hhi⟩

/-! ### The start of a group (R313) -/

/-- A fold that keeps what it has or takes the next element ends with one of the list. -/
theorem mem_of_foldl_pick {α : Type} {f : Option α → α → Option α} (hf : ∀ a x, f a x = a ∨ f a x = some x) {l : List α} {a : Option α} {y : α}
    (h : l.foldl f a = some y) : a = some y ∨ y ∈ l := by
  induction l generalizing a with
  | nil => exact .inl h
  | cons x l ih =>
    rcases ih h with hx | hx
    · rcases hf a x with hkeep | htake
      · exact .inl (hkeep.symm.trans hx)
      · exact .inr (List.mem_cons.2 (.inl (Option.some.inj (htake.symm.trans hx)).symm))
    · exact .inr (List.mem_cons_of_mem x hx)

theorem nextShare_queued {s : State} {q lp : Nat} {l : Launch} {h : Share} (hnext : s.nextShare q lp = some (l, h)) : l ∈ (s.part q).launches := by
  unfold State.nextShare at hnext
  dsimp only at hnext
  refine (mem_of_foldl_pick (fun a x => ?pick) hnext).elim (fun hnone => by cases hnone) fun hmem => ?listed
  case pick =>
    cases a with
    | none => exact .inr rfl
    | some b =>
      dsimp only
      split_ifs
      · exact .inr rfl
      · exact .inl rfl
      · exact .inr rfl
      · exact .inl rfl
  case listed =>
    obtain ⟨m, hm, hsome⟩ := List.mem_filterMap.1 hmem
    split at hsome
    · split at hsome
      · cases hsome
        exact hm
      · cases hsome
    · cases hsome

/-- A group of one core starts on it: its core has left its gang and starts without a twin. -/
def State.startedAlone (s : State) (l : Launch) (index p : Nat) : State :=
  ((s.leaveGang p).startOn l index p none 0).modCore p (fun c => c)

theorem startUnit_alone {l : Launch} (hgang : l.gang = 1) (hpairs : l.pairs = []) (s : State) (q index p : Nat) :
    s.startUnit q l index [p] = s.startedAlone l index p := by
  have htwin : ∀ lp, s.twinIn q l lp = none := fun lp => by unfold State.twinIn; rw [hpairs]; rfl
  unfold State.startUnit
  simp only [hgang, if_true, List.foldl_cons, List.foldl_nil, htwin]
  rfl

/-- The cluster of a core that takes a group: a new launch empties the window cache, and a stopped clock runs again. -/
def Cluster.started (k : Cluster) (q : Nat) (live : List Nat) (serial : Nat) : Cluster :=
  { k.begin q live serial with idle := 0, power := if k.power = .clkoff then .run else k.power }

/-- The unit of one core `p` has started the next group of a share. -/
def State.groupStarted (s : State) (q p : Nat) (l : Launch) (h : Share) : State :=
  ((s.startedAlone l h.next p).modCluster (clusterOf p) (·.started q ((s.part q).launches.map (·.serial)) l.serial)).modLaunch q l.serial (fun x =>
    { x with shares := x.shares.map (fun z => if z.unit == h.unit then { z with next := z.next + 1 } else z) })

theorem groupStart_eq {s : State} {p q lp : Nat} {l : Launch} {h : Share} (hq : s.partOf p = some q) (hlp : (s.core p).lpid = some lp)
    (hnext : s.nextShare q lp = some (l, h)) (hunit : h.unit = [lp]) (hphys : s.physOf q lp = some p) (hgang : l.gang = 1)
    (hpairs : l.pairs = []) (hidle : (s.core p).group = none) : Sys2Proof.Machine.exec (.groupStart p) s = .next (s.groupStarted q p l h) := by
  have hcores : h.unit.filterMap (fun x => s.physOf q x) = [p] := by rw [hunit]; simp [hphys]
  change execGroupStart p s = _
  unfold execGroupStart
  rw [hq, hlp]
  dsimp only
  rw [hnext]
  dsimp only
  rw [hcores]
  simp only [List.foldl_cons, List.foldl_nil, hidle, startUnit_alone hgang hpairs]
  rfl

/-- What a core holds when a group of its own has started on it. -/
theorem startedAlone_core (s : State) (l : Launch) (index p : Nat) :
    ((s.startedAlone l index p).core p).ctl = startContext ((s.leaveGang p).core p).ctl l index 0
      ∧ ((s.startedAlone l index p).core p).group
        = some { launch := l.serial, index := index, ran := 0, trig := false, passed := false, replay := false }
      ∧ ((s.startedAlone l index p).core p).exited = false := by
  unfold State.startedAlone State.startOn
  rw [State.core_modCore_self, State.core_modCore_self]
  exact ⟨rfl, rfl, rfl⟩

theorem startedAlone_cluster (s : State) (l : Launch) (index p cl : Nat) : (s.startedAlone l index p).cluster cl = s.cluster cl := by
  unfold State.startedAlone State.startOn
  rw [State.modCore_cluster_get, State.modCore_cluster_get]
  exact (quiet_leaveGang s p).alike.device (fun u => u.cluster cl) (fun _ => rfl)

theorem SameMemory.trans {s t u : State} (h : SameMemory s t) (g : SameMemory t u) : SameMemory s u :=
  ⟨fun p => (g.1 p).trans (h.1 p), fun cl => (g.2.1 cl).trans (h.2.1 cl), g.2.2.trans h.2.2⟩

theorem startOn_memory (s : State) (l : Launch) (index p : Nat) (mask : BitVec 8) : SameMemory s (s.startOn l index p none mask) := by
  unfold State.startOn
  exact sameMemory_modCore s p (fun _ => rfl)

theorem startedAlone_memory (s : State) (l : Launch) (index p : Nat) : SameMemory s (s.startedAlone l index p) := by
  have hleft := (quiet_leaveGang s p).account.sameMemory
  have hstarted := startOn_memory (s.leaveGang p) l index p 0
  exact (hleft.trans hstarted).trans (sameMemory_modCore _ p (f := fun c => c) (fun _ => rfl))

theorem sreg_setS (x : Context) {m : Nat} (hm : m ≠ 0) (v : Word) (n : Nat) : (x.setS m v).sreg n = if n = m then v else x.sreg n := by
  unfold Context.sreg Context.setS
  rw [if_neg hm]
  by_cases hn : n = 0
  · rw [if_pos hn, if_pos hn, if_neg (by omega)]
  · rw [if_neg hn, if_neg hn]
    exact mget_mset _ _ _ _ _

theorem startContext_sreg (x : Context) (l : Launch) (index n : Nat) (mask : BitVec 8) :
    (startContext x l index mask).sreg n = if n = 31 then BitVec.ofNat 64 index else if n = 30 then l.word 6 else 0 := by
  have hblank : (Context.blank .ready 0).sreg n = 0 := ite_self 0
  change (((Context.blank .ready 0).setS 30 (l.word 6)).setS 31 (BitVec.ofNat 64 index)).sreg n = _
  rw [sreg_setS _ (by decide), sreg_setS _ (by decide), hblank]

/-- A group starts at level U, whatever its slice. -/
theorem startContext_level (x : Context) (l : Launch) (index : Nat) (mask : BitVec 8) : lvlOf (startContext x l index mask).tsw = 0 := by
  unfold startContext
  dsimp only
  split <;> decide

/-- Of a launch in the queue: its first group on a cluster empties the window cache, and the cluster knows it from then on. -/
theorem begin_queued {k : Cluster} {q serial : Nat} {live : List Nat} (hlive : serial ∈ live) :
    (k.begin q live serial).wcache = (if (q, serial) ∈ k.begun then k.wcache else []) ∧ (q, serial) ∈ (k.begin q live serial).begun := by
  have hold : (k.begun.filter (fun b => b.1 != q || live.contains b.2)).contains (q, serial) = decide ((q, serial) ∈ k.begun) := by
    rw [List.contains_eq_mem, decide_eq_decide, List.mem_filter]
    exact and_iff_left (by simp [hlive])
  unfold Cluster.begin
  dsimp only
  rw [hold]
  by_cases hbegun : (q, serial) ∈ k.begun
  · rw [if_pos (decide_eq_true hbegun), if_pos hbegun]
    exact ⟨rfl, List.mem_filter.2 ⟨hbegun, by simp [hlive]⟩⟩
  · rw [if_neg (by simp [hbegun]), if_neg hbegun]
    exact ⟨rfl, List.mem_cons_self⟩

theorem begin_mem (k : Cluster) (q : Nat) (live : List Nat) (serial : Nat) : (k.begin q live serial).mem = k.mem := by
  unfold Cluster.begin
  dsimp only
  split <;> rfl

theorem sameMemory_modLaunch (s : State) (q serial : Nat) (f : Launch → Launch) : SameMemory s (s.modLaunch q serial f) :=
  ⟨fun _ => rfl, fun _ => rfl, rfl⟩

theorem sameMemory_clusterStarted (s : State) (cl q : Nat) (live : List Nat) (serial : Nat) :
    SameMemory s (s.modCluster cl (·.started q live serial)) :=
  (account_modCluster s cl (f := (·.started q live serial)) (fun k => begin_mem k q live serial)).sameMemory

theorem groupStarted_memory (s : State) (q p : Nat) (l : Launch) (h : Share) : SameMemory s (s.groupStarted q p l h) :=
  ((startedAlone_memory s l h.next p).trans (sameMemory_clusterStarted _ _ _ _ _)).trans (sameMemory_modLaunch _ _ _ _)

theorem groupStarted_core (s : State) (q p : Nat) (l : Launch) (h : Share) :
    (s.groupStarted q p l h).core p = (s.startedAlone l h.next p).core p := by
  unfold State.groupStarted State.modLaunch
  rw [State.modPart_core_get, State.modCluster_core_get]

theorem groupStarted_cluster (s : State) (q p : Nat) (l : Launch) (h : Share) : (s.groupStarted q p l h).cluster (clusterOf p)
    = (s.cluster (clusterOf p)).started q ((s.part q).launches.map (·.serial)) l.serial := by
  unfold State.groupStarted State.modLaunch
  rw [State.modPart_cluster_get, State.cluster_modCluster_self, startedAlone_cluster]

/-! ### Completion (R314) -/

/-- A partition's kept verdicts and the serial numbers of its queue. -/
def State.kept (s : State) (q : Nat) : Map Nat × List Nat := ((s.part q).verds, (s.part q).launches.map (·.serial))

theorem kept_modLaunch (s : State) (q serial : Nat) {f : Launch → Launch} (hf : ∀ l, (f l).serial = l.serial) :
    (s.modLaunch q serial f).kept q = s.kept q := by
  have hserial : ∀ l : Launch, (if l.serial == serial then f l else l).serial = l.serial := fun l => by
    split
    · exact hf l
    · rfl
  unfold State.kept State.modLaunch
  rw [State.part_modPart_self, List.map_map]
  exact congrArg (Prod.mk _) (List.map_congr_left fun l _ => hserial l)

theorem kept_postSup (s : State) (n : Nat) (e : MailEntry) (q : Nat) : (s.postSup n e).kept q = s.kept q := by
  unfold State.kept State.part
  rw [postSup_parts]

theorem kept_settle (s : State) (q : Nat) (l : Launch) (i verd : Nat) : (s.settle q l i verd).kept q = s.kept q := by
  unfold State.settle
  dsimp only
  split
  · rw [kept_postSup]
    exact kept_modLaunch s q _ (fun _ => rfl)
  · exact kept_modLaunch s q _ (fun _ => rfl)

theorem kept_afterPred (s : State) (q lid verd : Nat) (d : Launch) : (s.afterPred q lid verd d).kept q = s.kept q := by
  unfold State.afterPred
  split
  · split
    · rw [kept_modLaunch _ q _ (by intro _; rfl)]
      exact kept_modLaunch s q _ (fun _ => rfl)
    · exact kept_modLaunch s q _ (fun _ => rfl)
  · exact foldl_keeps (fun s => s.kept q) (fun s i => kept_settle s q d i verd) _ s

/-- A launch that completes leaves the queue, and its verdict is kept. -/
theorem complete_kept (s : State) (q : Nat) (l : Launch) (cause : BitVec 8) (verd : Nat) :
    mget 0 ((s.complete q l cause verd).part q).verds l.lid = verd ∧ ∀ d ∈ ((s.complete q l cause verd).part q).launches, d.serial ≠ l.serial := by
  obtain ⟨u, hu⟩ : ∃ u, u = (s.storeVerdict q l cause verd).modPart q (fun x =>
      { x with verds := mset x.verds l.lid verd, launches := x.launches.filter (fun d => d.serial != l.serial) }) := ⟨_, rfl⟩
  have hkept : (s.complete q l cause verd).kept q = u.kept q := by
    rw [hu]
    exact foldl_keeps (fun s => s.kept q) (fun s d => kept_afterPred s q l.lid verd d) _ _
  obtain ⟨hverds, hserials⟩ := Prod.mk.inj hkept
  have hpart := State.part_modPart_self (s.storeVerdict q l cause verd) q (fun x =>
      { x with verds := mset x.verds l.lid verd, launches := x.launches.filter (fun d => d.serial != l.serial) })
  rw [← hu] at hpart
  refine ⟨?_, fun d hd => ?_⟩
  · rw [hverds, hpart]
    exact mget_mset_self _ _ _ _
  · have hmem := List.mem_map_of_mem (f := Launch.serial) hd
    rw [hserials, hpart] at hmem
    obtain ⟨x, hx, hserial⟩ := List.mem_map.1 hmem
    rw [← hserial]
    simpa using (List.mem_filter.1 hx).2

theorem launchComplete_eq {s : State} {q lid : Nat} {l : Launch} (hl : s.byLid q lid = some l) (hstarted : l.started = true) (hall : l.exits = l.g) :
    Sys2Proof.Machine.exec (.launchComplete q lid) s = .next (s.complete q l l.cause l.verd) := by
  change execLaunchComplete q lid s = _
  unfold execLaunchComplete
  rw [hl]
  exact if_pos (by simp [hstarted, hall])

/-- Settles O55: each step of the distributor by its equation, with what it leaves of the queue, the shares, the core and its cluster. -/
theorem launchSteps : Obligations.LaunchSteps := by
  unfold Obligations.LaunchSteps
  refine ⟨fun s q hstopped hrecord => ⟨fun hfree hgood hroom hpreds => ?queued, fun hbad => ?refused⟩, ?window, ?age, ?start, ?deal, ?group,
    ?complete⟩
  case queued =>
    refine ⟨_, inboxRecordIntake_queued hstopped hrecord hfree hgood hroom, pastHead_head _ _ _, ?_⟩
    rw [pastHead_part, enqueue_of_noPred (l := s.inboxLaunch q) hpreds, State.part_modPart_self]
    exact ⟨rfl, rfl⟩
  case refused =>
    refine ⟨_, inboxRecordIntake_refused hstopped hrecord hbad, pastHead_head _ _ _, ?_⟩
    rw [pastHead_part]
    exact refuseHost_verd _ _ _
  case window =>
    intro s u q lid l m hl hfree hnew hread
    exact ⟨_, windowTableRead_eq hl hfree hnew hread, rfl⟩
  case age =>
    intro s q lid l hl heligible hlong
    exact ⟨_, ageingStep_eq hl heligible hlong, rfl⟩
  case start =>
    intro s q l hl hpair hbuddy
    refine ⟨_, launchStart_eq hl hpair hbuddy, ?_⟩
    unfold State.modLaunch
    rw [State.part_modPart_self, State.part_modPart_self]
    simp
  case deal =>
    intro g us hus
    refine ⟨?_, dealShares_units g us, fun _ => dealShares_even, fun _ => dealShares_cover hus, fun _ => dealShares_stop_le⟩
    rw [← List.length_map (f := Share.unit), dealShares_units]
  case group =>
    intro s p q lp l h hq hlp hnext hunit hphys hgang hpairs hidle _
    have hlive : l.serial ∈ (s.part q).launches.map (·.serial) := List.mem_map_of_mem (nextShare_queued hnext)
    obtain ⟨hcache, hbegun⟩ := begin_queued (k := s.cluster (clusterOf p)) (q := q) hlive
    obtain ⟨hctl, hgroup, hexited⟩ := startedAlone_core s l h.next p
    refine ⟨_, groupStart_eq hq hlp hnext hunit hphys hgang hpairs hidle, ?_⟩
    rw [groupStarted_core, groupStarted_cluster, hctl, hgroup]
    refine ⟨rfl, rfl, ?_, ?_, fun n h30 h31 => ?_, rfl, startContext_level _ _ _ _, ⟨_, rfl, rfl, rfl⟩, hexited, hcache, hbegun,
      groupStarted_memory s q p l h⟩
    · rw [startContext_sreg]; rfl
    · rw [startContext_sreg]; rfl
    · rw [startContext_sreg, if_neg h31, if_neg h30]
  case complete =>
    intro s q lid l hl hstarted hall
    exact ⟨_, launchComplete_eq hl hstarted hall, complete_kept s q l l.cause l.verd⟩

end Sys2Proof.Machine
end

section
/-! PROOF. Clusters, border moves, clocks, power and heat (O59): a scrub by core and by cluster, a service tick by partition, a border move
through what numbering a cluster keeps, and each step of a die's clock. -/

namespace Sys2Proof.Machine

/-! ### The cores of a cluster -/

theorem mem_coresOf {cl p : Nat} : p ∈ coresOf cl ↔ ∃ i, i < 9 ∧ coreAt cl i = p := by simp [coresOf, upTo]

theorem coreAt_mem_coresOf (cl : Nat) {i : Nat} (h : i < 9) : coreAt cl i ∈ coresOf cl := mem_coresOf.2 ⟨i, h, rfl⟩

theorem clusterOf_of_mem_coresOf {cl p : Nat} (h : p ∈ coresOf cl) : clusterOf p = cl := by
  obtain ⟨i, hi, rfl⟩ := mem_coresOf.1 h
  unfold clusterOf coreAt
  omega

theorem nodup_coresOf (cl : Nat) : (coresOf cl).Nodup :=
  List.nodup_range.map fun i j (h : cl * 16 + i = cl * 16 + j) => Nat.add_left_cancel h

/-- Changing each of several cores alike. -/
theorem core_foldl_modCore (f : Core → Core) (q : Nat) {ps : List Nat} (hps : ps.Nodup) (s : State) :
    (ps.foldl (fun s p => s.modCore p f) s).core q = if q ∈ ps then f (s.core q) else s.core q := by
  induction ps generalizing s with
  | nil => simp
  | cons p ps ih =>
    obtain ⟨hp, hps⟩ := List.nodup_cons.1 hps
    rw [List.foldl_cons, ih hps, State.core_modCore]
    by_cases hq : q = p
    · subst hq
      simp [hp]
    · simp [hq]

/-! ### A scrub (R97) -/

/-- A core after the scrub of its cluster. -/
def Core.scrubbed (c : Core) : Core := { c with mem := [], ulog := [], ulogPast := [], ovf := false, ulogEn := true }

/-- A cluster after its scrub, under a new key. -/
def Cluster.scrubbed (k : Cluster) (key : Nat) : Cluster :=
  { k with mem := [], keyNo := key, banks := [], tiles := [], fmts := [], freePods := 256, wcache := [], begun := [], bankPtr := [], atomPtr := 0 }

/-- The cores of a cluster are scrubbed. -/
def State.scrubCores (s : State) (cl : Nat) : State := (coresOf cl).foldl (fun s p => s.modCore p Core.scrubbed) s

theorem cluster_foldl_modCore (f : Core → Core) (ps : List Nat) (s : State) (c : Nat) :
    (ps.foldl (fun s p => s.modCore p f) s).cluster c = s.cluster c :=
  foldl_keeps (fun s : State => s.cluster c) (f := fun s p => s.modCore p f) (fun _ _ => rfl) ps s

theorem phys_foldl_modCore (f : Core → Core) (ps : List Nat) (s : State) : (ps.foldl (fun s p => s.modCore p f) s).phys = s.phys :=
  foldl_keeps State.phys (f := fun s p => s.modCore p f) (fun _ _ => rfl) ps s

/-- A cluster is scrubbed beside its cores, under a new key. -/
def State.scrubRest (s : State) (cl : Nat) : State :=
  let t := { s with tick := s.tick + 1 }.modCluster cl (·.scrubbed (s.tick + 1))
  { t with errs := t.errs.filter (fun m => !m.inCluster cl) }

theorem scrubCluster_eq (s : State) (cl : Nat) : s.scrubCluster cl = (s.scrubCores cl).scrubRest cl := rfl

theorem scrubRest_core (s : State) (cl p : Nat) : (s.scrubRest cl).core p = s.core p := rfl

theorem scrubRest_cluster (s : State) (cl c : Nat) :
    (s.scrubRest cl).cluster c = if c = cl then (s.cluster cl).scrubbed (s.tick + 1) else s.cluster c :=
  State.cluster_modCluster ({ s with tick := s.tick + 1 } : State) cl c (·.scrubbed (s.tick + 1))

theorem scrubRest_phys (s : State) (cl : Nat) : (s.scrubRest cl).phys = s.phys := rfl

theorem scrubCluster_core (s : State) (cl p : Nat) :
    (s.scrubCluster cl).core p = if p ∈ coresOf cl then (s.core p).scrubbed else s.core p := by
  rw [scrubCluster_eq, scrubRest_core]
  exact core_foldl_modCore Core.scrubbed p (nodup_coresOf cl) s

theorem scrubCores_cluster (s : State) (cl c : Nat) : (s.scrubCores cl).cluster c = s.cluster c := cluster_foldl_modCore _ _ s c

theorem scrubCluster_cluster (s : State) (cl c : Nat) :
    (s.scrubCluster cl).cluster c = if c = cl then (s.cluster cl).scrubbed ((s.scrubCores cl).tick + 1) else s.cluster c := by
  rw [scrubCluster_eq, scrubRest_cluster, scrubCores_cluster, scrubCores_cluster]

theorem scrubCluster_phys (s : State) (cl : Nat) : (s.scrubCluster cl).phys = s.phys := by
  rw [scrubCluster_eq, scrubRest_phys]
  exact phys_foldl_modCore _ _ s

theorem scrubCluster_core_mem (s : State) (cl : Nat) {i : Nat} (hi : i < 9) :
    ((s.scrubCluster cl).core (coreAt cl i)).mem = [] ∧ ((s.scrubCluster cl).core (coreAt cl i)).ulog = [] := by
  rw [scrubCluster_core, if_pos (coreAt_mem_coresOf cl hi)]
  exact ⟨rfl, rfl⟩

theorem scrubCluster_core_outside (s : State) {cl p : Nat} (hp : clusterOf p ≠ cl) : (s.scrubCluster cl).core p = s.core p := by
  rw [scrubCluster_core, if_neg fun h => hp (clusterOf_of_mem_coresOf h)]

theorem scrubCluster_contexts (s : State) (cl : Nat) : SameContexts s (s.scrubCluster cl) := by
  intro p k
  rw [scrubCluster_core]
  split <;> rfl

/-! ### Clusters: scrub, clock off, power off (R97, R389) -/

/-- A cluster that the supervisor has scrubbed; one that was gated runs again. -/
def State.scrubbedByFirmware (s : State) (cl : Nat) : State :=
  (s.scrubCluster cl).modCluster cl (fun k => { k with idle := 0, power := if k.power = .gated then .run else k.power })

theorem clusterScrub_eq {s : State} {cl : Nat} (hidle : s.clusterIdle cl = true)
    (hmay : (s.cluster cl).part = none ∨ (s.cluster cl).moving ≠ none ∨ (s.cluster cl).power = .gated) :
    Sys2Proof.Machine.exec (.clusterScrub cl) s = .next (s.scrubbedByFirmware cl) := by
  have hgoes : (s.clusterIdle cl && ((s.cluster cl).part.isNone || (s.cluster cl).moving.isSome || (s.cluster cl).power == .gated)) = true := by
    rw [hidle, Bool.true_and]
    rcases hmay with h | h | h
    · simp [h]
    · simp [Option.isSome_iff_ne_none.2 h]
    · simp [h]
  exact if_pos hgoes

theorem scrubbedByFirmware_self (s : State) (cl : Nat) : ∃ key, (s.scrubbedByFirmware cl).cluster cl =
    { (s.cluster cl).scrubbed key with idle := 0, power := if (s.cluster cl).power = .gated then .run else (s.cluster cl).power } := by
  refine ⟨(s.scrubCores cl).tick + 1, ?_⟩
  unfold State.scrubbedByFirmware
  rw [State.cluster_modCluster_self, scrubCluster_cluster, if_pos rfl]
  rfl

theorem scrubbedByFirmware_core (s : State) (cl p : Nat) : (s.scrubbedByFirmware cl).core p = (s.scrubCluster cl).core p := by
  unfold State.scrubbedByFirmware
  rw [State.modCluster_core_get]

theorem scrubbedByFirmware_phys (s : State) (cl : Nat) : (s.scrubbedByFirmware cl).phys = (s.scrubCluster cl).phys := by
  unfold State.scrubbedByFirmware
  rw [State.modCluster_phys]

theorem clusterClkoff_eq {s : State} {cl : Nat} (hidle : s.clusterIdle cl = true) (hrun : (s.cluster cl).power = .run)
    (hlong : 250000 ≤ (s.cluster cl).idle) :
    Sys2Proof.Machine.exec (.clusterClkoff cl) s = .next (s.modCluster cl (fun k => { k with power := .clkoff })) :=
  if_pos (by simp [hidle, hrun, msTicks, hlong])

/-- A core whose power has been off. -/
def Core.unpowered (c : Core) : Core := { Core.fresh with lpid := c.lpid, exited := c.exited, noMore := c.noMore, opNo := c.opNo }

/-- A cluster without power. -/
def Cluster.unpowered (k : Cluster) : Cluster :=
  { k with power := .gated, muw := Cluster.fresh.muw, mrr := Cluster.fresh.mrr, crr := Cluster.fresh.crr }

/-- A cluster's power goes off: its cores lose what they hold. -/
def State.powerOff (s : State) (cl : Nat) : State :=
  (coresOf cl).foldl (fun s p => s.modCore p Core.unpowered) (s.modCluster cl Cluster.unpowered)

theorem clusterGate_eq {s : State} {cl : Nat} (hidle : s.clusterIdle cl = true) (hoff : (s.cluster cl).power = .clkoff) :
    Sys2Proof.Machine.exec (.clusterGate cl) s = .next ((s.scrubCluster cl).powerOff cl) := if_pos (by simp [hidle, hoff])

theorem powerOff_cluster (s : State) (cl : Nat) : (s.powerOff cl).cluster cl = (s.cluster cl).unpowered := by
  unfold State.powerOff
  rw [cluster_foldl_modCore, State.cluster_modCluster_self]

theorem powerOff_core (s : State) (cl p : Nat) : (s.powerOff cl).core p = if p ∈ coresOf cl then (s.core p).unpowered else s.core p :=
  core_foldl_modCore Core.unpowered p (nodup_coresOf cl) _

/-! ### The service tick (R317) -/

theorem passed_of_le {s : State} {since : Word} {n : Nat} (h : n ≤ (s.time - since).toNat) : s.passed since n = true := decide_eq_true h

/-- A partition's groups of the last millisecond are compared with its target. -/
def Partition.compared (x : Partition) : Partition := { x with below := if x.groups < x.svct.toNat then x.below + 1 else 0 }

/-- The partition has an entry of its own. -/
def State.lists (s : State) (q : Nat) : Bool := s.parts.any (fun kx => kx.1 == q)

theorem any_mset {α : Type} (m : Map α) (i q : Nat) (v : α) : (mset m i v).any (fun kx => kx.1 == q) = (m.any (fun kx => kx.1 == q) || i == q) := by
  induction m with
  | nil => simp [mset]
  | cons kw m ih =>
    obtain ⟨k, w⟩ := kw
    unfold mset
    by_cases hlt : i < k
    · simp [hlt, Bool.or_comm]
    · by_cases heq : i = k
      · subst heq
        simp only [Nat.lt_irrefl, if_false, if_true, List.any_cons]
        cases (i == q) <;> simp
      · simp only [hlt, heq, if_false, List.any_cons, ih, Bool.or_assoc]

/-- A listed partition is compared. -/
def State.compare (s : State) (q : Nat) : State := if s.lists q then s.modPart q Partition.compared else s

theorem compare_lists (s : State) (q r : Nat) : (s.compare q).lists r = s.lists r := by
  unfold State.compare
  split
  · rename_i hq
    refine (any_mset s.parts q r _).trans ?_
    by_cases h : q = r
    · subst h
      change s.parts.any (fun kx => kx.1 == q) = true at hq
      simp [State.lists, hq]
    · simp [State.lists, h]
  · rfl

theorem compare_part (s : State) {q r : Nat} (hr : s.lists r = true) :
    (s.compare q).part r = if r = q then (s.part r).compared else s.part r := by
  unfold State.compare
  by_cases h : r = q
  · subst h
    rw [if_pos hr, if_pos rfl, State.part_modPart_self]
  · rw [if_neg h]
    split
    · rw [State.part_modPart, if_neg h]
    · rfl

/-- Every listed partition of several is compared once. -/
theorem foldl_compare_part {r : Nat} {qs : List Nat} (hqs : qs.Nodup) {s : State} (hr : s.lists r = true) :
    (qs.foldl State.compare s).part r = if r ∈ qs then (s.part r).compared else s.part r := by
  induction qs generalizing s with
  | nil => simp
  | cons q qs ih =>
    obtain ⟨hq, hqs⟩ := List.nodup_cons.1 hqs
    rw [List.foldl_cons, ih hqs ((compare_lists s q r).trans hr), compare_part s hr]
    by_cases h : r = q
    · subst h
      simp [hq]
    · simp [h]

/-- A border move that begins marks a cluster and clears its partition's count; otherwise nothing happens. -/
theorem beginMove_cases (s : State) (q : Nat) : s.beginMove q = s
    ∨ ∃ cl, s.beginMove q = (s.modCluster cl (fun k => { k with moving := some q })).modPart q (fun x => { x with below := 0 }) := by
  unfold State.beginMove
  dsimp only
  split
  · exact .inl rfl
  · split
    · exact .inl rfl
    · exact .inr ⟨_, rfl⟩

theorem beginMove_keeps (s : State) (q : Nat) : ((s.beginMove q).cores, (s.beginMove q).time) = (s.cores, s.time) := by
  rcases beginMove_cases s q with h | ⟨cl, h⟩
  · rw [h]
  · rw [h]
    rfl

theorem beginMove_part (s : State) {q r : Nat} (h : r ≠ q) : (s.beginMove q).part r = s.part r := by
  rcases beginMove_cases s q with hs | ⟨cl, hs⟩
  · rw [hs]
  · rw [hs, State.part_modPart, if_neg h]
    rfl

theorem foldl_beginMove_part {r : Nat} {qs : List Nat} (h : r ∉ qs) (s : State) : (qs.foldl State.beginMove s).part r = s.part r := by
  induction qs generalizing s with
  | nil => rfl
  | cons q qs ih =>
    rw [List.mem_cons, not_or] at h
    rw [List.foldl_cons, ih h.2, beginMove_part s h.1]

/-- Every partition has been compared. -/
def State.comparedAll (s : State) : State := (upTo 16).foldl State.compare s

/-- Border moves have begun for the partitions that have been below their targets for four milliseconds. -/
def State.movesBegun (s : State) : State := ((upTo 16).filter (fun q => decide (4 ≤ (s.part q).below))).foldl State.beginMove s

/-- A service tick is over: every partition counts its groups anew. -/
def State.tickOver (s : State) : State :=
  { s with parts := s.parts.map (fun (kx : Nat × Partition) => (kx.1, { kx.2 with groups := 0 })), secure := { s.secure with ticked := s.time } }

theorem tickOver_part (s : State) (q : Nat) : s.tickOver.part q = { s.part q with groups := 0 } :=
  mget_map s.parts (fun _ x => { x with groups := 0 }) q rfl

theorem serviceControllerTick_eq {s : State} (h : 250000 ≤ (s.time - s.secure.ticked).toNat) :
    Sys2Proof.Machine.exec .serviceControllerTick s = .next s.comparedAll.movesBegun.tickOver := by
  have hpassed : s.passed s.secure.ticked msTicks = true := passed_of_le h
  change execServiceControllerTick s = _
  unfold execServiceControllerTick
  rw [hpassed]
  have hcompare : (upTo 16).foldl (fun s q => if s.parts.any (fun kx => kx.1 == q) then s.modPart q (fun x =>
      { x with below := if x.groups < x.svct.toNat then x.below + 1 else 0 }) else s) s = s.comparedAll := rfl
  have hmoves : ∀ u : State, ((upTo 16).filter (fun q => decide (4 ≤ (u.part q).below))).foldl State.beginMove u = u.movesBegun := fun _ => rfl
  simp only [hcompare, hmoves]
  generalize s.comparedAll.movesBegun = u
  rfl

theorem compare_keeps (s : State) (q : Nat) : ((s.compare q).cores, (s.compare q).time) = (s.cores, s.time) := by
  unfold State.compare
  split <;> rfl

theorem comparedAll_keeps (s : State) : (s.comparedAll.cores, s.comparedAll.time) = (s.cores, s.time) := by
  unfold State.comparedAll
  exact foldl_keeps (fun s : State => (s.cores, s.time)) compare_keeps (upTo 16) s

theorem movesBegun_keeps (s : State) : (s.movesBegun.cores, s.movesBegun.time) = (s.cores, s.time) := by
  unfold State.movesBegun
  exact foldl_keeps (fun s : State => (s.cores, s.time)) beginMove_keeps _ s

theorem tickOver_keeps (s : State) : (s.tickOver.cores, s.tickOver.secure.ticked) = (s.cores, s.time) := rfl

theorem serviceTick_keeps (s : State) :
    (s.comparedAll.movesBegun.tickOver.cores, s.comparedAll.movesBegun.tickOver.secure.ticked) = (s.cores, s.time) := by
  rw [tickOver_keeps, movesBegun_keeps, comparedAll_keeps]

/-- A listed partition that has not been short for long: the tick leaves the count that the comparison gives. -/
theorem serviceTick_below {s : State} {q : Nat} (hq : q < 16) (hlists : s.lists q = true) (hfew : (s.part q).compared.below < 4) :
    (s.comparedAll.movesBegun.tickOver.part q).below = (s.part q).compared.below := by
  have hcompared : s.comparedAll.part q = (s.part q).compared :=
    (foldl_compare_part List.nodup_range hlists).trans (if_pos (List.mem_range.2 hq))
  have hstays : q ∉ (upTo 16).filter (fun q => decide (4 ≤ (s.comparedAll.part q).below)) := by
    rw [List.mem_filter, hcompared]
    simp; omega
  have hmoves : s.comparedAll.movesBegun.part q = s.comparedAll.part q := foldl_beginMove_part hstays _
  rw [tickOver_part, hmoves, hcompared]

theorem compared_below_reached {x : Partition} (h : x.svct.toNat ≤ x.groups) : x.compared.below = 0 := if_neg (by omega)

theorem compared_below_short {x : Partition} (h : x.groups < x.svct.toNat) : x.compared.below = x.below + 1 := if_pos h

/-! ### Border moves (R318) -/

/-- Clearing an entry of PART.L2P leaves main memory. -/
theorem remap_clear_phys (s : State) (q l : Nat) : (s.remap q l 0).phys = s.phys := by
  unfold State.remap
  dsimp only
  rw [show (BitVec.ofNat 64 (wfield 0 0 13 + wfield 0 63 1 * 2 ^ 63)).getLsbD 63 = false from rfl]
  cases s.physOf q l with
  | none => rfl
  | some p => exact (quiet_leaveGang _ p).account.phys

/-- The first number past a partition's numbers names no core. -/
theorem physOf_count (s : State) (q : Nat) : s.physOf q (s.part q).n = none := if_neg (Nat.lt_irrefl _)

/-- Cluster `cl` is scrubbed, granted to partition `q` and runs; main memory is `m`. -/
structure Granted (cl q : Nat) (m : Mem) (t : State) : Prop where
  /-- The cluster's partition, its move, its power and its memory. -/
  cluster : ((t.cluster cl).part, (t.cluster cl).moving, (t.cluster cl).power, (t.cluster cl).mem) = (some q, none, .run, [])
  /-- Its cores' memories. -/
  cores : ∀ i, i < 9 → (t.core (coreAt cl i)).mem = []
  /-- Main memory. -/
  phys : t.phys = m

section
variable {cl q : Nat} {m : Mem} {t : State}

theorem Granted.of_clusters {u : State} (h : Granted cl q m t) (hclusters : u.clusters = t.clusters) (hphys : u.phys = t.phys)
    (hmem : ∀ p, (u.core p).mem = (t.core p).mem) : Granted cl q m u := by
  refine ⟨?_, fun i hi => (hmem _).trans (h.cores i hi), hphys.trans h.phys⟩
  unfold State.cluster
  rw [hclusters]
  exact h.cluster

theorem Granted.modCore (h : Granted cl q m t) (p : Nat) {f : Core → Core} (hf : ∀ c, (f c).mem = c.mem) : Granted cl q m (t.modCore p f) :=
  h.of_clusters rfl rfl (sameMemory_modCore t p hf).1

/-- A grant of a free cluster does not touch one that is granted. -/
theorem Granted.grant (h : Granted cl q m t) (r c : Nat) : Granted cl q m (t.grant r c) := by
  unfold State.grant
  split
  · rename_i hfree
    have hne : cl ≠ c := by
      rintro rfl
      rw [(Prod.mk.inj h.cluster).1] at hfree
      cases hfree
    refine ⟨?_, fun i hi => ?_, (scrubCluster_phys t c).trans h.phys⟩
    · rw [State.cluster_modCluster, if_neg hne, scrubCluster_cluster, if_neg hne]
      exact h.cluster
    · rw [State.modCluster_core_get, scrubCluster_core]
      split
      · rfl
      · exact h.cores i hi
  · exact h

theorem Granted.number (h : Granted cl q m t) (r l p : Nat) : Granted cl q m (t.number r l p) := by
  unfold State.number
  dsimp only
  split
  · exact h
  · split
    · exact (h.grant r _).modCore p (fun _ => rfl)
    · exact h.grant r _

theorem Granted.remap_next (h : Granted cl q m t) (r : Nat) (e : Word) : Granted cl q m (t.remap r (t.part r).n e) := by
  unfold State.remap
  dsimp only
  rw [physOf_count]
  dsimp only
  have hpart : ∀ f, Granted cl q m (t.modPart r f) := fun _ => h.of_clusters rfl rfl (fun _ => rfl)
  split
  · exact (hpart _).number r _ _
  · exact hpart _

theorem Granted.foldl {α : Type} (h : Granted cl q m t) {f : State → α → State} (hf : ∀ {t} a, Granted cl q m t → Granted cl q m (f t a))
    (l : List α) : Granted cl q m (l.foldl f t) := by
  induction l generalizing t with
  | nil => exact h
  | cons a l ih => exact ih (hf a h)

theorem Granted.numberCluster (h : Granted cl q m t) (r c : Nat) : Granted cl q m (t.numberCluster r c) :=
  h.foldl (fun _ h => h.remap_next r _) _

/-- Partitions, channels and dies do not bear on it. -/
theorem Granted.withTables (h : Granted cl q m t) (r : Nat) (f : Partition → Partition) (chans : Map Channel) (die0 die1 : Die) :
    Granted cl q m { t.modPart r f with chans := chans, die0 := die0, die1 := die1 } := h.of_clusters rfl rfl (fun _ => rfl)

theorem Granted.renumber (h : Granted cl q m t) (r : Nat) : Granted cl q m (t.renumber r) := by
  unfold State.renumber
  dsimp only
  split
  · exact h
  · exact (h.foldl (fun i h => h.modCore _ (f := fun c => { c with lpid := some i }) (fun _ => rfl)) _).withTables r _ _ _ _

end

/-- The entries of the partition that holds a cluster, for its cores, are cleared. -/
def State.withdrawn (s : State) (cl : Nat) : State :=
  let donor := match (s.cluster cl).part with
    | some r => r
    | none => 16
  (s.lpsIn donor cl).reverse.foldl (fun s l => s.remap donor l 0) s

theorem withdrawn_phys (s : State) (cl : Nat) : (s.withdrawn cl).phys = s.phys := foldl_keeps State.phys (fun s l => remap_clear_phys s _ l) _ s

theorem granted_scrubbed (s : State) (cl q : Nat) :
    Granted cl q s.phys ((s.scrubCluster cl).modCluster cl (fun k => { k with part := some q, moving := none, idle := 0, power := .run })) := by
  refine ⟨?_, fun i hi => (scrubCluster_core_mem s cl hi).1, scrubCluster_phys s cl⟩
  rw [State.cluster_modCluster_self, scrubCluster_cluster, if_pos rfl]
  rfl

theorem borderMoveGrant_granted {s : State} {cl q : Nat} (hmoving : (s.cluster cl).moving = some q) (hidle : s.clusterIdle cl = true)
    (hbusy : s.unitsBusy cl = false) : ∃ t, Sys2Proof.Machine.exec (.borderMoveGrant cl) s = .next t ∧ Granted cl q s.phys t := by
  change ∃ t, execBorderMoveGrant cl s = .next t ∧ _
  unfold execBorderMoveGrant
  rw [hmoving]
  dsimp only
  rw [if_neg (by simp [hidle, hbusy])]
  refine ⟨_, rfl, ?_⟩
  rw [← withdrawn_phys s cl]
  exact (((granted_scrubbed (s.withdrawn cl) cl q).numberCluster q cl).renumber _).renumber q

/-! ### Clocks (R384, R385) -/

/-- A write of CLKREQ of a die, as a change of that die. -/
def Die.clkreq (d : Die) (v : Nat) (now : Word) : Die :=
  let d := if v.testBit 32 then { d with err := false } else d
  if 12 < v % 16 then { d with err := true } else { d with asked := v % 16, want := some (v % 16) }.goOn now

theorem clockStep_eq (s : State) (d v : Nat) : Sys2Proof.Machine.exec (.clockStep d v) s = .next (s.modDie d (fun x => x.clkreq v s.time)) := rfl

theorem clkreq_refused {d : Die} {v : Nat} (h : 12 < v % 16) (now : Word) : (d.clkreq v now).err = true ∧ (d.clkreq v now).set = d.set := by
  unfold Die.clkreq
  dsimp only
  rw [if_pos h]
  refine ⟨rfl, ?_⟩
  split <;> rfl

theorem clkreq_allowed {d : Die} {v : Nat} (h : v % 16 ≤ 12) (now : Word) :
    d.clkreq v now = { d with err := !(v.testBit 32) && d.err, asked := v % 16, want := some (v % 16) }.goOn now := by
  unfold Die.clkreq
  dsimp only
  rw [if_neg (by omega)]
  cases v.testBit 32 <;> rfl

theorem goOn_capped {d : Die} {k : Nat} (hwant : d.want = some k) (hcap : d.cap < k) (now : Word) : d.goOn now = d := by
  unfold Die.goOn
  rw [hwant]
  exact if_pos (by simp [hcap])

theorem goOn_applied {d : Die} {k : Nat} (hwant : d.want = some k) (hcap : k ≤ d.cap) (hrelock : d.relock = false) (hset : k ≠ d.set) (now : Word) :
    d.goOn now = { d with want := none, set := k, relock := true, relockAt := now } := by
  unfold Die.goOn
  rw [hwant]
  dsimp only
  rw [if_neg (by simp [hrelock]; omega)]
  exact if_neg hset

theorem goOn_none {d : Die} (hwant : d.want = none) (now : Word) : d.goOn now = d := by
  unfold Die.goOn
  rw [hwant]

/-- A die that has relocked and has nothing to wait for. -/
theorem clockRelockDone_eq {s : State} {d : Nat} (hrelock : (s.die d).relock = true) (hpassed : 500 ≤ (s.time - (s.die d).relockAt).toNat)
    (hwant : (s.die d).want = none) (hcap : (s.die d).set ≤ (s.die d).cap) : ∃ t, Sys2Proof.Machine.exec (.clockRelockDone d) s = .next t
      ∧ t.die d = { s.die d with relock := false, inc := clockInc (s.die d).set } ∧ t.cores = s.cores := by
  refine ⟨_, if_neg (by rw [hrelock, passed_of_le hpassed]; decide), ?_, State.modDie_cores _ _ _⟩
  rw [State.die_modDie_self]
  dsimp only
  rw [if_neg (by omega), goOn_none (by exact hwant)]

/-! ### Power and heat (R390, R391) -/

theorem goTo_set (d : Die) (k : Nat) (now : Word) : (d.goTo k now).set = k := by
  unfold Die.goTo
  split
  · rename_i h; exact h.symm
  · rfl

theorem goTo_other (d : Die) (k : Nat) (now : Word) :
    ((d.goTo k now).cap, (d.goTo k now).hot, (d.goTo k now).cooled) = (d.cap, d.hot, d.cooled) := by
  unfold Die.goTo
  split <;> rfl

theorem goTo_cap (d : Die) (k : Nat) (now : Word) : (d.goTo k now).cap = d.cap := congrArg Prod.fst (goTo_other d k now)

theorem powerDown_cap (d : Die) (now : Word) : (d.powerDown now).cap = d.set - 1 := by
  unfold Die.powerDown
  dsimp only
  split
  · rfl
  · exact goTo_cap _ _ _

theorem powerDown_set {d : Die} (h : d.relock = false) (now : Word) : (d.powerDown now).set = d.set - 1 := by
  unfold Die.powerDown
  dsimp only
  rw [if_neg (by simp [h])]
  exact goTo_set _ _ _

theorem goOn_cap (d : Die) (now : Word) : (d.goOn now).cap = d.cap := by
  unfold Die.goOn
  split
  · split
    · rfl
    · exact goTo_cap _ _ _
  · rfl

theorem powerUp_cap (d : Die) (now : Word) : (d.powerUp now).cap = min 12 (d.cap + 1) := by
  unfold Die.powerUp
  dsimp only
  split
  · exact goOn_cap _ _
  · split
    · exact goTo_cap _ _ _
    · rfl

/-- Both dies change alike. -/
def State.modDies (s : State) (f : Die → Die) (v : Secure) : State := { s with die0 := f s.die0, die1 := f s.die1, secure := v }

theorem modDies_die (s : State) (f : Die → Die) (v : Secure) (d : Nat) : (s.modDies f v).die d = f (s.die d) := by
  unfold State.die State.modDies
  split <;> rfl

/-- What a power sample leaves, by the average power and the number of calm samples before it. -/
def State.powerSampled (s : State) (w : Nat) : State :=
  if 3400 < w then s.modDies (·.powerDown s.time) { s.secure with sampled := s.time, calm := 0 }
  else if w < 3100 then
    if 15 ≤ s.secure.calm then s.modDies (·.powerUp s.time) { s.secure with sampled := s.time, calm := 0 }
    else { s with secure := { s.secure with sampled := s.time, calm := s.secure.calm + 1 } }
  else { s with secure := { s.secure with sampled := s.time, calm := 0 } }

theorem powerSample_eq {s : State} (h : 250000 ≤ (s.time - s.secure.sampled).toNat) (w : Nat) :
    Sys2Proof.Machine.exec (.powerSample w) s = .next (s.powerSampled w) := by
  have hpassed : s.passed s.secure.sampled msTicks = true := passed_of_le h
  change execPowerSample w s = _
  unfold execPowerSample State.powerSampled
  rw [hpassed, if_neg (by decide)]
  dsimp only
  split
  · rfl
  · split
    · split <;> rfl
    · rfl

theorem powerSampled_keeps (s : State) (w : Nat) : ((s.powerSampled w).secure.sampled, (s.powerSampled w).cores) = (s.time, s.cores) := by
  unfold State.powerSampled
  split
  · rfl
  · split
    · split <;> rfl
    · rfl

theorem powerSampled_high {w : Nat} (h : 3400 < w) (s : State) (d : Nat) : (s.powerSampled w).die d = (s.die d).powerDown s.time := by
  unfold State.powerSampled
  rw [if_pos h, modDies_die]

theorem powerSampled_calm {s : State} {w : Nat} (h : w < 3100) (hcalm : 15 ≤ s.secure.calm) (d : Nat) :
    (s.powerSampled w).die d = (s.die d).powerUp s.time := by
  unfold State.powerSampled
  rw [if_neg (by omega), if_pos h, if_pos hcalm, modDies_die]

theorem powerSampled_low {s : State} {w : Nat} (h : w < 3100) (hcalm : s.secure.calm < 15) :
    s.powerSampled w = { s with secure := { s.secure with sampled := s.time, calm := s.secure.calm + 1 } } :=
  (if_neg (by omega)).trans ((if_pos h).trans (if_neg (by omega)))

theorem powerSampled_mid {w : Nat} (hlo : 3100 ≤ w) (hhi : w ≤ 3400) (s : State) :
    s.powerSampled w = { s with secure := { s.secure with sampled := s.time, calm := 0 } } :=
  (if_neg (by omega)).trans (if_neg (by omega))

theorem thermalStepdown_cool {s : State} {c : Nat} (h : c < 95) (d : Nat) :
    Sys2Proof.Machine.exec (.thermalStepdown d c) s = .next (s.modDie d (fun x => { x with hot := false })) := if_pos h

theorem thermalStepdown_hot {s : State} {d c : Nat} (hc : 100 ≤ c) (hhot : (s.die d).hot = false) (hrelock : (s.die d).relock = false) :
    Sys2Proof.Machine.exec (.thermalStepdown d c) s
      = .next (s.modDie d (fun x => { x with hot := true, cooled := s.time }.goTo (x.set - 1) s.time)) :=
  (if_neg (by omega)).trans (if_pos (by simp [hc, hhot, hrelock]))

/-- Writing the scrub journals of a cold boot leaves cores, partitions and the device state. -/
theorem coldBoot_keeps (s : State) : (s.coldBoot.cores, s.coldBoot.parts, s.coldBoot.secure.trip)
    = (State.reset.cores, State.reset.parts, s.secure.trip) := by
  unfold State.coldBoot
  exact foldl_keeps (fun s : State => (s.cores, s.parts, s.secure.trip)) (f := fun s sl => s.setJournal sl (some (0, 0))) (fun _ _ => rfl)
    (upTo 32) _

theorem thermalTrip_eq {c : Nat} (h : 115 ≤ c) (s : State) (d : Nat) :
    Sys2Proof.Machine.exec (.thermalTrip d c) s = .next ({ s with secure := { s.secure with trip := some s.time } } : State).coldBoot :=
  if_neg (by omega)

/-- Settles O59: each step by its equation, with what a scrub, a tick, a border move and a change of a die's clock leave. -/
theorem platformSteps : Obligations.PlatformSteps := by
  unfold Obligations.PlatformSteps
  refine ⟨fun s cl hidle => ⟨?scrub, ?clkoff, ?gate⟩, ?tick, ?grant, fun s d v => ⟨⟨?refused, ?capped, ?applied⟩, ?relocked⟩, ?power,
    fun s d c => ⟨?cool, ?hot, ?trip⟩⟩
  case scrub =>
    intro hmay
    obtain ⟨key, hself⟩ := scrubbedByFirmware_self s cl
    refine ⟨_, clusterScrub_eq hidle hmay, ?_, ?_, ?_, ?_, ?_, ?_, ?_, fun i hi => ?_, fun c hc => ?_, fun p hp => ?_,
      (scrubbedByFirmware_phys s cl).trans (scrubCluster_phys s cl), fun p k => ?_⟩
    iterate 6 rw [hself]; rfl
    · rw [hself]
      dsimp only
      split
      · exact Power.noConfusion
      · assumption
    · rw [scrubbedByFirmware_core]
      exact scrubCluster_core_mem s cl hi
    · unfold State.scrubbedByFirmware
      rw [State.cluster_modCluster, if_neg hc, scrubCluster_cluster, if_neg hc]
    · rw [scrubbedByFirmware_core, scrubCluster_core_outside s hp]
    · rw [scrubbedByFirmware_core]
      exact scrubCluster_contexts s cl p k
  case clkoff =>
    intro hrun hlong
    exact ⟨_, clusterClkoff_eq hidle hrun hlong, congrArg (·.power) (State.cluster_modCluster_self _ _ _), rfl,
      (account_modCluster s cl (f := fun k => { k with power := .clkoff }) (fun _ => rfl)).sameMemory⟩
  case gate =>
    intro hoff
    have hcluster := powerOff_cluster (s.scrubCluster cl) cl
    rw [scrubCluster_cluster, if_pos rfl] at hcluster
    refine ⟨_, clusterGate_eq hidle hoff, congrArg (·.power) hcluster, congrArg (·.mem) hcluster, fun i hi => ?_, fun p hp => ?_⟩
    · rw [powerOff_core, if_pos (coreAt_mem_coresOf cl hi), scrubCluster_core, if_pos (coreAt_mem_coresOf cl hi)]
      exact ⟨rfl, rfl⟩
    · rw [powerOff_core, if_neg fun h => hp (clusterOf_of_mem_coresOf h), scrubCluster_core_outside s hp]
  case tick =>
    intro s hms
    obtain ⟨hcores, hticked⟩ := Prod.mk.inj (serviceTick_keeps s)
    refine ⟨_, serviceControllerTick_eq hms, hticked, fun q => by rw [tickOver_part], fun q hq hlists => ⟨fun hreached => ?_, fun hshort hfew => ?_⟩,
      hcores⟩
    · have hbelow := compared_below_reached hreached
      rw [serviceTick_below hq hlists (by omega), hbelow]
    · have hbelow := compared_below_short hshort
      rw [serviceTick_below hq hlists (by omega), hbelow]
  case grant =>
    intro s cl q hmoving hidle hbusy
    obtain ⟨t, hexec, hgranted⟩ := borderMoveGrant_granted hmoving hidle hbusy
    have hcluster := hgranted.cluster
    simp only [Prod.mk.injEq] at hcluster
    obtain ⟨hpart, hmoved, hruns, hmem⟩ := hcluster
    exact ⟨t, hexec, hpart, hmoved, hruns, hmem, hgranted.cores, hgranted.phys⟩
  case refused =>
    intro hk
    obtain ⟨herr, hset⟩ := clkreq_refused (d := s.die d) hk s.time
    exact ⟨_, clockStep_eq s d v, by rw [State.die_modDie_self, herr], by rw [State.die_modDie_self, hset]⟩
  case capped =>
    intro hk hcap
    refine ⟨_, clockStep_eq s d v, ?_⟩
    rw [State.die_modDie_self, clkreq_allowed hk, goOn_capped rfl (by exact hcap)]
    exact ⟨rfl, rfl, rfl⟩
  case applied =>
    intro hk hcap hrelock hset
    refine ⟨_, clockStep_eq s d v, ?_⟩
    rw [State.die_modDie_self, clkreq_allowed hk, goOn_applied rfl (by exact hcap) (by exact hrelock) (by exact hset)]
    exact ⟨rfl, rfl, rfl, rfl, rfl, State.modDie_cores _ _ _⟩
  case relocked =>
    intro hrelock hpassed hwant hcap
    obtain ⟨t, hexec, hdie, hcores⟩ := clockRelockDone_eq hrelock hpassed hwant hcap
    exact ⟨t, hexec, by rw [hdie], by rw [hdie], by rw [hdie], hcores⟩
  case power =>
    intro s w hms
    obtain ⟨hsampled, hcores⟩ := Prod.mk.inj (powerSampled_keeps s w)
    refine ⟨_, powerSample_eq hms w, hsampled, fun hhigh d _ => ?_, fun hlow hcalm d _ => ?_, fun hlow hfew => ?_, fun hlo hhi => ?_, hcores⟩
    · rw [powerSampled_high hhigh]
      exact ⟨powerDown_cap _ _, fun hrelock => powerDown_set hrelock _⟩
    · rw [powerSampled_calm hlow hcalm]
      exact powerUp_cap _ _
    · rw [powerSampled_low hlow hfew]
      exact ⟨rfl, fun _ => rfl⟩
    · rw [powerSampled_mid hlo hhi]
      exact ⟨rfl, fun _ => rfl⟩
  case cool =>
    intro hc
    refine ⟨_, thermalStepdown_cool hc d, ?_⟩
    rw [State.die_modDie_self]
    exact ⟨rfl, rfl⟩
  case hot =>
    intro hc hhot hrelock
    have hother := goTo_other { s.die d with hot := true, cooled := s.time } ((s.die d).set - 1) s.time
    simp only [Prod.mk.injEq] at hother
    obtain ⟨-, hheat, hcooled⟩ := hother
    refine ⟨_, thermalStepdown_hot hc hhot hrelock, ?_⟩
    rw [State.die_modDie_self]
    exact ⟨hheat, goTo_set _ _ _, hcooled⟩
  case trip =>
    intro hc
    have hkept := coldBoot_keeps { s with secure := { s.secure with trip := some s.time } }
    simp only [Prod.mk.injEq] at hkept
    obtain ⟨hcores, hparts, htrip⟩ := hkept
    exact ⟨_, thermalTrip_eq hc s d, htrip, hcores, hparts⟩

end Sys2Proof.Machine
end

section
/-! SUPPORT. Accesses where no error mark stands, of a core without a twin: what a load reads, what a store and an atomic write. -/

namespace Sys2Proof.Machine

/-! ### What writing at a place keeps of who runs -/

theorem same_gwrite (s : State) (ps : List Piece) (v : Nat) : Same s (s.gwrite ps v) := by
  induction ps generalizing s v with
  | nil => exact Same.refl s
  | cons p ps ih =>
    unfold State.gwrite
    dsimp only
    refine Same.trans ?_ (ih _ _)
    exact (same_clearErr s .phys p.pa p.n).trans (same_ite ⟨rfl, rfl, rfl⟩ ⟨rfl, rfl, rfl⟩)

theorem same_logPut (s : State) (cl a : Nat) (v : Byte) : Same s (s.logPut cl a v) := by
  unfold State.logPut
  split <;> exact ⟨rfl, rfl, rfl⟩

theorem same_cluWrite (s : State) (cl a n v : Nat) : Same s (s.cluWrite cl a n v) := by
  refine same_ite ⟨rfl, rfl, rfl⟩ (same_foldl _ _ (fun u k => ?_) s)
  exact same_ite ⟨rfl, rfl, rfl⟩ (same_logPut u _ _ _)

theorem same_writeAt (s : State) (pl : Place) (n v : Nat) : Same s (s.writeAt pl n v) := by
  cases pl with
  | loc a => exact (Same.modCore s _ _).trans (same_clearErr _ _ _ _)
  | clu a => exact (same_cluWrite s _ _ _ _).trans (same_clearErr _ _ _ _)
  | glob ps => exact same_gwrite s ps v

theorem same_serveAtomic (s : State) (pl : Place) : Same s (s.serveAtomic pl) := by cases pl <;> exact ⟨rfl, rfl, rfl⟩

/-! ### Reads (R99) -/

theorem takeAt_of_noErrs {s : State} (herrs : s.errs = []) (pl : Place) (n : Nat) :
    s.takeAt pl n = .ok (s.readAt pl n, s.serveBanks pl n) := by
  unfold State.takeAt
  rw [placeBad_of_noErrs herrs, placeFix_of_noErrs herrs]
  rfl

theorem load_of_check {s sc : State} {pl : Place} {ea n : Nat} {al : Bool} (hcheck : s.check ea n 0 al 9 true = .ok (pl, sc))
    (herrs : sc.errs = []) : s.load ea n al = .ok (sc.readAt pl n, sc.serveBanks pl n) := by
  unfold State.load
  rw [hcheck]
  exact takeAt_of_noErrs herrs pl n

/-! ### Writes (R99, R365) -/

theorem mergeBad_of_noErrs {s : State} (herrs : s.errs = []) (pl : Place) (n : Nat) : s.mergeBad pl n = false := by
  cases pl <;> simp [State.mergeBad, State.hardErr, herrs]

theorem mergeFix_of_noErrs {s : State} (herrs : s.errs = []) (pl : Place) (n : Nat) : s.mergeFix pl n = s := if_pos (by rw [herrs]; rfl)

theorem clearErr_of_noErrs {s : State} (herrs : s.errs = []) (st : Store) (a n : Nat) : s.clearErr st a n = s := if_pos (by rw [herrs]; rfl)

theorem pairSend_of_noTwin {s : State} {p : Nat} (htwin : (s.core p).twin = none) (kind key len data : Nat) (wait : Bool) (act : PairAct) :
    s.pairSend p kind key len data wait act = .alone := by
  unfold State.pairSend
  dsimp only
  rw [htwin]

theorem put_of_noErrs {s : State} (herrs : s.errs = []) (htwin : s.me.twin = none) (pl : Place) (ea n v : Nat) :
    s.put pl ea n v = (s.writeAt pl n v).serveBanks pl n := by
  unfold State.put
  cases pl with
  | loc a =>
    dsimp only
    rw [mergeFix_of_noErrs herrs]
    rfl
  | clu a =>
    dsimp only
    rw [htwin, Option.isSome_none, if_neg Bool.false_ne_true, mergeFix_of_noErrs herrs]
  | glob ps =>
    unfold State.putGlobal
    dsimp only
    rw [pairSend_of_noTwin (p := s.cur) htwin]
    rfl

theorem store_of_check {s sc : State} {pl : Place} {ea n : Nat} {al : Bool} (hcheck : s.check ea n 1 al 9 true = .ok (pl, sc))
    (herrs : sc.errs = []) (htwin : sc.me.twin = none) (v : Nat) :
    s.store ea n al v = .ok ((sc.writeAt pl n v).serveBanks pl n) := by
  unfold State.store
  rw [hcheck]
  dsimp only
  rw [mergeBad_of_noErrs herrs, if_neg Bool.false_ne_true, put_of_noErrs herrs htwin]

end Sys2Proof.Machine
end

section
/-! PROOF. Loads (O21): every load by what it makes of the bytes that it reads. -/

namespace Sys2Proof.Machine

/-! ### Values of loads (R102, R107, R108) -/

/-- Sign extension of the low `w` bits. -/
theorem sextWord_ofNat {k : Nat} (hk : k < 64) (x : Nat) :
    sextWord (k + 1) (BitVec.ofNat 64 x) = (BitVec.ofNat (k + 1) x).signExtend 64 := by
  have hmod : (BitVec.ofNat 64 x).toNat % 2 ^ (k + 1) = (BitVec.ofNat (k + 1) x).toNat := by
    rw [BitVec.toNat_ofNat, BitVec.toNat_ofNat, Nat.mod_mod_of_dvd x (Nat.pow_dvd_pow 2 hk)]
  have hsigned : toSigned (k + 1) (BitVec.ofNat 64 x).toNat = (BitVec.ofNat (k + 1) x).toInt := by
    unfold toSigned
    rw [BitVec.toInt_eq_toNat_cond, hmod]
    push_cast
    have hhalf : (BitVec.ofNat (k + 1) x).toNat < 2 ^ k ↔ 2 * (BitVec.ofNat (k + 1) x).toNat < 2 ^ (k + 1) := by omega
    exact if_congr hhalf rfl rfl
  exact congrArg (BitVec.ofInt 64) hsigned

theorem laneBytes_le (t : Nat) : laneBytes t ≤ 8 := by
  unfold laneBytes
  split <;> decide

/-- A lane keeps the low bytes of its element. -/
theorem ofLanes_replicate_congr {w a b : Nat} (h : a % 2 ^ (8 * w) = b % 2 ^ (8 * w)) (k : Nat) :
    ofLanes w (List.replicate k a) = ofLanes w (List.replicate k b) := by
  refine congrArg (BitVec.ofNat 512) ?_
  induction k with
  | zero => rfl
  | succ k ih => rw [List.replicate_succ, List.replicate_succ, List.foldr_cons, List.foldr_cons, ih, h]

theorem broadcast_ofNat {w : Nat} (hw : w ≤ 8) (x : Nat) : broadcast w (BitVec.ofNat 64 x) = ofLanes w (List.replicate (64 / w) x) := by
  refine ofLanes_replicate_congr ?_ _
  rw [BitVec.toNat_ofNat, Nat.mod_mod_of_dvd x (Nat.pow_dvd_pow 2 (by omega))]

/-! ### How a load completes (R99, R102) -/

/-- A load of `n` bytes that passes its checks, where no error mark stands and no access of the core is in flight, gives what `f` makes of
the bytes. -/
def loadRule (n : Opnds → Nat) (al : Bool) (f : Opnds → Nat → Res) (o : Opnds) (v : Vals) (s1 s' : State) (r : Option Res)
    (jump : Option Word) : Prop :=
  jump = none ∧ s1.me.flight = none ∧ ∃ pl sc, s1.check (v.y.s + o.imm).toNat (n o) 0 al 9 true = .ok (pl, sc) ∧ sc.errs = []
    ∧ Same s1 sc ∧ s' = sc.serveBanks pl (n o) ∧ r = some (f o (sc.readAt pl (n o)))

/-- A load completes by its rule if its effect is a load at once, while no access is in flight and results arrive at once. -/
theorem completes_load {s : State} {i : Instr} {eff : Eff} {n : Opnds → Nat} {al : Bool} {f : Opnds → Nat → Res}
    (hexec : Sys2Proof.Machine.exec i s = .next (s.issue i eff))
    (heff : ∀ {o v s1 x t}, s1.late = false → s1.me.flight = none → s1.load (effAddr o v) (n o) al = .ok (x, t) →
      eff o v s1 = Done.result t (f o x)) : s.completes i (loadRule n al f) := by
  refine completes_intro hexec ?_
  rintro v s1 s' r jump hstarts ⟨rfl, hflight, pl, sc, hcheck, herrs, hsame, rfl, rfl⟩
  exact ⟨heff (starts_same hstarts).2 hflight (load_of_check hcheck herrs), hsame.trans (same_serveBanks _ _ _)⟩

/-- A scalar load whose result comes at once. -/
theorem loadEff_of_load {n : Nat} {al : Bool} {ext : Nat → Word} {o : Opnds} {v : Vals} {s t : State} {x : Nat} (hlate : s.late = false)
    (hflight : s.me.flight = none) (hload : s.load (effAddr o v) n al = .ok (x, t)) :
    loadEff n al ext o v s = Done.result t (.s (ext x)) := by
  unfold loadEff State.loadScalar
  rw [hlate, hflight]
  simp only [Option.isSome_none, Bool.or_self, Bool.and_false, Bool.false_and, Bool.false_eq_true, if_false, hload]

theorem completes_loadEff {s : State} {i : Instr} {n : Nat} {al : Bool} {ext : Nat → Word}
    (hexec : Sys2Proof.Machine.exec i s = .next (s.issue i (loadEff n al ext))) :
    s.completes i (loadRule (fun _ => n) al (fun _ x => .s (ext x))) :=
  completes_load hexec loadEff_of_load

theorem completes_signedLoad {s : State} {i : Instr} {k n : Nat} (hk : k < 64)
    (hexec : Sys2Proof.Machine.exec i s = .next (s.issue i (loadEff n false (fun x => sextWord (k + 1) (BitVec.ofNat 64 x))))) :
    s.completes i (loadRule (fun _ => n) false (fun _ x => .s ((BitVec.ofNat (k + 1) x).signExtend 64))) := by
  simp only [sextWord_ofNat hk] at hexec
  exact completes_loadEff hexec

theorem effVld_of_load {o : Opnds} {v : Vals} {s t : State} {x : Nat} (hload : s.load (effAddr o v) 64 false = .ok (x, t)) :
    effVld o v s = Done.result t (.v (BitVec.ofNat 512 x)) := by
  unfold effVld
  rw [hload]

theorem effVlds_of_load {o : Opnds} {v : Vals} {s t : State} {x : Nat} (hload : s.load (effAddr o v) (laneBytes o.t) false = .ok (x, t)) :
    effVlds o v s = Done.result t (.v (ofLanes (laneBytes o.t) (List.replicate (64 / laneBytes o.t) x))) := by
  unfold effVlds
  dsimp only
  rw [hload, ← broadcast_ofNat (laneBytes_le _)]

/-- Settles O21: the scalar loads by their common effect, VLD and VLDS by their own. -/
theorem loadResults : Obligations.LoadResults := by
  unfold Obligations.LoadResults
  intro e s load
  refine ⟨?ldB, ?ldBu, ?ldH, ?ldHu, ?ldW, ?ldWu, ?ldD, ?lda, ?vld, ?vlds⟩
  case ldB => exact completes_signedLoad (k := 7) (by decide) rfl
  case ldBu => exact completes_loadEff rfl
  case ldH => exact completes_signedLoad (k := 15) (by decide) rfl
  case ldHu => exact completes_loadEff rfl
  case ldW => exact completes_signedLoad (k := 31) (by decide) rfl
  case ldWu => exact completes_loadEff rfl
  case ldD => exact completes_loadEff rfl
  case lda => exact completes_loadEff rfl
  case vld => exact completes_load (n := fun _ => 64) (f := fun _ x => .v (BitVec.ofNat 512 x)) rfl (fun _ _ => effVld_of_load)
  case vlds => exact completes_load (n := fun o => laneBytes o.t) rfl (fun _ _ => effVlds_of_load)

end Sys2Proof.Machine
end

section
/-! PROOF. Stores (O22, O23): every store by what it writes, and a scalar store in local or cluster memory by every byte and register that it
leaves as it was. -/

namespace Sys2Proof.Machine

/-! ### How a store completes (R99, R105) -/

/-- A store of the low `n` bytes of `f` that passes its checks, where no error mark stands and the core has no twin. -/
def storeRule (n : Nat) (al : Bool) (f : Vals → Nat) (o : Opnds) (v : Vals) (s1 s' : State) (r : Option Res) (jump : Option Word) : Prop :=
  r = none ∧ jump = none ∧ ∃ pl sc, s1.check (v.y.s + o.imm).toNat n 1 al 9 true = .ok (pl, sc) ∧ sc.errs = []
    ∧ Same s1 sc ∧ sc.me.twin = none ∧ s' = (sc.writeAt pl n (f v)).serveBanks pl n

theorem completes_store {s : State} {i : Instr} {eff : Eff} {n : Nat} {al : Bool} {f : Vals → Nat}
    (hexec : Sys2Proof.Machine.exec i s = .next (s.issue i eff))
    (heff : ∀ {o v s1 t}, s1.store (effAddr o v) n al (f v) = .ok t → eff o v s1 = Done.plain t) : s.completes i (storeRule n al f) := by
  refine completes_intro hexec ?_
  rintro v s1 s' r jump - ⟨rfl, rfl, pl, sc, hcheck, herrs, hsame, htwin, rfl⟩
  exact ⟨heff (store_of_check hcheck herrs htwin _), hsame.trans ((same_writeAt _ _ _ _).trans (same_serveBanks _ _ _))⟩

theorem storeEff_of_store {o : Opnds} {v : Vals} {s t : State} {n : Nat} {al : Bool}
    (hstore : s.store (effAddr o v) n al v.x.s.toNat = .ok t) : storeEff n al o v s = Done.plain t := by
  unfold storeEff
  rw [hstore]

theorem completes_storeEff {s : State} {i : Instr} {n : Nat} {al : Bool}
    (hexec : Sys2Proof.Machine.exec i s = .next (s.issue i (storeEff n al))) : s.completes i (storeRule n al (fun v => v.x.s.toNat)) :=
  completes_store hexec storeEff_of_store

/-- What VST stores: a vector, or eight copies of a scalar (R107). -/
def wholeValue (v : Vals) : Nat := if v.x.vec then v.x.bits.toNat else (ofLanes 8 (List.replicate 8 v.x.s.toNat)).toNat

theorem wholeValue_eq (v : Vals) : wholeValue v = (v.x.v 8).toNat := by
  unfold wholeValue Val.v
  split <;> rfl

theorem effVst_of_store {o : Opnds} {v : Vals} {s t : State} (hstore : s.store (effAddr o v) 64 false (wholeValue v) = .ok t) :
    effVst o v s = Done.plain t := by
  unfold effVst
  rw [← wholeValue_eq, hstore]

/-- Settles O22: the scalar stores by their common effect, VST by its own. -/
theorem storeResults : Obligations.StoreResults := by
  unfold Obligations.StoreResults
  intro e s store
  refine ⟨?stB, ?stH, ?stW, ?stD, ?stl, ?vst⟩
  case stB => exact completes_storeEff rfl
  case stH => exact completes_storeEff rfl
  case stW => exact completes_storeEff rfl
  case stD => exact completes_storeEff rfl
  case stl => exact completes_storeEff rfl
  case vst => exact completes_store (f := wholeValue) rfl effVst_of_store

/-! ### Scalar stores in local and cluster memory (R86, R87, R90) -/

/-- The scalar stores and their lengths. -/
def ScalarStore (e : Fields) (i : Instr) (n : Nat) : Prop :=
  (i, n) = (.stB e, 1) ∨ (i, n) = (.stH e, 2) ∨ (i, n) = (.stW e, 4) ∨ (i, n) = (.stD e, 8)

theorem scalarStore_exec {e : Fields} {i : Instr} {n : Nat} (h : ScalarStore e i n) (s : State) :
    Sys2Proof.Machine.exec i s = .next (s.issue i (storeEff n false)) := by
  rcases h with h | h | h | h <;> cases h <;> rfl

/-- A scalar store takes no ring entry and discards no record: only its operands are read before its effect. -/
theorem scalarStore_readAll {e : Fields} {i : Instr} {n : Nat} {s s1 : State} {v : Vals} (h : ScalarStore e i n)
    (hstarts : s.starts i = some (v, s1)) : ∃ sh e' o w, s.readAll sh e' o w = .ok (v, s1) := by
  rcases h with h | h | h | h <;> cases h <;> exact ⟨_, _, _, _, (issue_of_starts hstarts rfl rfl rfl rfl (storeEff 0 false)).1⟩

theorem check_local {s : State} {ea n acc : Nat} (hspace : spaceOf ea n = some .loc) : s.check ea n acc false 9 true = .ok (.loc ea, s) := by
  unfold State.check
  rw [hspace]
  rfl

/-- Below the undo-log region every level may reach cluster memory (R91). -/
theorem check_cluster {s : State} {ea n acc : Nat} (hspace : spaceOf ea n = some .clu) (hlog : ea + n ≤ logBase) :
    s.check ea n acc false 9 true = .ok (.clu ea, s) := by
  unfold State.check
  rw [hspace]
  simp [spaceTakes, Nat.not_lt.2 hlog]

theorem writeLocal_context (c : Core) (a n v k : Nat) : (c.writeLocal a n v).context k = c.context k := by
  refine foldl_keeps (fun c : Core => c.context k) (fun c _ => ?_) _ c
  unfold Core.logLine
  repeat' split
  all_goals rfl

theorem writeAt_local {s : State} (herrs : s.errs = []) (a n v : Nat) : s.writeAt (.loc a) n v = s.modMe (fun c => c.writeLocal a n v) :=
  clearErr_of_noErrs (s := s.modMe _) herrs _ _ _

theorem writeAt_cluster {s : State} (herrs : s.errs = []) {a n : Nat} (hlog : a + n ≤ logBase) (v : Nat) :
    s.writeAt (.clu a) n v = s.modCluster s.myCl (fun c => { c with mem := bwrite c.mem a n v }) := by
  unfold State.writeAt State.cluWrite
  dsimp only
  rw [if_pos hlog]
  exact clearErr_of_noErrs (s := s.modCluster _ _) herrs _ _ _

theorem account_serveBanks (s : State) (pl : Place) (n : Nat) : Account s (s.serveBanks pl n) := by
  unfold State.serveBanks
  split
  · refine account_modCluster s _ ?_
    exact fun _ => rfl
  · exact Account.refl s

/-- The bytes of every core's local memory after a local store. -/
theorem bget_storeLocal {s : State} (hwf : memWf s.me.mem = true) (ea n x p a : Nat) :
    bget ((s.modMe (fun c => c.writeLocal ea n x)).core p).mem a
      = if p = s.cur ∧ ea ≤ a ∧ a < ea + n then BitVec.ofNat 8 (x / 256 ^ (a - ea)) else bget (s.core p).mem a := by
  rw [State.core_modMe]
  by_cases hp : p = s.cur
  · subst hp
    rw [if_pos rfl, writeLocal_mem, bget_bwrite _ _ _ _ hwf]
    simp [State.me]
  · simp [hp]

/-- The bytes of every cluster's memory after a store below the undo-log region. -/
theorem bget_storeCluster {s : State} (hwf : memWf (s.cluster s.myCl).mem = true) (ea n x cl a : Nat) :
    bget ((s.modCluster s.myCl (fun c => { c with mem := bwrite c.mem ea n x })).cluster cl).mem a
      = if cl = clusterOf s.cur ∧ ea ≤ a ∧ a < ea + n then BitVec.ofNat 8 (x / 256 ^ (a - ea)) else bget (s.cluster cl).mem a := by
  have hmine : s.myCl = clusterOf s.cur := rfl
  rw [State.cluster_modCluster]
  by_cases hcl : cl = s.myCl
  · subst hcl
    rw [if_pos rfl, bget_bwrite _ _ _ _ hwf]
    simp [hmine]
  · rw [if_neg hcl, if_neg (fun h => hcl h.1)]

/-! ### What a completed instruction without a result leaves -/

theorem Ran.sameMemory {i : Instr} {s s2 t : State} {r : Option Res} {jump : Option Word} (h : Ran i s s2 t r jump) : SameMemory s2 t := by
  have halike : Alike s2 t := ⟨h.cores, h.device⟩
  exact ⟨halike.core Core.mem (fun _ => rfl), fun cl => halike.device (fun u => (u.cluster cl).mem) (fun _ => rfl),
    halike.device State.phys (fun _ => rfl)⟩

theorem Kept.sameMemory {s t : State} (h : Kept s t) : SameMemory s t := by
  obtain ⟨-, hmem, hdevice⟩ := h
  have hclusters := congrArg State.clusters hdevice
  have hphys := congrArg State.phys hdevice
  exact ⟨hmem, fun cl => congrArg (fun m => (mget Cluster.fresh m cl).mem) hclusters, hphys⟩

/-- Without a result the window, every register and CTX.TSW are what the effect has left. -/
theorem Ran.registers {i : Instr} {s s2 t : State} {jump : Option Word} (h : Ran i s s2 t none jump) :
    t.cx.win = s2.cx.win ∧ (∀ m, t.cx.sreg m = s2.cx.sreg m ∧ t.cx.vreg m = s2.cx.vreg m ∧ t.cx.kreg m = s2.cx.kreg m)
      ∧ t.cx.tsw = s2.cx.tsw := by
  have hk : t.cx.k = s2.cx.k := congrArg (·.1) h.other
  refine ⟨h.win, fun m => ⟨h.sreg m, h.vreg m, ?_⟩, h.tsw⟩
  unfold Context.kreg
  rw [hk]

theorem cx_of_sameContexts {s t : State} (hsame : Same s t) (hcontexts : SameContexts s t) : t.cx = s.cx := by
  obtain ⟨hcur, hctx, -⟩ := hsame
  unfold State.cx State.me
  rw [hcur, hctx]
  exact hcontexts _ _

theorem scalarStore_ran {e : Fields} {i : Instr} {n : Nat} {s s1 t : State} {v : Vals} {pl : Place} (h : ScalarStore e i n)
    (hstarts : s.starts i = some (v, s1)) (hexec : Sys2Proof.Machine.exec i s = .next t)
    (hcheck : s1.check (effAddr i.opnds v) n 1 false 9 true = .ok (pl, s1)) (herrs : s1.errs = []) (htwin : s1.me.twin = none) :
    Ran i s ((s1.writeAt pl n v.x.s.toNat).serveBanks pl n) t none none := by
  rw [scalarStore_exec h] at hexec
  cases hexec
  exact issue_ran hstarts (storeEff_of_store (store_of_check hcheck herrs htwin _)) rfl
    ((same_writeAt _ _ _ _).trans (same_serveBanks _ _ _)) rfl

/-- What has been read of the effect's state is read of the completed one, beside registers that the effect has left. -/
theorem Ran.frame {i : Instr} {s s2 t : State} {jump : Option Word} {coreByte clusterByte : Nat → Nat → Byte} (h : Ran i s s2 t none jump)
    (hlocal : ∀ p a, bget (s2.core p).mem a = coreByte p a) (hcluster : ∀ cl a, bget (s2.cluster cl).mem a = clusterByte cl a)
    (hphys : s2.phys = s.phys) (hcx : s2.cx = s.cx) :
    (∀ p a, bget (t.core p).mem a = coreByte p a) ∧ (∀ cl a, bget (t.cluster cl).mem a = clusterByte cl a) ∧ t.phys = s.phys
      ∧ t.cx.win = s.cx.win ∧ (∀ m, t.cx.sreg m = s.cx.sreg m ∧ t.cx.vreg m = s.cx.vreg m ∧ t.cx.kreg m = s.cx.kreg m)
      ∧ t.cx.tsw = s.cx.tsw := by
  obtain ⟨hmem, hcl, hp⟩ := h.sameMemory
  have hregisters := h.registers
  rw [hcx] at hregisters
  exact ⟨fun p a => by rw [hmem, hlocal], fun cl a => by rw [hcl, hcluster], hp.trans hphys, hregisters⟩

/-- Settles O23: reading operands keeps memories and contexts, the write changes its own bytes, and completing without a result keeps the rest. -/
theorem storeFrame : Obligations.StoreFrame := by
  unfold Obligations.StoreFrame
  intro e s s1 t v i n ea hstore hstarts hea herrs htwin hwfLocal hwfCluster hspace hexec
  obtain ⟨_, _, _, _, hread⟩ := scalarStore_readAll hstore hstarts
  obtain ⟨hmem1, hcluster1, hphys1⟩ := (kept_readAll hread).sameMemory
  have hsame : Same s s1 := same_readAll hread
  have hcur : s1.cur = s.cur := hsame.1
  have hcx : s1.cx = s.cx := cx_of_sameContexts hsame (kept_readAll hread).1
  rcases hspace with hlocal | ⟨hclu, hlog⟩
  · have hran := scalarStore_ran hstore hstarts hexec (hea ▸ check_local hlocal) herrs htwin
    rw [← hea, writeAt_local herrs] at hran
    refine hran.frame (fun p a => ?_) (fun cl a => ?_) hphys1 ?_
    · refine (bget_storeLocal hwfLocal ea n _ p a).trans ?_
      rw [hmem1, hcur]
      simp [hlocal]
    · refine (congrArg (bget · a) (hcluster1 cl)).trans ?_
      simp [hlocal]
    · refine (State.cx_modMe s1 _).trans ?_
      rw [writeLocal_context]
      exact hcx
  · have hran := scalarStore_ran hstore hstarts hexec (hea ▸ check_cluster hclu hlog) herrs htwin
    rw [← hea, writeAt_cluster herrs hlog] at hran
    refine hran.frame (fun p a => ?_) (fun cl a => ?_) hphys1 hcx
    · refine (congrArg (bget · a) (hmem1 p)).trans ?_
      simp [hclu]
    · rw [(account_serveBanks _ _ _).clusterMem]
      refine (bget_storeCluster hwfCluster ea n _ cl a).trans ?_
      rw [hcluster1, hcur]
      simp [hclu]

end Sys2Proof.Machine
end

section
/-! PROOF. Atomics (O24): one lemma for every operation, with what it writes for a given old value. -/

namespace Sys2Proof.Machine

/-- An atomic that passes its checks, where no error mark stands and the core has no twin: `f` is what it writes for an old value. -/
def atomicRule (n : Nat) (red sysOk : Bool) (f : Opnds → Vals → Word → Nat) (o : Opnds) (v : Vals) (s1 s' : State) (r : Option Res)
    (jump : Option Word) : Prop :=
  jump = none ∧ ∃ pl sc, s1.check (v.y.s + o.imm).toNat n 2 true o.t sysOk = .ok (pl, sc) ∧ sc.errs = [] ∧ Same s1 sc
    ∧ sc.me.twin = none
    ∧ s' = (sc.writeAt pl n (f o v (BitVec.ofNat 64 (sc.readAt pl n)))).serveAtomic pl
    ∧ r = if red then none else some (.s (BitVec.ofNat 64 (sc.readAt pl n)))

/-- Without an error mark and without a twin an atomic is performed at once, wherever its operand lies (R114). -/
theorem atomicAt_of_noErrs {s : State} (herrs : s.errs = []) (htwin : s.me.twin = none) (hlate : s.late = false) (pl : Place)
    (ea op rm : Nat) (red : Bool) (x e : Word) : s.atomicAt pl ea op rm red x e = .ok (s.readAt pl (amoBytes op),
      (s.writeAt pl (amoBytes op) (amoNew op rm (BitVec.ofNat 64 (s.readAt pl (amoBytes op))) x e).toNat).serveAtomic pl) := by
  unfold State.atomicAt
  dsimp only
  simp only [placeBad_of_noErrs herrs, mergeBad_of_noErrs herrs, placeFix_of_noErrs herrs, mergeFix_of_noErrs herrs, htwin, hlate,
    Bool.or_self, Option.isSome_none, Bool.and_false, Bool.false_eq_true, if_false]
  cases pl <;> rfl

theorem amoEff_of_check {op : Nat} {red : Bool} {o : Opnds} {v : Vals} {s sc : State} {pl : Place}
    (hcheck : s.check (effAddr o v) (amoBytes op) 2 true o.t (amoSysOk op && !red) = .ok (pl, sc)) (herrs : sc.errs = [])
    (htwin : sc.me.twin = none) (hlate : sc.late = false) :
    amoEff op red o v s = .ok {
      st := (sc.writeAt pl (amoBytes op)
        (amoNew op o.rm (BitVec.ofNat 64 (sc.readAt pl (amoBytes op))) v.x.s v.z.s).toNat).serveAtomic pl
      res := if red then none else some (.s (BitVec.ofNat 64 (sc.readAt pl (amoBytes op))))
      jump := none } := by
  unfold amoEff
  dsimp only
  rw [hcheck]
  dsimp only
  rw [atomicAt_of_noErrs herrs htwin hlate]
  cases red <;> rfl

/-- An atomic completes by its rule: `f` is the new value of its operation. -/
theorem completes_atomic {s : State} {i : Instr} {op n : Nat} {red sysOk : Bool} {f : Opnds → Vals → Word → Nat}
    (hexec : Sys2Proof.Machine.exec i s = .next (s.issue i (amoEff op red))) (hn : amoBytes op = n) (hsys : (amoSysOk op && !red) = sysOk)
    (hnew : ∀ (o : Opnds) (v : Vals) (old : Word), (amoNew op o.rm old v.x.s v.z.s).toNat = f o v old) :
    s.completes i (atomicRule n red sysOk f) := by
  subst hn hsys
  refine completes_intro hexec ?_
  rintro v s1 s' r jump hstarts ⟨rfl, pl, sc, hcheck, herrs, hsame, htwin, rfl, rfl⟩
  have hlate : sc.late = false := hsame.2.2.trans (starts_same hstarts).2
  refine ⟨?_, hsame.trans ((same_writeAt _ _ _ _).trans (same_serveAtomic _ _))⟩
  rw [amoEff_of_check hcheck herrs htwin hlate, hnew]

theorem amoNew_minu {rm : Nat} {e : Word} (old x : Word) : (amoNew 8 rm old x e).toNat = min old.toNat x.toNat :=
  (apply_ite _ _ _ _).trans (by split <;> omega)

theorem amoNew_maxu {rm : Nat} {e : Word} (old x : Word) : (amoNew 9 rm old x e).toNat = max old.toNat x.toNat :=
  (apply_ite _ _ _ _).trans (by split <;> omega)

/-- Settles O24: each operation by its new value (R113). -/
theorem atomicResults : Obligations.AtomicResults := by
  unfold Obligations.AtomicResults
  intro e s amo add mn mx fadd
  rw [show amo = atomicRule from rfl]
  have hmin (o : Opnds) (v : Vals) (old : Word) : (amoNew 4 o.rm old v.x.s v.z.s).toNat = mn o v old := apply_ite _ _ _ _
  have hmax (o : Opnds) (v : Vals) (old : Word) : (amoNew 5 o.rm old v.x.s v.z.s).toNat = mx o v old := apply_ite _ _ _ _
  refine ⟨?add, ?and, ?or, ?xor, ?min, ?max, ?swap, ?cas, ?minu, ?maxu, ?fadd, ?redAdd, ?redMin, ?redMax, ?redFadd⟩
  case add => exact completes_atomic (op := 0) rfl rfl rfl (fun _ _ _ => rfl)
  case and => exact completes_atomic (op := 1) rfl rfl rfl (fun _ _ _ => rfl)
  case or => exact completes_atomic (op := 2) rfl rfl rfl (fun _ _ _ => rfl)
  case xor => exact completes_atomic (op := 3) rfl rfl rfl (fun _ _ _ => rfl)
  case min => exact completes_atomic (op := 4) rfl rfl rfl hmin
  case max => exact completes_atomic (op := 5) rfl rfl rfl hmax
  case swap => exact completes_atomic (op := 6) rfl rfl rfl (fun _ _ _ => rfl)
  case cas => exact completes_atomic (op := 7) rfl rfl rfl (fun _ _ _ => apply_ite _ _ _ _)
  case minu => exact completes_atomic (op := 8) rfl rfl rfl (fun _ v old => amoNew_minu old v.x.s)
  case maxu => exact completes_atomic (op := 9) rfl rfl rfl (fun _ v old => amoNew_maxu old v.x.s)
  case fadd => exact completes_atomic (op := 10) rfl rfl rfl (fun _ _ _ => rfl)
  case redAdd => exact completes_atomic (op := 0) rfl rfl rfl (fun _ _ _ => rfl)
  case redMin => exact completes_atomic (op := 4) rfl rfl rfl hmin
  case redMax => exact completes_atomic (op := 5) rfl rfl rfl hmax
  case redFadd => exact completes_atomic (op := 10) rfl rfl rfl (fun _ _ _ => rfl)

end Sys2Proof.Machine
end

section
/-! PROOF. Messages at the core (O27): MWAIT, MBPEEK and MBSEND by their effects. -/

namespace Sys2Proof.Machine

theorem effMwait_eq {o : Opnds} {v : Vals} {s : State} (h : s.me.mbox ≠ []) :
    effMwait o v s = Done.result s (.s (BitVec.ofNat 64 s.me.mbox.length)) := if_neg (by rwa [List.isEmpty_iff])

/-- A message of a core without a twin has left its core: its room is reserved, and it counts as unsettled (R122, R123). -/
def State.messageSent (s : State) (m : Msg) : State :=
  ({ s with msgs := s.msgs ++ [m] }).modMe (fun c => { c with resv := c.resv ++ [m.len], sent := c.sent + 1, opNo := c.opNo + 1 })

theorem effMbsend_eq {o : Opnds} {v : Vals} {s sp sc : State} {pl : Option Place} {n k p body : Nat}
    (hreserved : v.y.s.toNat / 2 ^ 40 = 0) (hn : v.y.s.toNat / 2 ^ 32 % 2 ^ 8 = n) (hlen : n ≤ 64)
    (hend : s.endpoint s.myPart (v.y.s.toNat % 2 ^ 32) = some (k, p)) (hplace : s.payloadPlace v.x.s.toNat n = .ok (pl, sp))
    (hsent : sp.me.sent < 8) (hroom : sp.me.room n = true) (hpayload : sp.payload pl n = .ok (body, sc)) (htwin : sc.me.twin = none) :
    effMbsend o v s = Done.plain (sc.messageSent
      { src := sc.cur, ctx := sc.ctx, kind := if k = 1 then 1 else 0, dst := p, handle := BitVec.ofNat 32 (v.y.s.toNat % 2 ^ 32),
        fixed := k == 2, len := n, body := BitVec.ofNat 512 body, no := sc.me.opNo, status := 0 }) := by
  have hhandle : wfield v.y.s 0 32 = v.y.s.toNat % 2 ^ 32 := wfield_low _ _
  have hlength : wfield v.y.s 32 8 = n := hn
  have hzero : wfield v.y.s 40 24 = 0 := by unfold wfield bits; rw [hreserved]; rfl
  unfold effMbsend
  dsimp only
  rw [hhandle, hlength, hzero, hend]
  dsimp only
  rw [hplace]
  dsimp only
  rw [hroom, hpayload]
  dsimp only
  rw [pairSend_of_noTwin (p := sc.cur) htwin]
  simp only [bne_self_eq_false, Bool.false_or, decide_eq_true_eq, Nat.not_lt.2 hlen, if_false, Bool.not_true, Bool.or_false,
    Nat.not_le.2 hsent]
  rfl

/-- Settles O27: each instruction by its effect. -/
theorem messageResults : Obligations.MessageResults := by
  unfold Obligations.MessageResults
  intro e s
  refine ⟨?wait, ?peek, ?send⟩
  case wait =>
    refine completes_intro (eff := effMwait) rfl ?_
    rintro v s1 s' r jump - ⟨rfl, rfl, hmail, rfl⟩
    exact ⟨effMwait_eq hmail, Same.refl _⟩
  case peek =>
    refine gives_intro (eff := effMbpeek) rfl (fun v s1 _ => ?_)
    unfold effMbpeek descriptor
    cases s1.me.mbox <;> rfl
  case send =>
    refine completes_intro (eff := effMbsend) rfl ?_
    rintro v s1 s' r jump - ⟨rfl, rfl, -, hreserved, hlen, k, p, pl, sp, body, sc, hend, hplace, hsent, hroom, hpayload, hsame, htwin, rfl⟩
    exact ⟨effMbsend_eq hreserved rfl hlen hend hplace hsent hroom hpayload htwin, hsame.trans ⟨rfl, rfl, rfl⟩⟩

end Sys2Proof.Machine
end

section
/-! PROOF. Messages and link words under way (O46): each step by what it leaves, and that it moves no memory and no context. -/

namespace Sys2Proof.Machine

/-! ### Messages at their destination (R122, R375) -/

/-- The STATUS of a message to the mailbox of a core, 0 where it is accepted (R119, R375). -/
def State.mailStatus (s : State) (m : Msg) : Nat :=
  if (s.core m.dst).dead || s.fusedOff m.dst then 2 else if (s.core m.dst).poisoned then 1
  else if m.fixed && !(s.fixedOk m) then 3 else if (s.core m.dst).room m.len then 0 else 1

theorem refusal_mail {m : Msg} (h : m.kind ≠ 1) (s : State) : s.refusal m = s.mailStatus m := by
  unfold State.refusal State.mailStatus
  dsimp only
  rw [if_neg h]

/-- Message `k` stands in its destination's mailbox. -/
def State.accepted (s : State) (k : Nat) (m : Msg) : State :=
  ({ s with msgs := s.msgs.eraseIdx k, accs := s.accs ++ [m] }).modCore m.dst (fun c => { c with mbox := c.mbox ++ [m.entry] })

/-- Message `k` is on its way back; its target has counted a refusal of the access table. -/
def State.refused (s : State) (k : Nat) (m : Msg) (st : Nat) : State :=
  let t := { s with msgs := s.msgs.eraseIdx k }
  let t := if st = 3 && m.kind != 1 then t.refuseAt (0x1000 + clusterOf m.dst) else t
  { t with backs := t.backs ++ [{ m with status := st }] }

theorem messageArrival_eq {s : State} {k : Nat} {m : Msg} (hm : s.msgs[k]? = some m) (hturn : s.inTurn m k = true) (hkind : m.kind ≠ 1)
    (hheld : s.msgHeld m.src m.dst = false) : Sys2Proof.Machine.exec (.messageArrival k) s =
      .next (if s.mailStatus m = 0 then s.accepted k m else s.refused k m (s.mailStatus m)) := by
  change execMessageArrival k s = _
  unfold execMessageArrival
  rw [hm]
  dsimp only
  rw [refusal_mail hkind, hheld, hturn]
  simp only [hkind, decide_false, Bool.false_and, Bool.not_true, Bool.or_self, Bool.false_eq_true, if_false]
  split <;> rfl

theorem account_accepted (s : State) (k : Nat) (m : Msg) : Account s (s.accepted k m) :=
  Account.trans (t := { s with msgs := s.msgs.eraseIdx k, accs := s.accs ++ [m] }) (Account.of_fields rfl rfl rfl rfl)
    (account_modCore _ _ (fun _ => rfl) (fun _ _ => rfl))

/-- A message that goes back changes the messages and a count of refusals alone. -/
theorem refused_fields (s : State) (k : Nat) (m : Msg) (st : Nat) :
    (s.refused k m st).msgs = s.msgs.eraseIdx k ∧ (s.refused k m st).backs = s.backs ++ [{ m with status := st }]
      ∧ (s.refused k m st).cores = s.cores ∧ Account s (s.refused k m st) := by
  unfold State.refused
  dsimp only
  split <;> exact ⟨rfl, rfl, rfl, Account.of_fields rfl rfl rfl rfl⟩

/-! ### Answers (R122, R123) -/

/-- The mailbox entry of a message that has come back (R120). -/
def Msg.returned (m : Msg) : MailEntry := { status := m.status, cls := 2, src := m.handle, len := m.len, next := 0, body := m.body }

/-- A refused message in the mailbox of its sender, whose room for it is released. -/
def Core.returnMsg (c : Core) (m : Msg) : Core := { c.settleMsg m.len with mbox := c.mbox ++ [m.returned] }

theorem messageReturn_eq {s : State} {k : Nat} {m : Msg} (hm : s.backs[k]? = some m) (hheld : s.msgHeld m.dst m.src = false) :
    Sys2Proof.Machine.exec (.messageReturn k) s =
      .next (({ s with backs := s.backs.eraseIdx k }).modCore m.src (fun c => c.returnMsg m)) := by
  change execMessageReturn k s = _
  unfold execMessageReturn
  rw [hm]
  dsimp only
  rw [hheld]
  rfl

theorem messageAcceptNotice_eq {s : State} {k : Nat} {m : Msg} (hm : s.accs[k]? = some m) (hheld : s.msgHeld m.dst m.src = false) :
    Sys2Proof.Machine.exec (.messageAcceptNotice k) s =
      .next (({ s with accs := s.accs.eraseIdx k }).modCore m.src (fun c => c.settleMsg m.len)) := by
  change execMessageAcceptNotice k s = _
  unfold execMessageAcceptNotice
  rw [hm]
  dsimp only
  rw [hheld]
  rfl

/-! ### Completions that wait (R393) -/

/-- The end of a completion's command or copy keeps every core, the waiting completions and the supervisors' mailboxes. -/
theorem postDone_keeps (s : State) (w : Post) : (s.postDone w).cores = s.cores ∧ (s.postDone w).posts = s.posts ∧ Account s (s.postDone w) := by
  have hdrop : ∀ r : Option Nat, let u := match r with
      | some id => s.dropCmd id
      | none => s
      u.cores = s.cores ∧ u.posts = s.posts ∧ Account s u := by
    intro r
    cases r with
    | some id => exact ⟨rfl, rfl, Account.of_fields rfl rfl rfl rfl⟩
    | none => exact ⟨rfl, rfl, Account.refl s⟩
  obtain ⟨hcores, hposts, haccount⟩ := hdrop w.rule
  unfold State.postDone
  dsimp only
  split
  · exact ⟨hcores, hposts, haccount⟩
  · split
    · exact ⟨hcores, hposts, haccount.trans (account_freeSlot _ _ _)⟩
    · exact ⟨hcores, hposts, haccount⟩

/-- Completion `k` waits no more, and its command or copy is over. -/
def State.postTaken (s : State) (k : Nat) (w : Post) : State := ({ s with posts := s.posts.eraseIdx k }).postDone w

theorem postTaken_keeps (s : State) (k : Nat) (w : Post) :
    (s.postTaken k w).cores = s.cores ∧ (s.postTaken k w).posts = s.posts.eraseIdx k ∧ Account s (s.postTaken k w) := by
  obtain ⟨hcores, hposts, haccount⟩ := postDone_keeps { s with posts := s.posts.eraseIdx k } w
  refine ⟨hcores, hposts, Account.trans ?_ haccount⟩
  exact Account.of_fields rfl rfl rfl rfl

theorem mailboxDeferredPost_eq {s : State} {k : Nat} {w : Post} (hw : s.posts[k]? = some w)
    (hfirst : firstOf s.posts k (fun v => v.sup == w.sup && v.dst == w.dst) = true)
    (hroom : (if w.sup then mailRoom (s.supBox w.dst) [] w.entry.len else (s.core w.dst).room w.entry.len) = true) :
    Sys2Proof.Machine.exec (.mailboxDeferredPost k) s = .next (if w.sup then (s.postTaken k w).supPut w.dst w.entry
      else (s.postTaken k w).modCore w.dst (fun c => { c with mbox := c.mbox ++ [w.entry] })) := by
  change execMailboxDeferredPost k s = _
  unfold execMailboxDeferredPost
  rw [hw]
  dsimp only
  rw [hroom, hfirst]
  rfl

theorem supPut_fields (s : State) (n : Nat) (e : MailEntry) :
    (s.supPut n e).posts = s.posts ∧ (s.supPut n e).cores = s.cores ∧ (s.supPut n e).supBox n = s.supBox n ++ [e]
      ∧ SameMemory s (s.supPut n e) := by
  unfold State.supPut
  refine ⟨State.modDie_posts _ _ _, State.modDie_cores _ _ _, ?_, fun p => ?_, fun cl => ?_, State.modDie_phys _ _ _⟩
  · simp [State.supBox]
  · rw [State.modDie_core_get]
  · rw [State.modDie_cluster_get]

/-- A completion that enters a supervisor's mailbox changes no core and no memory. -/
theorem supervisorPost_fields (s : State) (k : Nat) (w : Post) :
    let t := (s.postTaken k w).supPut w.dst w.entry
    t.posts = s.posts.eraseIdx k ∧ t.supBox w.dst = s.supBox w.dst ++ [w.entry] ∧ t.cores = s.cores ∧ SameMemory s t := by
  obtain ⟨hcores, hposts, haccount⟩ := postTaken_keeps s k w
  obtain ⟨hposts', hcores', hbox, hmemory⟩ := supPut_fields (s.postTaken k w) w.dst w.entry
  rw [supBox_of_desk haccount.desk] at hbox
  exact ⟨hposts'.trans hposts, hbox, hcores'.trans hcores, haccount.sameMemory.trans hmemory⟩

/-- A completion that enters a core's mailbox changes no memory and no context. -/
theorem corePost_fields (s : State) (k : Nat) (w : Post) :
    let t := (s.postTaken k w).modCore w.dst (fun c => { c with mbox := c.mbox ++ [w.entry] })
    t.posts = s.posts.eraseIdx k ∧ (t.core w.dst).mbox = (s.core w.dst).mbox ++ [w.entry] ∧ SameMemory s t ∧ SameContexts s t := by
  obtain ⟨hcores, hposts, haccount⟩ := postTaken_keeps s k w
  have hcore : (s.postTaken k w).core w.dst = s.core w.dst := by unfold State.core; rw [hcores]
  have hall := haccount.trans (account_modCore (s.postTaken k w) w.dst (f := fun c => { c with mbox := c.mbox ++ [w.entry] })
    (fun _ => rfl) (fun _ _ => rfl))
  refine ⟨hposts, ?_, hall.sameMemory, hall.contexts⟩
  rw [State.core_modCore_self, hcore]

/-! ### Link words (R12) -/

/-- Word `l` has entered the receiver's FIFO of its direction. -/
def Core.takeWord (c : Core) (l : LinkWord) : Core :=
  if l.west then { c with west := c.west ++ [l.word] } else { c with east := c.east ++ [l.word] }

theorem takeWord_west {l : LinkWord} (c : Core) (h : l.west = true) :
    (c.takeWord l).west = c.west ++ [l.word] ∧ (c.takeWord l).east = c.east := by
  unfold Core.takeWord
  rw [if_pos h]
  exact ⟨rfl, rfl⟩

theorem takeWord_east {l : LinkWord} (c : Core) (h : l.west = false) :
    (c.takeWord l).east = c.east ++ [l.word] ∧ (c.takeWord l).west = c.west := by
  unfold Core.takeWord
  rw [if_neg (by simp [h])]
  exact ⟨rfl, rfl⟩

theorem takeWord_keeps (c : Core) (l : LinkWord) : (c.takeWord l).stock = c.stock ∧ ∀ k, (c.takeWord l).context k = c.context k := by
  unfold Core.takeWord
  split <;> exact ⟨rfl, fun _ => rfl⟩

theorem linkWordArrival_eq {s : State} {k : Nat} {l : LinkWord} (hl : s.links[k]? = some l)
    (hfirst : ∀ x ∈ s.links.take k, ¬ (x.dst = l.dst ∧ x.west = l.west))
    (hroom : (if l.west then (s.core l.dst).west.length else (s.core l.dst).east.length) < 4) :
    Sys2Proof.Machine.exec (.linkWordArrival k) s =
      .next (({ s with links := s.links.eraseIdx k }).modCore l.dst (fun c => c.takeWord l)) := by
  have hfirst' : firstOf s.links k (fun x => x.dst == l.dst && x.west == l.west) = true := by
    unfold firstOf
    simpa using hfirst
  change execLinkWordArrival k s = _
  unfold execLinkWordArrival
  rw [hl]
  dsimp only
  rw [hfirst', if_neg (by simpa using hroom)]
  rfl

/-- Settles O46: each step is the equation above for its instruction. -/
theorem messageDelivery : Obligations.MessageDelivery := by
  unfold Obligations.MessageDelivery
  refine ⟨⟨?arrival, ?back, ?notice, ?post⟩, ?link⟩
  case arrival =>
    intro s k m hm hturn hkind hheld
    refine ⟨_, messageArrival_eq hm hturn hkind hheld, ?_⟩
    change _ ∧ _ ∧ _ ∧ (s.mailStatus m = 0 → _) ∧ (s.mailStatus m ≠ 0 → _)
    by_cases hstatus : s.mailStatus m = 0
    · have haccount := account_accepted s k m
      rw [if_pos hstatus]
      exact ⟨rfl, haccount.sameMemory, haccount.contexts, fun _ => ⟨rfl, congrArg Core.mbox (State.core_modCore_self _ _ _)⟩,
        fun h => absurd hstatus h⟩
    · obtain ⟨hmsgs, hbacks, hcores, haccount⟩ := refused_fields s k m (s.mailStatus m)
      rw [if_neg hstatus]
      exact ⟨hmsgs, haccount.sameMemory, haccount.contexts, fun h => absurd h hstatus, fun _ => ⟨hbacks, hcores⟩⟩
  case back =>
    intro s k m hm hheld
    have haccount : Account s (({ s with backs := s.backs.eraseIdx k }).modCore m.src (fun c => c.returnMsg m)) :=
      Account.trans (t := { s with backs := s.backs.eraseIdx k }) (Account.of_fields rfl rfl rfl rfl)
        (account_modCore _ _ (fun _ => rfl) (fun _ _ => rfl))
    refine ⟨_, messageReturn_eq hm hheld, rfl, ?_⟩
    rw [State.core_modCore_self]
    exact ⟨rfl, rfl, rfl, haccount.sameMemory, haccount.contexts⟩
  case notice =>
    intro s k m hm hheld
    have haccount : Account s (({ s with accs := s.accs.eraseIdx k }).modCore m.src (fun c => c.settleMsg m.len)) :=
      Account.trans (t := { s with accs := s.accs.eraseIdx k }) (Account.of_fields rfl rfl rfl rfl)
        (account_modCore _ _ (fun _ => rfl) (fun _ _ => rfl))
    refine ⟨_, messageAcceptNotice_eq hm hheld, rfl, ?_⟩
    rw [State.core_modCore_self]
    exact ⟨rfl, rfl, rfl, haccount.sameMemory, haccount.contexts⟩
  case post =>
    intro s k w hw hfirst
    refine ⟨fun hsup hroom => ?_, fun hsup hroom => ?_⟩
    · have heq := mailboxDeferredPost_eq hw hfirst (by rw [hsup]; exact hroom)
      rw [hsup] at heq
      exact ⟨_, heq, supervisorPost_fields s k w⟩
    · have heq := mailboxDeferredPost_eq hw hfirst (by rw [hsup]; exact hroom)
      rw [hsup] at heq
      exact ⟨_, heq, corePost_fields s k w⟩
  case link =>
    intro s k l hl hfirst hroom
    have haccount : Account s (({ s with links := s.links.eraseIdx k }).modCore l.dst (fun c => c.takeWord l)) :=
      Account.trans (t := { s with links := s.links.eraseIdx k }) (Account.of_fields rfl rfl rfl rfl)
        (account_modCore _ _ (fun c => (takeWord_keeps c l).1) (fun c => (takeWord_keeps c l).2))
    refine ⟨_, linkWordArrival_eq hl hfirst hroom, rfl, ?_, ?_, fun q hq => ?_, haccount.sameMemory, haccount.contexts⟩
    · rw [State.core_modCore_self]
      exact takeWord_west _
    · rw [State.core_modCore_self]
      exact takeWord_east _
    · rw [State.core_modCore, if_neg hq]
      rfl

end Sys2Proof.Machine
end

section
/-! PROOF. The delivery of a pending result (O47): what it leaves of the core, context by context. -/

namespace Sys2Proof.Machine

/-! ### A context after a delivery (R146) -/

/-- The context that a pending result was issued from, after the result has come: the window position and the register hold it. -/
def Context.delivered (x : Context) (d : Delivery) (v : VWord) : Context :=
  let y := { x with win := x.win.fill d.id (entryOf d.ctx (if d.vec then .v v else .s (lane0 v))) }
  match d.dest with
  | some n => y.setName n v
  | none => y

theorem delivered_sreg (x : Context) (d : Delivery) (v : VWord) (n : Nat) :
    (x.delivered d v).sreg n = if d.dest = some n ∧ 1 ≤ n ∧ n ≤ 31 then lane0 v else x.sreg n := by
  unfold Context.delivered
  cases d.dest with
  | none => simp [Context.sreg]
  | some m =>
    dsimp only
    simp only [Context.setName_sreg, Option.some_inj]
    rfl

theorem delivered_vreg (x : Context) (d : Delivery) (v : VWord) (n : Nat) :
    (x.delivered d v).vreg n = if d.dest = some (n + 32) ∧ n ≤ 15 then v else x.vreg n := by
  unfold Context.delivered
  cases d.dest with
  | none => simp [Context.vreg]
  | some m =>
    dsimp only
    simp only [Context.setName_vreg, Option.some_inj]
    rfl

/-! ### The core after a delivery (R330) -/

theorem fillWin_fields (c : Core) (d : Delivery) (e : WinEntry) : (c.fillWin d e).due = c.due ∧ (c.fillWin d e).mem = c.mem := by
  unfold Core.fillWin
  dsimp only
  split <;> simp

theorem fillWin_context (c : Core) (d : Delivery) (e : WinEntry) (k : Nat) :
    (c.fillWin d e).context k = if k = d.ctx then { c.context k with win := (c.context k).win.fill d.id e } else c.context k := by
  have hfill : (c.fillWin d e).context k = (c.modContext d.ctx (fun x => { x with win := x.win.fill d.id e })).context k := by
    unfold Core.fillWin
    dsimp only
    split <;> rfl
  rw [hfill, Core.context_modContext]
  split
  · rename_i hk
    subst hk
    rfl
  · rfl

theorem deliver_context (c : Core) (d : Delivery) (v : VWord) (k : Nat) :
    (c.deliver d v).context k = if k = d.ctx then (c.context k).delivered d v else c.context k := by
  have hfill := fillWin_context { c with due := c.due.filter (fun x => x.id != d.id) } d (entryOf d.ctx (if d.vec then .v v else .s (lane0 v)))
  unfold Core.deliver Context.delivered
  cases d.dest with
  | none => cases d.ring <;> exact hfill k
  | some n =>
    refine Eq.trans (b := (Core.modContext _ d.ctx (fun x => x.setName n v)).context k) (by cases d.ring <;> rfl) ?_
    rw [Core.context_modContext, hfill, hfill]
    by_cases hk : k = d.ctx
    · subst hk
      simp only [if_true]
      rfl
    · simp only [if_neg hk]
      rfl

theorem mfind_merase_self {α : Type} (m : Map α) (i : Nat) : mfind (merase m i) i = none := by
  induction m with
  | nil => rfl
  | cons kv m ih =>
    unfold merase at ih ⊢
    rw [List.filter_cons]
    split
    · rename_i hne
      rw [mfind, if_neg (Ne.symm (bne_iff_ne.1 hne))]
      exact ih
    · exact ih

theorem deliver_ring (c : Core) (d : Delivery) (v : VWord) {k : Nat} (hk : d.ring = some k) : mfind (c.deliver d v).ring k = none := by
  unfold Core.deliver
  rw [hk]
  exact mfind_merase_self _ k

theorem deliver_fields (c : Core) (d : Delivery) (v : VWord) :
    (c.deliver d v).due = c.due.filter (fun x => x.id != d.id) ∧ (c.deliver d v).mem = c.mem := by
  have hfill := fillWin_fields { c with due := c.due.filter (fun x => x.id != d.id) } d (entryOf d.ctx (if d.vec then .v v else .s (lane0 v)))
  unfold Core.deliver
  cases d.dest with
  | none => cases d.ring <;> exact hfill
  | some n => cases d.ring <;> exact ⟨(Core.modContext_due _ _ _).trans hfill.1, (Core.modContext_mem _ _ _).trans hfill.2⟩

/-! ### A result or a fault arrives -/

/-- The dispatch-ring entry of a pending access, once its fault has arrived (R330). -/
def Core.faulted (c : Core) (k : Nat) : Core :=
  { c with ring := match mfind c.ring k with
      | some r => mset c.ring k { r with st := 2 }
      | none => c.ring }

theorem faulted_ring {c : Core} {k : Nat} {r : RingEntry} (hr : mfind c.ring k = some r) :
    mfind (c.faulted k).ring k = some { r with st := 2 } := by
  unfold Core.faulted
  rw [hr]
  exact (mfind_mset _ _ _ _).trans (if_pos rfl)

section

variable {s : State} {p id : Nat} {d : Delivery}

theorem resultDelivery_value (hd : (s.core p).due.find? (fun x => x.id == id) = some d) {v : VWord} (hv : d.value = some v) :
    Sys2Proof.Machine.exec (.resultDelivery p id) s = .next (s.modCore p (fun c => c.deliver d v)) := by
  change execResultDelivery p id s = _
  unfold execResultDelivery
  rw [hd]
  dsimp only
  rw [hv]

theorem resultDelivery_fault (hd : (s.core p).due.find? (fun x => x.id == id) = some d) {k : Nat} (hv : d.value = none)
    (hk : d.ring = some k) : Sys2Proof.Machine.exec (.resultDelivery p id) s = .next (s.modCore p (·.faulted k)) := by
  change execResultDelivery p id s = _
  unfold execResultDelivery
  rw [hd]
  dsimp only
  rw [hv]
  dsimp only
  rw [hk]
  rfl

end

/-- Settles O47: the step is `Core.deliver` on the core, or the mark of the ring entry; each claim is what one of the lemmas above says of it. -/
theorem resultDelivery : Obligations.ResultDelivery := by
  unfold Obligations.ResultDelivery
  refine fun s p id d hd => ⟨fun v hv => ?_, fun k r hv hk hr => ?_⟩
  · refine ⟨_, resultDelivery_value hd hv, ?_⟩
    simp only [State.core_modCore_self, deliver_context, if_true]
    refine ⟨(deliver_fields _ d v).1, fun n hn hlt => ?_, fun n hn => ?_, fun n hn hpos hlt => ?_, fun n hn => ?_, fun k hk => deliver_ring _ d v hk,
      fun k hk => if_neg hk, sameMemory_modCore s p (fun c => (deliver_fields c d v).2)⟩
    · rw [delivered_vreg, if_pos ⟨hn, by omega⟩]
    · rw [delivered_vreg, if_neg (fun h => hn h.1)]
    · rw [delivered_sreg, if_pos ⟨hn, hpos, by omega⟩]
    · rw [delivered_sreg, if_neg (fun h => hn h.1)]
  · have haccount : Account s (s.modCore p (·.faulted k)) := account_modCore s p (fun _ => rfl) (fun _ _ => rfl)
    refine ⟨_, resultDelivery_fault hd hv hk, ?_, haccount.sameMemory, haccount.contexts⟩
    rw [State.core_modCore_self]
    exact faulted_ring hr

end Sys2Proof.Machine
end

section
/-! PROOF. The loop-back at the end of a hardware loop (O19): the first loop whose end the next PC meets. -/

namespace Sys2Proof.Machine

/-! ### The loop at an address (R158) -/

/-- The next PC meets the end of loop `n`, whose count is not used up (R158). -/
def Context.meetsEnd (x : Context) (next : Word) (n : Nat) : Prop := mget 0 x.le n = next ∧ mget 0 x.lc n ≠ 0

theorem loopAt_of_first {x : Context} {next : Word} {n : Nat} (hn : n < 4) (hit : x.meetsEnd next n) (hfirst : ∀ m, m < n → ¬ x.meetsEnd next m) :
    x.loopAt next = some n := by
  unfold Context.loopAt upTo
  rw [List.find?_range_eq_some]
  refine ⟨?_, List.mem_range.2 hn, fun m hm => ?_⟩
  · simpa [Context.meetsEnd] using hit
  · simpa [Context.meetsEnd, imp_iff_not_or] using hfirst m hm

theorem loopAt_of_none {x : Context} {next : Word} (h : ∀ n, n < 4 → ¬ x.meetsEnd next n) : x.loopAt next = none := by
  unfold Context.loopAt upTo
  rw [List.find?_range_eq_none]
  exact fun n hn => by simpa [Context.meetsEnd, imp_iff_not_or] using h n hn

/-! ### The move to the next PC -/

theorem advance_of_none {x : Context} {next : Word} (h : x.loopAt next = none) : x.advance next = { x with pc := next } := by
  unfold Context.advance
  rw [h]

theorem advance_of_last {x : Context} {next : Word} {n : Nat} (h : x.loopAt next = some n) (hone : mget 0 x.lc n = 1) :
    x.advance next = { x with lc := mset x.lc n 0, pc := next } := by
  unfold Context.advance
  rw [h]
  exact if_pos hone

theorem advance_of_more {x : Context} {next : Word} {n : Nat} (h : x.loopAt next = some n) (hmore : mget 0 x.lc n ≠ 1) :
    x.advance next = { x with lc := mset x.lc n (mget 0 x.lc n - 1), pc := mget 0 x.ls n } := by
  unfold Context.advance
  rw [h]
  exact if_neg hmore

/-! ### A NOP that has completed (R288) -/

/-- A NOP moves the context on and changes nothing else of its PC and loop counts. -/
theorem nop_advances {e : Fields} {s t s1 : State} {v : Vals} (hs : s.starts (.nop e) = some (v, s1))
    (ht : Sys2Proof.Machine.exec (.nop e) s = .next t) :
    t.cx.pc = (s.cx.advance (s.cx.pc + BitVec.ofNat 64 (2 * e.parcels))).pc
      ∧ t.cx.lc = (s.cx.advance (s.cx.pc + BitVec.ofNat 64 (2 * e.parcels))).lc := by
  have hran : Ran (.nop e) s s1 (s.issue (.nop e) effNop) none none :=
    issue_ran (d := { st := s1, res := none, jump := none }) hs rfl rfl (Same.refl s1) rfl
  have hstate : s.issue (.nop e) effNop = t := by
    injection ht
  have hnext : s.nextPc (.nop e) = s.cx.pc + BitVec.ofNat 64 (2 * e.parcels) := by
    unfold State.nextPc
    rw [len_opnds rfl]
  obtain ⟨b, hcx⟩ := starts_cx hs
  have hfields := advance_fields s.cx s1.cx (s.nextPc (.nop e)) (by rw [hcx]) (by rw [hcx]) (by rw [hcx])
  obtain ⟨hpc, hlc⟩ := Prod.mk.inj hran.pc
  rw [hnext] at hfields hpc hlc
  rw [← hstate]
  exact ⟨hpc.trans hfields.1, hlc.trans hfields.2⟩

/-- Settles O19: a NOP leaves what `advance` leaves, case by case of the loop that `loopAt` finds. -/
theorem loopBack : Obligations.LoopBack := by
  unfold Obligations.LoopBack
  rintro e s t v s1 next hs rfl ht hit
  obtain ⟨hpc, hlc⟩ := nop_advances hs ht
  refine ⟨fun n hn hhit hfirst => ?_, fun hnone => ?_⟩
  · have hloop := loopAt_of_first hn hhit hfirst
    by_cases hone : mget 0 s.cx.lc n = 1
    · rw [advance_of_last hloop hone] at hpc hlc
      rw [hpc, hlc]
      exact ⟨fun m hm => mget_mset_other _ _ _ _ _ hm, fun _ => ⟨mget_mset_self _ _ _ _, rfl⟩, fun hmore => absurd hone hmore⟩
    · rw [advance_of_more hloop hone] at hpc hlc
      rw [hpc, hlc]
      exact ⟨fun m hm => mget_mset_other _ _ _ _ _ hm, fun h => absurd h hone, fun _ => ⟨mget_mset_self _ _ _ _, rfl⟩⟩
  · rw [advance_of_none (loopAt_of_none hnone)] at hpc hlc
    exact ⟨hpc, hlc⟩

end Sys2Proof.Machine
end

section
/-! SUPPORT. Gangs: the positions of cores, what binding a gang and leaving it do to each core, and what the end of an issue leaves of a member. -/

namespace Sys2Proof.Machine

/-! ### Positions (R154) -/

/-- The cores that are not fused off and their logical numbers are the same in two states. -/
structure SameSeats (s t : State) : Prop where
  /-- Logical numbers. -/
  lpid : ∀ p, (t.core p).lpid = (s.core p).lpid
  /-- Cores fused off. -/
  fusedOff : ∀ p, t.fusedOff p = s.fusedOff p

theorem SameSeats.refl (s : State) : SameSeats s s := ⟨fun _ => rfl, fun _ => rfl⟩

theorem SameSeats.trans {s t u : State} (h : SameSeats s t) (g : SameSeats t u) : SameSeats s u :=
  ⟨fun p => (g.lpid p).trans (h.lpid p), fun p => (g.fusedOff p).trans (h.fusedOff p)⟩

theorem SameSeats.pos {s t : State} (h : SameSeats s t) : t.pos = s.pos := by
  funext p
  unfold State.pos State.assigned State.lp
  simp only [h.lpid, h.fusedOff]

/-- What changing one core keeps of every core. -/
theorem core_modCore_keeps {α : Type} {g : Core → α} {f : Core → Core} (hf : ∀ c, g (f c) = g c) (s : State) (p q : Nat) :
    g ((s.modCore p f).core q) = g (s.core q) := by
  rw [State.core_modCore]
  split
  · rename_i hq
    subst hq
    exact hf _
  · rfl

theorem sameSeats_modCore (s : State) (p : Nat) {f : Core → Core} (hf : ∀ c, (f c).lpid = c.lpid) : SameSeats s (s.modCore p f) :=
  ⟨core_modCore_keeps hf s p, fun _ => rfl⟩

theorem Quiet.sameSeats {s t : State} (h : Quiet s t) : SameSeats s t :=
  ⟨h.alike.core Core.lpid (fun _ => rfl), fun p => h.alike.device (fun u => u.fusedOff p) (fun _ => rfl)⟩

theorem Quiet.same {s t : State} (h : Quiet s t) : Same s t := ⟨h.cur, h.ctx, h.alike.device State.late (fun _ => rfl)⟩

theorem nodup_maskCores (s : State) (cl : Nat) (m : BitVec 8) : (s.maskCores cl m).Nodup := ((nodup_coresOf cl).filter _).filter _

theorem nodup_gang (s : State) (p : Nat) : (s.gang p).Nodup := by
  unfold State.gang
  split
  · exact List.nodup_singleton p
  · exact nodup_maskCores _ _ _

/-! ### The mask of a set of cores -/

/-- The mask over positions that names these cores. -/
def State.maskOf (s : State) (ps : List Nat) : BitVec 8 := ps.foldl (fun a q => a ||| (1#8 <<< s.pos q)) 0#8

theorem SameSeats.maskOf {s t : State} (h : SameSeats s t) (ps : List Nat) : t.maskOf ps = s.maskOf ps := by
  unfold State.maskOf
  rw [h.pos]

theorem getLsbD_oneShift (n : Nat) {i : Nat} (hi : i < 8) : (1#8 <<< n).getLsbD i = decide (n = i) := by
  rw [BitVec.getLsbD_shiftLeft, BitVec.getLsbD_one, Bool.eq_iff_iff]
  simp only [Bool.and_eq_true, Bool.not_eq_true', decide_eq_true_eq, decide_eq_false_iff_not]
  omega

theorem getLsbD_foldl_oneShift (f : Nat → Nat) {i : Nat} (hi : i < 8) (ps : List Nat) (a : BitVec 8) :
    (ps.foldl (fun a q => a ||| (1#8 <<< f q)) a).getLsbD i = (a.getLsbD i || ps.any (fun q => decide (f q = i))) := by
  induction ps generalizing a with
  | nil => simp
  | cons p ps ih => rw [List.foldl_cons, ih, BitVec.getLsbD_or, getLsbD_oneShift _ hi, List.any_cons, Bool.or_assoc]

theorem mem_bitsOf {m : BitVec 8} {i : Nat} : i ∈ bitsOf m ↔ i < 8 ∧ m.getLsbD i = true := by simp [bitsOf, upTo]

section

variable {s : State} {cl : Nat} {m : BitVec 8} (hnamed : ∀ i ∈ bitsOf m, (s.atPos cl i).isSome = true)
include hnamed

/-- Each position that the mask names is that of a core which it names. -/
theorem exists_maskCores_pos {i : Nat} (hi : i ∈ bitsOf m) : ∃ p ∈ s.maskCores cl m, s.pos p = i := by
  obtain ⟨p, hp⟩ := Option.isSome_iff_exists.1 (hnamed i hi)
  have hpos : s.pos p = i := by simpa using List.find?_some hp
  exact ⟨p, List.mem_filter.2 ⟨List.mem_of_find?_eq_some hp, by rw [hpos]; exact (mem_bitsOf.1 hi).2⟩, hpos⟩

/-- A mask whose positions are all held names the cores that have it as their mask (R154). -/
theorem maskOf_maskCores : s.maskOf (s.maskCores cl m) = m := by
  apply BitVec.eq_of_getLsbD_eq
  intro i hi
  unfold State.maskOf
  rw [getLsbD_foldl_oneShift _ hi, BitVec.getLsbD_zero, Bool.false_or, Bool.eq_iff_iff, List.any_eq_true]
  constructor
  · rintro ⟨p, hp, hpos⟩
    rw [← of_decide_eq_true hpos]
    exact (List.mem_filter.1 hp).2
  · intro hbit
    obtain ⟨p, hp, hpos⟩ := exists_maskCores_pos hnamed (mem_bitsOf.2 ⟨hi, hbit⟩)
    exact ⟨p, hp, decide_eq_true hpos⟩

theorem length_bitsOf_le : (bitsOf m).length ≤ (s.maskCores cl m).length := by
  have hsub : bitsOf m ⊆ (s.maskCores cl m).map s.pos := fun i hi => by
    obtain ⟨p, hp, hpos⟩ := exists_maskCores_pos hnamed hi
    exact List.mem_map.2 ⟨p, hp, hpos⟩
  have hnodup : (bitsOf m).Nodup := List.nodup_range.filter _
  exact (List.subperm_of_subset hnodup hsub).length_le.trans_eq (List.length_map _)

end

/-- What FUSE asks of a mask, as far as a gang of its cores needs it (R276). -/
theorem fuseMask_spec {s : State} {m : BitVec 8} (h : s.fuseMask m = true) :
    2 ≤ (bitsOf m).length ∧ ∀ i ∈ bitsOf m, (s.atPos s.myCl i).isSome = true := by
  unfold State.fuseMask at h
  simp only [Bool.and_eq_true, Bool.or_eq_true, beq_iff_eq, List.all_eq_true] at h
  obtain ⟨⟨⟨hlength, -⟩, hnamed⟩, -⟩ := h
  exact ⟨by omega, hnamed⟩

/-! ### Binding cores into a gang (R153, R154) -/

/-- A core that is fused with others under a mask. -/
def Core.bound (c : Core) (m : BitVec 8) : Core :=
  { c with memb := m, hold := false, outcome := none, regang := none, stood := none, gpos := none }

theorem bindGang_core (s : State) {ps : List Nat} (hps : ps.Nodup) (q : Nat) :
    (s.bindGang ps).core q = if q ∈ ps then (s.core q).bound (if ps.length ≤ 1 then 0#8 else s.maskOf ps) else s.core q :=
  core_foldl_modCore (·.bound (if ps.length ≤ 1 then 0#8 else s.maskOf ps)) q hps s

theorem fuseGang_core (s : State) {ps : List Nat} (hps : ps.Nodup) (q : Nat) :
    (s.fuseGang ps).core q
      = if q ∈ ps then { s.core q with queue := [] }.bound (if ps.length ≤ 1 then 0#8 else s.maskOf ps) else s.core q := by
  have hseats : SameSeats s (ps.foldl (fun s q => s.modCore q (fun c => { c with queue := [] })) s) :=
    foldl_rel SameSeats.refl SameSeats.trans ps _ (fun s q => sameSeats_modCore s q (by intros; rfl)) s
  unfold State.fuseGang
  rw [bindGang_core _ hps, hseats.maskOf, core_foldl_modCore _ q hps]
  split <;> rfl

theorem foldl_fuseGang_outside {q : Nat} {gs : List (List Nat)} (hgs : ∀ g ∈ gs, g.Nodup ∧ q ∉ g) (s : State) :
    (gs.foldl (fun s g => s.fuseGang g) s).core q = s.core q := by
  induction gs generalizing s with
  | nil => rfl
  | cons g gs ih =>
    obtain ⟨hnodup, hq⟩ := hgs g List.mem_cons_self
    rw [List.foldl_cons, ih (fun g hg => hgs g (List.mem_cons_of_mem _ hg)), fuseGang_core s hnodup, if_neg hq]

/-- A parting that is resolved changes only members that all wait at it: a core that does not wait stays as it is (R155). -/
theorem resolveGang_core (s : State) (p : Nat) {q : Nat} (hq : (s.core q).hold = false) : (s.resolveGang p).core q = s.core q := by
  unfold State.resolveGang
  dsimp only
  split
  · rfl
  · rename_i hall
    simp only [Bool.or_eq_true, Bool.not_eq_true', not_or, Bool.not_eq_false, List.all_eq_true, Bool.and_eq_true] at hall
    have hout : q ∉ s.gang p := fun hmem => by
      have hhold := (hall.2 q hmem).1
      rw [hq] at hhold
      cases hhold
    refine foldl_fuseGang_outside (fun g hg => ?_) s
    obtain ⟨w, -, rfl⟩ := List.mem_map.1 hg
    exact ⟨(nodup_gang s p).filter _, fun hmem => hout (List.mem_of_mem_filter hmem)⟩

/-- A core that has left its gang is not fused (R155). -/
theorem leaveGang_memb (s : State) (p : Nat) : ((s.leaveGang p).core p).memb = 0 := by
  unfold State.leaveGang
  dsimp only
  split
  · rename_i h
    simp only [Bool.and_eq_true, decide_eq_true_eq] at h
    exact h.1.1
  · split
    · rw [State.core_modCore_self]
    · split
      · rw [State.core_modCore]
        split
        · rfl
        · rw [State.core_modCore_self]
      · have hout : p ∉ (s.gang p).filter (fun q => q != p) := fun hmem => absurd (List.of_mem_filter hmem) (by simp)
        rw [resolveGang_core] <;> rw [core_foldl_modCore _ p ((nodup_gang s p).filter _), if_neg hout, State.core_modCore_self]

/-! ### The end of the issue of an instruction without a result -/

/-- An instruction that takes no ring entry and gives no result is issued as its effect says. -/
theorem issue_of_plain {i : Instr} {c : Code} {sh : Shape} {s s1 w : State} {v : Vals} {eff : Eff} (hform : formOf i = some (c, sh))
    (hvector : isVector c = false) (h : s.starts i = some (v, s1)) (he : eff i.opnds v s1 = Done.plain w) :
    ∃ before queued, s.issue i eff = (closed w before).retire c (s.nextPc i) none queued := by
  obtain ⟨hc, r, hrow, rfl⟩ := row_of_formOf hform
  have hopnds := opnds_of_formOf hform
  have hbegin : s.begin i = some (if isWaitInsn c then s.dropAsm s.cur s.ctx else s) := by
    unfold State.begin
    rw [hform]
    simp [hvector]
  unfold State.starts at h
  rw [hform, hbegin] at h
  split at h
  swap
  · cases h
  rename_i hissues
  unfold State.issues at hissues
  rw [hform] at hissues
  simp only [Bool.and_eq_true, Bool.not_eq_true'] at hissues
  obtain ⟨⟨⟨hwell, hlevel⟩, hbehind⟩, -⟩ := hissues
  have hlegal : s.subsOf i c r.shape = [] := (wellFormedFor_iff hform s).1 hwell
  have hbehind' : (if isWaitInsn c then s.dropAsm s.cur s.ctx else s).behind c r.shape (r.shape.opnds c.min c.e) = false := by
    split
    · rw [behind_dropAsm]; exact hbehind
    · exact hbehind
  unfold State.issue State.nextPc
  rw [hc]; dsimp only; rw [hrow, hopnds]; dsimp only
  rw [show i.subcauses ++ subIf (c.barred r.shape s.who) 7 = [] from hlegal, hlevel]
  unfold State.issueWith
  generalize (if isWaitInsn c then s.dropAsm s.cur s.ctx else s) = u at h hbehind'
  dsimp only at h ⊢
  rw [hbehind', hvector]
  split at h
  · cases h
  · rename_i hread
    cases h
    have hperform : u.perform r.shape c.e (r.shape.opnds c.min c.e) eff none = .ok (w, none) := by
      unfold State.perform
      rw [hread]; dsimp only; rw [← hopnds, he]; rfl
    rw [hperform]
    exact ⟨u.me, u.me.queued, rfl⟩

/-- Ending the issue of an instruction at which gangs do not part leaves the mask of a core that does not wait for its gang. -/
theorem retire_memb {w : State} {c : Code} {p : Nat} (hpart : isParting c = false)
    (h : (w.core p).hold = false ∨ p = w.cur ∧ (w.core p).memb = 0) (before : Core) (next : Word) (jump : Option Word) (queued : Bool) :
    (((closed w before).retire c next jump queued).core p).memb = (w.core p).memb := by
  generalize hu : (closed w before).modCx (fun x => x.moved next jump) = u
  have hcur : u.cur = w.cur := by rw [← hu]; rfl
  have hkeeps : (u.core p).memb = (w.core p).memb ∧ (u.core p).hold = (w.core p).hold := by
    rw [← hu]
    exact ⟨(core_modCore_keeps (fun c => Core.modContext_memb c _ _) _ _ p).trans (core_modCore_keeps (by intros; rfl) w _ p),
      (core_modCore_keeps (fun c => Core.modContext_hold c _ _) _ _ p).trans (core_modCore_keeps (by intros; rfl) w _ p)⟩
  have hretire : (closed w before).retire c next jump queued =
      if queued && u.ctx = 0 && u.me.queued then
        (u.modMe (fun m => { m with
          queue := m.queue.drop 1, hold := m.memb != 0 && (m.hold || isParting c),
          outcome := if isParting c && c.maj != 20 then some jump.isSome else none })).resolveGang u.cur
      else u := by rw [← hu]; rfl
  rw [hretire]
  split
  swap
  · exact hkeeps.1
  rw [resolveGang_core]
  · exact (core_modCore_keeps (by intros; rfl) u u.cur p).trans hkeeps.1
  · rw [State.core_modMe]
    split
    · rename_i hp
      subst hp
      change ((u.core u.cur).memb != 0 && ((u.core u.cur).hold || isParting c)) = false
      rw [hkeeps.1, hkeeps.2, hpart]
      rcases h with hhold | ⟨-, hmemb⟩
      · rw [hhold]; simp
      · rw [hmemb]; simp
    · rename_i hp
      rw [hkeeps.2]
      exact h.resolve_right (fun h => hp (h.1.trans hcur.symm))

end Sys2Proof.Machine
end

section
/-! PROOF. FUSE, SPLIT, REJOIN, JMSK and GSTAT (O32): what the pops of the waiting members keep, what a meeting leaves of each member,
and each instruction by its effect. -/

namespace Sys2Proof.Machine

/-! ### What pops keep of a core (R37) -/

/-- A core without the words that wait in its queue heads and without the number of its next operation. -/
def Core.sansHeads (c : Core) : Core := { c with mbox := [], cq := [], west := [], east := [], opNo := 0 }

theorem sansHeads_pushLink {s t : State} {west : Bool} {v : Word} (h : s.pushLink west v = .ok t) (p : Nat) :
    (t.core p).sansHeads = (s.core p).sansHeads := by
  unfold State.pushLink at h
  split at h
  · cases h
  · rename_i q _
    dsimp only at h
    generalize (if west = true then (s.core q).east.length else (s.core q).west.length) = held at h
    split at h
    · cases h
    · cases h
      exact core_modCore_keeps (s := { s with links := _ }) (by intros; rfl) s.cur p

theorem sansHeads_popLink {s : State} {west fwd : Bool} {r : Val × State} (h : s.popLink west fwd = .ok r) (p : Nat) :
    (r.2.core p).sansHeads = (s.core p).sansHeads := by
  unfold State.popLink at h
  split at h
  · cases h
  · split at h
    · cases h
    · rename_i v rest _
      have hpop : ((s.modMe (fun c => if west then { c with west := rest } else { c with east := rest })).core p).sansHeads
          = (s.core p).sansHeads := core_modCore_keeps (fun c => by cases west <;> rfl) s s.cur p
      dsimp only at h
      split at h
      · split at h
        · cases h
        · rename_i hpush
          cases h
          exact (sansHeads_pushLink hpush p).trans hpop
      · cases h
        exact hpop

theorem sansHeads_popMail {s : State} {pv : Bool} {r : Val × State} (h : s.popMail pv = .ok r) (p : Nat) :
    (r.2.core p).sansHeads = (s.core p).sansHeads := by
  unfold State.popMail at h
  split at h
  · cases h
  · split at h <;> cases h <;> exact core_modCore_keeps (by intros; rfl) s s.cur p

theorem sansHeads_readName {s : State} {win : Window} {fwd pv : Bool} {n : Nat} {r : Val × State} (h : s.readName win fwd pv n = .ok r)
    (p : Nat) : (r.2.core p).sansHeads = (s.core p).sansHeads := by
  unfold State.readName at h
  split at h
  · split at h <;> cases h
    rfl
  split at h
  · split at h <;> cases h
    rfl
  split at h
  · dsimp only at h
    split at h <;> cases h
    rfl
  split at h
  · split at h <;> cases h
    exact core_modCore_keeps (by intros; rfl) s s.cur p
  split at h
  · exact sansHeads_popMail h p
  split at h
  · exact sansHeads_popLink h p
  split at h
  · exact sansHeads_popLink h p
  · cases h

/-- What a pop keeps of every core. -/
theorem readName_keeps {α : Type} {g : Core → α} (hg : ∀ c : Core, g c = g c.sansHeads) {s : State} {win : Window} {fwd pv : Bool} {n : Nat}
    {r : Val × State} (h : s.readName win fwd pv n = .ok r) (p : Nat) : g (r.2.core p) = g (s.core p) := by
  rw [hg, sansHeads_readName h p, ← hg]

theorem sameSeats_readName {s : State} {win : Window} {fwd pv : Bool} {n : Nat} {r : Val × State} (h : s.readName win fwd pv n = .ok r) :
    SameSeats s r.2 := by
  refine ⟨readName_keeps (fun _ => rfl) h, fun p => ?_⟩
  have hdevice := congrArg (fun u : State => u.fusedOff p) (kept_readName h).2.2
  exact hdevice

/-- The pops of the waiting members move no core, and each member still waits. -/
theorem meetPops_keeps {m : BitVec 8} {ps : List Nat} {s t : State} (h : s.meetPops m ps = some t) :
    Same s t ∧ SameSeats s t ∧ ∀ q, (t.core q).meet = (s.core q).meet := by
  induction ps generalizing s with
  | nil =>
    obtain rfl : s = t := Option.some.inj h
    exact ⟨Same.refl s, SameSeats.refl s, fun _ => rfl⟩
  | cons p ps ih =>
    unfold State.meetPops at h
    split at h
    · exact ih h
    · split at h
      · cases h
      · rename_i u hread
        split at h
        · obtain ⟨hsame, hseats, hmeet⟩ := ih h
          have hback : Same s { u with cur := s.cur, ctx := s.ctx } := ⟨rfl, rfl, (same_readName hread).2.2⟩
          have hpop : SameSeats s { u with cur := s.cur, ctx := s.ctx } :=
            ⟨(sameSeats_readName hread).lpid, (sameSeats_readName hread).fusedOff⟩
          exact ⟨hback.trans hsame, hpop.trans hseats, fun q => (hmeet q).trans (readName_keeps (g := Core.meet) (fun _ => rfl) hread q)⟩
        · cases h

/-! ### A meeting (R276, R277) -/

/-- A core whose control context has passed the FUSE or REJOIN at which it waited. -/
def Core.passed (c : Core) : Core :=
  match c.meet with
  | some (_, _, _, next) =>
    { c with ctl := { c.ctl.advance next with run := .ready }, meet := none, meetHead := none, left := 0, counted := false, waited := 0 }
  | none => c

theorem passed_of_meet_none {c : Core} (h : c.meet = none) : c.passed = c := by
  unfold Core.passed
  rw [h]

theorem passed_meet (c : Core) : c.passed.meet = none := by
  cases h : c.meet with
  | none => rw [passed_of_meet_none h, h]
  | some w =>
    unfold Core.passed
    rw [h]

theorem passed_run {c : Core} (h : c.meet ≠ none) : c.passed.ctl.run = .ready := by
  obtain ⟨w, hw⟩ := Option.ne_none_iff_exists'.1 h
  unfold Core.passed
  rw [hw]

theorem passed_lpid (c : Core) : c.passed.lpid = c.lpid := by
  unfold Core.passed
  split <;> rfl

/-- `meetAll` for one member's instruction: one other than the running core passes it. -/
def State.passOne (s : State) (p : Nat) : State :=
  match (s.core p).meet with
  | some (_, _, _, next) => if p = s.cur then s else s.passMeet p next
  | none => s

theorem same_passOne (s : State) (p : Nat) : Same s (s.passOne p) := by
  unfold State.passOne
  split
  · exact same_ite (Same.refl s) (Same.modCore s p _)
  · exact Same.refl s

theorem passOne_core (s : State) (p q : Nat) : (s.passOne p).core q = if q = p ∧ q ≠ s.cur then (s.core q).passed else s.core q := by
  by_cases hq : q = p
  · subst hq
    cases hmeet : (s.core q).meet with
    | none => rw [passed_of_meet_none hmeet, ite_self, State.passOne, hmeet]
    | some w =>
      by_cases hcur : q = s.cur
      · rw [State.passOne, hmeet]
        dsimp only
        rw [if_pos hcur, if_neg (fun h => h.2 hcur)]
      · rw [State.passOne, hmeet, Core.passed, hmeet]
        dsimp only
        rw [if_neg hcur, if_pos ⟨rfl, hcur⟩]
        exact State.core_modCore_self _ _ _
  · rw [if_neg (fun h => hq h.1)]
    unfold State.passOne
    split
    · split
      · rfl
      · exact (State.core_modCore _ _ _ _).trans (if_neg hq)
    · rfl

theorem foldl_passOne_core (ps : List Nat) (s : State) (q : Nat) :
    (ps.foldl State.passOne s).core q = if q ∈ ps ∧ q ≠ s.cur then (s.core q).passed else s.core q := by
  induction ps generalizing s with
  | nil => simp
  | cons p ps ih =>
    rw [List.foldl_cons, ih, (same_passOne s p).1, passOne_core]
    by_cases hcur : q = s.cur
    · simp [hcur]
    · by_cases hq : q = p
      · subst hq
        simp only [hcur, ne_eq, not_false_eq_true, and_true, if_true, List.mem_cons_self, passed_of_meet_none (passed_meet _), ite_self]
      · simp [hq, hcur]

theorem shareDue_keeps {α : Type} {g : Core → α} (hg : ∀ c x, g { c with preempt := x } = g c) (s : State) (ps : List Nat) (q : Nat) :
    g ((s.shareDue ps).core q) = g (s.core q) := by
  unfold State.shareDue
  split
  · rfl
  · exact foldl_keeps (fun u : State => g (u.core q)) (fun u p => core_modCore_keeps (fun c => hg c _) u p q) ps s

theorem same_shareDue (s : State) (ps : List Nat) : Same s (s.shareDue ps) := by
  unfold State.shareDue
  split
  · exact Same.refl s
  · exact same_foldl _ _ (fun u p => Same.modCore u p _) s

/-- The members after they have passed their instruction and left their gangs. -/
def State.passedAlone (s : State) (ps : List Nat) : State := ps.foldl State.leaveGang (ps.foldl State.passOne s)

theorem meetAll_eq (s : State) (ps : List Nat) : s.meetAll ps
    = (((s.passedAlone ps).fuseGang ps).shareDue ps).modMe (fun c => { c with meet := none, meetHead := none, left := 0 }) := rfl

theorem quiet_passedAlone (s : State) (ps : List Nat) : Quiet (ps.foldl State.passOne s) (s.passedAlone ps) := quiet_foldl _ _ quiet_leaveGang _

theorem sameSeats_passedAlone (s : State) (ps : List Nat) : SameSeats s (s.passedAlone ps) := by
  refine SameSeats.trans (foldl_rel SameSeats.refl SameSeats.trans ps _ (fun u p => ⟨fun q => ?_, fun q => ?_⟩) s) (quiet_passedAlone s ps).sameSeats
  · rw [passOne_core]
    split
    · exact passed_lpid _
    · rfl
  · unfold State.passOne
    split
    · split <;> rfl
    · rfl

theorem same_fusedPassedAlone (s : State) (ps : List Nat) : Same s (((s.passedAlone ps).fuseGang ps).shareDue ps) :=
  (same_foldl ps _ same_passOne s).trans
    ((quiet_passedAlone s ps).same.trans ((quiet_fuseGang _ ps).same.trans (same_shareDue _ ps)))

theorem same_meetAll (s : State) (ps : List Nat) : Same s (s.meetAll ps) := (same_fusedPassedAlone s ps).trans (Same.modCore _ _ _)

section

variable (s : State) {ps : List Nat} {q : Nat} (hq : q ∈ ps)
include hq

/-- A member of a meeting is fused with the others (R154). -/
theorem meetAll_memb (hps : ps.Nodup) :
    ((s.meetAll ps).core q).memb = (if ps.length ≤ 1 then 0#8 else s.maskOf ps) ∧ ((s.meetAll ps).core q).hold = false := by
  have hfused := fuseGang_core (s.passedAlone ps) hps q
  rw [if_pos hq, (sameSeats_passedAlone s ps).maskOf] at hfused
  rw [meetAll_eq]
  refine Prod.mk.inj ((core_modCore_keeps (g := fun c => (c.memb, c.hold)) (by intros; rfl) _ _ q).trans
    ((shareDue_keeps (g := fun c => (c.memb, c.hold)) (by intros; rfl) _ ps q).trans ?_))
  rw [hfused]
  rfl

/-- A member of a meeting waits no longer. -/
theorem meetAll_passes : ((s.meetAll ps).core q).meet = none
    ∧ (q ≠ s.cur → (s.core q).meet ≠ none → ((s.meetAll ps).core q).ctl.run = .ready) := by
  have hquiet : Quiet (ps.foldl State.passOne s) ((s.passedAlone ps).fuseGang ps) := (quiet_passedAlone s ps).trans (quiet_fuseGang _ ps)
  have hpassed := foldl_passOne_core ps s q
  rw [meetAll_eq]
  constructor
  · rw [State.core_modMe, (same_fusedPassedAlone s ps).1]
    split
    · rfl
    · rename_i hcur
      refine (shareDue_keeps (by intros; rfl) _ ps q).trans ((hquiet.alike.core Core.meet (fun _ => rfl) q).trans ?_)
      rw [hpassed, if_pos ⟨hq, hcur⟩]
      exact passed_meet _
  · intro hcur hmeet
    refine (core_modCore_keeps (g := fun c => c.ctl.run) (by intros; rfl) _ _ q).trans
      ((shareDue_keeps (g := fun c => c.ctl.run) (by intros; rfl) _ ps q).trans ((congrArg Context.run (hquiet.1 q 0)).trans ?_))
    rw [hpassed, if_pos ⟨hq, hcur⟩]
    exact passed_run hmeet

end

/-! ### FUSE (R276) -/

/-- The running core waits at its FUSE with this mask. -/
def State.atFuse (s : State) (o : Opnds) (m : BitVec 8) : State :=
  s.modMe (fun c => { c with
    meet := some (true, m, s.cx.pc, s.cx.pc + BitVec.ofNat 64 o.len), meetHead := if 52 ≤ o.x then some (o.x, o.f) else none })

theorem sameSeats_atFuse (s : State) (o : Opnds) (m : BitVec 8) : SameSeats s (s.atFuse o m) := by
  unfold State.atFuse
  exact sameSeats_modCore s s.cur (by intros; rfl)

/-- A member that holds a mask as its origin and in j0 (R154). -/
def Core.originates (c : Core) (m : BitVec 8) : Core := { c with orig := m, ctl := { c.ctl with j := mset c.ctl.j 0 m } }

/-- These cores have met at their FUSEs. -/
def State.fused (s : State) (ps : List Nat) (m : BitVec 8) : State := ps.foldl (fun s p => s.modCore p (·.originates m)) (s.meetAll ps)

theorem fused_core (s : State) {ps : List Nat} (hps : ps.Nodup) (m : BitVec 8) {q : Nat} (hq : q ∈ ps) :
    (s.fused ps m).core q = ((s.meetAll ps).core q).originates m := (core_foldl_modCore _ q hps _).trans (if_pos hq)

theorem same_fused (s : State) (ps : List Nat) (m : BitVec 8) : Same s (s.fused ps m) :=
  (same_meetAll s ps).trans (same_foldl _ _ (fun u p => Same.modCore u p _) _)

/-- FUSE, once every member waits at a FUSE with the same mask and the pops have taken place. -/
theorem effFuse_of_pops {o : Opnds} {v : Vals} {s u : State} {m : BitVec 8} (hm : v.x.s.setWidth 8 = m) (hmask : s.fuseMask m = true)
    (halive : ∀ p ∈ s.maskCores s.myCl m, (s.core p).dead = false)
    (hwait : ∀ p ∈ s.maskCores s.myCl m, p ≠ s.cur → (s.core p).entryDue = false ∧ ∃ pc next, (s.core p).meet = some (true, m, pc, next))
    (hpops : (s.atFuse o m).meetPops m (s.maskCores s.myCl m) = some u) :
    effFuse o v s = Done.plain (u.fused (s.maskCores s.myCl m) m) := by
  subst hm
  have hdead : ((s.maskCores s.myCl (v.x.s.setWidth 8)).any (fun p => (s.core p).dead)) = false :=
    List.any_eq_false.2 (fun p hp => by rw [halive p hp]; decide)
  unfold effFuse
  dsimp only
  rw [hmask, if_neg (by decide), hdead, if_neg (by decide), if_pos]
  · unfold State.atFuse at hpops
    rw [hpops]
    rfl
  · refine List.all_eq_true.2 (fun p hp => ?_)
    by_cases hcur : p = s.cur
    · simp [hcur]
    · obtain ⟨hdue, pc, next, hmeet⟩ := hwait p hp hcur
      rw [State.core_modMe, if_neg hcur, hdue, hmeet]
      simp

theorem Ran.alike {i : Instr} {s s2 t : State} {r : Option Res} {jump : Option Word} (h : Ran i s s2 t r jump) : Alike s2 t := ⟨h.cores, h.device⟩

/-- The end of an instruction's issue leaves every context's masks. -/
theorem Ran.context_j {i : Instr} {s s2 t : State} {r : Option Res} {jump : Option Word} (h : Ran i s s2 t r jump) (p k : Nat) :
    ((t.core p).context k).j = ((s2.core p).context k).j := by
  by_cases hrun : p = s2.cur ∧ k = s2.ctx
  · obtain ⟨rfl, rfl⟩ := hrun
    have hj : t.cx.j = s2.cx.j := congrArg (·.2.1) h.other
    unfold State.cx State.me at hj
    rwa [h.alike.device State.cur (fun _ => rfl), h.alike.device State.ctx (fun _ => rfl)] at hj
  · rw [h.contexts p k hrun]

/-- What FUSE leaves of each member (R154, R276). -/
theorem fuse_members {e : Fields} {s s1 u : State} {v : Vals} {m : BitVec 8} (hs : s.starts (.fuse e) = some (v, s1))
    (hmask : s1.fuseMask m = true)
    (hwait : ∀ p ∈ s1.maskCores s1.myCl m, p ≠ s1.cur → (s1.core p).meet ≠ none)
    (hpops : (s1.atFuse (Instr.fuse e).opnds m).meetPops m (s1.maskCores s1.myCl m) = some u)
    (heff : effFuse (Instr.fuse e).opnds v s1 = Done.plain (u.fused (s1.maskCores s1.myCl m) m)) :
    ∀ p ∈ s1.maskCores s1.myCl m,
      let c := (s.issue (.fuse e) effFuse).core p
      c.memb = m ∧ c.orig = m ∧ mget 0 c.ctl.j 0 = m ∧ c.meet = none ∧ (c.ctl.run = .ready ∨ p = s1.cur) := by
  intro p hp
  obtain ⟨hlength, hnamed⟩ := fuseMask_spec hmask
  obtain ⟨hsame, hseats, hmeets⟩ := meetPops_keeps hpops
  have hnodup : (s1.maskCores s1.myCl m).Nodup := nodup_maskCores _ _ _
  have hmaskOf : u.maskOf (s1.maskCores s1.myCl m) = m := by
    rw [((sameSeats_atFuse s1 _ m).trans hseats).maskOf]
    exact maskOf_maskCores hnamed
  have hmany : ¬ (s1.maskCores s1.myCl m).length ≤ 1 := by
    have := length_bitsOf_le hnamed
    omega
  have hcore := fused_core u hnodup m hp
  obtain ⟨hmemb, hhold⟩ := meetAll_memb u hp hnodup
  obtain ⟨hmeet, hrun⟩ := meetAll_passes u hp
  rw [if_neg hmany, hmaskOf] at hmemb
  have hsame' : Same s1 (u.fused (s1.maskCores s1.myCl m) m) := (Same.modCore s1 s1.cur _).trans (hsame.trans (same_fused u _ m))
  have hran := issue_ran (d := { st := u.fused (s1.maskCores s1.myCl m) m, res := none, jump := none }) hs heff rfl hsame' rfl
  obtain ⟨before, queued, hissue⟩ := issue_of_plain (c := ⟨false, 28, 3, e⟩) rfl rfl hs heff
  refine ⟨?_, ?_, ?_, ?_, ?_⟩
  · rw [hissue, retire_memb rfl (.inl (by rw [hcore]; exact hhold)), hcore]
    exact hmemb
  · rw [hran.alike.core Core.orig (fun _ => rfl), hcore]
    rfl
  · refine (congrArg (fun j => mget 0 j 0) (hran.context_j p 0)).trans ?_
    rw [hcore]
    exact mget_mset_self _ _ _ _
  · rw [hran.alike.core Core.meet (fun _ => rfl), hcore]
    exact hmeet
  · by_cases hcur : p = s1.cur
    · exact .inr hcur
    · left
      refine (congrArg Context.run (hran.contexts p 0 (fun h => hcur (h.1.trans hsame'.1)))).trans ?_
      rw [hcore]
      refine hrun (fun h => hcur (h.trans hsame.1)) ?_
      rw [hmeets p]
      change ((s1.modMe _).core p).meet ≠ none
      rw [State.core_modMe, if_neg hcur]
      exact hwait p hp hcur

/-! ### SPLIT (R155, R276) -/

theorem split_leaves {e : Fields} {s s1 : State} {v : Vals} (hs : s.starts (.split e) = some (v, s1)) :
    (s.issue (.split e) effSplit).me.memb = 0 ∧ (s.issue (.split e) effSplit).cx.pc = (s.cx.advance (s.nextPc (.split e))).pc := by
  have hquiet := quiet_leaveGang s1 s1.cur
  have hran := issue_ran (d := { st := s1.leaveGang s1.cur, res := none, jump := none }) (eff := effSplit) hs rfl rfl hquiet.same rfl
  obtain ⟨before, queued, hissue⟩ := issue_of_plain (c := ⟨false, 28, 4, e⟩) (eff := effSplit) rfl rfl hs rfl
  have hcur : (s.issue (.split e) effSplit).cur = s1.cur := (hran.alike.device State.cur (fun _ => rfl)).trans hquiet.cur
  constructor
  · unfold State.me
    rw [hcur, hissue, retire_memb rfl (.inr ⟨hquiet.cur.symm, leaveGang_memb _ _⟩)]
    exact leaveGang_memb _ _
  · obtain ⟨b, hcx⟩ := starts_cx hs
    refine (congrArg Prod.fst hran.pc).trans ?_
    change ((s1.leaveGang s1.cur).cx.advance (s.nextPc (.split e))).pc = _
    rw [hquiet.cx]
    exact (advance_fields s.cx s1.cx _ (by rw [hcx]) (by rw [hcx]) (by rw [hcx])).1

/-! ### REJOIN (R156, R277) -/

/-- The running core waits at its REJOIN with this mask. -/
def State.atRejoin (s : State) (o : Opnds) (m : BitVec 8) : State :=
  s.modMe (fun c => { c with left := if c.meet = none then 0 else c.left, meet := some (false, m, s.cx.pc, s.cx.pc + BitVec.ofNat 64 o.len) })

/-- A core waits at a REJOIN with this mask: the running one, or another with no entry of its own due. -/
def State.rejoins (s : State) (m : BitVec 8) (p : Nat) : Bool :=
  (p == s.cur || !(s.core p).entryDue) && match (s.core p).meet with
    | some (false, m', _, _) => m' == m
    | _ => false

/-- REJOIN, once every member named waits at one PC or will not come. -/
theorem effRejoin_of_arrived {o : Opnds} {v : Vals} {s t : State} {m : BitVec 8} (hm : mget 0 s.cx.j (o.x % 4) ||| (1#8 <<< s.pos s.cur) = m)
    (ht : s.atRejoin o m = t)
    (harrived : ∀ p ∈ t.maskCores t.myCl m, t.rejoins m p = true ∨ (t.core p).exited = true ∨ (t.core p).dead = true
      ∨ t.me.left.getLsbD (t.pos p) = true)
    (hplace : ∀ p ∈ t.maskCores t.myCl m, t.rejoins m p = true → ∃ m' next, (t.core p).meet = some (false, m', s.cx.pc, next)) :
    effRejoin o v s = Done.plain (t.meetAll ((t.maskCores t.myCl m).filter (t.rejoins m))) := by
  have hmark : s.modMe (fun c => { c with
      left := if c.meet.isNone then 0 else c.left, meet := some (false, m, s.cx.pc, s.cx.pc + BitVec.ofNat 64 o.len) }) = t := by
    rw [← ht]
    unfold State.atRejoin
    simp only [Option.isNone_iff_eq_none]
  unfold effRejoin
  dsimp only
  rw [hm, if_neg, if_pos] <;> rw [hmark]
  · rfl
  · refine List.all_eq_true.2 (fun p hp => ?_)
    change (t.rejoins m p || (t.core p).exited || (t.core p).dead || t.me.left.getLsbD (t.pos p)) = true
    simpa only [Bool.or_eq_true, or_assoc] using harrived p hp
  · rw [Bool.not_eq_true, List.any_eq_false]
    intro p hp
    obtain ⟨hnamed, hwaits⟩ := List.mem_filter.1 hp
    obtain ⟨m', next, hmeet⟩ := hplace p hnamed hwaits
    rw [hmeet]
    simp

/-! ### GSTAT (R154) -/

/-- The mask that CTX.GANG shows of a core: that of the gang it waits for, or its own. -/
def Core.shownMask (c : Core) : BitVec 8 :=
  match c.regang with
  | some g => g.memb
  | none => c.memb

theorem gangWord_eq (s : State) (p : Nat) :
    s.gangWord p =
      let m : BitVec 8 := (s.core p).shownMask
      let ps := (s.assigned (p / 16)).filter (fun q => m.getLsbD (s.pos q))
      BitVec.ofNat 64 ((if (s.core p).lpid = none then 0 else s.pos p)
        + 2 ^ 3 * (if m = 0 ∨ ∀ q ∈ ps, s.lp p ≤ s.lp q then 1 else 0)
        + 2 ^ 8 * (if m = 0 then 1 else ((upTo 8).filter (fun i => m.getLsbD i)).length)
        + 2 ^ 16 * (s.core p).orig.toNat + 2 ^ 24 * m.toNat) := by
  extract_lets m ps
  have hword : s.gangWord p = BitVec.ofNat 64 (m.toNat * 2 ^ 24 + (s.core p).orig.toNat * 2 ^ 16
      + (if m = 0 then 1 else ((upTo 8).filter (fun i => m.getLsbD i)).length) * 256
      + (if (m = 0 || ps.all (fun q => decide (s.lp p ≤ s.lp q))) = true then 8 else 0)
      + (if (s.core p).lpid.isNone = true then 0 else s.pos p)) := rfl
  have hleads : (m = 0 || ps.all (fun q => decide (s.lp p ≤ s.lp q))) = true ↔ m = 0 ∨ ∀ q ∈ ps, s.lp p ≤ s.lp q := by
    simp only [Bool.or_eq_true, decide_eq_true_eq, List.all_eq_true]
  have hscale : (if m = 0 ∨ ∀ q ∈ ps, s.lp p ≤ s.lp q then 8 else 0) = 2 ^ 3 * (if m = 0 ∨ ∀ q ∈ ps, s.lp p ≤ s.lp q then 1 else 0) := by
    split <;> rfl
  rw [hword]
  simp only [hleads, hscale, Option.isNone_iff_eq_none]
  congr 1
  ring

/-- Settles O32: FUSE and SPLIT by what they leave of the cores, the others by their effects. -/
theorem gangResults : Obligations.GangResults := by
  unfold Obligations.GangResults
  refine fun e s => ⟨?fuse, ?split, ?rejoin, ?jmsk, ?gstat⟩
  case fuse =>
    intro v s1 m hs hm hmask halive hwait hpops
    obtain ⟨⟨hcur, -⟩, -⟩ := starts_same hs
    obtain ⟨b, hcx⟩ := starts_cx hs
    have hpc : s.cx.pc = s1.cx.pc := by rw [hcx]
    rw [← hcur] at hwait ⊢
    rw [hpc, ← len_opnds (i := .fuse e) rfl] at hpops
    obtain ⟨u, hu⟩ := Option.ne_none_iff_exists'.1 hpops
    have heff := effFuse_of_pops hm.symm hmask halive hwait hu
    refine ⟨_, rfl, fuse_members hs hmask (fun p hp hcur => ?_) hu heff⟩
    obtain ⟨-, pc, next, hmeet⟩ := hwait p hp hcur
    rw [hmeet]
    exact Option.some_ne_none _
  case split => exact fun v s1 hs => ⟨_, rfl, split_leaves hs⟩
  case rejoin =>
    refine completes_intro (eff := effRejoin) rfl ?_
    rintro v s1 s' r jump hs ⟨rfl, rfl, harrived, hplace, rfl⟩
    obtain ⟨⟨hcur, -⟩, -⟩ := starts_same hs
    obtain ⟨b, hcx⟩ := starts_cx hs
    have hpc : s.cx.pc = s1.cx.pc := by rw [hcx]
    rw [← hcur, hpc, ← len_opnds (i := .rejoin e) rfl] at harrived hplace ⊢
    refine ⟨effRejoin_of_arrived rfl rfl harrived hplace, (Same.modCore s1 _ _).trans (same_meetAll _ _)⟩
  case jmsk =>
    refine completes_intro (eff := effJmsk) rfl ?_
    rintro v s1 s' r jump - ⟨rfl, hcase⟩
    have hy : (Instr.jmsk e).opnds.y = e.y.toNat := rfl
    unfold effJmsk
    rw [hy]
    by_cases hwrite : e.y.getLsbD 2 = true
    · rw [if_pos hwrite] at hcase
      obtain ⟨rfl, rfl⟩ := hcase
      exact ⟨if_pos hwrite, Same.modCore s1 _ _⟩
    · rw [if_neg hwrite] at hcase
      obtain ⟨rfl, rfl⟩ := hcase
      exact ⟨if_neg hwrite, Same.refl _⟩
  case gstat =>
    refine gives_intro (eff := effGstat) rfl (fun v s1 hs => ?_)
    obtain ⟨⟨hcur, -⟩, -⟩ := starts_same hs
    unfold effGstat
    rw [gangWord_eq, hcur]
    unfold State.me
    rw [hcur]
    rfl

end Sys2Proof.Machine
end

section
/-! SUPPORT. Results as functions of the operands: how an instruction with such a result completes, what its operands leave of the running
context, words under sums, products and shifts as numbers, and fields of numbers bit by bit. -/

namespace Sys2Proof.Machine

/-! ### Results that are functions of the operands -/

theorem gives_of_result {s : State} {i : Instr} {g : Opnds → Vals → Word} {f : Opnds → Vals → State → Word}
    (hexec : Sys2Proof.Machine.exec i s = .next (s.issue i (fun o v t => Done.result t (.s (g o v))))) (h : ∀ o v t, g o v = f o v t) :
    s.gives i f :=
  gives_intro hexec (fun v s1 _ => congrArg (fun w => Done.result s1 (.s w)) (h i.opnds v s1))

/-- An instruction that changes nothing beside its result completes as a rule says if each value that the rule allows is the effect's. -/
theorem completes_value {s : State} {i : Instr} {eff : Eff} {α : Type} (mk : α → Res) {R : Opnds → Vals → State → α → Prop}
    (hexec : Sys2Proof.Machine.exec i s = .next (s.issue i eff))
    (h : ∀ (v : Vals) (s1 : State) (x : α), R i.opnds v s1 x → eff i.opnds v s1 = Done.result s1 (mk x)) :
    s.completes i (fun o v s1 s' r jump => s' = s1 ∧ jump = none ∧ ∃ x : α, r = some (mk x) ∧ R o v s1 x) := by
  refine completes_intro hexec ?_
  rintro v s1 s' r jump - ⟨rfl, rfl, x, rfl, hx⟩
  exact ⟨h v s' x hx, Same.refl s'⟩

/-- An instruction that changes nothing beside its result completes as a rule says bit by bit. -/
theorem completes_bits {s : State} {i : Instr} {g : Opnds → Vals → Word} {b : Opnds → Vals → Nat → Bool}
    (hexec : Sys2Proof.Machine.exec i s = .next (s.issue i (fun o v t => Done.result t (.s (g o v)))))
    (h : ∀ o v k, k < 64 → (g o v).getLsbD k = b o v k) :
    s.completes i (fun o v s1 s' r jump => s' = s1 ∧ jump = none ∧ ∃ x : Word, r = some (.s x) ∧ ∀ k, k < 64 → x.getLsbD k = b o v k) :=
  completes_value .s hexec fun v s1 _ hx =>
    congrArg (fun w => Done.result s1 (.s w)) (BitVec.eq_of_getLsbD_eq fun k hk => (h i.opnds v k hk).trans (hx k hk).symm)

/-! ### What changes of the running context keep of who runs -/

theorem same_modCx (s : State) (f : Context → Context) : Same s (s.modCx f) := Same.modCore s _ _

theorem same_raise (s : State) (f : FpFlags) : Same s (s.raise f) := same_modCx s _

/-! ### What reading operands keeps of the running context -/

theorem starts_win {s s1 : State} {i : Instr} {v : Vals} (h : s.starts i = some (v, s1)) : s1.cx.win = s.cx.win := by
  obtain ⟨b, hb⟩ := starts_cx h
  rw [hb]

theorem starts_pc {s s1 : State} {i : Instr} {v : Vals} (h : s.starts i = some (v, s1)) : s1.cx.pc = s.cx.pc := by
  obtain ⟨b, hb⟩ := starts_cx h
  rw [hb]

/-! ### Words as numbers -/

theorem ofNat_toNat_word (a : Word) : BitVec.ofNat 64 a.toNat = a := by rw [BitVec.ofNat_toNat, BitVec.setWidth_eq]

theorem sub_eq_ofInt (a b : Word) : a - b = BitVec.ofInt 64 (a.toNat - b.toNat) := by
  rw [Int.sub_eq_add_neg, BitVec.ofInt_add, BitVec.ofInt_neg, BitVec.sub_eq_add_neg]
  simp

theorem shl_eq_ofNat (a : Word) (n : Nat) : a <<< n = BitVec.ofNat 64 (a.toNat * 2 ^ n) := by
  apply BitVec.eq_of_toNat_eq
  rw [BitVec.toNat_shiftLeft, Nat.shiftLeft_eq, BitVec.toNat_ofNat]

theorem mul_eq_ofNat (a b : Word) : a * b = BitVec.ofNat 64 (a.toNat * b.toNat) := by
  apply BitVec.eq_of_toNat_eq
  rw [BitVec.toNat_mul, BitVec.toNat_ofNat]

theorem shr_eq_ofNat (a : Word) (n : Nat) : a >>> n = BitVec.ofNat 64 (a.toNat / 2 ^ n) := by
  apply BitVec.eq_of_toNat_eq
  rw [BitVec.toNat_ushiftRight, Nat.shiftRight_eq_div_pow, BitVec.toNat_ofNat,
    Nat.mod_eq_of_lt (Nat.lt_of_le_of_lt (Nat.div_le_self _ _) a.isLt)]

theorem sra_eq_ofInt (a : Word) (n : Nat) : a.sshiftRight n = BitVec.ofInt 64 (a.toInt / 2 ^ n) := by
  rw [BitVec.sshiftRight, Int.shiftRight_eq_div_pow]
  norm_cast

theorem add_eq_ofInt (a b : Word) : a + b = BitVec.ofInt 64 (a.toInt + b.toInt) := by
  rw [BitVec.ofInt_add, BitVec.ofInt_toInt, BitVec.ofInt_toInt]

/-! ### Fields of numbers, bit by bit -/

theorem testBit_bits (v lo n k : Nat) : (bits v lo n).testBit k = (decide (k < n) && v.testBit (lo + k)) := by
  rw [bits, Nat.testBit_mod_two_pow, Nat.testBit_div_two_pow, Nat.add_comm]

theorem withBits_eq (v lo n x : Nat) : withBits v lo n x = 2 ^ lo * (2 ^ n * (v / 2 ^ (lo + n)) + x % 2 ^ n) + v % 2 ^ lo := by
  have hlow : 2 ^ lo * (v / 2 ^ lo) + v % 2 ^ lo = v := Nat.div_add_mod v (2 ^ lo)
  have hmid : 2 ^ n * (v / 2 ^ (lo + n)) + v / 2 ^ lo % 2 ^ n = v / 2 ^ lo := by
    rw [Nat.pow_add, ← Nat.div_div_eq_div_mul, Nat.div_add_mod]
  rw [← hmid] at hlow
  have hsub : v - bits v lo n * 2 ^ lo = 2 ^ lo * (2 ^ n * (v / 2 ^ (lo + n))) + v % 2 ^ lo := by
    rw [Nat.mul_add] at hlow
    rw [bits, Nat.mul_comm _ (2 ^ lo)]
    omega
  rw [withBits, hsub, Nat.mul_add, Nat.mul_comm (x % 2 ^ n)]
  omega

theorem testBit_withBits (v lo n x k : Nat) :
    (withBits v lo n x).testBit k = if lo ≤ k ∧ k < lo + n then x.testBit (k - lo) else v.testBit k := by
  rw [withBits_eq, Nat.testBit_two_pow_mul_add _ (Nat.mod_lt _ (Nat.two_pow_pos lo))]
  by_cases hlow : k < lo
  · rw [if_pos hlow, if_neg (by omega), Nat.testBit_mod_two_pow, decide_eq_true hlow, Bool.true_and]
  · rw [if_neg hlow, Nat.testBit_two_pow_mul_add _ (Nat.mod_lt _ (Nat.two_pow_pos n))]
    by_cases hin : k - lo < n
    · rw [if_pos hin, if_pos (by omega), Nat.testBit_mod_two_pow, decide_eq_true hin, Bool.true_and]
    · rw [if_neg hin, if_neg (by omega), Nat.testBit_div_two_pow]
      congr 1; omega

end Sys2Proof.Machine
end

section
/-! PROOF. Arithmetic and logic (O6): each instruction by what its word function is as a number. -/

namespace Sys2Proof.Machine

theorem ite_lt_eq_min {α : Type} [LinearOrder α] {num : Word → α} {word : α → Word} (h : ∀ a, word (num a) = a) (a b : Word) :
    (if num b < num a then b else a) = word (min (num a) (num b)) := by
  rcases lt_or_ge (num b) (num a) with hlt | hge
  · rw [if_pos hlt, min_eq_right hlt.le, h]
  · rw [if_neg hge.not_gt, min_eq_left hge, h]

theorem ite_lt_eq_max {α : Type} [LinearOrder α] {num : Word → α} {word : α → Word} (h : ∀ a, word (num a) = a) (a b : Word) :
    (if num a < num b then b else a) = word (max (num a) (num b)) := by
  rcases lt_or_ge (num a) (num b) with hlt | hge
  · rw [if_pos hlt, max_eq_right hlt.le, h]
  · rw [if_neg hge.not_gt, max_eq_left hge, h]

/-- Settles O6: each result is the table's, by the equation of its word function. -/
theorem arithmeticResults : Obligations.ArithmeticResults := by
  unfold Obligations.ArithmeticResults
  intro e s
  refine ⟨?add, ?sub, ?and, ?or, ?xor, ?shl, ?shr, ?sra, ?mul, ?mulh, ?mulhu, ?min, ?max, ?minu, ?maxu, ?andn⟩
  case add => exact gives_of_result rfl (fun _ v _ => BitVec.add_def v.x.s v.y.s)
  case sub => exact gives_of_result rfl (fun _ v _ => sub_eq_ofInt v.x.s v.y.s)
  case and => exact gives_of_result rfl (fun _ _ _ => rfl)
  case or => exact gives_of_result rfl (fun _ _ _ => rfl)
  case xor => exact gives_of_result rfl (fun _ _ _ => rfl)
  case shl => exact gives_of_result rfl (fun _ v _ => shl_eq_ofNat v.x.s _)
  case shr => exact gives_of_result rfl (fun _ v _ => shr_eq_ofNat v.x.s _)
  case sra => exact gives_of_result rfl (fun _ v _ => sra_eq_ofInt v.x.s _)
  case mul => exact gives_of_result rfl (fun _ v _ => mul_eq_ofNat v.x.s v.y.s)
  case mulh => exact gives_of_result rfl (fun _ _ _ => rfl)
  case mulhu => exact gives_of_result rfl (fun _ _ _ => rfl)
  case min => exact gives_of_result rfl (fun _ v _ => ite_lt_eq_min (word := BitVec.ofInt 64) (fun _ => BitVec.ofInt_toInt) v.x.s v.y.s)
  case max => exact gives_of_result rfl (fun _ v _ => ite_lt_eq_max (word := BitVec.ofInt 64) (fun _ => BitVec.ofInt_toInt) v.x.s v.y.s)
  case minu => exact gives_of_result rfl (fun _ v _ => ite_lt_eq_min (word := BitVec.ofNat 64) ofNat_toNat_word v.x.s v.y.s)
  case maxu => exact gives_of_result rfl (fun _ v _ => ite_lt_eq_max (word := BitVec.ofNat 64) ofNat_toNat_word v.x.s v.y.s)
  case andn => exact gives_of_result rfl (fun _ _ _ => rfl)

end Sys2Proof.Machine
end

section
/-! PROOF. Compares, SEL and MOV (O7): a compare's word by the order, SEL by the d1 that stands before it. -/

namespace Sys2Proof.Machine

theorem flagWord_beq (a b : Word) : flagWord (a == b) = if a.toNat = b.toNat then 1 else 0 := by
  simp [flagWord, BitVec.toNat_inj]

theorem flagWord_bne (a b : Word) : flagWord (a != b) = if a.toNat = b.toNat then 0 else 1 := by
  simp [flagWord, BitVec.toNat_inj]

theorem flagWord_decide (p : Prop) [Decidable p] : flagWord (decide p) = if p then 1 else 0 := by simp [flagWord]

theorem flagWord_le {α : Type} [LinearOrder α] (a b : α) : flagWord (decide (a ≤ b)) = if b < a then 0 else 1 := by
  simp [flagWord, ← not_lt]

theorem effSel_eq {o : Opnds} {v : Vals} {s : State} (hpend : s.cx.win.d1.pend = none) :
    effSel o v s
      = Done.result s (.s (if s.cx.win.d1.val = false ∨ s.cx.win.d1.bits.toNat % 2 ^ 64 = 0 then v.y.s else v.x.s)) := by
  have hzero : lane0 s.cx.win.d1.bits = 0 ↔ s.cx.win.d1.bits.toNat % 2 ^ 64 = 0 := by
    rw [← BitVec.toNat_inj, lane0, BitVec.toNat_setWidth]; rfl
  unfold effSel
  rw [hpend]
  dsimp only
  cases s.cx.win.d1.val
  · simp
  · simp only [Bool.true_and, bne_iff_ne, ne_eq, hzero, ite_not, reduceCtorEq, false_or]

/-- Settles O7: the compares by their flag words, SEL by the window that reading its operands keeps. -/
theorem compareSelectResults : Obligations.CompareSelectResults := by
  unfold Obligations.CompareSelectResults
  intro e s
  refine ⟨?seq, ?sne, ?slt, ?sltu, ?sle, ?sleu, ?sel, ?mov⟩
  case seq => exact gives_of_result rfl (fun _ v _ => flagWord_beq v.x.s v.y.s)
  case sne => exact gives_of_result rfl (fun _ v _ => flagWord_bne v.x.s v.y.s)
  case slt => exact gives_of_result rfl (fun _ _ _ => flagWord_decide _)
  case sltu => exact gives_of_result rfl (fun _ _ _ => flagWord_decide _)
  case sle => exact gives_of_result rfl (fun _ _ _ => flagWord_le _ _)
  case sleu => exact gives_of_result rfl (fun _ _ _ => flagWord_le _ _)
  case sel =>
    intro hpend
    refine gives_intro (eff := effSel) rfl (fun v s1 hstarts => ?_)
    rw [← starts_win hstarts] at hpend ⊢
    exact effSel_eq hpend
  case mov => exact gives_of_result rfl (fun _ _ _ => rfl)

end Sys2Proof.Machine
end

section
/-! PROOF. Unary forms (O8): counts of bits by the numbers that bound them, extensions by width. -/

namespace Sys2Proof.Machine

theorem clz64_eq {y : Word} {n : Nat} (h : y = 0 ∧ n = 64 ∨ n < 64 ∧ 2 ^ (63 - n) ≤ y.toNat ∧ y.toNat < 2 ^ (64 - n)) : clz64 y = n := by
  unfold clz64
  rcases h with ⟨hy, hn⟩ | ⟨hn, hlow, hhigh⟩
  · rw [if_pos hy, hn]
  · have hpos : y.toNat ≠ 0 := by have := Nat.two_pow_pos (63 - n); omega
    have hlog : Nat.log2 y.toNat = 63 - n := (Nat.log2_eq_iff hpos).2 ⟨hlow, by rwa [show 63 - n + 1 = 64 - n by omega]⟩
    rw [if_neg (fun hy => hpos (by rw [hy]; rfl)), hlog]
    omega

theorem firstSuch_eq_some {n k : Nat} {p : Nat → Bool} (hk : k < n) (hp : p k = true) (hlt : ∀ j, j < k → p j = false) :
    firstSuch n p = some k := by
  unfold firstSuch upTo
  rw [List.find?_range_eq_some]
  exact ⟨hp, List.mem_range.2 hk, fun j hj => by rw [hlt j hj]; rfl⟩

theorem getLsbD_eq_div_mod (y : Word) (k : Nat) : y.getLsbD k = decide (y.toNat / 2 ^ k % 2 = 1) := Nat.testBit_eq_decide_div_mod_eq

theorem getLsbD_below_trailing {y : Word} {n k : Nat} (hmod : y.toNat % 2 ^ n = 0) (hk : k < n) : y.getLsbD k = false := by
  have h := Nat.testBit_mod_two_pow y.toNat n k
  rw [hmod, Nat.zero_testBit, decide_eq_true hk, Bool.true_and] at h
  exact h.symm

theorem ctz64_eq {y : Word} {n : Nat} (h : y = 0 ∧ n = 64 ∨ n < 64 ∧ y.toNat % 2 ^ n = 0 ∧ y.toNat / 2 ^ n % 2 = 1) : ctz64 y = n := by
  unfold ctz64
  rcases h with ⟨hy, hn⟩ | ⟨hn, hmod, hbit⟩
  · rw [hy, hn]; rfl
  · rw [firstSuch_eq_some hn (by rw [getLsbD_eq_div_mod, hbit]; rfl) (fun j hj => getLsbD_below_trailing hmod hj)]

theorem popc64_eq (y : Word) : popc64 y = ((upTo 64).filter (fun k => y.toNat / 2 ^ k % 2 == 1)).length := by
  unfold popc64
  congr 2
  funext k
  rw [getLsbD_eq_div_mod]; rfl

theorem sextWord_eq (k : Nat) (hk : k < 64) (y : Word) : sextWord (k + 1) y = (y.setWidth (k + 1)).signExtend 64 := by
  have h := sextWord_ofNat hk y.toNat
  rwa [ofNat_toNat_word, BitVec.ofNat_toNat] at h

theorem zextWord_eq {n : Nat} (y : Word) : zextWord n y = (y.setWidth n).setWidth 64 := by
  unfold zextWord
  rw [← BitVec.toNat_setWidth, BitVec.ofNat_toNat]

/-- Settles O8: the counts that the statement characterises are the model's, the extensions are changes of width. -/
theorem unaryResults : Obligations.UnaryResults := by
  unfold Obligations.UnaryResults
  intro e s
  refine ⟨?clz, ?ctz, ?popc, ?sextB, ?sextH, ?sextW, ?zextH, ?zextW⟩
  case clz =>
    refine completes_value (fun n => .s (BitVec.ofNat 64 n)) (eff := effClz) rfl (fun v s1 n hn => ?_)
    rw [← clz64_eq hn]; rfl
  case ctz =>
    refine completes_value (fun n => .s (BitVec.ofNat 64 n)) (eff := effCtz) rfl (fun v s1 n hn => ?_)
    rw [← ctz64_eq hn]; rfl
  case popc => exact gives_of_result rfl (fun _ v _ => congrArg (BitVec.ofNat 64) (popc64_eq v.y.s))
  case sextB => exact gives_of_result rfl (fun _ v _ => sextWord_eq 7 (by decide) v.y.s)
  case sextH => exact gives_of_result rfl (fun _ v _ => sextWord_eq 15 (by decide) v.y.s)
  case sextW => exact gives_of_result rfl (fun _ v _ => sextWord_eq 31 (by decide) v.y.s)
  case zextH => exact gives_of_result rfl (fun _ v _ => zextWord_eq v.y.s)
  case zextW => exact gives_of_result rfl (fun _ v _ => zextWord_eq v.y.s)

end Sys2Proof.Machine
end

section
/-! PROOF. Address and immediate forms (O9): sums as numbers, bit fields bit by bit, and the subcauses that a form's own limits give. -/

namespace Sys2Proof.Machine

/-! ### Addresses and bit fields (R186 to R188) -/

theorem addsh_eq_ofNat (a b : Word) (k : Nat) : a + (b <<< k) = BitVec.ofNat 64 (a.toNat + 2 ^ k * b.toNat) := by
  rw [shl_eq_ofNat, BitVec.ofNat_add, ofNat_toNat_word, Nat.mul_comm]

theorem add_double_eq_ofInt (a b : Word) : a + 2 * b = BitVec.ofInt 64 (a.toInt + 2 * b.toInt) := by
  rw [BitVec.ofInt_add, BitVec.ofInt_mul, BitVec.ofInt_toInt, BitVec.ofInt_toInt]
  rfl

theorem getLsbD_ofNat_bits (m : Nat) (y : Word) (lo n k : Nat) :
    (BitVec.ofNat m (bits y.toNat lo n)).getLsbD k = (decide (k < m) && (decide (k < n) && y.getLsbD (lo + k))) := by
  rw [BitVec.getLsbD_ofNat, testBit_bits]
  rfl

/-- The field that BFX gives (R187), bit by bit. -/
theorem getLsbD_field (y : Word) (signed : Bool) (pos : Nat) {width k : Nat} (hwidth : width < 64) (hk : k < 64) :
    (if signed then sextWord (width + 1) (BitVec.ofNat 64 (bits y.toNat pos (width + 1)))
      else BitVec.ofNat 64 (bits y.toNat pos (width + 1))).getLsbD k
      = if k < width + 1 then y.getLsbD (pos + k) else signed && y.getLsbD (pos + (width + 1) - 1) := by
  cases signed
  · simp only [Bool.false_eq_true, if_false, getLsbD_ofNat_bits, hk, decide_true, Bool.true_and, Bool.false_and]
    split <;> simp [*]
  · rw [if_pos rfl, sextWord_ofNat hwidth, BitVec.getLsbD_signExtend, BitVec.msb_eq_getLsbD_last, getLsbD_ofNat_bits, getLsbD_ofNat_bits]
    simp only [hk, decide_true, Bool.true_and, Nat.add_sub_cancel, Nat.lt_succ_self]
    split <;> simp [*]

/-- The word with a field replaced (R187), bit by bit. -/
theorem getLsbD_wput (x y : Word) (pos width k : Nat) (hk : k < 64) :
    (wput x pos width y.toNat).getLsbD k = if pos ≤ k ∧ k < pos + width then y.getLsbD (k - pos) else x.getLsbD k := by
  rw [wput, BitVec.getLsbD_ofNat, decide_eq_true hk, Bool.true_and, testBit_withBits]
  rfl

/-! ### Subcauses of a form (R42) -/

theorem subcauses_of_formOf {i : Instr} {c : Code} {sh : Shape} (h : formOf i = some (c, sh)) :
    i.subcauses = subIf (5 < c.e.parcels) 4 ++ subIf (c.p1 && !c.e.page) 3 ++ sh.illegal c.min c.e := by
  obtain ⟨hc, r, hr, rfl⟩ := row_of_formOf h
  unfold Instr.subcauses
  rw [hc]; dsimp only; rw [hr]

theorem mem_subcauses_of_extra {i : Instr} {c : Code} {sh : Shape} (h : formOf i = some (c, sh)) {n : Nat} (hn : n ∈ sh.extra i.opnds) :
    n ∈ i.subcauses := by
  rw [opnds_of_formOf h] at hn
  rw [subcauses_of_formOf h, Shape.illegal]
  simp [hn]

theorem five_mem_subcauses {i : Instr} {c : Code} {sh : Shape} (h : formOf i = some (c, sh)) (h5 : sh.sub5 c.e = true) : 5 ∈ i.subcauses := by
  rw [subcauses_of_formOf h, Shape.illegal, h5]
  simp [subIf]

theorem shiftImm_subcause {i : Instr} {c : Code} (h : formOf i = some (c, .shiftImm)) (himm : 63 < i.opnds.imm.toNat) : 8 ∈ i.subcauses :=
  mem_subcauses_of_extra h (by simp [Shape.shiftImm, subIf, himm])

theorem sub5_of_zp {sh : Shape} {e : Fields} (hz : sh.z = .none) (hzp : e.zp = true) : sh.sub5 e = true := by
  unfold Fields.zp at hzp
  unfold Shape.sub5
  cases hreg : e.reg with
  | none => rw [hreg] at hzp; cases hzp
  | some r => rw [hreg] at hzp; simp [hz, show r.zp = true from hzp]

/-- Settles O9: the sums as numbers, BFX and BFI bit by bit, the subcauses by the forms' own limits. -/
theorem addressResults : Obligations.AddressResults := by
  unfold Obligations.AddressResults
  refine ⟨fun e s => ⟨?addsh1, ?addsh2, ?addsh3, ?addsh4, ?bfx, ?bfi, ?lpc⟩,
    fun e s => ⟨⟨?addi, ?andi, ?ori, ?xori, ?shli, ?shri, ?srai, ?movi⟩, ?shliSub, ?shriSub, ?sraiSub, ?moviSub⟩⟩
  case addsh1 => exact gives_of_result rfl (fun _ v _ => addsh_eq_ofNat v.x.s v.y.s 1)
  case addsh2 => exact gives_of_result rfl (fun _ v _ => addsh_eq_ofNat v.x.s v.y.s 2)
  case addsh3 => exact gives_of_result rfl (fun _ v _ => addsh_eq_ofNat v.x.s v.y.s 3)
  case addsh4 => exact gives_of_result rfl (fun _ v _ => addsh_eq_ofNat v.x.s v.y.s 4)
  case bfx => exact completes_bits rfl (fun _ v _ hk => getLsbD_field v.y.s _ _ (Nat.mod_lt _ (by decide)) hk)
  case bfi => exact completes_bits rfl (fun _ v k hk => getLsbD_wput v.x.s v.y.s _ _ k hk)
  case lpc =>
    refine gives_intro (eff := effLpc) rfl (fun v s1 hstarts => ?_)
    unfold effLpc
    rw [starts_pc hstarts, add_double_eq_ofInt]
  case addi => exact gives_of_result rfl (fun o v _ => add_eq_ofInt v.x.s o.imm)
  case andi => exact gives_of_result rfl (fun _ _ _ => rfl)
  case ori => exact gives_of_result rfl (fun _ _ _ => rfl)
  case xori => exact gives_of_result rfl (fun _ _ _ => rfl)
  case shli => exact gives_of_result rfl (fun _ v _ => shl_eq_ofNat v.x.s _)
  case shri => exact gives_of_result rfl (fun _ v _ => shr_eq_ofNat v.x.s _)
  case srai => exact gives_of_result rfl (fun _ v _ => sra_eq_ofInt v.x.s _)
  case movi => exact gives_of_result rfl (fun _ _ _ => rfl)
  case shliSub => exact shiftImm_subcause rfl
  case shriSub => exact shiftImm_subcause rfl
  case sraiSub => exact shiftImm_subcause rfl
  case moviSub => exact fun hzp => five_mem_subcauses (sh := .movImm) rfl (sub5_of_zp rfl hzp)

end Sys2Proof.Machine
end

section
/-! PROOF. Division (O10): truncated quotients and remainders by signs and magnitudes. -/

namespace Sys2Proof.Machine

theorem tdiv_eq_sign_mul (a b : Int) : a.tdiv b = a.sign * b.sign * (a.natAbs / b.natAbs : Nat) := by
  rw [← Int.sign_mul_natAbs (a.tdiv b), Int.sign_tdiv, Int.natAbs_tdiv]
  split
  · rename_i h
    rw [Nat.div_eq_of_lt h]; simp
  · rfl

theorem tmod_eq_sign_mul (a b : Int) : a.tmod b = a.sign * (a.natAbs % b.natAbs : Nat) := by
  rw [← Int.natAbs_tmod]
  rcases le_total 0 a with h | h
  · have hrem : 0 ≤ a.tmod b := Int.tmod_nonneg b h
    rcases h.eq_or_lt with rfl | h
    · simp
    · rw [Int.sign_eq_one_of_pos h]; omega
  · have hrem : 0 ≤ (-a).tmod b := Int.tmod_nonneg b (by omega)
    rw [Int.neg_tmod] at hrem
    rcases h.eq_or_lt with rfl | h
    · simp
    · rw [Int.sign_eq_neg_one_of_neg h]; omega

/-- The quotient, with the one that a word cannot hold set apart. -/
theorem ofInt_tdiv (a b : Word) : BitVec.ofInt 64 (a.toInt.tdiv b.toInt) =
    if a.toInt = -(2 ^ 63) ∧ b.toInt = -1 then BitVec.ofInt 64 (-(2 ^ 63))
    else BitVec.ofInt 64 (a.toInt.sign * b.toInt.sign * (a.toInt.natAbs / b.toInt.natAbs : Nat)) := by
  split
  · rename_i h
    obtain ⟨ha, hb⟩ := h
    rw [ha, hb]; decide
  · rw [tdiv_eq_sign_mul]

theorem ofInt_tmod (a b : Word) : BitVec.ofInt 64 (a.toInt.tmod b.toInt) =
    if a.toInt = -(2 ^ 63) ∧ b.toInt = -1 then 0 else BitVec.ofInt 64 (a.toInt.sign * (a.toInt.natAbs % b.toInt.natAbs : Nat)) := by
  split
  · rename_i h
    obtain ⟨ha, hb⟩ := h
    rw [ha, hb]; decide
  · rw [tmod_eq_sign_mul]

/-- Settles O10: each result by signs and magnitudes, -2^63 over -1 apart. -/
theorem divisionResults : Obligations.DivisionResults := by
  unfold Obligations.DivisionResults
  intro e s
  refine ⟨?div, ?divu, ?rem, ?remu⟩
  case div => exact gives_of_result rfl (fun _ v _ => congrArg (ite _ _) (ofInt_tdiv v.x.s v.y.s))
  case divu => exact gives_of_result rfl (fun _ _ _ => rfl)
  case rem => exact gives_of_result rfl (fun _ v _ => congrArg (ite _ _) (ofInt_tmod v.x.s v.y.s))
  case remu => exact gives_of_result rfl (fun _ _ _ => rfl)

end Sys2Proof.Machine
end

section
/-! PROOF. Scalar floating point (O11): results with flags, compares, conversions, and signs bit by bit. -/

namespace Sys2Proof.Machine

/-! ### How a floating-point instruction completes (R190 to R194) -/

/-- An instruction whose effect is a result with flags completes with them. -/
theorem givesFp_of_fpDone {s : State} {i : Instr} {g : Opnds → Vals → Nat × FpFlags} {f : Opnds → Vals → Nat × FpFlags}
    (hexec : Sys2Proof.Machine.exec i s = .next (s.issue i (fun o v t => fpDone t (g o v)))) (h : ∀ o v, g o v = f o v) : s.givesFp i f := by
  refine completes_intro hexec ?_
  rintro v s1 s' r jump - ⟨rfl, rfl, rfl⟩
  exact ⟨congrArg (fpDone s1) (h i.opnds v), same_raise s1 _⟩

theorem toNat_eq_ite (b : Bool) : b.toNat = if b then 1 else 0 := by cases b <;> rfl

/-- A compare gives 1 or 0 with its flags. -/
theorem givesFp_of_relDone {s : State} {i : Instr} {g : Opnds → Vals → Bool × FpFlags}
    (hexec : Sys2Proof.Machine.exec i s = .next (s.issue i (fun o v t => relDone t (g o v)))) :
    s.givesFp i (fun o v => (if (g o v).1 then 1 else 0, (g o v).2)) :=
  givesFp_of_fpDone hexec (fun _ _ => Prod.ext (toNat_eq_ite _) rfl)

/-- A conversion to an integer gives the word of the rounded number. -/
theorem givesFp_of_toIntDone {s : State} {i : Instr} {lo hi : Int}
    (hexec : Sys2Proof.Machine.exec i s = .next (s.issue i (fun o v t => toIntDone o t lo hi v.y.s))) :
    s.givesFp i (fun o v =>
      let q := ((fmtOf o.t).value v.y.s.toNat).toRange o.rm lo hi
      ((BitVec.ofInt 64 q.1).toNat, q.2)) :=
  givesFp_of_fpDone hexec (fun _ _ => Prod.ext (BitVec.toNat_ofInt _).symm rfl)

/-- A conversion to a format gives what `convert` gives, and with S the generator holds its next value. -/
theorem completes_convertDone {s : State} {i : Instr} {x y : Opnds → Vals → FVal}
    (hexec : Sys2Proof.Machine.exec i s = .next (s.issue i (fun o v t => convertDone o t (x o v)))) (h : ∀ o v, x o v = y o v) :
    s.completes i (fun o v s1 s' r jump => jump = none ∧
      (let c := (fmtOf o.t).convert o.rm o.s s1.cx.gen (y o v)
       s' = (if o.s then s1.modCx (fun x => { x with gen := c.2 }) else s1).raise c.1.2
         ∧ r = some (.s (BitVec.ofNat 64 c.1.1)))) := by
  refine completes_intro hexec ?_
  rintro v s1 s' r jump - ⟨rfl, rfl, rfl⟩
  rw [← h]
  exact ⟨rfl, (same_ite (same_modCx s1 _) (Same.refl s1)).trans (same_raise _ _)⟩

/-! ### Signs of codes (R192) -/

theorem testBit_code (f : Fmt) (neg : Bool) {c k : Nat} (hc : c < 2 ^ f.signAt) :
    (f.code neg c).testBit k = if k = f.signAt then neg else c.testBit k := by
  have hcode : f.code neg c = 2 ^ f.signAt * neg.toNat + c := by rw [Fmt.code, Nat.mul_comm, Nat.add_comm]
  rw [hcode, Nat.testBit_two_pow_mul_add _ hc]
  rcases lt_trichotomy k f.signAt with h | rfl | h
  · rw [if_pos h, if_neg h.ne]
  · cases neg <;> simp
  · have hhigh : c.testBit k = false := Nat.testBit_lt_two_pow (hc.trans_le (Nat.pow_le_pow_right (by decide) h.le))
    rw [if_neg h.not_gt, if_neg h.ne', hhigh, Nat.testBit_bool_toNat, decide_eq_false (by omega), Bool.false_and]

theorem testBit_sign (y : Word) (n : Nat) : (y.toNat % 2 ^ (n + 1)).testBit n = y.getLsbD n := by
  rw [Nat.testBit_mod_two_pow, decide_eq_true n.lt_succ_self, Bool.true_and]
  rfl

theorem testBit_magnitude (y : Word) (n k : Nat) : (y.toNat % 2 ^ (n + 1) % 2 ^ n).testBit k = (y.getLsbD k && decide (k < n)) := by
  rw [Nat.mod_mod_of_dvd _ (Nat.pow_dvd_pow 2 n.le_succ), Nat.testBit_mod_two_pow, Bool.and_comm]
  rfl

/-- A sign above the magnitude of a word's code, bit by bit. -/
theorem getLsbD_code (f : Fmt) (neg : Bool) (y : Word) {k : Nat} (hk : k < 64) :
    (BitVec.ofNat 64 (f.code neg (y.toNat % 2 ^ (f.signAt + 1) % 2 ^ f.signAt))).getLsbD k
      = if k = f.signAt then neg else y.getLsbD k && decide (k < f.signAt) := by
  rw [BitVec.getLsbD_ofNat, decide_eq_true hk, Bool.true_and, testBit_code f neg (Nat.mod_lt _ (Nat.two_pow_pos _)), testBit_magnitude]

/-- Settles O11: each result by its operation and the flags that it raises, the signs bit by bit. -/
theorem floatResults : Obligations.FloatResults := by
  unfold Obligations.FloatResults
  refine ⟨fun e s => ⟨?fadd, ?fsub, ?fmul, ?fdiv, ?fmin, ?fmax, ?fsqrt, ?ffma, ?feq, ?flt, ?fle, ?frnd, ?ftoi, ?ftou, ?itof, ?utof, ?fcvt⟩,
    fun e s => ⟨?fabs, ?fneg, ?fsgnj, ?fcls⟩⟩
  case fadd => exact givesFp_of_fpDone rfl (fun _ _ => rfl)
  case fsub => exact givesFp_of_fpDone rfl (fun _ _ => rfl)
  case fmul => exact givesFp_of_fpDone rfl (fun _ _ => rfl)
  case fdiv => exact givesFp_of_fpDone rfl (fun _ _ => rfl)
  case fmin => exact givesFp_of_fpDone rfl (fun _ _ => rfl)
  case fmax => exact givesFp_of_fpDone rfl (fun _ _ => rfl)
  case fsqrt => exact givesFp_of_fpDone rfl (fun _ _ => rfl)
  case ffma => exact givesFp_of_fpDone rfl (fun _ _ => rfl)
  case feq => exact givesFp_of_relDone rfl
  case flt => exact givesFp_of_relDone rfl
  case fle => exact givesFp_of_relDone rfl
  case frnd => exact givesFp_of_fpDone rfl (fun _ _ => rfl)
  case ftoi => exact givesFp_of_toIntDone rfl
  case ftou => exact givesFp_of_toIntDone rfl
  case itof => exact completes_convertDone rfl (fun _ _ => rfl)
  case utof => exact completes_convertDone rfl (fun _ _ => rfl)
  case fcvt => exact completes_convertDone rfl (fun _ _ => rfl)
  case fabs =>
    refine completes_value .s (eff := effFabs) rfl (fun v s1 x hx => ?_)
    refine congrArg (fun w => Done.result s1 (.s w)) (BitVec.eq_of_getLsbD_eq fun k hk => ?_)
    rw [hx k, BitVec.getLsbD_ofNat, decide_eq_true hk, Bool.true_and]
    exact testBit_magnitude v.y.s _ _
  case fneg =>
    refine completes_bits rfl (fun o v k hk => ?_)
    rw [getLsbD_code _ _ _ hk, testBit_sign]
    exact if_ctx_congr Iff.rfl (fun h => by rw [h]) (fun _ => rfl)
  case fsgnj =>
    refine completes_bits rfl (fun o v k hk => ?_)
    rw [getLsbD_code _ _ _ hk, testBit_sign]
    exact if_ctx_congr Iff.rfl (fun h => by rw [h]) (fun _ => rfl)
  case fcls => exact gives_of_result rfl (fun _ _ _ => rfl)

end Sys2Proof.Machine
end

section
/-! SUPPORT. Lanes: a vector is its lanes, and an instruction that works lane by lane completes with them. -/

namespace Sys2Proof.Machine

/-! ### Lanes of a vector (R179) -/

theorem laneBytes_dvd (t : Nat) : laneBytes t ∣ 64 := by
  unfold laneBytes
  split <;> decide

theorem laneBytes_pos (t : Nat) : 0 < laneBytes t := Nat.pos_of_dvd_of_pos (laneBytes_dvd t) (by decide)

theorem lane_in_vector {w n : Nat} (hw : w ∣ 64) (hn : n < 64 / w) : 8 * w * n + 8 * w ≤ 512 := by
  calc 8 * w * n + 8 * w = 8 * (w * (n + 1)) := by ring
    _ ≤ 8 * (w * (64 / w)) := Nat.mul_le_mul_left 8 (Nat.mul_le_mul_left w hn)
    _ = 512 := by rw [Nat.mul_div_cancel' hw]

theorem lanes_eq (v : VWord) (w : Nat) : lanes v w = (upTo (64 / w)).map (laneAt v w) := rfl

theorem laneAt_lt (v : VWord) (w n : Nat) : laneAt v w n < 2 ^ (8 * w) := Nat.mod_lt _ (Nat.two_pow_pos _)

theorem laneAt_mod (v : VWord) (w n : Nat) : laneAt v w n % 2 ^ (8 * w) = laneAt v w n := Nat.mod_mod _ _

theorem laneAt_ofNat {w n : Nat} (hw : w ∣ 64) (hn : n < 64 / w) (x : Nat) : laneAt (BitVec.ofNat 512 x) w n = bits x (8 * w * n) (8 * w) := by
  have hin := lane_in_vector hw hn
  apply Nat.eq_of_testBit_eq
  intro k
  rw [laneAt, testBit_bits, testBit_bits, BitVec.testBit_toNat, BitVec.getLsbD_ofNat]
  by_cases hk : k < 8 * w
  · rw [decide_eq_true (show 8 * w * n + k < 512 by omega), Bool.true_and]
  · rw [decide_eq_false hk, Bool.false_and, Bool.false_and]

/-- Vectors with the same lanes are the same. -/
theorem eq_of_laneAt {w : Nat} (hw : w ∣ 64) {x y : VWord} (h : ∀ n, n < 64 / w → laneAt x w n = laneAt y w n) : x = y := by
  have hpos : 0 < 8 * w := Nat.mul_pos (by decide) (Nat.pos_of_dvd_of_pos hw (by decide))
  refine BitVec.eq_of_getLsbD_eq fun k hk => ?_
  have hlane : k / (8 * w) < 64 / w := by
    apply Nat.div_lt_of_lt_mul
    rwa [Nat.mul_assoc, Nat.mul_div_cancel' hw]
  have hbit := congrArg (fun l => l.testBit (k % (8 * w))) (h _ hlane)
  simp only [laneAt, testBit_bits, Nat.mod_lt k hpos, decide_true, Bool.true_and, Nat.div_add_mod] at hbit
  exact hbit

theorem bits_foldr_lanes (b : Nat) (ls : List Nat) (n : Nat) :
    bits (ls.foldr (fun l a => l % 2 ^ b + 2 ^ b * a) 0) (b * n) b = ls.getD n 0 % 2 ^ b := by
  induction ls generalizing n with
  | nil => simp [bits]
  | cons l ls ih =>
    rw [List.foldr_cons]
    cases n with
    | zero => simp [bits]
    | succ n =>
      rw [List.getD_cons_succ, ← ih n, bits, bits, Nat.mul_succ, Nat.add_comm (b * n), Nat.pow_add, ← Nat.div_div_eq_div_mul,
        Nat.add_mul_div_left _ _ (Nat.two_pow_pos b), Nat.div_eq_of_lt (Nat.mod_lt _ (Nat.two_pow_pos b)), Nat.zero_add]

theorem laneAt_ofLanes {w n : Nat} (hw : w ∣ 64) (hn : n < 64 / w) (ls : List Nat) :
    laneAt (ofLanes w ls) w n = ls.getD n 0 % 2 ^ (8 * w) := by
  rw [ofLanes, laneAt_ofNat hw hn, bits_foldr_lanes]

/-- The vector of some lanes is the one that has them. -/
theorem ofLanes_eq {w : Nat} (hw : w ∣ 64) {ls : List Nat} {x : VWord} (h : ∀ n, n < 64 / w → laneAt x w n = ls.getD n 0 % 2 ^ (8 * w)) :
    ofLanes w ls = x :=
  eq_of_laneAt hw fun n hn => by rw [laneAt_ofLanes hw hn, h n hn]

theorem getD_map_upTo {α : Type} {k n : Nat} (hn : n < k) (f : Nat → α) (d : α) : ((upTo k).map f).getD n d = f n := by
  simp [upTo, List.getD, hn]

theorem zipWith_map_upTo {α β γ : Type} (g : α → β → γ) (a : Nat → α) (b : Nat → β) (k : Nat) :
    List.zipWith g ((upTo k).map a) ((upTo k).map b) = (upTo k).map (fun n => g (a n) (b n)) := by
  rw [List.zipWith_map, List.zipWith_self]

/-! ### Instructions that work lane by lane -/

/-- Two results of a lane are the same in the bits that the lane holds, and in their flags. -/
def SameLane (w : Nat) (a b : Nat × FpFlags) : Prop := a.1 % 2 ^ (8 * w) = b.1 % 2 ^ (8 * w) ∧ a.2 = b.2

theorem SameLane.refl (w : Nat) (a : Nat × FpFlags) : SameLane w a a := ⟨rfl, rfl⟩

/-- An instruction whose effect is a vector of lanes completes with them. -/
theorem givesLanes_of_laneDone {s : State} {i : Instr} {q f : Opnds → Vals → State → Nat → Nat × FpFlags}
    {rs : Opnds → Vals → State → List (Nat × FpFlags)}
    (hexec : Sys2Proof.Machine.exec i s = .next (s.issue i (fun o v t => laneDone t (laneBytes o.t) (rs o v t))))
    (hrs : ∀ o v t, rs o v t = (upTo (64 / laneBytes o.t)).map (q o v t))
    (hlane : ∀ o v t n, SameLane (laneBytes o.t) (q o v t n) (f o v t n)) : s.givesLanes i f := by
  refine completes_intro hexec ?_
  rintro v s1 s' r jump - ⟨rfl, rfl, x, rfl, hx⟩
  refine ⟨?_, same_raise s1 _⟩
  have hflags : ((upTo (64 / laneBytes i.opnds.t)).map (q i.opnds v s1)).foldl (fun a r => a.or r.2) FpFlags.zero
      = (upTo (64 / laneBytes i.opnds.t)).foldl (fun a n => a.or (f i.opnds v s1 n).2) FpFlags.zero := by
    rw [List.foldl_map]
    simp only [(hlane i.opnds v s1 _).2]
  have hvec : ofLanes (laneBytes i.opnds.t) (((upTo (64 / laneBytes i.opnds.t)).map (q i.opnds v s1)).map (·.1)) = x := by
    refine ofLanes_eq (laneBytes_dvd _) fun n hn => ?_
    rw [hx n hn, List.map_map, getD_map_upTo hn]
    exact (hlane i.opnds v s1 n).1.symm
  rw [laneDone, hrs, hflags, hvec]
  rfl

theorem givesLanes_of_vecEff {s : State} {i : Instr} {g : Opnds → Nat → Nat → Nat × FpFlags}
    {f : Opnds → Vals → State → Nat → Nat × FpFlags}
    (hexec : Sys2Proof.Machine.exec i s = .next (s.issue i (vecEff g)))
    (hlane : ∀ o v t n, SameLane (laneBytes o.t)
      (g o (laneAt (v.x.v (laneBytes o.t)) (laneBytes o.t) n) (laneAt (v.y.v (laneBytes o.t)) (laneBytes o.t) n)) (f o v t n)) :
    s.givesLanes i f :=
  givesLanes_of_laneDone hexec (fun _ _ _ => zipWith_map_upTo _ _ _ _) hlane

theorem givesLanes_of_vecUnary {s : State} {i : Instr} {g : Opnds → Nat → Nat × FpFlags}
    {f : Opnds → Vals → State → Nat → Nat × FpFlags}
    (hexec : Sys2Proof.Machine.exec i s = .next (s.issue i (vecUnary g)))
    (hlane : ∀ o v t n, SameLane (laneBytes o.t) (g o (laneAt (v.y.v (laneBytes o.t)) (laneBytes o.t) n)) (f o v t n)) :
    s.givesLanes i f :=
  givesLanes_of_laneDone hexec (fun _ _ _ => List.map_map) hlane

/-- An instruction whose effect is a vector of these lanes completes with the vector that has them. -/
theorem completes_ofLanes {s : State} {i : Instr} {ls : Opnds → Vals → State → List Nat} {R : Opnds → Vals → State → VWord → Prop}
    (hexec : Sys2Proof.Machine.exec i s = .next (s.issue i (fun o v t => Done.result t (.v (ofLanes (laneBytes o.t) (ls o v t))))))
    (h : ∀ o v t x, R o v t x → ∀ n, n < 64 / laneBytes o.t →
      laneAt x (laneBytes o.t) n = (ls o v t).getD n 0 % 2 ^ (8 * laneBytes o.t)) :
    s.completes i (fun o v s1 s' r jump => s' = s1 ∧ jump = none ∧ ∃ x : VWord, r = some (.v x) ∧ R o v s1 x) :=
  completes_value .v hexec fun _ s1 _ hx => congrArg (fun w => Done.result s1 (.v w)) (ofLanes_eq (laneBytes_dvd _) (h _ _ _ _ hx))

theorem givesVec_of_result {s : State} {i : Instr} {g : Opnds → Vals → VWord}
    (hexec : Sys2Proof.Machine.exec i s = .next (s.issue i (fun o v t => Done.result t (.v (g o v))))) : s.givesVec i (fun o v _ => g o v) := by
  refine completes_intro hexec ?_
  rintro v s1 s' r jump - ⟨rfl, rfl, rfl⟩
  exact ⟨rfl, Same.refl s'⟩

end Sys2Proof.Machine
end

section
/-! PROOF. Vector arithmetic (O12): each instruction by its lanes. -/

namespace Sys2Proof.Machine

/-- Settles O12: the lanes of the operands give the lanes and the flags of the result. -/
theorem vectorFloatResults : Obligations.VectorFloatResults := by
  unfold Obligations.VectorFloatResults
  intro e s
  refine ⟨?vadd, ?vsub, ?vmul, ?vfma, ?vmin, ?vmax, ?vsel, ?vmov⟩
  case vadd => exact givesLanes_of_vecEff rfl (fun _ _ _ _ => .refl _ _)
  case vsub => exact givesLanes_of_vecEff rfl (fun _ _ _ _ => .refl _ _)
  case vmul => exact givesLanes_of_vecEff rfl (fun _ _ _ _ => .refl _ _)
  case vfma =>
    refine givesLanes_of_laneDone rfl (fun o v t => ?_) (fun _ _ _ _ => .refl _ _)
    simp only [lanes_eq]
    rw [List.zip, zipWith_map_upTo, zipWith_map_upTo]
  case vmin => exact givesLanes_of_vecEff rfl (fun _ _ _ _ => .refl _ _)
  case vmax => exact givesLanes_of_vecEff rfl (fun _ _ _ _ => .refl _ _)
  case vsel =>
    refine completes_ofLanes rfl (fun o v t x hx n hn => ?_)
    rw [hx n hn, getD_map_upTo hn]
    split <;> rw [laneAt_mod]
  case vmov => exact givesVec_of_result rfl

end Sys2Proof.Machine
end

section
/-! PROOF. Approximations, signs, conversion and compare of vectors (O13): integer lanes as signed numbers, signs bit by bit, the mask of a
compare bit by bit. -/

namespace Sys2Proof.Machine

/-! ### Signed lanes (R197, R200) -/

theorem toSigned_of_lt {n a : Nat} (h : a < 2 ^ n) : toSigned n a = if a < 2 ^ (n - 1) then (a : Int) else (a : Int) - 2 ^ n := by
  unfold toSigned
  rw [Nat.mod_eq_of_lt h]

theorem ofSigned_natCast (n a : Nat) : ofSigned n (a : Int) = a % 2 ^ n := by
  unfold ofSigned
  rw [← Int.natCast_emod, Int.toNat_natCast]

theorem ofSigned_sub_pow (n : Nat) (x : Int) : ofSigned n (x - 2 ^ n) = ofSigned n x := by
  unfold ofSigned
  push_cast
  rw [Int.sub_emod_right]

/-- The magnitude of a lane that holds a signed number (R197). -/
theorem ofSigned_natAbs_toSigned {n b : Nat} (hb : b < 2 ^ n) :
    ofSigned n (toSigned n b).natAbs = (if b < 2 ^ (n - 1) then b else 2 ^ n - b) % 2 ^ n := by
  have hcast : ((2 ^ n : Nat) : Int) = 2 ^ n := by push_cast; rfl
  rw [ofSigned_natCast, toSigned_of_lt hb, ← hcast]
  split
  · rfl
  · congr 1; omega

/-- The negation of a lane that holds a signed number (R197). -/
theorem ofSigned_neg_toSigned {n b : Nat} (hb : b < 2 ^ n) : ofSigned n (-(toSigned n b)) = (2 ^ n - b) % 2 ^ n := by
  have hneg : ((2 ^ n - b : Nat) : Int) - 2 ^ n = -(b : Int) := by push_cast [hb.le]; ring
  rw [← ofSigned_natCast, ← ofSigned_sub_pow n ((2 ^ n - b : Nat) : Int), hneg, toSigned_of_lt hb]
  split
  · rfl
  · rw [← ofSigned_sub_pow]
    congr 1; ring

theorem absLane_eq {t b : Nat} (hb : b < 2 ^ (8 * laneBytes t)) :
    absLane t b % 2 ^ (8 * laneBytes t) = (if 6 ≤ t then (if b < 2 ^ (8 * laneBytes t - 1) then b else 2 ^ (8 * laneBytes t) - b)
      else b % 2 ^ (8 * laneBytes t - 1)) % 2 ^ (8 * laneBytes t) := by
  unfold absLane
  dsimp only
  split
  · rw [ofSigned_natAbs_toSigned hb, Nat.mod_mod]
  · rfl

/-! ### Signs of lanes of the formats (R197) -/

theorem signAt_eq {t : Nat} (h : t < 6) : (fmtOf t).signAt = 8 * laneBytes t - 1 := by
  interval_cases t <;> rfl

theorem code_flip (f : Fmt) {b : Nat} (hb : b < 2 ^ (f.signAt + 1)) :
    f.code (!b.testBit f.signAt) (b % 2 ^ f.signAt) = b ^^^ 2 ^ f.signAt := by
  apply Nat.eq_of_testBit_eq
  intro k
  rw [testBit_code f _ (Nat.mod_lt _ (Nat.two_pow_pos _)), Nat.testBit_xor, Nat.testBit_two_pow, Nat.testBit_mod_two_pow]
  rcases lt_trichotomy k f.signAt with h | rfl | h
  · simp [h, h.ne, h.ne']
  · simp
  · have hhigh : b.testBit k = false := Nat.testBit_lt_two_pow (hb.trans_le (Nat.pow_le_pow_right (by decide) h))
    simp [h.ne, h.ne', hhigh, h.not_gt]

theorem negLane_eq {t b : Nat} (hb : b < 2 ^ (8 * laneBytes t)) :
    negLane t b % 2 ^ (8 * laneBytes t)
      = (if 6 ≤ t then 2 ^ (8 * laneBytes t) - b else b ^^^ 2 ^ (8 * laneBytes t - 1)) % 2 ^ (8 * laneBytes t) := by
  unfold negLane
  dsimp only
  split
  · rw [ofSigned_neg_toSigned hb, Nat.mod_mod]
  · rename_i ht
    have hsign : (fmtOf t).signAt = 8 * laneBytes t - 1 := signAt_eq (by omega)
    have hwidth : (fmtOf t).signAt + 1 = 8 * laneBytes t := by have := laneBytes_pos t; omega
    rw [← hsign, code_flip _ (by rwa [hwidth])]

/-! ### The mask of a compare (R199) -/

theorem testBit_foldr_mask (l : List (Bool × FpFlags)) (n : Nat) :
    (l.foldr (fun (r : Bool × FpFlags) a => r.1.toNat + 2 * a) 0).testBit n = (l.map (·.1)).getD n false := by
  induction l generalizing n with
  | nil => simp
  | cons r l ih =>
    rw [List.foldr_cons, List.map_cons]
    cases n with
    | zero =>
      cases r.1 <;> simp [Nat.testBit_zero]
    | succ n =>
      rw [List.getD_cons_succ, ← ih n, Nat.testBit_succ]
      congr 1
      have := Bool.toNat_le r.1
      omega

theorem getD_map_upTo_of_le {α : Type} {k n : Nat} (hn : k ≤ n) (f : Nat → α) (d : α) : ((upTo k).map f).getD n d = d := by
  simp [upTo, List.getD, hn]

theorem maskWord_eq {k : Nat} {c : Nat → Bool × FpFlags} {m : Word} (h : ∀ n, m.getLsbD n = (decide (n < k) && (c n).1)) :
    BitVec.ofNat 64 (((upTo k).map c).foldr (fun (r : Bool × FpFlags) a => r.1.toNat + 2 * a) 0) = m := by
  refine BitVec.eq_of_getLsbD_eq fun n hn => ?_
  rw [h n, BitVec.getLsbD_ofNat, decide_eq_true hn, Bool.true_and, testBit_foldr_mask, List.map_map]
  by_cases hlt : n < k
  · rw [getD_map_upTo hlt, decide_eq_true hlt]; rfl
  · rw [getD_map_upTo_of_le (by omega), decide_eq_false hlt, Bool.false_and]

/-- Settles O13: each lane by its function, VCVT by its lanes in order, VCMP by the bits of k1. -/
theorem vectorUnaryResults : Obligations.VectorUnaryResults := by
  unfold Obligations.VectorUnaryResults
  intro e s
  refine ⟨?vrcp, ?vrsq, ?vexp2, ?vlog2, ?vabs, ?vneg, ?vcvt, ?vcmp⟩
  case vrcp => exact givesLanes_of_vecUnary rfl (fun _ _ _ _ => .refl _ _)
  case vrsq => exact givesLanes_of_vecUnary rfl (fun _ _ _ _ => .refl _ _)
  case vexp2 => exact givesLanes_of_vecUnary rfl (fun _ _ _ _ => .refl _ _)
  case vlog2 => exact givesLanes_of_vecUnary rfl (fun _ _ _ _ => .refl _ _)
  case vabs => exact givesLanes_of_vecUnary rfl (fun o v _ n => ⟨absLane_eq (laneAt_lt _ _ _), rfl⟩)
  case vneg => exact givesLanes_of_vecUnary rfl (fun o v _ n => ⟨negLane_eq (laneAt_lt _ _ _), rfl⟩)
  case vcvt =>
    refine completes_intro (eff := effVcvt) rfl ?_
    rintro v s1 s' r jump - ⟨rfl, rfl, rfl⟩
    refine ⟨?_, (same_ite (same_modCx s1 _) (Same.refl s1)).trans (same_raise _ _)⟩
    unfold effVcvt laneDone
    simp only [Bool.and_eq_true, decide_eq_true_eq]
    rfl
  case vcmp =>
    refine completes_intro (eff := effVcmp) rfl ?_
    rintro v s1 s' r jump - ⟨rfl, rfl, k, hk, rfl⟩
    refine ⟨?_, (same_raise s1 _).trans (same_modCx _ _)⟩
    unfold effVcmp
    dsimp only
    rw [lanes_eq, lanes_eq, zipWith_map_upTo, maskWord_eq hk, List.foldl_map]
    rfl

end Sys2Proof.Machine
end

section
/-! PROOF. Vector integers (O14): sums as signed numbers, products and shifts modulo the width. -/

namespace Sys2Proof.Machine

/-- A sum or difference as R200 gives it: saturated with S, and in both cases modulo 2^n. -/
theorem satLane_eq (n : Nat) (sat : Bool) (x : Int) :
    satLane n sat x = if sat then ((max (-(2 ^ (n - 1))) (min (2 ^ (n - 1) - 1) x)) % 2 ^ n).toNat else (x % 2 ^ n).toNat := by
  unfold satLane ofSigned
  push_cast
  cases sat <;> rfl

/-- VIADD and VISUB by the sum or difference of the operands' lanes as signed numbers. -/
theorem sameLane_satLane {w : Nat} (sat : Bool) {a b : Nat} {op : Int → Int → Int} (ha : a < 2 ^ (8 * w)) (hb : b < 2 ^ (8 * w)) :
    SameLane w (noFlags (satLane (8 * w) sat (op (toSigned (8 * w) a) (toSigned (8 * w) b))))
      (let x := op (if a < 2 ^ (8 * w - 1) then (a : Int) else (a : Int) - 2 ^ (8 * w))
          (if b < 2 ^ (8 * w - 1) then (b : Int) else (b : Int) - 2 ^ (8 * w))
       (if sat then ((max (-(2 ^ (8 * w - 1))) (min (2 ^ (8 * w - 1) - 1) x)) % 2 ^ (8 * w)).toNat else (x % 2 ^ (8 * w)).toNat,
        FpFlags.zero)) := by
  rw [satLane_eq, toSigned_of_lt ha, toSigned_of_lt hb]
  exact ⟨rfl, rfl⟩

/-- Settles O14: each instruction by its lanes, sums as signed numbers. -/
theorem vectorIntegerResults : Obligations.VectorIntegerResults := by
  unfold Obligations.VectorIntegerResults
  intro e s sum x y sg
  refine ⟨?viadd, ?visub, ?vimul, ?vand, ?vor, ?vxor, ?vshl, ?vshr⟩
  case viadd => exact givesLanes_of_vecEff rfl (fun o _ _ _ => sameLane_satLane (op := (· + ·)) o.s (laneAt_lt _ _ _) (laneAt_lt _ _ _))
  case visub => exact givesLanes_of_vecEff rfl (fun o _ _ _ => sameLane_satLane (op := (· - ·)) o.s (laneAt_lt _ _ _) (laneAt_lt _ _ _))
  case vimul => exact givesLanes_of_vecEff rfl (fun _ _ _ _ => ⟨Nat.mod_mod _ _, rfl⟩)
  case vand => exact givesLanes_of_vecEff rfl (fun _ _ _ _ => .refl _ _)
  case vor => exact givesLanes_of_vecEff rfl (fun _ _ _ _ => .refl _ _)
  case vxor => exact givesLanes_of_vecEff rfl (fun _ _ _ _ => .refl _ _)
  case vshl => exact givesLanes_of_vecEff rfl (fun _ _ _ _ => ⟨Nat.mod_mod _ _, rfl⟩)
  case vshr => exact givesLanes_of_vecEff rfl (fun _ _ _ _ => .refl _ _)

end Sys2Proof.Machine
end

section
/-! PROOF. Vector data movement and reduction (O15): a vector of lanes by what stands in each, reductions by their tree. -/

namespace Sys2Proof.Machine

/-! ### Vectors from lanes (R201) -/

theorem bits_withBits (v b m n x : Nat) : bits (withBits v (b * m) b x) (b * n) b = if n = m then x % 2 ^ b else bits v (b * n) b := by
  apply Nat.eq_of_testBit_eq
  intro k
  rw [testBit_bits, testBit_withBits]
  by_cases hk : k < b
  · rw [decide_eq_true hk, Bool.true_and]
    rcases lt_trichotomy n m with h | rfl | h
    · have : b * n + b ≤ b * m := by rw [← Nat.mul_succ]; exact Nat.mul_le_mul_left b h
      rw [if_neg h.ne, if_neg (by omega), testBit_bits, decide_eq_true hk, Bool.true_and]
    · rw [if_pos rfl, if_pos (by omega), Nat.testBit_mod_two_pow, decide_eq_true hk, Nat.add_sub_cancel_left, Bool.true_and]
    · have : b * m + b ≤ b * n := by rw [← Nat.mul_succ]; exact Nat.mul_le_mul_left b h
      rw [if_neg h.ne', if_neg (by omega), testBit_bits, decide_eq_true hk, Bool.true_and]
  · rw [decide_eq_false hk, Bool.false_and]
    split <;> simp [testBit_bits, Nat.testBit_mod_two_pow, hk]

theorem getD_map_append {h n : Nat} (a b : Nat → Nat) (hn : n < h + h) :
    ((upTo h).map a ++ (upTo h).map b).getD n 0 = if n < h then a n else b (n - h) := by
  have hlen : ((upTo h).map a).length = h := by simp [upTo]
  split <;> rename_i hlt
  · rw [List.getD_append _ _ _ _ (by rwa [hlen]), getD_map_upTo hlt]
  · rw [List.getD_append_right _ _ _ _ (by rw [hlen]; omega), hlen, getD_map_upTo (by omega)]

theorem getD_flatMap_pair {h j : Nat} (a b : Nat → Nat) (hj : j < h) :
    ((upTo h).flatMap (fun j => [a j, b j])).getD (2 * j) 0 = a j ∧ ((upTo h).flatMap (fun j => [a j, b j])).getD (2 * j + 1) 0 = b j := by
  induction h generalizing a b j with
  | zero => omega
  | succ h ih =>
    unfold upTo at ih ⊢
    rw [List.range_succ_eq_map, List.flatMap_cons, List.flatMap_map]
    cases j with
    | zero => exact ⟨rfl, rfl⟩
    | succ j => exact ih (fun k => a (k + 1)) (fun k => b (k + 1)) (by omega)

/-- Every type has an even number of lanes. -/
theorem lanes_eq_two_halves (t : Nat) : 64 / laneBytes t = 64 / laneBytes t / 2 + 64 / laneBytes t / 2 := by
  unfold laneBytes
  split <;> rfl

/-! ### Reduction (R202, R203) -/

theorem toSigned_eq_toInt (k x : Nat) : toSigned (k + 1) x = (BitVec.ofNat (k + 1) x).toInt := by
  rw [BitVec.toInt_eq_toNat_cond, BitVec.toNat_ofNat]
  unfold toSigned
  push_cast
  refine if_congr ?_ rfl rfl
  generalize x % 2 ^ (k + 1) = y
  omega

/-- Settles O15: the movements lane by lane, VRED and VDOT by the operands' lanes in order. -/
theorem vectorMoveResults : Obligations.VectorMoveResults := by
  unfold Obligations.VectorMoveResults
  intro e s
  refine ⟨?vbcst, ?vperm, ?vextr, ?vins, ?vpack, ?vunpk, ?vred, ?vdot⟩
  case vbcst =>
    refine completes_ofLanes rfl (fun o v t x hx n hn => ?_)
    have hword : 8 * laneBytes o.t ≤ 64 := by have := laneBytes_le o.t; omega
    rw [hx n hn, List.getD_replicate _ hn, BitVec.toNat_ofNat, Nat.mod_mod_of_dvd _ (Nat.pow_dvd_pow 2 hword), laneAt_mod]
  case vperm =>
    refine completes_ofLanes rfl (fun o v t x hx n hn => ?_)
    rw [hx n hn, lanes_eq, List.map_map, getD_map_upTo hn, Function.comp]
    split
    · rw [laneAt_mod]
    · rfl
  case vextr => exact gives_of_result rfl (fun _ _ _ => rfl)
  case vins =>
    refine completes_value .v (eff := effVins) rfl (fun v s1 x hx => ?_)
    refine congrArg (fun w => Done.result s1 (.v w)) (eq_of_laneAt (laneBytes_dvd (Instr.vins e).opnds.t) fun n hn => ?_)
    rw [hx n hn, laneAt_ofNat (laneBytes_dvd _) hn, bits_withBits]
    rfl
  case vpack =>
    refine completes_ofLanes rfl (fun o v t x hx n hn => ?_)
    rw [hx n hn, getD_map_append _ _ (by rwa [← lanes_eq_two_halves])]
    split <;> rw [laneAt_mod]
  case vunpk =>
    refine completes_ofLanes rfl (fun o v t x hx n hn => ?_)
    have hj : n / 2 < 64 / laneBytes o.t / 2 := by have := lanes_eq_two_halves o.t; omega
    obtain ⟨heven, hodd⟩ := hx (n / 2) hj
    rcases Nat.mod_two_eq_zero_or_one n with h | h
    · rw [show n = 2 * (n / 2) by omega, (getD_flatMap_pair _ _ hj).1, laneAt_mod, heven]
    · rw [show n = 2 * (n / 2) + 1 by omega, (getD_flatMap_pair _ _ hj).2, laneAt_mod, hodd]
  case vred =>
    refine completes_intro (eff := effVred) rfl ?_
    rintro v s1 s' r jump - ⟨rfl, h⟩
    dsimp only at h
    unfold effVred
    dsimp only
    split at h
    · rename_i ht
      obtain ⟨rfl, rfl⟩ := h
      rw [if_pos ht]
      exact ⟨rfl, Same.refl _⟩
    · rename_i ht
      obtain ⟨rfl, rfl⟩ := h
      rw [if_neg ht]
      refine ⟨?_, same_raise _ _⟩
      split
      · rename_i hroot
        rw [hroot]; rfl
      · rename_i hroot
        rw [hroot]; rfl
  case vdot =>
    refine completes_intro (eff := effVdot) rfl ?_
    rintro v s1 s' r jump - ⟨rfl, h⟩
    dsimp only at h
    unfold effVdot
    dsimp only
    split at h
    · rename_i ht
      obtain ⟨rfl, rfl⟩ := h
      rw [if_pos ht, ht]
      refine ⟨?_, Same.refl _⟩
      rw [lanes_eq, lanes_eq, zipWith_map_upTo, List.foldl_map]
      simp only [toSigned_eq_toInt 7]
      rfl
    · rename_i ht
      obtain ⟨rfl, rfl⟩ := h
      rw [if_neg ht]
      refine ⟨?_, same_raise _ _⟩
      rw [lanes_eq, lanes_eq, zipWith_map_upTo]
      rfl

end Sys2Proof.Machine
end

section
/-! PROOF. Quantisers, the generator and the masks (O16): the registers that a quantiser reads exist where it starts. -/

namespace Sys2Proof.Machine

/-! ### The registers that a quantiser reads beside X (R204, R205) -/

/-- None of the limits that a form states of its own is broken where an instruction starts (R42). -/
theorem extra_of_starts {i : Instr} {c : Code} {sh : Shape} {s : State} {r : Vals × State} (hform : formOf i = some (c, sh))
    (h : s.starts i = some r) : sh.extra i.opnds = [] := by
  obtain ⟨hc, row, hrow, rfl⟩ := row_of_formOf hform
  obtain ⟨-, -, hlegal⟩ := (wellFormed_iff hc hrow).1 (starts_wellFormed h)
  rw [opnds_of_formOf hform]
  exact (List.append_eq_nil_iff.1 hlegal).2

theorem vmxq_next_register {e : Fields} {s : State} {r : Vals × State} (h : s.starts (.vmxq e) = some r) (ht : (Instr.vmxq e).opnds.t = 0) :
    (Instr.vmxq e).opnds.x + 1 < 48 := by
  have hextra := extra_of_starts (c := ⟨false, 25, 0, e⟩) (sh := .vmxqShape) rfl h
  generalize (Instr.vmxq e).opnds = o at hextra ht ⊢
  have heven : (32 ≤ o.x ∧ o.x ≤ 47) ∧ o.x % 2 = 0 := by
    simp only [Shape.vmxqShape, List.append_eq_nil_iff] at hextra
    simpa [subIf, isVecName, ht] using hextra.1.2
  omega

theorem vnqq_next_registers {e : Fields} {s : State} {r : Vals × State} (h : s.starts (.vnqq e) = some r) :
    (Instr.vnqq e).opnds.x + 3 < 48 := by
  have hextra := extra_of_starts (c := ⟨false, 25, 1, e⟩) (sh := .vnqqShape) rfl h
  generalize (Instr.vnqq e).opnds = o at hextra ⊢
  have hfour : (32 ≤ o.x ∧ o.x ≤ 47) ∧ o.x % 4 = 0 := by simpa [Shape.vnqqShape, subIf, isVecName] using hextra
  omega

theorem busyRun_three (s : State) (x : Nat) : s.busyRun (x + 1) 3 = (s.busy (x + 1) || s.busy (x + 2) || s.busy (x + 3)) := by
  simp [State.busyRun, upTo, List.range_succ, Bool.or_assoc, Nat.add_assoc]

/-- Settles O16: each instruction by its effect, the registers beside X read where they stand. -/
theorem quantiserMaskResults : Obligations.QuantiserMaskResults := by
  unfold Obligations.QuantiserMaskResults
  intro e s
  refine ⟨?vmxq, ?vnqq, ?vsrs, ?kmov⟩
  case vmxq =>
    refine completes_intro (eff := effVmxq) rfl ?_
    rintro v s1 s' r jump hstarts ⟨rfl, hbusy, rfl, rfl⟩
    refine ⟨?_, (same_ite (same_modCx s1 _) (Same.refl s1)).trans (same_raise _ _)⟩
    have hx := vmxq_next_register hstarts
    unfold effVmxq
    by_cases ht : (Instr.vmxq e).opnds.t = 0
    · simp only [ht, hbusy ht, furtherVec_register (hx ht), if_true, decide_true, Bool.and_false, Bool.false_eq_true, if_false]
      rfl
    · simp only [ht, if_false, decide_false, Bool.false_and, Bool.false_eq_true]
      rfl
  case vnqq =>
    refine completes_intro (eff := effVnqq) rfl ?_
    rintro v s1 s' r jump hstarts ⟨rfl, hbusy, rfl, rfl⟩
    refine ⟨?_, same_raise _ _⟩
    have hx := vnqq_next_registers hstarts
    unfold effVnqq
    have h1 : (Instr.vnqq e).opnds.x + 1 < 48 := by omega
    have h2 : (Instr.vnqq e).opnds.x + 2 < 48 := by omega
    simp only [busyRun_three, hbusy, Bool.false_eq_true, if_false, furtherVec_register h1, furtherVec_register h2, furtherVec_register hx]
    rfl
  case vsrs =>
    refine does_intro (eff := effVsrs) rfl (fun v s1 _ => ⟨?_, same_modCx s1 _⟩)
    unfold effVsrs
    have hzero : v.x.s = 0 ↔ v.x.s.toNat = 0 := by rw [← BitVec.toNat_inj]; rfl
    simp only [hzero]
    rfl
  case kmov =>
    refine completes_intro (eff := effKmov) rfl ?_
    rintro v s1 s' r jump - ⟨rfl, h⟩
    unfold effKmov
    split at h <;> rename_i hy <;> obtain ⟨rfl, rfl⟩ := h
    · rw [if_pos hy]
      exact ⟨rfl, same_modCx s1 _⟩
    · rw [if_neg hy]
      exact ⟨rfl, Same.refl _⟩

end Sys2Proof.Machine
end

section
/-! PROOF. The matrix unit (O51): the start of a command, what its completion leaves when it has run and when it has failed, what a drain
writes. -/

namespace Sys2Proof.Machine

/-! ### Tables without some of their keys -/

theorem mfind_filter_key {α : Type} (m : Map α) (p : Nat → Bool) (i : Nat) :
    mfind (m.filter (fun kv => p kv.1)) i = if p i = true then mfind m i else none := by
  induction m with
  | nil => simp [mfind]
  | cons kv m ih =>
    obtain ⟨k, v⟩ := kv
    rw [List.filter_cons]
    by_cases hik : i = k
    · subst hik
      cases hp : p i <;> simp [mfind, ih, hp]
    · cases hp : p k <;> simp [mfind, ih, hik]

theorem mfind_merase_other {α : Type} (m : Map α) {i j : Nat} (h : j ≠ i) : mfind (merase m i) j = mfind m j :=
  (mfind_filter_key m (· != i) j).trans (if_pos (bne_iff_ne.2 h))

/-- A tile that is not listed is all zero. -/
theorem tileAt_merase (ts : Map Tile) (x i j : Nat) : tileAt (mget ([] : Tile) (merase ts x) x) i j = 0 := by
  unfold mget
  rw [mfind_merase_self]
  rfl

/-- What stays of a tile without its first rows. -/
theorem tileAt_rowsFrom (t : Tile) (n i : Nat) {j : Nat} (hj : j < 64) :
    tileAt (t.filter (fun e => decide (n * 64 ≤ e.1))) i j = if i < n then 0 else tileAt t i j := by
  unfold tileAt mget
  rw [mfind_filter_key t (fun k => decide (n * 64 ≤ k))]
  by_cases hi : i < n
  · have hgone : ¬ n * 64 ≤ i * 64 + j := by omega
    simp [hi, hgone]
  · have hkept : n * 64 ≤ i * 64 + j := by omega
    simp [hi, hkept]

/-! ### The start (R221, R224) -/

theorem settleAtStart_of_range {m : MatCmd} (hrange : m.range ≠ none) (s : State) (cl : Nat) (f : VWord) : s.settleAtStart cl f m = m := by
  obtain ⟨rs, hrs⟩ := Option.ne_none_iff_exists'.1 hrange
  unfold State.settleAtStart
  rw [hrs]

/-- The command has left its queue and runs with the format context in force (R221). -/
def State.matStarted (s : State) (cl i : Nat) (m : MatCmd) (rest : List MatCmd) : State :=
  (s.modCore (coreAt cl i) (fun c => { c with mq := rest })).modCluster cl (fun k =>
    { k with runs := k.runs ++ [{ cidx := i, cmd := m, status := 0, fmt := mget (0 : VWord) (s.cluster cl).fmts i, ended := none }] })

/-- A command that nothing fails starts; MBLD and MCFG do more than that. -/
theorem startHead_of_fit {s : State} {cl i : Nat} {m : MatCmd} {rest : List MatCmd} (hload : m.kind ≠ 4) (hcfg : m.kind ≠ 6)
    (hrange : m.range ≠ none)
    (hfit : (s.modCore (coreAt cl i) (fun c => { c with mq := rest })).startFail cl (mget (0 : VWord) (s.cluster cl).fmts i) m = none) :
    s.startHead cl i m rest = s.matStarted cl i m rest := by
  unfold State.startHead
  dsimp only
  rw [State.modCore_cluster_get, settleAtStart_of_range hrange, if_neg hcfg, hfit]
  dsimp only
  rw [if_neg hload]
  rfl

theorem matStarted_mq (s : State) (cl i : Nat) (m : MatCmd) (rest : List MatCmd) :
    ((s.matStarted cl i m rest).core (coreAt cl i)).mq = rest := by
  unfold State.matStarted
  rw [State.modCluster_core_get, State.core_modCore_self]

theorem matStarted_cluster (s : State) (cl i : Nat) (m : MatCmd) (rest : List MatCmd) :
    (s.matStarted cl i m rest).cluster cl = { s.cluster cl with runs := (s.cluster cl).runs ++
      [{ cidx := i, cmd := m, status := 0, fmt := mget (0 : VWord) (s.cluster cl).fmts i, ended := none }] } :=
  State.cluster_modCluster_self _ _ _

theorem account_matStarted (s : State) (cl i : Nat) (m : MatCmd) (rest : List MatCmd) : Account s (s.matStarted cl i m rest) := by
  refine (account_modCore s _ ?_ ?_).trans (account_modCluster _ cl ?_)
  · exact fun _ => rfl
  · exact fun _ _ => rfl
  · exact fun _ => rfl

theorem start_of_next {s : State} {cl i n : Nat} {m : MatCmd} {rest : List MatCmd} (hnext : s.nextQueue cl = some (i, n))
    (hq : (s.core (coreAt cl i)).mq = m :: rest) :
    Sys2Proof.Machine.exec (.matrixCommandStart cl) s
      = .next ((s.startHead cl i m rest).modCluster cl (fun k => { k with mrr := (i, n) })) := by
  change execMatrixCommandStart cl s = _
  unfold execMatrixCommandStart
  rw [hnext]
  dsimp only
  rw [hq]

/-! ### The completion element and the ring entry (R222) -/

theorem matElement_done (m : MatCmd) (o v : Bool) :
    matElement m 0 o v = BitVec.ofNat 64 (m.w2.toNat % 2 ^ 32 + m.kind * 2 ^ 40 + v.toNat * 2 ^ 44 + o.toNat * 2 ^ 45) := by
  unfold matElement
  rw [wfield_low, Nat.zero_mul, Nat.add_zero]

theorem matElement_plain (m : MatCmd) (status : Nat) :
    matElement m status false false = BitVec.ofNat 64 (m.w2.toNat % 2 ^ 32 + status * 2 ^ 32 + m.kind * 2 ^ 40) := by
  simp [matElement, wfield_low]

/-- A core with one more completion element. -/
def Core.pushElement (c : Core) (el : Word) : Core := { c with cq := c.cq ++ [el] }

/-- Pushes a completion element to a core that is not poisoned. -/
def State.pushElement (s : State) (p : Nat) (el : Word) : State :=
  if (s.core p).poisoned then s else s.modCore p (·.pushElement el)

/-- After the end of a command: its element is pushed, and its ring entry is seen to. -/
def State.commandEnded (s : State) (p : Nat) (el : Word) (g : Core → Core) : State := (s.pushElement p el).modCore p g

theorem commandEnded_clusters (s : State) (p : Nat) (el : Word) (g : Core → Core) : (s.commandEnded p el g).clusters = s.clusters := by
  unfold State.commandEnded State.pushElement
  split <;> rfl

theorem commandEnded_cluster (s : State) (p : Nat) (el : Word) (g : Core → Core) (c : Nat) :
    (s.commandEnded p el g).cluster c = s.cluster c :=
  congrArg (fun x => mget Cluster.fresh x c) (commandEnded_clusters s p el g)

theorem commandEnded_core {s : State} {p : Nat} (hsound : (s.core p).poisoned = false) (el : Word) (g : Core → Core) :
    (s.commandEnded p el g).core p = g ((s.core p).pushElement el) := by
  unfold State.commandEnded State.pushElement
  rw [if_neg (by rw [hsound]; exact Bool.false_ne_true), State.core_modCore_self, State.core_modCore_self]

theorem sameMemory_commandEnded (s : State) (p : Nat) (el : Word) {g : Core → Core} (hg : ∀ c, (g c).mem = c.mem) :
    SameMemory s (s.commandEnded p el g) := by
  unfold State.commandEnded State.pushElement
  split
  · exact sameMemory_modCore s p hg
  · exact (sameMemory_modCore s p (f := (·.pushElement el)) (fun _ => rfl)).trans (sameMemory_modCore _ p hg)

/-- A core whose command has run: the ring entry is free. -/
def Core.matFreed (c : Core) (m : MatCmd) : Core := { c with ring := merase c.ring m.ring }

/-- The ring entry of a command that has failed, with its late fault (R330). -/
def RingEntry.matFaulted (g : RingEntry) (m : MatCmd) (status : Nat) : RingEntry :=
  { g with st := 2, cls := 0x0E, sub := status, info := BitVec.ofNat 64 (wfield m.w2 0 32) }

/-- A core whose command has failed. -/
def Core.matFaulted (c : Core) (m : MatCmd) (status : Nat) : Core :=
  match mfind c.ring m.ring with
  | some g => { c with ring := mset c.ring m.ring (g.matFaulted m status) }
  | none => c

theorem matFaulted_mem (c : Core) (m : MatCmd) (status : Nat) : (c.matFaulted m status).mem = c.mem := by
  unfold Core.matFaulted
  split <;> rfl

theorem matFaulted_cq (c : Core) (m : MatCmd) (status : Nat) : (c.matFaulted m status).cq = c.cq := by
  unfold Core.matFaulted
  split <;> rfl

theorem matFaulted_ring {c : Core} {m : MatCmd} {g : RingEntry} (hg : mfind c.ring m.ring = some g) (status : Nat) :
    mfind (c.matFaulted m status).ring m.ring = some (g.matFaulted m status) := by
  unfold Core.matFaulted
  rw [hg]
  exact (mfind_mset _ _ _ _).trans (if_pos rfl)

/-- A failure with one of the statuses NOBANK, VERSION, OPERAND and ILLFORM stands in the ring entry and has no further effect. -/
theorem matFault_of_plain {e : MatFail} (he : e.status ≤ 4) (s : State) (p : Nat) (m : MatCmd) (met : Bool) :
    s.matFault p m e met = s.modCore p (fun c => c.matFaulted m e.status) := by
  unfold State.matFault
  dsimp only
  split
  case h_5 => rfl
  all_goals omega

/-! ### The completion (R220, R221, R222) -/

/-- The started command of index `k` has left the list. -/
def State.runTaken (s : State) (cl k : Nat) : State := s.modCluster cl (fun c => { c with runs := c.runs.eraseIdx k })

theorem account_runTaken (s : State) (cl k : Nat) : Account s (s.runTaken cl k) := account_modCluster s cl (fun _ => rfl)

/-- A command waits for no comparison where it has failed, is no drain, or has no number as a paired operation. -/
theorem matStep_go {r : MatRun} (h : r.status ≠ 0 ∨ r.cmd.kind ≠ 2 ∨ r.cmd.pair = none) (s : State) (cl : Nat) : s.matStep cl r = .go := by
  unfold State.matStep
  refine if_pos ?_
  simp only [Bool.or_eq_true, bne_iff_ne, Option.isNone_iff_eq_none]
  exact Or.inl (or_assoc.2 h)

section

variable {s u : State} {cl k : Nat} {r : MatRun} {o v : Bool}

/-- The end of a command that no earlier one blocks and that waits for no comparison, as running it gives. -/
theorem complete_of_go (hrun : (s.cluster cl).runs[k]? = some r) (hfree : ∀ q ∈ (s.cluster cl).runs.take k, q.conflicts r = false)
    (hended : r.ended = none) (hgo : s.matStep cl r = .go) {f : Option MatFail} (hend : (s.runTaken cl k).runMatrix cl r = (f, o, v, u)) :
    Sys2Proof.Machine.exec (.matrixCommandComplete cl k) s = .next (match f with
      | none => u.commandEnded (coreAt cl r.cidx) (matElement r.cmd 0 o v) (·.matFreed r.cmd)
      | some e => (u.pushElement (coreAt cl r.cidx) (matElement r.cmd e.status o v)).matFault (coreAt cl r.cidx) r.cmd e true) := by
  have hclear : ((s.cluster cl).runs.take k).any (fun q => q.conflicts r) = false :=
    List.any_eq_false.2 (fun q hq => by rw [hfree q hq]; exact Bool.false_ne_true)
  have hreturn : u.returnPods cl r = u := by unfold State.returnPods; rw [hended]
  unfold State.runTaken at hend
  change execMatrixCommandComplete cl k s = _
  unfold execMatrixCommandComplete
  rw [hrun]
  dsimp only
  rw [hclear, hgo]
  dsimp only
  rw [hend, hreturn, hended]
  cases f <;> rfl

/-- The end of a command that has failed with such a status. -/
theorem complete_of_plain (hrun : (s.cluster cl).runs[k]? = some r) (hfree : ∀ q ∈ (s.cluster cl).runs.take k, q.conflicts r = false)
    (hended : r.ended = none) (hgo : s.matStep cl r = .go) {e : MatFail} (he : e.status ≤ 4)
    (hend : (s.runTaken cl k).runMatrix cl r = (some e, o, v, u)) :
    Sys2Proof.Machine.exec (.matrixCommandComplete cl k) s
      = .next (u.commandEnded (coreAt cl r.cidx) (matElement r.cmd e.status o v) (·.matFaulted r.cmd e.status)) :=
  (complete_of_go hrun hfree hended hgo hend).trans (congrArg _ (matFault_of_plain he _ _ _ _))

end

/-! ### MACZ (R220) -/

theorem clearErr_clusters (s : State) (st : Store) (a n : Nat) : (s.clearErr st a n).clusters = s.clusters := by
  unfold State.clearErr
  split <;> rfl

theorem runMatrix_macz {r : MatRun} (hstatus : r.status = 0) (hkind : r.cmd.kind = 3) (s : State) (cl : Nat) :
    s.runMatrix cl r = (none, false, false, (s.clearErr (.acc cl) (r.cmd.tile * 8192) 8192).modCluster cl (fun k =>
      { k with tiles := merase k.tiles r.cmd.tile })) := by
  unfold State.runMatrix
  dsimp only
  rw [hstatus, hkind]
  rfl

theorem macz_cluster (s : State) (cl x : Nat) :
    ((s.clearErr (.acc cl) (x * 8192) 8192).modCluster cl (fun k => { k with tiles := merase k.tiles x })).cluster cl
      = { s.cluster cl with tiles := merase (s.cluster cl).tiles x } := by
  rw [State.cluster_modCluster_self]
  unfold State.cluster
  rw [clearErr_clusters]

/-! ### Drains to programs' cluster memory, where no error mark stands (R220, R248) -/

theorem correct_of_noErrs {s : State} (herrs : s.errs = []) (p : Nat) (st : Store) (a n : Nat) : s.correct p st a n = s :=
  if_neg (by unfold State.softErr; rw [herrs]; exact Bool.false_ne_true)

theorem hardErr_of_noErrs {s : State} (herrs : s.errs = []) (st : Store) (a n : Nat) : s.hardErr st a n = false := by
  unfold State.hardErr
  rw [herrs]
  rfl

theorem partFix_of_noErrs {s : State} (herrs : s.errs = []) (p : Nat) (st : Store) (a n : Nat) : s.partFix p st a n = s := by
  unfold State.partFix
  rw [correct_of_noErrs herrs, ite_self]

/-- Pieces as they are written into a memory, in their order. -/
def putAll (ws : List (Nat × Nat × Nat)) (m : Mem) : Mem := ws.foldl (fun m x => bwrite m x.1 x.2.1 x.2.2) m

/-- Pieces as they are written into a cluster's memory. -/
def State.cluPutAll (s : State) (cl : Nat) (ws : List (Nat × Nat × Nat)) : State :=
  ws.foldl (fun s x => s.modCluster cl (fun c => { c with mem := bwrite c.mem x.1 x.2.1 x.2.2 })) s

theorem cluPutAll_cluster (cl : Nat) (ws : List (Nat × Nat × Nat)) (s : State) :
    (s.cluPutAll cl ws).cluster cl = { s.cluster cl with mem := putAll ws (s.cluster cl).mem } := by
  unfold State.cluPutAll putAll
  induction ws generalizing s with
  | nil => rfl
  | cons x ws ih => rw [List.foldl_cons, ih, State.cluster_modCluster_self, List.foldl_cons]

theorem cluPutAll_other {cl c : Nat} (hc : c ≠ cl) (ws : List (Nat × Nat × Nat)) (s : State) : (s.cluPutAll cl ws).cluster c = s.cluster c :=
  foldl_keeps (fun s => s.cluster c) (fun s _ => (State.cluster_modCluster s cl c _).trans (if_neg hc)) ws s

theorem cluPutAll_cores (cl : Nat) (ws : List (Nat × Nat × Nat)) (s : State) : (s.cluPutAll cl ws).cores = s.cores :=
  foldl_keeps State.cores (fun s _ => State.modCluster_cores s cl _) ws s

theorem cluPutAll_phys (cl : Nat) (ws : List (Nat × Nat × Nat)) (s : State) : (s.cluPutAll cl ws).phys = s.phys :=
  foldl_keeps State.phys (fun s _ => State.modCluster_phys s cl _) ws s

theorem drainPut_of_programs (cl p : Nat) (g : Agent) (ws : List (Nat × Nat × Nat)) {s : State} (herrs : s.errs = [])
    (hin : ∀ x ∈ ws, inPrograms x.1 x.2.1 = true) : s.drainPut cl p g ws = .ok (s.cluPutAll cl ws) := by
  induction ws generalizing s with
  | nil => rfl
  | cons x ws ih =>
    obtain ⟨a, n, v⟩ := x
    have hplace : inPrograms a n = true := hin _ List.mem_cons_self
    have hlog : a + n ≤ logBase := of_decide_eq_true ((Bool.and_eq_true _ _).mp hplace).2
    unfold State.drainPut
    rw [if_pos hplace]
    dsimp only
    rw [hardErr_of_noErrs herrs, Bool.and_false, if_neg Bool.false_ne_true, partFix_of_noErrs herrs, State.cluWrite, if_pos hlog,
      clearErr_of_noErrs (s := s.modCluster cl _) herrs]
    exact ih herrs (fun y hy => hin y (List.mem_cons_of_mem _ hy))

/-- After a drain that writes its pieces: with the zeroing option the drained rows are zero. -/
def State.afterDrain (s : State) (cl : Nat) (f : VWord) (m : MatCmd) : State :=
  let w := s.cluPutAll cl (s.drained cl f m)
  if m.opt then w.modCluster cl (fun c =>
    { c with tiles := mset c.tiles m.tile ((mget ([] : Tile) (s.cluster cl).tiles m.tile).filter (fun e => decide (m.rows * 64 ≤ e.1))) }) else w

theorem afterDrain_mem (s : State) (cl : Nat) (f : VWord) (m : MatCmd) :
    ((s.afterDrain cl f m).cluster cl).mem = putAll (s.drained cl f m) (s.cluster cl).mem := by
  unfold State.afterDrain
  dsimp only
  split
  · rw [State.cluster_modCluster_self, cluPutAll_cluster]
  · rw [cluPutAll_cluster]

theorem afterDrain_other {cl c : Nat} (hc : c ≠ cl) (s : State) (f : VWord) (m : MatCmd) : (s.afterDrain cl f m).cluster c = s.cluster c := by
  unfold State.afterDrain
  dsimp only
  split
  · rw [State.cluster_modCluster, if_neg hc, cluPutAll_other hc]
  · exact cluPutAll_other hc _ _

theorem afterDrain_cores (s : State) (cl : Nat) (f : VWord) (m : MatCmd) : (s.afterDrain cl f m).cores = s.cores := by
  unfold State.afterDrain
  dsimp only
  split <;> exact cluPutAll_cores _ _ _

theorem afterDrain_phys (s : State) (cl : Nat) (f : VWord) (m : MatCmd) : (s.afterDrain cl f m).phys = s.phys := by
  unfold State.afterDrain
  dsimp only
  split <;> exact cluPutAll_phys _ _ _

theorem afterDrain_tileAt (s : State) (cl : Nat) (f : VWord) (m : MatCmd) (i : Nat) {j : Nat} (hj : j < 64) :
    tileAt (mget ([] : Tile) ((s.afterDrain cl f m).cluster cl).tiles m.tile) i j =
      if m.opt = true ∧ i < m.rows then 0 else tileAt (mget ([] : Tile) (s.cluster cl).tiles m.tile) i j := by
  unfold State.afterDrain
  dsimp only
  cases m.opt with
  | true => simp only [if_true, true_and, State.cluster_modCluster_self, mget_mset_self, tileAt_rowsFrom _ _ _ hj]
  | false => simp only [Bool.false_eq_true, if_false, false_and, cluPutAll_cluster]

theorem drain_of_noErrs {s : State} {cl : Nat} {f : VWord} {m : MatCmd} (herrs : s.errs = []) (hpair : m.pair = none) (hdrop : m.drop = false)
    (hin : ∀ x ∈ s.drained cl f m, inPrograms x.1 x.2.1 = true) (p : Nat) :
    ∃ o v, s.drain cl p f m = .ok (o, v, s.afterDrain cl f m) := by
  have hplaced : (s.drained cl f m).all (fun x => inPrograms x.1 x.2.1 || inGlobal x.1 x.2.1) = true :=
    List.all_eq_true.2 (fun x hx => by rw [hin x hx, Bool.true_or])
  have hfit : s.drainFail cl f m = none := by
    unfold State.drainFail
    rw [hplaced, hardErr_of_noErrs herrs]
    rfl
  have halone : s.pairDrops p m.pair m.drop = false := by
    unfold State.pairDrops
    rw [hpair, hdrop]
    rfl
  unfold State.drain
  dsimp only
  rw [hfit]
  dsimp only
  rw [correct_of_noErrs herrs, drainPut_of_programs cl p _ _ herrs hin]
  dsimp only
  rw [halone]
  exact ⟨_, _, rfl⟩

/-- A drain that has run leaves clusters, memories and main memory as its pieces and its option give. -/
theorem runMatrix_drain {s : State} {cl : Nat} {r : MatRun} (herrs : s.errs = []) (hstatus : r.status = 0) (hkind : r.cmd.kind = 2)
    (hpair : r.cmd.pair = none) (hdrop : r.cmd.drop = false) (hin : ∀ x ∈ s.drained cl r.fmt r.cmd, inPrograms x.1 x.2.1 = true) :
    ∃ o v u, s.runMatrix cl r = (none, o, v, u) ∧ u.clusters = (s.afterDrain cl r.fmt r.cmd).clusters
      ∧ (∀ p, (u.core p).mem = (s.core p).mem) ∧ u.phys = s.phys := by
  obtain ⟨o, v, hdrain⟩ := drain_of_noErrs herrs hpair hdrop hin (coreAt cl r.cidx)
  have hcore : ∀ p, (s.afterDrain cl r.fmt r.cmd).core p = s.core p :=
    fun p => congrArg (fun x => mget Core.fresh x p) (afterDrain_cores s cl r.fmt r.cmd)
  have hphys := afterDrain_phys s cl r.fmt r.cmd
  unfold State.runMatrix
  dsimp only
  rw [hstatus, hkind, hdrain]
  refine ⟨o, v, _, rfl, ?_⟩
  split
  · obtain ⟨hmem, -, -⟩ := sameMemory_modCore (s.afterDrain cl r.fmt r.cmd) (coreAt cl r.cidx) (f := fun c => { c with ovf := true })
      (fun _ => rfl)
    exact ⟨rfl, fun p => by rw [hmem, hcore], hphys⟩
  · exact ⟨rfl, fun p => by rw [hcore], hphys⟩

/-- What a drain writes is read from tiles alone. -/
theorem drained_runTaken (s : State) (cl k : Nat) (f : VWord) (m : MatCmd) : (s.runTaken cl k).drained cl f m = s.drained cl f m := by
  unfold State.drained State.runTaken
  rw [State.cluster_modCluster_self]

/-! ### A command that has failed at its start (R222, R246) -/

theorem runMatrix_failed {r : MatRun} (h1 : 1 ≤ r.status) (h4 : r.status ≤ 4) (s : State) (cl : Nat) :
    s.runMatrix cl r = (some (matFail r.status), false, false, s) := by
  have hfailed : (r.status != 0) = true := bne_iff_ne.2 (by omega)
  have hlow : r.status % 16 = r.status := Nat.mod_eq_of_lt (by omega)
  have hsub : r.status / 16 = 0 := Nat.div_eq_of_lt (by omega)
  unfold State.runMatrix
  dsimp only
  rw [if_pos hfailed, hlow, hsub]
  rfl

/-- Settles O51: each step by its equation; a MACZ and a drain by what running them leaves of the cluster. -/
theorem matrixSteps : Obligations.MatrixSteps := by
  refine ⟨?start, ?complete, ?macz, ?drain, ?failed⟩
  case start =>
    intro s cl i n m rest hnext hq hload hcfg hrange u f hfit
    refine ⟨_, start_of_next hnext hq, ?_⟩
    rw [startHead_of_fit hload hcfg hrange hfit]
    have haccount : Account s ((s.matStarted cl i m rest).modCluster cl (fun k => { k with mrr := (i, n) })) := by
      refine (account_matStarted s cl i m rest).trans (account_modCluster _ cl ?_)
      exact fun _ => rfl
    refine ⟨?_, ?_, ?_, ?_, ?_, haccount.sameMemory, haccount.contexts⟩
    · rw [State.modCluster_core_get]
      exact matStarted_mq s cl i m rest
    all_goals rw [State.cluster_modCluster_self, matStarted_cluster]
  case complete =>
    intro s u cl k r o v hrun hfree hended hgo hend hsound
    refine ⟨_, complete_of_go hrun hfree hended hgo hend, ?_, ?_, commandEnded_clusters _ _ _ _, sameMemory_commandEnded _ _ _ (fun _ => rfl)⟩
    · dsimp only
      rw [commandEnded_core hsound]
      exact congrArg (fun el => (u.core (coreAt cl r.cidx)).cq ++ [el]) (matElement_done r.cmd o v)
    · dsimp only
      rw [commandEnded_core hsound]
      exact mfind_merase_self _ _
  case macz =>
    intro s cl k r hrun hfree hended hstatus hkind
    have hgo := matStep_go (r := r) (.inr (.inl (by omega))) s cl
    refine ⟨_, complete_of_go hrun hfree hended hgo (runMatrix_macz hstatus hkind _ cl), ?_⟩
    dsimp only
    rw [commandEnded_cluster, macz_cluster, State.runTaken, State.cluster_modCluster_self]
    exact ⟨tileAt_merase _ _, fun x hx => mfind_merase_other _ hx, rfl⟩
  case drain =>
    intro s cl k r hrun hfree hended hstatus hkind hpair hdrop herrs hin
    have hgo := matStep_go (.inr (.inr hpair)) s cl
    have htaken := drained_runTaken s cl k r.fmt r.cmd
    obtain ⟨o, v, u, hend, hclusters, hmem, hphys⟩ := runMatrix_drain (s := s.runTaken cl k) herrs hstatus hkind hpair hdrop (htaken.symm ▸ hin)
    have hcluster : ∀ c, u.cluster c = ((s.runTaken cl k).afterDrain cl r.fmt r.cmd).cluster c :=
      fun c => congrArg (fun x => mget Cluster.fresh x c) hclusters
    obtain ⟨hkeep, -, hkeepPhys⟩ := sameMemory_commandEnded u (coreAt cl r.cidx) (matElement r.cmd 0 o v) (g := (·.matFreed r.cmd))
      (fun _ => rfl)
    refine ⟨_, complete_of_go hrun hfree hended hgo hend, ?_, ?_, ?_, ?_, ?_⟩
    · dsimp only
      rw [commandEnded_cluster, hcluster, afterDrain_mem, htaken, State.runTaken, State.cluster_modCluster_self]
      rfl
    · intro c hc
      dsimp only
      rw [commandEnded_cluster, hcluster, afterDrain_other hc, State.runTaken, State.cluster_modCluster, if_neg hc]
    · exact fun p => (hkeep p).trans (hmem p)
    · exact hkeepPhys.trans hphys
    · intro i j hj
      dsimp only
      rw [commandEnded_cluster, hcluster, afterDrain_tileAt _ _ _ _ _ hj, State.runTaken, State.cluster_modCluster_self]
  case failed =>
    intro s cl k r g hrun hfree hended h1 h4 hring hsound
    have hgo := matStep_go (r := r) (.inl (by omega)) s cl
    have htaken : ((s.runTaken cl k).core (coreAt cl r.cidx)).poisoned = false := hsound
    refine ⟨_, g.matFaulted r.cmd r.status, complete_of_plain hrun hfree hended hgo h4 (runMatrix_failed h1 h4 _ cl), ?_, ?_, rfl, rfl, rfl,
      ?_, ?_, ?_⟩
    · rw [commandEnded_core htaken, matFaulted_cq]
      exact congrArg (fun el => (s.core (coreAt cl r.cidx)).cq ++ [el]) (matElement_plain r.cmd r.status)
    · rw [commandEnded_core htaken]
      refine matFaulted_ring ?_ r.status
      exact hring
    · rw [commandEnded_cluster, State.runTaken, State.cluster_modCluster_self]
    · rw [commandEnded_cluster, State.runTaken, State.cluster_modCluster_self]
    · exact (account_runTaken s cl k).sameMemory.trans (sameMemory_commandEnded _ _ _ (fun c => matFaulted_mem c r.cmd r.status))

end Sys2Proof.Machine
end

section
/-! PROOF. The rule engine (O52): the completion that a command posts where its core's mailbox has room, then each step by the completion that
it posts. -/

namespace Sys2Proof.Machine

/-! ### A completion that enters the mailbox at once (R393) -/

/-- A core with one more entry in its mailbox. -/
def Core.mailed (c : Core) (e : MailEntry) : Core := { c with mbox := c.mbox ++ [e] }

/-- A command whose completion enters its core's mailbox at once is over. -/
theorem finishCmd_of_postable {s : State} {c : RuleCmd} {e : MailEntry} (h : s.postable c.core c.id e.len) :
    s.finishCmd c e = (s.modCore c.core (·.mailed e)).dropCmd c.id := by
  obtain ⟨hsilent, hroom, hposts⟩ := h
  have hfree : s.posts.any (fun w => !w.sup && w.dst == c.core) = false := by
    simp only [List.any_eq_false, Bool.and_eq_true, Bool.not_eq_true', beq_iff_eq, not_and]
    intro w hw hcore
    simpa [hcore] using (hposts w hw).1
  have hnone : s.posts.any (fun w => w.rule == some c.id) = false := by
    simp only [List.any_eq_false, beq_iff_eq]
    exact fun w hw => (hposts w hw).2
  have hpost : s.postCore c.core e (some c.id) = s.modCore c.core (·.mailed e) := by
    unfold State.postCore
    rw [hsilent, hroom, hfree]
    rfl
  unfold State.finishCmd
  rw [hsilent, hpost]
  dsimp only
  rw [State.modCore_posts, hnone]
  rfl

theorem finishCmd_ended {s : State} {c : RuleCmd} {e : MailEntry} (h : s.postable c.core c.id e.len) :
    s.ended c.core c.id e (s.finishCmd c e) := by
  have haccount : Account s ((s.modCore c.core (·.mailed e)).dropCmd c.id) :=
    (account_modCore s c.core (f := (·.mailed e)) (fun _ => rfl) (fun _ _ => rfl)).trans (Account.of_fields rfl rfl rfl rfl)
  rw [finishCmd_of_postable h]
  exact ⟨congrArg Core.mbox (State.core_modCore_self s c.core (·.mailed e)), rfl, haccount.sameMemory, haccount.contexts⟩

/-! ### The taint of a command that ends before it runs (R360) -/

theorem preTold_cases (s : State) (c : RuleCmd) (st : Nat) : s.preTold c st = s ∨ ∃ q serial, s.preTold c st = s.taint q serial 2 2 := by
  unfold State.preTold State.taintCmd
  split
  · split
    · exact .inr ⟨_, _, rfl⟩
    · exact .inl rfl
  · exact .inl rfl

theorem silent_taint (s : State) (q serial : Nat) (cause : BitVec 8) (verd p : Nat) : (s.taint q serial cause verd).silent p = s.silent p := by
  have hstopped : ∀ r, ((s.taint q serial cause verd).part r).stopped = (s.part r).stopped := by
    intro r
    unfold State.taint State.modLaunch
    rw [State.part_modPart]
    split
    · rename_i hr; subst hr; rfl
    · rfl
  unfold State.silent
  rw [show (s.taint q serial cause verd).partOf p = s.partOf p from rfl]
  split
  · exact hstopped _
  · rfl

theorem postable_preTold {s : State} {p id len : Nat} (h : s.postable p id len) (c : RuleCmd) (st : Nat) :
    (s.preTold c st).postable p id len := by
  obtain heq | ⟨q, serial, heq⟩ := preTold_cases s c st <;> rw [heq]
  · exact h
  · obtain ⟨hsilent, hroom, hposts⟩ := h
    exact ⟨(silent_taint s q serial 2 2 p).trans hsilent, hroom, hposts⟩

/-- What a launch notes is no part of a command's end. -/
theorem ended_of_preTold {s t : State} {c : RuleCmd} {st p id : Nat} {e : MailEntry} (h : (s.preTold c st).ended p id e t) :
    s.ended p id e t := by
  obtain heq | ⟨q, serial, heq⟩ := preTold_cases s c st <;> rw [heq] at h <;> exact h

/-- A command that ends with the status of its record and slot alone posts its completion and has no other effect. -/
theorem preTold_finishCmd_ended {s : State} {c : RuleCmd} {e : MailEntry} (h : s.postable c.core c.id e.len) (st : Nat) :
    s.ended c.core c.id e ((s.preTold c st).finishCmd c e) := ended_of_preTold (finishCmd_ended (postable_preTold h c st))

/-! ### RLUPD (R236, R237) -/

theorem reuUpdate_ok {s u : State} {k blk fb cl z m : Nat} {c : RuleCmd} (hc : s.cmdBy k = some c) (hop : c.op = 1) (hheld : c.held = false)
    (hgated : c.gated = false) (hposted : c.posted = false) (hpre : s.rulePre c = 0) (hblk : blk < c.nb) (hdone : blk ∉ c.done)
    (hbefore : s.updateBefore c (blockVa c.w1 c.w2 blk) = false)
    (hblock : s.updateBlock c (blockVa c.w1 c.w2 blk) = .ok (u, fb, cl, z, m)) :
    Sys2Proof.Machine.exec (.reuUpdate k blk) s = .next (u.modCmd k (fun d => { { d with done := blk :: d.done } with
        sums := (d.sums.1 + 1, d.sums.2.1 + fb, d.sums.2.2.1 + cl, d.sums.2.2.2.1 + z, d.sums.2.2.2.2 + m) })) := by
  change execReuUpdate k blk s = _
  unfold execReuUpdate
  rw [hc]
  dsimp only
  rw [if_neg (by simp [hop, hheld, hgated, hposted, hpre, hblk, hdone, hbefore]), hblock]

/-- A command that its record and slot do not end holds its slot. -/
theorem ownsSlot_of_rulePre {s : State} {c : RuleCmd} (h : s.rulePre c = 0) : (s.part c.part).rls.getLsbD c.slot = true := by
  cases hown : (s.part c.part).rls.getLsbD c.slot with
  | true => rfl
  | false =>
    unfold State.rulePre at h
    rw [hown] at h
    cases hform : c.illFormed <;> simp [hform] at h

/-- An update that nothing ended at its start, with no more fallbacks than DLIM, completes without an event to the supervisor. -/
theorem ruleUpdateCompletion_eq {s : State} {k : Nat} {c : RuleCmd} (hc : s.cmdBy k = some c) (hop : c.op = 1) (hposted : c.posted = false)
    (hheld : c.held = false) (hpre : s.rulePre c = 0) (hserved : c.gated = true ∨ c.done.length = c.nb)
    (hfew : c.sums.2.1 ≤ (ruleOf (s.boundImage c)).dlim) :
    Sys2Proof.Machine.exec (.ruleUpdateCompletion k) s = .next (s.finishCmd c
      (updateDone c (lowStatus c.status (if c.gated then 6 else 0)) (imageVer (s.boundImage c)))) := by
  change execRuleUpdateCompletion k s = _
  unfold execRuleUpdateCompletion
  rw [hc]
  dsimp only
  rw [hpre, ownsSlot_of_rulePre hpre, if_neg (by simpa [hop, hposted, hheld, or_iff_not_imp_left] using hserved), if_neg (by simpa using hfew)]
  rfl

/-! ### Records whose OP names no command (R255) -/

theorem ruleInvalidOp_eq {s : State} {k : Nat} {c : RuleCmd} (hc : s.cmdBy k = some c) (hop : c.op ∉ [1, 2, 3, 0x10, 0x12, 0x14])
    (hposted : c.posted = false) : Sys2Proof.Machine.exec (.ruleInvalidOp k) s =
      .next (s.finishCmd c (eventEntry 32 (2 + 2 ^ 8 + c.w0.toNat % 2 ^ 32 * 2 ^ 32))) := by
  change execRuleInvalidOp k s = _
  unfold execRuleInvalidOp
  rw [hc]
  dsimp only
  rw [if_neg (by simpa [hposted] using hop), RuleCmd.tag, wfield_low, Nat.one_mul]

/-! ### RLTAPE and RLREV (R257, R258) -/

theorem rltapeCompletion_eq {s : State} {k : Nat} {c : RuleCmd} (hc : s.cmdBy k = some c) (hop : c.op = 2) (hposted : c.posted = false) :
    Sys2Proof.Machine.exec (.rltapeCompletion k) s =
      .next ((s.makeTape c).2.finishCmd c (shortDone 4 (s.makeTape c).1 0 c.slot c.tag (c.w3.toNat % 512))) := by
  change execRltapeCompletion k s = _
  unfold execRltapeCompletion
  rw [hc]
  dsimp only
  rw [if_neg (by simp [hop, hposted])]

theorem rlrevCompletion_eq {s : State} {k : Nat} {c : RuleCmd} (hc : s.cmdBy k = some c) (hop : c.op = 3) (hposted : c.posted = false) :
    Sys2Proof.Machine.exec (.rlrevCompletion k) s =
      .next ((s.reverse c).2.2.finishCmd c (shortDone 5 (s.reverse c).1 0 c.slot c.tag (s.reverse c).2.1)) := by
  change execRlrevCompletion k s = _
  unfold execRlrevCompletion
  rw [hc]
  dsimp only
  rw [if_neg (by simp [hop, hposted])]

theorem makeTape_of_rulePre {s : State} {c : RuleCmd} (h : s.rulePre c ≠ 0) : s.makeTape c = (s.rulePre c, s.preTold c (s.rulePre c)) := by
  unfold State.makeTape
  exact if_pos (by simpa using h)

theorem reverse_of_rulePre {s : State} {c : RuleCmd} (h : s.rulePre c ≠ 0) :
    s.reverse c = (s.rulePre c, 0, s.preTold c (s.rulePre c)) := by
  unfold State.reverse
  exact if_pos (by simpa using h)

/-! ### RDREG (R264) -/

/-- What an RDREG does: its status, the blocks that have changed, the state. -/
def State.regServed (s : State) (c : RuleCmd) : Nat × Nat × State :=
  if c.regBad then (1, 0, s)
  else match (s.part c.part).key with
    | some key => s.regBlocks c key (upTo c.nb)
    | none => if c.on then (3, 0, s) else s.regBlocks c (0, 0) (upTo c.nb)

theorem rdregCompletion_eq {s : State} {k : Nat} {c : RuleCmd} (hc : s.cmdBy k = some c) (hop : c.op = 0x10) (hposted : c.posted = false) :
    Sys2Proof.Machine.exec (.rdregCompletion k) s =
      .next ((s.regServed c).2.2.finishCmd c (shortDone 6 (s.regServed c).1 0 0 c.tag (s.regServed c).2.1)) := by
  change execRdregCompletion k s = _
  unfold execRdregCompletion
  rw [hc]
  dsimp only
  rw [if_neg (by simp [hop, hposted])]
  rfl

theorem regServed_bad {s : State} {c : RuleCmd} (h : c.regBad = true) : s.regServed c = (1, 0, s) := if_pos h

theorem regServed_keyed {s : State} {c : RuleCmd} {key : BitVec 128 × BitVec 128} (h : c.regBad = false) (hkey : (s.part c.part).key = some key) :
    s.regServed c = s.regBlocks c key (upTo c.nb) := by
  unfold State.regServed
  rw [h, hkey]
  rfl

/-- Without a key nothing can be registered. -/
theorem regServed_keyless {s : State} {c : RuleCmd} (h : c.regBad = false) (hkey : (s.part c.part).key = none) :
    s.regServed c = if c.on then (3, 0, s) else s.regBlocks c (0, 0) (upTo c.nb) := by
  unfold State.regServed
  rw [h, hkey]
  rfl

theorem rdregCompletion_ended {s u : State} {k st n : Nat} {c : RuleCmd} (hc : s.cmdBy k = some c) (hop : c.op = 0x10)
    (hposted : c.posted = false) (hserved : s.regServed c = (st, n, u)) (hpostable : u.postable c.core c.id 16) :
    ∃ t, Sys2Proof.Machine.exec (.rdregCompletion k) s = .next t ∧ u.ended c.core c.id (shortDone 6 st 0 0 c.tag n) t := by
  refine ⟨_, rdregCompletion_eq hc hop hposted, ?_⟩
  rw [hserved]
  exact finishCmd_ended hpostable

/-- Settles O52: each step by its equation, and the completion that it posts. -/
theorem ruleEngineSteps : Obligations.RuleEngineSteps := by
  unfold Obligations.RuleEngineSteps
  refine ⟨?update, ?done, ?invalid, fun s k c hc hposted => ⟨fun hop hpostable => ?tape, fun hop hpostable => ?reverse, fun hpre hpostable =>
    ⟨fun hop => ?tapeRefused, fun hop => ?reverseRefused⟩, fun key hop hgood hkey => ?keyed, fun hop hgood hkey hon => ?keyless,
    fun hop hgood hkey hoff => ?deregistered, fun hop hbad => ?bad⟩⟩
  case update =>
    intro s u k blk fb cl z m c hc hop hheld hgated hposted hpre hblk hdone hbefore hblock
    exact ⟨_, reuUpdate_ok hc hop hheld hgated hposted hpre hblk hdone hbefore hblock, rfl⟩
  case done =>
    intro s k c hc hop hposted hheld hpre hserved hfew hpostable
    exact ⟨_, ruleUpdateCompletion_eq hc hop hposted hheld hpre hserved hfew, finishCmd_ended hpostable⟩
  case invalid =>
    intro s k c hc hop hposted hpostable
    exact ⟨_, ruleInvalidOp_eq hc hop hposted, finishCmd_ended hpostable⟩
  case tape => exact ⟨_, rltapeCompletion_eq hc hop hposted, finishCmd_ended hpostable⟩
  case reverse => exact ⟨_, rlrevCompletion_eq hc hop hposted, finishCmd_ended hpostable⟩
  case tapeRefused =>
    refine ⟨_, rltapeCompletion_eq hc hop hposted, ?_⟩
    rw [makeTape_of_rulePre hpre]
    exact preTold_finishCmd_ended hpostable _
  case reverseRefused =>
    refine ⟨_, rlrevCompletion_eq hc hop hposted, ?_⟩
    rw [reverse_of_rulePre hpre]
    exact preTold_finishCmd_ended hpostable _
  case keyed => exact rdregCompletion_ended hc hop hposted (regServed_keyed hgood hkey)
  case keyless => exact rdregCompletion_ended hc hop hposted ((regServed_keyless hgood hkey).trans (if_pos hon))
  case deregistered => exact rdregCompletion_ended hc hop hposted ((regServed_keyless hgood hkey).trans (if_neg (by simp [hoff])))
  case bad => exact rdregCompletion_ended hc hop hposted (regServed_bad hbad)

end Sys2Proof.Machine
end

section
/-! PROOF. CORE.MSB and firmware's partition writes (O58): what OP 1 and OP 2 leave of the core, step by step, then what a write of PART.L2P
and one of PART.RLS do. -/

namespace Sys2Proof.Machine

/-! ### The steps of CORE.MSB (R336) -/

theorem msbSave_exec {s t : State} {p : Nat} (hop : (s.core p).msb.toNat % 8 = 1) (h : s.msbSave p = .ok t) :
    Sys2Proof.Machine.exec (.msbSave p) s = .next t := by
  have hfield : wfield (s.core p).msb 0 3 = 1 := (wfield_low _ 3).trans hop
  change execMsbSave p s = _
  unfold execMsbSave State.msbStep State.msbRun
  rw [hfield, if_pos rfl, h]
  rfl

theorem msbRestore_exec {s t : State} {p : Nat} (hop : (s.core p).msb.toNat % 8 = 2) (h : s.msbRestore p = .ok t) :
    Sys2Proof.Machine.exec (.msbRestore p) s = .next t := by
  have hfield : wfield (s.core p).msb 0 3 = 2 := (wfield_low _ 3).trans hop
  change execMsbRestore p s = _
  unfold execMsbRestore State.msbStep State.msbRun
  rw [hfield, if_pos rfl, h]
  rfl

/-- The state in which an operation has ended with ERR. -/
def State.msbFailed (s : State) (p : Nat) : State := s.modCore p (fun c => { c with msb := msbEnd c.msb true })

theorem msbFailed_fields (s : State) (p : Nat) :
    ((s.msbFailed p).core p).msb = msbEnd (s.core p).msb true ∧ ((s.msbFailed p).core p).mbox = (s.core p).mbox
      ∧ SameMemory s (s.msbFailed p) ∧ SameContexts s (s.msbFailed p) := by
  have haccount : Account s (s.msbFailed p) := account_modCore s p (fun _ => rfl) (fun _ _ => rfl)
  have hself : (s.msbFailed p).core p = { s.core p with msb := msbEnd (s.core p).msb true } := State.core_modCore_self _ _ _
  rw [hself]
  exact ⟨rfl, rfl, haccount.sameMemory, haccount.contexts⟩

theorem msbSave_outside {s : State} {p : Nat} (h : msbFits (s.core p).msbBase = false) : s.msbSave p = .ok (s.msbFailed p) := by
  unfold State.msbSave State.msbFailed
  dsimp only
  rw [h, Bool.not_false, if_pos rfl]

/-! ### OP 1: the helpers' partial records and the commands that belong to the context (R70, R337) -/

/-- What a save keeps of a core until it writes the area: CORE.MSB, the control context, and what its image takes along. -/
def Core.kit (c : Core) : Word × Context × List (Nat × Nat × BitVec 32) × List QItem := (c.msb, c.ctl, c.diverge, c.queue)

theorem kit_fields {c d : Core} (h : d.kit = c.kit) : d.msb = c.msb ∧ d.ctl = c.ctl ∧ d.diverge = c.diverge ∧ d.queue = c.queue := by
  simpa only [Core.kit, Prod.mk.injEq] using h

theorem kit_modContext (c : Core) {k : Nat} (hk : k ≠ 0) (f : Context → Context) : (c.modContext k f).kit = c.kit := by
  unfold Core.modContext Core.setContext
  rw [if_neg hk]
  rfl

/-- The partial records of a core's helpers concern nothing of the kit, no other core, no image and no error mark. -/
theorem dropHelperAsm_keeps (s : State) (p : Nat) :
    ((s.dropHelperAsm p).core p).kit = (s.core p).kit ∧ (∀ q, q ≠ p → (s.dropHelperAsm p).core q = s.core q)
      ∧ (s.dropHelperAsm p).saves = s.saves ∧ (s.dropHelperAsm p).errs = s.errs := by
  have hdrop : ∀ (s : State) (i : Nat), ((s.dropAsm p (i + 1)).core p).kit = (s.core p).kit := by
    intro s i
    unfold State.dropAsm
    dsimp only
    rw [State.core_modCore_self]
    exact kit_modContext _ (Nat.succ_ne_zero i) _
  refine ⟨foldl_keeps (fun s : State => (s.core p).kit) hdrop _ s, fun q hq => ?_, ?_, ?_⟩
  · have hother : ∀ (s : State) (i : Nat), (s.dropAsm p (i + 1)).core q = s.core q := fun s i => (State.core_modCore s p q _).trans (if_neg hq)
    exact foldl_keeps (fun s : State => s.core q) hother _ s
  · exact foldl_keeps State.saves (f := fun s i => s.dropAsm p (i + 1)) (fun _ _ => rfl) _ s
  · exact foldl_keeps State.errs (f := fun s i => s.dropAsm p (i + 1)) (fun _ _ => rfl) _ s

/-- A core whose context is being saved, before its area is written. -/
def State.spilled (s : State) (p : Nat) : State := (s.dropHelperAsm p).spillCmds p (s.core p).msbBase

theorem spilled_core (s : State) (p : Nat) :
    ((s.spilled p).core p).msb = (s.core p).msb ∧ ((s.spilled p).core p).ctl = (s.core p).ctl
      ∧ ∀ q, q ≠ p → (s.spilled p).core q = s.core q := by
  obtain ⟨hkit, hothers, -, -⟩ := dropHelperAsm_keeps s p
  obtain ⟨hmsb, hctl, -, -⟩ := kit_fields hkit
  unfold State.spilled State.spillCmds
  dsimp only
  rw [State.core_modCore_self]
  exact ⟨hmsb, hctl, fun q hq => ((State.core_modCore _ p q _).trans (if_neg hq)).trans (hothers q hq)⟩

theorem spilled_saves (s : State) (p : Nat) :
    ∃ i, (s.spilled p).saves = s.saves ++ [i] ∧ i.core = p ∧ i.diverge = (s.core p).diverge ∧ i.queue = (s.core p).queue := by
  obtain ⟨hkit, -, hsaves, -⟩ := dropHelperAsm_keeps s p
  obtain ⟨-, -, hdiverge, hqueue⟩ := kit_fields hkit
  unfold State.spilled
  rw [← hsaves]
  exact ⟨_, rfl, rfl, hdiverge, hqueue⟩

theorem spillCmds_errs (s : State) (p base : Nat) : (s.spillCmds p base).errs = s.errs := rfl

/-- No error mark comes or goes before the area is written. -/
theorem spilled_piecesBad (s : State) (p base : Nat) (ps : List (Nat × Nat × Nat)) :
    (s.spilled p).piecesBad p base ps = s.piecesBad p base ps := by
  obtain ⟨-, -, -, herrs⟩ := dropHelperAsm_keeps s p
  unfold State.spilled State.piecesBad State.partBad State.hardErr
  rw [spillCmds_errs, herrs]

/-! ### OP 1: the area (R335, R337) -/

theorem writeLocal_kit (c : Core) (a n v : Nat) : (c.writeLocal a n v).kit = c.kit := by
  refine foldl_keeps Core.kit (fun c _ => ?_) _ c
  unfold Core.logLine
  repeat' split
  all_goals rfl

theorem writePieces_kit (c : Core) (base : Nat) (ps : List (Nat × Nat × Nat)) : (c.writePieces base ps).kit = c.kit :=
  foldl_keeps Core.kit (fun c _ => writeLocal_kit c _ _ _) ps c

/-- Pieces are written by one core into its own memory. -/
theorem putPieces_fields (s : State) (p base : Nat) (ps : List (Nat × Nat × Nat)) :
    (s.putPieces p base ps).cores = (s.modCore p (fun c => c.writePieces base ps)).cores ∧ (s.putPieces p base ps).saves = s.saves := by
  have hfix : ∀ (s : State) st a n, (s.partFix p st a n).cores = s.cores ∧ (s.partFix p st a n).saves = s.saves := by
    intro s st a n
    unfold State.partFix
    split
    · exact ⟨rfl, rfl⟩
    · have hsaves := congrArg State.saves (correct_device s p st (a / 64 * 64) ((a % 64 + n + 63) / 64 * 64))
      exact ⟨correct_cores s p _ _ _, hsaves⟩
  have hclear : ∀ (s : State) st a n, (s.clearErr st a n).saves = s.saves := by
    intro s st a n
    unfold State.clearErr
    split <;> rfl
  exact ⟨foldl_keeps State.cores (fun s _ => (clearErr_cores _ _ _ _).trans (hfix s _ _ _).1) ps _,
    foldl_keeps State.saves (fun s _ => (hclear _ _ _ _).trans (hfix s _ _ _).2) ps _⟩

theorem putPieces_core (s : State) (p base : Nat) (ps : List (Nat × Nat × Nat)) (q : Nat) :
    (s.putPieces p base ps).core q = if q = p then (s.core p).writePieces base ps else s.core q := by
  rw [← State.core_modCore s p q (fun c => c.writePieces base ps)]
  unfold State.core
  rw [(putPieces_fields s p base ps).1]

/-- A core whose context stands in its area: mailbox, completion queue and links are empty, its helpers are stopped. -/
def Core.msbSaved (c : Core) : Core :=
  { c with
    msb := msbEnd c.msb false, mbox := [], cq := [], west := [], east := [], saved := true
    helpers := c.helpers.map (fun kx => (kx.1, match kx.2.run with
      | .ready => { kx.2 with run := .stopped .saved }
      | .waiting => { kx.2 with run := .stopped .saved }
      | _ => kx.2)) }

/-- The state in which OP 1 has ended. -/
def State.msbSaved (s : State) (p : Nat) : State :=
  ((s.spilled p).putPieces p (s.core p).msbBase ((s.spilled p).saveBytes p)).modCore p Core.msbSaved

theorem msbSave_ok {s : State} {p : Nat} (hfits : msbFits (s.core p).msbBase = true) (hready : s.saveReady p = true)
    (hgood : (s.spilled p).piecesBad p (s.core p).msbBase ((s.spilled p).saveBytes p) = false) : s.msbSave p = .ok (s.msbSaved p) := by
  rw [spilled_piecesBad] at hgood
  unfold State.spilled at hgood
  unfold State.msbSave State.msbSaved Core.msbSaved State.spilled
  dsimp only
  rw [hfits, hready, hgood]
  rfl

theorem msbSaved_core (s : State) (p : Nat) :
    (s.msbSaved p).core p = (((s.spilled p).putPieces p (s.core p).msbBase ((s.spilled p).saveBytes p)).core p).msbSaved :=
  State.core_modCore_self _ p Core.msbSaved

theorem msbSaved_saves (s : State) (p : Nat) : (s.msbSaved p).saves = (s.spilled p).saves := by
  unfold State.msbSaved
  rw [State.modCore_saves, (putPieces_fields _ _ _ _).2]

theorem msbSaved_kit (s : State) (p : Nat) :
    ((s.msbSaved p).core p).msb = msbEnd (s.core p).msb false ∧ ((s.msbSaved p).core p).ctl = (s.core p).ctl := by
  obtain ⟨hmsb, hctl, -⟩ := spilled_core s p
  obtain ⟨hmsb', hctl', -, -⟩ := kit_fields (writePieces_kit ((s.spilled p).core p) (s.core p).msbBase ((s.spilled p).saveBytes p))
  rw [msbSaved_core, putPieces_core, if_pos rfl]
  unfold Core.msbSaved
  dsimp only
  rw [hmsb', hmsb, hctl', hctl]
  exact ⟨rfl, rfl⟩

theorem msbSaved_core_other (s : State) {p q : Nat} (hq : q ≠ p) : (s.msbSaved p).core q = s.core q := by
  unfold State.msbSaved
  rw [State.core_modCore, if_neg hq, putPieces_core, if_neg hq]
  obtain ⟨-, -, hothers⟩ := spilled_core s p
  exact hothers q hq

/-! ### OP 2: the core (R336, R337) -/

/-- What of a restored core is told apart: CORE.MSB, whether it holds a saved context, CORE.ULOG.OVF, the shadow's CTX.TSW and generator, the
completion queue, the control context, memory. -/
def Core.board (c : Core) : Word × Bool × Bool × Word × Word × List Word × Context × Mem :=
  (c.msb, c.saved, c.ovf, c.shadow.tsw, c.shadow.gen, c.cq, c.ctl, c.mem)

theorem takeRingWord_board (c : Core) (k : Nat) (w : Word) : (c.takeRingWord k w).board = c.board := by
  unfold Core.takeRingWord
  split <;> rfl

/-- The words of the completion queue in the spill buffer. -/
def Core.spilledQueue (c : Core) (base : Nat) : List Word :=
  (upTo (min 16 (wfield (c.wordAt (base + 0x1000) 0) 8 5))).map (fun i => c.wordAt (base + 0x1000) (0x40 + 8 * i))

theorem restored_board (c : Core) (base : Nat) (own : Bool) (gang : List Mate) (comp : Nat → Option Nat) :
    (c.restored base own gang comp).board =
      (msbEnd c.msb false, false, c.ovf || !own, c.wordAt base 0 &&& shadowTswMask,
        (if c.wordAt base 0x458 = 0 then seedZero else c.wordAt base 0x458), c.spilledQueue base, c.ctl, c.mem) := by
  have hring : ∀ (c' : Core) (i : Nat), (c'.takeRingWord i (c.wordAt base (0x8C0 + 8 * i))).board = c'.board :=
    fun c' i => takeRingWord_board c' i _
  unfold Core.restored
  dsimp only
  rw [foldl_keeps Core.board hring]
  unfold Core.board Core.spilledQueue
  dsimp only

theorem spilledQueue_length (c : Core) (base : Nat) :
    (c.spilledQueue base).length = min 16 (bread c.mem (base + 0x1000) 8 / 2 ^ 8 % 2 ^ 5) := by
  have hcount : wfield (c.wordAt (base + 0x1000) 0) 8 5 = bread c.mem (base + 0x1000) 8 / 2 ^ 8 % 2 ^ 5 := by
    unfold wfield Core.wordAt
    rw [BitVec.toNat_ofNat, bits_mod_word _ _ _ (by decide)]
  unfold Core.spilledQueue
  rw [hcount]
  simp [upTo]

/-! ### OP 2: the state (R336, R337) -/

/-- The area of a core has been read. -/
def State.areaRead (s : State) (p base : Nat) : State := (s.restoreReads p base).foldl (fun s x => s.correct p (.loc p) x.1 x.2) s

/-- A core outside every gang has taken a context back from its area. -/
def State.tookBack (s : State) (p base : Nat) (image : Option SaveImage) : State :=
  (s.leaveGang p).modCore p (fun c =>
    c.restored base (image.any (fun i => i.core == p)) ((image.map (·.gang)).getD []) (s.compOf p))

/-- What belongs to the saved context has come to the core. -/
def State.ownedBack (s : State) (p : Nat) : Option SaveImage → State
  | some i => s.unspillCmds p i
  | none => s

/-- The core's format context is this one, if it is a valid one. -/
def State.formatBack (s : State) (p : Nat) (f : VWord) : State :=
  if fmtBad f = 0 then s.modCluster (clusterOf p) (fun k => { k with fmts := mset k.fmts (cidxOf p) f }) else s

/-- The state in which OP 2 has ended. -/
def State.msbRestored (s : State) (p : Nat) : State :=
  let base := (s.core p).msbBase
  let image := s.imageAt p base
  (((s.areaRead p base).tookBack p base image).ownedBack p image).formatBack p (BitVec.ofNat 512 (bread (s.core p).mem (base + 0x880) 64))

theorem msbRestore_refused {s : State} {p : Nat} (h : msbFits (s.core p).msbBase = false
    ∨ ¬ ((s.core p).mbox = [] ∧ (s.core p).cq = [] ∧ (s.core p).west = [] ∧ (s.core p).east = [])) :
    s.msbRestore p = .ok (s.msbFailed p) := by
  have hrefuse : (!(msbFits (s.core p).msbBase) || !(s.core p).mbox.isEmpty || !(s.core p).cq.isEmpty || !(s.core p).west.isEmpty
      || !(s.core p).east.isEmpty) = true := by
    rcases h with hfits | hfull
    · rw [hfits]
      rfl
    · by_contra hempty
      simp only [Bool.not_eq_true, Bool.or_eq_false_iff, Bool.not_eq_false', List.isEmpty_iff] at hempty
      obtain ⟨⟨⟨⟨-, hmbox⟩, hcq⟩, hwest⟩, heast⟩ := hempty
      exact hfull ⟨hmbox, hcq, hwest, heast⟩
  unfold State.msbRestore State.msbFailed
  dsimp only
  rw [hrefuse, if_pos rfl]

theorem msbRestore_ok {s : State} {p : Nat} (hfits : msbFits (s.core p).msbBase = true)
    (hempty : (s.core p).mbox = [] ∧ (s.core p).cq = [] ∧ (s.core p).west = [] ∧ (s.core p).east = [])
    (hgood : ∀ x ∈ s.restoreReads p (s.core p).msbBase, s.hardErr (.loc p) x.1 x.2 = false) :
    s.msbRestore p = .ok (s.msbRestored p) := by
  obtain ⟨hmbox, hcq, hwest, heast⟩ := hempty
  have hread : (s.restoreReads p (s.core p).msbBase).any (fun x => s.hardErr (.loc p) x.1 x.2) = false := by
    simpa using hgood
  unfold State.msbRestore
  dsimp only
  rw [if_neg (by simp [hfits, hmbox, hcq, hwest, heast]), if_neg (ne_true_of_eq_false hread)]
  rfl

theorem areaRead_keeps (s : State) (p base : Nat) : (s.areaRead p base).cores = s.cores ∧ SameMemory s (s.areaRead p base) := by
  have hcores : ∀ (s : State) (x : Nat × Nat), (s.correct p (.loc p) x.1 x.2).cores = s.cores := fun s x => correct_cores s p _ _ _
  have hcorrect : ∀ (s : State) (x : Nat × Nat), Unmoved s (s.correct p (.loc p) x.1 x.2) := fun s x => unmoved_correct s p _ _ _
  unfold State.areaRead
  exact ⟨foldl_keeps State.cores hcores _ s,
    (foldl_rel (fun s => (Account.refl s).toUnmoved) Unmoved.trans _ _ hcorrect s).sameMemory⟩

theorem tookBack_core {s : State} {p base : Nat} (image : Option SaveImage) :
    ((s.tookBack p base image).core p).board =
      ((s.core p).restored base (image.any (fun i => i.core == p)) ((image.map (·.gang)).getD []) (s.compOf p)).board := by
  have hquiet := quiet_leaveGang s p
  have hread : ∀ {α : Type} (g : Core → α), (∀ c : Core, g c = g c.rest) → g ((s.leaveGang p).core p) = g (s.core p) :=
    fun g hg => hquiet.alike.core g hg p
  have hctl : ((s.leaveGang p).core p).ctl = (s.core p).ctl := hquiet.1 p 0
  have hmem := hread Core.mem (fun _ => rfl)
  unfold State.tookBack
  rw [State.core_modCore_self, restored_board, restored_board, hctl, hread Core.msb (fun _ => rfl), hread Core.ovf (fun _ => rfl)]
  unfold Core.spilledQueue Core.wordAt
  rw [hmem]

theorem restored_mem (c : Core) (base : Nat) (own : Bool) (gang : List Mate) (comp : Nat → Option Nat) :
    (c.restored base own gang comp).mem = c.mem := by
  obtain ⟨-, -, -, -, -, -, -, hmem⟩ := by simpa only [Core.board, Prod.mk.injEq] using restored_board c base own gang comp
  exact hmem

theorem tookBack_memory (s : State) (p base : Nat) (image : Option SaveImage) : SameMemory s (s.tookBack p base image) :=
  (quiet_leaveGang s p).account.sameMemory.trans (sameMemory_modCore _ p (fun c => restored_mem c _ _ _ _))

theorem ownedBack_keeps (s : State) (p : Nat) (image : Option SaveImage) :
    ((s.ownedBack p image).core p).board = (s.core p).board ∧ SameMemory s (s.ownedBack p image) := by
  cases image with
  | none => exact ⟨rfl, fun _ => rfl, fun _ => rfl, rfl⟩
  | some i =>
    unfold State.ownedBack State.unspillCmds
    dsimp only
    rw [State.core_modCore_self]
    exact ⟨rfl, sameMemory_modCore _ p (fun _ => rfl)⟩

theorem formatBack_keeps (s : State) (p : Nat) (f : VWord) :
    (s.formatBack p f).core p = s.core p ∧ SameMemory s (s.formatBack p f) := by
  unfold State.formatBack
  split
  · exact ⟨rfl, (account_modCluster s _ (f := fun k => { k with fmts := mset k.fmts (cidxOf p) f }) (fun _ => rfl)).sameMemory⟩
  · exact ⟨rfl, fun _ => rfl, fun _ => rfl, rfl⟩

theorem msbRestored_board (s : State) (p : Nat) :
    let c := s.core p
    let b := c.msbBase
    ((s.msbRestored p).core p).board =
      (msbEnd c.msb false, false, c.ovf || !((s.imageAt p b).any (fun i => i.core == p)), c.wordAt b 0 &&& shadowTswMask,
        (if c.wordAt b 0x458 = 0 then seedZero else c.wordAt b 0x458), c.spilledQueue b, c.ctl, c.mem) := by
  intro c b
  have hread : (s.areaRead p b).core p = s.core p := by unfold State.core; rw [(areaRead_keeps s p b).1]
  unfold State.msbRestored
  rw [(formatBack_keeps _ _ _).1, (ownedBack_keeps _ _ _).1, tookBack_core, hread, restored_board]

theorem msbRestored_memory (s : State) (p : Nat) : SameMemory s (s.msbRestored p) :=
  (((areaRead_keeps s p _).2.trans (tookBack_memory _ p _ _)).trans (ownedBack_keeps _ p _).2).trans (formatBack_keeps _ p _).2

/-! ### PART.L2P (R279, R311) -/

/-- An entry of PART.L2P with its fields alone. -/
def l2pEntry (e : Word) : Word := BitVec.ofNat 64 (wfield e 0 13 + wfield e 63 1 * 2 ^ 63)

theorem getLsbD_top (e : Word) : e.getLsbD 63 = decide (2 ^ 63 ≤ e.toNat) := BitVec.msb_eq_decide e

theorem l2pEntry_toNat (e : Word) : (l2pEntry e).toNat = e.toNat % 8192 + e.toNat / 2 ^ 63 * 2 ^ 63 := by
  have he : e.toNat < 2 ^ 64 := e.isLt
  unfold l2pEntry
  rw [wfield_low, BitVec.toNat_ofNat]
  unfold wfield bits
  omega

theorem l2pEntry_valid (e : Word) : (l2pEntry e).getLsbD 63 = e.getLsbD 63 := by
  rw [getLsbD_top, getLsbD_top, l2pEntry_toNat]
  exact decide_eq_decide.2 (by omega)

theorem l2pEntry_core (e : Word) : (l2pEntry e).toNat % 8192 = e.toNat % 8192 := by
  rw [l2pEntry_toNat]
  omega

theorem l2pEntry_of_invalid {e : Word} (h : e.getLsbD 63 = false) : l2pEntry e = e &&& 0x1FFF#64 := by
  have hlow : e.toNat < 2 ^ 63 := by
    rw [getLsbD_top] at h
    simpa using h
  apply BitVec.eq_of_toNat_eq
  rw [l2pEntry_toNat, BitVec.toNat_and, show (0x1FFF#64).toNat = 2 ^ 13 - 1 from rfl, Nat.and_two_pow_sub_one_eq_mod]
  omega

/-- An entry of PART.L2P is written. -/
def State.l2pWritten (s : State) (q l : Nat) (e : Word) : State :=
  s.modPart q (fun x => { x with l2p := mset x.l2p l e, n := if e.getLsbD 63 then max x.n (l + 1) else if x.n = l + 1 then l else x.n })

/-- A write of the entry of a number that no core holds. -/
theorem l2pRemap_of_free {s : State} {q l : Nat} (hq : q < 16) (hl : l < 2304) (hfree : s.physOf q l = none) (e : Word) :
    Sys2Proof.Machine.exec (.l2pRemap q l e) s = .next (if e.getLsbD 63 then (s.l2pWritten q l (l2pEntry e)).number q l (e.toNat % 8192)
      else s.l2pWritten q l (l2pEntry e)) := by
  change execL2pRemap q l e s = _
  unfold execL2pRemap State.remap
  rw [if_pos (by simp [hq, hl]), hfree]
  dsimp only
  rw [show BitVec.ofNat 64 (wfield e 0 13 + wfield e 63 1 * 2 ^ 63) = l2pEntry e from rfl, l2pEntry_valid, l2pEntry_core]
  unfold State.l2pWritten
  rw [l2pEntry_valid]

/-- A core that is fused off takes no number (R9). -/
theorem number_fusedOff {s : State} {p : Nat} (h : s.fusedOff p = true) (q l : Nat) : s.number q l p = s := if_pos h

/-- A core of a cluster that the partition holds takes the number. -/
theorem number_held {s : State} {q p : Nat} (hq : s.partOf p = some q) (hfused : s.fusedOff p = false) (l : Nat) :
    s.number q l p = s.modCore p (fun c => { c with lpid := some l }) := by
  have hgrant : s.grant q (clusterOf p) = s := by
    unfold State.grant
    rw [show (s.cluster (clusterOf p)).part = some q from hq]
    rfl
  unfold State.number
  dsimp only
  rw [hfused, hgrant]
  exact if_pos hq

theorem l2pWritten_part (s : State) (q l : Nat) (e : Word) :
    ((s.l2pWritten q l e).part q).l2p = mset (s.part q).l2p l e ∧ (e.getLsbD 63 = true → l < ((s.l2pWritten q l e).part q).n) := by
  unfold State.l2pWritten
  rw [State.part_modPart_self]
  refine ⟨rfl, fun hvalid => ?_⟩
  dsimp only
  rw [if_pos hvalid]
  omega

theorem unmoved_l2pWritten (s : State) (q l : Nat) (e : Word) : Unmoved s (s.l2pWritten q l e) :=
  ⟨rfl, fun _ _ => rfl, fun _ => rfl, rfl⟩

/-- The core of a number, by the valid entry that names it. -/
theorem physOf_of_entry {s : State} {q l : Nat} {e : Word} (hl : l < (s.part q).n) (he : mget 0 (s.part q).l2p l = e)
    (hvalid : e.getLsbD 63 = true) : s.physOf q l = some (e.toNat % 8192) := by
  subst he
  unfold State.physOf
  rw [if_pos hl]
  exact if_pos hvalid

theorem physOf_l2pWritten (s : State) (q l : Nat) {e : Word} (hvalid : e.getLsbD 63 = true) :
    (s.l2pWritten q l e).physOf q l = some (e.toNat % 8192) := by
  obtain ⟨hl2p, hcount⟩ := l2pWritten_part s q l e
  refine physOf_of_entry (hcount hvalid) ?_ hvalid
  rw [hl2p]
  exact mget_mset_self _ _ _ _

/-! ### PART.RLS (R231) -/

/-- Emptying several rule slots. -/
theorem rule_foldl_fresh (n : Nat) (ns : List Nat) (s : State) :
    (ns.foldl (fun s n => s.modRule n (fun _ => Slot.fresh)) s).rule n = if n ∈ ns then Slot.fresh else s.rule n := by
  induction ns generalizing s with
  | nil => simp
  | cons m ns ih =>
    rw [List.foldl_cons, ih, State.rule_modRule]
    by_cases hn : n = m <;> simp [hn]

theorem partRlsWrite_eq {q : Nat} (hq : q < 16) (v : BitVec 8) (s : State) :
    Sys2Proof.Machine.exec (.partRlsWrite q v) s = .next (s.writeRls q v) := if_pos hq

theorem writeRls_rule (s : State) (q : Nat) (v : BitVec 8) {n : Nat} (hn : n < 8) :
    (s.writeRls q v).rule n = if (s.part q).rls.getLsbD n ∧ ¬ v.getLsbD n then Slot.fresh else s.rule n := by
  unfold State.writeRls
  dsimp only
  rw [rule_foldl_fresh]
  simp [upTo, hn]

/-- Beside the slots that leave, a write of PART.RLS changes the partition alone. -/
theorem writeRls_keeps (s : State) (q : Nat) (v : BitVec 8) :
    (s.writeRls q v).cores = s.cores ∧ Account (s.modPart q (fun x => { x with rls := v })) (s.writeRls q v) := by
  unfold State.writeRls
  dsimp only
  exact ⟨foldl_keeps State.cores (f := fun s n => s.modRule n (fun _ => Slot.fresh)) (fun _ _ => rfl) _ _,
    account_foldl _ _ (fun s n => Account.of_fields (t := s.modRule n (fun _ => Slot.fresh)) rfl rfl rfl rfl) _⟩

theorem writeRls_rls (s : State) (q : Nat) (v : BitVec 8) : ((s.writeRls q v).part q).rls = v := by
  obtain ⟨-, haccount⟩ := writeRls_keeps s q v
  have hparts : (s.writeRls q v).parts = (s.modPart q (fun x => { x with rls := v })).parts := congrArg (·.1) haccount.desk
  unfold State.part
  rw [hparts]
  exact congrArg Partition.rls (State.part_modPart_self s q _)

/-- Settles O58: OP 1 and OP 2 by the state in which each has ended, the writes of PART.L2P and PART.RLS by their equations. -/
theorem saveRestoreSteps : Obligations.SaveRestoreSteps := by
  unfold Obligations.SaveRestoreSteps
  refine ⟨fun s p hop => ⟨fun hfits => ?outside, fun hfits hready hgood => ?saved⟩, fun s p hop => ⟨fun hbad => ?refused,
    fun hfits hempty hgood => ?restored⟩, ?unnumbered, ?numbered, ?fused, ?slots⟩
  case outside =>
    obtain ⟨hmsb, hmbox, hmemory, hcontexts⟩ := msbFailed_fields s p
    exact ⟨_, msbSave_exec hop (msbSave_outside hfits), hmsb, hmemory, hcontexts, hmbox⟩
  case saved =>
    obtain ⟨i, hsaves, hcore, hdiverge, hqueue⟩ := spilled_saves s p
    obtain ⟨hmsb, hctl⟩ := msbSaved_kit s p
    have hcleared : ∀ c : Core, (c.msbSaved.mbox = [] ∧ c.msbSaved.cq = [] ∧ c.msbSaved.west = [] ∧ c.msbSaved.east = [])
        ∧ c.msbSaved.saved = true ∧ c.msbSaved.mem = c.mem := fun _ => ⟨⟨rfl, rfl, rfl, rfl⟩, rfl, rfl⟩
    obtain ⟨⟨hmbox, hcq, hwest, heast⟩, hsaved, hmem⟩ :=
      hcleared (((s.spilled p).putPieces p (s.core p).msbBase ((s.spilled p).saveBytes p)).core p)
    rw [← msbSaved_core] at hmbox hcq hwest heast hsaved hmem
    unfold State.spilled State.saveBytes at hmem
    exact ⟨_, i, msbSave_exec hop (msbSave_ok hfits hready hgood), hmsb, hmbox, hcq, hwest, heast, hsaved, hctl, hmem,
      (msbSaved_saves s p).trans hsaves, hcore, hdiverge, hqueue, fun q hq => msbSaved_core_other s hq⟩
  case refused =>
    obtain ⟨hmsb, -, hmemory, hcontexts⟩ := msbFailed_fields s p
    exact ⟨_, msbRestore_exec hop (msbRestore_refused hbad), hmsb, hmemory, hcontexts⟩
  case restored =>
    obtain ⟨hmsb, hsaved, hovf, htsw, hgen, hcq, hctl, -⟩ := by
      simpa only [Core.board, Core.wordAt, Nat.add_zero, seedZero, Prod.mk.injEq] using msbRestored_board s p
    refine ⟨_, msbRestore_exec hop (msbRestore_ok hfits hempty hgood), hmsb, hsaved, hovf, htsw, hgen, ?_, hctl, msbRestored_memory s p⟩
    rw [hcq]
    exact spilledQueue_length _ _
  case unnumbered =>
    intro s q l e hq hl hfree hinvalid
    refine ⟨_, l2pRemap_of_free hq hl hfree e, ?_⟩
    rw [if_neg (ne_true_of_eq_false hinvalid), (l2pWritten_part s q l _).1, ← l2pEntry_of_invalid hinvalid]
    exact ⟨mget_mset_self _ _ _ _, rfl⟩
  case numbered =>
    intro s q l e hq hl hfree hvalid hpart hfused
    have hunmoved := (unmoved_l2pWritten s q l (l2pEntry e)).trans (account_modCore (s.l2pWritten q l (l2pEntry e)) (e.toNat % 8192)
      (f := fun c => { c with lpid := some l }) (fun _ => rfl) (fun _ _ => rfl)).toUnmoved
    refine ⟨_, l2pRemap_of_free hq hl hfree e, ?_⟩
    rw [if_pos hvalid, number_held (s := s.l2pWritten q l (l2pEntry e)) hpart hfused]
    refine ⟨?_, ?_, fun p hp => ?_, hunmoved.sameMemory, hunmoved.contexts⟩
    · rw [← l2pEntry_core e]
      exact physOf_l2pWritten s q l ((l2pEntry_valid e).trans hvalid)
    · rw [State.core_modCore_self]
    · rw [State.core_modCore, if_neg hp]
      rfl
  case fused =>
    intro s q l e hq hl hfree hvalid hfused
    refine ⟨_, l2pRemap_of_free hq hl hfree e, ?_⟩
    rw [if_pos hvalid, number_fusedOff (s := s.l2pWritten q l (l2pEntry e)) hfused]
    exact ⟨rfl, rfl⟩
  case slots =>
    intro s q v hq
    obtain ⟨hcores, haccount⟩ := writeRls_keeps s q v
    exact ⟨_, partRlsWrite_eq hq v s, writeRls_rls s q v, fun n hn => writeRls_rule s q v hn, hcores, haccount.sameMemory⟩

end Sys2Proof.Machine
end

section
/-! PROOF. Matrix pushes (O43): a push keeps the words of its record, and MCFG pushes its address, where the statement has 0. -/

namespace Sys2Proof.Machine

/-! ### A push into the matrix queue (R221, R244) -/

/-- Whether a ring entry is free does not depend on what it is taken for (R329). -/
theorem takeRing_of_matRoom {c : Core} (h : c.matRoom = true) (e : RingEntry) : ∃ k d, c.takeRing e = .ok (k, d) := by
  unfold Core.matRoom Core.takeRing at h
  unfold Core.takeRing
  cases hfree : c.ringFree with
  | none => rw [hfree] at h; simp at h
  | some k => exact ⟨_, _, rfl⟩

theorem pushMat_of_matRoom {s : State} {p : Nat} (h : (s.core p).matRoom = true) (pc : BitVec 57) (w : List Word) (f : Option VWord)
    (bad : Bool) : ∃ t, s.pushMat p pc w f bad = .ok t := by
  have hlen : (s.core p).mq.length < 16 := by
    unfold Core.matRoom at h
    rw [Bool.and_eq_true, decide_eq_true_eq] at h
    exact h.1
  unfold State.pushMat
  dsimp only
  rw [if_neg (Nat.not_le.2 hlen)]
  obtain ⟨k, d, hring⟩ := takeRing_of_matRoom h { RingEntry.empty with mat := true, pc := pc, hand := s.ctx == 0 && (s.core p).handler == some 0 }
  rw [hring]
  exact ⟨_, rfl⟩

/-- Beside its pair number, a core keeps what it had when it takes one (R365). -/
theorem pairTake_mq (s : State) (p : Nat) (far : Bool) (q : Nat) : ((s.pairTake p far).2.core q).mq = (s.core q).mq := by
  unfold State.pairTake
  dsimp only
  split
  · rfl
  · rw [State.core_modCore]
    split
    · rename_i hq; rw [hq]
    · rfl

theorem takeRing_mq {c d : Core} {e : RingEntry} {k : Nat} (h : c.takeRing e = .ok (k, d)) : d.mq = c.mq := by
  unfold Core.takeRing at h
  split at h
  · cases h
  · cases h; rfl

/-- The settled bytes and the failure of a command say nothing of its words. -/
theorem pushMat_w1 {s t : State} {p : Nat} {pc : BitVec 57} {w : List Word} {f : Option VWord} {bad : Bool}
    (h : s.pushMat p pc w f bad = .ok t) : (t.core p).mq.map (·.w1) = (s.core p).mq.map (·.w1) ++ [w.getD 1 0] := by
  unfold State.pushMat at h
  dsimp only at h
  split at h
  · cases h
  · split at h
    · cases h
    · rename_i k c hring
      cases h
      rw [State.core_modCore_self]
      dsimp only
      rw [pairTake_mq, State.core_setCore_self, takeRing_mq hring, List.map_append, List.map_cons, List.map_nil]
      congr 2
      split
      · rfl
      · split <;> rfl

/-! ### MCFG (R252) -/

/-- How MCFG completes: `w1` gives the second word of what it pushes, for the address of its bytes. -/
def mcfgRule (w1 : Nat → Word) (o : Opnds) (v : Vals) (s1 s' : State) (r : Option Res) (jump : Option Word) : Prop :=
  r = none ∧ jump = none ∧ ∃ pl sp x sc, s1.me.matRoom = true ∧ s1.nearPlace (effAddr o v) 64 = .ok (pl, sp)
    ∧ sp.takeAt pl 64 = .ok (x, sc) ∧ Same s1 sc ∧ Same s1 s'
    ∧ sc.pushMat sc.cur (sc.cx.pc.setWidth 57) [BitVec.ofNat 64 (6 * 2 ^ 61), w1 (effAddr o v), v.x.s &&& 0xFFFFFFFF, 0]
        (some (BitVec.ofNat 512 x)) false = .ok s'

/-- MCFG pushes the address of its bytes, which the message of a reserved selector tells (R331). -/
theorem mcfg_completes (e : Fields) (s : State) : s.completes (.mcfg e) (mcfgRule (BitVec.ofNat 64)) := by
  refine completes_intro (eff := effMcfg) rfl ?_
  rintro v s1 s' r jump - ⟨rfl, rfl, pl, sp, x, sc, hroom, hplace, htake, -, hsame, hpush⟩
  unfold effMcfg State.bytesWhen
  rw [hplace, hroom]
  dsimp only
  rw [if_pos rfl, htake]
  dsimp only
  rw [hpush]
  exact ⟨rfl, hsame⟩

/-- Where MCFG reads its bytes without a change of state, only one second word can be what it pushes. -/
theorem mcfgRule_w1_unique {e : Fields} {s s1 : State} {v : Vals} {pl : Place} {x : Nat} {f g : Nat → Word}
    (hf : s.completes (.mcfg e) (mcfgRule f)) (hg : s.completes (.mcfg e) (mcfgRule g)) (hstarts : s.starts (.mcfg e) = some (v, s1))
    (hroom : s1.me.matRoom = true) (hplace : s1.nearPlace (effAddr (Instr.mcfg e).opnds v) 64 = .ok (pl, s1))
    (htake : s1.takeAt pl 64 = .ok (x, s1)) :
    f (effAddr (Instr.mcfg e).opnds v) = g (effAddr (Instr.mcfg e).opnds v) := by
  have hpushed : ∀ {w1 : Nat → Word}, s.completes (.mcfg e) (mcfgRule w1) → ∃ t, Sys2Proof.Machine.exec (.mcfg e) s = .next t
      ∧ (t.core s1.cur).mq.map (·.w1) = s1.me.mq.map (·.w1) ++ [w1 (effAddr (Instr.mcfg e).opnds v)] := by
    intro w1 h
    obtain ⟨u, hu⟩ := pushMat_of_matRoom (s := s1) (p := s1.cur) hroom (s1.cx.pc.setWidth 57)
      [BitVec.ofNat 64 (6 * 2 ^ 61), w1 (effAddr (Instr.mcfg e).opnds v), v.x.s &&& 0xFFFFFFFF, 0] (some (BitVec.ofNat 512 x)) false
    obtain ⟨t, ht, hran⟩ := h v s1 u none none u hstarts
      ⟨rfl, rfl, pl, s1, x, s1, hroom, hplace, htake, Same.refl s1, same_pushMat hu, hu⟩ rfl
    have hmq : (t.core s1.cur).mq = (u.core s1.cur).mq := by
      have hrest := congrArg Core.mq (hran.cores s1.cur)
      exact hrest
    exact ⟨t, ht, (congrArg (List.map (·.w1)) hmq).trans (pushMat_w1 hu)⟩
  obtain ⟨t, ht, htf⟩ := hpushed hf
  obtain ⟨u, hu, hug⟩ := hpushed hg
  cases ht.symm.trans hu
  exact List.singleton_inj.1 (List.append_cancel_left (htf.symm.trans hug))

/-- MCFG of the 64 bytes at address 8. -/
def mcfgAtEight : Fields := { page := false, mod := none, reg := none, imms := [8], x := 2, y := 3 }

/-- Refutes O43: after reset MCFG of the 64 bytes at address 8 completes, and the command that it pushes has w1 = 8, where the statement has 0. -/
theorem not_matrixPushResults : ¬ Obligations.MatrixPushResults := by
  unfold Obligations.MatrixPushResults
  intro h
  obtain ⟨hforms, -⟩ := h
  obtain ⟨-, -, -, -, -, -, -, hmcfg, -⟩ := hforms mcfgAtEight State.reset
  obtain ⟨v, hstarts, haddr⟩ : ∃ v, State.reset.starts (.mcfg mcfgAtEight) = some (v, State.reset)
      ∧ effAddr (Instr.mcfg mcfgAtEight).opnds v = 8 := ⟨_, rfl, rfl⟩
  have hplace : State.reset.nearPlace (effAddr (Instr.mcfg mcfgAtEight).opnds v) 64 = .ok (.loc 8, State.reset) := by rw [haddr]; rfl
  have hsame := mcfgRule_w1_unique (f := fun _ => 0) hmcfg (mcfg_completes mcfgAtEight State.reset) hstarts rfl hplace (x := 0) rfl
  rw [haddr] at hsame
  exact absurd hsame (by decide)

end Sys2Proof.Machine
end

section
/-! PROOF. Rule and digest instructions (O44): the forms that push by their common effect, the others by what each reads and writes. -/

namespace Sys2Proof.Machine

/-! ### Forms that push a record (R255, R264, R266) -/

/-- How a form that pushes a rule record completes. -/
def rulePushRule (op : Nat) (o : Opnds) (v : Vals) (s1 s' : State) (r : Option Res) (jump : Option Word) : Prop :=
  r = none ∧ jump = none ∧ ∃ pl sp w sc, s1.ruleRoom s1.cur op = true ∧ s1.nearPlace (v.y.s + o.imm).toNat 32 = .ok (pl, sp)
    ∧ sp.recordAt pl = .ok (w, sc) ∧ Same s1 sc ∧ Same s1 s'
    ∧ sc.pushRule sc.cur sc.ctx [wput (w.getD 0 0) 56 8 op, w.getD 1 0 + v.x.s, w.getD 2 0, w.getD 3 0] false = .ok s'

theorem recordWhen_of_room {s sp sc : State} {ea : Nat} {pl : Place} {w : List Word} {room : Bool} (hroom : room = true)
    (hplace : s.nearPlace ea 32 = .ok (pl, sp)) (hread : sp.recordAt pl = .ok (w, sc)) : s.recordWhen ea room = .ok (w, sc) := by
  unfold State.recordWhen
  rw [hplace, hroom]
  exact hread

/-- `pushRule` has a name of its own in the proof, so that nothing is computed of the record that it takes. -/
theorem ruleFormEff_of_push {op : Nat} {o : Opnds} {v : Vals} {s sc t : State} {w : List Word}
    (hrecord : s.recordWhen (effAddr o v) (s.ruleRoom s.cur op) = .ok (w, sc))
    (hpush : sc.pushRule sc.cur sc.ctx [wput (w.getD 0 0) 56 8 op, w.getD 1 0 + v.x.s, w.getD 2 0, w.getD 3 0] false = .ok t) :
    ruleFormEff op o v s = Done.plain t := by
  obtain ⟨push, hrule⟩ : ∃ push, push = State.pushRule := ⟨_, rfl⟩
  unfold ruleFormEff
  rw [← hrule] at hpush ⊢
  rw [hrecord]
  dsimp only
  rw [hpush]

theorem completes_ruleForm {s : State} {i : Instr} {op : Nat}
    (hexec : Sys2Proof.Machine.exec i s = .next (s.issue i (ruleFormEff op))) : s.completes i (rulePushRule op) := by
  refine completes_intro hexec ?_
  rintro v s1 s' r jump - ⟨rfl, rfl, pl, sp, w, sc, hroom, hplace, hread, -, hsame, hpush⟩
  exact ⟨ruleFormEff_of_push (recordWhen_of_room hroom hplace hread) hpush, hsame⟩

/-! ### Images that are read (R359) -/

theorem correct_rules (s : State) (p : Nat) (st : Store) (a n : Nat) : (s.correct p st a n).rules = s.rules := by
  have h := congrArg State.rules (correct_device s p st a n)
  exact h

/-- A read of images corrects errors and changes no slot. -/
theorem readImages_keeps {s t : State} {n k : Nat} {which : List Bool} (h : s.readImages n k which = .ok t) : Same s t ∧ t.rules = s.rules := by
  unfold State.readImages at h
  split at h
  · cases h
  · cases h
    exact ⟨same_foldl _ _ (fun u b => same_correct u _ _ _ _) s, foldl_keeps State.rules (fun u b => correct_rules u _ _ _ _) which s⟩

theorem readImages_rule {s t : State} {n k : Nat} {which : List Bool} (h : s.readImages n k which = .ok t) (m : Nat) : t.rule m = s.rule m := by
  unfold State.rule
  rw [(readImages_keeps h).2]

theorem slotNumber (w : Word) : wfield w 0 3 = w.toNat % 8 := wfield_low w 3

/-! ### RLVER (R261) -/

theorem effRlver_other {o : Opnds} {v : Vals} {s : State} (howns : s.ownsSlot (v.y.s.toNat % 8) = false) :
    effRlver o v s = Done.result s (.s 0) := by
  unfold effRlver
  dsimp only
  rw [slotNumber, howns]
  rfl

theorem effRlver_owned {o : Opnds} {v : Vals} {s t : State} (howns : s.ownsSlot (v.y.s.toNat % 8) = true)
    (hread : s.readImages (v.y.s.toNat % 8) 8 [false, true] = .ok t) :
    effRlver o v s = Done.result t (.s (slotWord (s.rule (v.y.s.toNat % 8)))) := by
  unfold effRlver
  dsimp only
  rw [slotNumber, howns, hread, ← readImages_rule hread]
  rfl

/-! ### RLSW (R262) -/

section

variable {o : Opnds} {v : Vals} {s t u : State} {n : Nat} {z : Slot} (hn : v.y.s.toNat % 8 = n) (howns : s.ownsSlot n = true)
  (hz : s.rule n = z)

include hn howns hz

/-- A pending switch is cancelled. -/
theorem effRlsw_pending (hpend : z.pend = true) :
    effRlsw o v s = Done.result (s.modRule n (fun _ => { z with pend := false, spoiled := false })) (.s 3) := by
  unfold effRlsw switchSlot
  dsimp only
  rw [slotNumber, hn, howns, hz, hpend]
  rfl

/-- No switch is pending, and the other bank's header is ill-formed. -/
theorem effRlsw_illFormed (hpend : z.pend = false) (hread : s.readImages n 0x100 [!z.active] = .ok t)
    (hbad : imageOk (z.image (!z.active)) = false) : effRlsw o v s = Done.result (t.modRule n (fun _ => z)) (.s 1) := by
  unfold effRlsw switchSlot
  dsimp only
  rw [slotNumber, hn, howns, hz, hpend, hread, hbad]
  rfl

/-- No switch is pending, and the other bank's header is well-formed: its VER decides. -/
theorem effRlsw_wellFormed (hpend : z.pend = false) (hread : s.readImages n 0x100 [!z.active] = .ok t)
    (hgood : imageOk (z.image (!z.active)) = true) (hread' : t.readImages n 8 [z.active] = .ok u) :
    effRlsw o v s = if imageVer (z.image (!z.active)) = imageVer (z.image z.active)
      then Done.result (u.modRule n (fun _ => z)) (.s 2)
      else Done.result (u.modRule n (fun _ => { z with pend := true, ref := false, spoiled := false })) (.s 0) := by
  unfold effRlsw switchSlot
  dsimp only
  rw [slotNumber, hn, howns, hz, hpend, hread, hgood]
  by_cases hver : imageVer (z.image (!z.active)) = imageVer (z.image z.active)
  · simp only [hver, Bool.not_true, Bool.false_eq_true, if_false, if_true, hread']
    rfl
  · simp only [hver, Bool.not_true, Bool.false_eq_true, if_false, hread']
    rfl

end

/-! ### RLWR and RLRD (R263) -/

/-- A rule word within its limits names bytes of one image. -/
theorem ruleWordOk_of_limits {w : Word} {bsel : Bool} (hbank : bsel = true ∨ w.getLsbD 30 = false) (hhigh : w.toNat / 2 ^ 31 = 0)
    (hlen : w.toNat / 2 ^ 16 % 2 ^ 14 % 8 = 0) (hlow : 8 ≤ w.toNat / 2 ^ 16 % 2 ^ 14) (hmax : w.toNat / 2 ^ 16 % 2 ^ 14 ≤ 8192)
    (hoff : w.toNat % 2 ^ 13 % 8 = 0) (hend : w.toNat % 2 ^ 13 + w.toNat / 2 ^ 16 % 2 ^ 14 ≤ 8192) : ruleWordOk w bsel = true := by
  have hbsel : (bsel || !w.getLsbD 30) = true := by rw [Bool.or_eq_true, Bool.not_eq_true']; exact hbank
  have hzero : wfield w 31 33 = 0 := by unfold wfield bits; rw [hhigh, Nat.zero_mod]
  have hlength : wfield w 16 14 = w.toNat / 2 ^ 16 % 2 ^ 14 := rfl
  unfold ruleWordOk
  simp only [hbsel, hzero, hlength, wfield_low, hlen, hlow, hmax, hoff, hend]
  decide

/-- RLWR of `len` bytes from `off` on in slot `n`. -/
theorem effRlwr_of_load {o : Opnds} {v : Vals} {s t : State} {n off len x : Nat} (hn : wfield v.y.s 13 3 = n) (hoff : wfield v.y.s 0 13 = off)
    (hlen : wfield v.y.s 16 14 = len) (hok : ruleWordOk v.y.s false = true) (howns : s.ownsSlot n = true)
    (hload : s.loadNear v.x.s.toNat len = .ok (x, t)) (hgood : t.partBad (.rule n (!(t.rule n).active)) off len = false) :
    effRlwr o v s = Done.plain (((t.partFix t.cur (.rule n (!(t.rule n).active)) off len).modRule n (fun z =>
      { z.setImage (!z.active) (bwrite (z.image (!z.active)) off len x) with spoiled := z.spoiled || z.pend })).clearErr
        (.rule n (!(t.rule n).active)) off len) := by
  subst hn hoff hlen
  unfold effRlwr
  dsimp only
  rw [hok, howns, hload]
  dsimp only
  rw [hgood]
  rfl

/-- RLRD of `len` bytes from `off` on of an image of slot `n`. -/
theorem effRlrd_of_store {o : Opnds} {v : Vals} {s t : State} {n off len : Nat} {bank : Bool} (hn : wfield v.y.s 13 3 = n)
    (hoff : wfield v.y.s 0 13 = off) (hlen : wfield v.y.s 16 14 = len)
    (hbank : (if v.y.s.getLsbD 30 then !(s.rule n).active else (s.rule n).active) = bank) (hok : ruleWordOk v.y.s true = true)
    (howns : s.ownsSlot n = true) (hstore : s.storeNear v.x.s.toNat len (bread ((s.rule n).image bank) off len) = .ok t)
    (hgood : s.hardErr (.rule n bank) off len = false) :
    effRlrd o v s = Done.plain (t.correct s.cur (.rule n bank) off len) := by
  subst hn hoff hlen hbank
  unfold effRlrd
  dsimp only
  rw [hok, howns, hstore]
  dsimp only
  rw [hgood]
  rfl

/-- Settles O44: the pushing forms by their common effect, each of the others by the equation of its own. -/
theorem ruleInstructionResults : Obligations.RuleInstructionResults := by
  unfold Obligations.RuleInstructionResults
  intro e s pushes owns len off slot inImage
  refine ⟨?rlupd, ?rltape, ?rlrev, ?rdreg, ?rdcmp, ?rlstat, ?rlver, ?rlsw, ?rlwr, ?rlrd, ?rdget⟩
  case rlupd => exact completes_ruleForm (op := 1) rfl
  case rltape => exact completes_ruleForm (op := 2) rfl
  case rlrev => exact completes_ruleForm (op := 3) rfl
  case rdreg => exact completes_ruleForm (op := 0x10) rfl
  case rdcmp => exact completes_ruleForm (op := 0x12) rfl
  case rlstat => exact gives_intro (eff := effRlstat) rfl (fun _ _ _ => rfl)
  case rlver =>
    refine completes_intro (eff := effRlver) rfl ?_
    rintro v s1 s' r jump - ⟨rfl, ⟨howns, rfl, rfl⟩ | ⟨howns, hread, rfl⟩⟩
    · exact ⟨effRlver_other howns, Same.refl _⟩
    · exact ⟨effRlver_owned howns hread, (readImages_keeps hread).1⟩
  case rlsw =>
    refine completes_intro (eff := effRlsw) rfl ?_
    rintro v s1 s' r jump - ⟨rfl, howns, ⟨hpend, rfl, rfl⟩ | ⟨hpend, u, hread, hheader⟩⟩
    · exact ⟨effRlsw_pending rfl howns rfl hpend, ⟨rfl, rfl, rfl⟩⟩
    have hsame := (readImages_keeps hread).1
    obtain ⟨hbad, rfl, rfl⟩ | ⟨hgood, w, hread', hver⟩ := hheader
    · exact ⟨effRlsw_illFormed rfl howns rfl hpend hread hbad, hsame⟩
    have heff := effRlsw_wellFormed (o := (Instr.rlsw e).opnds) rfl howns rfl hpend hread hgood hread'
    have hsame' := hsame.trans (readImages_keeps hread').1
    obtain ⟨hver, rfl, rfl⟩ | ⟨hver, rfl, rfl⟩ := hver
    · exact ⟨heff.trans (if_pos hver), hsame'⟩
    · exact ⟨heff.trans (if_neg hver), hsame'⟩
  case rlwr =>
    refine completes_intro (eff := effRlwr) rfl ?_
    rintro v s1 s' r jump - ⟨rfl, rfl, ⟨hhigh, hlen, hlow, hmax, hoff, hend⟩, hbank, howns, x, sc, hload, hsame, hgood, rfl⟩
    have hok : ruleWordOk v.y.s false = true := ruleWordOk_of_limits (.inr hbank) hhigh hlen hlow hmax hoff hend
    exact ⟨effRlwr_of_load rfl (wfield_low _ _) rfl hok howns hload hgood, (hsame.trans (same_partFix sc _ _ _ _)).trans (same_clearErr _ _ _ _)⟩
  case rlrd =>
    refine completes_intro (eff := effRlrd) rfl ?_
    rintro v s1 s' r jump - ⟨rfl, rfl, ⟨hhigh, hlen, hlow, hmax, hoff, hend⟩, howns, hgood, u, hstore, hsame, rfl⟩
    have hok : ruleWordOk v.y.s true = true := ruleWordOk_of_limits (.inl rfl) hhigh hlen hlow hmax hoff hend
    exact ⟨effRlrd_of_store rfl (wfield_low _ _) rfl rfl hok howns hstore hgood, hsame.trans (same_correct u _ _ _ _)⟩
  case rdget =>
    refine completes_intro (eff := effRdget) rfl ?_
    rintro v s1 s' r jump - ⟨rfl, rfl, rfl⟩
    exact ⟨rfl, Same.refl _⟩

end Sys2Proof.Machine
end

section
/-! PROOF. Digest comparisons and collectives (O53): what each part of an ending keeps, then RDCMP_END and the collectives by what they leave. -/

namespace Sys2Proof.Machine

/-! ### The numbers of the commands -/

/-- The numbers of the commands under way. -/
def State.cmdIds (s : State) : List Nat := s.cmds.map (·.id)

theorem id_of_cmdBy {s : State} {k : Nat} {c : RuleCmd} (h : s.cmdBy k = some c) : c.id = k := by
  simpa using List.find?_some h

theorem dropCmd_cmdIds (s : State) (k : Nat) : k ∉ (s.dropCmd k).cmdIds := by
  simp [State.cmdIds, State.dropCmd]

theorem ne_of_cmdIds {s : State} {k : Nat} (h : k ∉ s.cmdIds) : ∀ x ∈ s.cmds, x.id ≠ k :=
  fun _ hx hk => h (List.mem_map.2 ⟨_, hx, hk⟩)

/-! ### Refusals and the end of a collective (R67, R380) -/

theorem collTold_eq (s : State) (c : RuleCmd) : ∃ r, s.collTold c = { s with refusals := r } := by
  unfold State.collTold
  split
  · exact ⟨_, rfl⟩
  · exact ⟨s.refusals, rfl⟩

/-! ### The update gate (R348, R349) -/

/-- An ending sets the gate, and changes of the commands only what the gate holds. -/
theorem settleGate_eq (s : State) (q : Nat) (shut : Option Bool) : ∃ cmds : List RuleCmd, cmds.map (·.id) = s.cmdIds
    ∧ s.settleGate q shut = { s with cmds := cmds }.modPart q (fun x => { x with shut := shut.getD x.shut }) := by
  have hkeep : ∀ (p : RuleCmd → Bool) (f : RuleCmd → RuleCmd), (∀ d, (f d).id = d.id) →
      (s.cmds.map (fun d => if p d then f d else d)).map (·.id) = s.cmdIds := by
    intro p f hf
    unfold State.cmdIds
    rw [List.map_map]
    refine List.map_congr_left (fun d _ => ?_)
    dsimp only [Function.comp]
    split
    · exact hf d
    · rfl
  unfold State.settleGate
  dsimp only
  split
  · exact ⟨_, hkeep _ (fun d => { d with held := false, gated := true }) (fun _ => rfl), rfl⟩
  · split
    · exact ⟨_, hkeep _ (fun d => { d with held := false }) (fun _ => rfl), rfl⟩
    · exact ⟨_, rfl, rfl⟩

theorem settleGate_part (s : State) (q r : Nat) (shut : Option Bool) : (s.settleGate q shut).part r =
    if r = q then { s.part q with shut := shut.getD (s.part q).shut } else s.part r := by
  obtain ⟨cmds, -, heq⟩ := settleGate_eq s q shut
  rw [heq]
  exact State.part_modPart _ q r _

theorem settleGate_cmdIds (s : State) (q : Nat) (shut : Option Bool) : (s.settleGate q shut).cmdIds = s.cmdIds := by
  obtain ⟨cmds, hids, heq⟩ := settleGate_eq s q shut
  rw [heq]
  exact hids

/-- What the gate, and what is noted of an ending, leave alone: cores, clusters, main memory, images of saved contexts. -/
def State.frame (s : State) : Map Core × Map Cluster × Mem × List SaveImage := (s.cores, s.clusters, s.phys, s.saves)

theorem frame_fields {s t : State} (h : t.frame = s.frame) :
    t.cores = s.cores ∧ t.clusters = s.clusters ∧ t.phys = s.phys ∧ t.saves = s.saves := by
  simpa only [State.frame, Prod.mk.injEq] using h

theorem settleGate_frame (s : State) (q : Nat) (shut : Option Bool) : (s.settleGate q shut).frame = s.frame := by
  obtain ⟨cmds, -, heq⟩ := settleGate_eq s q shut
  rw [heq]
  rfl

theorem unmoved_of_frame {s t : State} (h : t.frame = s.frame) : Unmoved s t := by
  obtain ⟨hcores, hclusters, hphys, -⟩ := frame_fields h
  exact ⟨stock_of_cores hcores, fun p k => by unfold State.core; rw [hcores], fun cl => by unfold State.cluster; rw [hclusters], hphys⟩

theorem core_of_frame {s t : State} (h : t.frame = s.frame) (p : Nat) : t.core p = s.core p := by
  obtain ⟨hcores, -⟩ := frame_fields h
  unfold State.core
  rw [hcores]

theorem modCore_frame {s t : State} (h : t.frame = s.frame) (p : Nat) (f : Core → Core) : (t.modCore p f).frame = (s.modCore p f).frame := by
  obtain ⟨hcores, hclusters, hphys, hsaves⟩ := frame_fields h
  unfold State.frame State.modCore State.setCore
  dsimp only
  rw [core_of_frame h, hcores, hclusters, hphys, hsaves]

/-- Where no partition's reset begins or ends, completions are discarded as before (R380). -/
theorem silent_of_frame {s t : State} (h : t.frame = s.frame) (hstopped : ∀ q, (t.part q).stopped = (s.part q).stopped) (p : Nat) :
    t.silent p = s.silent p := by
  obtain ⟨-, hclusters, -⟩ := frame_fields h
  have hpart : t.partOf p = s.partOf p := by
    unfold State.partOf State.cluster
    rw [hclusters]
  unfold State.silent
  rw [hpart]
  split
  · exact hstopped _
  · rfl

theorem settleGate_stopped (s : State) (q r : Nat) (shut : Option Bool) : ((s.settleGate q shut).part r).stopped = (s.part r).stopped := by
  rw [settleGate_part]
  split
  · rename_i hr; rw [hr]
  · rfl

/-! ### The room that an RDCMP has reserved (R266, R337) -/

/-- A core whose reservation of `n` bytes has ended. -/
def Core.unreserved (c : Core) (n : Nat) : Core := { c with resv := c.resv.erase n }

theorem enterReserved_mailed {s : State} {d : RuleCmd} {e : MailEntry} (hspill : d.spill = none) (hsilent : s.silent d.core = false) :
    s.enterReserved d e = (s.modCore d.core (·.unreserved e.len)).modCore d.core (·.mailed e) := by
  unfold State.enterReserved
  rw [hspill]
  exact if_neg (ne_true_of_eq_false hsilent)

/-- The images of saved contexts once the one with this number takes the area of its core. -/
def State.areaTaken (s : State) (no p base : Nat) : State :=
  { s with saves := s.saves.map (fun (i : SaveImage) => if i.no == no then { i with area := areaCells (s.core p).mem base } else i) }

theorem enterReserved_spilled {s : State} {d : RuleCmd} {e : MailEntry} {no base : Nat} (hspill : d.spill = some (no, base))
    (hsilent : s.silent d.core = false) (hgood : s.piecesBad d.core (base + 0x1000) ((s.core d.core).spillItem base e) = false) :
    s.enterReserved d e = (s.putPieces d.core (base + 0x1000) ((s.core d.core).spillItem base e)).areaTaken no d.core base := by
  unfold State.enterReserved
  rw [hspill]
  dsimp only
  rw [hsilent, hgood]
  rfl

theorem poisonCore_cmds (s : State) (p : Nat) : (s.poisonCore p).cmds = s.cmds :=
  (quiet_leaveGang s p).alike.device State.cmds (fun _ => rfl)

theorem putPieces_cmds (s : State) (p base : Nat) (ps : List (Nat × Nat × Nat)) : (s.putPieces p base ps).cmds = s.cmds := by
  refine foldl_keeps State.cmds (fun s x => ?_) ps _
  have hclear : ∀ (s : State) st a n, (s.clearErr st a n).cmds = s.cmds := by
    intro s st a n
    unfold State.clearErr
    split <;> rfl
  rw [hclear]
  unfold State.partFix
  split
  · rfl
  · have hcmds := congrArg State.cmds (correct_device s p (.loc p) ((base + x.1) / 64 * 64) (((base + x.1) % 64 + x.2.1 + 63) / 64 * 64))
    exact hcmds

/-- Whatever comes of it, a completion changes no command. -/
theorem enterReserved_cmds (s : State) (d : RuleCmd) (e : MailEntry) : (s.enterReserved d e).cmds = s.cmds := by
  unfold State.enterReserved
  split
  · dsimp only
    split
    · rfl
    · split
      · exact poisonCore_cmds s d.core
      · exact putPieces_cmds _ _ _ _
  · dsimp only
    split <;> rfl

/-! ### A divergence (R267, R322) -/

theorem postSup_cmds (s : State) (n : Nat) (e : MailEntry) : (s.postSup n e).cmds = s.cmds := by
  unfold State.postSup State.supPut
  split
  · exact State.modDie_cmds _ _ _
  · rfl

theorem postSup_frame (s : State) (n : Nat) (e : MailEntry) : (s.postSup n e).frame = s.frame := by
  unfold State.postSup State.supPut State.frame
  split <;> simp

theorem divergeIn_cmds (s : State) (d : RuleCmd) (st : Nat) : (s.divergeIn d st).cmds = s.cmds := by
  unfold State.divergeIn
  dsimp only
  split <;> rfl

theorem divergeIn_parts (s : State) (d : RuleCmd) (st : Nat) : (s.divergeIn d st).parts = s.parts := by
  unfold State.divergeIn
  dsimp only
  split <;> rfl

/-- A divergence is noted from the cores and the saved images alone. -/
theorem divergeIn_frame {s t : State} (h : t.frame = s.frame) (d : RuleCmd) (st : Nat) : (t.divergeIn d st).frame = (s.divergeIn d st).frame := by
  obtain ⟨hcores, hclusters, hphys, hsaves⟩ := frame_fields h
  unfold State.divergeIn
  dsimp only
  split
  · unfold State.frame
    dsimp only
    rw [hcores, hclusters, hphys, hsaves]
  · exact modCore_frame h _ _

/-- A core's pending DIVERGE entries after a comparison that its present group has made. -/
def Core.divergedIn (c : Core) (d : RuleCmd) (st : Nat) : Core :=
  if c.group.map (fun g => (g.launch, g.index)) == d.grp then { c with diverge := c.diverge ++ [(d.ctx, st, BitVec.ofNat 32 d.tag)] } else c

theorem divergedIn_eq (c : Core) (d : RuleCmd) (st : Nat) : c.divergedIn d st = { c with diverge := c.diverge ++
    (if c.group.map (fun g => (g.launch, g.index)) = d.grp then [(d.ctx, st, BitVec.ofNat 32 d.tag)] else []) } := by
  unfold Core.divergedIn
  by_cases hgroup : c.group.map (fun g => (g.launch, g.index)) = d.grp
  · rw [if_pos (beq_iff_eq.2 hgroup), if_pos hgroup]
  · rw [if_neg (fun h => hgroup (beq_iff_eq.1 h)), if_neg hgroup, List.append_nil]

theorem divergeIn_mailed {d : RuleCmd} (hspill : d.spill = none) (s : State) (st : Nat) :
    s.divergeIn d st = s.modCore d.core (·.divergedIn d st) := by
  unfold State.divergeIn
  rw [hspill]
  rfl

theorem divergeIn_spilled {d : RuleCmd} {no base : Nat} (hspill : d.spill = some (no, base)) (s : State) (st : Nat) :
    s.divergeIn d st = { s with saves := s.saves.map (fun (i : SaveImage) =>
      if i.no == no then { i with diverge := i.diverge ++ [(d.ctx, st, BitVec.ofNat 32 d.tag)] } else i) } := by
  unfold State.divergeIn
  rw [hspill]

/-! ### The end of a comparison (R266 to R268, R348) -/

/-- RDCMP `c` is over, and its collective with it; a refusal is counted (R67). -/
def State.compareOver (s : State) (c : RuleCmd) (st : Nat) : State := ((if st = 7 then s.collTold c else s).endColl c).dropCmd c.id

/-- Its completion has been entered. -/
def State.compareEntered (s : State) (c : RuleCmd) (st map : Nat) (d : BitVec 128) : State :=
  (s.compareOver c st).enterReserved c (c.cmpDone st map d)

/-- The gate is set, and the partition knows how its last comparison has ended. -/
def State.compareGated (s : State) (c : RuleCmd) (st : Nat) : State :=
  (s.settleGate c.part (some (decide (2 ≤ st)))).modPart c.part (fun x => { x with lastStep := (c.high, st == 0) })

/-- A divergence is noted. -/
def State.compareNoted (s : State) (c : RuleCmd) (st : Nat) : State := if st = 2 ∨ st = 3 then s.divergeIn c st else s

theorem compareNoted_frame {s t : State} (h : t.frame = s.frame) (c : RuleCmd) (st : Nat) :
    (t.compareNoted c st).frame = (s.compareNoted c st).frame := by
  unfold State.compareNoted
  split
  · exact divergeIn_frame h c st
  · exact h

theorem compareOver_eq (s : State) (c : RuleCmd) (st : Nat) :
    ∃ r, s.compareOver c st = ({ s with refusals := r }.endColl c).dropCmd c.id := by
  unfold State.compareOver
  split
  · obtain ⟨r, hr⟩ := collTold_eq s c
    exact ⟨r, by rw [hr]⟩
  · exact ⟨s.refusals, rfl⟩

theorem compareOver_frame (s : State) (c : RuleCmd) (st : Nat) : (s.compareOver c st).frame = s.frame := by
  obtain ⟨r, hr⟩ := compareOver_eq s c st
  rw [hr]
  rfl

theorem compareOver_silent (s : State) (c : RuleCmd) (st p : Nat) : (s.compareOver c st).silent p = s.silent p := by
  obtain ⟨r, hr⟩ := compareOver_eq s c st
  rw [hr]
  rfl

theorem compareOver_piecesBad (s : State) (c : RuleCmd) (st p base : Nat) (ps : List (Nat × Nat × Nat)) :
    (s.compareOver c st).piecesBad p base ps = s.piecesBad p base ps := by
  obtain ⟨r, hr⟩ := compareOver_eq s c st
  rw [hr]
  rfl

theorem compareGated_frame (s : State) (c : RuleCmd) (st : Nat) : (s.compareGated c st).frame = s.frame :=
  settleGate_frame s c.part (some (decide (2 ≤ st)))

theorem endCompare_eq (s : State) (c : RuleCmd) (st map : Nat) (d : BitVec 128) : ∃ n e, s.endCompare c st map d =
    if st = 2 ∨ st = 3 then (((s.compareEntered c st map d).compareGated c st).divergeIn c st).postSup n e
    else (s.compareEntered c st map d).compareGated c st := by
  unfold State.endCompare
  by_cases hst : st = 2 ∨ st = 3
  · exact ⟨_, _, (if_pos (by simpa using hst)).trans (if_pos hst).symm⟩
  · exact ⟨0, c.cmpDone st map d, (if_neg (by simpa using hst)).trans (if_neg hst).symm⟩

theorem endCompare_frame (s : State) (c : RuleCmd) (st map : Nat) (d : BitVec 128) :
    (s.endCompare c st map d).frame = ((s.compareEntered c st map d).compareNoted c st).frame := by
  obtain ⟨n, e, heq⟩ := endCompare_eq s c st map d
  rw [heq]
  unfold State.compareNoted
  split
  · exact (postSup_frame _ n e).trans (divergeIn_frame (compareGated_frame _ c st) c st)
  · exact compareGated_frame _ c st

theorem endCompare_part (s : State) (c : RuleCmd) (st map : Nat) (d : BitVec 128) :
    ((s.endCompare c st map d).part c.part).shut = decide (2 ≤ st)
      ∧ ((s.endCompare c st map d).part c.part).lastStep = (c.high, st == 0) := by
  have hgated : ∀ u : State, ((u.compareGated c st).part c.part).shut = decide (2 ≤ st)
      ∧ ((u.compareGated c st).part c.part).lastStep = (c.high, st == 0) := by
    intro u
    unfold State.compareGated
    rw [State.part_modPart_self, settleGate_part, if_pos rfl]
    exact ⟨rfl, rfl⟩
  obtain ⟨n, e, heq⟩ := endCompare_eq s c st map d
  rw [heq]
  split
  · unfold State.part
    rw [postSup_parts, divergeIn_parts]
    exact hgated _
  · exact hgated _

theorem endCompare_cmdIds (s : State) (c : RuleCmd) (st map : Nat) (d : BitVec 128) : c.id ∉ (s.endCompare c st map d).cmdIds := by
  have hgated : c.id ∉ ((s.compareEntered c st map d).compareGated c st).cmdIds := by
    have hids : ((s.compareEntered c st map d).compareGated c st).cmdIds = (s.compareEntered c st map d).cmdIds := settleGate_cmdIds _ _ _
    rw [hids]
    unfold State.cmdIds State.compareEntered
    rw [enterReserved_cmds]
    exact dropCmd_cmdIds _ _
  obtain ⟨n, e, heq⟩ := endCompare_eq s c st map d
  rw [heq]
  split
  · unfold State.cmdIds
    rw [postSup_cmds, divergeIn_cmds]
    exact hgated
  · exact hgated

/-! ### A completion in the mailbox, and in a spill buffer -/

/-- What a comparison leaves of the core of its context. -/
def Core.compared (c : Core) (e : MailEntry) (d : RuleCmd) (st : Nat) : Core :=
  if st = 2 ∨ st = 3 then ((c.unreserved e.len).mailed e).divergedIn d st else (c.unreserved e.len).mailed e

theorem compared_eq (c : Core) (e : MailEntry) (d : RuleCmd) (st : Nat) : c.compared e d st = { (c.unreserved e.len).mailed e with
    diverge := c.diverge ++ (if (st = 2 ∨ st = 3) ∧ c.group.map (fun g => (g.launch, g.index)) = d.grp
      then [(d.ctx, st, BitVec.ofNat 32 d.tag)] else []) } := by
  unfold Core.compared
  by_cases hst : st = 2 ∨ st = 3
  · simp only [hst, if_true, true_and]
    exact divergedIn_eq ((c.unreserved e.len).mailed e) d st
  · simp only [hst, false_and, if_false, List.append_nil]
    rfl

/-- A completion that takes its reserved room in the mailbox, and then a divergence. -/
def State.mailedCompare (s : State) (c : RuleCmd) (e : MailEntry) (st : Nat) : State :=
  ((s.modCore c.core (·.unreserved e.len)).modCore c.core (·.mailed e)).compareNoted c st

theorem mailedCompare_core {c : RuleCmd} (hspill : c.spill = none) (s : State) (e : MailEntry) (st q : Nat) :
    (s.mailedCompare c e st).core q = (s.modCore c.core (fun x => x.compared e c st)).core q := by
  unfold State.mailedCompare State.compareNoted Core.compared
  split
  · rw [divergeIn_mailed hspill]
    simp only [State.core_modCore, if_true]
    split <;> rfl
  · simp only [State.core_modCore, if_true]
    split <;> rfl

theorem mailedCompare_places {c : RuleCmd} (hspill : c.spill = none) (s : State) (e : MailEntry) (st : Nat) :
    (s.mailedCompare c e st).clusters = s.clusters ∧ (s.mailedCompare c e st).phys = s.phys := by
  unfold State.mailedCompare State.compareNoted
  rw [divergeIn_mailed hspill]
  split <;> exact ⟨rfl, rfl⟩

/-- No memory and no context changes, and of the core only what tells of the comparison. -/
theorem mailedCompare_leaves {s t : State} {c : RuleCmd} {e : MailEntry} {st : Nat} (hspill : c.spill = none)
    (h : t.frame = (s.mailedCompare c e st).frame) :
    (t.core c.core).mbox = (s.core c.core).mbox ++ [e] ∧ (t.core c.core).resv = (s.core c.core).resv.erase e.len
      ∧ (t.core c.core).diverge = (s.core c.core).diverge ++ (if (st = 2 ∨ st = 3)
          ∧ (s.core c.core).group.map (fun g => (g.launch, g.index)) = c.grp then [(c.ctx, st, BitVec.ofNat 32 c.tag)] else [])
      ∧ SameMemory s t ∧ SameContexts s t := by
  obtain ⟨-, hclusters, hphys, -⟩ := frame_fields h
  obtain ⟨hclusters', hphys'⟩ := mailedCompare_places hspill s e st
  have hcore : ∀ q, t.core q = (s.modCore c.core (fun x => x.compared e c st)).core q :=
    fun q => (core_of_frame h q).trans (mailedCompare_core hspill s e st q)
  have haccount := account_modCore s c.core (f := fun x => x.compared e c st) (fun x => by rw [compared_eq]; rfl)
    (fun x k => by rw [compared_eq]; rfl)
  rw [hcore, State.core_modCore_self, compared_eq]
  refine ⟨rfl, rfl, rfl, ⟨fun q => ?_, fun cl => ?_, hphys.trans hphys'⟩, fun q k => ?_⟩
  · rw [hcore]
    exact haccount.sameMemory.1 q
  · unfold State.cluster
    rw [hclusters, hclusters']
  · rw [hcore]
    exact haccount.contexts q k

theorem endCompare_mailed {s : State} {c : RuleCmd} (hspill : c.spill = none) (hsilent : s.silent c.core = false) (st map : Nat)
    (d : BitVec 128) : (s.endCompare c st map d).frame = (s.mailedCompare c (c.cmpDone st map d) st).frame := by
  rw [endCompare_frame]
  refine compareNoted_frame ?_ c st
  unfold State.compareEntered
  rw [enterReserved_mailed hspill ((compareOver_silent s c st c.core).trans hsilent)]
  exact modCore_frame (modCore_frame (compareOver_frame s c st) _ _) _ _

theorem writePieces_keeps (c : Core) (base : Nat) (ps : List (Nat × Nat × Nat)) :
    (c.writePieces base ps).mbox = c.mbox ∧ ∀ k, (c.writePieces base ps).context k = c.context k := by
  have hmbox : ∀ (c : Core) a n v, (c.writeLocal a n v).mbox = c.mbox := by
    intro c a n v
    refine foldl_keeps Core.mbox (fun c _ => ?_) _ c
    unfold Core.logLine
    split
    · rfl
    · split <;> rfl
  exact ⟨foldl_keeps Core.mbox (fun c _ => hmbox c _ _ _) ps c,
    fun k => foldl_keeps (fun c : Core => c.context k) (fun c _ => writeLocal_context c _ _ _ k) ps c⟩

theorem endCompare_spilled {s : State} {c : RuleCmd} {no base : Nat} (hspill : c.spill = some (no, base)) (hsilent : s.silent c.core = false)
    {st map : Nat} {d : BitVec 128} {ws : List (Nat × Nat × Nat)} (hws : (s.core c.core).spillItem base (c.cmpDone st map d) = ws)
    (hgood : s.piecesBad c.core (base + 0x1000) ws = false) :
    (s.endCompare c st map d).frame
      = ((((s.compareOver c st).putPieces c.core (base + 0x1000) ws).areaTaken no c.core base).compareNoted c st).frame := by
  have hover : ((s.compareOver c st).core c.core).spillItem base (c.cmpDone st map d) = ws := by
    rw [core_of_frame (compareOver_frame s c st), hws]
  rw [endCompare_frame]
  unfold State.compareEntered
  rw [enterReserved_spilled hspill ((compareOver_silent s c st c.core).trans hsilent) (by rw [hover, compareOver_piecesBad, hgood]), hover]

/-- The image of the saved context takes its area and the divergence; no context changes, and no mailbox. -/
theorem endCompare_spilled_leaves {s : State} {c : RuleCmd} {no base : Nat} (hspill : c.spill = some (no, base))
    (hsilent : s.silent c.core = false) {st map : Nat} {d : BitVec 128} {ws : List (Nat × Nat × Nat)}
    (hws : (s.core c.core).spillItem base (c.cmpDone st map d) = ws) (hgood : s.piecesBad c.core (base + 0x1000) ws = false) :
    let t := s.endCompare c st map d
    (t.core c.core).mbox = (s.core c.core).mbox ∧ (t.core c.core).mem = ((s.putPieces c.core (base + 0x1000) ws).core c.core).mem
      ∧ t.saves = s.saves.map (fun i => if i.no = no
          then { i with area := areaCells (t.core c.core).mem base
                        diverge := i.diverge ++ (if st = 2 ∨ st = 3 then [(c.ctx, st, BitVec.ofNat 32 c.tag)] else []) } else i)
      ∧ SameContexts s t := by
  intro t
  obtain ⟨u, hu⟩ : ∃ u, u = (s.compareOver c st).putPieces c.core (base + 0x1000) ws := ⟨_, rfl⟩
  have hframe : t.frame = ((u.areaTaken no c.core base).compareNoted c st).frame := by
    rw [hu]
    exact endCompare_spilled hspill hsilent hws hgood
  have hput : ∀ q, u.core q = (s.putPieces c.core (base + 0x1000) ws).core q := by
    intro q
    rw [hu, putPieces_core, putPieces_core, core_of_frame (compareOver_frame s c st), core_of_frame (compareOver_frame s c st)]
  have hcore : ∀ q, t.core q = u.core q := by
    intro q
    rw [core_of_frame hframe]
    unfold State.compareNoted
    rw [divergeIn_spilled hspill]
    split <;> rfl
  have hsaves : u.saves = s.saves := by
    obtain ⟨-, -, -, hover⟩ := frame_fields (compareOver_frame s c st)
    rw [hu, (putPieces_fields _ _ _ _).2, hover]
  obtain ⟨hmbox, hcontext⟩ := writePieces_keeps (s.core c.core) (base + 0x1000) ws
  obtain ⟨-, -, -, hnoted⟩ := frame_fields hframe
  refine ⟨?mbox, ?mem, ?saves, fun q k => ?contexts⟩
  case mbox => rw [hcore, hput, putPieces_core, if_pos rfl, hmbox]
  case mem => rw [hcore, hput]
  case saves =>
    rw [hnoted, hcore, ← hsaves]
    unfold State.compareNoted State.areaTaken
    rw [divergeIn_spilled hspill]
    split
    · dsimp only
      rw [List.map_map]
      refine List.map_congr_left (fun i _ => ?_)
      by_cases hi : i.no = no <;> simp [hi]
    · refine List.map_congr_left (fun i _ => ?_)
      by_cases hi : i.no = no <;> simp [hi]
  case contexts =>
    rw [hcore, hput, putPieces_core]
    split
    · rename_i hq
      rw [hq, hcontext]
    · rfl

/-! ### RDCMP_END (R266 to R268) -/

/-- An RDCMP whose record can be used takes the digest once nothing before it has still to write back. -/
theorem rdcmpEnd_taken {s : State} {k : Nat} {c : RuleCmd} (hc : s.cmdBy k = some c) (hop : c.op = 0x12) (hposted : c.posted = false)
    (hbad : c.bad = false) (htaken : c.taken = none)
    (hwritten : ∀ d ∈ s.cmds, d.part = c.part → d.id < c.id → s.mustWrite d = false) :
    Sys2Proof.Machine.exec (.rdcmpEnd k) s = .next (s.modCmd k (fun d => { d with taken := some (s.digest c.part) })) := by
  change execRdcmpEnd k s = _
  unfold execRdcmpEnd
  rw [hc]
  dsimp only
  rw [if_neg (by simp [hop, hposted]), if_neg (by simp [hbad]), htaken]
  exact if_neg (by simpa using hwritten)

theorem rdcmpEnd_compared {s : State} {k st map : Nat} {c : RuleCmd} {own d : BitVec 128} (hc : s.cmdBy k = some c) (hop : c.op = 0x12)
    (hposted : c.posted = false) (hbad : c.bad = false) (htaken : c.taken = some own) (hcompared : s.compared c own = some (st, map, d)) :
    Sys2Proof.Machine.exec (.rdcmpEnd k) s = .next (s.endCompare c st map d) := by
  change execRdcmpEnd k s = _
  unfold execRdcmpEnd
  rw [hc]
  dsimp only
  rw [if_neg (by simp [hop, hposted]), if_neg (by simp [hbad]), htaken]
  dsimp only
  rw [hcompared]

theorem rdcmpEnd_bad {s : State} {k : Nat} {c : RuleCmd} (hc : s.cmdBy k = some c) (hop : c.op = 0x12) (hposted : c.posted = false)
    (hbad : c.bad = true) :
    Sys2Proof.Machine.exec (.rdcmpEnd k) s = .next (((s.dropCmd k).enterReserved c (c.cmpDone 1 0 0)).settleGate c.part none) := by
  change execRdcmpEnd k s = _
  unfold execRdcmpEnd
  rw [hc]
  dsimp only
  rw [if_neg (by simp [hop, hposted]), if_pos hbad]

/-- An ending that sets no gate leaves every gate. -/
theorem settleGate_none_part (s : State) (q r : Nat) :
    ((s.settleGate q none).part r).shut = (s.part r).shut ∧ ((s.settleGate q none).part r).lastStep = (s.part r).lastStep := by
  rw [settleGate_part]
  split
  · rename_i hr
    rw [hr]
    exact ⟨rfl, rfl⟩
  · exact ⟨rfl, rfl⟩

theorem cmpDone_bad (c : RuleCmd) :
    c.cmpDone 1 0 0 = eventEntry 32 (8 + 2 ^ 8 + (c.n - 1) * 2 ^ 16 + c.rank * 2 ^ 24 + c.tag * 2 ^ 32) := by
  simp [RuleCmd.cmpDone]

/-! ### Collectives (R357, R382) -/

/-- A collective whose members have all sent their parts writes its elements, and is ready. -/
theorem collective_written {s u v : State} {i : Instr} {k kind : Nat} {c : RuleCmd} {own : List Nat}
    {new : RuleCmd → List Nat → List Peer → Nat → Option Nat} {ws : List (Nat × Nat × Nat)}
    (hexec : Sys2Proof.Machine.exec i s = .next (s.collective k kind new)) (hc : s.cmdBy k = some c) (hop : c.op = 0x14)
    (hkind : c.ckind = kind) (hposted : c.posted = false) (hready : c.ready = false) (hpre : s.collPre c = 0) (hgathered : s.gathered c = true)
    (hread : s.readElems c 0 c.high = .ok (own, u))
    (hws : ((upTo c.high).filterMap (fun i => (new c own (s.peersOf c) i).map (fun x => (c.w3.toNat + c.elem * i, c.elem, x)))) = ws)
    (hwrite : u.cmdWrites (s.portAgent c) ws = .ok v) :
    ∃ t, Sys2Proof.Machine.exec i s = .next t ∧ t = v.modCmd k (fun d => { d with ready := true }) := by
  refine ⟨_, hexec, ?_⟩
  unfold State.collective
  rw [hc]
  dsimp only
  rw [if_neg (by simp [hop, hkind, hposted, hready, hpre]), hread]
  dsimp only
  rw [hgathered, hws]
  unfold State.cmdPut
  rw [hwrite]
  rfl

/-- A refusal of a collective that cannot run is counted (R67). -/
def State.collCounted (s : State) (c : RuleCmd) : State := if c.ready then s else s.collTold c

/-- A collective ends: the gate shuts where a replica is lost (R372). -/
def State.collOver (s : State) (c : RuleCmd) (st : Nat) : State :=
  (if st = 4 ∨ st = 5 then (s.collCounted c).settleGate c.part (some true) else s.collCounted c).endColl c

theorem collectiveCompletion_eq {s : State} {k : Nat} {c : RuleCmd} (hc : s.cmdBy k = some c) (hop : c.op = 0x14) (hposted : c.posted = false)
    (hready : c.ready = true ∨ s.collPre c ≠ 0) :
    Sys2Proof.Machine.exec (.collectiveCompletion k) s = .next ((s.collOver c (if c.ready then c.status else s.collPre c)).finishCmd c
      (shortDone 7 (if c.ready then c.status else s.collPre c) (c.n - 1) c.rank c.tag c.high)) := by
  change execCollectiveCompletion k s = _
  unfold execCollectiveCompletion State.collOver State.collCounted
  rw [hc]
  dsimp only
  rw [if_neg (by simpa [hop, hposted, or_iff_not_imp_left] using hready)]
  simp only [Bool.or_eq_true, decide_eq_true_eq]

theorem collCounted_eq (s : State) (c : RuleCmd) : ∃ r, s.collCounted c = { s with refusals := r } := by
  unfold State.collCounted
  split
  · exact ⟨s.refusals, rfl⟩
  · exact collTold_eq s c

theorem collOver_frame (s : State) (c : RuleCmd) (st : Nat) : (s.collOver c st).frame = s.frame := by
  obtain ⟨r, hr⟩ := collCounted_eq s c
  unfold State.collOver
  rw [hr]
  split
  · exact settleGate_frame { s with refusals := r } c.part (some true)
  · rfl

theorem collOver_posts (s : State) (c : RuleCmd) (st : Nat) : (s.collOver c st).posts = s.posts := by
  obtain ⟨r, hr⟩ := collCounted_eq s c
  unfold State.collOver
  rw [hr]
  split
  · obtain ⟨cmds, -, heq⟩ := settleGate_eq { s with refusals := r } c.part (some true)
    rw [heq]
    rfl
  · rfl

theorem collOver_stopped (s : State) (c : RuleCmd) (st q : Nat) : ((s.collOver c st).part q).stopped = (s.part q).stopped := by
  obtain ⟨r, hr⟩ := collCounted_eq s c
  unfold State.collOver
  rw [hr]
  split
  · exact settleGate_stopped { s with refusals := r } c.part q (some true)
  · rfl

theorem collOver_postable {s : State} {p id len : Nat} (h : s.postable p id len) (c : RuleCmd) (st : Nat) :
    (s.collOver c st).postable p id len := by
  obtain ⟨hsilent, hroom, hposts⟩ := h
  refine ⟨(silent_of_frame (collOver_frame s c st) (collOver_stopped s c st) p).trans hsilent, ?_, ?_⟩
  · rw [core_of_frame (collOver_frame s c st)]
    exact hroom
  · rw [collOver_posts]
    exact hposts

theorem collOver_lost {st : Nat} (hst : st = 4 ∨ st = 5) (s : State) (c : RuleCmd) : ((s.collOver c st).part c.part).shut = true := by
  unfold State.collOver
  rw [if_pos hst]
  change (((s.collCounted c).settleGate c.part (some true)).part c.part).shut = true
  rw [settleGate_part, if_pos rfl]
  rfl

theorem collOver_kept {st : Nat} (hst : ¬ (st = 4 ∨ st = 5)) (s : State) (c : RuleCmd) :
    (s.collOver c st).cmds = s.cmds ∧ (s.collOver c st).parts = s.parts := by
  obtain ⟨r, hr⟩ := collCounted_eq s c
  unfold State.collOver
  rw [if_neg hst, hr]
  exact ⟨rfl, rfl⟩

/-- What was received for it is forgotten (R380). -/
theorem collOver_peers (s : State) (c : RuleCmd) (st : Nat) : ∀ x ∈ (s.collOver c st).peers, x.collKey ≠ c.collKey := by
  intro x hx
  unfold State.collOver State.endColl at hx
  simpa using (List.mem_filter.1 hx).2

/-- What the end of a collective leaves, once its completion has entered the mailbox. -/
theorem collOver_leaves {s : State} {c : RuleCmd} (hpostable : s.postable c.core c.id 16) (st : Nat) :
    let e := shortDone 7 st (c.n - 1) c.rank c.tag c.high
    let t := (s.collOver c st).finishCmd c e
    (t.core c.core).mbox = (s.core c.core).mbox ++ [e] ∧ (∀ x ∈ t.cmds, x.id ≠ c.id) ∧ SameMemory s t ∧ SameContexts s t
      ∧ (st = 4 ∨ st = 5 → (t.part c.part).shut = true)
      ∧ (st ≠ 4 → st ≠ 5 → t.cmds = s.cmds.filter (fun d => d.id != c.id) ∧ t.parts = s.parts)
      ∧ (∀ x ∈ t.peers, x.collKey ≠ c.collKey) := by
  intro e t
  have hover : (s.collOver c st).postable c.core c.id e.len := collOver_postable hpostable c st
  have hfinish : t = ((s.collOver c st).modCore c.core (·.mailed e)).dropCmd c.id := finishCmd_of_postable hover
  obtain ⟨hmbox, hcmds, hmemory, hcontexts⟩ := finishCmd_ended hover
  have hbefore := unmoved_of_frame (collOver_frame s c st)
  refine ⟨?mbox, ?gone, hbefore.sameMemory.trans hmemory, hbefore.contexts.trans hcontexts, fun hst => ?lost, fun h4 h5 => ?kept, ?peers⟩
  case mbox => rw [hmbox, core_of_frame (collOver_frame s c st)]
  case gone =>
    rw [hcmds]
    exact fun x hx => by simpa using (List.mem_filter.1 hx).2
  case lost =>
    rw [hfinish]
    exact collOver_lost hst s c
  case kept =>
    obtain ⟨hcmds', hparts⟩ := collOver_kept (fun h => h.elim h4 h5) s c
    rw [hcmds, hcmds', hfinish]
    exact ⟨rfl, hparts⟩
  case peers =>
    rw [hfinish]
    exact collOver_peers s c st

/-- Settles O53: a comparison by its ending in the mailbox or in a spill buffer, a collective by what it writes and by its ending. -/
theorem replicaSteps : Obligations.ReplicaSteps := by
  unfold Obligations.ReplicaSteps
  refine ⟨?takes, ?compares, ?bad, ?writes, ?completes⟩
  case takes =>
    intro s k c hc hop hposted hbad htaken hwritten
    refine ⟨_, rdcmpEnd_taken hc hop hposted hbad htaken hwritten, ?_, rfl, (Account.of_fields rfl rfl rfl rfl).sameMemory⟩
    unfold State.modCmd
    simp only [beq_iff_eq]
  case compares =>
    intro s k st map c own d hc hop hposted hbad htaken hcompared hsilent
    obtain rfl := id_of_cmdBy hc
    obtain ⟨hshut, hlast⟩ := endCompare_part s c st map d
    refine ⟨_, rdcmpEnd_compared hc hop hposted hbad htaken hcompared, ne_of_cmdIds (endCompare_cmdIds s c st map d), hshut, hlast,
      fun hspill => mailedCompare_leaves hspill (endCompare_mailed hspill hsilent st map d),
      fun no base hspill hgood => endCompare_spilled_leaves hspill hsilent rfl hgood⟩
  case bad =>
    intro s k c hc hop hposted hbad hspill hsilent
    have hframe : (((s.dropCmd k).enterReserved c (c.cmpDone 1 0 0)).settleGate c.part none).frame
        = (s.mailedCompare c (c.cmpDone 1 0 0) 1).frame := by
      rw [settleGate_frame, enterReserved_mailed (s := s.dropCmd k) hspill hsilent]
      rfl
    obtain ⟨hmbox, -, hdiverge, hmemory, hcontexts⟩ := mailedCompare_leaves hspill hframe
    refine ⟨_, rdcmpEnd_bad hc hop hposted hbad, ne_of_cmdIds ?_, ?_, fun q => ?_, ?_, hmemory, hcontexts⟩
    · rw [settleGate_cmdIds]
      unfold State.cmdIds
      rw [enterReserved_cmds]
      exact dropCmd_cmdIds s k
    · rw [hmbox, cmpDone_bad]
    · have hpart : ((s.dropCmd k).enterReserved c (c.cmpDone 1 0 0)).part q = s.part q := by
        rw [enterReserved_mailed (s := s.dropCmd k) hspill hsilent]
        rfl
      obtain ⟨hshut, hlast⟩ := settleGate_none_part ((s.dropCmd k).enterReserved c (c.cmpDone 1 0 0)) c.part q
      rw [hshut, hlast, hpart]
      exact ⟨rfl, rfl⟩
    · rw [hdiverge, if_neg (by simp), List.append_nil]
  case writes =>
    intro s u v k c own hc hop hposted hready hpre hgathered hread all done put
    refine ⟨fun hkind hwrite => collective_written rfl hc hop hkind hposted hready hpre hgathered hread ?reduce hwrite,
      fun hkind hwrite => collective_written rfl hc hop hkind hposted hready hpre hgathered hread ?gather hwrite,
      fun hkind hwrite => collective_written rfl hc hop hkind hposted hready hpre hgathered hread ?scatter hwrite⟩
    case reduce => simp [put, all, Function.comp_def]
    case gather => simp [put, all, List.map_filterMap, Function.comp_def]
    case scatter =>
      dsimp only [put, all]
      rw [List.map_map, ← List.filterMap_eq_map, List.filterMap_filter]
      refine congrArg (fun f => List.filterMap f _) (funext fun i => ?_)
      by_cases hi : i / (c.high / c.n) = c.rank <;> simp [hi]
  case completes =>
    intro s k c hc hop hposted hready hpostable st
    exact ⟨_, collectiveCompletion_eq hc hop hposted hready, collOver_leaves hpostable st⟩

end Sys2Proof.Machine
end

section
/-! SUPPORT. All memories of a state as one value, and what leaves every memory as it is (O4). -/

namespace Sys2Proof.Machine

/-- The memories that cores, clusters and main memory hold. -/
def memsOf (cs : Map Core) (ks : Map Cluster) (m : Mem) : (Nat → Mem) × (Nat → Mem) × Mem :=
  (fun p => (mget Core.fresh cs p).mem, fun cl => (mget Cluster.fresh ks cl).mem, m)

/-- Every local memory, every cluster memory and main memory of a state. -/
def State.mems (s : State) : (Nat → Mem) × (Nat → Mem) × Mem := memsOf s.cores s.clusters s.phys

/-- Each of them is in canonical form. -/
def Canon (m : (Nat → Mem) × (Nat → Mem) × Mem) : Prop :=
  (∀ p, memWf (m.1 p) = true) ∧ (∀ cl, memWf (m.2.1 cl) = true) ∧ memWf m.2.2 = true

theorem memOk_iff (s : State) : s.memOk ↔ Canon s.mems := Iff.rfl

theorem memOk_of_mems {s t : State} (h : t.mems = s.mems) (hs : s.memOk) : t.memOk := by
  rw [memOk_iff, h]; exact hs

theorem sameMemory_of_mems {s t : State} (h : t.mems = s.mems) : SameMemory s t :=
  ⟨fun p => congrFun (congrArg (·.1) h) p, fun cl => congrFun (congrArg (·.2.1) h) cl, congrArg (·.2.2) h⟩

theorem mems_setCore {s : State} {p : Nat} {c : Core} (hc : c.mem = (s.core p).mem) : (s.setCore p c).mems = s.mems := by
  refine Prod.ext (funext fun q => ?_) rfl
  change ((s.setCore p c).core q).mem = (s.core q).mem
  rw [State.core_setCore]
  split
  · rename_i h; subst h; exact hc
  · rfl

theorem mems_modCore {s : State} {p : Nat} {f : Core → Core} (hf : (f (s.core p)).mem = (s.core p).mem) :
    (s.modCore p f).mems = s.mems := mems_setCore hf

theorem mems_modMe {s : State} {f : Core → Core} (hf : (f s.me).mem = s.me.mem) : (s.modMe f).mems = s.mems := mems_modCore hf

theorem mems_modCx (s : State) (f : Context → Context) : (s.modCx f).mems = s.mems := mems_modMe (Core.modContext_mem _ _ _)

theorem mems_modCluster {s : State} {cl : Nat} {f : Cluster → Cluster} (hf : (f (s.cluster cl)).mem = (s.cluster cl).mem) :
    (s.modCluster cl f).mems = s.mems := by
  refine Prod.ext rfl (Prod.ext (funext fun q => ?_) rfl)
  change ((s.modCluster cl f).cluster q).mem = (s.cluster q).mem
  rw [State.cluster_modCluster]
  split
  · rename_i h; subst h; exact hf
  · rfl

theorem mems_modDie (s : State) (d : Nat) (f : Die → Die) : (s.modDie d f).mems = s.mems := by
  unfold State.modDie
  split <;> rfl

theorem mems_modSlice (s : State) (n : Nat) (f : Slice → Slice) : (s.modSlice n f).mems = s.mems := rfl
theorem mems_modPart (s : State) (q : Nat) (f : Partition → Partition) : (s.modPart q f).mems = s.mems := rfl
theorem mems_modRule (s : State) (n : Nat) (f : Slot → Slot) : (s.modRule n f).mems = s.mems := rfl
theorem mems_modChan (s : State) (c : Nat) (f : Channel → Channel) : (s.modChan c f).mems = s.mems := rfl
theorem mems_draw (s : State) : s.draw.2.mems = s.mems := rfl

theorem mems_foldl {α : Type} {f : State → α → State} {l : List α} (h : ∀ s a, (f s a).mems = s.mems) (s : State) :
    (l.foldl f s).mems = s.mems := foldl_keeps State.mems h l s

theorem mem_foldl {α : Type} {f : Core → α → Core} {l : List α} (h : ∀ c a, (f c a).mem = c.mem) (c : Core) :
    (l.foldl f c).mem = c.mem := foldl_keeps Core.mem h l c

theorem mems_ite {c : Prop} [Decidable c] {s t u : State} (ht : t.mems = s.mems) (hu : u.mems = s.mems) : (if c then t else u).mems = s.mems := by
  split
  · exact ht
  · exact hu

theorem mems_bindGang (s : State) (ps : List Nat) : (s.bindGang ps).mems = s.mems := by
  unfold State.bindGang
  grind [mems_foldl, mem_foldl, State.mems, mems_modCore]

theorem mems_fuseGang (s : State) (ps : List Nat) : (s.fuseGang ps).mems = s.mems := by
  unfold State.fuseGang
  grind [mems_foldl, mem_foldl, State.mems, mems_bindGang, mems_modCore]

theorem mems_shareDue (s : State) (ps : List Nat) : (s.shareDue ps).mems = s.mems := by
  unfold State.shareDue
  grind [mems_foldl, mem_foldl, State.mems, mems_modCore]

theorem mems_resolveGang (s : State) (p : Nat) : (s.resolveGang p).mems = s.mems := by
  unfold State.resolveGang
  grind [mems_foldl, mem_foldl, State.mems, mems_fuseGang]

theorem mems_leaveGang (s : State) (p : Nat) : (s.leaveGang p).mems = s.mems := by
  unfold State.leaveGang
  grind [mems_foldl, mem_foldl, State.mems, mems_modCore, mems_resolveGang]

theorem mems_sticky (s : State) (n : Nat) : (s.sticky n).mems = s.mems := by
  unfold State.sticky
  grind [State.mems, mems_modCx]

theorem mems_raise (s : State) (f : FpFlags) : (s.raise f).mems = s.mems := by
  unfold State.raise
  grind [State.mems, mems_modCx]

theorem mems_postCore (s : State) (p : Nat) (e : MailEntry) (rule : Option Nat) : (s.postCore p e rule).mems = s.mems := by
  unfold State.postCore
  grind [State.mems, mems_modCore]

theorem mems_supPut (s : State) (n : Nat) (e : MailEntry) : (s.supPut n e).mems = s.mems := by
  unfold State.supPut
  grind [State.mems, mems_modDie]

theorem mems_postSup (s : State) (n : Nat) (e : MailEntry) : (s.postSup n e).mems = s.mems := by
  unfold State.postSup
  grind [State.mems, mems_supPut]

theorem mems_trapAt (s : State) (die row col kind sub acc agent : Nat) (cid : BitVec 12) (arg : Word) (map : BitVec 144) :
    (s.trapAt die row col kind sub acc agent cid arg map).mems = s.mems := by
  unfold State.trapAt
  grind [State.mems]

theorem mems_trapMsg (s : State) (p kind sub acc agent : Nat) (cid : BitVec 12) (arg : Word) :
    (s.trapMsg p kind sub acc agent cid arg).mems = s.mems := by
  unfold State.trapMsg
  grind [State.mems, mems_trapAt]

theorem mems_dropAsm (s : State) (p k : Nat) : (s.dropAsm p k).mems = s.mems := mems_modCore (Core.modContext_mem _ _ _)

theorem mems_enterHandler (s : State) (p : Nat) (e : Entry) : (s.enterHandler p e).mems = s.mems := mems_modCore (Core.setContext_mem _ _ _)

theorem mems_deliver (s : State) (p : Nat) (e : Entry) : (s.deliver p e).mems = s.mems := by
  unfold State.deliver
  grind [State.mems, Core.modContext_mem, mems_enterHandler, mems_modCore]

theorem mem_stopAll (c : Core) (why : StopWhy) : (c.stopAll why).mem = c.mem := by
  unfold Core.stopAll
  grind [State.mems]

theorem mems_doubleTrap (s : State) (p : Nat) (cause : Cause) : (s.doubleTrap p cause).mems = s.mems := by
  unfold State.doubleTrap
  grind [State.mems, mem_stopAll, mems_modCore, mems_trapMsg]

theorem mems_freezeAct (s : State) (seq : Nat) (status : Word) : (s.freezeAct seq status).mems = s.mems := by
  unfold State.freezeAct
  grind [State.mems, mems_modDie, mems_modPart, mems_postSup]

theorem mems_freeHelper (s : State) (p k : Nat) : (s.freeHelper p k).mems = s.mems := mems_modCore (Core.modContext_mem _ _ _)

theorem mems_takeTrap (s : State) (cause : Cause) (epc : Word) : (s.takeTrap cause epc).mems = s.mems := by
  unfold State.takeTrap
  grind [mems_dropAsm, mems_leaveGang, mems_freeHelper, mems_freezeAct, mems_doubleTrap, mems_deliver]

theorem mem_dropFault (c : Core) (k : Nat) : (c.dropFault k).mem = c.mem := by
  unfold Core.dropFault
  grind [State.mems]

theorem mems_rejoinGang (s : State) (p : Nat) : (s.rejoinGang p).mems = s.mems := by
  unfold State.rejoinGang
  grind [State.mems, mems_modCore, mems_resolveGang]

theorem mem_takeAgain (c : Core) : (c.takeAgain).mem = c.mem := by
  unfold Core.takeAgain
  grind [State.mems]

theorem mem_unnumbered (c : Core) : (c.unnumbered).mem = c.mem := by
  unfold Core.unnumbered
  grind [State.mems]

theorem mems_nextHandler (s : State) (p : Nat) : (s.nextHandler p).mems = s.mems := by
  unfold State.nextHandler
  grind [State.mems, mems_enterHandler, mems_modCore]

theorem mem_endFault (c : Core) (seq : Nat) (rpl : Bool) : (c.endFault seq rpl).mem = c.mem := by
  unfold Core.endFault
  grind [State.mems, mem_dropFault]

theorem mems_eret (s : State) {t : State} (e : s.eret = .ok t) : t.mems = s.mems := by
  unfold State.eret at e
  grind [State.mems, mem_endFault, Core.modContext_mem, mem_takeAgain, mem_unnumbered, mems_modCx, mems_modMe, mems_nextHandler, mems_rejoinGang]

theorem mems_clearErr (s : State) (st : Store) (a n : Nat) : (s.clearErr st a n).mems = s.mems := by
  unfold State.clearErr
  grind [State.mems]

theorem mems_correct (s : State) (p : Nat) (st : Store) (a n : Nat) : (s.correct p st a n).mems = s.mems := by
  unfold State.correct
  grind [State.mems, mems_modPart]

theorem mem_logLine (c : Core) (line : Nat) : (c.logLine line).mem = c.mem := by
  unfold Core.logLine
  grind [State.mems]

theorem mem_logLines (c : Core) (a n : Nat) : (c.logLines a n).mem = c.mem := by
  unfold Core.logLines
  grind [mems_foldl, mem_foldl, State.mems, mem_logLine]

theorem mem_restartLog (c : Core) : (c.restartLog).mem = c.mem := by
  unfold Core.restartLog
  grind [State.mems]

theorem mem_setLogged (c : Core) (k : Nat) (l : LogLine) : (c.setLogged k l).mem = c.mem := by
  unfold Core.setLogged
  grind [State.mems]

theorem mems_mend (s : State) (as : List Nat) : (s.mend as).mems = s.mems := by
  unfold State.mend
  grind [State.mems]

theorem mems_refuseAt (s : State) (target : Nat) : (s.refuseAt target).mems = s.mems := by
  unfold State.refuseAt
  grind [State.mems]

theorem mems_heal (s : State) (st : Store) (a n : Nat) : (s.heal st a n).mems = s.mems := by
  unfold State.heal
  grind [State.mems]

theorem mems_correctAll (s : State) (p : Nat) (ps : List Piece) : (s.correctAll p ps).mems = s.mems := by
  unfold State.correctAll
  grind [mems_foldl, mem_foldl, State.mems, mems_correct]

theorem mems_placeFix (s : State) (pl : Place) (n : Nat) : (s.placeFix pl n).mems = s.mems := by
  unfold State.placeFix
  grind [mems_foldl, mem_foldl, State.mems, mems_correct]

theorem mems_mergeFix (s : State) (pl : Place) (n : Nat) : (s.mergeFix pl n).mems = s.mems := by
  unfold State.mergeFix
  grind [State.mems, mems_correct]

theorem mems_serveBanks (s : State) (pl : Place) (n : Nat) : (s.serveBanks pl n).mems = s.mems := by
  unfold State.serveBanks
  grind [mems_foldl, mem_foldl, State.mems, mems_modCluster]

theorem mems_serveAtomic (s : State) (pl : Place) : (s.serveAtomic pl).mems = s.mems := by
  unfold State.serveAtomic
  grind [State.mems, mems_modCluster]

theorem mems_takeAt (s : State) (pl : Place) (n : Nat) {r} (e : s.takeAt pl n = .ok r) : r.2.mems = s.mems := by
  unfold State.takeAt at e
  grind [State.mems, mems_placeFix, mems_serveBanks]

theorem mems_sendReq (s : State) (r : GReq) : (s.sendReq r).mems = s.mems := by
  unfold State.sendReq
  grind [State.mems]

theorem mems_answered (s : State) (va acc : Nat) (f : Nat) (v : VWord) {r} (e : s.answered va acc f v = .ok r) : r.2.mems = s.mems := by
  unfold State.answered at e
  grind [State.mems, mems_modMe]

theorem mems_sendCopy (s : State) (p t no opNo : Nat) (what : Nat × Nat × Nat × Nat) (act : PairAct) :
    (s.sendCopy p t no opNo what act).mems = s.mems := by
  unfold State.sendCopy
  grind [State.mems]

theorem mems_pairTake (s : State) (p : Nat) (far : Bool) : (s.pairTake p far).2.mems = s.mems := by
  unfold State.pairTake
  grind [State.mems, mems_modCore]

theorem mems_mapPairs (s : State) (p : Nat) (f : Nat → Bool → Option Nat × Bool) : (s.mapPairs p f).mems = s.mems := by
  unfold State.mapPairs
  grind [State.mems, mems_modCluster, mems_modCore]

theorem mems_dropMarked (s : State) (p no : Nat) : (s.dropMarked p no).mems = s.mems := by
  unfold State.dropMarked
  grind [State.mems, mems_mapPairs]

theorem mems_settlePairs (s : State) (p : Nat) : (s.settlePairs p).mems = s.mems := by
  unfold State.settlePairs
  grind [State.mems, mems_mapPairs]

theorem mems_agePairs (s : State) (p : Nat) : (s.agePairs p).mems = s.mems := by
  unfold State.agePairs
  grind [State.mems, mems_mapPairs, mems_modCore]

theorem mem_settleMsg (c : Core) (n : Nat) : (c.settleMsg n).mem = c.mem := by
  unfold Core.settleMsg
  grind [State.mems]

theorem mems_releaseCopy (s : State) (w : Paired) : (s.releaseCopy w).mems = s.mems := by
  unfold State.releaseCopy
  grind [State.mems, mem_settleMsg, mems_modCore]

theorem mems_dropPaired (s : State) (mine : Paired → Bool) : (s.dropPaired mine).mems = s.mems := by
  unfold State.dropPaired
  grind [mems_foldl, mem_foldl, State.mems, mems_releaseCopy]

theorem mem_takeRing (c : Core) (e : RingEntry) {r} (e : c.takeRing e = .ok r) : r.2.mem = c.mem := by
  unfold Core.takeRing at e
  grind [State.mems]

theorem mem_failBB (c : Core) (w0 : Word) : (c.failBB w0).mem = c.mem := by
  unfold Core.failBB
  grind [State.mems]

theorem mem_pushed_failBB (c : Core) (b : List MailEntry) (w : Word) : (({ c with mbox := b } : Core).failBB w).mem = c.mem := mem_failBB _ _

theorem mems_pushCopy (s : State) (p : Nat) (lvl : Nat) (w : List Word) (bad : Bool) {t : State} (e : s.pushCopy p lvl w bad = .ok t) :
    t.mems = s.mems := by
  unfold State.pushCopy at e
  grind [mems_modCore, mem_pushed_failBB, mems_pairTake]

theorem mems_pushMat (s : State) (p : Nat) (pc : BitVec 57) (w : List Word) (fmt : Option VWord) (bad : Bool) {t : State}
    (e : s.pushMat p pc w fmt bad = .ok t) : t.mems = s.mems := by
  unfold State.pushMat at e
  grind [State.mems, → mem_takeRing, mems_modCore, mems_pairTake, mems_setCore]

theorem mems_pushRule (s : State) (p k : Nat) (w : List Word) (bad : Bool) {t : State} (e : s.pushRule p k w bad = .ok t) : t.mems = s.mems := by
  unfold State.pushRule at e
  grind [State.mems, mems_modCore]

theorem mem_setAsm (c : Core) (q : AsmQueue) (a : Option Asm) : (c.setAsm q a).mem = c.mem := by
  unfold Core.setAsm
  grind [State.mems]

theorem mems_pushRecord (s : State) (q : AsmQueue) (w : List Word) (bad : Bool) {t : State} (e : s.pushRecord q w bad = .ok t) : t.mems = s.mems :=
    by
  unfold State.pushRecord at e
  grind [State.mems, mems_pushCopy, → mems_pushMat, → mems_pushRule]

theorem mems_pushWord (s : State) (q : AsmQueue) (v : Word) {t : State} (e : s.pushWord q v = .ok t) : t.mems = s.mems := by
  unfold State.pushWord at e
  grind [State.mems, mem_setAsm, mems_modMe, → mems_pushRecord]

theorem mems_pushWhole (s : State) (q : AsmQueue) (v : VWord) {t : State} (e : s.pushWhole q v = .ok t) : t.mems = s.mems := by
  unfold State.pushWhole at e
  grind [State.mems, mem_setAsm, mems_modMe, → mems_pushRecord, mems_sticky]

theorem mems_of_kept {s t : State} (h : Kept s t) : t.mems = s.mems := by
  obtain ⟨-, hmem, hdevice⟩ := h
  have hclusters := congrArg State.clusters hdevice
  have hphys := congrArg State.phys hdevice
  exact Prod.ext (funext hmem) (Prod.ext (funext fun cl => congrArg (fun m => (mget Cluster.fresh m cl).mem) hclusters) hphys)

theorem mems_pushLink (s : State) (west : Bool) (v : Word) {t : State} (e : s.pushLink west v = .ok t) : t.mems = s.mems :=
  mems_of_kept (kept_pushLink e)

theorem mems_furtherVec (s : State) (x : Nat) : (s.furtherVec x).2.mems = s.mems := by
  unfold State.furtherVec
  grind [State.mems, mems_draw]

theorem mems_readName (s : State) (win : Window) (fwd pv : Bool) (n : Nat) {r : Val × State} (e : s.readName win fwd pv n = .ok r) :
    r.2.mems = s.mems :=
  mems_of_kept (kept_readName e)

theorem mems_readField (s : State) (win : Window) (fwd reads pv : Bool) (n : Nat) {r : Val × State}
    (e : s.readField win fwd reads pv n = .ok r) : r.2.mems = s.mems := mems_of_kept (kept_readField e)

theorem mems_readAll (s : State) (sh : Shape) (f : Fields) (o : Opnds) (win : Window) {r : Vals × State} (e : s.readAll sh f o win = .ok r) :
    r.2.mems = s.mems := mems_of_kept (kept_readAll e)

theorem mem_fillWin (c : Core) (d : Delivery) (e : WinEntry) : (c.fillWin d e).mem = c.mem := by
  unfold Core.fillWin
  grind [State.mems, Core.modContext_mem]

theorem mem_delivered (c : Core) (d : Delivery) (v : VWord) : (c.deliver d v).mem = c.mem := by
  unfold Core.deliver
  dsimp only
  split
  · split
    · exact (Core.modContext_mem _ _ _).trans (mem_fillWin _ _ _)
    · exact mem_fillWin _ _ _
  · split
    · exact (Core.modContext_mem _ _ _).trans (mem_fillWin _ _ _)
    · exact mem_fillWin _ _ _

theorem mems_pushHead (s : State) (n : Nat) (r : Res) {t : State} (e : s.pushHead n r = .ok t) : t.mems = s.mems := by
  unfold State.pushHead at e
  grind [State.mems, mems_pushLink, → mems_pushWhole, → mems_pushWord]

theorem mems_dst (s : State) (n : Nat) (r : Res) (ring : Option Nat) {t : State} (e : s.dst n r ring = .ok t) : t.mems = s.mems := by
  unfold State.dst at e
  grind [→ mems_pushHead, mems_modMe, mems_modCx]

theorem mems_poisonCore (s : State) (p : Nat) : (s.poisonCore p).mems = s.mems := by
  unfold State.poisonCore
  grind [State.mems, mem_stopAll, mems_leaveGang, mems_modCore]

theorem mems_retire (s : State) (c : Code) (next : Word) (jump : Option Word) (queued : Bool) : (s.retire c next jump queued).mems = s.mems := by
  unfold State.retire
  grind [State.mems, mems_modCx, mems_modMe, mems_resolveGang]

theorem mems_trapHere (s : State) (c : Cause) : (s.trapHere c).mems = s.mems := by
  unfold State.trapHere
  grind [State.mems, mems_takeTrap]

theorem mems_waitHere (s : State) (c : Code) : (s.waitHere c).mems = s.mems := by
  unfold State.waitHere
  grind [State.mems, mems_modCx, mems_modMe]

theorem mems_faultLate (s : State) (sh : Shape) (e : Fields) (o : Opnds) (k : Nat) (sub : Nat) (info : Word) :
    (s.faultLate sh e o k sub info).mems = s.mems := by
  unfold State.faultLate
  grind [mems_modMe, mems_modCx]

theorem mems_recordAt (s : State) (pl : Place) {r} (e : s.recordAt pl = .ok r) : r.2.mems = s.mems := by
  unfold State.recordAt at e
  grind [State.mems, → mems_takeAt]

theorem mems_payload (s : State) (pl : Option Place) (n : Nat) {r} (e : s.payload pl n = .ok r) : r.2.mems = s.mems := by
  unfold State.payload at e
  grind [State.mems, → mems_takeAt]

theorem mems_modLaunch (s : State) (q serial : Nat) (f : Launch → Launch) : (s.modLaunch q serial f).mems = s.mems := by
  unfold State.modLaunch
  grind [State.mems, mems_modPart]

theorem mems_taint (s : State) (q serial : Nat) (cause : BitVec 8) (verd : Nat) : (s.taint q serial cause verd).mems = s.mems := by
  unfold State.taint
  grind [State.mems, mems_modLaunch]

theorem mems_settle (s : State) (q : Nat) (l : Launch) (i verd : Nat) : (s.settle q l i verd).mems = s.mems := by
  unfold State.settle
  grind [State.mems, mems_modLaunch, mems_postSup]

theorem mems_afterPred (s : State) (q lid verd : Nat) (d : Launch) : (s.afterPred q lid verd d).mems = s.mems := by
  unfold State.afterPred
  grind [mems_foldl, mem_foldl, State.mems, mems_modLaunch, mems_settle, mems_taint]

theorem mems_triggered (s : State) (q lid : Nat) : (s.triggered q lid).mems = s.mems := by
  unfold State.triggered
  grind [State.mems, mems_modPart]

theorem mems_enqueue (s : State) (q : Nat) (l : Launch) : (s.enqueue q l).mems = s.mems := by
  unfold State.enqueue
  grind [mems_foldl, mem_foldl, State.mems, mems_modLaunch, mems_modPart, mems_settle]

theorem mems_startOn (s : State) (l : Launch) (index p : Nat) (twin : Option Nat) (mask : BitVec 8) :
    (s.startOn l index p twin mask).mems = s.mems := by
  unfold State.startOn
  grind [State.mems, mem_restartLog, mems_freeHelper, mems_modCore]

theorem mems_startUnit (s : State) (q : Nat) (l : Launch) (index : Nat) (ps : List Nat) : (s.startUnit q l index ps).mems = s.mems := by
  unfold State.startUnit
  grind [mems_foldl, mem_foldl, State.mems, mems_fuseGang, mems_leaveGang, mems_modCore, mems_startOn]

theorem mem_modGroup (c : Core) (launch index : Nat) (f : GroupRun → GroupRun) : (c.modGroup launch index f).mem = c.mem := by
  unfold Core.modGroup
  grind [State.mems]

theorem mems_countTrig (s : State) (q serial : Nat) : (s.countTrig q serial).mems = s.mems := by
  unfold State.countTrig
  grind [State.mems, mems_modLaunch, mems_triggered]

theorem mems_trig (s : State) (p : Nat) : (s.trig p).mems = s.mems := by
  unfold State.trig
  grind [mems_foldl, mem_foldl, State.mems, mem_modGroup, mems_countTrig, mems_modCore]

theorem mems_breakFuse (s : State) (p : Nat) : (s.breakFuse p).mems = s.mems := by
  refine mems_foldl (fun s r => ?_) s
  split
  · exact (mems_takeTrap _ _ _).trans (mems_modMe (s := { s with cur := r, ctx := 0 }) rfl)
  · rfl

theorem mems_endGroup (s : State) (p : Nat) : (s.endGroup p).mems = s.mems := by
  unfold State.endGroup
  grind [mems_foldl, mem_foldl, State.mems, mem_unnumbered, mems_breakFuse, mems_countTrig, mems_leaveGang, mems_modCore, mems_modLaunch,
    mems_modPart, mems_trig]

theorem mems_arrive (s : State) (ch : Nat) (step : Bool) {t : State} (e : s.arrive ch step = .ok t) : t.mems = s.mems := by
  unfold State.arrive at e
  grind [mems_modChan, mems_modCx]

theorem mems_finish (s : State) : (s.finish).mems = s.mems := by
  unfold State.finish
  grind [State.mems, mems_modCx]

theorem mems_endEnding (s : State) (p : Nat) : (s.endEnding p).mems = s.mems := by
  unfold State.endEnding
  grind [State.mems, mems_endGroup]

theorem mems_passMeet (s : State) (p : Nat) (next : Word) : (s.passMeet p next).mems = s.mems := by
  unfold State.passMeet
  grind [State.mems, mems_modCore]

theorem mems_meetAll (s : State) (ps : List Nat) : (s.meetAll ps).mems = s.mems := by
  unfold State.meetAll
  grind [mems_foldl, mem_foldl, State.mems, mems_fuseGang, mems_leaveGang, mems_modMe, mems_passMeet, mems_shareDue]

theorem mems_writeRls (s : State) (q : Nat) (slots : BitVec 8) : (s.writeRls q slots).mems = s.mems := by
  unfold State.writeRls
  grind [mems_foldl, mem_foldl, State.mems, mems_modPart, mems_modRule]

theorem mems_clearArrivals (s : State) (q l : Nat) : (s.clearArrivals q l).mems = s.mems := by
  unfold State.clearArrivals
  grind [State.mems]

theorem mem_awaitReplay (c : Core) (launch index : Nat) : (c.awaitReplay launch index).mem = c.mem := by
  unfold Core.awaitReplay
  grind [State.mems, mem_modGroup]

theorem mems_stopForReplay (s : State) (q : Nat) (g : GroupRun) : (s.stopForReplay q g).mems = s.mems := by
  unfold State.stopForReplay
  grind [mems_foldl, mem_foldl, State.mems, mem_awaitReplay, mems_clearArrivals, mems_leaveGang, mems_modCore, mems_modLaunch, mems_taint]

theorem mems_replayUnit (s : State) (q launch index : Nat) : (s.replayUnit q launch index).mems = s.mems := by
  unfold State.replayUnit
  grind [mems_foldl, mem_foldl, State.mems, mem_modGroup, mems_dropPaired, mems_modCore, mems_settlePairs, mems_startUnit]

theorem mems_replayGroup (s : State) (q : Nat) (g : GroupRun) (old : Core) (p1 : Nat) : (s.replayGroup q g old p1).mems = s.mems := by
  unfold State.replayGroup
  grind [State.mems, mems_endGroup, mems_replayUnit, mems_stopForReplay, mems_taint]

theorem mems_moveCmds (s : State) (p0 p1 : Nat) : (s.moveCmds p0 p1).mems = s.mems := by
  unfold State.moveCmds
  grind [mems_foldl, mem_foldl, State.mems, mems_modCore]

theorem mem_vacated (c : Core) : c.vacated.mem = c.mem := mem_unnumbered _

theorem mem_settled (c c0 : Core) : (c.settled c0).mem = c.mem := by
  unfold Core.settled
  grind [State.mems]

theorem mems_renamePaired (s : State) (p0 p1 : Nat) : (s.renamePaired p0 p1).mems = s.mems := by
  unfold State.renamePaired
  grind [State.mems]

theorem mems_renumber (s : State) (q : Nat) : (s.renumber q).mems = s.mems := by
  unfold State.renumber
  grind [mems_foldl, mem_foldl, State.mems, mems_modCore, mems_modPart]

theorem mems_dropLinks (s : State) (p : Nat) : (s.dropLinks p).mems = s.mems := by
  unfold State.dropLinks
  grind [State.mems, mems_modCore]

theorem mems_setLnk (s : State) (p : Nat) (v : Word) : (s.setLnk p v).mems = s.mems := by
  unfold State.setLnk
  grind [State.mems, mems_dropLinks, mems_modCore]

theorem mems_invalidate (s : State) (q : Nat) (v : Word) : (s.invalidate q v).mems = s.mems := by
  unfold State.invalidate
  grind [State.mems]

theorem mems_partFix (s : State) (p : Nat) (st : Store) (a n : Nat) : (s.partFix p st a n).mems = s.mems := by
  unfold State.partFix
  grind [State.mems, mems_correct]

theorem mems_dropHelperAsm (s : State) (p : Nat) : (s.dropHelperAsm p).mems = s.mems := by
  unfold State.dropHelperAsm
  grind [mems_foldl, mem_foldl, State.mems, mems_dropAsm]

theorem mems_unspillCmds (s : State) (p : Nat) (i : SaveImage) : (s.unspillCmds p i).mems = s.mems := by
  unfold State.unspillCmds
  grind [State.mems, mems_modCore]

theorem mem_takeRingWord (c : Core) (k : Nat) (w : Word) : (c.takeRingWord k w).mem = c.mem := by
  unfold Core.takeRingWord
  grind [State.mems]

theorem mem_restored (c : Core) (base : Nat) (own : Bool) (gang : List Mate) (comp : Nat → Option Nat) :
    (c.restored base own gang comp).mem = c.mem := by
  unfold Core.restored
  grind [mems_foldl, mem_foldl, State.mems, mem_takeRingWord]

theorem mems_msbRestore (s : State) (p : Nat) {t : State} (e : s.msbRestore p = .ok t) : t.mems = s.mems := by
  unfold State.msbRestore at e
  grind [mems_foldl, mem_foldl, State.mems, mem_restored, mems_correct, mems_leaveGang, mems_modCluster, mems_modCore, mems_unspillCmds]

theorem mems_writeXlat (s : State) (w : Word) {t : State} (e : s.writeXlat w = .ok t) : t.mems = s.mems := by
  unfold State.writeXlat at e
  grind [State.mems, mems_invalidate, mems_modMe]

theorem mems_setAct (s : State) (q id state : Nat) : (s.setAct q id state).mems = s.mems := by
  unfold State.setAct
  grind [State.mems, mems_modPart]

theorem mems_mapChest (s : State) (f : List Chest → List Chest) : (s.mapChest f).mems = s.mems := by
  unfold State.mapChest
  grind [State.mems]

theorem mems_settleAbandons (s : State) (q : Nat) : (s.settleAbandons q).mems = s.mems := by
  unfold State.settleAbandons
  grind [mems_foldl, mem_foldl, State.mems, mems_modPart, mems_postCore, mems_setAct]

theorem mems_endEntry (s : State) (seq : Nat) : (s.endEntry seq).mems = s.mems := by
  unfold State.endEntry
  grind [State.mems, mems_mapChest, mems_settleAbandons]

theorem mems_setMembers (s : State) (q ch lvl : Nat) (ms : List Nat) : (s.setMembers q ch lvl ms).mems = s.mems := by
  unfold State.setMembers
  grind [State.mems, mems_modChan]

theorem mems_postPreempt (s : State) (p sub : Nat) : (s.postPreempt p sub).mems = s.mems := by
  unfold State.postPreempt
  grind [mems_foldl, mem_foldl, State.mems, mems_modCore]

theorem mem_cluster_begin (k : Cluster) (q : Nat) (live : List Nat) (serial : Nat) : (k.begin q live serial).mem = k.mem := by
  unfold Cluster.begin
  grind [State.mems]

theorem mem_setAside (c : Core) (g : GroupRun) (serial : Nat) : (c.setAside g serial).mem = c.mem := by
  unfold Core.setAside
  grind [State.mems]

theorem mem_takeBack (c : Core) (w : Swapped) (rest : List Swapped) : (c.takeBack w rest).mem = c.mem := by
  unfold Core.takeBack
  grind [State.mems]

theorem mems_askSwap (s : State) (p sub : Nat) (high : Bool) : (s.askSwap p sub high).mems = s.mems := by
  unfold State.askSwap
  grind [mems_foldl, mem_foldl, State.mems, mems_modCore, mems_postPreempt]

theorem mems_resumeAt (s : State) (p : Nat) (info : Word) : (s.resumeAt p info).mems = s.mems := by
  unfold State.resumeAt
  grind [State.mems, mems_enterHandler, mems_modCore]

theorem mems_resumeSwapped (s : State) (q p : Nat) (w : Swapped) (rest : List Swapped) : (s.resumeSwapped q p w rest).mems = s.mems := by
  unfold State.resumeSwapped
  grind [State.mems, mem_takeBack, mems_endGroup, mems_modCore, mems_replayUnit, mems_resumeAt, mems_taint]

theorem mems_rehash (s : State) (sl q va : Nat) (h : BitVec 128) : (s.rehash sl q va h).mems = s.mems := by
  unfold State.rehash
  grind [State.mems, mems_modSlice]

theorem mems_taintCmd (s : State) (c : RuleCmd) : (s.taintCmd c).mems = s.mems := by
  unfold State.taintCmd
  grind [State.mems, mems_taint]

theorem mems_preTold (s : State) (c : RuleCmd) (st : Nat) : (s.preTold c st).mems = s.mems := by
  unfold State.preTold
  grind [State.mems, mems_taintCmd]

theorem mems_dropCmd (s : State) (id : Nat) : (s.dropCmd id).mems = s.mems := by
  unfold State.dropCmd
  grind [State.mems]

theorem mems_modCmd (s : State) (id : Nat) (f : RuleCmd → RuleCmd) : (s.modCmd id f).mems = s.mems := by
  unfold State.modCmd
  grind [State.mems]

theorem mems_finishCmd (s : State) (c : RuleCmd) (e : MailEntry) : (s.finishCmd c e).mems = s.mems := by
  unfold State.finishCmd
  grind [State.mems, mems_dropCmd, mems_modCmd, mems_postCore]

theorem mems_readImages (s : State) (slot n : Nat) (which : List Bool) {t : State} (e : s.readImages slot n which = .ok t) : t.mems = s.mems := by
  unfold State.readImages at e
  grind [mems_foldl, mem_foldl, State.mems, mems_correct]

theorem mems_exchange (s : State) (q : Nat) : (s.exchange q).mems = s.mems := by
  unfold State.exchange
  grind [mems_foldl, mem_foldl, State.mems, mems_modRule]

theorem mems_endColl (s : State) (c : RuleCmd) : (s.endColl c).mems = s.mems := by
  unfold State.endColl
  grind [State.mems]

theorem mems_collTold (s : State) (c : RuleCmd) : (s.collTold c).mems = s.mems := by
  unfold State.collTold
  grind [State.mems, mems_refuseAt]

theorem mems_divergeIn (s : State) (d : RuleCmd) (st : Nat) : (s.divergeIn d st).mems = s.mems := by
  unfold State.divergeIn
  grind [State.mems, mems_modCore]

theorem mems_settleGate (s : State) (q : Nat) (shut : Option Bool) : (s.settleGate q shut).mems = s.mems := by
  unfold State.settleGate
  grind [State.mems, mems_modPart]

theorem mems_modCkpt (s : State) (q : Nat) (f : Ckpt → Ckpt) : (s.modCkpt q f).mems = s.mems := by
  unfold State.modCkpt
  grind [State.mems, mems_modPart]

theorem mems_buddySend (s : State) (q blk sl : Nat) (m : Mem) : (s.buddySend q blk sl m).2.mems = s.mems := by
  unfold State.buddySend
  grind [State.mems, mems_refuseAt]

theorem mem_newInterval (c : Core) : (c.newInterval).mem = c.mem := by
  unfold Core.newInterval
  grind [State.mems, mem_restartLog]

theorem mems_correctRanges (s : State) (p : Nat) (st : Store) (rs : List (Nat × Nat)) : (s.correctRanges p st rs).mems = s.mems := by
  unfold State.correctRanges
  grind [mems_foldl, mem_foldl, State.mems, mems_correct]

theorem mems_startHead (s : State) (cl i : Nat) (m : MatCmd) (rest : List MatCmd) : (s.startHead cl i m rest).mems = s.mems := by
  unfold State.startHead
  grind [State.mems, mems_correct, mems_modCluster, mems_modCore]

theorem mems_endBank (s : State) (cl bank pods key : Nat) : (s.endBank cl bank pods key).mems = s.mems := by
  unfold State.endBank
  grind [State.mems, mems_modCluster]

theorem mems_stripReads (s : State) (cl : Nat) (r : MatRun) (b : Bank) : (s.stripReads cl r b).mems = s.mems := by
  unfold State.stripReads
  grind [State.mems, mems_correct, mems_correctRanges]

theorem mems_stripClears (s : State) (cl : Nat) (m : MatCmd) (b : Bank) : (s.stripClears cl m b).mems = s.mems := by
  unfold State.stripClears
  grind [mems_foldl, mem_foldl, State.mems, mems_clearErr]

theorem mem_parkReserved (c : Core) (ring : Nat) : (c.parkReserved ring).mem = c.mem := by
  unfold Core.parkReserved
  grind [State.mems]

theorem mems_returnPods (s : State) (cl : Nat) (r : MatRun) : (s.returnPods cl r).mems = s.mems := by
  unfold State.returnPods
  grind [State.mems, mems_modCluster]

theorem mems_geoFix (s : State) (p : Nat) (r : CopyReq) : (s.geoFix p r).mems = s.mems := by
  unfold State.geoFix
  grind [State.mems, mems_correct]

theorem mems_modSlot (s : State) (cl i : Nat) (f : CopySlot → CopySlot) : (s.modSlot cl i f).mems = s.mems := by
  unfold State.modSlot
  grind [State.mems, mems_modCluster]

theorem mems_freeSlot (s : State) (cl i : Nat) : (s.freeSlot cl i).mems = s.mems := by
  unfold State.freeSlot
  grind [State.mems, mems_modCluster]

theorem mem_credit (c : Core) (w0 : Word) (n : Nat) : (c.credit w0 n).mem = c.mem := by
  unfold Core.credit
  grind [State.mems]

theorem mems_discardAsm (s : State) (p : Nat) (q : AsmQueue) : (s.discardAsm p q).mems = s.mems := by
  unfold State.discardAsm
  grind [State.mems, Core.modContext_mem, mem_setAsm, mems_modCore]

theorem mems_postDone (s : State) (w : Post) : (s.postDone w).mems = s.mems := by
  unfold State.postDone
  grind [State.mems, mems_dropCmd, mems_freeSlot]

theorem mem_takeAnswer (c : Core) (id : Nat) (a : Nat × VWord) : (c.takeAnswer id a).mem = c.mem := by
  unfold Core.takeAnswer
  grind [State.mems]

theorem mems_reply (s : State) (p id fault : Nat) (v : Word) : (s.reply p id fault v).mems = s.mems := by
  unfold State.reply
  grind [State.mems, mem_takeAnswer, mems_modCore]

theorem mem_refault (c : Core) (k sub : Nat) (info : Word) : (c.refault k sub info).mem = c.mem := by
  unfold Core.refault
  grind [State.mems]

theorem mems_pushDone (d : Done) (target : Option Nat) {t : State} (e : d.push target = .ok t) : t.mems = d.st.mems := by
  unfold Done.push at e
  grind [→ mems_pushHead]

theorem mems_preemptOne (s : State) (p sub : Nat) : (s.preemptOne p sub).mems = s.mems := by
  unfold State.preemptOne
  grind [State.mems, mems_enterHandler, mems_modCore]

theorem mems_preemptEntry (s : State) (p : Nat) : (s.preemptEntry p).mems = s.mems := by
  unfold State.preemptEntry
  grind [mems_foldl, mem_foldl, State.mems, mems_preemptOne]

theorem mems_lateFaultEntry (s : State) (p : Nat) : (s.lateFaultEntry p).mems = s.mems := by
  unfold State.lateFaultEntry
  grind [State.mems, mems_deliver, mems_doubleTrap, mems_dropAsm, mems_leaveGang, mems_modCore]

theorem mems_divergeEntry (s : State) (p : Nat) : (s.divergeEntry p).mems = s.mems := by
  unfold State.divergeEntry
  grind [State.mems, mems_deliver, mems_dropAsm, mems_leaveGang, mems_modCore]

theorem mems_resumeCtx (s : State) (p k : Nat) (info : Word) : (s.resumeCtx p k info).mems = s.mems := by
  unfold State.resumeCtx
  grind [State.mems, mems_deliver, mems_dropAsm, mems_modCore, mems_resumeAt]

theorem mems_endCtx (s : State) (p k : Nat) : (s.endCtx p k).mems = s.mems := by
  unfold State.endCtx
  grind [State.mems, mems_endEnding, mems_endEntry, mems_freeHelper, mems_modCore]

theorem mems_declareDead (s : State) (p : Nat) : (s.declareDead p).mems = s.mems := by
  unfold State.declareDead
  grind [mems_foldl, mem_foldl, State.mems, mems_breakFuse, mems_dropLinks, mems_leaveGang, mems_modCore, mems_postSup]

theorem mems_pairEvent (s : State) (w : Paired) (status : Nat) : (s.pairEvent w status).mems = s.mems := by
  unfold State.pairEvent
  grind [State.mems, mems_postSup]

theorem mems_pairTaint (s : State) (w : Paired) (cause : BitVec 8) (verd : Nat) : (s.pairTaint w cause verd).mems = s.mems := by
  unfold State.pairTaint
  grind [State.mems, mems_taint]

theorem mem_oweAgain (c : Core) (k : Nat) (r : RingEntry) : (c.oweAgain k r).mem = c.mem := by
  unfold Core.oweAgain
  grind [State.mems]

theorem mems_undoArrivals (s : State) (p : Nat) : (s.undoArrivals p).mems = s.mems := by
  unfold State.undoArrivals
  grind [State.mems]

theorem mems_discardOp (s : State) (w : Paired) (v : Word) : (s.discardOp w v).mems = s.mems := by
  unfold State.discardOp
  grind [mems_foldl, mem_foldl, State.mems, mems_dropMarked, mems_modCore]

theorem mems_beginMove (s : State) (q : Nat) : (s.beginMove q).mems = s.mems := by
  unfold State.beginMove
  grind [mems_foldl, mem_foldl, State.mems, mems_modCluster, mems_modPart]

theorem mems_evidence (s : State) (fn : Nat) (nonce : VWord) : (s.evidence fn nonce).2.mems = s.mems := by
  unfold State.evidence
  grind [State.mems]

theorem mem_flrStop (c : Core) : (c.flrStop).mem = c.mem := by
  unfold Core.flrStop
  grind [State.mems, mem_unnumbered]

theorem mems_flrAbort (s : State) (q : Nat) : (s.flrAbort q).mems = s.mems := by
  unfold State.flrAbort
  grind [State.mems]

theorem mems_flrBegin (s : State) (q : Nat) : (s.flrBegin q).mems = s.mems := by
  unfold State.flrBegin
  grind [mems_foldl, mem_foldl, State.mems, mem_flrStop, mems_dropPaired, mems_flrAbort, mems_leaveGang, mems_mapChest, mems_modCluster,
    mems_modCore, mems_modPart]

theorem mems_writeClkreq (s : State) (die v : Nat) : (s.writeClkreq die v).mems = s.mems := by
  unfold State.writeClkreq
  grind [State.mems, mems_modDie]

theorem mems_hostWrite (s : State) (fn off n v : Nat) : (s.hostWrite fn off n v).mems = s.mems := by
  unfold State.hostWrite
  refine mems_ite (mems_ite rfl rfl) <| mems_ite (mems_ite rfl rfl) <| mems_ite rfl <| mems_ite (mems_ite rfl rfl) <|
    mems_ite (mems_ite rfl rfl) <| mems_ite rfl <| mems_ite (mems_ite rfl rfl) <| mems_ite (mems_ite rfl rfl) <|
    mems_ite (mems_ite rfl rfl) <| mems_ite (mems_ite (mems_writeClkreq _ _ _) rfl) rfl

theorem mem_cycles (c : Core) (n : Nat) : (c.cycles n).mem = c.mem := by
  unfold Core.cycles
  grind [State.mems]

theorem mems_comeTogether (s : State) (p : Nat) : (s.comeTogether p).mems = s.mems := by
  unfold State.comeTogether
  grind [mems_foldl, mem_foldl, State.mems, mems_bindGang, mems_fuseGang, mems_modCore, mems_resolveGang]

theorem mems_beforeIssue (s : State) (p : Nat) {t : State} (e : s.beforeIssue p = some t) : t.mems = s.mems := by
  unfold State.beforeIssue at e
  grind [State.mems, mems_comeTogether, mems_discardAsm, mems_divergeEntry, mems_lateFaultEntry, mems_nextHandler, mems_preemptEntry]

end Sys2Proof.Machine
end

section
/-! SUPPORT. Stops, accesses and effects that keep every memory in canonical form (O4). -/

namespace Sys2Proof.Machine

/-- A stop that carries a state, or changes one, keeps the memories canonical. -/
def Stop.safe : Stop → Prop
  | .poison t => Canon t.mems
  | .hold f => ∀ u : State, Canon u.mems → Canon (f u).mems
  | _ => True

theorem canon_foldl {α : Type} {f : State → α → State} {l : List α} (h : ∀ s a, Canon s.mems → Canon (f s a).mems) {s : State}
    (hs : Canon s.mems) : Canon (l.foldl f s).mems :=
  foldl_rel (R := fun s t => Canon s.mems → Canon t.mems) (fun _ h => h) (fun f g h => g (f h)) l f h s hs

theorem canon_ite {c : Prop} [Decidable c] {s t : State} (hs : Canon s.mems) (ht : Canon t.mems) : Canon (if c then s else t).mems := by
  split
  · exact hs
  · exact ht

theorem canon_setCore {s : State} {p : Nat} {c : Core} (h : Canon s.mems) (hc : memWf c.mem = true) : Canon (s.setCore p c).mems := by
  refine ⟨fun q => ?_, h.2⟩
  change memWf ((s.setCore p c).core q).mem = true
  rw [State.core_setCore]
  split
  · exact hc
  · exact h.1 q

theorem canon_modCore {s : State} {p : Nat} {f : Core → Core} (h : Canon s.mems)
    (hf : memWf (s.core p).mem = true → memWf (f (s.core p)).mem = true) :
    Canon (s.modCore p f).mems := canon_setCore h (hf (h.1 p))

theorem canon_modMe {s : State} {f : Core → Core} (h : Canon s.mems) (hf : memWf s.me.mem = true → memWf (f s.me).mem = true) :
    Canon (s.modMe f).mems := canon_modCore h hf

theorem canon_modCluster {s : State} {cl : Nat} {f : Cluster → Cluster} (h : Canon s.mems)
    (hf : memWf (s.cluster cl).mem = true → memWf (f (s.cluster cl)).mem = true) : Canon (s.modCluster cl f).mems := by
  refine ⟨h.1, fun q => ?_, h.2.2⟩
  change memWf ((s.modCluster cl f).cluster q).mem = true
  rw [State.cluster_modCluster]
  split
  · exact hf (h.2.1 cl)
  · exact h.2.1 q

theorem canon_phys {s : State} (h : Canon s.mems) {m : Mem} (hm : memWf m = true) : Canon (State.mems { s with phys := m }) := ⟨h.1, h.2.1, hm⟩

theorem memWf_foldl {α : Type} {f : Mem → α → Mem} {l : List α} (h : ∀ m a, memWf m = true → memWf (f m a) = true) {m : Mem}
    (hm : memWf m = true) :
    memWf (l.foldl f m) = true := by
  induction l generalizing m with
  | nil => exact hm
  | cons a l ih => exact ih (h m a hm)

theorem safe_gstop (acc : Nat) (cid : BitVec 12) (p : Nat) (e : GFail) : (gstop acc cid p e).safe := by
  unfold gstop
  split
  · trivial
  · split <;> trivial

theorem safe_eret {s : State} {st : Stop} (e : s.eret = .error st) : st.safe := by
  unfold State.eret at e
  grind [Stop.safe, addrFault, logTrap, illegal, linkTrap, barrierTrap, mem_endFault, Core.modContext_mem, mem_takeAgain, mem_unnumbered,
    mems_modCx, mems_modMe, mems_nextHandler, mems_rejoinGang]

theorem safe_takeAt {s : State} (pl : Place) (n : Nat) (h : Canon s.mems) {st : Stop} (e : s.takeAt pl n = .error st) : st.safe := by
  unfold State.takeAt at e
  grind [Stop.safe, addrFault, logTrap, illegal, linkTrap, barrierTrap, mems_placeFix, mems_serveBanks]

theorem safe_answered {s : State} (h : Canon s.mems) {va acc f : Nat} {v : VWord} {st : Stop} (e : s.answered va acc f v = .error st) : st.safe :=
    by
  unfold State.answered at e
  dsimp only at e
  split at e
  · cases e
  · split at e
    · cases e
      change Canon (s.modMe _).mems
      rw [mems_modMe rfl]
      exact h
    · cases e
      exact safe_gstop _ _ _ _

theorem mems_await {s : State} {q : GReq} {send : State → State} {r : Nat × State} (e : s.await q send = .ok r) : r.2.mems = s.mems := by
  unfold State.await at e
  grind [→ mems_answered]

theorem safe_await {s : State} (h : Canon s.mems) {q : GReq} {send : State → State} (hsend : ∀ u, Canon u.mems → Canon (send u).mems)
    {st : Stop}
    (e : s.await q send = .error st) : st.safe := by
  unfold State.await at e
  split at e
  · exact safe_answered h e
  · split at e
    · cases e; trivial
    · cases e
      intro u hu
      rw [mems_modMe rfl]
      exact hsend u hu

theorem safe_takeRing {c : Core} {x : RingEntry} {st : Stop} (e : c.takeRing x = .error st) : st.safe := by
  unfold Core.takeRing at e
  grind [Stop.safe]

theorem safe_pushCopy {s : State} (p : Nat) (lvl : Nat) (w : List Word) (bad : Bool) {st : Stop} (e : s.pushCopy p lvl w bad = .error st) :
    st.safe := by
  unfold State.pushCopy at e
  grind [Stop.safe, addrFault, logTrap, illegal, linkTrap, barrierTrap, mems_modCore, mems_pairTake]

theorem safe_pushMat {s : State} (p : Nat) (pc : BitVec 57) (w : List Word) (fmt : Option VWord) (bad : Bool) {st : Stop}
    (e : s.pushMat p pc w fmt bad = .error st) : st.safe := by
  unfold State.pushMat at e
  grind [Stop.safe, addrFault, logTrap, illegal, linkTrap, barrierTrap, → mem_takeRing, → safe_takeRing, mems_modCore, mems_pairTake]

theorem safe_pushRule {s : State} (p k : Nat) (w : List Word) (bad : Bool) {st : Stop} (e : s.pushRule p k w bad = .error st) : st.safe := by
  unfold State.pushRule at e
  grind [Stop.safe, addrFault, logTrap, illegal, linkTrap, barrierTrap, mems_modCore]

theorem safe_pushRecord {s : State} (q : AsmQueue) (w : List Word) (bad : Bool) {st : Stop} (e : s.pushRecord q w bad = .error st) : st.safe := by
  unfold State.pushRecord at e
  grind [Stop.safe, addrFault, logTrap, illegal, linkTrap, barrierTrap, → mems_pushCopy, → safe_pushCopy, → mems_pushMat, → safe_pushMat,
    → mems_pushRule, → safe_pushRule]

theorem safe_pushWord {s : State} (q : AsmQueue) (v : Word) {st : Stop} (e : s.pushWord q v = .error st) : st.safe := by
  unfold State.pushWord at e
  grind [Stop.safe, addrFault, logTrap, illegal, linkTrap, barrierTrap, mem_setAsm, mems_modMe, → mems_pushRecord, → safe_pushRecord]

theorem safe_pushWhole {s : State} (q : AsmQueue) (v : VWord) {st : Stop} (e : s.pushWhole q v = .error st) : st.safe := by
  unfold State.pushWhole at e
  grind [Stop.safe, addrFault, logTrap, illegal, linkTrap, barrierTrap, mem_setAsm, mems_modMe, → mems_pushRecord, → safe_pushRecord, mems_sticky]

theorem safe_pushLink {s : State} (west : Bool) (v : Word) {st : Stop} (e : s.pushLink west v = .error st) : st.safe := by
  unfold State.pushLink at e
  grind [Stop.safe, addrFault, logTrap, illegal, linkTrap, barrierTrap]

theorem safe_popLink {s : State} (west fwd : Bool) {st : Stop} (e : s.popLink west fwd = .error st) : st.safe := by
  unfold State.popLink at e
  grind [Stop.safe, addrFault, logTrap, illegal, linkTrap, barrierTrap, mems_modMe, → mems_pushLink, → safe_pushLink]

theorem safe_popMail {s : State} (pv : Bool) {st : Stop} (e : s.popMail pv = .error st) : st.safe := by
  unfold State.popMail at e
  grind [Stop.safe, addrFault, logTrap, illegal, linkTrap, barrierTrap, mems_modMe]

theorem safe_readName {s : State} (win : Window) (fwd pv : Bool) (n : Nat) {st : Stop} (e : s.readName win fwd pv n = .error st) : st.safe := by
  unfold State.readName at e
  grind [Stop.safe, addrFault, logTrap, illegal, linkTrap, barrierTrap, mems_modMe, → safe_popLink, → safe_popMail]

theorem safe_readField {s : State} (win : Window) (fwd : Bool) (reads pv : Bool) (n : Nat) {st : Stop}
    (e : s.readField win fwd reads pv n = .error st) : st.safe := by
  unfold State.readField at e
  grind [Stop.safe, addrFault, logTrap, illegal, linkTrap, barrierTrap, → mems_readName, → safe_readName]

theorem safe_linkGone {s : State} {fwd src : Bool} {n : Nat} {st : Stop} (h : st ∈ (s.linkGone fwd src n).toList) : st.safe := by
  unfold State.linkGone at h
  grind [Stop.safe, linkTrap]

theorem safe_readAll {s : State} {sh : Shape} {fl : Fields} {o : Opnds} {win : Window} {st : Stop}
    (e : s.readAll sh fl o win = .error st) : st.safe := by
  unfold State.readAll at e
  dsimp only at e
  split at e
  · rename_i gone hgone
    cases e
    have hmem : st ∈ st :: gone := List.mem_cons_self
    rw [← hgone] at hmem
    simp only [List.mem_append] at hmem
    grind [→ safe_linkGone]
  · rename_i hgone
    clear hgone
    rw [ite_eq_iff] at e
    obtain ⟨-, e⟩ | ⟨-, e⟩ := e
    · cases e; trivial
    · rw [ite_eq_iff] at e
      obtain ⟨-, e⟩ | ⟨-, e⟩ := e
      · cases e; trivial
      · grind [→ safe_readField, → mems_readField]

theorem safe_pushHead {s : State} (n : Nat) (r : Res) {st : Stop} (e : s.pushHead n r = .error st) : st.safe := by
  unfold State.pushHead at e
  grind [Stop.safe, addrFault, logTrap, illegal, linkTrap, barrierTrap, → mems_pushLink, → safe_pushLink, → mems_pushWhole, → safe_pushWhole,
    → mems_pushWord, → safe_pushWord]

theorem safe_dst {s : State} (n : Nat) (r : Res) (ring : Option Nat) {st : Stop} (e : s.dst n r ring = .error st) : st.safe := by
  unfold State.dst at e
  grind [Stop.safe, addrFault, logTrap, illegal, linkTrap, barrierTrap, → mems_pushDone, mems_modCx, mems_modMe, → mems_pushHead, → safe_pushHead]

/-- An effect that is done leaves the memories canonical, and so does what follows its result. -/
def Done.safe (d : Done) : Prop := Canon d.st.mems ∧ ∀ u : State, Canon u.mems → Canon (d.after u).mems

/-- What an effect answers: it is done, or stops. -/
def SafeDone : Except Stop Done → Prop
  | .ok d => d.safe
  | .error st => st.safe

/-- An effect answers so from every state whose memories are canonical. -/
def SafeEff (eff : Eff) : Prop := ∀ (o : Opnds) (v : Vals) (s : State), Canon s.mems → SafeDone (eff o v s)

theorem safe_result {s : State} (h : Canon s.mems) (r : Res) : SafeDone (Done.result s r) := ⟨h, fun _ hu => hu⟩

theorem safe_plain {s : State} (h : Canon s.mems) : SafeDone (Done.plain s) := ⟨h, fun _ hu => hu⟩

theorem SafeEff.done {eff : Eff} (heff : SafeEff eff) {o : Opnds} {v : Vals} {s : State} (h : Canon s.mems) {d : Done} (e : eff o v s = .ok d) :
    d.safe := by
  have hd := heff o v s h
  rw [e] at hd
  exact hd

theorem SafeEff.stop {eff : Eff} (heff : SafeEff eff) {o : Opnds} {v : Vals} {s : State} (h : Canon s.mems) {st : Stop}
    (e : eff o v s = .error st) :
    st.safe := by
  have hst := heff o v s h
  rw [e] at hst
  exact hst

theorem canon_perform {s : State} (h : Canon s.mems) {sh : Shape} {fl : Fields} {o : Opnds} {eff : Eff} (heff : SafeEff eff) {ring : Option Nat}
    {r : State × Option Word} (e : s.perform sh fl o eff ring = .ok r) : Canon r.1.mems := by
  unfold State.perform at e
  split at e
  · cases e
  · rename_i hread
    have hs := mems_readAll _ _ _ _ _ hread ▸ h
    split at e
    · cases e
    · rename_i hdone
      obtain ⟨hst, hafter⟩ := heff.done hs hdone
      split at e
      · cases e; exact hafter _ hst
      · split at e
        · cases e; exact hafter _ hst
        · split at e
          · cases e
          · rename_i hdst
            cases e
            exact hafter _ (mems_dst _ _ _ _ hdst ▸ hst)

theorem safe_perform {s : State} (h : Canon s.mems) {sh : Shape} {fl : Fields} {o : Opnds} {eff : Eff} (heff : SafeEff eff) {ring : Option Nat}
    {st : Stop} (e : s.perform sh fl o eff ring = .error st) : st.safe := by
  unfold State.perform at e
  split at e
  · rename_i hread
    cases e
    exact safe_readAll hread
  · rename_i hread
    have hs := mems_readAll _ _ _ _ _ hread ▸ h
    split at e
    · rename_i hstop
      cases e
      exact heff.stop hs hstop
    · rename_i hdone
      obtain ⟨hst, -⟩ := heff.done hs hdone
      split at e
      · cases e
      · split at e
        · cases e
        · split at e
          · rename_i hdst
            cases e
            exact safe_dst _ _ _ hdst
          · cases e

theorem safe_recordAt {s : State} (pl : Place) (h : Canon s.mems) {st : Stop} (e : s.recordAt pl = .error st) : st.safe := by
  unfold State.recordAt at e
  grind [Stop.safe, addrFault, logTrap, illegal, linkTrap, barrierTrap, → mems_takeAt, → safe_takeAt]

theorem safe_payload {s : State} (pl : Option Place) (n : Nat) (h : Canon s.mems) {st : Stop} (e : s.payload pl n = .error st) : st.safe := by
  unfold State.payload at e
  grind [Stop.safe, addrFault, logTrap, illegal, linkTrap, barrierTrap, → mems_takeAt, → safe_takeAt]

theorem safe_arrive {s : State} (ch : Nat) (step : Bool) {st : Stop} (e : s.arrive ch step = .error st) : st.safe := by
  unfold State.arrive at e
  grind [Stop.safe, addrFault, logTrap, illegal, linkTrap, barrierTrap, mems_modChan, mems_modCx]

theorem safe_msbRestore {s : State} (p : Nat) (h : Canon s.mems) {st : Stop} (e : s.msbRestore p = .error st) : st.safe := by
  unfold State.msbRestore at e
  grind [Stop.safe, addrFault, logTrap, illegal, linkTrap, barrierTrap, mem_restored, mems_correct, mems_leaveGang, mems_modCluster, mems_modCore,
    mems_unspillCmds]

theorem safe_writeXlat {s : State} (w : Word) {st : Stop} (e : s.writeXlat w = .error st) : st.safe := by
  unfold State.writeXlat at e
  grind [Stop.safe, addrFault, logTrap, illegal, linkTrap, barrierTrap, mems_invalidate, mems_modMe]

theorem safe_readImages {s : State} (slot n : Nat) (which : List Bool) (h : Canon s.mems) {st : Stop} (e : s.readImages slot n which = .error st) :
    st.safe := by
  unfold State.readImages at e
  grind [Stop.safe, addrFault, logTrap, illegal, linkTrap, barrierTrap, mems_correct]

theorem safe_pushDone {d : Done} {target : Option Nat} {st : Stop} (e : d.push target = .error st) : st.safe := by
  unfold Done.push at e
  grind [→ safe_pushHead]

end Sys2Proof.Machine
end

section
/-! SUPPORT. The functions of the model that may write a memory keep all of them canonical (O4). -/

namespace Sys2Proof.Machine

theorem memWf_writeLocal {c : Core} (h : memWf c.mem = true) (a n v : Nat) : memWf (c.writeLocal a n v).mem = true :=
  memWf_bwrite _ _ _ (by rw [mem_logLines]; exact h)

theorem memWf_coreFoldl {α : Type} {f : Core → α → Core} {l : List α} (h : ∀ c a, memWf c.mem = true → memWf (f c a).mem = true) {c : Core}
    (hc : memWf c.mem = true) : memWf (l.foldl f c).mem = true := by
  induction l generalizing c with
  | nil => exact hc
  | cons a l ih => exact ih (h c a hc)

theorem memWf_rollback {c : Core} (h : memWf c.mem = true) : memWf c.rollback.mem = true :=
  memWf_foldl (fun _ _ hm => memWf_bwrite _ _ _ hm) h

theorem canon_setLogged {s : State} (h : Canon s.mems) (p k : Nat) (l : LogLine) : Canon (s.modCore p (fun c => c.setLogged k l)).mems :=
  canon_modCore h (fun hm => by rw [mem_setLogged]; exact hm)

theorem canon_logPut {s : State} (h : Canon s.mems) (cl a : Nat) (v : Byte) : Canon (s.logPut cl a v).mems := by
  unfold State.logPut
  split
  · exact canon_modCluster h (memWf_bset _ _)
  · exact canon_setLogged h _ _ _

theorem canon_cluWrite {s : State} (h : Canon s.mems) (cl a n v : Nat) : Canon (s.cluWrite cl a n v).mems := by
  unfold State.cluWrite
  exact canon_ite (canon_modCluster h (memWf_bwrite _ _ _))
    (canon_foldl (fun _ _ h => canon_ite (canon_modCluster h (memWf_bset _ _)) (canon_logPut h _ _ _)) h)

theorem canon_walk {s : State} (h : Canon s.mems) {slice : Nat} {cid : BitVec 12} {va acc : Nat} {r : Tlb × State}
    (e : s.walk slice cid va acc = .ok r) : Canon r.2.mems := by
  unfold State.walk at e
  dsimp only at e
  split at e
  · cases e
  · split at e
    · cases e
    · split at e
      · cases e
      · rename_i l _
        generalize l.word ||| 0x80 ||| _ = word at e
        split at e
        · cases e
        · cases e
          rw [mems_modSlice]
          have hm : ∀ as, Canon (s.mend as).mems := fun as => by rw [mems_mend]; exact h
          exact canon_ite (hm _) (canon_phys (hm _) (memWf_bwrite _ _ _ (hm _).2.2))

theorem canon_walksFirst {s : State} (z : Nat) (cid : BitVec 12) (va : Nat) (h : Canon s.mems) : Canon (s.walksFirst z cid va).mems := by
  unfold State.walksFirst
  grind [canon_foldl, memWf_foldl, mems_foldl, → canon_walk, State.mems]

theorem canon_translate {s : State} (die : Nat) (cid : BitVec 12) (va acc : Nat) (h : Canon s.mems) {x} (e : s.translate die cid va acc = .ok x) :
    Canon x.2.mems := by
  unfold State.translate at e
  grind [→ canon_walk, canon_walksFirst, State.mems]

theorem canon_countRefusal {s : State} (g : Agent) (va acc : Nat) (h : Canon s.mems) : Canon (s.countRefusal g va acc).mems := by
  unfold State.countRefusal
  grind [mems_refuseAt, → canon_translate, State.mems]

theorem canon_agentFault {s : State} (g : Agent) (row col : Nat) (e : Nat × Nat) (acc : Nat) (h : Canon s.mems) : Canon
    (s.agentFault g row col e acc).mems := by
  unfold State.agentFault
  grind [canon_countRefusal, mems_trapAt, State.mems]

theorem canon_onePage {s : State} (g : Agent) (va n acc scope : Nat) (h : Canon s.mems) {x} (e : s.onePage g va n acc scope = .ok x) :
    Canon x.2.mems := by
  unfold State.onePage at e
  grind [→ canon_translate, State.mems]

theorem canon_gcheck {s : State} (g : Agent) (va n acc scope : Nat) (h : Canon s.mems) {x} (e : s.gcheck g va n acc scope = .ok x) :
    Canon x.2.mems := by
  unfold State.gcheck at e
  grind [→ canon_onePage, State.mems]

theorem canon_gwrite {s : State} (h : Canon s.mems) (ps : List Piece) (v : Nat) : Canon (s.gwrite ps v).mems := by
  induction ps generalizing s v with
  | nil => exact h
  | cons p ps ih =>
    unfold State.gwrite
    have hclear : Canon (s.clearErr .phys p.pa p.n).mems := by rw [mems_clearErr]; exact h
    refine ih (canon_ite (canon_phys hclear (memWf_foldl (fun _ _ hm => memWf_bset _ _ hm) hclear.2.2))
      (canon_phys hclear (memWf_bwrite _ _ _ hclear.2.2))) _

theorem canon_gload {s : State} (g : Agent) (va n : Nat) (h : Canon s.mems) {x} (e : s.gload g va n = .ok x) : Canon x.2.mems := by
  unfold State.gload at e
  grind [canon_foldl, memWf_foldl, mems_foldl, → canon_gcheck, mems_heal, State.mems]

theorem canon_gstore {s : State} (g : Agent) (va n v : Nat) (h : Canon s.mems) {t : State} (e : s.gstore g va n v = .ok t) : Canon t.mems := by
  unfold State.gstore at e
  grind [→ canon_gcheck, canon_gwrite, State.mems]

theorem canon_check {s : State} (h : Canon s.mems) {ea n acc : Nat} {aligned : Bool} {scope : Nat} {sysOk : Bool} {r : Place × State}
    (e : s.check ea n acc aligned scope sysOk = .ok r) : Canon r.2.mems := by
  unfold State.check at e
  grind [→ canon_gcheck]

theorem safe_check {s : State} {ea n acc : Nat} {aligned : Bool} {scope : Nat} {sysOk : Bool} {st : Stop}
    (e : s.check ea n acc aligned scope sysOk = .error st) : st.safe := by
  unfold State.check at e
  grind [Stop.safe, safe_gstop, addrFault, logTrap]

theorem canon_writeAt {s : State} (pl : Place) (n v : Nat) (h : Canon s.mems) : Canon (s.writeAt pl n v).mems := by
  unfold State.writeAt
  grind [memWf_writeLocal, mems_clearErr, canon_cluWrite, canon_gwrite, canon_modMe, mems_modMe, State.mems]

theorem canon_load {s : State} (ea n : Nat) (aligned : Bool) (h : Canon s.mems) {x} (e : s.load ea n aligned = .ok x) : Canon x.2.mems := by
  unfold State.load at e
  grind [→ canon_check, → safe_check, → mems_takeAt, → safe_takeAt, State.mems]

theorem safe_load {s : State} (ea n : Nat) (aligned : Bool) (h : Canon s.mems) {st : Stop} (e : s.load ea n aligned = .error st) : st.safe := by
  unfold State.load at e
  grind [→ canon_check, → safe_check, → mems_takeAt, → safe_takeAt, State.mems, Stop.safe, addrFault, logTrap, safe_gstop]

theorem canon_nearPlace {s : State} (ea n : Nat) (h : Canon s.mems) {x} (e : s.nearPlace ea n = .ok x) : Canon x.2.mems := by
  unfold State.nearPlace at e
  grind [→ canon_check, → safe_check, State.mems]

theorem safe_nearPlace {s : State} (ea n : Nat) {st : Stop} (e : s.nearPlace ea n = .error st) : st.safe := by
  unfold State.nearPlace at e
  grind [→ canon_check, → safe_check, State.mems, Stop.safe, addrFault, logTrap, safe_gstop]

theorem canon_loadNear {s : State} (ea n : Nat) (h : Canon s.mems) {x} (e : s.loadNear ea n = .ok x) : Canon x.2.mems := by
  unfold State.loadNear at e
  grind [→ canon_nearPlace, → safe_nearPlace, → mems_takeAt, → safe_takeAt, State.mems]

theorem safe_loadNear {s : State} (ea n : Nat) (h : Canon s.mems) {st : Stop} (e : s.loadNear ea n = .error st) : st.safe := by
  unfold State.loadNear at e
  grind [→ canon_nearPlace, → safe_nearPlace, → mems_takeAt, → safe_takeAt, State.mems, Stop.safe, addrFault, logTrap, safe_gstop]

theorem canon_fetchParcel {s : State} (a : Nat) (h : Canon s.mems) {x} (e : s.fetchParcel a = .ok x) : Canon x.2.mems := by
  unfold State.fetchParcel at e
  grind [→ canon_check, → safe_check, mems_placeFix, State.mems]

theorem safe_fetchParcel {s : State} (a : Nat) (h : Canon s.mems) {st : Stop} (e : s.fetchParcel a = .error st) : st.safe := by
  unfold State.fetchParcel at e
  grind [→ canon_check, → safe_check, mems_placeFix, State.mems, Stop.safe, addrFault, logTrap, safe_gstop]

theorem canon_fetchFrom {s : State} (h : Canon s.mems) {a n : Nat} {r : List Parcel × State} (e : s.fetchFrom a n = .ok r) : Canon r.2.mems := by
  induction n generalizing s a r with
  | zero => cases e; exact h
  | succ n ih =>
    unfold State.fetchFrom at e
    grind [→ canon_fetchParcel]

theorem safe_fetchFrom {s : State} (h : Canon s.mems) {a n : Nat} {st : Stop} (e : s.fetchFrom a n = .error st) : st.safe := by
  induction n generalizing s a st with
  | zero => cases e
  | succ n ih =>
    unfold State.fetchFrom at e
    grind [→ canon_fetchParcel, → safe_fetchParcel]

theorem canon_fetch {s : State} (pc : Word) (h : Canon s.mems) {x} (e : s.fetch pc = .ok x) : Canon x.2.mems := by
  unfold State.fetch at e
  grind [→ canon_fetchFrom, → safe_fetchFrom, State.mems]

theorem safe_fetch {s : State} (pc : Word) (h : Canon s.mems) {st : Stop} (e : s.fetch pc = .error st) : st.safe := by
  unfold State.fetch at e
  grind [→ canon_fetchFrom, → safe_fetchFrom, State.mems, Stop.safe, addrFault, logTrap, safe_gstop]

theorem canon_serve {s : State} (h : Canon s.mems) {q : GReq} {r : Nat × State} (e : s.serve q = .ok r) : Canon r.2.mems := by
  unfold State.serve at e
  grind [→ canon_gcheck, canon_gwrite, mems_correctAll]

theorem canon_unserved {s : State} (h : Canon s.mems) {q : GReq} {x : GFail × State} (e : s.serve q = .error x) : Canon x.2.mems := by
  unfold State.serve at e
  grind [→ canon_gcheck]

theorem mems_pairSend_done {s t : State} {p kind key len data : Nat} {wait : Bool} {act : PairAct} {v : Option Word}
    (e : s.pairSend p kind key len data wait act = .done v t) : t.mems = s.mems := by
  unfold State.pairSend at e
  grind [mems_modCore]

theorem mems_pairSend_sent {s t : State} {p kind key len data : Nat} {wait : Bool} {act : PairAct}
    (e : s.pairSend p kind key len data wait act = .sent t) : t.mems = s.mems := by
  unfold State.pairSend at e
  grind [mems_modCore, mems_sendCopy]

theorem canon_putGlobal {s : State} (h : Canon s.mems) (ps : List Piece) (va n v : Nat) : Canon (s.putGlobal ps va n v).mems := by
  unfold State.putGlobal
  grind [canon_gwrite, → mems_pairSend_done, → mems_pairSend_sent]

theorem canon_put {s : State} (pl : Place) (ea n v : Nat) (h : Canon s.mems) : Canon (s.put pl ea n v).mems := by
  unfold State.put
  grind [mems_mergeFix, canon_modMe, mems_modMe, canon_putGlobal, mems_serveBanks, canon_writeAt, State.mems]

theorem canon_store {s : State} (ea n : Nat) (aligned : Bool) (v : Nat) (h : Canon s.mems) {t : State} (e : s.store ea n aligned v = .ok t) :
    Canon t.mems := by
  unfold State.store at e
  grind [→ canon_check, → safe_check, canon_put, State.mems]

theorem safe_store {s : State} (ea n : Nat) (aligned : Bool) (v : Nat) (h : Canon s.mems) {st : Stop} (e : s.store ea n aligned v = .error st) :
    st.safe := by
  unfold State.store at e
  grind [→ canon_check, → safe_check, canon_put, State.mems, Stop.safe, addrFault, logTrap, safe_gstop]

theorem canon_pageMsg {s : State} (kind acc va : Nat) (cid : BitVec 12) (agent : Nat) (h : Canon s.mems) : Canon
    (s.pageMsg kind acc va cid agent).mems := by
  unfold State.pageMsg
  grind [canon_countRefusal, mems_trapMsg, State.mems]

theorem canon_stopped {s : State} (h : Canon s.mems) (c : Code) {st : Stop} (hst : st.safe) : Canon (s.stopped c st).mems := by
  unfold State.stopped
  grind [Stop.safe, mems_waitHere, mems_trapHere, canon_pageMsg, mems_poisonCore]

theorem mems_closed (s : State) (b : Core) : (closed s b).mems = s.mems := mems_modMe rfl

/-- The end of the issue of an instruction, or of a reissue of REP (R159). -/
theorem canon_issueEnd {s : State} (h : Canon s.mems) (b : Core) (c : Code) (next : Word) (rep : Option Bool) (jump : Option Word) :
    Canon (match rep with
      | none => (closed s b).retire c next jump b.queued
      | some true => ((closed s b).retire c next jump false).modCx (fun x => { x with rep := Rep.none })
      | some false => (closed s b).modCx (fun x =>
        { x with run := (match x.run with
                   | .waiting => .ready
                   | r => r)
                 rep := if x.rep.parcels.isEmpty then x.rep else { x.rep with next := x.rep.next + 1 } })).mems := by
  split
  · rw [mems_retire, mems_closed]; exact h
  · rw [mems_modCx, mems_retire, mems_closed]; exact h
  · rw [mems_modCx, mems_closed]; exact h

theorem canon_issueWith {s : State} (h : Canon s.mems) (c : Code) (sh : Shape) (o : Opnds) {eff : Eff} (heff : SafeEff eff) (next : Word)
    (rep : Option Bool) : Canon (s.issueWith c sh o eff next rep).mems := by
  unfold State.issueWith
  have hdrop : Canon (State.mems (if isWaitInsn c then s.dropAsm s.cur s.ctx else s)) :=
    canon_ite (by rw [mems_dropAsm]; exact h) h
  generalize (if isWaitInsn c then s.dropAsm s.cur s.ctx else s) = u at hdrop ⊢
  dsimp only
  split
  · rw [mems_waitHere]; exact hdrop
  · split
    · split
      · rename_i hring
        exact canon_stopped hdrop c (safe_takeRing hring)
      · rename_i k m hring
        have hentry : Canon (u.setCore u.cur m).mems := by
          rw [mems_setCore (mem_takeRing _ _ hring)]; exact hdrop
        split
        · rename_i hdone
          have hs2 := canon_perform hentry heff hdone
          exact canon_issueEnd (canon_ite hs2 (by rw [mems_modMe rfl]; exact hs2)) u.me c next rep _
        · rename_i st hstop
          split
          · refine canon_issueEnd ?_ u.me c next rep none
            rw [mems_faultLate]
            split
            · exact canon_pageMsg _ _ _ _ _ hentry
            · exact hentry
          · exact canon_stopped hdrop c (safe_perform hentry heff hstop)
    · split
      · rename_i hdone
        exact canon_issueEnd (canon_perform hdrop heff hdone) u.me c next rep _
      · rename_i hstop
        exact canon_stopped hdrop c (safe_perform hdrop heff hstop)

theorem canon_issue {s : State} (h : Canon s.mems) (i : Instr) {eff : Eff} (heff : SafeEff eff) : Canon (s.issue i eff).mems := by
  unfold State.issue
  split
  · exact h
  · split
    · exact h
    · dsimp only
      split
      · rw [mems_trapHere]; exact h
      · split
        · rw [mems_trapHere]; exact h
        · exact canon_issueWith h _ _ _ heff _ _

theorem canon_checkAll {s : State} (h : Canon s.mems) {n acc : Nat} {eas : List Nat} {r : List (Place × Nat) × State}
    (e : s.checkAll n acc eas = .ok r) : Canon r.2.mems := by
  induction eas generalizing s r with
  | nil => cases e; exact h
  | cons ea eas ih =>
    unfold State.checkAll at e
    grind [→ canon_check]

theorem safe_checkAll {s : State} {n acc : Nat} {eas : List Nat} {st : Stop} (e : s.checkAll n acc eas = .error st) : st.safe := by
  induction eas generalizing s st with
  | nil => cases e
  | cons ea eas ih =>
    unfold State.checkAll at e
    grind [→ safe_check]

theorem canon_loadScalar {s : State} (h : Canon s.mems) {far : Bool} {ea n : Nat} {aligned : Bool} {r : Nat × State}
    (e : s.loadScalar far ea n aligned = .ok r) : Canon r.2.mems := by
  unfold State.loadScalar at e
  grind [→ mems_await, → canon_load]

theorem safe_loadScalar {s : State} (h : Canon s.mems) {far : Bool} {ea n : Nat} {aligned : Bool} {st : Stop}
    (e : s.loadScalar far ea n aligned = .error st) : st.safe := by
  unfold State.loadScalar at e
  split at e
  · split at e
    · cases e; trivial
    · exact safe_await h (fun u hu => (mems_sendReq u _).symm ▸ hu) e
  · exact safe_load _ _ _ h e

theorem safe_loadEff (n : Nat) (aligned : Bool) (ext : Nat → Word) : SafeEff (loadEff n aligned ext) := by
  intro o v s h
  unfold loadEff
  split
  · exact safe_loadScalar h ‹_›
  · exact safe_result (canon_loadScalar h ‹_›) _

theorem canon_fillLine {s : State} (p q : Nat) (cid : BitVec 12) (va : Nat) (h : Canon s.mems) {t : State} (e : s.fillLine p q cid va = .ok t) :
    Canon t.mems := by
  unfold State.fillLine at e
  grind [mems_clearErr, mems_correctAll, → canon_gcheck, canon_modCluster, mems_modCluster, State.mems]

theorem safe_fillLine {s : State} (p q : Nat) (cid : BitVec 12) (va : Nat) (h : Canon s.mems) {x} (e : s.fillLine p q cid va = .error x) :
    Canon x.2.mems := by
  unfold State.fillLine at e
  grind [mems_clearErr, mems_correctAll, → canon_gcheck, canon_modCluster, mems_modCluster, State.mems]

theorem canon_windowByte {s : State} (q : Nat) (cid : BitVec 12) (va : Nat) (h : Canon s.mems) {x} (e : s.windowByte q cid va = .ok x) :
    Canon x.2.mems := by
  unfold State.windowByte at e
  grind [mems_correct, → canon_fillLine, → safe_fillLine, canon_modMe, mems_modMe, State.mems]

theorem safe_windowByte {s : State} (q : Nat) (cid : BitVec 12) (va : Nat) (h : Canon s.mems) {st : Stop} (e : s.windowByte q cid va = .error st) :
    st.safe := by
  unfold State.windowByte at e
  grind [mems_correct, → canon_fillLine, → safe_fillLine, canon_modMe, mems_modMe, State.mems, Stop.safe, addrFault, logTrap, safe_gstop]

theorem canon_windowBytes {s : State} (h : Canon s.mems) {q : Nat} {cid : BitVec 12} {base size n off : Nat} {r : Nat × State}
    (e : s.windowBytes q cid base size n off = .ok r) : Canon r.2.mems := by
  induction n generalizing s off r with
  | zero => cases e; exact h
  | succ n ih =>
    unfold State.windowBytes at e
    grind [→ canon_windowByte]

theorem safe_windowBytes {s : State} (h : Canon s.mems) {q : Nat} {cid : BitVec 12} {base size n off : Nat} {st : Stop}
    (e : s.windowBytes q cid base size n off = .error st) : st.safe := by
  induction n generalizing s off st with
  | zero => cases e
  | succ n ih =>
    unfold State.windowBytes at e
    grind [→ canon_windowByte, → safe_windowByte]

theorem safe_storeEff (n : Nat) (aligned : Bool) : SafeEff (storeEff n aligned) := by
  intro o v s h
  unfold storeEff
  split
  · exact safe_store _ _ _ _ h ‹_›
  · exact safe_plain (canon_store _ _ _ _ h ‹_›)

theorem canon_putEach {s : State} (n : Nat) (ls : List StoreLane) (h : Canon s.mems) : Canon (s.putEach n ls).mems := by
  unfold State.putEach
  grind [canon_foldl, memWf_foldl, mems_foldl, canon_put, State.mems]

theorem canon_putFar {s : State} (h : Canon s.mems) (n : Nat) (ls : List StoreLane) : Canon (s.putFar n ls).mems := by
  unfold State.putFar
  grind [canon_gwrite, → mems_pairSend_done, → mems_pairSend_sent]

theorem canon_putLanes {s : State} (n : Nat) (pls : List (Place × Nat)) (xs : List Nat) (h : Canon s.mems) {t : State}
    (e : s.putLanes n pls xs = .ok t) : Canon t.mems := by
  unfold State.putLanes at e
  grind [canon_putEach, canon_putFar, State.mems]

theorem safe_putLanes {s : State} (n : Nat) (pls : List (Place × Nat)) (xs : List Nat) (h : Canon s.mems) {st : Stop}
    (e : s.putLanes n pls xs = .error st) : st.safe := by
  unfold State.putLanes at e
  grind [canon_putEach, canon_putFar, State.mems, Stop.safe, addrFault, logTrap, safe_gstop]

/-- An atomic performed at its place at once (R114). -/
def State.atomicNow (s : State) (pl : Place) (op rm : Nat) (x e : Word) : Except Stop (Nat × State) :=
  let n := amoBytes op
  if s.placeBad pl n || s.mergeBad pl n then .error (.poison s)
  else
    let old := s.readAt pl n
    let t := (s.placeFix pl n).mergeFix pl n
    let t := match pl with
      | .clu _ => if t.me.twin.isSome then t.modMe (fun c => { c with ovf := true }) else t
      | _ => t
    .ok (old, (t.writeAt pl n (amoNew op rm (BitVec.ofNat 64 old) x e).toNat).serveAtomic pl)

theorem canon_atomicNow {s : State} (h : Canon s.mems) {pl : Place} {op rm : Nat} {x y : Word} {r : Nat × State}
    (e : s.atomicNow pl op rm x y = .ok r) : Canon r.2.mems := by
  unfold State.atomicNow at e
  dsimp only at e
  have hfix : Canon ((s.placeFix pl (amoBytes op)).mergeFix pl (amoBytes op)).mems := by rw [mems_mergeFix, mems_placeFix]; exact h
  split at e
  · cases e
  · cases e
    rw [mems_serveAtomic]
    refine canon_writeAt _ _ _ ?_
    cases pl with
    | clu a => exact canon_ite (by rw [mems_modMe rfl]; exact hfix) hfix
    | loc a => exact hfix
    | glob ps => exact hfix

theorem safe_atomicNow {s : State} (h : Canon s.mems) {pl : Place} {op rm : Nat} {x y : Word} {st : Stop}
    (e : s.atomicNow pl op rm x y = .error st) : st.safe := by
  unfold State.atomicNow at e
  dsimp only at e
  split at e
  · cases e; exact h
  · cases e

/-- Where no twin compares it and no request carries it out of the core, an atomic is performed at once. -/
theorem atomicAt_near {s : State} {pl : Place} (hpl : ∀ ps, pl ≠ .glob ps) (ea op rm : Nat) (red : Bool) (x e : Word) :
    s.atomicAt pl ea op rm red x e = s.atomicNow pl op rm x e := by
  cases pl with
  | loc a => rfl
  | clu a => rfl
  | glob ps => exact absurd rfl (hpl ps)

theorem canon_atomicAt {s : State} (h : Canon s.mems) {pl : Place} {ea op rm : Nat} {red : Bool} {x y : Word} {r : Nat × State}
    (e : s.atomicAt pl ea op rm red x y = .ok r) : Canon r.2.mems := by
  cases pl with
  | loc a => rw [atomicAt_near (by simp)] at e; exact canon_atomicNow h e
  | clu a => rw [atomicAt_near (by simp)] at e; exact canon_atomicNow h e
  | glob ps =>
    unfold State.atomicAt at e
    dsimp only at e
    split at e
    · split at e
      · split at e
        · exact canon_atomicNow h e
        · exact mems_answered _ _ _ _ _ e ▸ h
      · split at e
        · cases e
        · split at e
          · exact canon_atomicNow h e
          · rename_i hsend
            cases e; exact mems_pairSend_done hsend ▸ h
          · rename_i hsend
            split at e
            · cases e; exact mems_pairSend_sent hsend ▸ h
            · cases e
    · split at e
      · cases e; exact h
      · exact canon_atomicNow h e

theorem safe_atomicAt {s : State} (h : Canon s.mems) {pl : Place} {ea op rm : Nat} {red : Bool} {x y : Word} {st : Stop}
    (e : s.atomicAt pl ea op rm red x y = .error st) : st.safe := by
  cases pl with
  | loc a => rw [atomicAt_near (by simp)] at e; exact safe_atomicNow h e
  | clu a => rw [atomicAt_near (by simp)] at e; exact safe_atomicNow h e
  | glob ps =>
    unfold State.atomicAt at e
    dsimp only at e
    split at e
    · split at e
      · split at e
        · exact safe_atomicNow h e
        · exact safe_answered h e
      · split at e
        · cases e; trivial
        · split at e
          · exact safe_atomicNow h e
          · cases e
          · split at e
            · cases e
            · cases e
              intro u hu
              dsimp only
              split
              · rename_i hsend
                exact mems_pairSend_sent hsend ▸ hu
              · exact hu
    · split at e
      · cases e
      · exact safe_atomicNow h e

theorem safe_amoEff (op : Nat) (red : Bool) : SafeEff (amoEff op red) := by
  intro o v s h
  unfold amoEff
  dsimp only
  split
  · exact safe_check ‹_›
  · have hc := canon_check h ‹_›
    split
    · exact safe_atomicAt hc ‹_›
    · have ha := canon_atomicAt hc ‹_›
      split
      · exact safe_plain ha
      · exact safe_result ha _

theorem canon_recordWhen {s : State} (h : Canon s.mems) {ea : Nat} {room : Bool} {r : List Word × State} (e : s.recordWhen ea room = .ok r) :
    Canon r.2.mems := by
  unfold State.recordWhen at e
  grind [→ canon_nearPlace, → mems_recordAt]

theorem safe_recordWhen {s : State} (h : Canon s.mems) {ea : Nat} {room : Bool} {st : Stop} (e : s.recordWhen ea room = .error st) : st.safe := by
  unfold State.recordWhen at e
  grind [→ canon_nearPlace, → safe_nearPlace, → safe_recordAt, Stop.safe]

theorem canon_bytesWhen {s : State} (ea n : Nat) (room : Bool) (h : Canon s.mems) {x} (e : s.bytesWhen ea n room = .ok x) : Canon x.2.mems := by
  unfold State.bytesWhen at e
  grind [→ canon_nearPlace, → safe_nearPlace, → mems_takeAt, → safe_takeAt, State.mems]

theorem safe_bytesWhen {s : State} (ea n : Nat) (room : Bool) (h : Canon s.mems) {st : Stop} (e : s.bytesWhen ea n room = .error st) : st.safe := by
  unfold State.bytesWhen at e
  grind [→ canon_nearPlace, → safe_nearPlace, → mems_takeAt, → safe_takeAt, State.mems, Stop.safe, addrFault, logTrap, safe_gstop]

theorem canon_tryCopy {s : State} (h : Canon s.mems) {ea : Nat} {t : State} (e : s.tryCopy ea = .ok (some t)) : Canon t.mems := by
  unfold State.tryCopy at e
  grind [→ canon_nearPlace, → mems_recordAt, → mems_pushCopy]

theorem safe_tryCopy {s : State} (h : Canon s.mems) {ea : Nat} {st : Stop} (e : s.tryCopy ea = .error st) : st.safe := by
  unfold State.tryCopy at e
  grind [→ canon_nearPlace, → safe_nearPlace, → mems_recordAt, → safe_recordAt, → safe_pushCopy]

theorem canon_payloadPlace {s : State} (a n : Nat) (h : Canon s.mems) {x} (e : s.payloadPlace a n = .ok x) : Canon x.2.mems := by
  unfold State.payloadPlace at e
  grind [→ canon_check, → safe_check, State.mems]

theorem safe_payloadPlace {s : State} (a n : Nat) {st : Stop} (e : s.payloadPlace a n = .error st) : st.safe := by
  unfold State.payloadPlace at e
  grind [→ canon_check, → safe_check, State.mems, Stop.safe, addrFault, logTrap, safe_gstop]

theorem canon_distFault {s : State} (cid : BitVec 12) (e : GFail) (acc : Nat) (h : Canon s.mems) : Canon (s.distFault cid e acc).mems := by
  unfold State.distFault
  grind [canon_agentFault, State.mems]

theorem canon_cwTell {s : State} (l : Launch) (h : Canon s.mems) : Canon (s.cwTell l).mems := by
  unfold State.cwTell
  grind [canon_distFault, → canon_gcheck, State.mems]

theorem canon_submit {s : State} (q : Nat) (l : Launch) (h : Canon s.mems) : Canon (s.submit q l).2.mems := by
  unfold State.submit
  grind [canon_cwTell, mems_enqueue, State.mems]

theorem canon_storeVerdict {s : State} (h : Canon s.mems) (q : Nat) (l : Launch) (cause : BitVec 8) (verd : Nat) :
    Canon (s.storeVerdict q l cause verd).mems := by
  unfold State.storeVerdict
  dsimp only
  split
  · split
    · exact h
    · refine canon_ite ?_ (canon_cluWrite (canon_cluWrite h _ _ _ _) _ _ _ _)
      rw [mems_postSup, mems_refuseAt]
      exact h
  · split
    · rw [mems_postSup]
      exact canon_distFault _ _ _ h
    · have hrec := canon_gstore _ _ _ _ h ‹_›
      split
      · rw [mems_postSup]
        exact canon_distFault _ _ _ hrec
      · exact canon_gstore _ _ _ _ hrec ‹_›
  · exact h

theorem canon_complete {s : State} (h : Canon s.mems) (q : Nat) (l : Launch) (cause : BitVec 8) (verd : Nat) :
    Canon (s.complete q l cause verd).mems := by
  unfold State.complete
  grind [mems_foldl, mems_afterPred, mems_modPart, canon_storeVerdict, State.mems]

theorem canon_refuseHost {s : State} (q : Nat) (l : Launch) (h : Canon s.mems) : Canon (s.refuseHost q l).mems := by
  unfold State.refuseHost
  grind [canon_cwTell, mems_modPart, canon_storeVerdict, State.mems]

theorem canon_control {s : State} (h : Canon s.mems) (q : Nat) (l : Launch) : Canon (s.control q l).2.mems := by
  unfold State.control
  dsimp only
  split
  · exact h
  · split
    · exact h
    · split
      · exact canon_complete h _ _ _ _
      · rw [mems_modLaunch]
        exact h

theorem canon_errs {s : State} (h : Canon s.mems) {e : List ErrMark} : Canon (State.mems { s with errs := e }) := h

theorem canon_scrubCluster {s : State} (h : Canon s.mems) (cl : Nat) : Canon (s.scrubCluster cl).mems := by
  unfold State.scrubCluster
  dsimp only
  refine canon_errs (canon_modCluster ?_ (fun _ => rfl))
  rw [mems_draw]
  exact canon_foldl (fun _ _ hu => canon_modCore hu (fun _ => rfl)) h

theorem canon_grant {s : State} (q cl : Nat) (h : Canon s.mems) : Canon (s.grant q cl).mems := by
  unfold State.grant
  grind [canon_modCluster, mems_modCluster, canon_scrubCluster, State.mems]

theorem canon_number {s : State} (q l p : Nat) (h : Canon s.mems) : Canon (s.number q l p).mems := by
  unfold State.number
  grind [canon_grant, canon_modCore, mems_modCore, State.mems]

theorem canon_remap {s : State} (h : Canon s.mems) (q l : Nat) (e : Word) : Canon (s.remap q l e).mems := by
  unfold State.remap
  dsimp only
  generalize BitVec.ofNat 64 (wfield e 0 13 + wfield e 63 1 * 2 ^ 63) = e
  have hmap : ∀ f, Canon (s.modPart q f).mems := fun f => by rw [mems_modPart]; exact h
  split
  · split
    · exact canon_number _ _ _ (hmap _)
    · exact hmap _
  · rename_i p0 _
    refine canon_ite (canon_number _ _ _ (hmap _)) ?_
    have hold : ∀ u : State, Canon u.mems → Canon ((u.leaveGang p0).modCore p0 Core.vacated).mems := fun u hu => by
      rw [mems_modCore (mem_vacated _), mems_leaveGang]; exact hu
    refine canon_ite (hold _ (hmap _)) ?_
    · have hnum := canon_number q l (e.toNat % 8192) (hold _ (hmap (fun x =>
        { x with l2p := mset x.l2p l e, n := if e.getLsbD 63 then max x.n (l + 1) else if x.n = l + 1 then l else x.n })))
      refine canon_ite hnum ?_
      have hexit : ∀ f : Core → Core, (∀ c, (f c).mem = c.mem) → Canon ((((((s.modPart q (fun x =>
        { x with l2p := mset x.l2p l e, n := if e.getLsbD 63 then max x.n (l + 1) else if x.n = l + 1 then l else x.n })).leaveGang p0).modCore
          p0 Core.vacated).number q l (e.toNat % 8192)).modCore (e.toNat % 8192) f)).mems := fun f hf => by rw [mems_modCore (hf _)]; exact hnum
      grind [mems_modCore, mems_foldl, mems_stopForReplay, mems_replayGroup, mems_renamePaired, mems_moveCmds, mems_replayUnit, mem_settled]

theorem memWf_writePieces {c : Core} (h : memWf c.mem = true) (base : Nat) (ps : List (Nat × Nat × Nat)) : memWf
    (c.writePieces base ps).mem = true :=
  memWf_coreFoldl (fun _ _ hc => memWf_writeLocal hc _ _ _) h

theorem canon_putPieces {s : State} (h : Canon s.mems) (p base : Nat) (ps : List (Nat × Nat × Nat)) : Canon (s.putPieces p base ps).mems :=
  canon_foldl (fun u _ hu => by rw [mems_clearErr, mems_partFix]; exact hu) (canon_modCore h (fun hc => memWf_writePieces hc _ _))

theorem canon_spillCmds {s : State} (h : Canon s.mems) (p base : Nat) : Canon (s.spillCmds p base).mems := by
  unfold State.spillCmds
  dsimp only
  rw [mems_modCore rfl]
  exact h

theorem canon_msbSave {s : State} (p : Nat) (h : Canon s.mems) {t : State} (e : s.msbSave p = .ok t) : Canon t.mems := by
  unfold State.msbSave at e
  grind [mems_dropHelperAsm, canon_modCore, mems_modCore, canon_putPieces, canon_spillCmds, State.mems]

theorem safe_msbSave {s : State} (p : Nat) (h : Canon s.mems) {st : Stop} (e : s.msbSave p = .error st) : st.safe := by
  unfold State.msbSave at e
  grind [mems_dropHelperAsm, canon_modCore, mems_modCore, canon_putPieces, canon_spillCmds, State.mems, Stop.safe, addrFault, logTrap, safe_gstop]

theorem canon_msbRun {s : State} (p : Nat) (h : Canon s.mems) {t : State} (e : s.msbRun p = .ok t) : Canon t.mems := by
  unfold State.msbRun at e
  grind [→ mems_msbRestore, → safe_msbRestore, → canon_msbSave, → safe_msbSave, State.mems]

theorem safe_msbRun {s : State} (p : Nat) (h : Canon s.mems) {st : Stop} (e : s.msbRun p = .error st) : st.safe := by
  unfold State.msbRun at e
  grind [→ mems_msbRestore, → safe_msbRestore, → canon_msbSave, → safe_msbSave, State.mems, Stop.safe, addrFault, logTrap, safe_gstop]

theorem canon_writeMsb {s : State} (v : Word) (h : Canon s.mems) {t : State} (e : s.writeMsb v = .ok t) : Canon t.mems := by
  unfold State.writeMsb at e
  grind [canon_modMe, mems_modMe, → canon_msbRun, → safe_msbRun, State.mems]

theorem safe_writeMsb {s : State} (v : Word) (h : Canon s.mems) {st : Stop} (e : s.writeMsb v = .error st) : st.safe := by
  unfold State.writeMsb at e
  grind [canon_modMe, mems_modMe, → canon_msbRun, → safe_msbRun, State.mems, Stop.safe, addrFault, logTrap, safe_gstop]

theorem mem_setShadowReg (c : Core) (i : Nat) (v : Word) : (setShadowReg c i v).mem = c.mem := by
  unfold setShadowReg
  split_ifs <;> rfl

theorem canon_sysWrite {s : State} (h : Canon s.mems) {i : Nat} {v : Word} {t : State} (e : s.sysWrite i v = .ok t) : Canon t.mems := by
  unfold State.sysWrite at e
  split at e
  case h_16 =>
    split at e
    · cases e
      exact canon_ite (by rw [mems_modCx]; exact h) h
    · split at e
      · cases e
        rw [mems_modMe (mem_setShadowReg _ _ _)]
        exact h
      · cases e
        exact canon_ite (canon_remap h _ _ _) h
  all_goals grind [mems_modCluster, mems_modCx, mems_modMe, mems_modPart, mems_setLnk, → canon_writeMsb, mems_writeRls, → mems_writeXlat]

theorem safe_sysWrite {s : State} (h : Canon s.mems) {i : Nat} {v : Word} {st : Stop} (e : s.sysWrite i v = .error st) : st.safe := by
  unfold State.sysWrite at e
  split at e <;> grind [→ safe_writeMsb, → safe_writeXlat, Stop.safe, privTrap]

theorem canon_launchCode {s : State} (h : Canon s.mems) {q : Nat} {l : Launch} {key data : Nat} {x : Nat × State}
    (e : s.launchCode q l key data = .ok x) : Canon x.2.mems := by
  unfold State.launchCode at e
  grind [canon_submit, mems_modMe, mems_draw, → mems_pairSend_done]

theorem safe_launchCode {s : State} {q : Nat} {l : Launch} {key data : Nat} {st : Stop}
    (e : s.launchCode q l key data = .error st) : st.safe := by
  unfold State.launchCode at e
  grind [Stop.safe, → mems_pairSend_sent]

theorem canon_readWindows {s : State} (h : Canon s.mems) {l : Launch} {k n : Nat} {r : Map (Nat × Nat) × State}
    (e : s.readWindows l k n = .ok r) : Canon r.2.mems := by
  induction k generalizing s n r with
  | zero => cases e; exact h
  | succ k ih =>
    unfold State.readWindows at e
    grind [→ canon_gload]

theorem canon_cmdFailBy {s : State} (g : Agent) (c : RuleCmd) (f : CFail) (h : Canon s.mems) : Canon (s.cmdFailBy g c f).mems := by
  unfold State.cmdFailBy
  grind [canon_countRefusal, mems_taintCmd, mems_trapMsg, State.mems]

theorem canon_cmdRead {s : State} (g : Agent) (c : RuleCmd) (va n : Nat) (h : Canon s.mems) {x} (e : s.cmdRead g c va n = .ok x) : Canon x.2.mems :=
    by
  unfold State.cmdRead at e
  grind [canon_cmdFailBy, mems_correctAll, → canon_gcheck, mems_taintCmd, State.mems]

theorem safe_cmdRead {s : State} (g : Agent) (c : RuleCmd) (va n : Nat) (h : Canon s.mems) {x} (e : s.cmdRead g c va n = .error x) :
    Canon x.2.mems := by
  unfold State.cmdRead at e
  grind [canon_cmdFailBy, mems_correctAll, → canon_gcheck, mems_taintCmd, State.mems]

theorem canon_cmdWrite {s : State} (g : Agent) (va n v : Nat) (h : Canon s.mems) {t : State} (e : s.cmdWrite g va n v = .ok t) : Canon t.mems := by
  unfold State.cmdWrite at e
  grind [→ canon_gstore, State.mems]

theorem canon_cmdWrites {s : State} (h : Canon s.mems) {g : Agent} {ws : List (Nat × Nat × Nat)} {t : State}
    (e : s.cmdWrites g ws = .ok t) : Canon t.mems := by
  induction ws generalizing s with
  | nil => cases e; exact h
  | cons w ws ih =>
    unfold State.cmdWrites at e
    grind [→ canon_cmdWrite]

theorem canon_cmdPut {s : State} (g : Agent) (c : RuleCmd) (ws : List (Nat × Nat × Nat)) (h : Canon s.mems) {t : State}
    (e : s.cmdPut g c ws = .ok t) : Canon t.mems := by
  unfold State.cmdPut at e
  grind [canon_cmdFailBy, → canon_cmdWrites, State.mems]

theorem safe_cmdPut {s : State} (g : Agent) (c : RuleCmd) (ws : List (Nat × Nat × Nat)) (h : Canon s.mems) {x} (e : s.cmdPut g c ws = .error x) :
    Canon x.2.mems := by
  unfold State.cmdPut at e
  grind [canon_cmdFailBy, → canon_cmdWrites, State.mems]

theorem canon_correct {s : State} (h : Canon s.mems) (p : Nat) (st : Store) (a n : Nat) : Canon (s.correct p st a n).mems := by
  rw [mems_correct]; exact h

theorem canon_modPart {s : State} (h : Canon s.mems) (q : Nat) (f : Partition → Partition) : Canon (s.modPart q f).mems := h

/-- What an operation at a block's planes gives or fails with keeps the memories canonical. -/
theorem canon_openPlanes {s : State} (h : Canon s.mems) {c : RuleCmd} {va acc : Nat} {rd wr : List Nat} {r : (Nat × Nat) × State}
    (e : s.openPlanes c va acc rd wr = .ok r) : Canon r.2.mems := by
  unfold State.openPlanes at e
  rw [ite_eq_iff] at e
  obtain ⟨-, e⟩ | ⟨-, e⟩ := e
  · cases e
  · split at e
    · cases e
    · have htrans := canon_translate _ _ _ _ h ‹_›
      rw [ite_eq_iff] at e
      obtain ⟨-, e⟩ | ⟨-, e⟩ := e
      · cases e
      · split at e
        · cases e
        · rw [ite_eq_iff] at e
          obtain ⟨-, e⟩ | ⟨-, e⟩ := e
          · cases e
          · dsimp only at e
            rw [ite_eq_iff] at e
            obtain ⟨-, e⟩ | ⟨-, e⟩ := e
            · cases e
            · split at e
              · cases e
              · rw [ite_eq_iff] at e
                obtain ⟨-, e⟩ | ⟨-, e⟩ := e
                · cases e
                · cases e
                  exact canon_foldl (fun _ _ hu => canon_correct hu _ _ _ _) (canon_correct htrans _ _ _ _)

theorem safe_openPlanes {s : State} (h : Canon s.mems) {c : RuleCmd} {va acc : Nat} {rd wr : List Nat} {x : CFail × State}
    (e : s.openPlanes c va acc rd wr = .error x) : Canon x.2.mems := by
  unfold State.openPlanes at e
  grind [→ canon_translate, canon_cmdFailBy, mems_refuseAt, mems_taintCmd]

theorem canon_openBlock {s : State} (h : Canon s.mems) {c : RuleCmd} {va : Nat} {r : (Nat × Nat) × State}
    (e : s.openBlock c va = .ok r) : Canon r.2.mems := canon_openPlanes h e

theorem safe_openBlock {s : State} (h : Canon s.mems) {c : RuleCmd} {va : Nat} {x : CFail × State}
    (e : s.openBlock c va = .error x) : Canon x.2.mems := safe_openPlanes h e

theorem canon_openHead {s : State} (h : Canon s.mems) {c : RuleCmd} {va : Nat} {wr : Bool} {r : (Nat × Nat) × State}
    (e : s.openHead c va wr = .ok r) : Canon r.2.mems := by
  cases wr
  · exact canon_openPlanes h e
  · exact canon_openPlanes h e

theorem safe_openHead {s : State} (h : Canon s.mems) {c : RuleCmd} {va : Nat} {wr : Bool} {x : CFail × State}
    (e : s.openHead c va wr = .error x) : Canon x.2.mems := by
  cases wr
  · exact safe_openPlanes h e
  · exact safe_openPlanes h e

theorem canon_headTried {s : State} (c : RuleCmd) (va : Nat) (h : Canon s.mems) : Canon (s.headTried c va).mems := by
  unfold State.headTried
  grind [→ canon_translate, State.mems]

theorem canon_tapeCounts {s : State} (h : Canon s.mems) {g : Agent} {c : RuleCmd} {a : Nat} {bs : List Nat} {r : List Nat × State}
    (e : s.tapeCounts g c a bs = .ok r) : Canon r.2.mems := by
  induction bs generalizing s r with
  | nil => cases e; exact h
  | cons b bs ih =>
    unfold State.tapeCounts at e
    grind [→ canon_cmdRead]

theorem safe_tapeCounts {s : State} (h : Canon s.mems) {g : Agent} {c : RuleCmd} {a : Nat} {bs : List Nat} {x : CFail × State}
    (e : s.tapeCounts g c a bs = .error x) : Canon x.2.mems := by
  induction bs generalizing s x with
  | nil => cases e
  | cons b bs ih =>
    unfold State.tapeCounts at e
    grind [→ canon_cmdRead, → safe_cmdRead]

theorem canon_recordTape {s : State} (h : Canon s.mems) {c : RuleCmd} {a : Nat} {cid : BitVec 12} {bs : List Nat} {b ver : Nat}
    {ps : List Param} {fb : Bool} {r : Bool × State} (e : s.recordTape c a cid bs b ver ps fb = .ok r) : Canon r.2.mems := by
  unfold State.recordTape at e
  dsimp only at e
  split at e
  · cases e
  · split at e
    · cases e
    · split at e
      · cases e
      · cases e
        have hput := canon_cmdPut _ _ _ (canon_tapeCounts (canon_cmdRead _ _ _ _ h ‹_›) ‹_›) ‹_›
        exact canon_ite (by rw [mems_modPart]; exact hput) hput

theorem safe_recordTape {s : State} (h : Canon s.mems) {c : RuleCmd} {a : Nat} {cid : BitVec 12} {bs : List Nat} {b ver : Nat}
    {ps : List Param} {fb : Bool} {x : CFail × State} (e : s.recordTape c a cid bs b ver ps fb = .error x) : Canon x.2.mems := by
  unfold State.recordTape at e
  dsimp only at e
  split at e
  · cases e
    exact safe_cmdRead _ _ _ _ h ‹_›
  · have hread := canon_cmdRead _ _ _ _ h ‹_›
    split at e
    · cases e
      exact safe_tapeCounts hread ‹_›
    · have hcounts := canon_tapeCounts hread ‹_›
      split at e
      · cases e
        exact safe_cmdPut _ _ _ hcounts ‹_›
      · cases e

theorem canon_writePlane {s : State} (h : Canon s.mems) {va pa act k : Nat} {l : List Nat} :
    Canon (if act = 0 then s else s.gwrite [{ va := va, pa := pa + 4096 * k, n := 4 * act }] (words4 l)).mems :=
  canon_ite h (canon_gwrite h _ _)

theorem canon_rehash {s : State} (h : Canon s.mems) (sl q va : Nat) (d : BitVec 128) : Canon (s.rehash sl q va d).mems := by
  rw [mems_rehash]; exact h

theorem canon_taped {s : State} (h : Canon s.mems) {tape : Option (Nat × BitVec 12 × List Nat × Nat)} {c : RuleCmd} {ver : Nat} {ps : List Param}
    {fb : Bool} {r : Bool × State} (e : (match tape with
      | none => (.ok (false, s) : Except CStop (Bool × State))
      | some (a, cid, bs, b) => s.recordTape c a cid bs b ver ps fb) = .ok r) : Canon r.2.mems := by
  split at e
  · cases e; exact h
  · exact canon_recordTape h e

theorem safe_taped {s : State} (h : Canon s.mems) {tape : Option (Nat × BitVec 12 × List Nat × Nat)} {c : RuleCmd} {ver : Nat} {ps : List Param}
    {fb : Bool} {x : CFail × State} (e : (match tape with
      | none => (.ok (false, s) : Except CStop (Bool × State))
      | some (a, cid, bs, b) => s.recordTape c a cid bs b ver ps fb) = .error x) : Canon x.2.mems := by
  split at e
  · cases e
  · exact safe_recordTape h e

theorem safe_updateBlock {s : State} (h : Canon s.mems) {c : RuleCmd} {va : Nat} {x : CFail × State}
    (e : s.updateBlock c va = .error x) : Canon x.2.mems := by
  unfold State.updateBlock at e
  dsimp only at e
  split at e
  · cases e
    exact safe_openBlock h ‹_›
  · have hopen := canon_openBlock h ‹_›
    split at e
    · rename_i htaped
      cases e
      exact safe_taped (canon_correct hopen _ _ _ _) htaped
    · cases e

theorem canon_updateBlock {s : State} (h : Canon s.mems) {c : RuleCmd} {va : Nat} {r : State × (Nat × Nat × Nat × Nat)}
    (e : s.updateBlock c va = .ok r) : Canon r.1.mems := by
  unfold State.updateBlock at e
  dsimp only at e
  split at e
  · cases e
  · have hopen := canon_openBlock h ‹_›
    split at e
    · cases e
    · rename_i htaped
      have hrec := canon_taped (canon_correct hopen _ _ _ _) htaped
      generalize headerAfter _ _ _ _ _ _ _ = hd at e
      cases e
      split
      · refine canon_ite (canon_rehash ?_ _ _ _ _) ?_ <;>
          exact canon_gwrite (canon_writePlane (canon_writePlane (canon_writePlane (canon_writePlane hrec)))) _ _
      · exact canon_gwrite (canon_writePlane (canon_writePlane (canon_writePlane (canon_writePlane hrec)))) _ _

theorem canon_tapeList {s : State} (h : Canon s.mems) {g : Agent} {c : RuleCmd} {a : Nat} {bs : List Nat} {r : List Nat × State}
    (e : s.tapeList g c a bs = .ok r) : Canon r.2.mems := by
  induction bs generalizing s r with
  | nil => cases e; exact h
  | cons b bs ih =>
    unfold State.tapeList at e
    grind [→ canon_cmdRead]

theorem safe_tapeList {s : State} (h : Canon s.mems) {g : Agent} {c : RuleCmd} {a : Nat} {bs : List Nat} {x : CFail × State}
    (e : s.tapeList g c a bs = .error x) : Canon x.2.mems := by
  induction bs generalizing s x with
  | nil => cases e
  | cons b bs ih =>
    unfold State.tapeList at e
    grind [→ canon_cmdRead, → safe_cmdRead]

theorem canon_setTaps {s : State} (h : Canon s.mems) (c : RuleCmd) (vs : List Nat) : Canon (s.setTaps c vs).2.mems := by
  induction vs generalizing s with
  | nil => exact h
  | cons va vs ih =>
    unfold State.setTaps
    split
    · exact ih (safe_openHead h ‹_›)
    · exact ih (canon_gwrite (canon_openHead h ‹_›) _ _)

theorem canon_anyTap {s : State} (h : Canon s.mems) (c : RuleCmd) (vs : List Nat) : Canon (s.anyTap c vs).2.mems := by
  induction vs generalizing s with
  | nil => exact h
  | cons va vs ih =>
    unfold State.anyTap
    split
    · have hopen := canon_openHead h ‹_›
      split
      · exact hopen
      · exact ih hopen
    · exact ih (canon_headTried _ _ h)

theorem canon_makeTape {s : State} (h : Canon s.mems) (c : RuleCmd) : Canon (s.makeTape c).2.mems := by
  unfold State.makeTape
  dsimp only
  split
  · rw [mems_preTold]
    exact h
  · split
    · exact safe_tapeList (canon_correct h _ _ _ _) ‹_›
    · have hlist := canon_tapeList (canon_correct h _ _ _ _) ‹_›
      split
      · exact hlist
      · have htap := canon_anyTap hlist c
        split
        · exact htap _
        · split
          · exact safe_cmdPut _ _ _ (htap _) ‹_›
          · exact canon_setTaps (canon_modPart (canon_cmdPut _ _ _ (htap _) ‹_›) _ _) _ _

theorem canon_readCodes {s : State} (h : Canon s.mems) {g : Agent} {c : RuleCmd} {va n : Nat} {r : List Nat × State}
    (e : s.readCodes g c va n = .ok r) : Canon r.2.mems := by
  induction n generalizing s va r with
  | zero => cases e; exact h
  | succ n ih =>
    unfold State.readCodes at e
    grind [→ canon_cmdRead]

theorem safe_readCodes {s : State} (h : Canon s.mems) {g : Agent} {c : RuleCmd} {va n : Nat} {x : CFail × State}
    (e : s.readCodes g c va n = .error x) : Canon x.2.mems := by
  induction n generalizing s va x with
  | zero => cases e
  | succ n ih =>
    unfold State.readCodes at e
    grind [→ canon_cmdRead, → safe_cmdRead]

theorem canon_readAllCodes {s : State} (h : Canon s.mems) {g : Agent} {c : RuleCmd} {rs : List (Nat × Nat)} {r : List (List Nat) × State}
    (e : s.readAllCodes g c rs = .ok r) : Canon r.2.mems := by
  induction rs generalizing s r with
  | nil => cases e; exact h
  | cons q rs ih =>
    unfold State.readAllCodes at e
    grind [→ canon_readCodes]

theorem safe_readAllCodes {s : State} (h : Canon s.mems) {g : Agent} {c : RuleCmd} {rs : List (Nat × Nat)} {x : CFail × State}
    (e : s.readAllCodes g c rs = .error x) : Canon x.2.mems := by
  induction rs generalizing s x with
  | nil => cases e
  | cons q rs ih =>
    unfold State.readAllCodes at e
    grind [→ canon_readCodes, → safe_readCodes]

theorem canon_tapeActs {s : State} (h : Canon s.mems) {c : RuleCmd} {vs : List Nat} {r : List Nat × State}
    (e : s.tapeActs c vs = .ok r) : Canon r.2.mems := by
  induction vs generalizing s r with
  | nil => cases e; exact h
  | cons va vs ih =>
    unfold State.tapeActs at e
    grind [→ canon_openHead]

theorem safe_tapeActs {s : State} (h : Canon s.mems) {c : RuleCmd} {vs : List Nat} {x : CFail × State}
    (e : s.tapeActs c vs = .error x) : Canon x.2.mems := by
  induction vs generalizing s x with
  | nil => cases e
  | cons va vs ih =>
    unfold State.tapeActs at e
    grind [→ canon_openHead, → safe_openHead]

theorem canon_sweep {s : State} (h : Canon s.mems) {c : RuleCmd} {m : Mem} {q : Rule} {a : Nat} {acts : List Nat} {k : Nat} {adj : Adjoints}
    {mg : List Nat} {r : List Nat × State} (e : s.sweep c m q a acts k adj mg = .ok r) : Canon r.2.mems := by
  induction k generalizing s adj mg r with
  | zero => cases e; exact h
  | succ k ih =>
    unfold State.sweep at e
    dsimp only at e
    split at e
    · cases e
    · exact ih (canon_readAllCodes h ‹_›) e

theorem safe_sweep {s : State} (h : Canon s.mems) {c : RuleCmd} {m : Mem} {q : Rule} {a : Nat} {acts : List Nat} {k : Nat} {adj : Adjoints}
    {mg : List Nat} {x : CFail × State} (e : s.sweep c m q a acts k adj mg = .error x) : Canon x.2.mems := by
  induction k generalizing s adj mg x with
  | zero => cases e
  | succ k ih =>
    unfold State.sweep at e
    dsimp only at e
    split at e
    · cases e
      exact safe_readAllCodes h ‹_›
    · exact ih (canon_readAllCodes h ‹_›) e

theorem canon_reverse {s : State} (h : Canon s.mems) (c : RuleCmd) : Canon (s.reverse c).2.2.mems := by
  unfold State.reverse
  extract_lets a g pre fail
  split
  · rw [mems_preTold]; exact h
  · split
    · exact safe_cmdRead _ _ _ _ h ‹_›
    · have hhead := canon_cmdRead _ _ _ _ h ‹_›
      extract_lets nb n u z bank m q
      have hu : Canon u.mems := hhead
      split
      · exact hhead
      · split
        · exact hhead
        · split
          · exact hhead
          · split
            · exact hhead
            · split
              · rw [mems_taintCmd]; exact hhead
              · split
                · exact safe_tapeList (canon_correct hu _ _ _ _) ‹_›
                · have hlist := canon_tapeList (canon_correct hu _ _ _ _) ‹_›
                  split
                  · exact safe_tapeActs hlist ‹_›
                  · have hacts := canon_tapeActs hlist ‹_›
                    extract_lets reads
                    split
                    · exact safe_readAllCodes hacts ‹_›
                    · have hall := canon_readAllCodes hacts ‹_›
                      split
                      · exact safe_readCodes hall ‹_›
                      · have hcodes := canon_readCodes hall ‹_›
                        split
                        · exact safe_sweep hcodes ‹_›
                        · have hsweep := canon_sweep hcodes ‹_›
                          split
                          · exact safe_cmdPut _ _ _ hsweep ‹_›
                          · exact canon_cmdPut _ _ _ hsweep ‹_›

theorem safe_ruleFormEff (op : Nat) : SafeEff (ruleFormEff op) := by
  intro o v s h
  obtain ⟨push, hrule⟩ : ∃ push, push = State.pushRule := ⟨_, rfl⟩
  have hstop := @safe_pushRule
  have hok := @mems_pushRule
  unfold ruleFormEff
  rw [← hrule] at hstop hok ⊢
  clear hrule
  cases hread : s.recordWhen (effAddr o v) (s.ruleRoom s.cur op) with
  | error st => exact safe_recordWhen h hread
  | ok r =>
    have hrec := canon_recordWhen h hread
    dsimp only
    cases hpush : push r.2 r.2.cur r.2.ctx [wput (r.1.getD 0 0) 56 8 op, r.1.getD 1 0 + v.x.s, r.1.getD 2 0, r.1.getD 3 0] false with
    | error st => exact hstop _ _ _ _ hpush
    | ok t => exact safe_plain (by rw [hok _ _ _ _ _ hpush]; exact hrec)

theorem canon_storeNear {s : State} (ea n v : Nat) (h : Canon s.mems) {t : State} (e : s.storeNear ea n v = .ok t) : Canon t.mems := by
  unfold State.storeNear at e
  grind [→ canon_store, → safe_store, State.mems]

theorem safe_storeNear {s : State} (ea n v : Nat) (h : Canon s.mems) {st : Stop} (e : s.storeNear ea n v = .error st) : st.safe := by
  unfold State.storeNear at e
  grind [→ canon_store, → safe_store, State.mems, Stop.safe, addrFault, logTrap, safe_gstop]

theorem canon_setDig {s : State} (h : Canon s.mems) (va pa v : Nat) (on : Bool) : Canon (s.setDig va pa v on).mems := canon_gwrite h _ _

theorem canon_headOf {s : State} (c : RuleCmd) (va : Nat) (h : Canon s.mems) {x} (e : s.headOf c va = .ok x) : Canon x.2.mems := by
  unfold State.headOf at e
  grind [canon_cmdFailBy, → canon_translate, State.mems]

theorem safe_headOf {s : State} (c : RuleCmd) (va : Nat) (h : Canon s.mems) {x} (e : s.headOf c va = .error x) : Canon x.2.mems := by
  unfold State.headOf at e
  grind [canon_cmdFailBy, → canon_translate, State.mems]

theorem canon_register {s : State} (h : Canon s.mems) {c : RuleCmd} {key : BitVec 128 × BitVec 128} {va : Nat} {r : Bool × State}
    (e : s.register c key va = .ok r) : Canon r.2.mems := by
  unfold State.register at e
  grind [→ canon_headOf, → canon_openPlanes, canon_setDig, mems_modSlice]

theorem safe_register {s : State} (h : Canon s.mems) {c : RuleCmd} {key : BitVec 128 × BitVec 128} {va : Nat} {x : CFail × State}
    (e : s.register c key va = .error x) : Canon x.2.mems := by
  unfold State.register at e
  grind [→ canon_headOf, → safe_headOf, → safe_openPlanes]

theorem canon_deregister {s : State} (h : Canon s.mems) {c : RuleCmd} {va : Nat} {r : Bool × State}
    (e : s.deregister c va = .ok r) : Canon r.2.mems := by
  unfold State.deregister at e
  grind [→ canon_headOf, canon_setDig, mems_modSlice, mems_correct]

theorem safe_deregister {s : State} (h : Canon s.mems) {c : RuleCmd} {va : Nat} {x : CFail × State}
    (e : s.deregister c va = .error x) : Canon x.2.mems := by
  unfold State.deregister at e
  grind [→ canon_headOf, → safe_headOf, mems_refuseAt, mems_taintCmd]

theorem canon_regBlocks {s : State} (h : Canon s.mems) (c : RuleCmd) (key : BitVec 128 × BitVec 128) (ns : List Nat) :
    Canon (s.regBlocks c key ns).2.2.mems := by
  induction ns generalizing s with
  | nil => exact h
  | cons n ns ih =>
    unfold State.regBlocks
    grind [→ canon_register, → canon_deregister, → safe_register, → safe_deregister]

theorem canon_enterReserved {s : State} (d : RuleCmd) (e : MailEntry) (h : Canon s.mems) : Canon (s.enterReserved d e).mems := by
  unfold State.enterReserved
  grind [canon_modCore, mems_modCore, mems_poisonCore, canon_putPieces, State.mems]

theorem canon_endCompare {s : State} (h : Canon s.mems) (c : RuleCmd) (st map : Nat) (d : BitVec 128) : Canon (s.endCompare c st map d).mems := by
  have hgate : ∀ u : State, Canon u.mems → Canon ((((u.endColl c).dropCmd c.id).enterReserved c (c.cmpDone st map d)).settleGate c.part
      (some (decide (2 ≤ st)))).mems := fun u hu => by
    rw [mems_settleGate]
    exact canon_enterReserved _ _ (by rw [mems_dropCmd, mems_endColl]; exact hu)
  have htold : Canon (if st = 7 then s.collTold c else s).mems := canon_ite (by rw [mems_collTold]; exact h) h
  exact canon_ite (by rw [mems_postSup, mems_divergeIn]; exact hgate _ htold) (hgate _ htold)

theorem canon_readElems {s : State} (h : Canon s.mems) {c : RuleCmd} {i n : Nat} {r : List Nat × State}
    (e : s.readElems c i n = .ok r) : Canon r.2.mems := by
  induction n generalizing s i r with
  | zero => cases e; exact h
  | succ n ih =>
    unfold State.readElems at e
    grind [→ canon_cmdRead]

theorem safe_readElems {s : State} (h : Canon s.mems) {c : RuleCmd} {i n : Nat} {x : CFail × State}
    (e : s.readElems c i n = .error x) : Canon x.2.mems := by
  induction n generalizing s i x with
  | zero => cases e
  | succ n ih =>
    unfold State.readElems at e
    grind [→ canon_cmdRead, → safe_cmdRead]

theorem canon_collective {s : State} (h : Canon s.mems) (k kind : Nat) (new : RuleCmd → List Nat → List Peer → Nat → Option Nat) :
    Canon (s.collective k kind new).mems := by
  unfold State.collective
  split
  · exact h
  · split
    · exact h
    · extract_lets fail
      have hfail : ∀ f : CStop, Canon f.2.mems → Canon (fail f).mems := fun f hf => by
        unfold fail; rw [mems_modCmd]; exact hf
      split
      · exact hfail _ (safe_readElems h ‹_›)
      · have hread := canon_readElems h ‹_›
        split
        · exact h
        · extract_lets ws
          split
          · exact hfail _ (safe_cmdPut _ _ _ hread ‹_›)
          · rw [mems_modCmd]
            exact canon_cmdPut _ _ _ hread ‹_›

theorem canon_ckptFault {s : State} (g : Agent) (e : GFail) (acc : Nat) (h : Canon s.mems) : Canon (s.ckptFault g e acc).mems := by
  unfold State.ckptFault
  grind [canon_agentFault, State.mems]

theorem canon_ckptPut {s : State} (h : Canon s.mems) (g : Agent) (ws : List (Nat × Nat × Nat)) : Canon (s.ckptPut g ws).2.mems := by
  induction ws generalizing s with
  | nil => exact h
  | cons w ws ih =>
    unfold State.ckptPut
    split
    · exact canon_ckptFault _ _ _ h
    · exact ih (canon_gstore _ _ _ _ h ‹_›)

theorem canon_blockNow {s : State} (h : Canon s.mems) (q va : Nat) (cid : BitVec 12) (sl : Nat) : Canon (s.blockNow q va cid sl).2.mems := by
  unfold State.blockNow
  extract_lets g
  split
  · exact canon_ckptFault _ _ _ h
  · have htrans := canon_translate _ _ _ _ h ‹_›
    split
    · exact canon_ckptFault _ _ _ htrans
    · split
      · exact htrans
      · change Canon (State.heal _ _ _ _).mems
        rw [mems_heal]
        exact htrans

theorem canon_blocksNow {s : State} (h : Canon s.mems) (q : Nat) (l : List (Nat × (Nat × BitVec 12 × Nat))) : Canon (s.blocksNow q l).2.mems := by
  induction l generalizing s with
  | nil => exact h
  | cons b l ih => exact ih (canon_blockNow h _ _ _ _)

theorem canon_takeCkpt {s : State} (h : Canon s.mems) (q : Nat) : Canon (s.takeCkpt q).mems := by
  unfold State.takeCkpt
  extract_lets c bs clean mine r got u todo st vers g cleared st'
  have hu : Canon u.mems := canon_blocksNow h _ _
  rw [mems_modCkpt]
  unfold cleared
  split
  · exact canon_ckptFault _ _ _ hu
  · exact canon_ckptPut (canon_gload _ _ _ hu ‹_›) _ _

theorem canon_ckptRelease {s : State} (q : Nat) (h : Canon s.mems) : Canon (s.ckptRelease q).mems := by
  unfold State.ckptRelease
  grind [mems_modCkpt, canon_takeCkpt, State.mems]

theorem canon_release {s : State} (ch : Nat) (h : Canon s.mems) : Canon (s.release ch).mems := by
  unfold State.release
  grind [canon_foldl, memWf_foldl, mems_foldl, mem_newInterval, mems_agePairs, canon_ckptRelease, mems_exchange, mems_modChan, canon_modCore,
    mems_modCore, State.mems]

theorem canon_repParcels {s : State} (len : Nat) (h : Canon s.mems) {x} (e : s.repParcels len = .ok x) : Canon x.2.mems := by
  unfold State.repParcels at e
  grind [→ canon_fetch, → safe_fetch, State.mems]

theorem safe_repParcels {s : State} (len : Nat) (h : Canon s.mems) {st : Stop} (e : s.repParcels len = .error st) : st.safe := by
  unfold State.repParcels at e
  grind [→ canon_fetch, → safe_fetch, State.mems, Stop.safe, addrFault, logTrap, safe_gstop]

theorem canon_drainPut {s : State} (h : Canon s.mems) {cl p : Nat} {g : Agent} {ws : List (Nat × Nat × Nat)} {t : State}
    (e : s.drainPut cl p g ws = .ok t) : Canon t.mems := by
  induction ws generalizing s with
  | nil => cases e; exact h
  | cons w ws ih =>
    unfold State.drainPut at e
    split at e
    · dsimp only at e
      rw [ite_eq_iff] at e
      obtain ⟨-, e⟩ | ⟨-, e⟩ := e
      · cases e
      · refine ih ?_ e
        rw [mems_clearErr]
        refine canon_cluWrite ?_ _ _ _ _
        rw [mems_partFix]
        exact h
    · split at e
      · cases e
      · exact ih (canon_gstore _ _ _ _ h ‹_›) e

theorem canon_drain {s : State} (h : Canon s.mems) {cl p : Nat} {f : VWord} {m : MatCmd} {r : Bool × Bool × State}
    (e : s.drain cl p f m = .ok r) : Canon r.2.2.mems := by
  unfold State.drain at e
  dsimp only at e
  split at e
  · cases e
  · split at e
    · cases e
    · cases e
      have hcorrect := canon_correct h p (.acc cl) (m.tile * 8192) (m.rows * 256)
      have hdrop := canon_ite (c := (s.correct p (.acc cl) (m.tile * 8192) (m.rows * 256)).pairDrops p m.pair m.drop) hcorrect
        (canon_drainPut hcorrect ‹_›)
      exact canon_ite (by rw [mems_modCluster rfl]; exact hdrop) hdrop

theorem canon_imagePieces {s : State} (h : Canon s.mems) {p : Nat} {g : Agent} {k a n : Nat} {r : Mem × State}
    (e : s.imagePieces p g k a n = .ok r) : Canon r.2.mems := by
  induction k generalizing s a n r with
  | zero => cases e; exact h
  | succ k ih =>
    unfold State.imagePieces at e
    grind [→ canon_gcheck, mems_correctAll]

theorem canon_readImage {s : State} (h : Canon s.mems) {cl p : Nat} {m : MatCmd} {r : Mem × State}
    (e : s.readImage cl p m = .ok r) : Canon r.2.mems := by
  unfold State.readImage at e
  extract_lets n a got at e
  have hgot : ∀ x, got = .ok x → Canon x.2.mems := by
    intro x hx
    unfold got at hx
    split at hx
    · split at hx
      · cases hx
      · cases hx
        exact canon_correct h _ _ _ _
    · exact canon_imagePieces h hx
  generalize got = r' at e hgot
  split at e
  · cases e
  · split at e
    · cases e
    · cases e
      exact hgot _ rfl

theorem canon_matFault {s : State} (p : Nat) (m : MatCmd) (e : MatFail) (met : Bool) (h : Canon s.mems) : Canon (s.matFault p m e met).mems := by
  unfold State.matFault
  grind [mem_parkReserved, canon_countRefusal, mems_leaveGang, canon_modCore, mems_modCore, mems_taint, mems_trapMsg, State.mems]

theorem safe_matFormEff (kind : Nat) : SafeEff (matFormEff kind) := by
  intro o v s h
  unfold matFormEff
  obtain ⟨push, hpush⟩ : ∃ push, push = State.pushMat := ⟨_, rfl⟩
  have hstop := @safe_pushMat
  have hok := @mems_pushMat
  rw [← hpush] at hstop hok ⊢
  clear hpush
  cases hread : s.recordWhen (effAddr o v) s.me.matRoom with
  | error st => exact safe_recordWhen h hread
  | ok r =>
    have hrec := canon_recordWhen h hread
    dsimp only
    cases hpush : push r.2 r.2.cur (r.2.cx.pc.setWidth 57) [wput (r.1.getD 0 0) 61 3 kind, r.1.getD 1 0 + v.x.s, r.1.getD 2 0, r.1.getD 3 0]
        none false with
    | error st => exact hstop _ _ _ _ _ hpush
    | ok t => exact safe_plain (by rw [hok _ _ _ _ _ _ hpush]; exact hrec)

theorem canon_copyFault {s : State} (cl : Nat) (z : CopySlot) (status : Nat) (fault : CFail) (h : Canon s.mems) : Canon
    (s.copyFault cl z status fault).mems := by
  unfold State.copyFault
  grind [canon_countRefusal, mems_taint, mems_trapMsg, State.mems]

theorem canon_endCopy {s : State} (cl i status : Nat) (fault : CFail) (h : Canon s.mems) : Canon (s.endCopy cl i status fault).mems := by
  unfold State.endCopy
  grind [mem_failBB, canon_copyFault, canon_modCore, mems_modCore, mems_modSlot, State.mems]

theorem canon_settleCopy {s : State} (cl i : Nat) (h : Canon s.mems) : Canon (s.settleCopy cl i).mems := by
  unfold State.settleCopy
  grind [canon_endCopy, mems_freeSlot, State.mems]

theorem canon_engineRead {s : State} (cl p : Nat) (cid : BitVec 12) (a n : Nat) (h : Canon s.mems) {x} (e : s.engineRead cl p cid a n = .ok x) :
    Canon x.2.mems := by
  unfold State.engineRead at e
  grind [canon_foldl, memWf_foldl, mems_foldl, mems_correct, → canon_gcheck, State.mems]

theorem safe_engineRead {s : State} (cl p : Nat) (cid : BitVec 12) (a n : Nat) (h : Canon s.mems) {x} (e : s.engineRead cl p cid a n = .error x) :
    Canon x.2.mems := by
  unfold State.engineRead at e
  grind [canon_foldl, memWf_foldl, mems_foldl, mems_correct, → canon_gcheck, State.mems]

theorem canon_engineWrite {s : State} (cl p : Nat) (cid : BitVec 12) (a : Nat) (b : List Byte) (h : Canon s.mems) {t : State}
    (e : s.engineWrite cl p cid a b = .ok t) : Canon t.mems := by
  unfold State.engineWrite at e
  grind [memWf_writeLocal, mems_clearErr, canon_cluWrite, → canon_gstore, canon_modCore, mems_modCore, mems_partFix, State.mems]

theorem canon_landUnit {s : State} (h : Canon s.mems) (cl slot unit : Nat) : Canon (s.landUnit cl slot unit).mems := by
  unfold State.landUnit
  split
  · exact h
  · split
    · exact h
    · extract_lets p put
      have hput : ∀ t, put = .ok t → Canon t.mems := fun t ht => by
        unfold put at ht
        split at ht
        · cases ht; exact h
        · exact canon_engineWrite _ _ _ _ _ h ht
      generalize put = r at hput ⊢
      split
      · have hslot : ∀ f, Canon (s.modSlot cl slot f).mems := fun f => by rw [mems_modSlot]; exact h
        exact canon_ite (canon_copyFault _ _ _ _ (hslot _)) (canon_endCopy _ _ _ _ (hslot _))
      · have hbytes : ∀ f, Canon (State.modSlot _ cl slot f).mems := fun f => by rw [mems_modSlot]; exact hput _ rfl
        exact canon_modCore (hbytes _) (fun hc => by rw [mem_credit]; exact hc)

theorem canon_readPieces {s : State} (h : Canon s.mems) {cl p : Nat} {cid : BitVec 12} {ps : List (Nat × Nat)} {r : List Byte × State}
    (e : s.readPieces cl p cid ps = .ok r) : Canon r.2.mems := by
  induction ps generalizing s r with
  | nil => cases e; exact h
  | cons q ps ih =>
    unfold State.readPieces at e
    grind [→ canon_engineRead]

theorem safe_readPieces {s : State} (h : Canon s.mems) {cl p : Nat} {cid : BitVec 12} {ps : List (Nat × Nat)} {x : EngineStop}
    (e : s.readPieces cl p cid ps = .error x) : Canon x.2.mems := by
  induction ps generalizing s x with
  | nil => cases e
  | cons q ps ih =>
    unfold State.readPieces at e
    grind [→ canon_engineRead, → safe_engineRead]

theorem canon_landPacket {s : State} (cl i n : Nat) (h : Canon s.mems) : Canon (s.landPacket cl i n).mems := by
  unfold State.landPacket
  grind [mem_credit, canon_modCore, mems_modCore, mems_modSlot, canon_settleCopy, State.mems]

theorem canon_answerReq {s : State} (h : Canon s.mems) (r : GReq) : Canon (s.answerReq r).mems := by
  unfold State.answerReq
  split
  · exact canon_ite (canon_serve h ‹_›) (canon_serve h ‹_›)
  · have hserve := canon_unserved h ‹_›
    exact canon_ite (canon_ite (by rw [mems_poisonCore]; exact hserve) hserve) hserve

/-- Every effect that a reissue or a replay may run again is safe. -/
def SafeCode : Prop := ∀ i eff, effOf i = some eff → SafeEff eff

theorem canon_reissue {s : State} (h : Canon s.mems) (hcode : SafeCode) : Canon s.reissue.mems := by
  have htrap : ∀ c : Cause, Canon (s.trapHere c).mems := fun c => by rw [mems_trapHere]; exact h
  unfold State.reissue
  dsimp only
  split
  · split
    · split
      · exact canon_issueWith h _ _ _ (hcode _ _ ‹_›) _ _
      · exact h
    · exact htrap _
  · exact htrap _

theorem canon_replayStop {s : State} (h : Canon s.mems) (k : Nat) {st : Stop} (hst : st.safe) : Canon (s.replayStop k st).mems := by
  unfold State.replayStop
  split
  · rw [mems_modCx]; exact h
  · rw [mems_modCx]; exact hst _ h
  · rw [mems_modMe (mem_refault _ _ _ _)]; exact canon_pageMsg _ _ _ _ _ h
  · rw [mems_modMe (mem_refault _ _ _ _)]; exact h
  · rw [mems_trapHere, mems_modMe (mem_dropFault _ _)]; exact h
  · rw [mems_poisonCore]; exact hst
  · exact h

theorem canon_replayAccess {s : State} (h : Canon s.mems) (hcode : SafeCode) (k : Nat) (r : RingEntry) (i : Instr) :
    Canon (s.replayAccess k r i).mems := by
  unfold State.replayAccess
  split
  · rename_i heff _
    split
    · exact h
    · extract_lets sh o o' mine s0
      have hs0 : Canon s0.mems := canon_modMe h id
      split
      · exact canon_replayStop h _ (safe_readAll ‹_›)
      · rename_i hread
        have hs1 := mems_readAll _ _ _ _ _ hread ▸ hs0
        split
        · exact canon_replayStop h _ ((hcode _ _ heff).stop hs1 ‹_›)
        · rename_i hdone
          obtain ⟨hst, hafter⟩ := (hcode _ _ heff).done hs1 hdone
          split
          · exact canon_replayStop h _ (safe_pushDone ‹_›)
          · rename_i t hpush
            extract_lets t1 t2
            have ht2 : Canon t2.mems := by
              unfold t2 t1
              rw [mems_modCx]
              exact canon_modMe (mems_pushDone _ _ hpush ▸ hst) id
            split
            · exact canon_modMe ht2 (fun hc => by rw [mem_delivered]; exact hc)
            · exact ht2
  · rw [mems_modMe (mem_dropFault _ _)]; exact h

theorem canon_replayNow {s : State} (h : Canon s.mems) (hcode : SafeCode) (k : Nat) : Canon (s.replayNow k).mems := by
  unfold State.replayNow
  split
  · rw [mems_modMe rfl]; exact h
  · split
    · exact canon_replayStop h _ (safe_fetch _ h ‹_›)
    · have hfetch := canon_fetch _ h ‹_›
      split
      · exact canon_replayAccess hfetch hcode _ _ _
      · rw [mems_trapHere, mems_modMe (mem_dropFault _ _)]
        exact hfetch

theorem canon_msbStep {s : State} (h : Canon s.mems) (p : Nat) : Canon (s.msbStep p).mems := by
  unfold State.msbStep
  split
  · exact canon_msbRun _ h ‹_›
  · rw [mems_poisonCore]
    exact safe_msbRun _ h ‹_›
  · exact h

theorem canon_performPair {s : State} (h : Canon s.mems) (a : PairAct) : Canon (s.performPair a).2.2.mems := by
  cases a with
  | mem r =>
    unfold State.performPair
    dsimp only
    split
    · exact canon_unserved h ‹_›
    · exact canon_serve h ‹_›
  | msg m => exact h
  | mark => exact h
  | launch q l => exact canon_submit _ _ h

theorem canon_pairMatch {s : State} (h : Canon s.mems) (a b : Paired) : Canon (s.pairMatch a b).mems := by
  unfold State.pairMatch
  dsimp only
  rw [mems_reply, mems_modCore rfl, mems_reply, mems_modCore rfl, mems_releaseCopy]
  exact canon_performPair h _

theorem memWf_repeatPair {c : Core} (h : memWf c.mem = true) (m : BitVec 8) : memWf (c.repeatPair m).mem = true := by
  unfold Core.repeatPair
  dsimp only
  split
  · exact memWf_rollback h
  · exact memWf_coreFoldl (fun _ _ hc => by rw [mem_oweAgain]; exact hc) (memWf_rollback h)

theorem canon_rollBack {s : State} (h : Canon s.mems) (ps : List Nat) : Canon (s.rollBack ps).mems := by
  unfold State.rollBack
  refine canon_foldl (fun u p hu => ?_) ?_
  · dsimp only
    refine canon_modCore ?_ (fun hc => memWf_repeatPair hc _)
    refine canon_foldl (fun _ _ hv => by rw [mems_clearErr]; exact hv) ?_
    rw [mems_undoArrivals]
    exact hu
  · refine canon_foldl (fun _ _ hv => by rw [mems_leaveGang]; exact hv) ?_
    refine canon_foldl (fun _ _ hv => by rw [mems_settlePairs]; exact hv) ?_
    rw [mems_dropPaired]
    exact h

theorem canon_pairFail {s : State} (ws : List Paired) (h : Canon s.mems) : Canon (s.pairFail ws).mems := by
  unfold State.pairFail
  grind [canon_foldl, memWf_foldl, mems_foldl, mems_discardOp, mems_draw, mems_pairEvent, mems_pairTaint, mems_releaseCopy, mems_reply,
    canon_rollBack, State.mems]

theorem canon_numberCluster {s : State} (h : Canon s.mems) (q cl : Nat) : Canon (s.numberCluster q cl).mems :=
  canon_foldl (fun _ _ hu => canon_remap hu _ _ _) h

theorem canon_flrEnd {s : State} (q : Nat) (h : Canon s.mems) : Canon (s.flrEnd q).mems := by
  unfold State.flrEnd
  grind [canon_foldl, memWf_foldl, mems_foldl, canon_modCore, mems_modCore, mems_modPart, canon_scrubCluster, State.mems]

theorem canon_setJournal {s : State} (h : Canon s.mems) (sl : Nat) (j : Option (Nat × Nat)) : Canon (s.setJournal sl j).mems :=
  canon_phys h (memWf_bwrite _ _ _ h.2.2)

/-- What holds of every value of a map holds after each was changed by something that keeps it. -/
theorem mget_map_of {α : Type} {P : α → Prop} {d : α} {m : Map α} {f : Nat → α → α} {i : Nat} (hd : P d) (hf : ∀ v, P v → P (f i v))
    (h : P (mget d m i)) : P (mget d (m.map (fun kv => (kv.1, f kv.1 kv.2))) i) := by
  unfold mget at h ⊢
  rw [mfind_map]
  cases hfind : mfind m i with
  | none => exact hd
  | some v =>
    rw [hfind] at h
    exact hf v h

theorem canon_rebooted {s : State} (h : Canon s.mems) : Canon s.rebooted.mems := by
  refine ⟨fun _ => rfl, fun cl => ?_, memWf_filter _ h.2.2⟩
  exact mget_map_of (P := fun k : Cluster => memWf k.mem = true) (f := fun _ k => { Cluster.fresh with cmask := k.cmask })
    rfl (fun _ _ => rfl) (h.2.1 cl)

theorem canon_coldBoot {s : State} (h : Canon s.mems) : Canon s.coldBoot.mems :=
  canon_foldl (fun _ _ hu => canon_setJournal hu _ _) (canon_phys (canon_rebooted h) h.2.2)

theorem canon_zeroPhys {s : State} (h : Canon s.mems) (f : Nat → Bool) : Canon (s.zeroPhys f).mems :=
  canon_phys h (memWf_filter _ h.2.2)

theorem canon_cyclesOn {s : State} (h : Canon s.mems) (die n : Nat) : Canon (s.cyclesOn die n).mems := by
  have hdie : Canon (s.modDie die (fun d => d.cycles n)).mems := by rw [mems_modDie]; exact h
  refine ⟨fun p => ?_, hdie.2⟩
  exact mget_map_of (P := fun c : Core => memWf c.mem = true) (f := fun p c => if dieOf p = die then c.cycles n else c)
    rfl (fun c hc => by split <;> exact hc) (h.1 p)

theorem canon_elapse {s : State} (h : Canon s.mems) (c0 c1 ticks : Nat) : Canon (s.elapse c0 c1 ticks).mems := by
  unfold State.elapse
  dsimp only
  refine canon_cyclesOn (canon_cyclesOn ?_ _ _) _ _
  refine ⟨h.1, fun cl => ?_, h.2.2⟩
  exact mget_map_of (P := fun k : Cluster => memWf k.mem = true)
    (f := fun cl k => { k with idle := if s.clusterIdle cl then k.idle + ticks else 0 }) rfl (fun _ hk => hk) (h.2.1 cl)

theorem canon_fetchStop {s : State} (h : Canon s.mems) {st : Stop} (hst : st.safe) : Canon (s.fetchStop st).mems := by
  unfold State.fetchStop
  split
  · rw [mems_trapHere]
    exact h
  · refine canon_ite h ?_
    rw [mems_trapHere]
    exact canon_pageMsg _ _ _ _ _ h
  · rw [mems_poisonCore]
    exact hst
  · exact hst _ h
  · exact h

theorem canon_handedOn {s : State} (h : Canon s.mems) {pc : Word} {ps : List Parcel} {r : List Parcel × State}
    (e : s.handedOn pc ps = .ok r) : Canon r.2.mems := by
  unfold State.handedOn at e
  grind [→ canon_fetch]

theorem safe_handedOn {s : State} (h : Canon s.mems) {pc : Word} {ps : List Parcel} {st : Stop}
    (e : s.handedOn pc ps = .error st) : st.safe := by
  unfold State.handedOn at e
  grind [→ safe_fetch]

theorem canon_leaderFetch {s : State} (h : Canon s.mems) {pc : Word} {t : State} (e : s.leaderFetch pc = .ok t) : Canon t.mems := by
  unfold State.leaderFetch at e
  split at e
  · cases e
  · have hfetch := canon_fetch _ h ‹_›
    split at e
    · cases e
    · cases e
      rw [mems_foldl (fun u q => mems_modCore rfl)]
      exact canon_handedOn hfetch ‹_›

theorem safe_leaderFetch {s : State} (h : Canon s.mems) {pc : Word} {st : Stop} (e : s.leaderFetch pc = .error st) : st.safe := by
  unfold State.leaderFetch at e
  split at e
  · cases e; exact safe_fetch _ h ‹_›
  · have hfetch := canon_fetch _ h ‹_›
    split at e
    · cases e; exact safe_handedOn hfetch ‹_›
    · cases e

theorem canon_fetchAhead {s : State} (h : Canon s.mems) : Canon s.fetchAhead.mems := by
  unfold State.fetchAhead
  split
  · exact h
  · split
    · exact h
    · split
      · exact canon_leaderFetch h ‹_›
      · exact h

end Sys2Proof.Machine
end

section
/-! SUPPORT. The effects of the instructions keep every memory canonical (O4). -/

namespace Sys2Proof.Machine

theorem canon_modCx {s : State} (h : Canon s.mems) (f : Context → Context) : Canon (s.modCx f).mems := by rw [mems_modCx]; exact h

theorem safe_ok {s : State} (h : Canon s.mems) (r : Option Res) (j : Option Word) : SafeDone (.ok { st := s, res := r, jump := j }) :=
  ⟨h, fun _ hu => hu⟩

theorem safe_ite {c : Prop} [Decidable c] {a b : Except Stop Done} (ha : SafeDone a) (hb : SafeDone b) : SafeDone (if c then a else b) := by
  split
  · exact ha
  · exact hb

/-- A trap stops an effect without a change of any memory. -/
theorem safe_trap (c : Cause) : SafeDone (.error (.trap c)) := trivial

theorem mems_meetPops {m : BitVec 8} {ps : List Nat} {s t : State} (e : s.meetPops m ps = some t) : t.mems = s.mems := by
  induction ps generalizing s with
  | nil =>
    cases e
    rfl
  | cons p ps ih =>
    unfold State.meetPops at e
    split at e
    · exact ih e
    · split at e
      · cases e
      · rename_i hread
        split at e
        · exact (ih e).trans (mems_readName _ _ _ _ _ hread)
        · cases e

theorem safe_scalarEff (f : Word → Word → Word) : SafeEff (scalarEff f) := by
  intro o v s h
  unfold scalarEff
  grind [SafeDone, Stop.safe, safe_result, safe_plain, safe_result]

theorem safe_immEff (f : Word → Word → Word) : SafeEff (immEff f) := by
  intro o v s h
  unfold immEff
  grind [SafeDone, Stop.safe, safe_result, safe_plain, safe_result]

theorem safe_unaryEff (f : Word → Word) : SafeEff (unaryEff f) := by
  intro o v s h
  unfold unaryEff
  grind [SafeDone, Stop.safe, safe_result, safe_plain, safe_result]

theorem safe_effSel : SafeEff effSel := by
  intro o v s h
  unfold effSel
  grind [SafeDone, Stop.safe, safe_result, safe_plain, safe_result]

theorem safe_effBfx : SafeEff effBfx := by
  intro o v s h
  unfold effBfx
  grind [SafeDone, Stop.safe, safe_result, safe_plain, safe_result]

theorem safe_effBfi : SafeEff effBfi := by
  intro o v s h
  unfold effBfi
  grind [SafeDone, Stop.safe, safe_result, safe_plain, safe_result]

theorem safe_effLpc : SafeEff effLpc := by
  intro o v s h
  unfold effLpc
  grind [SafeDone, Stop.safe, safe_result, safe_plain, safe_result]

theorem safe_effPwld : SafeEff effPwld := by
  intro o v s h
  unfold effPwld
  refine safe_ite (safe_trap _) ?_
  dsimp only
  split
  · exact safe_trap _
  · split
    · exact safe_trap _
    · split
      · exact safe_windowBytes h ‹_›
      · have hread := canon_windowBytes h ‹_›
        refine safe_result (canon_ite ?_ ?_) _
        · rw [mems_sticky]
          exact canon_ite (canon_modMe hread (fun hc => hc)) hread
        · exact canon_ite (canon_modMe hread (fun hc => hc)) hread

theorem safe_effVld : SafeEff effVld := by
  intro o v s h
  unfold effVld
  grind [SafeDone, Stop.safe, safe_result, safe_plain, safe_result, → canon_load, → safe_load]

theorem safe_effVst : SafeEff effVst := by
  intro o v s h
  unfold effVst
  grind [SafeDone, Stop.safe, safe_result, safe_plain, safe_plain, → canon_store, → safe_store]

theorem safe_effVlds : SafeEff effVlds := by
  intro o v s h
  unfold effVlds
  grind [SafeDone, Stop.safe, safe_result, safe_plain, safe_result, → canon_load, → safe_load]

theorem safe_effVsts : SafeEff effVsts := by
  intro o v s h
  unfold effVsts
  grind [SafeDone, Stop.safe, safe_result, safe_plain, safe_plain, → canon_checkAll, → safe_checkAll, → canon_putLanes, → safe_putLanes]

theorem safe_effVgth : SafeEff effVgth := by
  intro o v s h
  unfold effVgth
  dsimp only
  split
  · exact safe_checkAll ‹_›
  · have hall := canon_checkAll h ‹_›
    refine safe_ite hall (safe_result ?_ _)
    exact canon_foldl (fun _ _ hu => by rw [mems_serveBanks, mems_placeFix]; exact hu) hall

theorem safe_effVsct : SafeEff effVsct := by
  intro o v s h
  unfold effVsct
  grind [SafeDone, Stop.safe, safe_result, safe_plain, safe_plain, → canon_checkAll, → safe_checkAll, mems_furtherVec, → canon_putLanes,
    → safe_putLanes]

theorem safe_effFence : SafeEff effFence := by
  intro o v s h
  unfold effFence
  grind [SafeDone, Stop.safe, safe_result, safe_plain, safe_plain]

theorem safe_effCpq : SafeEff effCpq := by
  intro o v s h
  unfold effCpq
  grind [SafeDone, Stop.safe, safe_result, safe_plain, safe_plain, → canon_tryCopy, → safe_tryCopy]

theorem safe_effCpqt : SafeEff effCpqt := by
  intro o v s h
  unfold effCpqt
  grind [SafeDone, Stop.safe, safe_result, safe_plain, safe_result, → canon_tryCopy, → safe_tryCopy]

theorem safe_effCpcan : SafeEff effCpcan := by
  intro o v s h
  unfold effCpcan
  grind [SafeDone, Stop.safe, safe_result, safe_plain, safe_result, canon_modMe, mems_modMe]

theorem safe_effCpst : SafeEff effCpst := by
  intro o v s h
  unfold effCpst
  grind [SafeDone, Stop.safe, safe_result, safe_plain, safe_result]

theorem safe_effMwait : SafeEff effMwait := by
  intro o v s h
  unfold effMwait
  grind [SafeDone, Stop.safe, safe_result, safe_plain, safe_result]

theorem safe_effMbsend : SafeEff effMbsend := by
  intro o v s h
  unfold effMbsend
  dsimp only
  split
  · exact safe_trap _
  · split
    · exact safe_trap _
    · split
      · exact safe_payloadPlace _ _ ‹_›
      · have hplace := canon_payloadPlace _ _ h ‹_›
        split
        · trivial
        · split
          · exact safe_payload _ _ hplace ‹_›
          · have hbody := mems_payload _ _ _ ‹_› ▸ hplace
            split
            · exact safe_plain (canon_modMe hbody (fun hc => hc))
            · exact safe_plain (mems_pairSend_done ‹_› ▸ hbody)
            · exact safe_plain (canon_modMe (mems_pairSend_sent ‹_› ▸ hbody) (fun hc => hc))

theorem safe_effMbpeek : SafeEff effMbpeek := by
  intro o v s h
  unfold effMbpeek
  grind [SafeDone, Stop.safe, safe_result, safe_plain, safe_result]

theorem safe_effBbset : SafeEff effBbset := by
  intro o v s h
  unfold effBbset
  grind [SafeDone, Stop.safe, safe_result, safe_plain, safe_plain, canon_modMe, mems_modMe]

theorem safe_effBbadd : SafeEff effBbadd := by
  intro o v s h
  unfold effBbadd
  grind [SafeDone, Stop.safe, safe_result, safe_plain, safe_plain, canon_modMe, mems_modMe]

theorem safe_effBbwait : SafeEff effBbwait := by
  intro o v s h
  unfold effBbwait
  grind [SafeDone, Stop.safe, safe_result, safe_plain, safe_plain]

theorem safe_effBbrd : SafeEff effBbrd := by
  intro o v s h
  unfold effBbrd
  grind [SafeDone, Stop.safe, safe_result, safe_plain, safe_result]

theorem safe_arriveWait (step : Bool) : SafeEff (arriveWait step) := by
  intro o v s h
  unfold arriveWait
  grind [SafeDone, Stop.safe, safe_result, safe_plain, safe_plain, → mems_arrive, → safe_arrive, mems_finish]

theorem safe_effBarv : SafeEff effBarv := by
  intro o v s h
  unfold effBarv
  grind [SafeDone, Stop.safe, safe_result, safe_plain, safe_plain, → mems_arrive, → safe_arrive]

theorem safe_effBwt : SafeEff effBwt := by
  intro o v s h
  unfold effBwt
  grind [SafeDone, Stop.safe, safe_result, safe_plain, safe_plain, mems_finish]

theorem safe_effTrig : SafeEff effTrig := by
  intro o v s h
  unfold effTrig
  grind [SafeDone, Stop.safe, safe_result, safe_plain, safe_plain, mems_trig]

theorem safe_effExit : SafeEff effExit := by
  intro o v s h
  unfold effExit
  exact safe_ite trivial (safe_ok (by rw [mems_endGroup]; exact h) _ _)

theorem safe_effTime : SafeEff effTime := by
  intro o v s h
  unfold effTime
  grind [SafeDone, Stop.safe, safe_result, safe_plain, safe_result]

theorem safe_effCyc : SafeEff effCyc := by
  intro o v s h
  unfold effCyc
  grind [SafeDone, Stop.safe, safe_result, safe_plain, safe_result]

theorem safe_effHstart : SafeEff effHstart := by
  intro o v s h
  unfold effHstart
  refine safe_ite (safe_trap _) ?_
  split
  · exact safe_result h _
  · exact safe_result (canon_modMe h (fun hc => by rw [Core.modContext_mem]; exact hc)) _

theorem safe_effHjoin : SafeEff effHjoin := by
  intro o v s h
  unfold effHjoin
  grind [SafeDone, Stop.safe, safe_result, safe_plain, safe_result]

theorem safe_effFuse : SafeEff effFuse := by
  intro o v s h
  unfold effFuse
  dsimp only
  refine safe_ite (safe_trap _) ?_
  have hmark : ∀ f : Core → Core, (∀ c, (f c).mem = c.mem) → ∀ u : State, Canon u.mems → Canon (u.modMe f).mems :=
    fun f hf u hu => by rw [mems_modMe (hf _)]; exact hu
  refine safe_ite (safe_trap _) ?_
  refine safe_ite ?_ (hmark _ (fun _ => rfl))
  split
  · exact hmark _ (fun _ => rfl)
  · refine safe_plain (canon_foldl (fun _ _ hu => canon_modCore hu (fun hc => hc)) ?_)
    rw [mems_meetAll, mems_meetPops ‹_›]
    exact canon_modMe h (fun hc => hc)

theorem safe_effSplit : SafeEff effSplit := by
  intro o v s h
  unfold effSplit
  grind [SafeDone, Stop.safe, safe_result, safe_plain, safe_plain, mems_leaveGang]

theorem safe_effRejoin : SafeEff effRejoin := by
  intro o v s h
  unfold effRejoin
  extract_lets m pc mark s1 ps waits met other
  have hmark : ∀ u, Canon u.mems → Canon (mark u).mems := fun _ hu => canon_modMe hu (fun hc => hc)
  have hs1 : Canon s1.mems := hmark s h
  split
  · refine safe_plain (canon_modMe (canon_foldl (fun u p hu => ?_) hs1) (fun hc => hc))
    have hleft : Canon ((u.leaveGang p).modCore p (fun c => { c with ctl := { c.ctl with tsw := orBit c.ctl.tsw 12 } })).mems :=
      canon_modCore (by rw [mems_leaveGang]; exact hu) (fun hc => hc)
    dsimp only
    split
    · exact canon_ite hleft (by rw [mems_passMeet]; exact hleft)
    · exact hleft
  · split
    · exact safe_plain (by rw [mems_meetAll]; exact hs1)
    · exact hmark

theorem safe_effJmsk : SafeEff effJmsk := by
  intro o v s h
  unfold effJmsk
  grind [SafeDone, Stop.safe, safe_result, safe_plain, safe_plain, safe_result, mems_modCx]

theorem safe_effGstat : SafeEff effGstat := by
  intro o v s h
  unfold effGstat
  grind [SafeDone, Stop.safe, safe_result, safe_plain, safe_result]

theorem safe_effSrd : SafeEff effSrd := by
  intro o v s h
  unfold effSrd
  exact safe_ite (safe_trap _) (safe_ite trivial (safe_result h _))

theorem safe_effSwr : SafeEff effSwr := by
  intro o v s h
  unfold effSwr
  refine safe_ite (safe_ite (safe_trap _) (safe_plain h)) (safe_ite (safe_trap _) ?_)
  split
  · exact safe_sysWrite h ‹_›
  · exact safe_plain (canon_sysWrite h ‹_›)

theorem safe_stopWith {s : State} (h : Canon s.mems) (why : StopWhy) (kind : Nat) (arg : Word) : SafeDone (s.stopWith why kind arg) := by
  unfold State.stopWith
  extract_lets pc s1 s2 s3
  have hs1 : Canon s1.mems := canon_ite (by rw [mems_dropAsm]; exact h) h
  have hs2 : Canon s2.mems := canon_ite (by rw [mems_leaveGang]; exact hs1) hs1
  have hs3 : Canon s3.mems := by
    unfold s3
    rw [mems_trapMsg]
    exact hs2
  exact safe_ok (canon_modCx hs3 _) _ _

theorem safe_effTrap : SafeEff effTrap := by
  intro o v s h
  unfold effTrap
  exact safe_ite (safe_ok (by rw [mems_takeTrap]; exact h) _ _) (safe_stopWith h _ _ _)

theorem safe_effEret : SafeEff effEret := by
  intro o v s h
  unfold effEret
  split
  · exact safe_eret ‹_›
  · exact safe_ok (mems_eret _ ‹_› ▸ h) _ _

theorem safe_effPark : SafeEff effPark := fun _ _ _ h => safe_stopWith h _ _ _

theorem safe_effNop : SafeEff effNop := by
  intro o v s h
  unfold effNop
  grind [SafeDone, Stop.safe, safe_result, safe_plain, safe_plain]

theorem safe_effHend : SafeEff effHend := by
  intro o v s h
  unfold effHend
  grind [SafeDone, Stop.safe, safe_result, safe_plain, safe_plain, mems_endEntry, mems_freeHelper, mems_modCx]

theorem safe_effActRet : SafeEff effActRet := by
  intro o v s h
  unfold effActRet
  split
  · exact safe_trap _
  · have hfree : Canon (s.freeHelper s.cur s.ctx).mems := by rw [mems_freeHelper]; exact h
    exact safe_plain (canon_ite (by rw [mems_endEntry]; exact hfree) (by rw [mems_freezeAct]; exact hfree))

theorem safe_effActOpn : SafeEff effActOpn := by
  intro o v s h
  unfold effActOpn
  grind [SafeDone, Stop.safe, safe_result, safe_plain, safe_result, canon_modPart, mems_modPart]

theorem safe_effActCp : SafeEff effActCp := by
  intro o v s h
  unfold effActCp
  split
  · exact safe_loadNear _ _ h ‹_›
  · have hload := canon_loadNear _ _ h ‹_›
    refine safe_ite (safe_trap _) (safe_ite (safe_trap _) (safe_ite (safe_trap _) (safe_result ?_ _)))
    rw [mems_modDie]
    exact hload

theorem safe_effActCmt : SafeEff effActCmt := by
  intro o v s h
  unfold effActCmt
  refine safe_ite (safe_trap _) (safe_plain (canon_modPart ?_ _ _))
  rw [mems_mapChest]
  exact h

theorem safe_effActSt : SafeEff effActSt := by
  intro o v s h
  unfold effActSt
  grind [SafeDone, Stop.safe, safe_result, safe_plain, safe_result]

theorem safe_effActAbn : SafeEff effActAbn := by
  intro o v s h
  unfold effActAbn
  dsimp only
  split
  · exact safe_trap _
  · refine safe_ite (safe_trap _) (safe_plain ?_)
    rw [mems_settleAbandons]
    exact canon_modPart (canon_foldl (fun _ _ hu => by rw [mems_setAct]; exact hu) h) _ _

theorem safe_effActRty : SafeEff effActRty := by
  intro o v s h
  unfold effActRty
  refine safe_ite (safe_trap _) (safe_plain ?_)
  rw [mems_setAct, mems_mapChest]
  exact h

theorem safe_effActSkp : SafeEff effActSkp := by
  intro o v s h
  unfold effActSkp
  refine safe_ite (safe_trap _) (safe_plain ?_)
  rw [mems_settleAbandons, mems_setAct, mems_mapChest]
  exact h

theorem safe_effLaunch : SafeEff effLaunch := by
  intro o v s h
  unfold effLaunch
  refine safe_ite trivial ?_
  split
  · exact safe_loadNear _ _ h ‹_›
  · have hload := canon_loadNear _ _ h ‹_›
    dsimp only
    refine safe_ite (safe_trap _) (safe_ite (safe_result (canon_control hload _ _) _) ?_)
    split
    · exact safe_launchCode ‹_›
    · exact safe_result (canon_launchCode hload ‹_›) _

theorem safe_effCkpt : SafeEff effCkpt := by
  intro o v s h
  unfold effCkpt
  grind [SafeDone, Stop.safe, safe_result, safe_plain, safe_result, → canon_loadNear, → safe_loadNear, canon_modPart, mems_modPart]

/-! The answer of CPQZ has a name of its own here, so that nothing decides the bound of R295 by computing. -/

theorem safe_cpqz_far {o : Opnds} {v : Vals} {s : State} {r : Except Stop Done} (hr : effCpqz o v s = r)
    (hfar : 0x400000 < v.y.s.toNat + 0x1000) : SafeDone r := by
  rw [← hr]
  unfold effCpqz
  simp only [if_pos hfar]
  exact safe_trap _

theorem safe_cpqz_fit {o : Opnds} {v : Vals} {s : State} (h : Canon s.mems) {r : Except Stop Done} (hr : effCpqz o v s = r)
    (hfit : ¬ 0x400000 < v.y.s.toNat + 0x1000) : SafeDone r := by
  have hhold : ∀ u : State, Canon u.mems → Canon (u.modMe (fun c => { c with quiesce := true })).mems :=
    fun _ hu => canon_modMe hu (fun hc => hc)
  rw [← hr]
  unfold effCpqz
  simp only [if_neg hfit]
  exact safe_ite (safe_trap _) (safe_ite hhold (safe_ite h (safe_result (canon_modMe (canon_putPieces h _ _ _) (fun hc => hc)) _)))

theorem safe_effCpqz : SafeEff effCpqz := by
  intro o v s h
  generalize hr : effCpqz o v s = r
  by_cases hfar : 0x400000 < v.y.s.toNat + 0x1000
  · exact safe_cpqz_far hr hfar
  · exact safe_cpqz_fit h hr hfar

theorem safe_effBmem : SafeEff effBmem := by
  intro o v s h
  unfold effBmem
  grind [SafeDone, Stop.safe, safe_result, safe_plain, safe_result, → canon_loadNear, → safe_loadNear, mems_setMembers]

theorem safe_effLkcfg : SafeEff effLkcfg := fun _ _ _ h => ⟨h, fun _ hu => by rw [mems_setLnk]; exact hu⟩

theorem safe_effPreq : SafeEff effPreq := by
  intro o v s h
  unfold effPreq
  grind [SafeDone, Stop.safe, safe_result, safe_plain, safe_result, mems_postPreempt]

theorem safe_effTwcfg : SafeEff effTwcfg := by
  intro o v s h
  unfold effTwcfg
  exact safe_plain (canon_foldl (fun _ _ hu => canon_modCore hu (fun hc => hc)) h)

theorem safe_effRlstat : SafeEff effRlstat := by
  intro o v s h
  unfold effRlstat
  grind [SafeDone, Stop.safe, safe_result, safe_plain, safe_result]

theorem safe_effRlver : SafeEff effRlver := by
  intro o v s h
  unfold effRlver
  grind [SafeDone, Stop.safe, safe_result, safe_plain, safe_result, → mems_readImages, → safe_readImages]

theorem safe_effRlsw : SafeEff effRlsw := by
  intro o v s h
  unfold effRlsw
  refine safe_ite (safe_trap _) ?_
  extract_lets z r read
  have hstop : ∀ st, read = .error st → st.safe := by grind [→ safe_readImages, → mems_readImages]
  have hread : ∀ t, read = .ok t → Canon t.mems := by grind [→ mems_readImages]
  generalize read = x at hstop hread ⊢
  split
  · exact hstop _ rfl
  · rename_i t
    exact safe_result (s := t.modRule _ _) (hread t rfl) _

theorem safe_effRlwr : SafeEff effRlwr := by
  intro o v s h
  unfold effRlwr
  refine safe_ite (safe_trap _) (safe_ite (safe_trap _) ?_)
  split
  · exact safe_loadNear _ _ h ‹_›
  · have hload := canon_loadNear _ _ h ‹_›
    refine safe_ite hload (safe_plain ?_)
    rw [mems_clearErr, mems_modRule, mems_partFix]
    exact hload

theorem safe_effRlrd : SafeEff effRlrd := by
  intro o v s h
  unfold effRlrd
  refine safe_ite (safe_trap _) (safe_ite (safe_trap _) ?_)
  dsimp only
  split
  · exact safe_storeNear _ _ _ h ‹_›
  · have hstore := canon_storeNear _ _ _ h ‹_›
    exact safe_ite h (safe_plain (canon_correct hstore _ _ _ _))

theorem safe_effRdget : SafeEff effRdget := by
  intro o v s h
  unfold effRdget
  grind [SafeDone, Stop.safe, safe_result, safe_plain, safe_result]

theorem safe_jumpIf {s : State} (h : Canon s.mems) (b : Bool) (t : Word) : SafeDone (jumpIf s b t) := safe_ok h _ _

theorem safe_branchEff (f : Word → Word → Bool) : SafeEff (branchEff f) := fun _ _ _ h => safe_jumpIf h _ _

theorem safe_effBbs : SafeEff effBbs := fun _ _ _ h => safe_jumpIf h _ _

theorem safe_effBbc : SafeEff effBbc := fun _ _ _ h => safe_jumpIf h _ _

theorem safe_effBr : SafeEff effBr := fun _ _ _ h => safe_jumpIf h _ _

theorem safe_effBz : SafeEff effBz := fun _ _ _ h => safe_jumpIf h _ _

theorem safe_effBnz : SafeEff effBnz := fun _ _ _ h => safe_jumpIf h _ _

theorem safe_effJal : SafeEff effJal := fun _ _ _ h => safe_ok h _ _

theorem safe_effJalr : SafeEff effJalr := fun _ _ _ h => safe_ite (safe_trap _) (safe_ok h _ _)

theorem safe_effRet : SafeEff effRet := fun _ _ _ h => safe_ite (safe_trap _) (safe_jumpIf h _ _)

theorem safe_startLoop {s : State} (h : Canon s.mems) (o : Opnds) (n : Nat) (count : Word) : SafeDone (startLoop o s n count) :=
  safe_ite (safe_jumpIf (canon_modCx h _) _ _) (safe_plain (canon_modCx h _))

theorem safe_effLoop : SafeEff effLoop := fun _ _ _ h => safe_startLoop h _ _ _

theorem safe_effLoopi : SafeEff effLoopi := fun _ _ _ h => safe_startLoop h _ _ _

theorem safe_effLbrk : SafeEff effLbrk := fun _ _ _ h => safe_jumpIf (canon_modCx h _) _ _

theorem safe_effRep : SafeEff effRep := by
  intro o v s h
  unfold effRep
  split
  · exact safe_repParcels _ h ‹_›
  · have hrep := canon_repParcels _ h ‹_›
    split
    · split
      · exact safe_plain hrep
      · split
        · exact safe_plain hrep
        · exact safe_ite (safe_trap _) (safe_ite (safe_plain hrep) (safe_plain (canon_modCx hrep _)))
    · exact safe_plain hrep

theorem safe_effMcfg : SafeEff effMcfg := by
  intro o v s h
  unfold effMcfg
  grind [SafeDone, Stop.safe, safe_result, safe_plain, safe_plain, → canon_bytesWhen, → safe_bytesWhen, → mems_pushMat, → safe_pushMat]

theorem safe_effMstat : SafeEff effMstat := by
  intro o v s h
  unfold effMstat
  grind [SafeDone, Stop.safe, safe_result, safe_plain, safe_result]

theorem safe_fpDone {s : State} (h : Canon s.mems) (r : Nat × FpFlags) : SafeDone (fpDone s r) :=
  safe_result (by rw [mems_raise]; exact h) _

theorem safe_fpEff (f : Fmt → Opnds → Nat → Nat → Nat × FpFlags) : SafeEff (fpEff f) := fun _ _ _ h => safe_fpDone h _

theorem safe_effFfma : SafeEff effFfma := fun _ _ _ h => safe_fpDone h _

theorem safe_effFeq : SafeEff effFeq := fun _ _ _ h => safe_fpDone h _

theorem safe_effFlt : SafeEff effFlt := fun _ _ _ h => safe_fpDone h _

theorem safe_effFle : SafeEff effFle := fun _ _ _ h => safe_fpDone h _

theorem safe_bitsEff (f : Fmt → Nat → Nat → Nat) : SafeEff (bitsEff f) := by
  intro o v s h
  unfold bitsEff
  grind [SafeDone, Stop.safe, safe_result, safe_plain, safe_result]

theorem safe_convertDone {s : State} (h : Canon s.mems) (o : Opnds) (x : FVal) : SafeDone (convertDone o s x) :=
  safe_fpDone (canon_ite (canon_modCx h _) h) _

theorem safe_effFcvt : SafeEff effFcvt := fun _ _ _ h => safe_convertDone h _ _

theorem safe_effFtoi : SafeEff effFtoi := fun _ _ _ h => safe_fpDone h _

theorem safe_effFtou : SafeEff effFtou := fun _ _ _ h => safe_fpDone h _

theorem safe_effItof : SafeEff effItof := fun _ _ _ h => safe_convertDone h _ _

theorem safe_effUtof : SafeEff effUtof := fun _ _ _ h => safe_convertDone h _ _

theorem safe_laneDone {s : State} (h : Canon s.mems) (w : Nat) (rs : List (Nat × FpFlags)) : SafeDone (laneDone s w rs) :=
  safe_result (by rw [mems_raise]; exact h) _

theorem safe_vecEff (f : Opnds → Nat → Nat → Nat × FpFlags) : SafeEff (vecEff f) := fun _ _ _ h => safe_laneDone h _ _

theorem safe_vecUnary (f : Opnds → Nat → Nat × FpFlags) : SafeEff (vecUnary f) := fun _ _ _ h => safe_laneDone h _ _

theorem safe_effVfma : SafeEff effVfma := fun _ _ _ h => safe_laneDone h _ _

theorem safe_effVsel : SafeEff effVsel := by
  intro o v s h
  unfold effVsel
  grind [SafeDone, Stop.safe, safe_result, safe_plain, safe_result]

theorem safe_effVmov : SafeEff effVmov := by
  intro o v s h
  unfold effVmov
  grind [SafeDone, Stop.safe, safe_result, safe_plain, safe_result]

theorem safe_effVcvt : SafeEff effVcvt := fun _ _ _ h => safe_laneDone (canon_ite (canon_modCx h _) h) _ _

theorem safe_effVcmp : SafeEff effVcmp := by
  intro o v s h
  unfold effVcmp
  grind [SafeDone, Stop.safe, safe_result, safe_plain, safe_plain, mems_modCx, mems_raise]

theorem safe_vintEff (f : Nat → Opnds → Nat → Nat → Nat) : SafeEff (vintEff f) := safe_vecEff _

theorem safe_effVred : SafeEff effVred := by
  intro o v s h
  unfold effVred
  refine safe_ite (safe_result h _) ?_
  dsimp only
  split <;> exact safe_fpDone h _

theorem safe_effVbcst : SafeEff effVbcst := by
  intro o v s h
  unfold effVbcst
  grind [SafeDone, Stop.safe, safe_result, safe_plain, safe_result]

theorem safe_effVperm : SafeEff effVperm := by
  intro o v s h
  unfold effVperm
  grind [SafeDone, Stop.safe, safe_result, safe_plain, safe_result]

theorem safe_effVextr : SafeEff effVextr := by
  intro o v s h
  unfold effVextr
  grind [SafeDone, Stop.safe, safe_result, safe_plain, safe_result]

theorem safe_effVins : SafeEff effVins := by
  intro o v s h
  unfold effVins
  grind [SafeDone, Stop.safe, safe_result, safe_plain, safe_result]

theorem safe_effVdot : SafeEff effVdot := fun _ _ _ h => safe_ite (safe_result h _) (safe_fpDone h _)

theorem safe_effVpack : SafeEff effVpack := by
  intro o v s h
  unfold effVpack
  grind [SafeDone, Stop.safe, safe_result, safe_plain, safe_result]

theorem safe_effVunpk : SafeEff effVunpk := by
  intro o v s h
  unfold effVunpk
  grind [SafeDone, Stop.safe, safe_result, safe_plain, safe_result]

theorem safe_effVmxq : SafeEff effVmxq := by
  intro o v s h
  unfold effVmxq
  grind [SafeDone, Stop.safe, safe_result, safe_plain, safe_result, mems_furtherVec, mems_modCx, mems_raise]

theorem safe_effVnqq : SafeEff effVnqq := by
  intro o v s h
  unfold effVnqq
  grind [SafeDone, Stop.safe, safe_result, safe_plain, safe_result, mems_furtherVec, mems_raise]

theorem safe_effVsrs : SafeEff effVsrs := by
  intro o v s h
  unfold effVsrs
  grind [SafeDone, Stop.safe, safe_result, safe_plain, safe_plain, mems_modCx]

theorem safe_effKmov : SafeEff effKmov := by
  intro o v s h
  unfold effKmov
  grind [SafeDone, Stop.safe, safe_result, safe_plain, safe_plain, safe_result, mems_modCx]

end Sys2Proof.Machine
end

section
/-! SUPPORT. The device steps keep every memory canonical (O4). -/

namespace Sys2Proof.Machine

/-- An answer's next state, if it gives one, has its memories in canonical form. -/
def CanonNext : Answer → Prop
  | .next t => Canon t.mems
  | _ => True

theorem canonNext_ite {c : Prop} [Decidable c] {a b : Answer} (ha : CanonNext a) (hb : CanonNext b) : CanonNext (if c then a else b) := by
  split
  · exact ha
  · exact hb

theorem canon_memsEq {s t : State} (h : Canon s.mems) (e : t.mems = s.mems) : Canon t.mems := e ▸ h

theorem canon_execCompensationStart {s : State} (h : Canon s.mems) (die seq : Nat) : CanonNext (execCompensationStart die seq s) := by
  unfold execCompensationStart
  split
  · exact h
  · split
    · exact h
    · split
      · exact h
      · refine canonNext_ite h (canon_memsEq ?_ (mems_mapChest _ _))
        exact canon_modCore h (fun hc => by rw [Core.modContext_mem]; exact hc)

theorem canon_execInboxRecordIntake {s : State} (h : Canon s.mems) (part : Nat) : CanonNext (execInboxRecordIntake part s) := by
  unfold execInboxRecordIntake
  grind [CanonNext, canon_modPart, mems_modPart, canon_refuseHost, canon_submit, State.mems]

theorem canon_execWindowTableRead {s : State} (h : Canon s.mems) (part lid : Nat) : CanonNext (execWindowTableRead part lid s) := by
  unfold execWindowTableRead
  split
  · exact h
  · refine canonNext_ite h ?_
    split
    · exact canon_complete (canon_distFault _ _ _ h) _ _ _ _
    · exact canon_complete h _ _ _ _
    · exact canon_memsEq (canon_readWindows h ‹_›) (mems_modLaunch _ _ _ _)

theorem canon_execAgeingStep {s : State} (h : Canon s.mems) (part lid : Nat) : CanonNext (execAgeingStep part lid s) := by
  unfold execAgeingStep
  grind [CanonNext, mems_modLaunch, State.mems]

theorem canon_execLaunchStart {s : State} (h : Canon s.mems) (part : Nat) : CanonNext (execLaunchStart part s) := by
  unfold execLaunchStart
  grind [CanonNext, canon_complete, mems_modLaunch, canon_modPart, mems_modPart, State.mems]

theorem canon_execGroupStart {s : State} (h : Canon s.mems) (core : Nat) : CanonNext (execGroupStart core s) := by
  unfold execGroupStart
  have hending : Canon (s.endEnding core).mems := canon_memsEq h (mems_endEnding _ _)
  split
  · split
    · exact hending
    · refine canon_memsEq ?_ (mems_modLaunch _ _ _ _)
      refine canon_foldl (fun u p hu => canon_modCluster hu (fun hk => by dsimp only; rw [mem_cluster_begin]; exact hk))
        (canon_memsEq ?_ (mems_startUnit _ _ _ _ _))
      refine canon_foldl (fun u p hu => ?_) h
      split
      · exact canon_modCore hu (fun hc => by rw [mem_setAside]; exact hc)
      · exact hu
  · exact hending

theorem canon_execLaunchComplete {s : State} (h : Canon s.mems) (part lid : Nat) : CanonNext (execLaunchComplete part lid s) := by
  unfold execLaunchComplete
  grind [CanonNext, canon_complete, State.mems]

theorem canon_execSliceExpiry {s : State} (h : Canon s.mems) (core : Nat) : CanonNext (execSliceExpiry core s) := by
  unfold execSliceExpiry
  grind [CanonNext, mems_askSwap, State.mems]

theorem canon_execLongWaitExpiry {s : State} (h : Canon s.mems) (core : Nat) : CanonNext (execLongWaitExpiry core s) := by
  unfold execLongWaitExpiry
  grind [CanonNext, canon_foldl, mems_foldl, mems_askSwap, canon_modCore, mems_modCore, State.mems]

theorem canon_execSwapResume {s : State} (h : Canon s.mems) (core : Nat) : CanonNext (execSwapResume core s) := by
  unfold execSwapResume
  grind [CanonNext, canon_modCore, mems_modCore, mems_resumeAt, mems_resumeSwapped, State.mems]

theorem canon_execReuUpdate {s : State} (h : Canon s.mems) (k blk : Nat) : CanonNext (execReuUpdate k blk s) := by
  unfold execReuUpdate
  split
  · exact h
  · refine canonNext_ite h ?_
    split
    · rename_i hfail
      exact canon_memsEq (safe_updateBlock h hfail) (mems_modCmd _ _ _)
    · rename_i hdone
      exact canon_memsEq (canon_updateBlock h hdone) (mems_modCmd _ _ _)

theorem canon_execRuleUpdateCompletion {s : State} (h : Canon s.mems) (k : Nat) : CanonNext (execRuleUpdateCompletion k s) := by
  unfold execRuleUpdateCompletion
  split
  · exact h
  · refine canonNext_ite h (canon_memsEq (canon_memsEq ?_ (mems_preTold _ _ _)) (mems_finishCmd _ _ _))
    exact canon_ite (canon_memsEq h (mems_postSup _ _ _)) h

theorem canon_execRuleInvalidOp {s : State} (h : Canon s.mems) (k : Nat) : CanonNext (execRuleInvalidOp k s) := by
  unfold execRuleInvalidOp
  split
  · exact h
  · exact canonNext_ite h (canon_memsEq h (mems_finishCmd _ _ _))

theorem canon_execRltapeCompletion {s : State} (h : Canon s.mems) (k : Nat) : CanonNext (execRltapeCompletion k s) := by
  unfold execRltapeCompletion
  split
  · exact h
  · exact canonNext_ite h (canon_memsEq (canon_makeTape h _) (mems_finishCmd _ _ _))

theorem canon_execRlrevCompletion {s : State} (h : Canon s.mems) (k : Nat) : CanonNext (execRlrevCompletion k s) := by
  unfold execRlrevCompletion
  split
  · exact h
  · exact canonNext_ite h (canon_memsEq (canon_reverse h _) (mems_finishCmd _ _ _))

theorem canon_execRdregCompletion {s : State} (h : Canon s.mems) (k : Nat) : CanonNext (execRdregCompletion k s) := by
  unfold execRdregCompletion
  split
  · exact h
  · refine canonNext_ite h (canon_memsEq ?_ (mems_finishCmd _ _ _))
    split
    · exact h
    · split
      · exact canon_regBlocks h _ _ _
      · split
        · exact h
        · exact canon_regBlocks h _ _ _

theorem canon_execRdcmpEnd {s : State} (h : Canon s.mems) (k : Nat) : CanonNext (execRdcmpEnd k s) := by
  unfold execRdcmpEnd
  split
  · exact h
  · refine canonNext_ite h (canonNext_ite ?_ ?_)
    · exact canon_memsEq (canon_enterReserved _ _ (canon_memsEq h (mems_dropCmd _ _))) (mems_settleGate _ _ _)
    · split
      · exact canonNext_ite h (canon_memsEq h (mems_modCmd _ _ _))
      · split
        · exact h
        · exact canon_endCompare h _ _ _ _

theorem canon_execAllReduce {s : State} (h : Canon s.mems) (k : Nat) : CanonNext (execAllReduce k s) := by
  unfold execAllReduce
  grind [CanonNext, canon_collective, State.mems]

theorem canon_execAllGather {s : State} (h : Canon s.mems) (k : Nat) : CanonNext (execAllGather k s) := by
  unfold execAllGather
  grind [CanonNext, canon_collective, State.mems]

theorem canon_execReduceScatter {s : State} (h : Canon s.mems) (k : Nat) : CanonNext (execReduceScatter k s) := by
  unfold execReduceScatter
  grind [CanonNext, canon_collective, State.mems]

theorem canon_execCollectiveCompletion {s : State} (h : Canon s.mems) (k : Nat) : CanonNext (execCollectiveCompletion k s) := by
  unfold execCollectiveCompletion
  split
  · exact h
  · refine canonNext_ite h ?_
    extract_lets st s1 s2
    have hs1 : Canon s1.mems := canon_ite h (canon_memsEq h (mems_collTold _ _))
    have hs2 : Canon s2.mems := canon_ite (canon_memsEq hs1 (mems_settleGate _ _ _)) hs1
    exact canon_memsEq (canon_memsEq hs2 (mems_endColl _ _)) (mems_finishCmd _ _ _)

theorem canon_execCheckpointTimer {s : State} (h : Canon s.mems) (part : Nat) : CanonNext (execCheckpointTimer part s) := by
  unfold execCheckpointTimer
  grind [CanonNext, mems_modCkpt, State.mems]

theorem canon_execCheckpointPageCopy {s : State} (h : Canon s.mems) (part blk : Nat) : CanonNext (execCheckpointPageCopy part blk s) := by
  unfold execCheckpointPageCopy
  grind [CanonNext, mems_buddySend, canon_ckptPut, mems_modCkpt, State.mems]

theorem canon_execCheckpointComplete {s : State} (h : Canon s.mems) (part : Nat) : CanonNext (execCheckpointComplete part s) := by
  unfold execCheckpointComplete
  refine canonNext_ite h ?_
  extract_lets net s1 st nb ws r st' s2
  have hs1 : Canon s1.mems := h
  have hr : Canon r.2.mems := by
    unfold r
    split
    · exact canon_ckptPut hs1 _ _
    · exact hs1
  exact canon_memsEq (canon_memsEq hr (mems_modCkpt _ _ _)) (mems_postSup _ _ _)

theorem canon_execBarrierRelease {s : State} (h : Canon s.mems) (ch : Nat) : CanonNext (execBarrierRelease ch s) := by
  unfold execBarrierRelease
  grind [CanonNext, canon_release, State.mems]

theorem canon_execMatrixCommandStart {s : State} (h : Canon s.mems) (cl : Nat) : CanonNext (execMatrixCommandStart cl s) := by
  unfold execMatrixCommandStart
  grind [CanonNext, canon_modCluster, mems_modCluster, mems_startHead, State.mems]

theorem mems_pairStep {s t : State} {p : Nat} {pair : Option Nat} {drop : Bool} {no kind key len data : Nat}
    (e : s.pairStep p pair drop no kind key len data = .wait t) : t.mems = s.mems := by
  unfold State.pairStep at e
  grind [mems_sendCopy]

theorem mems_matStep {s t : State} {cl : Nat} {r : MatRun} (e : s.matStep cl r = .wait t) : t.mems = s.mems := by
  unfold State.matStep at e
  grind [→ mems_pairStep]

theorem mems_copyStep {s t : State} {cl : Nat} {z : CopySlot} (e : s.copyStep cl z = .wait t) : t.mems = s.mems := mems_pairStep e

theorem canon_runCombine {s : State} (h : Canon s.mems) (cl p : Nat) (m : MatCmd) : Canon (s.runCombine cl p m).2.2.2.mems := by
  unfold State.runCombine
  extract_lets src dst marks s1 s2 s3 es w
  have hs1 : Canon s1.mems := canon_memsEq (canon_correct h _ _ _ _) (mems_correctRanges _ _ _ _)
  have hs2 : Canon s2.mems := canon_ite hs1 (canon_memsEq hs1 (mems_clearErr _ _ _ _))
  have hs3 : Canon s3.mems := canon_ite hs2 hs2
  exact canon_modCluster hs3 (fun hk => hk)

theorem canon_runStrip {s : State} (h : Canon s.mems) (cl : Nat) (r : MatRun) : Canon (s.runStrip cl r).2.2.2.mems := by
  unfold State.runStrip
  dsimp only
  split
  · exact h
  · split
    · exact h
    · exact h
    · split
      · exact canon_memsEq h (mems_endBank _ _ _ _ _)
      · exact canon_modCluster (canon_memsEq (canon_memsEq h (mems_stripReads _ _ _ _)) (mems_stripClears _ _ _ _)) (fun hk => hk)

theorem canon_runMatrix {s : State} (h : Canon s.mems) (cl : Nat) (r : MatRun) : Canon (s.runMatrix cl r).2.2.2.mems := by
  unfold State.runMatrix
  extract_lets m p
  split
  · exact h
  · split
    · split
      · exact h
      · have hdrain := canon_drain h ‹_›
        exact canon_ite (canon_modCore hdrain (fun hc => hc)) hdrain
    · exact canon_modCluster (canon_memsEq h (mems_clearErr _ _ _ _)) (fun hk => hk)
    · split
      · exact canon_modCluster h (fun hk => hk)
      · have himage := canon_readImage h ‹_›
        exact canon_modCluster (canon_errs himage) (fun hk => hk)
    · split
      · exact h
      · exact canon_modCluster h (fun hk => hk)
    · exact h
    · exact canon_runCombine h _ _ _
    · exact canon_runStrip h _ _

theorem canon_execMatrixCommandComplete {s : State} (h : Canon s.mems) (cl k : Nat) : CanonNext (execMatrixCommandComplete cl k s) := by
  unfold execMatrixCommandComplete
  split
  · exact h
  · refine canonNext_ite h ?_
    split
    · exact canon_memsEq h (mems_matStep ‹_›)
    · extract_lets p s1 e st s2 el s3
      have hs1 : Canon s1.mems := canon_modCluster h (fun hk => hk)
      have hs2 : Canon s2.mems := canon_memsEq (canon_runMatrix hs1 _ _) (mems_returnPods _ _ _)
      have hs3 : Canon s3.mems := canon_ite hs2 (canon_modCore hs2 (fun hc => hc))
      change Canon _
      split
      · exact canon_modCore hs3 (fun hc => hc)
      · exact canon_matFault _ _ _ _ hs3

theorem canon_execCopyStart {s : State} (h : Canon s.mems) (cl : Nat) : CanonNext (execCopyStart cl s) := by
  unfold execCopyStart
  extract_lets k
  refine canonNext_ite h ?_
  split
  · exact h
  · extract_lets p
    split
    · exact h
    · extract_lets s1 s2 n slot add
      have hs1 : Canon s1.mems := canon_modCluster (canon_modCore h (fun hc => hc)) (fun hk => hk)
      have hs2 : Canon s2.mems := canon_ite hs1 (canon_memsEq hs1 (mems_geoFix _ _ _))
      have hadd : ∀ w total, Canon (add w total).mems := fun _ _ => canon_modCluster hs2 (fun hk => hk)
      refine canonNext_ite (canon_endCopy _ _ _ _ (hadd _ _)) ?_
      split
      · exact canon_endCopy _ _ _ _ (hadd _ _)
      · refine canonNext_ite (canon_endCopy _ _ _ _ (hadd _ _)) ?_
        extract_lets z
        change Canon _
        split
        · rename_i t hwait
          refine canon_modCluster ?_ (fun hk => hk)
          split at hwait
          · exact canon_memsEq hs2 (mems_copyStep hwait)
          · cases hwait
        · exact canon_settleCopy _ _ (hadd _ _)

theorem canon_execCopy {s : State} (h : Canon s.mems) (cl slot unit : Nat) : CanonNext (execCopy cl slot unit s) := by
  unfold execCopy
  grind [CanonNext, canon_endCopy, → canon_engineRead, → safe_engineRead, mems_modSlot, → canon_walk, State.mems]

theorem canon_execFill {s : State} (h : Canon s.mems) (cl slot unit : Nat) : CanonNext (execFill cl slot unit s) := by
  unfold execFill
  grind [CanonNext, mems_modSlot, → canon_walk, State.mems]

theorem canon_execCopyLanding {s : State} (h : Canon s.mems) (cl slot unit : Nat) : CanonNext (execCopyLanding cl slot unit s) := by
  unfold execCopyLanding
  split
  · exact h
  · extract_lets us
    have hslot : ∀ f, Canon (s.modSlot cl slot f).mems := fun f => canon_memsEq h (mems_modSlot _ _ _ _)
    refine canonNext_ite h (canonNext_ite ?_ (canonNext_ite (canon_settleCopy _ _ h) (canonNext_ite h (canonNext_ite (hslot _)
      (canonNext_ite h (canonNext_ite ?_ (canonNext_ite (hslot _) h)))))))
    · change Canon _
      split
      · exact h
      · split
        · exact canon_memsEq h (mems_copyStep ‹_›)
        · exact h
    · exact canon_settleCopy _ _ (canon_foldl (fun u v hu => canon_landUnit hu _ _ _) h)

theorem canon_execCopyCompletion {s : State} (h : Canon s.mems) (cl slot : Nat) : CanonNext (execCopyCompletion cl slot s) := by
  unfold execCopyCompletion
  grind [CanonNext, → mems_dst, → safe_dst, mems_freeSlot, canon_modCore, mems_modCore, mems_modSlot, State.mems]

theorem canon_execNetworkSend {s : State} (h : Canon s.mems) (cl slot : Nat) : CanonNext (execNetworkSend cl slot s) := by
  unfold execNetworkSend
  split
  · exact h
  · extract_lets p u q queue port got
    refine canonNext_ite h ?_
    split
    · exact canon_endCopy _ _ _ _ (canon_memsEq h (mems_refuseAt _ _))
    · have hstop : ∀ x, got = .error x → Canon x.2.mems := by
        intro x hx
        unfold got at hx
        split at hx
        · cases hx
        · split at hx
          · cases hx
          · exact safe_readPieces h hx
      have hread : ∀ x, got = .ok x → Canon x.2.mems := by
        intro x hx
        unfold got at hx
        split at hx
        · cases hx
          exact h
        · split at hx
          · cases hx
            exact h
          · exact canon_readPieces h hx
      generalize got = r at hstop hread ⊢
      split
      · exact canon_endCopy _ _ _ _ (hstop _ rfl)
      · rename_i b v
        extract_lets s1 s2
        have hs1 : Canon s1.mems := canon_ite (canon_memsEq (hread _ rfl) (mems_modSlot _ _ _ _)) (hread _ rfl)
        refine canonNext_ite ?_ ?_
        · change Canon _
          split
          · split
            · exact hs1
            · split
              · exact canon_memsEq hs1 (mems_copyStep ‹_›)
              · exact hs1
          · exact hs1
        · have hs2 : Canon s2.mems := canon_memsEq hs1 (mems_modSlot _ _ _ _)
          exact canon_ite (canon_landPacket _ _ _ hs2) hs2

theorem canon_execPacketAck {s : State} (h : Canon s.mems) (k : Nat) : CanonNext (execPacketAck k s) := by
  unfold execPacketAck
  grind [CanonNext, canon_landPacket, State.mems]

theorem canon_execPacketRetransmit {s : State} (h : Canon s.mems) (k : Nat) : CanonNext (execPacketRetransmit k s) := by
  unfold execPacketRetransmit
  grind [CanonNext, canon_endCopy, State.mems]

theorem canon_execCopyAssemblyDiscard {s : State} (h : Canon s.mems) (core : Nat) (q : AsmQueue) : CanonNext (execCopyAssemblyDiscard core q s) :=
    by
  unfold execCopyAssemblyDiscard
  grind [CanonNext, mems_discardAsm, State.mems]

theorem canon_execMailboxDeferredPost {s : State} (h : Canon s.mems) (k : Nat) : CanonNext (execMailboxDeferredPost k s) := by
  unfold execMailboxDeferredPost
  split
  · exact h
  · refine canonNext_ite h ?_
    extract_lets t
    have ht : Canon t.mems := canon_memsEq h (mems_postDone _ _)
    exact canon_ite (canon_memsEq ht (mems_supPut _ _ _)) (canon_modCore ht (fun hc => hc))

theorem canon_execMessageArrival {s : State} (h : Canon s.mems) (k : Nat) : CanonNext (execMessageArrival k s) := by
  unfold execMessageArrival
  split
  · exact h
  · refine canonNext_ite h ?_
    extract_lets t t'
    have ht : Canon t.mems := h
    have ht' : Canon t'.mems := canon_ite (canon_memsEq ht (mems_refuseAt _ _)) ht
    exact canonNext_ite (canon_modCore h (fun hc => hc)) ht'

theorem canon_execMessageReturn {s : State} (h : Canon s.mems) (k : Nat) : CanonNext (execMessageReturn k s) := by
  unfold execMessageReturn
  split
  · exact h
  · exact canonNext_ite h (canon_modCore h (fun hc => by dsimp only; rw [mem_settleMsg]; exact hc))

theorem canon_execMessageAcceptNotice {s : State} (h : Canon s.mems) (k : Nat) : CanonNext (execMessageAcceptNotice k s) := by
  unfold execMessageAcceptNotice
  split
  · exact h
  · exact canonNext_ite h (canon_modCore h (fun hc => by rw [mem_settleMsg]; exact hc))

theorem canon_execLinkWordArrival {s : State} (h : Canon s.mems) (k : Nat) : CanonNext (execLinkWordArrival k s) := by
  unfold execLinkWordArrival
  split
  · exact h
  · exact canonNext_ite h (canon_modCore h (fun hc => by split <;> exact hc))

theorem canon_execResultDelivery {s : State} (h : Canon s.mems) (core id : Nat) : CanonNext (execResultDelivery core id s) := by
  unfold execResultDelivery
  split
  · exact h
  · split
    · exact canon_modCore h (fun hc => by rw [mem_delivered]; exact hc)
    · split
      · exact h
      · exact canon_modCore h (fun hc => hc)

theorem canon_execGlobalRequestArrival {s : State} (h : Canon s.mems) (k : Nat) : CanonNext (execGlobalRequestArrival k s) := by
  unfold execGlobalRequestArrival
  grind [CanonNext, canon_answerReq, State.mems]

theorem canon_execTranslationWalk {s : State} (h : Canon s.mems) (k : Nat) : CanonNext (execTranslationWalk k s) := by
  unfold execTranslationWalk
  grind [CanonNext, canon_foldl, mems_foldl, canon_answerReq, State.mems]

theorem canon_execGlobalResponse {s : State} (h : Canon s.mems) (k : Nat) : CanonNext (execGlobalResponse k s) := by
  unfold execGlobalResponse
  split
  · exact h
  · exact canonNext_ite h (canon_modCore h (fun hc => by rw [mem_takeAnswer]; exact hc))

theorem canon_execXlatInv {s : State} (h : Canon s.mems) (core : Nat) : CanonNext (execXlatInv core s) := by
  unfold execXlatInv
  grind [CanonNext, mems_invalidate, canon_modCore, mems_modCore, State.mems]

theorem canon_execXlatInvDone {s : State} (h : Canon s.mems) (core : Nat) : CanonNext (execXlatInvDone core s) := by
  unfold execXlatInvDone
  grind [CanonNext, canon_modCore, mems_modCore, State.mems]

theorem canon_execWindowCacheFill {s : State} (h : Canon s.mems) (core w off : Nat) : CanonNext (execWindowCacheFill core w off s) := by
  unfold execWindowCacheFill
  grind [CanonNext, → canon_fillLine, → safe_fillLine, canon_modCore, mems_modCore, State.mems]

theorem canon_execTrapMessageHop {s : State} (h : Canon s.mems) (k : Nat) : CanonNext (execTrapMessageHop k s) := by
  unfold execTrapMessageHop
  split
  · exact h
  · split
    · exact h
    · exact canonNext_ite h (canonNext_ite h (canon_memsEq h (mems_modDie _ _ _)))

theorem canon_execCollectorPost {s : State} (h : Canon s.mems) (die row : Nat) : CanonNext (execCollectorPost die row s) := by
  unfold execCollectorPost
  split
  · exact h
  · exact canonNext_ite h (canon_memsEq (canon_memsEq h (mems_modDie _ _ _)) (mems_supPut _ _ _))

theorem canon_execSahdanCrcReplay {s : State} (h : Canon s.mems) (lane : Nat) : CanonNext (execSahdanCrcReplay lane s) := by
  unfold execSahdanCrcReplay
  grind [CanonNext, State.mems]

theorem canon_execRepReissue {s : State} (h : Canon s.mems) (hcode : SafeCode) : CanonNext (execRepReissue s) := by
  unfold execRepReissue
  split
  · exact h
  · exact canon_reissue h hcode

theorem canon_execPreemptEntry {s : State} (h : Canon s.mems) (core : Nat) : CanonNext (execPreemptEntry core s) := by
  unfold execPreemptEntry
  grind [CanonNext, mems_preemptEntry, State.mems]

theorem canon_execLateFaultEntry {s : State} (h : Canon s.mems) (core : Nat) : CanonNext (execLateFaultEntry core s) := by
  unfold execLateFaultEntry
  grind [CanonNext, mems_lateFaultEntry, State.mems]

theorem canon_execDivergeEntry {s : State} (h : Canon s.mems) (core : Nat) : CanonNext (execDivergeEntry core s) := by
  unfold execDivergeEntry
  grind [CanonNext, mems_divergeEntry, State.mems]

theorem canon_execResumeMessage {s : State} (h : Canon s.mems) (k : Nat) : CanonNext (execResumeMessage k s) := by
  unfold execResumeMessage
  grind [CanonNext, → mems_dst, → safe_dst, mems_endCtx, mems_resumeCtx, State.mems]

theorem canon_execMsbSave {s : State} (h : Canon s.mems) (core : Nat) : CanonNext (execMsbSave core s) := by
  unfold execMsbSave
  grind [CanonNext, canon_msbStep, State.mems]

theorem canon_execMsbRestore {s : State} (h : Canon s.mems) (core : Nat) : CanonNext (execMsbRestore core s) := by
  unfold execMsbRestore
  grind [CanonNext, canon_msbStep, State.mems]

theorem canon_execL2pRemap {s : State} (h : Canon s.mems) (part lpid : Nat) (entry : Word) : CanonNext (execL2pRemap part lpid entry s) := by
  unfold execL2pRemap
  exact canonNext_ite (canon_remap h _ _ _) h

theorem canon_execPartRlsWrite {s : State} (h : Canon s.mems) (part : Nat) (slots : BitVec 8) : CanonNext (execPartRlsWrite part slots s) := by
  unfold execPartRlsWrite
  grind [CanonNext, mems_writeRls, State.mems]

theorem canon_execHeartbeat {s : State} (h : Canon s.mems) (core : Nat) : CanonNext (execHeartbeat core s) := by
  unfold execHeartbeat
  grind [CanonNext, canon_modCore, mems_modCore, State.mems]

theorem canon_execHeartbeatWindowEnd {s : State} (h : Canon s.mems) (core : Nat) : CanonNext (execHeartbeatWindowEnd core s) := by
  unfold execHeartbeatWindowEnd
  grind [CanonNext, mems_declareDead, canon_modCore, mems_modCore, State.mems]

theorem canon_execPairedOpArrival {s : State} (h : Canon s.mems) (k : Nat) : CanonNext (execPairedOpArrival k s) := by
  unfold execPairedOpArrival
  grind [CanonNext, canon_pairFail, canon_pairMatch, State.mems]

theorem canon_execPairedOpTimeout {s : State} (h : Canon s.mems) (k : Nat) : CanonNext (execPairedOpTimeout k s) := by
  unfold execPairedOpTimeout
  split
  · exact h
  · refine canonNext_ite h (canon_pairFail _ ?_)
    exact h

theorem canon_execClusterScrub {s : State} (h : Canon s.mems) (cl : Nat) : CanonNext (execClusterScrub cl s) := by
  unfold execClusterScrub
  grind [CanonNext, canon_modCluster, mems_modCluster, canon_scrubCluster, State.mems]

theorem canon_execClusterClkoff {s : State} (h : Canon s.mems) (cl : Nat) : CanonNext (execClusterClkoff cl s) := by
  unfold execClusterClkoff
  grind [CanonNext, canon_modCluster, mems_modCluster, State.mems]

theorem canon_execClusterGate {s : State} (h : Canon s.mems) (cl : Nat) : CanonNext (execClusterGate cl s) := by
  unfold execClusterGate
  refine canonNext_ite ?_ h
  exact canon_foldl (fun _ _ hu => canon_modCore hu (fun _ => rfl)) (canon_modCluster (canon_scrubCluster h _) (fun hk => hk))

theorem canon_execServiceControllerTick {s : State} (h : Canon s.mems) : CanonNext (execServiceControllerTick s) := by
  unfold execServiceControllerTick
  grind [CanonNext, canon_foldl, mems_foldl, mems_beginMove, canon_modPart, mems_modPart, State.mems]

theorem canon_execBorderMoveGrant {s : State} (h : Canon s.mems) (cl : Nat) : CanonNext (execBorderMoveGrant cl s) := by
  unfold execBorderMoveGrant
  split
  · exact h
  · refine canonNext_ite h (canon_memsEq (canon_memsEq (canon_numberCluster ?_ _ _) (mems_renumber _ _)) (mems_renumber _ _))
    exact canon_modCluster (canon_scrubCluster (canon_foldl (fun _ _ hu => canon_remap hu _ _ _) h) _) (fun hk => hk)

theorem canon_execEvidenceRequest {s : State} (h : Canon s.mems) (fn : Nat) : CanonNext (execEvidenceRequest fn s) := by
  unfold execEvidenceRequest
  grind [CanonNext, mems_evidence, State.mems]

theorem canon_execFirmwareActivate {s : State} (h : Canon s.mems) : CanonNext (execFirmwareActivate s) := by
  unfold execFirmwareActivate
  grind [CanonNext, canon_foldl, mems_foldl, State.mems]

theorem canon_execSecuredSessionOpen {s : State} (h : Canon s.mems) (req : Nat) : CanonNext (execSecuredSessionOpen req s) := by
  unfold execSecuredSessionOpen
  grind [CanonNext, mems_draw, State.mems]

theorem canon_execSecuredSessionClose {s : State} (h : Canon s.mems) (req : Nat) : CanonNext (execSecuredSessionClose req s) := by
  unfold execSecuredSessionClose
  grind [CanonNext, State.mems]

theorem canon_execKeyDelivery {s : State} (h : Canon s.mems) (part req : Nat) (k m : BitVec 128) : CanonNext (execKeyDelivery part req k m s) := by
  unfold execKeyDelivery
  refine canonNext_ite h (canonNext_ite h ?_)
  split
  · exact h
  · exact canonNext_ite h h

theorem canon_execFunctionLevelReset {s : State} (h : Canon s.mems) (part : Nat) : CanonNext (execFunctionLevelReset part s) := by
  unfold execFunctionLevelReset
  grind [CanonNext, mems_flrBegin, canon_flrEnd, canon_stopped, State.mems]

theorem canon_execClockStep {s : State} (h : Canon s.mems) (die set : Nat) : CanonNext (execClockStep die set s) := by
  unfold execClockStep
  grind [CanonNext, mems_writeClkreq, State.mems]

theorem canon_execClockRelockDone {s : State} (h : Canon s.mems) (die : Nat) : CanonNext (execClockRelockDone die s) := by
  unfold execClockRelockDone
  grind [CanonNext, mems_modDie, State.mems]

theorem canon_execPowerSample {s : State} (h : Canon s.mems) (watts : Nat) : CanonNext (execPowerSample watts s) := by
  unfold execPowerSample
  grind [CanonNext, State.mems]

theorem canon_execThermalStepdown {s : State} (h : Canon s.mems) (die celsius : Nat) : CanonNext (execThermalStepdown die celsius s) := by
  unfold execThermalStepdown
  grind [CanonNext, mems_modDie, State.mems]

theorem canon_execColdReset {s : State} (h : Canon s.mems) : CanonNext (execColdReset s) := by
  unfold execColdReset
  grind [CanonNext, canon_coldBoot, State.mems]

theorem canon_execWarmReset {s : State} (h : Canon s.mems) : CanonNext (execWarmReset s) := by
  unfold execWarmReset
  exact canon_phys (canon_rebooted h) h.2.2

theorem canon_execLossOfPower {s : State} (h : Canon s.mems) : CanonNext (execLossOfPower s) := by
  unfold execLossOfPower
  grind [CanonNext, canon_rebooted, State.mems]

theorem canon_execThermalTrip {s : State} (h : Canon s.mems) (die celsius : Nat) : CanonNext (execThermalTrip die celsius s) := by
  unfold execThermalTrip
  refine canonNext_ite h (canon_coldBoot ?_)
  exact h

theorem canon_execHbmScrubChunk {s : State} (h : Canon s.mems) (slice : Nat) : CanonNext (execHbmScrubChunk slice s) := by
  unfold execHbmScrubChunk
  grind [CanonNext, canon_setJournal, canon_zeroPhys, State.mems]

theorem canon_execRangeZeroing {s : State} (h : Canon s.mems) (k : Nat) : CanonNext (execRangeZeroing k s) := by
  unfold execRangeZeroing
  grind [CanonNext, canon_zeroPhys, State.mems]

end Sys2Proof.Machine
end

section
/-! PROOF. A step keeps every memory canonical (O4). -/

namespace Sys2Proof.Machine

theorem safe_of_some {a b : Eff} (e : some a = some b) (h : SafeEff a) : SafeEff b := Option.some.inj e ▸ h

theorem safe_effOf : SafeCode := by
  intro i eff e
  cases i with
  | add _ | sub _ | and _ | or _ | xor _ | shl _ | shr _ | sra _ | mul _ | mulh _ | mulhu _ | min _ | max _ | minu _ | maxu _
  | andn _ | seq _ | sne _ | slt _ | sltu _ | sle _ | sleu _ | addsh1 _ | addsh2 _ | addsh3 _ | addsh4 _ => exact safe_of_some e (safe_scalarEff _)
  | addi _ | andi _ | ori _ | xori _ | shli _ | shri _ | srai _ | movi _ => exact safe_of_some e (safe_immEff _)
  | sel _ => exact safe_of_some e safe_effSel
  | mov _ | clz _ | ctz _ | popc _ | sextB _ | sextH _ | sextW _ | zextH _ | zextW _ => exact safe_of_some e (safe_unaryEff _)
  | bfx _ => exact safe_of_some e safe_effBfx
  | bfi _ => exact safe_of_some e safe_effBfi
  | lpc _ => exact safe_of_some e safe_effLpc
  | pwld _ => exact safe_of_some e safe_effPwld
  | ldB _ | ldBu _ | ldH _ | ldHu _ | ldW _ | ldWu _ | ldD _ | lda _ => exact safe_of_some e (safe_loadEff _ _ _)
  | stB _ | stH _ | stW _ | stD _ | stl _ => exact safe_of_some e (safe_storeEff _ _)
  | vld _ => exact safe_of_some e safe_effVld
  | vst _ => exact safe_of_some e safe_effVst
  | vlds _ => exact safe_of_some e safe_effVlds
  | amoAdd _ | amoAnd _ | amoOr _ | amoXor _ | amoMin _ | amoMax _ | amoSwp _ | amoCas _ | amoMinu _ | amoMaxu _ | amoFadd _
  | redAdd _ | redMin _ | redMax _ | redFadd _ => exact safe_of_some e (safe_amoEff _ _)
  | vsts _ => exact safe_of_some e safe_effVsts
  | fence _ => exact safe_of_some e safe_effFence
  | mbsend _ => exact safe_of_some e safe_effMbsend
  | mbpeek _ => exact safe_of_some e safe_effMbpeek
  | bbset _ => exact safe_of_some e safe_effBbset
  | bbadd _ => exact safe_of_some e safe_effBbadd
  | bbrd _ => exact safe_of_some e safe_effBbrd
  | cpq _ => exact safe_of_some e safe_effCpq
  | cpqt _ => exact safe_of_some e safe_effCpqt
  | cpcan _ => exact safe_of_some e safe_effCpcan
  | cpst _ => exact safe_of_some e safe_effCpst
  | vgth _ => exact safe_of_some e safe_effVgth
  | vsct _ => exact safe_of_some e safe_effVsct
  | fadd _ | fsub _ | fmul _ | fdiv _ | fmin _ | fmax _ | fsqrt _ | frnd _ => exact safe_of_some e (safe_fpEff _)
  | ffma _ => exact safe_of_some e safe_effFfma
  | feq _ => exact safe_of_some e safe_effFeq
  | flt _ => exact safe_of_some e safe_effFlt
  | fle _ => exact safe_of_some e safe_effFle
  | fcls _ | fabs _ | fneg _ | fsgnj _ => exact safe_of_some e (safe_bitsEff _)
  | fcvt _ => exact safe_of_some e safe_effFcvt
  | ftoi _ => exact safe_of_some e safe_effFtoi
  | ftou _ => exact safe_of_some e safe_effFtou
  | itof _ => exact safe_of_some e safe_effItof
  | utof _ => exact safe_of_some e safe_effUtof
  | vadd _ | vsub _ | vmul _ | vmin _ | vmax _ => exact safe_of_some e (safe_vecEff _)
  | vfma _ => exact safe_of_some e safe_effVfma
  | vsel _ => exact safe_of_some e safe_effVsel
  | vmov _ => exact safe_of_some e safe_effVmov
  | vrcp _ | vrsq _ | vexp2 _ | vlog2 _ | vabs _ | vneg _ => exact safe_of_some e (safe_vecUnary _)
  | vcvt _ => exact safe_of_some e safe_effVcvt
  | vcmp _ => exact safe_of_some e safe_effVcmp
  | viadd _ | visub _ | vimul _ | vand _ | vor _ | vxor _ | vshl _ | vshr _ => exact safe_of_some e (safe_vintEff _)
  | vred _ => exact safe_of_some e safe_effVred
  | vbcst _ => exact safe_of_some e safe_effVbcst
  | vperm _ => exact safe_of_some e safe_effVperm
  | vextr _ => exact safe_of_some e safe_effVextr
  | vins _ => exact safe_of_some e safe_effVins
  | vdot _ => exact safe_of_some e safe_effVdot
  | vpack _ => exact safe_of_some e safe_effVpack
  | vunpk _ => exact safe_of_some e safe_effVunpk
  | vmxq _ => exact safe_of_some e safe_effVmxq
  | vnqq _ => exact safe_of_some e safe_effVnqq
  | vsrs _ => exact safe_of_some e safe_effVsrs
  | kmov _ => exact safe_of_some e safe_effKmov
  | mstr _ | mstrt _ | mdrn _ | macz _ | mbld _ | mbrel _ | maccp _ => exact safe_of_some e (safe_matFormEff _)
  | mcfg _ => exact safe_of_some e safe_effMcfg
  | barv _ => exact safe_of_some e safe_effBarv
  | trig _ => exact safe_of_some e safe_effTrig
  | exit _ => exact safe_of_some e safe_effExit
  | time _ => exact safe_of_some e safe_effTime
  | cyc _ => exact safe_of_some e safe_effCyc
  | _ => cases e

theorem canonNext_issue {s : State} (h : Canon s.mems) {i : Instr} {eff : Eff} (heff : SafeEff eff) {a : Answer} (e : a = .next (s.issue i eff)) :
    CanonNext a := by
  rw [e]
  exact canon_issue h i heff

theorem canon_exec {s : State} (h : Canon s.mems) (i : Instr) : CanonNext (exec i s) := by
  cases i with
  | add _ | sub _ | and _ | or _ | xor _ | shl _ | shr _ | sra _ | mul _ | mulh _ | mulhu _ | min _ | max _ | minu _ | maxu _
  | andn _ | seq _ | sne _ | slt _ | sltu _ | sle _ | sleu _ | addsh1 _ | addsh2 _ | addsh3 _ | addsh4 _ | div _ | divu _
  | rem _ | remu _ => exact canonNext_issue h (safe_scalarEff _) rfl
  | addi _ | andi _ | ori _ | xori _ | shli _ | shri _ | srai _ | movi _ => exact canonNext_issue h (safe_immEff _) rfl
  | sel _ => exact canonNext_issue h safe_effSel rfl
  | mov _ | clz _ | ctz _ | popc _ | sextB _ | sextH _ | sextW _ | zextH _ | zextW _ => exact canonNext_issue h (safe_unaryEff _) rfl
  | bfx _ => exact canonNext_issue h safe_effBfx rfl
  | bfi _ => exact canonNext_issue h safe_effBfi rfl
  | lpc _ => exact canonNext_issue h safe_effLpc rfl
  | pwld _ => exact canonNext_issue h safe_effPwld rfl
  | ldB _ | ldBu _ | ldH _ | ldHu _ | ldW _ | ldWu _ | ldD _ | lda _ => exact canonNext_issue h (safe_loadEff _ _ _) rfl
  | stB _ | stH _ | stW _ | stD _ | stl _ => exact canonNext_issue h (safe_storeEff _ _) rfl
  | vld _ => exact canonNext_issue h safe_effVld rfl
  | vst _ => exact canonNext_issue h safe_effVst rfl
  | vlds _ => exact canonNext_issue h safe_effVlds rfl
  | amoAdd _ | amoAnd _ | amoOr _ | amoXor _ | amoMin _ | amoMax _ | amoSwp _ | amoCas _ | amoMinu _ | amoMaxu _ | amoFadd _
  | redAdd _ | redMin _ | redMax _ | redFadd _ => exact canonNext_issue h (safe_amoEff _ _) rfl
  | vsts _ => exact canonNext_issue h safe_effVsts rfl
  | fence _ => exact canonNext_issue h safe_effFence rfl
  | mwait _ => exact canonNext_issue h safe_effMwait rfl
  | mbsend _ => exact canonNext_issue h safe_effMbsend rfl
  | mbpeek _ => exact canonNext_issue h safe_effMbpeek rfl
  | bbset _ => exact canonNext_issue h safe_effBbset rfl
  | bbadd _ => exact canonNext_issue h safe_effBbadd rfl
  | bbwait _ => exact canonNext_issue h safe_effBbwait rfl
  | bbrd _ => exact canonNext_issue h safe_effBbrd rfl
  | cpq _ => exact canonNext_issue h safe_effCpq rfl
  | cpqt _ => exact canonNext_issue h safe_effCpqt rfl
  | cpcan _ => exact canonNext_issue h safe_effCpcan rfl
  | cpst _ => exact canonNext_issue h safe_effCpst rfl
  | vgth _ => exact canonNext_issue h safe_effVgth rfl
  | vsct _ => exact canonNext_issue h safe_effVsct rfl
  | fadd _ | fsub _ | fmul _ | fdiv _ | fmin _ | fmax _ | fsqrt _ | frnd _ => exact canonNext_issue h (safe_fpEff _) rfl
  | ffma _ => exact canonNext_issue h safe_effFfma rfl
  | feq _ => exact canonNext_issue h safe_effFeq rfl
  | flt _ => exact canonNext_issue h safe_effFlt rfl
  | fle _ => exact canonNext_issue h safe_effFle rfl
  | fcls _ | fabs _ | fneg _ | fsgnj _ => exact canonNext_issue h (safe_bitsEff _) rfl
  | fcvt _ => exact canonNext_issue h safe_effFcvt rfl
  | ftoi _ => exact canonNext_issue h safe_effFtoi rfl
  | ftou _ => exact canonNext_issue h safe_effFtou rfl
  | itof _ => exact canonNext_issue h safe_effItof rfl
  | utof _ => exact canonNext_issue h safe_effUtof rfl
  | beq _ | bne _ | blt _ | bge _ | bltu _ | bgeu _ => exact canonNext_issue h (safe_branchEff _) rfl
  | bbs _ => exact canonNext_issue h safe_effBbs rfl
  | bbc _ => exact canonNext_issue h safe_effBbc rfl
  | br _ _ => exact canonNext_issue h safe_effBr rfl
  | bz _ _ => exact canonNext_issue h safe_effBz rfl
  | bnz _ _ => exact canonNext_issue h safe_effBnz rfl
  | jal _ => exact canonNext_issue h safe_effJal rfl
  | jalr _ => exact canonNext_issue h safe_effJalr rfl
  | ret _ => exact canonNext_issue h safe_effRet rfl
  | loop _ => exact canonNext_issue h safe_effLoop rfl
  | loopi _ => exact canonNext_issue h safe_effLoopi rfl
  | lbrk _ => exact canonNext_issue h safe_effLbrk rfl
  | rep _ => exact canonNext_issue h safe_effRep rfl
  | vadd _ | vsub _ | vmul _ | vmin _ | vmax _ => exact canonNext_issue h (safe_vecEff _) rfl
  | vfma _ => exact canonNext_issue h safe_effVfma rfl
  | vsel _ => exact canonNext_issue h safe_effVsel rfl
  | vmov _ => exact canonNext_issue h safe_effVmov rfl
  | vrcp _ | vrsq _ | vexp2 _ | vlog2 _ | vabs _ | vneg _ => exact canonNext_issue h (safe_vecUnary _) rfl
  | vcvt _ => exact canonNext_issue h safe_effVcvt rfl
  | vcmp _ => exact canonNext_issue h safe_effVcmp rfl
  | viadd _ | visub _ | vimul _ | vand _ | vor _ | vxor _ | vshl _ | vshr _ => exact canonNext_issue h (safe_vintEff _) rfl
  | vred _ => exact canonNext_issue h safe_effVred rfl
  | vbcst _ => exact canonNext_issue h safe_effVbcst rfl
  | vperm _ => exact canonNext_issue h safe_effVperm rfl
  | vextr _ => exact canonNext_issue h safe_effVextr rfl
  | vins _ => exact canonNext_issue h safe_effVins rfl
  | vdot _ => exact canonNext_issue h safe_effVdot rfl
  | vpack _ => exact canonNext_issue h safe_effVpack rfl
  | vunpk _ => exact canonNext_issue h safe_effVunpk rfl
  | vmxq _ => exact canonNext_issue h safe_effVmxq rfl
  | vnqq _ => exact canonNext_issue h safe_effVnqq rfl
  | vsrs _ => exact canonNext_issue h safe_effVsrs rfl
  | kmov _ => exact canonNext_issue h safe_effKmov rfl
  | mstr _ | mstrt _ | mdrn _ | macz _ | mbld _ | mbrel _ | maccp _ => exact canonNext_issue h (safe_matFormEff _) rfl
  | mcfg _ => exact canonNext_issue h safe_effMcfg rfl
  | barv _ => exact canonNext_issue h safe_effBarv rfl
  | bwt _ => exact canonNext_issue h safe_effBwt rfl
  | barw _ | bstep _ => exact canonNext_issue h (safe_arriveWait _) rfl
  | trig _ => exact canonNext_issue h safe_effTrig rfl
  | exit _ => exact canonNext_issue h safe_effExit rfl
  | time _ => exact canonNext_issue h safe_effTime rfl
  | cyc _ => exact canonNext_issue h safe_effCyc rfl
  | hstart _ => exact canonNext_issue h safe_effHstart rfl
  | hend _ => exact canonNext_issue h safe_effHend rfl
  | hjoin _ => exact canonNext_issue h safe_effHjoin rfl
  | fuse _ => exact canonNext_issue h safe_effFuse rfl
  | split _ => exact canonNext_issue h safe_effSplit rfl
  | rejoin _ => exact canonNext_issue h safe_effRejoin rfl
  | jmsk _ => exact canonNext_issue h safe_effJmsk rfl
  | gstat _ => exact canonNext_issue h safe_effGstat rfl
  | srd _ => exact canonNext_issue h safe_effSrd rfl
  | swr _ => exact canonNext_issue h safe_effSwr rfl
  | trap _ => exact canonNext_issue h safe_effTrap rfl
  | eret _ => exact canonNext_issue h safe_effEret rfl
  | park _ => exact canonNext_issue h safe_effPark rfl
  | nop _ => exact canonNext_issue h safe_effNop rfl
  | rlupd _ | rltape _ | rlrev _ | rdreg _ | rdcmp _ => exact canonNext_issue h (safe_ruleFormEff _) rfl
  | rlstat _ => exact canonNext_issue h safe_effRlstat rfl
  | rlver _ => exact canonNext_issue h safe_effRlver rfl
  | rlsw _ => exact canonNext_issue h safe_effRlsw rfl
  | rlwr _ => exact canonNext_issue h safe_effRlwr rfl
  | rlrd _ => exact canonNext_issue h safe_effRlrd rfl
  | rdget _ => exact canonNext_issue h safe_effRdget rfl
  | actOpn _ => exact canonNext_issue h safe_effActOpn rfl
  | actCp _ => exact canonNext_issue h safe_effActCp rfl
  | actCmt _ => exact canonNext_issue h safe_effActCmt rfl
  | actAbn _ => exact canonNext_issue h safe_effActAbn rfl
  | actRet _ => exact canonNext_issue h safe_effActRet rfl
  | actRty _ => exact canonNext_issue h safe_effActRty rfl
  | actSkp _ => exact canonNext_issue h safe_effActSkp rfl
  | actSt _ => exact canonNext_issue h safe_effActSt rfl
  | launch _ => exact canonNext_issue h safe_effLaunch rfl
  | ckpt _ => exact canonNext_issue h safe_effCkpt rfl
  | cpqz _ => exact canonNext_issue h @safe_effCpqz rfl
  | bmem _ => exact canonNext_issue h safe_effBmem rfl
  | lkcfg _ => exact canonNext_issue h safe_effLkcfg rfl
  | mstat _ => exact canonNext_issue h safe_effMstat rfl
  | preq _ => exact canonNext_issue h safe_effPreq rfl
  | twcfg _ => exact canonNext_issue h safe_effTwcfg rfl
  | repReissue => exact canon_execRepReissue h safe_effOf
  | copy cl slot unit => exact canon_execCopy h cl slot unit
  | networkSend cl slot => exact canon_execNetworkSend h cl slot
  | fill cl slot unit => exact canon_execFill h cl slot unit
  | copyAssemblyDiscard core q => exact canon_execCopyAssemblyDiscard h core q
  | copyStart cl => exact canon_execCopyStart h cl
  | copyLanding cl slot unit => exact canon_execCopyLanding h cl slot unit
  | copyCompletion cl slot => exact canon_execCopyCompletion h cl slot
  | mailboxDeferredPost k => exact canon_execMailboxDeferredPost h k
  | messageArrival k => exact canon_execMessageArrival h k
  | messageReturn k => exact canon_execMessageReturn h k
  | messageAcceptNotice k => exact canon_execMessageAcceptNotice h k
  | linkWordArrival k => exact canon_execLinkWordArrival h k
  | heartbeat core => exact canon_execHeartbeat h core
  | heartbeatWindowEnd core => exact canon_execHeartbeatWindowEnd h core
  | globalRequestArrival k => exact canon_execGlobalRequestArrival h k
  | translationWalk k => exact canon_execTranslationWalk h k
  | globalResponse k => exact canon_execGlobalResponse h k
  | xlatInv core => exact canon_execXlatInv h core
  | xlatInvDone core => exact canon_execXlatInvDone h core
  | windowCacheFill core w off => exact canon_execWindowCacheFill h core w off
  | trapMessageHop k => exact canon_execTrapMessageHop h k
  | collectorPost die row => exact canon_execCollectorPost h die row
  | matrixCommandStart cl => exact canon_execMatrixCommandStart h cl
  | matrixCommandComplete cl k => exact canon_execMatrixCommandComplete h cl k
  | reuUpdate k blk => exact canon_execReuUpdate h k blk
  | ruleUpdateCompletion k => exact canon_execRuleUpdateCompletion h k
  | ruleInvalidOp k => exact canon_execRuleInvalidOp h k
  | rltapeCompletion k => exact canon_execRltapeCompletion h k
  | rlrevCompletion k => exact canon_execRlrevCompletion h k
  | rdregCompletion k => exact canon_execRdregCompletion h k
  | rdcmpEnd k => exact canon_execRdcmpEnd h k
  | allReduce k => exact canon_execAllReduce h k
  | allGather k => exact canon_execAllGather h k
  | reduceScatter k => exact canon_execReduceScatter h k
  | collectiveCompletion k => exact canon_execCollectiveCompletion h k
  | barrierRelease ch => exact canon_execBarrierRelease h ch
  | checkpointTimer part => exact canon_execCheckpointTimer h part
  | checkpointPageCopy part blk => exact canon_execCheckpointPageCopy h part blk
  | checkpointComplete part => exact canon_execCheckpointComplete h part
  | compensationStart die seq => exact canon_execCompensationStart h die seq
  | inboxRecordIntake part => exact canon_execInboxRecordIntake h part
  | windowTableRead part lid => exact canon_execWindowTableRead h part lid
  | ageingStep part lid => exact canon_execAgeingStep h part lid
  | launchStart part => exact canon_execLaunchStart h part
  | groupStart core => exact canon_execGroupStart h core
  | launchComplete part lid => exact canon_execLaunchComplete h part lid
  | sliceExpiry core => exact canon_execSliceExpiry h core
  | longWaitExpiry core => exact canon_execLongWaitExpiry h core
  | swapResume core => exact canon_execSwapResume h core
  | preemptEntry core => exact canon_execPreemptEntry h core
  | lateFaultEntry core => exact canon_execLateFaultEntry h core
  | divergeEntry core => exact canon_execDivergeEntry h core
  | resumeMessage k => exact canon_execResumeMessage h k
  | msbSave core => exact canon_execMsbSave h core
  | msbRestore core => exact canon_execMsbRestore h core
  | l2pRemap part lpid entry => exact canon_execL2pRemap h part lpid entry
  | pairedOpArrival k => exact canon_execPairedOpArrival h k
  | pairedOpTimeout k => exact canon_execPairedOpTimeout h k
  | clusterScrub cl => exact canon_execClusterScrub h cl
  | clusterClkoff cl => exact canon_execClusterClkoff h cl
  | serviceControllerTick => exact canon_execServiceControllerTick h
  | borderMoveGrant cl => exact canon_execBorderMoveGrant h cl
  | evidenceRequest fn => exact canon_execEvidenceRequest h fn
  | firmwareActivate => exact canon_execFirmwareActivate h
  | functionLevelReset part => exact canon_execFunctionLevelReset h part
  | packetRetransmit k => exact canon_execPacketRetransmit h k
  | packetAck k => exact canon_execPacketAck h k
  | sahdanCrcReplay lane => exact canon_execSahdanCrcReplay h lane
  | clockStep die set => exact canon_execClockStep h die set
  | clockRelockDone die => exact canon_execClockRelockDone h die
  | powerSample watts => exact canon_execPowerSample h watts
  | thermalStepdown die celsius => exact canon_execThermalStepdown h die celsius
  | thermalTrip die celsius => exact canon_execThermalTrip h die celsius
  | coldReset => exact canon_execColdReset h
  | warmReset => exact canon_execWarmReset h
  | hbmScrubChunk slice => exact @canon_execHbmScrubChunk _ h slice
  | resultDelivery core id => exact canon_execResultDelivery h core id
  | lossOfPower => exact canon_execLossOfPower h
  | securedSessionOpen req => exact canon_execSecuredSessionOpen h req
  | securedSessionClose req => exact canon_execSecuredSessionClose h req
  | keyDelivery part req k m => exact canon_execKeyDelivery h part req k m
  | partRlsWrite part slots => exact canon_execPartRlsWrite h part slots
  | clusterGate cl => exact canon_execClusterGate h cl
  | rangeZeroing k => exact canon_execRangeZeroing h k

/-! ### The turn of whoever moves next -/

/-- What a turn leads to: a state at once, or an instruction or device step in one. -/
def CanonTurn : Turn → Prop
  | .off => True
  | .settled t => Canon t.mems
  | .run _ t => Canon t.mems

theorem canonTurn_ite {c : Prop} [Decidable c] {a b : Turn} (ha : CanonTurn a) (hb : CanonTurn b) : CanonTurn (if c then a else b) := by
  split
  · exact ha
  · exact hb

theorem canon_decodeTurn {s : State} (h : Canon s.mems) (ps : List Parcel) : CanonTurn (s.decodeTurn ps) := by
  unfold State.decodeTurn
  split
  · exact h
  · split
    · exact canon_memsEq h (mems_trapHere _ _)
    · exact canon_memsEq h (mems_trapHere _ _)

theorem canon_fetchTurn {s : State} (h : Canon s.mems) : CanonTurn s.fetchTurn := by
  unfold State.fetchTurn
  split
  · exact canon_fetchStop h (safe_fetch _ h ‹_›)
  · exact canon_decodeTurn (canon_fetch _ h ‹_›) _

theorem canon_memberTurn {s : State} (h : Canon s.mems) : CanonTurn s.memberTurn := by
  unfold State.memberTurn
  split
  · exact canon_decodeTurn (canon_modCx h _) _
  · refine canonTurn_ite ?_ (canonTurn_ite ?_ h)
    · exact canon_memsEq (canon_modMe h (fun hc => hc)) (mems_resolveGang _ _)
    · split
      · exact canon_leaderFetch h ‹_›
      · exact canon_fetchStop h (safe_leaderFetch h ‹_›)

theorem canon_contextTurn {s : State} (h : Canon s.mems) : CanonTurn s.contextTurn := by
  unfold State.contextTurn
  extract_lets s1 replay
  have hs1 : Canon s1.mems := canon_ite (canon_fetchAhead h) h
  clear_value replay
  split
  · exact canon_replayNow hs1 safe_effOf _
  · exact canonTurn_ite hs1 (canonTurn_ite (canon_memberTurn hs1) (canon_fetchTurn hs1))

theorem canon_issueTurn {s : State} (h : Canon s.mems) (p : Nat) : CanonTurn (s.issueTurn p) := by
  unfold State.issueTurn
  refine canonTurn_ite h ?_
  split
  · exact canon_memsEq h (mems_beforeIssue _ _ ‹_›)
  · split
    · exact h
    · rename_i k _
      refine canon_contextTurn ?_
      exact canon_modCore (f := fun c => { c with rr := (k + 1) % 11 }) (canon_cyclesOn h _ _) (fun hc => hc)

theorem canon_turn {s : State} (h : Canon s.mems) : CanonTurn s.turn := by
  unfold State.turn
  split
  · split
    · exact h
    · trivial
  · refine canonTurn_ite h ?_
    split
    · refine canon_issueTurn ?_ _
      exact h
    · refine canon_memsEq ?_ (mems_hostWrite _ _ _ _ _)
      exact h
    · exact canonTurn_ite h h
    · refine canon_issueTurn ?_ _
      exact h
    · refine canon_elapse ?_ _ _ _
      exact h

theorem canon_step {s t : State} (h : Canon s.mems) (e : step s = .next t) : Canon t.mems := by
  have hturn := canon_turn h
  unfold step at e
  split at e
  · cases e
  · rename_i hsettled
    rw [hsettled] at hturn
    cases e
    exact hturn
  · rename_i i u hrun
    rw [hrun] at hturn
    have hnext := canon_exec hturn i
    rw [e] at hnext
    exact hnext

/-- Settles O4: of every function of the model it is proved once whether it leaves all memories as they are (`mems_…`) or keeps them
canonical (`canon_…`); a step is a turn and what it runs. -/
theorem memoriesStayCanonical : Obligations.MemoriesStayCanonical := by
  unfold Obligations.MemoriesStayCanonical
  exact fun _ _ hs hstep => canon_step hs hstep

end Sys2Proof.Machine
end

section
/-! PROOF. Branches and calls (O17): a branch's condition, as the words and as the numbers they stand for. -/

namespace Sys2Proof.Machine

/-- An instruction that answers with one jump of its own, or goes on, jumps so. -/
theorem jumps_intro {s : State} {i : Instr} {eff : Eff} {f : Opnds → Vals → State → Option Word}
    (hx : Sys2Proof.Machine.exec i s = .next (s.issue i eff))
    (h : ∀ v s1, s.starts i = some (v, s1) →
      eff i.opnds v s1 = .ok { st := s1, res := none, jump := f i.opnds v s1 }) : s.jumps i f := by
  refine completes_intro hx ?_
  rintro v s1 s' r jump hs ⟨rfl, rfl, rfl⟩
  exact ⟨h v s' hs, Same.refl _⟩

theorem jumpIf_branchTo {s s1 : State} {i : Instr} {v : Vals} (hs : s.starts i = some (v, s1)) {b c : Bool} (h : b = c)
    (o : Opnds) : jumpIf s1 b (branchTo o s1)
      = .ok { st := s1, res := none, jump := if c then some (s.cx.pc + 2 * o.imm) else none } := by
  rw [← h, ← starts_pc hs]; rfl

/-! The relations of R270, as the words and as their numbers. -/

theorem beq_eq_decide_toNat (a b : Word) : (a == b) = decide (a.toNat = b.toNat) := by
  rw [Bool.beq_eq_decide_eq, decide_eq_decide]; exact BitVec.toNat_inj.symm

theorem bne_eq_decide_toNat (a b : Word) : (a != b) = decide (a.toNat ≠ b.toNat) := by
  rw [bne, beq_eq_decide_toNat, decide_not]

theorem getLsbD_eq_beq_one (a : Word) (n : Nat) : a.getLsbD n = (a.toNat / 2 ^ n % 2 == 1) := by
  rw [BitVec.getLsbD, Nat.testBit_eq_decide_div_mod_eq, Bool.beq_eq_decide_eq]

theorem not_getLsbD_eq_beq_zero (a : Word) (n : Nat) : (!a.getLsbD n) = (a.toNat / 2 ^ n % 2 == 0) := by
  rw [getLsbD_eq_beq_one]
  rcases Nat.mod_two_eq_zero_or_one (a.toNat / 2 ^ n) with h | h <;> rw [h] <;> rfl

theorem getLsbD_zero_of_even {a : Word} (h : a.toNat % 2 = 0) : a.getLsbD 0 = false := by
  rw [getLsbD_eq_beq_one, Nat.pow_zero, Nat.div_one, h]; rfl

theorem branchBitNo_bbs (e : Fields) :
    branchBitNo (Instr.bbs e).opnds = (Instr.bbs e).opnds.yh * 16 + e.y.toNat :=
  congrArg ((Instr.bbs e).opnds.yh * 16 + ·) (Nat.mod_eq_of_lt e.y.isLt)

theorem branchBitNo_bbc (e : Fields) :
    branchBitNo (Instr.bbc e).opnds = (Instr.bbc e).opnds.yh * 16 + e.y.toNat :=
  congrArg ((Instr.bbc e).opnds.yh * 16 + ·) (Nat.mod_eq_of_lt e.y.isLt)

/-- Each conditional branch by its relation, on words and on the numbers that they stand for. -/
theorem branches_jump (e : Fields) (h : BitVec 3) (s : State) :
    let dest (o : Opnds) (b : Bool) : Option Word := if b then some (s.cx.pc + 2 * o.imm) else none
    s.jumps (.beq e) (fun o v _ => dest o (decide (v.x.s.toNat = v.y.s.toNat)))
    ∧ s.jumps (.bne e) (fun o v _ => dest o (decide (v.x.s.toNat ≠ v.y.s.toNat)))
    ∧ s.jumps (.blt e) (fun o v _ => dest o (decide (v.x.s.toInt < v.y.s.toInt)))
    ∧ s.jumps (.bge e) (fun o v _ => dest o (decide (v.y.s.toInt ≤ v.x.s.toInt)))
    ∧ s.jumps (.bltu e) (fun o v _ => dest o (decide (v.x.s.toNat < v.y.s.toNat)))
    ∧ s.jumps (.bgeu e) (fun o v _ => dest o (decide (v.y.s.toNat ≤ v.x.s.toNat)))
    ∧ s.jumps (.bbs e) (fun o v _ => dest o (v.x.s.toNat / 2 ^ (o.yh * 16 + e.y.toNat) % 2 == 1))
    ∧ s.jumps (.bbc e) (fun o v _ => dest o (v.x.s.toNat / 2 ^ (o.yh * 16 + e.y.toNat) % 2 == 0))
    ∧ s.jumps (.br e h) (fun o _ _ => dest o true)
    ∧ s.jumps (.bz e h) (fun o v _ => dest o (decide (v.x.s.toNat = 0)))
    ∧ s.jumps (.bnz e h) (fun o v _ => dest o (decide (v.x.s.toNat ≠ 0))) := by
  intro dest
  refine ⟨?beq, ?bne, ?blt, ?bge, ?bltu, ?bgeu, ?bbs, ?bbc, ?br, ?bz, ?bnz⟩
  case beq => exact jumps_intro (eff := effBeq) rfl fun v _ hs => jumpIf_branchTo hs (beq_eq_decide_toNat v.x.s v.y.s) _
  case bne => exact jumps_intro (eff := effBne) rfl fun v _ hs => jumpIf_branchTo hs (bne_eq_decide_toNat v.x.s v.y.s) _
  case blt => exact jumps_intro (eff := effBlt) rfl fun _ _ hs => jumpIf_branchTo hs rfl _
  case bge => exact jumps_intro (eff := effBge) rfl fun _ _ hs => jumpIf_branchTo hs rfl _
  case bltu => exact jumps_intro (eff := effBltu) rfl fun _ _ hs => jumpIf_branchTo hs rfl _
  case bgeu => exact jumps_intro (eff := effBgeu) rfl fun _ _ hs => jumpIf_branchTo hs rfl _
  case bbs =>
    exact jumps_intro (eff := effBbs) rfl fun v _ hs => by
      rw [← branchBitNo_bbs]; exact jumpIf_branchTo hs (getLsbD_eq_beq_one v.x.s _) _
  case bbc =>
    exact jumps_intro (eff := effBbc) rfl fun v _ hs => by
      rw [← branchBitNo_bbc]; exact jumpIf_branchTo hs (not_getLsbD_eq_beq_zero v.x.s _) _
  case br => exact jumps_intro (eff := effBr) rfl fun _ _ hs => jumpIf_branchTo hs rfl _
  case bz => exact jumps_intro (eff := effBz) rfl fun v _ hs => jumpIf_branchTo hs (beq_eq_decide_toNat v.x.s 0) _
  case bnz => exact jumps_intro (eff := effBnz) rfl fun v _ hs => jumpIf_branchTo hs (bne_eq_decide_toNat v.x.s 0) _

/-- Settles O17: a branch by its relation; a call by the address after it, and by its target's bit 0. -/
theorem branchResults : Obligations.BranchResults := by
  unfold Obligations.BranchResults
  refine ⟨branches_jump, fun e s => ⟨?jal, ?jalr, ?ret⟩⟩
  case jal =>
    refine completes_intro (eff := effJal) rfl ?_
    rintro v s1 s' r jump hs ⟨rfl, rfl, rfl⟩
    exact ⟨by rw [← starts_pc hs]; rfl, Same.refl _⟩
  case jalr =>
    refine completes_intro (eff := effJalr) rfl ?_
    rintro v s1 s' r jump hs ⟨rfl, heven, rfl, rfl⟩
    exact ⟨by rw [← starts_pc hs]; exact if_neg (by rw [getLsbD_zero_of_even heven]; exact Bool.false_ne_true), Same.refl _⟩
  case ret =>
    refine completes_intro (eff := effRet) rfl ?_
    rintro v s1 s' r jump hs ⟨rfl, heven, rfl, rfl⟩
    exact ⟨if_neg (by rw [getLsbD_zero_of_even heven]; exact Bool.false_ne_true), Same.refl _⟩

end Sys2Proof.Machine
end

section
/-! PROOF. Hardware loops and REP (O18): the loop registers, the arming of a repetition, and one reissue of ADD. -/

namespace Sys2Proof.Machine

/-! ### The LOOP family -/

theorem linkOf_starts {s s1 : State} {i : Instr} {v : Vals} (hs : s.starts i = some (v, s1)) (o : Opnds) :
    linkOf o s1 = s.cx.pc + BitVec.ofNat 64 o.len := by rw [← starts_pc hs]; rfl

theorem branchTo_starts {s s1 : State} {i : Instr} {v : Vals} (hs : s.starts i = some (v, s1)) (o : Opnds) :
    branchTo o s1 = s.cx.pc + 2 * o.imm := by rw [← starts_pc hs]; rfl

theorem startLoop_zero (o : Opnds) (s : State) (n : Nat) :
    startLoop o s n 0 = .ok { st := s.modCx (fun x => { x with lc := mset x.lc n 0 }), res := none, jump := some (branchTo o s) } := by
  unfold startLoop
  exact if_pos rfl

theorem startLoop_count (o : Opnds) (s : State) (n : Nat) {c : Word} (hc : c ≠ 0) :
    startLoop o s n c = Done.plain (s.modCx (fun x =>
      { x with ls := mset x.ls n (linkOf o s), le := mset x.le n (branchTo o s), lc := mset x.lc n c })) := by
  unfold startLoop
  exact if_neg hc

/-- An instruction whose effect starts loop `n` with count `c` completes as R158 and R272 say. -/
theorem startLoop_completes {s : State} {i : Instr} {eff : Eff} {len n : Nat} {count : Vals → Word}
    (hx : Sys2Proof.Machine.exec i s = .next (s.issue i eff)) (hlen : i.opnds.len = len)
    (heff : ∀ v s1, eff i.opnds v s1 = startLoop i.opnds s1 n (count v)) :
    s.completes i (fun o v s1 s' r jump => r = none ∧
      if count v = 0 then jump = some (s.cx.pc + 2 * o.imm) ∧ s' = s1.modCx (fun x => { x with lc := mset x.lc n 0 })
      else jump = none ∧ s' = s1.modCx (fun x =>
        { x with ls := mset x.ls n (s.cx.pc + BitVec.ofNat 64 len), le := mset x.le n (s.cx.pc + 2 * o.imm),
                 lc := mset x.lc n (count v) })) := by
  refine completes_intro hx ?_
  subst hlen
  rintro v s1 s' r jump hs ⟨rfl, h⟩
  rw [heff]
  by_cases hc : count v = 0
  · rw [if_pos hc] at h
    obtain ⟨rfl, rfl⟩ := h
    rw [hc, startLoop_zero, branchTo_starts hs]
    exact ⟨rfl, same_modCx _ _⟩
  · rw [if_neg hc] at h
    obtain ⟨rfl, rfl⟩ := h
    rw [startLoop_count _ _ _ hc, branchTo_starts hs, linkOf_starts hs]
    exact ⟨rfl, same_modCx _ _⟩

/-! ### REP -/

/-- Where a hardware loop takes the PC is what the move to the next PC answers. -/
theorem goesTo_none_fst (x : Context) (next : Word) : (x.goesTo next none).1 = (x.advance next).pc := rfl

/-- The repetition that REP arms: the instruction's parcels, the count, and the marks of Y (R159). -/
def armed (o : Opnds) (ps : List Parcel) (n : Nat) : Rep :=
  { parcels := ps.take n, count := o.x + 1, next := 0, sx := o.y.testBit 3, sy := o.y.testBit 2, sz := o.y.testBit 1,
    so := o.y.testBit 0 }

theorem effRep_arms {o : Opnds} {v : Vals} {s s2 : State} {ps : List Parcel} {i : Instr} {n : Nat} {c : Code} {row : Row}
    (hps : s.repParcels o.len = .ok (ps, s2)) (hd : decodeFor (some s2.who) ps = .ok i n) (hc : i.code = some c)
    (hrow : rowAt c.p1 c.maj c.min = some row)
    (hlegal : repLegal c row.shape (o.x + 1) (o.y.testBit 3) (o.y.testBit 2) (o.y.testBit 1) (o.y.testBit 0) = true) :
    effRep o v s = Done.plain (if (s2.cx.goesTo (s2.cx.pc + BitVec.ofNat 64 o.len) none).1 ≠ s2.cx.pc + BitVec.ofNat 64 o.len then s2
      else s2.modCx (fun x => { x with rep := armed o ps n })) := by
  unfold effRep
  rw [hps]; dsimp only
  rw [hd]; dsimp only
  rw [hc]; dsimp only
  rw [hrow]; dsimp only
  rw [hlegal]
  simp only [Bool.not_true, Bool.false_eq_true, if_false, bne_iff_ne, ← goesTo_none_fst]
  by_cases h : (s2.cx.goesTo (s2.cx.pc + BitVec.ofNat 64 o.len) none).1 ≠ s2.cx.pc + BitVec.ofNat 64 o.len
  · rw [if_pos h, if_pos h]
  · rw [if_neg h, if_neg h]; rfl

/-! ### A reissue of ADD -/

theorem formOf_add (f : Fields) : formOf (.add f) = some (⟨false, 1, 0, f⟩, .alu) := rfl

theorem target_alu {f : Fields} (hreg : f.reg = none) (o : Opnds) : Shape.alu.target f o = some o.x := by
  have hzp : f.zp = false := by unfold Fields.zp; rw [hreg]
  have hx : Shape.alu.xUse f = .both := by unfold Shape.xUse; rw [hreg]; rfl
  unfold Shape.target
  rw [hzp, hx]; rfl

/-- Reading the operands changes nothing of the running context. -/
theorem readAll_cx {s s1 : State} {sh : Shape} {e : Fields} {o : Opnds} {w : Window} {v : Vals}
    (h : s.readAll sh e o w = .ok (v, s1)) : s1.cx = s.cx := by
  obtain ⟨hcur, hctx, -⟩ := same_readAll h
  have hc := (kept_readAll h).1 s.cur s.ctx
  unfold State.cx State.me
  rw [hcur, hctx]; exact hc

theorem lane0_bits (w : Word) : lane0 (Res.s w).bits = w := by
  unfold lane0 Res.bits widen
  exact BitVec.setWidth_setWidth_of_le _ (by omega)

/-- A result for a scalar register is written, and pushed in the window, at once. -/
theorem dst_register {s : State} (hl : s.late = false) {n : Nat} (hn : n < 32) (r : Res) (ring : Option Nat) :
    s.dst n r ring = .ok (s.modCx (fun x => x.withRes s.ctx (some n) (some r))) := by
  have hpush : s.pushHead n r = .ok s := by
    unfold State.pushHead
    rw [if_neg (by omega), if_neg (by omega), if_neg (by omega), if_neg (by omega), if_neg (by omega)]
  unfold State.dst
  rw [hpush]; dsimp only
  rw [hl]; rfl

/-- An ADD with these operands sums them into the register that X names. -/
theorem perform_add {s s1 : State} {f : Fields} {o : Opnds} {v : Vals} (hreg : f.reg = none) (hl : s.late = false)
    (hread : s.readAll .alu f o s.cx.win = .ok (v, s1)) (hx : o.x < 32) (ring : Option Nat) :
    s.perform .alu f o effAdd ring
      = .ok (s1.modCx (fun x => x.withRes s1.ctx (some o.x) (some (.s (v.x.s + v.y.s)))), none) := by
  unfold State.perform
  rw [hread]; dsimp only
  unfold effAdd scalarEff Done.result
  dsimp only
  rw [target_alu hreg]; dsimp only
  rw [dst_register ((same_readAll hread).2.2.trans hl) hx]

/-- The context after one reissue of a repetition: the PC moves at the last one only. -/
def Context.reissued (x : Context) (next : Word) (last : Bool) : Context :=
  if last then { x.moved next none with rep := Rep.none }
  else { x with run := (match x.run with
                  | .waiting => .ready
                  | r => r)
                rep := if x.rep.parcels.isEmpty then x.rep else { x.rep with next := x.rep.next + 1 } }

theorem cx_closed (s : State) (b : Core) : (closed s b).cx = s.cx := (quiet_closed s b).cx

/-- A reissue that reads its operands and performs leaves the context so. -/
theorem issueWith_reissue {s u : State} {c : Code} {sh : Shape} {o : Opnds} {eff : Eff} {next : Word} {last : Bool}
    (hwait : isWaitInsn c = false) (hvec : isVector c = false) (hbehind : s.behind c sh o = false)
    (hperform : s.perform sh c.e o eff none = .ok (u, none)) :
    (s.issueWith c sh o eff next (some last)).cx = u.cx.reissued next last := by
  have hissue : s.issueWith c sh o eff next (some last) = match last with
      | true => ((closed u s.me).retire c next none false).modCx (fun x => { x with rep := Rep.none })
      | false => (closed u s.me).modCx (fun x => x.reissued next false) := by
    unfold State.issueWith
    simp only [hwait, hvec, hbehind, hperform, Bool.false_eq_true, if_false, Bool.false_and]
    cases last <;> rfl
  rw [hissue]
  cases last with
  | true =>
    have hmoved := (retire_spec (closed u s.me) c next none false).cx
    rw [State.cx_modCx, hmoved, State.cx_modCx, cx_closed]; rfl
  | false => rw [State.cx_modCx, cx_closed]

theorem repReissue_add {s : State} {f : Fields} {n : Nat} (hparcels : s.cx.rep.parcels ≠ [])
    (hd : decodeFor (some s.who) s.cx.rep.parcels = .ok (.add f) n) :
    Sys2Proof.Machine.exec .repReissue s = .next (s.issueWith ⟨false, 1, 0, f⟩ .alu
      (stagger s.cx.rep (Shape.alu.opnds 0 f) s.cx.rep.next) effAdd (s.cx.pc + BitVec.ofNat 64 (2 * n))
      (some (decide (s.cx.rep.count ≤ s.cx.rep.next + 1)))) := by
  have hexec : Sys2Proof.Machine.exec .repReissue s = execRepReissue s := rfl
  have hreissue : execRepReissue s = .next s.reissue := by
    unfold execRepReissue
    cases hp : s.cx.rep.parcels with
    | nil => exact absurd hp hparcels
    | cons p ps => rfl
  rw [hexec, hreissue]
  unfold State.reissue
  dsimp only
  rw [hd]
  rfl

/-- The registers, the repetition and the PC after a reissue that has written register `n`. -/
theorem reissued_withRes {x : Context} {ctx n : Nat} {w : Word} {next : Word} (h1 : 1 ≤ n) (h2 : n < 32)
    (hparcels : x.rep.parcels ≠ []) (last : Bool) :
    let y := (x.withRes ctx (some n) (some (.s w))).reissued next last
    y.sreg n = w ∧ (∀ m, m ≠ n → y.sreg m = x.sreg m)
      ∧ (last = false → y.rep = { x.rep with next := x.rep.next + 1 } ∧ y.pc = x.pc)
      ∧ (last = true → y.rep = Rep.none ∧ (y.pc, y.lc) = x.goesTo next none) := by
  intro y
  have hsreg : ∀ m, (x.withRes ctx (some n) (some (.s w))).sreg m = sregAfter (some n) m (x.sreg m) (some (.s w)) :=
    withRes_sreg x ctx (some n) (some (.s w))
  have hfields := withRes_other x ctx (some n) (some (.s w))
  obtain ⟨-, hpc, -, -, -, hls, hle, hlc, hrep, -⟩ := hfields
  have hy : ∀ m, y.sreg m = sregAfter (some n) m (x.sreg m) (some (.s w)) := by
    intro m
    rw [← hsreg m]
    cases last with
    | true =>
      obtain ⟨-, -, hs, -⟩ := advance_other (x.withRes ctx (some n) (some (.s w))) next
      exact congrArg (fun r : Map Word => if m = 0 then 0 else mget 0 r m) hs
    | false => rfl
  refine ⟨?_, fun m hm => ?_, ?_, ?_⟩
  · rw [hy]; exact (if_pos ⟨rfl, h1, by omega⟩).trans (lane0_bits w)
  · rw [hy]; exact if_neg fun h => hm (Option.some.inj h.1).symm
  · rintro rfl
    refine ⟨?_, hpc⟩
    have he : x.rep.parcels.isEmpty = false := by simpa using hparcels
    show (if (x.withRes ctx (some n) (some (.s w))).rep.parcels.isEmpty then _ else _) = _
    rw [hrep, he]; rfl
  · rintro rfl
    obtain ⟨hp, hc⟩ := advance_fields x (x.withRes ctx (some n) (some (.s w))) next hls hle hlc
    exact ⟨rfl, Prod.ext hp hc⟩

/-- One reissue of a repeated ADD (R159, R160). -/
theorem reissue_adds {s s1 : State} {f : Fields} {n : Nat} {v : Vals} (hparcels : s.cx.rep.parcels ≠ [])
    (hd : decodeFor (some s.who) s.cx.rep.parcels = .ok (.add f) n) (hreg : f.reg = none) (hl : s.late = false)
    {o : Opnds} (ho : o = stagger s.cx.rep (Shape.alu.opnds 0 f) s.cx.rep.next) (hbehind : s.behind ⟨false, 1, 0, f⟩ .alu o = false)
    (hread : s.readAll .alu f o s.cx.win = .ok (v, s1)) (h1 : 1 ≤ o.x) (h2 : o.x < 32) :
    ∃ t, Sys2Proof.Machine.exec .repReissue s = .next t ∧ t.cx.sreg o.x = v.x.s + v.y.s
      ∧ (∀ m, m ≠ o.x → t.cx.sreg m = s.cx.sreg m)
      ∧ (s.cx.rep.next + 1 < s.cx.rep.count → t.cx.rep = { s.cx.rep with next := s.cx.rep.next + 1 } ∧ t.cx.pc = s.cx.pc)
      ∧ (s.cx.rep.count ≤ s.cx.rep.next + 1 → t.cx.rep = Rep.none
        ∧ (t.cx.pc, t.cx.lc) = s.cx.goesTo (s.cx.pc + BitVec.ofNat 64 (2 * n)) none) := by
  refine ⟨_, repReissue_add hparcels hd, ?_⟩
  rw [← ho, issueWith_reissue rfl rfl hbehind (perform_add hreg hl hread h2 none), State.cx_modCx, readAll_cx hread]
  obtain ⟨hdst, hkeep, hmore, hlast⟩ := reissued_withRes (ctx := s1.ctx) (w := v.x.s + v.y.s)
    (next := s.cx.pc + BitVec.ofNat 64 (2 * n)) h1 h2 hparcels (decide (s.cx.rep.count ≤ s.cx.rep.next + 1))
  exact ⟨hdst, hkeep, fun h => hmore (decide_eq_false (by omega)), fun h => hlast (decide_eq_true h)⟩

/-- Settles O18: the loops by what starts them, REP by the decoded instruction that it finds, the reissue by its ADD. -/
theorem loopResults : Obligations.LoopResults := by
  unfold Obligations.LoopResults
  refine ⟨fun e s => ⟨?loop, ?loopi, ?lbrk⟩, fun e s => ?rep, ?reissue⟩
  case loop => exact startLoop_completes (eff := effLoop) (count := fun v => v.x.s) rfl rfl (fun _ _ => rfl)
  case loopi => exact startLoop_completes (eff := effLoopi) (count := fun _ => _) rfl rfl (fun _ _ => rfl)
  case lbrk =>
    refine completes_intro (eff := effLbrk) rfl ?_
    rintro v s1 s' r jump - ⟨rfl, rfl, rfl⟩
    exact ⟨rfl, same_modCx _ _⟩
  case rep =>
    refine completes_intro (eff := effRep) rfl ?_
    rintro v s1 s' r jump - ⟨rfl, rfl, ps, s2, i, n, c, row, hps, hd, hc, hrow, hcur, hctx, hlate, hlegal, rfl⟩
    refine ⟨effRep_arms hps hd hc hrow hlegal, ?_⟩
    split
    · exact ⟨hcur, hctx, hlate⟩
    · exact Same.trans ⟨hcur, hctx, hlate⟩ (same_modCx _ _)
  case reissue =>
    intro s f n c sh v s1 hparcels hd hform hreg hl r o hbehind hread h1 h2
    obtain ⟨rfl, rfl⟩ := Prod.mk.inj (Option.some.inj ((formOf_add f).symm.trans hform))
    exact reissue_adds hparcels hd hreg hl rfl hbehind hread h1 h2

end Sys2Proof.Machine
end

section
/-! PROOF. Barriers (O29): what an arrival records, what a wait sees of it, and how an instruction waits. -/

namespace Sys2Proof.Machine

/-! ### Issuing an instruction that stops -/

/-- An instruction that takes no ring entry, and whose effect stops, is issued as the stop says. -/
theorem issue_of_stop {i : Instr} {c : Code} {sh : Shape} {s s1 : State} {v : Vals} {eff : Eff} {st : Stop} (hform : formOf i = some (c, sh))
    (hvector : isVector c = false) (h : s.starts i = some (v, s1)) (he : eff i.opnds v s1 = .error st) :
    s.issue i eff = (if isWaitInsn c then s.dropAsm s.cur s.ctx else s).stopped c st := by
  obtain ⟨hc, r, hrow, rfl⟩ := row_of_formOf hform
  have hopnds := opnds_of_formOf hform
  have hbegin : s.begin i = some (if isWaitInsn c then s.dropAsm s.cur s.ctx else s) := by
    unfold State.begin
    rw [hform]
    simp [hvector]
  unfold State.starts at h
  rw [hform, hbegin] at h
  split at h
  swap
  · cases h
  rename_i hissues
  unfold State.issues at hissues
  rw [hform] at hissues
  simp only [Bool.and_eq_true, Bool.not_eq_true'] at hissues
  obtain ⟨⟨⟨hwell, hlevel⟩, hbehind⟩, -⟩ := hissues
  have hlegal : s.subsOf i c r.shape = [] := (wellFormedFor_iff hform s).1 hwell
  have hbehind' : (if isWaitInsn c then s.dropAsm s.cur s.ctx else s).behind c r.shape (r.shape.opnds c.min c.e) = false := by
    split
    · rw [behind_dropAsm]; exact hbehind
    · exact hbehind
  unfold State.issue
  rw [hc]; dsimp only; rw [hrow]; dsimp only
  rw [show i.subcauses ++ subIf (c.barred r.shape s.who) 7 = [] from hlegal, hlevel]
  unfold State.issueWith
  generalize (if isWaitInsn c then s.dropAsm s.cur s.ctx else s) = u at h hbehind'
  dsimp only at h ⊢
  rw [hbehind', hvector]
  split at h
  · cases h
  · rename_i hread
    cases h
    have hperform : u.perform r.shape c.e (r.shape.opnds c.min c.e) eff none = .error st := by
      unfold State.perform
      rw [hread]; dsimp only; rw [← hopnds, he]
    rw [hperform]; rfl

/-- An instruction that reads no operand starts in the state in which it is issued, or without its context's partial records. -/
theorem starts_readless {i : Instr} {c : Code} {sh : Shape} {s s1 : State} {v : Vals} (hform : formOf i = some (c, sh))
    (hvector : isVector c = false) (hx : (sh.xUse c.e).reads = false) (hy : (sh.yUse c.e).reads = false) (hz : sh.z = .none)
    (h : s.starts i = some (v, s1)) : s1 = if isWaitInsn c then s.dropAsm s.cur s.ctx else s := by
  have hbegin : s.begin i = some (if isWaitInsn c then s.dropAsm s.cur s.ctx else s) := by
    unfold State.begin
    rw [hform]
    simp [hvector]
  unfold State.starts at h
  rw [hform, hbegin] at h
  split at h
  swap
  · cases h
  dsimp only at h
  split at h
  · cases h
  · rename_i r hread
    cases h
    obtain ⟨t1, t2, h1, h2, h3⟩ := readAll_fields hread
    rw [hx] at h1
    rw [hy] at h2
    rw [hz, show (ZUse.none == ZUse.src) = false from rfl, Bool.and_false] at h3
    have e1 := (Prod.mk.inj (Except.ok.inj h1)).2
    have e2 := (Prod.mk.inj (Except.ok.inj h2)).2
    have e3 := (Prod.mk.inj (Except.ok.inj h3)).2
    exact e3.symm.trans (e2.symm.trans e1.symm)

/-! ### The fields of CTX.TSW that an arrival writes (R279) -/

theorem getLsbD_wput_below (x : Word) {pos width n k : Nat} (hk : k < pos) (hk64 : k < 64) (hn : n < 2 ^ 64) :
    (wput x pos width n).getLsbD k = x.getLsbD k := by
  have h := getLsbD_wput x (BitVec.ofNat 64 n) pos width k hk64
  rwa [BitVec.toNat_ofNat, Nat.mod_eq_of_lt hn, if_neg (by omega)] at h

theorem arpOf_withArrival (t : Word) {ch : Nat} (hch : ch < 64) (r : BitVec 8) : arpOf (withArrival t ch r) = true := by
  have hr : r.toNat < 2 ^ 8 := r.isLt
  unfold arpOf withArrival
  rw [getLsbD_wput_below _ (by omega) (by omega) (by omega), getLsbD_wput_below _ (by omega) (by omega) (by omega), orBit]
  simp

theorem bchOf_withArrival (t : Word) {ch : Nat} (hch : ch < 64) (r : BitVec 8) : bchOf (withArrival t ch r) = ch := by
  have hr : r.toNat < 2 ^ 8 := r.isLt
  have ht : (orBit t 16).toNat < 2 ^ 64 := (orBit t 16).isLt
  unfold bchOf withArrival wput wfield withBits bits
  simp only [BitVec.toNat_ofNat]
  omega

theorem bphOf_withArrival (t : Word) (ch : Nat) (r : BitVec 8) : bphOf (withArrival t ch r) = r.toNat := by
  have hr : r.toNat < 2 ^ 8 := r.isLt
  have ht : (wput (orBit t 16) 17 6 ch).toNat < 2 ^ 64 := (wput (orBit t 16) 17 6 ch).isLt
  unfold bphOf withArrival
  generalize wput (orBit t 16) 17 6 ch = w at ht
  unfold wput wfield withBits bits
  simp only [BitVec.toNat_ofNat]
  omega

/-! ### Members of a channel -/

/-- The running core, whose logical number is `l`, is a member of channel `ch` in its partition `q` (R278). -/
structure OnChannel (s : State) (q l ch : Nat) : Prop where
  part : s.partOf s.cur = some q
  lpid : s.me.lpid = some l
  owned : (s.part q).bch.getLsbD ch = true
  chanPart : (s.chan (s.myChan ch)).part = q
  member : l ∈ (s.chan (s.myChan ch)).members

theorem OnChannel.lt {s : State} {q l ch : Nat} (h : OnChannel s q l ch) : ch < 64 := by
  by_contra hge
  have := h.owned
  rw [BitVec.getLsbD_of_ge _ _ (by omega)] at this
  cases this

/-- The state after the running core's arrival on channel `ch` as logical core `l`. -/
def State.arriving (s : State) (l ch : Nat) (step : Bool) : State :=
  (s.modChan (s.myChan ch) (fun c => { c with
    arr := c.arr ++ [{ lpid := l, step := step, core := s.cur, bound := s.me.opNo }] })).modCx (fun x =>
      { x with tsw := withArrival x.tsw ch (s.rcnt ch) })

/-- A member's arrival, by what its context has noted before. -/
theorem arrive_member {s : State} {q l ch : Nat} (h : OnChannel s q l ch) (step : Bool) :
    s.arrive ch step = if arpOf s.cx.tsw && bchOf s.cx.tsw != ch then .error (barrierTrap 2 ch)
      else if arpOf s.cx.tsw then .ok s
      else if (s.chan (s.myChan ch)).arr.any (fun a => a.lpid == l) then .error (barrierTrap 3 ch)
      else .ok (s.arriving l ch step) := by
  obtain ⟨hq, hl, hb, hp, hm⟩ := h
  unfold State.arrive
  rw [hq, hl]
  dsimp only
  rw [hb, hp, List.contains_iff_mem.2 hm]
  simp only [Bool.not_true, bne_self_eq_false, Bool.or_self, Bool.false_eq_true, if_false]
  rfl

theorem arrive_of_here {s : State} {q l ch : Nat} (h : OnChannel s q l ch) (harp : arpOf s.cx.tsw = true) (hbch : bchOf s.cx.tsw = ch)
    (step : Bool) : s.arrive ch step = .ok s := by
  rw [arrive_member h, harp, hbch]
  simp

theorem arrive_of_fresh {s : State} {q l ch : Nat} (h : OnChannel s q l ch) (harp : arpOf s.cx.tsw = false)
    (hnone : ∀ a ∈ (s.chan (s.myChan ch)).arr, a.lpid ≠ l) (step : Bool) : s.arrive ch step = .ok (s.arriving l ch step) := by
  have hany : (s.chan (s.myChan ch)).arr.any (fun a => a.lpid == l) = false := by
    rw [List.any_eq_false]
    exact fun a ha => by simpa using hnone a ha
  rw [arrive_member h, harp, hany]
  simp

/-! An arrival changes no count of releases, so that it is not released by itself. -/

/-- The running core sees the same channels' members and releases in two states. -/
structure SameChannels (s t : State) : Prop where
  cur : t.cur = s.cur
  clusters : t.clusters = s.clusters
  lpid : t.me.lpid = s.me.lpid
  joined : ∀ k, (t.chan k).joined = (s.chan k).joined
  part : ∀ k, (t.chan k).part = (s.chan k).part
  members : ∀ k, (t.chan k).members = (s.chan k).members
  counts : ∀ k, (t.chan k).rcnt = (s.chan k).rcnt

theorem SameChannels.partOf {s t : State} (h : SameChannels s t) (p : Nat) : t.partOf p = s.partOf p := by
  unfold State.partOf State.cluster
  rw [h.clusters]

theorem SameChannels.memberOf {s t : State} (h : SameChannels s t) (k : Nat) : t.memberOf k = s.memberOf k := by
  unfold State.memberOf
  rw [h.partOf, h.cur, h.lpid, h.part, h.members]

theorem SameChannels.myChan {s t : State} (h : SameChannels s t) (ch : Nat) : t.myChan ch = s.myChan ch := by
  unfold State.myChan State.chanKey
  simp only [h.cur, h.joined, h.memberOf]

theorem SameChannels.rcnt {s t : State} (h : SameChannels s t) (ch : Nat) : t.rcnt ch = s.rcnt ch := by
  unfold State.rcnt
  rw [h.joined, h.myChan, h.cur, h.counts]

theorem SameChannels.onChannel {s t : State} (h : SameChannels s t) (hparts : t.parts = s.parts) {q l ch : Nat}
    (hon : OnChannel s q l ch) : OnChannel t q l ch := by
  obtain ⟨hq, hl, hb, hp, hm⟩ := hon
  refine ⟨?_, h.lpid.trans hl, ?_, ?_, ?_⟩
  · rw [h.partOf, h.cur, hq]
  · unfold State.part at hb ⊢; rw [hparts]; exact hb
  · rw [h.myChan, h.part, hp]
  · rw [h.myChan, h.members]; exact hm

theorem sameChannels_dropAsm (s : State) : SameChannels s (s.dropAsm s.cur s.ctx) := by
  refine ⟨rfl, rfl, ?_, fun _ => rfl, fun _ => rfl, fun _ => rfl, fun _ => rfl⟩
  unfold State.dropAsm State.me
  rw [State.modCore_cur, State.core_modCore_self, Core.modContext_lpid]

theorem opNo_dropAsm (s : State) : (s.dropAsm s.cur s.ctx).me.opNo = s.me.opNo := by
  unfold State.dropAsm State.me
  rw [State.modCore_cur, State.core_modCore_self, Core.modContext_opNo]

theorem sameChannels_arriving (s : State) (l ch : Nat) (step : Bool) : SameChannels s (s.arriving l ch step) := by
  have hlpid : (s.arriving l ch step).me.lpid = s.me.lpid := by
    unfold State.arriving
    rw [State.me_modCx, Core.modContext_lpid]; rfl
  have hchan : ∀ k, ∃ arr, (s.arriving l ch step).chan k = { s.chan k with arr := arr } := by
    intro k
    by_cases hk : k = s.myChan ch
    · subst hk; exact ⟨_, mget_mset_self _ _ _ _⟩
    · exact ⟨(s.chan k).arr, (mget_mset _ _ _ _ _).trans (if_neg hk)⟩
  refine ⟨rfl, rfl, hlpid, fun k => ?_, fun k => ?_, fun k => ?_, fun k => ?_⟩ <;> obtain ⟨arr, harr⟩ := hchan k <;> rw [harr]

theorem arriving_tsw (s : State) (l ch : Nat) (step : Bool) : (s.arriving l ch step).cx.tsw = withArrival s.cx.tsw ch (s.rcnt ch) := by
  unfold State.arriving
  rw [State.cx_modCx]; rfl

theorem arriving_unfinished (s : State) (l ch : Nat) (step : Bool) : (s.arriving l ch step).finished ch = false := by
  unfold State.finished
  rw [(sameChannels_arriving s l ch step).rcnt, arriving_tsw, bphOf_withArrival]
  exact decide_eq_false (fun h => h rfl)

/-! ### Arriving and waiting -/

theorem arriveWait_here {o : Opnds} {v : Vals} {s : State} (harp : arpOf s.cx.tsw = true) (hbch : bchOf s.cx.tsw = channelOf o)
    (hfin : s.finished (channelOf o) = true) (step : Bool) : arriveWait step o v s = Done.plain s.finish := by
  unfold arriveWait
  rw [harp, hbch, hfin]
  simp

/-- A fresh arrival waits, and is there while its instruction waits. -/
theorem arriveWait_fresh {o : Opnds} {v : Vals} {s : State} {q l : Nat} (h : OnChannel s q l (channelOf o)) (harp : arpOf s.cx.tsw = false)
    (hnone : ∀ a ∈ (s.chan (s.myChan (channelOf o))).arr, a.lpid ≠ l) (step : Bool) :
    arriveWait step o v s = .error (.hold (fun s => match s.arrive (channelOf o) step with
      | .error _ => s
      | .ok t => t)) := by
  unfold arriveWait
  rw [harp, arrive_of_fresh h harp hnone]
  dsimp only
  rw [arriving_unfinished]
  rfl

/-- What a context that waits here keeps, and how it stands. -/
theorem waitHere_context (s : State) (c : Code) :
    (s.waitHere c).cx = { s.cx with run := .waiting } ∧ ∀ k, (s.waitHere c).chan k = s.chan k := by
  unfold State.waitHere
  dsimp only
  split
  · refine ⟨?_, fun k => rfl⟩
    rw [State.cx_modMe]
    exact State.cx_modCx s (fun x => { x with run := .waiting })
  · exact ⟨State.cx_modCx s _, fun k => rfl⟩

/-- A barrier instruction that arrives and waits: its context waits at it, with its arrival in the channel. -/
theorem arriveWait_waits {i : Instr} {c : Code} {s s1 : State} {v : Vals} {q l ch : Nat} {step : Bool}
    (hform : formOf i = some (c, .barrier)) (hvector : isVector c = false) (hwait : isWaitInsn c = true) (hch : channelOf i.opnds = ch)
    (hon : OnChannel s q l ch) (hs : s.starts i = some (v, s1)) (harp : arpOf s1.cx.tsw = false)
    (hnone : ∀ a ∈ (s.chan (s.myChan ch)).arr, a.lpid ≠ l) :
    let t := s.issue i (arriveWait step)
    t.cx.run = .waiting ∧ t.cx.pc = s.cx.pc
      ∧ (t.chan (s.myChan ch)).arr = (s.chan (s.myChan ch)).arr ++ [{ lpid := l, step := step, core := s.cur, bound := s.me.opNo }]
      ∧ arpOf t.cx.tsw = true ∧ bchOf t.cx.tsw = ch := by
  have hread : s1 = s.dropAsm s.cur s.ctx := (starts_readless hform hvector rfl rfl rfl hs).trans (if_pos hwait)
  have hsame : SameChannels s s1 := hread ▸ sameChannels_dropAsm s
  have hop : s1.me.opNo = s.me.opNo := by rw [hread]; exact opNo_dropAsm s
  have hchans : s1.chans = s.chans := by rw [hread]; rfl
  have hon1 : OnChannel s1 q l ch := hsame.onChannel (by rw [hread]; rfl) hon
  have hnone1 : ∀ a ∈ (s1.chan (s1.myChan ch)).arr, a.lpid ≠ l := by
    unfold State.chan at hnone ⊢
    rwa [hsame.myChan, hchans]
  subst hch
  have hstop := issue_of_stop hform hvector hs (arriveWait_fresh hon1 harp hnone1 step)
  rw [if_pos hwait, ← hread] at hstop
  intro t
  have ht : t = (s1.arriving l (channelOf i.opnds) step).waitHere c := by
    refine hstop.trans ?_
    unfold State.stopped
    dsimp only
    rw [arrive_of_fresh hon1 harp hnone1]
  obtain ⟨hcx, hchan⟩ := waitHere_context (s1.arriving l (channelOf i.opnds) step) c
  have hpc : (s1.arriving l (channelOf i.opnds) step).cx.pc = s1.cx.pc := by unfold State.arriving; rw [State.cx_modCx]; rfl
  have htsw := arriving_tsw s1 l (channelOf i.opnds) step
  rw [ht]
  refine ⟨by rw [hcx], by rw [hcx]; exact hpc.trans (starts_pc hs), ?_, ?_, ?_⟩
  · rw [hchan, ← hop, ← hsame.cur, ← hsame.myChan]
    refine (congrArg Channel.arr (mget_mset_self _ _ _ _)).trans ?_
    unfold State.chan
    rw [hchans]
  · rw [hcx]; exact (congrArg arpOf htsw).trans (arpOf_withArrival _ hon.lt _)
  · rw [hcx]; exact (congrArg bchOf htsw).trans (bchOf_withArrival _ hon.lt _)

/-- An instruction that arrives and waits completes once its context has noted the arrival and the release has come. -/
theorem arriveWait_completes {i : Instr} {s : State} {ch : Nat} {now : BitVec 8} {step : Bool} (hch : channelOf i.opnds = ch)
    (hx : Sys2Proof.Machine.exec i s = .next (s.issue i (arriveWait step)))
    (hnow : ∀ v s1, s.starts i = some (v, s1) → s1.rcnt ch = now) :
    s.completes i (fun _ _ s1 s' r jump => r = none ∧ jump = none
      ∧ (s1.cx.tsw.getLsbD 16 = true ∧ s1.cx.tsw.toNat / 2 ^ 17 % 2 ^ 6 = ch) ∧ now.toNat ≠ s1.cx.tsw.toNat / 2 ^ 23 % 2 ^ 8
      ∧ s' = s1.modCx (fun x => { x with tsw := x.tsw &&& ~~~(1#64 <<< 16) })) := by
  subst hch
  refine completes_intro hx ?_
  rintro v s1 s' r jump hs ⟨rfl, rfl, ⟨harp, hbch⟩, hgone, rfl⟩
  have hfin : s1.finished (channelOf i.opnds) = true := by
    unfold State.finished
    rw [hnow v s1 hs]
    exact decide_eq_true hgone
  exact ⟨arriveWait_here harp hbch hfin step, same_modCx _ _⟩

/-- Settles O29: a member's arrival by what its context has noted, a wait by the release count. -/
theorem barrierArrivals : Obligations.BarrierArrivals := by
  unfold Obligations.BarrierArrivals
  intro e s q l hq hl ch key hb hp hm here now gone arrival fresh clear
  have hon : OnChannel s q l ch := ⟨hq, hl, hb, hp, hm⟩
  have hwaits : ∀ {i : Instr} {c : Code} {v : Vals} {s1 : State}, formOf i = some (c, .barrier) → isVector c = false →
      isWaitInsn c = true → s.starts i = some (v, s1) → s1.rcnt ch = s.rcnt ch := by
    intro i c v s1 hform hvector hwait hs
    rw [(starts_readless hform hvector rfl rfl rfl hs).trans (if_pos hwait), (sameChannels_dropAsm s).rcnt]
  refine ⟨?barv, ?bwt, ?barw, ?bstep, ?wait⟩
  case barv =>
    refine completes_intro (eff := effBarv) rfl ?_
    rintro v s1 s' r jump hs ⟨rfl, rfl, h⟩
    obtain rfl : s1 = s := starts_readless (c := ⟨false, 27, 0, e⟩) (sh := .barrier) rfl rfl rfl rfl rfl hs
    have hchannel : channelOf (Instr.barv e).opnds = ch := rfl
    unfold effBarv
    rw [hchannel]
    rcases h with ⟨⟨harp, hbch⟩, rfl⟩ | ⟨⟨harp, hnone⟩, rfl⟩
    · rw [arrive_of_here hon harp hbch]
      exact ⟨rfl, Same.refl _⟩
    · rw [arrive_of_fresh hon harp hnone]
      exact ⟨rfl, same_modCx _ _⟩
  case bwt =>
    refine completes_intro (eff := effBwt) rfl ?_
    rintro v s1 s' r jump hs ⟨rfl, rfl, h⟩
    have hchannel : channelOf (Instr.bwt e).opnds = ch := rfl
    have hrcnt : s1.rcnt ch = now := hwaits (c := ⟨false, 27, 1, e⟩) rfl rfl rfl hs
    unfold effBwt
    rw [hchannel]
    rcases h with ⟨hhere, rfl⟩ | ⟨⟨harp, hbch⟩, hgone, rfl⟩
    · exact ⟨if_neg (by rw [Bool.and_eq_true, beq_iff_eq]; exact hhere), Same.refl _⟩
    · have hfin : s1.finished ch = true := by
        unfold State.finished
        rw [hrcnt]
        exact decide_eq_true hgone
      refine ⟨?_, same_modCx _ _⟩
      rw [if_pos (by rw [Bool.and_eq_true, beq_iff_eq]; exact ⟨harp, hbch⟩), if_pos hfin]
      rfl
  case barw =>
    exact arriveWait_completes (step := false) rfl rfl fun _ _ hs => hwaits (c := ⟨false, 27, 2, e⟩) rfl rfl rfl hs
  case bstep =>
    exact arriveWait_completes (step := true) rfl rfl fun _ _ hs => hwaits (c := ⟨false, 27, 3, e⟩) rfl rfl rfl hs
  case wait =>
    rintro v s1 i step (h | h) hs ⟨harp, hnone⟩ <;> obtain ⟨rfl, rfl⟩ := Prod.mk.inj h
    · obtain ⟨hrun, hpc, harr, harp', hbch⟩ := arriveWait_waits (i := .barw e) (ch := ch) (step := false) (c := ⟨false, 27, 2, e⟩) rfl rfl rfl rfl hon hs harp hnone
      exact ⟨_, rfl, hrun, hpc, harr, harp', hbch⟩
    · obtain ⟨hrun, hpc, harr, harp', hbch⟩ := arriveWait_waits (i := .bstep e) (ch := ch) (step := true) (c := ⟨false, 27, 3, e⟩) rfl rfl rfl rfl hon hs harp hnone
      exact ⟨_, rfl, hrun, hpc, harr, harp', hbch⟩

end Sys2Proof.Machine
end

section
/-! PROOF. Groups and counters (O30): EXIT ends the wait of a core at a FUSE with this one, whose gang may then take this core in again. -/

namespace Sys2Proof.Machine

/-- An instruction without prefixes and operands. -/
def bareFields : Fields := { page := false, mod := none, reg := none, imms := [], x := 0, y := 0 }

/-- Core 1 waits at a FUSE with cores 0 and 2, and its mask of the fused has them already. -/
def fuseWaiter : Core :=
  { Core.fresh with
    ctl := { Context.blank .waiting 0 with pc := 0x400 }, lpid := some 1, memb := 7, meet := some (true, 7, 0x400, 0x402) }

/-- Cores 0 to 2 of cluster 0 are assigned; core 1 counts cores 0 and 2 as fused with it, and they do not. -/
def unequalMasks : State :=
  { State.reset with
    cores := [(0, { Core.fresh with ctl := Context.blank .ready 0, lpid := some 0 }), (1, fuseWaiter),
      (2, { Core.fresh with ctl := Context.blank .ready 0, lpid := some 2 })] }

theorem unequalMasks_starts : ∃ v, unequalMasks.starts (.exit bareFields) = some (v, unequalMasks) := ⟨_, rfl⟩

/-- The FUSE that waits for core 0 traps, core 1 leaves its gang, and the gang's mask without it is given to core 0, which has exited. -/
theorem unequalMasks_exit_memb :
    (match Sys2Proof.Machine.exec (.exit bareFields) unequalMasks with
      | .next t => t.me.memb
      | _ => 0) = 5 := by decide +kernel

/-- Refutes O30: its last part gives the core that has exited the mask 0 in every state, also where another core's mask of the fused names
this one and not the reverse: with `unequalMasks` the mask becomes 5. -/
theorem not_groupInstructionResults : ¬ Obligations.GroupInstructionResults := by
  unfold Obligations.GroupInstructionResults
  intro h
  obtain ⟨v, hstarts⟩ := unequalMasks_starts
  obtain ⟨-, -, -, hexit⟩ := h bareFields unequalMasks
  obtain ⟨t, hnext, -, -, -, -, -, -, -, hmemb, -⟩ := hexit v unequalMasks hstarts (by decide +kernel) (by decide +kernel)
  have hfive := unequalMasks_exit_memb
  rw [hnext] at hfive
  exact absurd (hfive.symm.trans hmemb) (by decide)

end Sys2Proof.Machine
end

section
/-! PROOF. Helpers (O31): which helper is free, and what a started one holds. -/

namespace Sys2Proof.Machine

/-! ### The lowest-numbered free helper -/

theorem freeHelperNo_none {c : Core} (h : ∀ k, 1 ≤ k → k ≤ 10 → (c.context k).run ≠ .free) : c.freeHelperNo = none := by
  refine List.find?_eq_none.2 (fun k hk => ?_)
  have hk10 : k < 11 := List.mem_range.1 hk
  rw [Bool.and_eq_true, bne_iff_ne, beq_iff_eq]
  rintro ⟨hk0, hrun⟩
  exact h k (by omega) (by omega) hrun

theorem freeHelperNo_some {c : Core} {k : Nat} (h1 : 1 ≤ k) (h10 : k ≤ 10) (hfree : (c.context k).run = .free)
    (hbelow : ∀ j, 1 ≤ j → j < k → (c.context j).run ≠ .free) : c.freeHelperNo = some k := by
  refine List.find?_range_eq_some.2 ⟨?_, List.mem_range.2 (by omega), fun j hj => ?_⟩
  · rw [Bool.and_eq_true, bne_iff_ne, beq_iff_eq]
    exact ⟨by omega, hfree⟩
  · rw [Bool.not_eq_true', Bool.and_eq_false_iff, bne_eq_false_iff_eq, beq_eq_false_iff_ne]
    by_cases hj0 : j = 0
    · exact .inl hj0
    · exact .inr (hbelow j (by omega) hj)

/-! ### HSTART, HJOIN, HEND -/

theorem level_eq (s : State) : s.level = s.cx.tsw.toNat % 4 := wfield_low s.cx.tsw 2

theorem effHstart_full {o : Opnds} {v : Vals} {s : State} (heven : v.x.s.getLsbD 0 = false)
    (h : ∀ k, 1 ≤ k → k ≤ 10 → (s.me.context k).run ≠ .free) : effHstart o v s = Done.result s (.s 0) := by
  unfold effHstart
  dsimp only
  rw [heven, freeHelperNo_none h]
  rfl

theorem effHstart_free {o : Opnds} {v : Vals} {s : State} {k : Nat} (heven : v.x.s.getLsbD 0 = false) (h1 : 1 ≤ k) (h10 : k ≤ 10)
    (hfree : (s.me.context k).run = .free) (hbelow : ∀ j, 1 ≤ j → j < k → (s.me.context j).run ≠ .free) :
    effHstart o v s = Done.result (s.modMe (fun c => c.modContext k (fun x =>
      startedHelper x v.x.s v.y.s (BitVec.ofNat 64 k) 0 (s.cx.tsw.toNat % 4)))) (.s (BitVec.ofNat 64 k)) := by
  unfold effHstart
  dsimp only
  rw [heven, freeHelperNo_some h1 h10 hfree hbelow, level_eq]
  rfl

theorem effHjoin_none {o : Opnds} {v : Vals} {s : State} (h : v.y.s.toNat % 16 = 0 ∨ 10 < v.y.s.toNat % 16) :
    effHjoin o v s = Done.result s (.s 0) := by
  unfold effHjoin
  rw [wfield_low]
  exact if_pos (by rw [Bool.or_eq_true, decide_eq_true_eq, decide_eq_true_eq]; exact h)

theorem effHjoin_free {o : Opnds} {v : Vals} {s : State} (h1 : 1 ≤ v.y.s.toNat % 16) (h10 : v.y.s.toNat % 16 ≤ 10)
    (hfree : (s.me.context (v.y.s.toNat % 16)).run = .free) :
    effHjoin o v s = Done.result s (.s (s.me.context (v.y.s.toNat % 16)).endWord) := by
  unfold effHjoin
  rw [wfield_low]
  refine (if_neg ?_).trans (if_pos hfree)
  rw [Bool.or_eq_true, decide_eq_true_eq, decide_eq_true_eq]
  omega

theorem effHend_plain {o : Opnds} {v : Vals} {s : State} (hcomp : s.cx.comp = none) :
    effHend o v s = Done.plain ((s.modCx (fun x => { x with endWord := v.x.s })).freeHelper s.cur s.ctx) := by
  unfold effHend
  rw [hcomp]

/-! ### What a started helper holds (R274) -/

theorem startedHelper_sreg (x : Context) (pc a b c : Word) (lvl n : Nat) :
    (startedHelper x pc a b c lvl).sreg n = if n = 0 then 0 else if n = 3 then c else if n = 2 then b else if n = 1 then a else 0 := by
  by_cases h0 : n = 0
  · rw [if_pos h0]; exact if_pos h0
  rw [if_neg h0]
  have hread : (startedHelper x pc a b c lvl).sreg n = if n ≤ 3 then (((x.setS 1 a).setS 2 b).setS 3 c).sreg n else 0 := by
    unfold Context.sreg
    rw [if_neg h0, if_neg h0]
    unfold mget startedHelper
    rw [mfind_filter_key _ (fun k => decide (k ≤ 3))]
    by_cases h3 : n ≤ 3
    · rw [if_pos (decide_eq_true h3), if_pos h3]
    · rw [if_neg (by simpa using h3), if_neg h3]
  rw [hread, sreg_setS _ (by decide), sreg_setS _ (by decide), sreg_setS _ (by decide)]
  by_cases h3 : n = 3
  · rw [if_pos (by omega), if_pos h3, if_pos h3]
  by_cases h2 : n = 2
  · rw [if_pos (by omega), if_neg h3, if_pos h2, if_neg h3, if_pos h2]
  by_cases h1 : n = 1
  · rw [if_pos (by omega), if_neg h3, if_neg h2, if_pos h1, if_neg h3, if_neg h2, if_pos h1]
  · rw [if_neg (by omega), if_neg h3, if_neg h2, if_neg h1]

theorem lvlOf_blank (r : Run) {lvl : Nat} (h : lvl < 4) : lvlOf (Context.blank r lvl).tsw = lvl := by
  have htsw : (Context.blank r lvl).tsw = BitVec.ofNat 64 lvl := rfl
  unfold lvlOf
  rw [htsw, wfield_low, BitVec.toNat_ofNat]
  omega

/-- Settles O31: HSTART by the lowest free helper, HJOIN by the helper named, HEND by its context, and a started helper by its registers. -/
theorem helperResults : Obligations.HelperResults := by
  unfold Obligations.HelperResults
  refine ⟨fun e s => ⟨?hstart, ?hjoin, ?hend⟩, ?started⟩
  case hstart =>
    refine completes_intro (eff := effHstart) rfl ?_
    rintro v s1 s' r jump - ⟨rfl, heven, ⟨hnone, rfl, rfl⟩ | ⟨k, h1, h10, hfree, hbelow, rfl, rfl⟩⟩
    · exact ⟨effHstart_full heven hnone, Same.refl _⟩
    · exact ⟨effHstart_free heven h1 h10 hfree hbelow, Same.modCore _ _ _⟩
  case hjoin =>
    refine completes_intro (eff := effHjoin) rfl ?_
    rintro v s1 s' r jump - ⟨rfl, rfl, ⟨hno, rfl⟩ | ⟨h1, h10, hfree, rfl⟩⟩
    · exact ⟨effHjoin_none hno, Same.refl _⟩
    · exact ⟨effHjoin_free h1 h10 hfree, Same.refl _⟩
  case hend =>
    refine completes_intro (eff := effHend) rfl ?_
    rintro v s1 s' r jump - ⟨rfl, rfl, hcomp, rfl⟩
    exact ⟨effHend_plain hcomp, Same.trans (same_modCx s1 _) (Same.modCore _ _ _)⟩
  case started =>
    intro x pc a b c lvl hlvl h
    have hsreg := startedHelper_sreg x pc a b c lvl
    refine ⟨rfl, rfl, hsreg 1, hsreg 2, hsreg 3, fun n hn => ?_, rfl, rfl, lvlOf_blank .ready hlvl, rfl, rfl⟩
    rw [hsreg, if_neg (by omega), if_neg (by omega), if_neg (by omega), if_neg (by omega)]

end Sys2Proof.Machine
end

section
/-! PROOF. System registers (O33, O34): the map, register by register, at a level that may read or write it. -/

namespace Sys2Proof.Machine

/-! ### Reads -/

/-- The loop register 0, 4 or 8: that of the control context; a helper has none. -/
theorem loopReg_zero (s : State) : loopReg s 0 = if s.ctx = 0 then mget 0 s.cx.ls 0 else 0 := by
  unfold loopReg
  by_cases h : s.ctx = 0
  · rw [if_neg (not_not.2 h), if_pos h]; rfl
  · rw [if_pos h, if_neg h]

theorem loopReg_four (s : State) : loopReg s 4 = if s.ctx = 0 then mget 0 s.cx.le 0 else 0 := by
  unfold loopReg
  by_cases h : s.ctx = 0
  · rw [if_neg (not_not.2 h), if_pos h]; rfl
  · rw [if_pos h, if_neg h]

theorem loopReg_eight (s : State) : loopReg s 8 = if s.ctx = 0 then mget 0 s.cx.lc 0 else 0 := by
  unfold loopReg
  by_cases h : s.ctx = 0
  · rw [if_neg (not_not.2 h), if_pos h]; rfl
  · rw [if_pos h, if_neg h]

theorem effSrd_reads {o : Opnds} {v : Vals} {s : State} (hlevel : readLevel o.imm.toNat ≤ s.level)
    (hvectors : o.imm.toNat = 0 → s.vectorsOut = false) (hshadow : s.shadowPending o.imm.toNat = false) :
    effSrd o v s = Done.result s (.s (s.sysRead o.imm.toNat)) := by
  unfold effSrd
  dsimp only
  rw [if_neg (by omega), if_neg]
  rw [hshadow, Bool.or_false, Bool.and_eq_true, decide_eq_true_eq]
  rintro ⟨h0, hout⟩
  rw [hvectors h0] at hout
  cases hout

/-- Settles O33: SRD answers the map's register; each one named is that register by the map. -/
theorem systemRegisterReads : Obligations.SystemRegisterReads := by
  unfold Obligations.SystemRegisterReads
  intro e s i
  refine completes_intro (eff := effSrd) rfl ?_
  rintro v s1 s' r jump hs ⟨rfl, rfl, hlevel, hvectors, hshadow, x, rfl, hx⟩
  obtain ⟨⟨hcur, hctx, -⟩, -⟩ := starts_same hs
  have hread : x = s'.sysRead i := by
    rw [← hcur, ← hctx] at hx
    clear_value i
    dsimp only at hx
    split at hx <;> rw [hx]
    case h_21 => exact (loopReg_zero s').symm
    case h_22 => exact (loopReg_four s').symm
    case h_23 => exact (loopReg_eight s').symm
    all_goals rfl
  rw [hread]
  exact ⟨effSrd_reads hlevel hvectors hshadow, Same.refl _⟩

/-! ### Writes -/

/-- SWR of a register that some level may write, at such a level. -/
theorem effSwr_writes {o : Opnds} {v : Vals} {s t : State} (hsome : writeLevel o.imm.toNat ≠ 3) (hlevel : writeLevel o.imm.toNat ≤ s.level)
    (hwrite : s.sysWrite o.imm.toNat v.x.s = .ok t) : effSwr o v s = Done.plain t := by
  unfold effSwr
  dsimp only
  rw [if_neg hsome, if_neg (by omega), hwrite]

/-- SWR of a register that no level may write changes nothing above U. -/
theorem effSwr_readOnly {o : Opnds} {v : Vals} {s : State} (hnone : writeLevel o.imm.toNat = 3) (hlevel : s.level ≠ 0) :
    effSwr o v s = Done.plain s := by
  unfold effSwr
  dsimp only
  rw [if_pos hnone, if_neg hlevel]

theorem sysWrite_cid {s : State} {x : Word} (h : ¬ (x.toNat % 4096 = 0 ∧ s.level = 1)) :
    s.sysWrite 0x012 x = .ok (s.modMe (fun c => { c with cid := x.setWidth 12 })) := by
  have hbar : ¬ (wfield x 0 12 = 0 && s.level = 1) = true := by
    rw [wfield_low, Bool.and_eq_true, decide_eq_true_eq, decide_eq_true_eq]
    exact h
  exact if_neg hbar

/-- Settles O34: SWR does what the map's write of the register does; for each one named, that write by the map. -/
theorem systemRegisterWrites : Obligations.SystemRegisterWrites := by
  unfold Obligations.SystemRegisterWrites
  intro e s i
  refine completes_intro (eff := effSwr) rfl ?_
  rintro v s1 s' r jump - ⟨rfl, rfl, hx⟩
  dsimp only at hx
  by_cases hnone : writeLevel i = 3
  · rw [if_pos hnone] at hx
    obtain ⟨hlevel, rfl⟩ := hx
    exact ⟨effSwr_readOnly hnone hlevel, Same.refl _⟩
  rw [if_neg hnone] at hx
  obtain ⟨hlevel, hsame, hx⟩ := hx
  have hwrite : s1.sysWrite i v.x.s = .ok s' := by
    clear_value i
    split at hx
    case h_2 => obtain ⟨hcid, rfl⟩ := hx; exact sysWrite_cid hcid
    case h_14 => exact hx
    all_goals rw [hx]; rfl
  exact ⟨effSwr_writes hnone hlevel hwrite, hsame⟩

end Sys2Proof.Machine
end

section
/-! SUPPORT. What an entry to the resident handler leaves of a core (R326), whatever raises it. -/

namespace Sys2Proof.Machine

/-- Core `c` has taken entry `e` and become `d`. -/
structure TookEntry (c : Core) (e : Entry) (d : Core) : Prop where
  handler : d.handler = some e.ctx
  cause : d.cause = BitVec.ofNat 64 (e.sub * 256 + e.cls)
  info : d.info = e.info
  epc : d.epc = e.epc &&& ~~~1#64
  tctx : d.tctx = BitVec.ofNat 64 (e.seq * 2 ^ 20 + lvlOf (c.context e.ctx).tsw * 2 ^ 16 + e.ctx)
  shadow : d.shadow = { win := (c.context e.ctx).win, rep := (c.context e.ctx).rep, tsw := (c.context e.ctx).tsw, gen := (c.context e.ctx).gen }
  context : d.context e.ctx
    = { c.context e.ctx with run := .ready, pc := c.hvec, rep := Rep.none, tsw := wput (c.context e.ctx).tsw 0 2 1 }
  others : ∀ k, k ≠ e.ctx → d.context k = c.context k

theorem enterHandler_tookEntry (s : State) (p : Nat) (e : Entry) : TookEntry (s.core p) e ((s.enterHandler p e).core p) := by
  unfold State.enterHandler
  rw [State.core_modCore_self]
  refine ⟨?_, ?_, ?_, ?_, ?_, ?_, ?_, fun k hk => ?_⟩
  case refine_7 => exact Core.context_setContext_self _ _ _
  case refine_8 => exact (Core.context_setContext _ _ _ _).trans (if_neg hk)
  all_goals dsimp only; simp only [Core.setContext_handler, Core.setContext_cause, Core.setContext_info, Core.setContext_epc, Core.setContext_tctx, Core.setContext_shadow]

end Sys2Proof.Machine
end

section
/-! PROOF. TRAP at U level (O35): it is taken as a trap of the running context, with the next PC. -/

namespace Sys2Proof.Machine

/-- A trap with no handler active enters the handler in a state that differs by the partial records that it drops, and by the gang left. -/
theorem takeTrap_enters {s : State} (hcomp : s.cx.comp = none) (hh : s.me.handler = none) (cause : Cause) (epc : Word) :
    ∃ u, Quiet (s.dropAsm s.cur s.ctx) u ∧ s.takeTrap cause epc = u.enterHandler u.cur (u.entryHere cause epc) := by
  obtain ⟨b, -, hcx, hhandler, -⟩ := dropAsm_running s
  have hwaits : s.trapWaits = false := by unfold State.trapWaits; rw [hcomp]; rfl
  obtain ⟨u, hu⟩ : ∃ u, u = if (s.dropAsm s.cur s.ctx).ctx = 0 then (s.dropAsm s.cur s.ctx).leaveGang (s.dropAsm s.cur s.ctx).cur
    else s.dropAsm s.cur s.ctx := ⟨_, rfl⟩
  have hquiet : Quiet (s.dropAsm s.cur s.ctx) u := by
    rw [hu]
    split
    · exact quiet_leaveGang _ _
    · exact Quiet.refl _
  refine ⟨u, hquiet, ?_⟩
  have huhandler : u.me.handler = none := (hquiet.me Core.handler (fun _ => rfl)).trans (hhandler.trans hh)
  unfold State.takeTrap
  rw [hwaits, if_neg (by decide)]
  dsimp only
  rw [← hu, hquiet.cx, hcx]
  dsimp only
  rw [hcomp]
  dsimp only
  rw [huhandler, if_neg (by simp)]
  unfold State.deliver
  rw [show (u.core u.cur).handler = none from huhandler]
  rfl

/-- What a trap of the running context leaves of all that its handler does not read (R326). -/
structure TrapLeaves (s : State) (t : State) : Prop where
  same : Same s t
  tctx : t.me.tctx = BitVec.ofNat 64 (s.level * 2 ^ 16 + s.ctx)
  rep : t.me.shadow.rep = s.cx.rep
  gen : t.me.shadow.gen = s.cx.gen
  ready : t.cx.run = .ready
  noRep : t.cx.rep = Rep.none
  masks : t.cx.k = s.cx.k
  window : t.cx.win = s.cx.win
  contexts : ∀ k, k ≠ s.ctx → t.me.context k = s.me.context k
  clusters : t.clusters = s.clusters
  phys : t.phys = s.phys

theorem dropAsm_context (s : State) (k : Nat) (hk : k ≠ s.ctx) : (s.dropAsm s.cur s.ctx).me.context k = s.me.context k := by
  unfold State.dropAsm State.me
  rw [State.modCore_cur, State.core_modCore_self, Core.context_modContext, if_neg hk]
  rfl

theorem takeTrap_leaves {s : State} (hcomp : s.cx.comp = none) (hh : s.me.handler = none) (cause : Cause) (epc : Word) :
    TrapLeaves s (s.takeTrap cause epc) := by
  obtain ⟨u, hquiet, htrap⟩ := takeTrap_enters hcomp hh cause epc
  obtain ⟨b, hb, hcx, -, -⟩ := dropAsm_running s
  have hcur : u.cur = s.cur := hquiet.cur
  have hctx : u.ctx = s.ctx := hquiet.ctx
  have hlate : u.late = s.late := hquiet.alike.device State.late (fun _ => rfl)
  have hucx : (u.core u.cur).context u.ctx = { s.cx with tsw := s.cx.tsw ||| b } := hquiet.cx.trans hcx
  have hentry := enterHandler_tookEntry u u.cur (u.entryHere cause epc)
  have htcx : (s.takeTrap cause epc).cx = ((u.enterHandler u.cur (u.entryHere cause epc)).core u.cur).context u.ctx := by rw [htrap]; rfl
  have hcontext := hentry.context
  rw [show (u.entryHere cause epc).ctx = u.ctx from rfl, hucx, ← htcx] at hcontext
  have hshadow := hentry.shadow
  rw [show (u.entryHere cause epc).ctx = u.ctx from rfl, hucx] at hshadow
  have hme : (s.takeTrap cause epc).me = (u.enterHandler u.cur (u.entryHere cause epc)).core u.cur := by rw [htrap]; rfl
  refine ⟨?_, ?_, ?_, ?_, ?_, ?_, ?_, ?_, fun k hk => ?_, ?_, ?_⟩
  · rw [htrap]; exact ⟨hcur, hctx, hlate⟩
  · rw [hme, hentry.tctx, show (u.entryHere cause epc).ctx = u.ctx from rfl, hucx, lvlOf_or, hb, hctx]
    simp [State.entryHere, State.level]
  · rw [hme, hshadow]
  · rw [hme, hshadow]
  · rw [hcontext]
  · rw [hcontext]
  · rw [hcontext]
  · rw [hcontext]
  · rw [hme, hentry.others k (fun h => hk (h.trans hctx))]
    refine (hquiet.1 u.cur k).trans ?_
    rw [hcur]
    exact dropAsm_context s k hk
  · rw [htrap]; exact hquiet.alike.device State.clusters (fun _ => rfl)
  · rw [htrap]; exact hquiet.alike.device State.phys (fun _ => rfl)

/-- TRAP at U level: the state that its trap leaves, with the PC at the handler. -/
theorem effTrap_user {o : Opnds} {v : Vals} {s : State} (h : s.level = 0) :
    effTrap o v s = .ok { st := s.takeTrap { cls := 1, sub := 0, info := o.imm } (s.cx.pc + BitVec.ofNat 64 o.len), res := none,
                          jump := some (s.takeTrap { cls := 1, sub := 0, info := o.imm } (s.cx.pc + BitVec.ofNat 64 o.len)).cx.pc } :=
  if_pos h

/-- Settles O35: the trap of class 1 is taken to the handler, and the end of the instruction's issue changes nothing of it. -/
theorem trapTakesException : Obligations.TrapTakesException := by
  unfold Obligations.TrapTakesException
  intro e s s1 v hs hlevel hcomp hh
  obtain rfl : s1 = s := starts_readless (c := ⟨false, 29, 2, e⟩) (sh := .trapShape) rfl rfl rfl rfl rfl hs
  have htrap := takeTrap_tookTrap hcomp hh { cls := 1, sub := 0, info := (Instr.trap e).opnds.imm } (s1.nextPc (.trap e))
  have hleaves := takeTrap_leaves hcomp hh { cls := 1, sub := 0, info := (Instr.trap e).opnds.imm } (s1.nextPc (.trap e))
  have heff := effTrap_user (o := (Instr.trap e).opnds) (v := v) hlevel
  obtain ⟨w, hw⟩ : ∃ w, w = s1.takeTrap { cls := 1, sub := 0, info := (Instr.trap e).opnds.imm } (s1.nextPc (.trap e)) := ⟨_, rfl⟩
  rw [show s1.cx.pc + BitVec.ofNat 64 (Instr.trap e).opnds.len = s1.nextPc (.trap e) from rfl, ← hw] at heff
  rw [← hw] at htrap hleaves
  have hran := issue_ran (d := { st := w, res := none, jump := some w.cx.pc }) hs heff rfl hleaves.same rfl
  have hexec : Sys2Proof.Machine.exec (.trap e) s1 = .next (s1.issue (.trap e) effTrap) := rfl
  generalize s1.issue (.trap e) effTrap = t at hran hexec
  have hcur : t.cur = w.cur := hran.alike.device State.cur (fun _ => rfl)
  have hme : ∀ {α : Type} (g : Core → α), (∀ c : Core, g c = g c.rest) → g t.me = g w.me := fun g hg => by
    unfold State.me
    rw [hcur]
    exact hran.alike.core g hg _
  have hpc : t.cx.pc = w.cx.pc := congrArg Prod.fst hran.pc
  have hk : t.cx.k = w.cx.k := congrArg (·.1) hran.other
  have hrep : t.cx.rep = w.cx.rep := congrArg (·.2.2.2.2.1) hran.other
  have hshadow : t.me.shadow = w.me.shadow := hme Core.shadow (fun _ => rfl)
  have hlevel' := htrap.shadowLevel
  have hcause : w.me.cause = 1 := by rw [htrap.causeWord, Nat.zero_mul, Nat.zero_add]; rfl
  refine ⟨t, hexec, (hme Core.epc (fun _ => rfl)).trans htrap.epcWord, ?_,
    (hme Core.info (fun _ => rfl)).trans htrap.infoWord, ?_, (hme Core.handler (fun _ => rfl)).trans htrap.handler, ?_, ?_, ?_, ?_,
    hpc.trans htrap.pc, ?_, ?_, hrep.trans hleaves.noRep, fun n => ⟨?_, ?_, ?_⟩, hran.win.trans hleaves.window, fun p => ?_, ?_, ?_, fun k _ hk => ?_⟩
  · exact (hme Core.cause (fun _ => rfl)).trans hcause
  · rw [hme Core.tctx (fun _ => rfl), hleaves.tctx, hlevel]
    simp
  · rw [hshadow]; exact htrap.window
  · rw [hshadow]; exact hleaves.rep
  · rw [hshadow]; exact hleaves.gen
  · rw [hshadow, hlevel', hlevel]
  · rw [hran.tsw]; exact htrap.level
  · rw [hran.run, hleaves.ready]; rfl
  · exact (hran.sreg n).trans (htrap.regs n).1
  · exact (hran.vreg n).trans (htrap.regs n).2
  · unfold Context.kreg
    rw [hk, hleaves.masks]
  · exact (hran.alike.core Core.mem (fun _ => rfl) p).trans (htrap.mem p)
  · exact (hran.alike.device State.clusters (fun _ => rfl)).trans hleaves.clusters
  · exact (hran.alike.device State.phys (fun _ => rfl)).trans hleaves.phys
  · have hcontext : t.me.context k = w.me.context k := by
      unfold State.me
      rw [hcur]
      exact hran.contexts w.cur k (fun h => hk (h.2.trans hleaves.same.2.1))
    rw [hcontext, hleaves.contexts k hk]
    exact ⟨rfl, rfl⟩

end Sys2Proof.Machine
end

section
/-! PROOF. PARK, TRAP at S level, and NOP (O39): a context that stops at its instruction with a message. -/

namespace Sys2Proof.Machine

/-- An instruction that is no vector instruction and no wait changes, by reading its operands, no context and nothing of the device. -/
theorem starts_kept {i : Instr} {c : Code} {sh : Shape} {s s1 : State} {v : Vals} (hform : formOf i = some (c, sh))
    (hvector : isVector c = false) (hwait : isWaitInsn c = false) (h : s.starts i = some (v, s1)) : Kept s s1 := by
  have hbegin : s.begin i = some s := by
    unfold State.begin
    rw [hform]
    simp [hvector, hwait]
  unfold State.starts at h
  rw [hform, hbegin] at h
  split at h
  swap
  · cases h
  dsimp only at h
  split at h
  · cases h
  · rename_i hread
    cases h
    exact kept_readAll hread

/-- A context has stopped in `t`, with a message from its core's router (R288, R332). -/
structure StoppedWith (s t : State) (why : StopWhy) (kind : Nat) (arg : Word) : Prop where
  run : t.cx.run = .stopped why
  sreg : ∀ n, t.cx.sreg n = s.cx.sreg n
  window : t.cx.win = s.cx.win
  message : ∃ m, t.traps = s.traps ++ [m] ∧ m.kind = kind ∧ m.arg = arg ∧ m.die = dieOf s.cur ∧ m.row = siteOf s.cur / 16
    ∧ m.map = 1#144 <<< (9 * (siteOf s.cur % 16) + cidxOf s.cur)

theorem stopWith_stops (s : State) (why : StopWhy) (kind : Nat) (arg : Word) :
    ∃ t, s.stopWith why kind arg = .ok { st := t, res := none, jump := some s.cx.pc } ∧ Same s t ∧ StoppedWith s t why kind arg := by
  obtain ⟨u, hu⟩ : ∃ u, u = if why = .soft then s.dropAsm s.cur s.ctx else s := ⟨_, rfl⟩
  obtain ⟨w, hw⟩ : ∃ w, w = if u.ctx = 0 then u.leaveGang u.cur else u := ⟨_, rfl⟩
  have hdrop : Same s u ∧ u.traps = s.traps ∧ ∃ b, u.cx = { s.cx with tsw := s.cx.tsw ||| b } := by
    rw [hu]
    split
    · exact ⟨same_dropAsm _ _ _, rfl, cx_dropAsm s⟩
    · exact ⟨Same.refl s, rfl, 0, by simp⟩
  obtain ⟨hsame, htraps, b, hcx⟩ := hdrop
  have hquiet : Quiet u w := by
    rw [hw]
    split
    · exact quiet_leaveGang _ _
    · exact Quiet.refl u
  have hcur : w.cur = s.cur := hquiet.cur.trans hsame.1
  have hwtraps : w.traps = s.traps := (hquiet.alike.device State.traps (fun _ => rfl)).trans htraps
  have hwcx : w.cx = { s.cx with tsw := s.cx.tsw ||| b } := hquiet.cx.trans hcx
  have hstop : s.stopWith why kind arg = .ok {
      st := (w.trapMsg w.cur kind 0 0 (cidxOf w.cur) w.me.cid arg).modCx (fun x => { x with run := .stopped why })
      res := none
      jump := some s.cx.pc } := by rw [hw, hu]; rfl
  refine ⟨_, hstop, ?_, ?_⟩
  · exact (hsame.trans hquiet.same).trans (Same.trans ⟨rfl, rfl, rfl⟩ (same_modCx _ _))
  · have htcx : ((w.trapMsg w.cur kind 0 0 (cidxOf w.cur) w.me.cid arg).modCx (fun x => { x with run := .stopped why })).cx
        = { w.cx with run := .stopped why } := State.cx_modCx _ _
    refine ⟨by rw [htcx], fun n => by rw [htcx, hwcx]; rfl, by rw [htcx, hwcx], ?_⟩
    exact ⟨_, congrArg (· ++ _) hwtraps, rfl, rfl, congrArg dieOf hcur, by rw [hcur], by rw [hcur]⟩

/-- An instruction whose effect stops its context so, completes with the context at the instruction. -/
theorem stopped_completes {i : Instr} {eff : Eff} {s s1 : State} {v : Vals} {why : StopWhy} {kind : Nat} {arg : Word}
    (hs : s.starts i = some (v, s1)) (hkept : Kept s s1) (heff : eff i.opnds v s1 = s1.stopWith why kind arg) :
    let t := s.issue i eff
    t.cx.run = .stopped why ∧ t.cx.pc = s.cx.pc ∧ (∀ n, t.cx.sreg n = s.cx.sreg n) ∧ t.cx.win = s.cx.win
      ∧ ∃ m, t.traps = s.traps ++ [m] ∧ m.kind = kind ∧ m.arg = arg ∧ m.die = dieOf s.cur ∧ m.row = siteOf s.cur / 16
        ∧ m.map = 1#144 <<< (9 * (siteOf s.cur % 16) + cidxOf s.cur) := by
  obtain ⟨w, hstop, hsame, hrun, hsreg, hwindow, m, htraps, hm⟩ := stopWith_stops s1 why kind arg
  have hran := issue_ran (d := { st := w, res := none, jump := some s1.cx.pc }) hs (heff.trans hstop) rfl hsame rfl
  intro t
  have hcur : s1.cur = s.cur := (starts_same hs).1.1
  have hdevice := congrArg State.traps hkept.2.2
  have hs1traps : s1.traps = s.traps := hdevice
  obtain ⟨b, hcx⟩ := starts_cx hs
  refine ⟨?_, (congrArg Prod.fst hran.pc).trans (starts_pc hs), fun n => ?_, ?_, m, ?_, ?_⟩
  · rw [hran.run, hrun]; rfl
  · exact (hran.sreg n).trans ((hsreg n).trans (by rw [hcx]; rfl))
  · exact hran.win.trans (hwindow.trans (starts_win hs))
  · exact ((hran.alike.device State.traps (fun _ => rfl)).trans htraps).trans (by rw [hs1traps])
  · rwa [hcur] at hm

/-- Settles O39: PARK and TRAP at S level by what stopping with a message leaves; NOP has no effect. -/
theorem stopInstructions : Obligations.StopInstructions := by
  unfold Obligations.StopInstructions
  intro e s s1 v stopped
  refine ⟨fun hs => ?park, fun hs hlevel => ?trap, ?nop⟩
  case park =>
    exact ⟨_, rfl, stopped_completes hs (starts_kept (c := ⟨false, 29, 4, e⟩) rfl rfl rfl hs) rfl⟩
  case trap =>
    have hread : s1 = s := starts_readless (c := ⟨false, 29, 2, e⟩) (sh := .trapShape) rfl rfl rfl rfl rfl hs
    have heff : effTrap (Instr.trap e).opnds v s1 = s1.stopWith .soft 0x22 (Instr.trap e).opnds.imm := if_neg (hread ▸ hlevel)
    exact ⟨_, rfl, stopped_completes hs (starts_kept (c := ⟨false, 29, 2, e⟩) rfl rfl rfl hs) heff⟩
  case nop => exact does_intro (eff := effNop) rfl (fun _ s1 _ => ⟨rfl, Same.refl s1⟩)

end Sys2Proof.Machine
end

section
/-! PROOF. ERET (O38): the return, and what follows it where no entry and no faulted ring entry waits. -/

namespace Sys2Proof.Machine

/-! ### What the return leaves beside the contexts' gang and replay -/

/-- The two states have the same contexts and local memories, and their running cores the same handler and pending entries. -/
structure SameReturn (s t : State) : Prop where
  same : Same s t
  contexts : SameContexts s t
  mem : ∀ p, (t.core p).mem = (s.core p).mem
  handler : t.me.handler = s.me.handler
  entries : t.me.entries = s.me.entries

theorem SameReturn.refl (s : State) : SameReturn s s := ⟨Same.refl s, fun _ _ => rfl, fun _ => rfl, rfl, rfl⟩

theorem SameReturn.trans {s t u : State} (h : SameReturn s t) (g : SameReturn t u) : SameReturn s u :=
  ⟨h.same.trans g.same, h.contexts.trans g.contexts, fun p => (g.mem p).trans (h.mem p), g.handler.trans h.handler,
    g.entries.trans h.entries⟩

theorem Quiet.sameReturn {s t : State} (h : Quiet s t) : SameReturn s t :=
  ⟨h.same, h.1, h.alike.core Core.mem (fun _ => rfl), h.me Core.handler (fun _ => rfl), h.me Core.entries (fun _ => rfl)⟩

theorem sameReturn_modMe (s : State) {f : Core → Core} (hcontext : ∀ k, (f s.me).context k = s.me.context k)
    (hmem : (f s.me).mem = s.me.mem) (hhandler : (f s.me).handler = s.me.handler) (hentries : (f s.me).entries = s.me.entries) :
    SameReturn s (s.modMe f) := by
  have hme : (s.modMe f).me = f s.me := State.core_modCore_self s s.cur f
  refine ⟨Same.modCore s _ _, fun p k => ?_, fun p => ?_, by rw [hme, hhandler], by rw [hme, hentries]⟩ <;>
    rw [State.core_modMe] <;> split
  · rename_i hp; subst hp; exact hcontext k
  · rfl
  · rename_i hp; subst hp; exact hmem
  · rfl

/-- Binding gangs changes no dispatch ring. -/
theorem resolveGang_ring (s : State) (p q : Nat) : ((s.resolveGang p).core q).ring = (s.core q).ring := by
  have hfold : ∀ {α : Type} (l : List α) (f : State → α → State), (∀ s a, ((f s a).core q).ring = (s.core q).ring) →
      ∀ s, ((l.foldl f s).core q).ring = (s.core q).ring := fun l f hf s =>
    foldl_rel (R := fun s t : State => (t.core q).ring = (s.core q).ring) (fun _ => rfl) (fun h g => g.trans h) l f hf s
  have hmod : ∀ (s : State) (r : Nat) (f : Core → Core), (∀ c, (f c).ring = c.ring) → ((s.modCore r f).core q).ring = (s.core q).ring :=
    fun s r f hf => core_modCore_keeps (g := Core.ring) hf s r q
  unfold State.resolveGang
  dsimp only
  split
  · rfl
  · refine hfold _ _ (fun s g => ?_) s
    unfold State.fuseGang State.bindGang
    refine Eq.trans (hfold _ _ ?_ _) (hfold _ _ ?_ _)
    · exact fun s r => hmod s r _ (fun _ => rfl)
    · exact fun s r => hmod s r _ (fun _ => rfl)

/-- A control context that comes back to its gang is the same context, and its core's ring the same. -/
theorem rejoinGang_keeps (s : State) : SameReturn s (s.rejoinGang s.cur) ∧ (s.rejoinGang s.cur).me.ring = s.me.ring := by
  have hmod : ∀ f : Core → Core, (∀ c k, (f c).context k = c.context k) → (∀ c, (f c).mem = c.mem) → (∀ c, (f c).handler = c.handler) →
      (∀ c, (f c).entries = c.entries) → (∀ c, (f c).ring = c.ring) → SameReturn s (s.modMe f) ∧ (s.modMe f).me.ring = s.me.ring :=
    fun f hc hm hh he hr => ⟨sameReturn_modMe s (hc _) (hm _) (hh _) (he _),
      (congrArg Core.ring (State.core_modCore_self s s.cur f)).trans (hr _)⟩
  unfold State.rejoinGang
  dsimp only
  split
  · exact ⟨SameReturn.refl s, rfl⟩
  split
  · exact hmod _ (fun _ _ => rfl) (fun _ => rfl) (fun _ => rfl) (fun _ => rfl) (fun _ => rfl)
  split
  · exact hmod _ (fun _ _ => rfl) (fun _ => rfl) (fun _ => rfl) (fun _ => rfl) (fun _ => rfl)
  split
  · exact hmod _ (fun _ _ => rfl) (fun _ => rfl) (fun _ => rfl) (fun _ => rfl) (fun _ => rfl)
  · obtain ⟨hkeeps, hring⟩ := hmod (fun c => { c with hold := true, outcome := none, gpos := none, queue := [] })
      (fun _ _ => rfl) (fun _ => rfl) (fun _ => rfl) (fun _ => rfl) (fun _ => rfl)
    have hquiet := quiet_resolveGang (s.modMe (fun c => { c with hold := true, outcome := none, gpos := none, queue := [] })) s.cur
    exact ⟨hkeeps.trans hquiet.sameReturn,
      (congrArg (fun p => (State.core _ p).ring) hquiet.cur).trans ((resolveGang_ring _ _ _).trans hring)⟩

theorem takeAgain_keeps (s : State) : SameReturn s (s.modMe Core.takeAgain) ∧ (s.modMe Core.takeAgain).me.ring = s.me.ring := by
  have hcore : s.me.takeAgain = s.me ∨ ∃ fl an ag, s.me.takeAgain = { s.me with flight := fl, answer := an, again := ag } := by
    unfold Core.takeAgain
    split
    · split
      · exact .inr ⟨_, _, _, rfl⟩
      · exact .inr ⟨s.me.flight, s.me.answer, none, rfl⟩
    · exact .inl rfl
  have hme : (s.modMe Core.takeAgain).me = s.me.takeAgain := State.core_modCore_self s s.cur _
  rcases hcore with h | ⟨fl, an, ag, h⟩
  · exact ⟨sameReturn_modMe s (by rw [h]; exact fun _ => rfl) (by rw [h]) (by rw [h]) (by rw [h]), by rw [hme, h]⟩
  · exact ⟨sameReturn_modMe s (by rw [h]; exact fun _ => rfl) (by rw [h]) (by rw [h]) (by rw [h]), by rw [hme, h]⟩

/-- With no ring entry at SEQ, the return ends no fault; it may arm a replay. -/
theorem endFault_of_none {c : Core} {seq : Nat} (h : mfind c.ring seq = none) (rpl : Bool) :
    c.endFault seq rpl = c ∨ ∃ k ring, c.endFault seq rpl = { c with replay := some k, ring := ring } := by
  unfold Core.endFault
  dsimp only
  rw [h]
  simp only [Option.any_none, Bool.and_false, Bool.false_eq_true, if_false]
  split
  · exact .inl rfl
  · split
    · exact .inl rfl
    · exact .inr ⟨_, _, rfl⟩

theorem nextHandler_of_none {s : State} (h : s.me.entries = []) : s.nextHandler s.cur = s := by
  have hnone : (s.core s.cur).nextEntry = none := by
    have hentries : (s.core s.cur).entries = [] := h
    unfold Core.nextEntry
    rw [hentries]
    rfl
  unfold State.nextHandler
  rw [hnone]

/-! ### The return -/

/-- The core's context `k` takes the shadow back, and no handler is active. -/
def Core.shadowTaken (c : Core) (k : Nat) : Core :=
  { c.modContext k (fun x =>
      { x with run := .ready, pc := c.epc, win := c.shadow.win, rep := c.shadow.rep,
               tsw := wput c.shadow.tsw 0 2 (wfield c.tctx 16 2), gen := c.shadow.gen }) with handler := none }

/-- The handler's context stops, when another one goes on. -/
def State.stopHandler (s : State) (k : Nat) : State :=
  if k = s.ctx then s
  else
    let s := s.modCx (fun x => { x with run := .stopped .idle })
    if s.ctx = 0 && s.me.lpid.isNone then s.modMe Core.unnumbered else s

theorem eret_eq (s : State) : s.eret =
    let k := wfield s.me.tctx 0 4
    if s.me.handler != some s.ctx || 10 < k then .error (illegal 8)
    else
      let u := (s.modMe (fun c => c.shadowTaken k)).stopHandler k
      let w := if k = 0 then (u.rejoinGang u.cur).modMe Core.takeAgain else u
      let x := if k = 0 then w.modMe (fun c => c.endFault (wfield s.me.tctx 20 4) (s.me.tctx.getLsbD 19)) else w
      .ok (if x.me.controlFirst then x else x.nextHandler x.cur) := rfl

/-- Where no entry and no ring entry waits, ERET is the shadow taken back and the handler stopped, but for gang, twin and replay. -/
theorem eret_of_none {s : State} {k : Nat} (hh : s.me.handler = some s.ctx) (hk : wfield s.me.tctx 0 4 = k) (h10 : k ≤ 10)
    {u : State} (hu : (s.modMe (fun c => c.shadowTaken k)).stopHandler k = u) (hentries : u.me.entries = [])
    (hring : mfind u.me.ring (wfield s.me.tctx 20 4) = none) : ∃ t, s.eret = .ok t ∧ SameReturn u t := by
  obtain ⟨w, hw⟩ : ∃ w, (if k = 0 then (u.rejoinGang u.cur).modMe Core.takeAgain else u) = w := ⟨_, rfl⟩
  obtain ⟨x, hx⟩ : ∃ x, (if k = 0 then w.modMe (fun c => c.endFault (wfield s.me.tctx 20 4) (s.me.tctx.getLsbD 19)) else w) = x := ⟨_, rfl⟩
  obtain ⟨huw, hwring⟩ : SameReturn u w ∧ w.me.ring = u.me.ring := by
    rw [← hw]
    split
    · obtain ⟨hrejoin, hring1⟩ := rejoinGang_keeps u
      obtain ⟨hagain, hring2⟩ := takeAgain_keeps (u.rejoinGang u.cur)
      exact ⟨hrejoin.trans hagain, hring2.trans hring1⟩
    · exact ⟨SameReturn.refl u, rfl⟩
  have hwx : SameReturn w x := by
    rw [← hx]
    split
    · rcases endFault_of_none (c := w.me) (hwring ▸ hring) (s.me.tctx.getLsbD 19) with h | ⟨r, ring, h⟩
      · exact sameReturn_modMe w (by rw [h]; exact fun _ => rfl) (by rw [h]) (by rw [h]) (by rw [h])
      · exact sameReturn_modMe w (by rw [h]; exact fun _ => rfl) (by rw [h]) (by rw [h]) (by rw [h])
    · exact SameReturn.refl w
  have hxentries : x.me.entries = [] := (huw.trans hwx).entries.trans hentries
  refine ⟨x, ?_, huw.trans hwx⟩
  rw [eret_eq]
  dsimp only
  rw [hh, hk, if_neg (by simp; omega), hu, hw, hx]
  rw [nextHandler_of_none hxentries, ite_self]

/-! ### The contexts after the return -/

/-- A core without a logical number stops its control context, and changes nothing else but its level (R311). -/
theorem unnumbered_leaves (c : Core) : (∀ k, k ≠ 0 → c.unnumbered.context k = c.context k)
    ∧ (c.ctl.run = .stopped .idle → (c.unnumbered.context 0).run = .stopped .noLogical)
    ∧ ∀ k n, (c.unnumbered.context k).sreg n = (c.context k).sreg n ∧ (c.unnumbered.context k).vreg n = (c.context k).vreg n := by
  have hother : ∀ k, k ≠ 0 → c.unnumbered.context k = c.context k := fun k hk => by
    unfold Core.context
    rw [if_neg hk, if_neg hk]; rfl
  refine ⟨hother, fun h => ?_, fun k n => ?_⟩
  · unfold Core.unnumbered
    rw [h]; rfl
  · by_cases hk : k = 0
    · subst hk; exact ⟨rfl, rfl⟩
    · rw [hother k hk]; exact ⟨rfl, rfl⟩

/-- What the handler's stop leaves of its core: context `k` goes on, the running one has stopped unless it is that one. -/
structure HandlerStopped (s t : State) (k : Nat) : Prop where
  same : Same s t
  mem : ∀ p, (t.core p).mem = (s.core p).mem
  ring : t.me.ring = s.me.ring
  handler : t.me.handler = s.me.handler
  entries : t.me.entries = s.me.entries
  context : t.me.context k = s.me.context k
  run : k ≠ s.ctx → t.cx.run = .stopped (if s.ctx = 0 ∧ s.me.lpid = none then .noLogical else .idle)
  regs : ∀ j n, (t.me.context j).sreg n = (s.me.context j).sreg n ∧ (t.me.context j).vreg n = (s.me.context j).vreg n

theorem stopHandler_leaves (s : State) (k : Nat) : HandlerStopped s (s.stopHandler k) k := by
  unfold State.stopHandler
  by_cases hk : k = s.ctx
  · rw [if_pos hk]
    exact ⟨Same.refl s, fun _ => rfl, rfl, rfl, rfl, rfl, fun h => absurd hk h, fun _ _ => ⟨rfl, rfl⟩⟩
  rw [if_neg hk]
  dsimp only
  obtain ⟨v, hv⟩ : ∃ v, s.modCx (fun x => { x with run := .stopped .idle }) = v := ⟨_, rfl⟩
  have hvme : v.me = s.me.modContext s.ctx (fun x => { x with run := .stopped .idle }) := by rw [← hv]; exact State.me_modCx _ _
  have hvsame : Same s v := hv ▸ same_modCx s _
  have hvmem : ∀ p, (v.core p).mem = (s.core p).mem := fun p => by
    rw [← hv, State.core_modCx]
    split
    · rename_i hp; rw [hp, Core.modContext_mem]; rfl
    · rfl
  have hvcontext : v.me.context k = s.me.context k := by rw [hvme, Core.context_modContext, if_neg hk]
  have hvregs : ∀ j n, (v.me.context j).sreg n = (s.me.context j).sreg n ∧ (v.me.context j).vreg n = (s.me.context j).vreg n := by
    intro j n
    rw [hvme, Core.context_modContext]
    split
    · rename_i hj; rw [hj]; exact ⟨rfl, rfl⟩
    · exact ⟨rfl, rfl⟩
  have hvrun : v.cx.run = .stopped .idle := by rw [← hv, State.cx_modCx]
  have hvlpid : v.me.lpid = s.me.lpid := by rw [hvme, Core.modContext_lpid]
  have hvring : v.me.ring = s.me.ring := by rw [hvme, Core.modContext_ring]
  have hvhandler : v.me.handler = s.me.handler := by rw [hvme, Core.modContext_handler]
  have hventries : v.me.entries = s.me.entries := by rw [hvme, Core.modContext_entries]
  rw [hv, hvlpid, hvsame.2.1]
  by_cases hnone : s.ctx = 0 ∧ s.me.lpid = none
  · rw [if_pos (by simp [hnone])]
    have hctx := hnone.1
    obtain ⟨hother, hrun, hregs⟩ := unnumbered_leaves v.me
    have hme : (v.modMe Core.unnumbered).me = v.me.unnumbered := State.core_modCore_self v v.cur _
    refine ⟨hvsame.trans (Same.modCore v _ _), fun p => ?_, ?_, ?_, ?_, ?_, fun _ => ?_, fun j n => ?_⟩
    · exact (core_modCore_keeps (g := Core.mem) (f := Core.unnumbered) (fun _ => rfl) v v.cur p).trans (hvmem p)
    · rw [hme]; exact hvring
    · rw [hme]; exact hvhandler
    · rw [hme]; exact hventries
    · rw [hme, hother k (hctx ▸ hk)]; exact hvcontext
    · rw [if_pos hnone]
      unfold State.cx
      rw [hme, State.modMe_ctx, hvsame.2.1, hctx]
      refine hrun ?_
      have := hvrun
      unfold State.cx at this
      rwa [hvsame.2.1, hctx] at this
    · rw [hme]
      exact ⟨(hregs j n).1.trans (hvregs j n).1, (hregs j n).2.trans (hvregs j n).2⟩
  · have hcond : ¬ (s.ctx = 0 && s.me.lpid.isNone) = true := by simpa using hnone
    rw [if_neg hcond]
    exact ⟨hvsame, hvmem, hvring, hvhandler, hventries, hvcontext, fun _ => by rw [if_neg hnone]; exact hvrun, hvregs⟩

/-- The end of the issue of an instruction that stays where its context is changes no context. -/
theorem Ran.context_stays {i : Instr} {s s2 t : State} (h : Ran i s s2 t none (some s2.cx.pc)) (hrun : s2.cx.run ≠ .waiting) (p k : Nat) :
    let x := (t.core p).context k
    let y := (s2.core p).context k
    x.run = y.run ∧ x.pc = y.pc ∧ x.win = y.win ∧ x.rep = y.rep ∧ x.gen = y.gen ∧ x.tsw = y.tsw
      ∧ ∀ n, x.sreg n = y.sreg n ∧ x.vreg n = y.vreg n := by
  by_cases hrunning : p = s2.cur ∧ k = s2.ctx
  · obtain ⟨rfl, rfl⟩ := hrunning
    have hcx : (t.core s2.cur).context s2.ctx = t.cx := by
      unfold State.cx State.me
      rw [h.alike.device State.cur (fun _ => rfl), h.alike.device State.ctx (fun _ => rfl)]
    intro x y
    have hx : x = t.cx := hcx
    have hrun' : t.cx.run = s2.cx.run := h.run.trans (if_neg hrun)
    have hrep : t.cx.rep = s2.cx.rep := congrArg (·.2.2.2.2.1) h.other
    have hgen : t.cx.gen = s2.cx.gen := congrArg (·.2.2.2.2.2.1) h.other
    rw [hx]
    exact ⟨hrun', congrArg Prod.fst h.pc, h.win, hrep, hgen, h.tsw, fun n => ⟨h.sreg n, h.vreg n⟩⟩
  · intro x y
    have hxy : x = y := h.contexts p k hrunning
    rw [hxy]
    exact ⟨rfl, rfl, rfl, rfl, rfl, rfl, fun _ => ⟨rfl, rfl⟩⟩

/-- What ERET leaves where no entry and no ring entry waits (R326): context `k` has the shadow, and no handler is active. -/
structure Returned (s t : State) (k : Nat) : Prop where
  same : Same s t
  mem : ∀ p, (t.core p).mem = (s.core p).mem
  handler : t.me.handler = none
  context : t.me.context k = { s.me.context k with
    run := .ready, pc := s.me.epc, win := s.me.shadow.win, rep := s.me.shadow.rep, tsw := wput s.me.shadow.tsw 0 2 (wfield s.me.tctx 16 2),
    gen := s.me.shadow.gen }
  stopped : k ≠ s.ctx → t.cx.run = .stopped (if s.ctx = 0 ∧ s.me.lpid = none then .noLogical else .idle)
  regs : ∀ j n, (t.me.context j).sreg n = (s.me.context j).sreg n ∧ (t.me.context j).vreg n = (s.me.context j).vreg n

/-- The shadow taken back, the handler stopped, and what changes no context after it. -/
theorem Returned.of_steps {s b u t : State} {k : Nat} (hb : s.modMe (fun c => c.shadowTaken k) = b) (hstop : HandlerStopped b u k)
    (hret : SameReturn u t) : Returned s t k := by
  have hbme : b.me = s.me.shadowTaken k := by rw [← hb]; exact State.core_modCore_self s s.cur _
  have hbsame : Same s b := hb ▸ Same.modCore s _ _
  have hbmem : ∀ p, (b.core p).mem = (s.core p).mem := fun p => by
    rw [← hb]
    exact core_modCore_keeps (g := Core.mem) (f := fun c => c.shadowTaken k) (fun c => Core.modContext_mem c _ _) s s.cur p
  have hlpid : b.me.lpid = s.me.lpid := by rw [hbme]; exact Core.modContext_lpid _ _ _
  have htcontext : ∀ j, t.me.context j = u.me.context j := fun j => by
    unfold State.me
    rw [hret.contexts, hret.same.1]
  have hbregs : ∀ j n, (b.me.context j).sreg n = (s.me.context j).sreg n ∧ (b.me.context j).vreg n = (s.me.context j).vreg n := by
    intro j n
    have hbj : b.me.context j = if j = k then _ else s.me.context j :=
      (congrArg (Core.context · j) hbme).trans (Core.context_modContext _ _ _ _)
    rw [hbj]
    split
    · rename_i hj; rw [hj]; exact ⟨rfl, rfl⟩
    · exact ⟨rfl, rfl⟩
  refine ⟨hbsame.trans (hstop.same.trans hret.same), fun p => (hret.mem p).trans ((hstop.mem p).trans (hbmem p)), ?_, ?_, fun hne => ?_,
    fun j n => ?_⟩
  · rw [hret.handler, hstop.handler, hbme]; rfl
  · rw [htcontext, hstop.context, hbme]
    exact Core.context_modContext_self _ _ _
  · have hrun := hstop.run (fun h => hne (h.trans hbsame.2.1))
    rw [hbsame.2.1, hlpid] at hrun
    unfold State.cx at hrun ⊢
    rw [htcontext, hret.same.2.1, hrun]
  · rw [htcontext]
    exact ⟨(hstop.regs j n).1.trans (hbregs j n).1, (hstop.regs j n).2.trans (hbregs j n).2⟩

theorem eret_returns {s : State} {k : Nat} (hh : s.me.handler = some s.ctx) (hk : k = s.me.tctx.toNat % 16) (h10 : k ≤ 10)
    (hentries : s.me.entries = []) (hring : mfind s.me.ring (s.me.tctx.toNat / 2 ^ 20 % 16) = none) :
    ∃ t, s.eret = .ok t ∧ Returned s t k := by
  obtain ⟨b, hb⟩ : ∃ b, s.modMe (fun c => c.shadowTaken k) = b := ⟨_, rfl⟩
  have hbme : b.me = s.me.shadowTaken k := by rw [← hb]; exact State.core_modCore_self s s.cur _
  have hstop := stopHandler_leaves b k
  have hbring : b.me.ring = s.me.ring := by rw [hbme]; exact Core.modContext_ring _ _ _
  have hbentries : b.me.entries = s.me.entries := by rw [hbme]; exact Core.modContext_entries _ _ _
  obtain ⟨t, heret, hret⟩ := eret_of_none hh (wfield_low s.me.tctx 4 |>.trans hk.symm) h10 (congrArg (State.stopHandler · k) hb)
    (hstop.entries.trans (hbentries.trans hentries)) (by rw [hstop.ring, hbring]; exact hring)
  exact ⟨t, heret, .of_steps hb hstop hret⟩

theorem Returned.not_waiting {s t : State} {k : Nat} (h : Returned s t k) : t.cx.run ≠ .waiting := by
  by_cases hne : k = s.ctx
  · have hcx : t.cx = t.me.context k := by unfold State.cx; rw [h.same.2.1, hne]
    rw [hcx, h.context]
    exact Run.noConfusion
  · rw [h.stopped hne]
    exact Run.noConfusion

/-- Settles O38: the shadow is taken back, the handler's context stops, and the end of the issue changes no context. -/
theorem eretReturns : Obligations.EretReturns := by
  unfold Obligations.EretReturns
  intro e s s1 v k hs hh hk h10 hentries hring
  obtain rfl : s1 = s := starts_readless (c := ⟨false, 29, 3, e⟩) (sh := .bare) rfl rfl rfl rfl rfl hs
  obtain ⟨t, heret, hret⟩ := eret_returns hh hk h10 hentries hring
  have heff : effEret (Instr.eret e).opnds v s1 = .ok { st := t, res := none, jump := some t.cx.pc } := by
    unfold effEret
    rw [heret]
  have hran := issue_ran (d := { st := t, res := none, jump := some t.cx.pc }) hs heff rfl hret.same rfl
  have hexec : Sys2Proof.Machine.exec (.eret e) s1 = .next (s1.issue (.eret e) effEret) := rfl
  generalize s1.issue (.eret e) effEret = w at hran hexec
  have hwcur : w.cur = t.cur := hran.alike.device State.cur (fun _ => rfl)
  have hwhandler : w.me.handler = t.me.handler := by
    unfold State.me
    rw [hwcur]
    exact hran.alike.core Core.handler (fun _ => rfl) _
  have hwmem : ∀ p, (w.core p).mem = (s1.core p).mem := fun p => (hran.alike.core Core.mem (fun _ => rfl) p).trans (hret.mem p)
  have hstays : ∀ j, (w.core w.cur).context j = (w.core t.cur).context j := fun j => by rw [hwcur]
  have hback := hret.context
  obtain ⟨hrun, hpc, hwin, hrep, hgen, htsw, -⟩ := hran.context_stays hret.not_waiting t.cur k
  rw [← hstays k] at hrun hpc hwin hrep hgen htsw
  refine ⟨w, hexec, hwhandler.trans hret.handler, hrun.trans (congrArg Context.run hback), hpc.trans (congrArg Context.pc hback),
    hwin.trans (congrArg Context.win hback), hrep.trans (congrArg Context.rep hback), hgen.trans (congrArg Context.gen hback),
    htsw.trans (congrArg Context.tsw hback), fun hne => ?_, fun j n => ?_, hwmem⟩
  · rw [hran.run, if_neg hret.not_waiting]
    exact hret.stopped hne
  · obtain ⟨-, -, -, -, -, -, hsv⟩ := hran.context_stays hret.not_waiting t.cur j
    rw [← hstays j] at hsv
    exact ⟨(hsv n).1.trans (hret.regs j n).1, (hsv n).2.trans (hret.regs j n).2⟩

end Sys2Proof.Machine
end

section
/-! PROOF. Activities (O40): each instruction by the state of the activity that it names. -/

namespace Sys2Proof.Machine

/-! ### ACT.OPN -/

theorem freeAct_some {a : Map Activity} {i : Nat} (hi : i < 4096) (hfree : mfind a i = none) (hbelow : ∀ j, j < i → (mfind a j).isSome = true) :
    freeAct a = some i := by
  refine List.find?_range_eq_some.2 ⟨by rw [hfree]; rfl, List.mem_range.2 hi, fun j hj => ?_⟩
  rw [Option.isNone_eq_false_iff.2 (hbelow j hj)]
  rfl

theorem effActOpn_full {o : Opnds} {v : Vals} {s : State} (h : 256 ≤ (s.part s.myPart).acts.length) :
    effActOpn o v s = Done.result s (.s (1#64 <<< 63)) := by
  unfold effActOpn
  dsimp only
  rw [if_pos h]

theorem effActOpn_free {o : Opnds} {v : Vals} {s : State} {i : Nat} (h : (s.part s.myPart).acts.length < 256)
    (hfree : freeAct (s.part s.myPart).acts = some i) :
    effActOpn o v s = Done.result (s.modPart s.myPart (fun q => { q with acts := mset q.acts i { state := 1, fst := 0 } }))
      (.s (BitVec.ofNat 64 i)) := by
  unfold effActOpn
  dsimp only
  rw [if_neg (by omega), hfree]

/-! ### ACT.CP -/

theorem compRecordOk_of {w0 w2 : Word} (heven : w0.toNat % 2 = 0) (hpc : w0.toNat / 2 ^ 57 = 0) (htags : w2.toNat % 2 ^ 32 ≠ 0)
    (hrest : w2.toNat / 2 ^ 32 = 0) : compRecordOk w0 w2 = true := by
  have h57 : wfield w0 57 7 = 0 := by unfold wfield bits; rw [hpc, Nat.zero_mod]
  have h32 : wfield w2 32 32 = 0 := by unfold wfield bits; rw [hrest, Nat.zero_mod]
  unfold compRecordOk
  rw [getLsbD_zero_of_even heven, h57, h32, wfield_low]
  simpa using htags

/-- The entry that ACT.CP pushes, for a record of three words (R290, R350). -/
def pushedEntry (s : State) (id x : Nat) : Chest :=
  { seq := s.seq, id := id, part := s.myPart, arg := BitVec.ofNat 64 (x / 2 ^ (64 * 1)), pc := (BitVec.ofNat 64 (x / 2 ^ (64 * 0))).setWidth 57,
    tags := (BitVec.ofNat 64 (x / 2 ^ (64 * 2))).setWidth 32, core := s.cur, state := 1, lpid := s.lp s.cur, helper := 0 }

theorem effActCp_pushes {o : Opnds} {v : Vals} {s sc : State} {x id : Nat} (hload : s.loadNear (effAddr o v) 24 = .ok (x, sc))
    (hid : wfield v.x.s 0 12 = id) (hopen : (sc.act sc.myPart id).state = 1)
    (hrecord : compRecordOk (BitVec.ofNat 64 (x / 2 ^ (64 * 0))) (BitVec.ofNat 64 (x / 2 ^ (64 * 2))) = true)
    (hroom : (sc.die (dieOf sc.cur)).chest.length < 65536) :
    effActCp o v s = Done.result ({ sc with seq := sc.seq + 1 }.modDie (dieOf sc.cur) (fun d =>
      { d with chest := d.chest ++ [pushedEntry sc id x] })) (.s (BitVec.ofNat 64 sc.seq)) := by
  unfold effActCp
  rw [hload]
  dsimp only
  rw [hid, if_neg (not_not.2 hopen), hrecord, if_neg (by decide), if_neg (show ¬ chestSize ≤ _ by unfold chestSize; omega)]
  rfl

/-! ### ACT.CMT, ACT.ABN, ACT.RTY, ACT.SKP -/

theorem effActCmt_drops {o : Opnds} {v : Vals} {s : State} {id : Nat} (hid : wfield v.x.s 0 12 = id)
    (hstate : (s.act s.myPart id).state = 1 ∨ (s.act s.myPart id).state = 4) :
    effActCmt o v s = Done.plain ((s.mapChest (fun l => l.filter (fun c => !(c.part == s.myPart && c.id == id)))).modPart s.myPart
      (fun q => { q with acts := merase q.acts id })) := by
  unfold effActCmt
  dsimp only
  rw [hid, if_neg]
  rw [Bool.and_eq_true, decide_eq_true_eq, decide_eq_true_eq]
  rintro ⟨h1, h4⟩
  exact hstate.elim h1 h4

theorem effActAbn_marks {o : Opnds} {v : Vals} {s : State} (hopen : ∀ i ∈ abandonIds v.x.s v.y.s, (s.act s.myPart i).state = 1)
    (hconflict : s.abandonConflict s.myPart (abandonIds v.x.s v.y.s) = false) :
    effActAbn o v s = Done.plain ((((abandonIds v.x.s v.y.s).foldl (fun u i => u.setAct s.myPart i 2) s).modPart s.myPart (fun q =>
      { q with abandons := q.abandons ++ [{ core := s.cur, ids := abandonIds v.x.s v.y.s }] })).settleAbandons s.myPart) := by
  have hfind : (abandonIds v.x.s v.y.s).find? (fun i => (s.act s.myPart i).state != 1) = none :=
    List.find?_eq_none.2 fun i hi => by rw [hopen i hi]; decide
  have hcur : ((abandonIds v.x.s v.y.s).foldl (fun u i => u.setAct s.myPart i 2) s).cur = s.cur :=
    (same_foldl _ (fun u i => u.setAct s.myPart i 2) (fun _ _ => ⟨rfl, rfl, rfl⟩) s).1
  unfold effActAbn
  dsimp only
  rw [hfind]
  dsimp only
  rw [hconflict, hcur]
  rfl

theorem effActRty_holds {o : Opnds} {v : Vals} {s : State} {id : Nat} (hid : wfield v.x.s 0 12 = id) (hfrozen : (s.act s.myPart id).state = 3) :
    effActRty o v s = Done.plain ((s.mapChest (fun l => l.map (fun c =>
      if c.part == s.myPart && c.id == id && c.state == 3 then { c with state := 1 } else c))).setAct s.myPart id 2) := by
  unfold effActRty
  dsimp only
  rw [hid, if_neg (not_not.2 hfrozen)]

theorem effActSkp_drops {o : Opnds} {v : Vals} {s : State} {id : Nat} (hid : wfield v.x.s 0 12 = id) (hfrozen : (s.act s.myPart id).state = 3) :
    effActSkp o v s = Done.plain (((s.mapChest (fun l => l.filter (fun c =>
      !(c.part == s.myPart && c.id == id && c.state == 3)))).setAct s.myPart id 2).settleAbandons s.myPart) := by
  unfold effActSkp
  dsimp only
  rw [hid, if_neg (not_not.2 hfrozen)]

/-! ### ACT.ST, ACT.RET -/

theorem effActSt_gives (o : Opnds) (v : Vals) (s : State) : effActSt o v s = Done.result s (.s (BitVec.ofNat 64
    ((s.act s.myPart (v.y.s.toNat % 4096)).state + 2 ^ 8 * (s.actEntries s.myPart (v.y.s.toNat % 4096)).length
      + 2 ^ 32 * (s.act s.myPart (v.y.s.toNat % 4096)).fst.toNat))) := by
  unfold effActSt State.actWord
  dsimp only
  rw [show wfield v.y.s 0 12 = v.y.s.toNat % 4096 from wfield_low _ 12, Nat.mul_comm (2 ^ 8), Nat.mul_comm (2 ^ 32)]

theorem effActRet_ends {o : Opnds} {v : Vals} {s : State} {seq : Nat} (hcomp : s.cx.comp = some seq) :
    effActRet o v s = Done.plain (if v.x.s.toNat = 0 then (s.freeHelper s.cur s.ctx).endEntry seq
      else (s.freeHelper s.cur s.ctx).freezeAct seq v.x.s) := by
  unfold effActRet
  rw [hcomp]
  dsimp only
  by_cases h : v.x.s = 0
  · rw [if_pos h, if_pos (by rw [h]; rfl)]
  · rw [if_neg h, if_neg (show ¬ v.x.s.toNat = 0 from fun h0 => h (BitVec.eq_of_toNat_eq h0))]

/-- Settles O40: each activity instruction by its effect on an activity in a state that allows it. -/
theorem activityResults : Obligations.ActivityResults := by
  unfold Obligations.ActivityResults
  intro e s
  refine ⟨?opn, ?cp, ?cmt, ?abn, ?rty, ?skp, ?st, ?ret⟩
  case opn =>
    refine completes_intro (eff := effActOpn) rfl ?_
    rintro v s1 s' r jump - ⟨rfl, ⟨hfull, rfl, rfl⟩ | ⟨hroom, i, hi, hfree, hbelow, rfl, rfl⟩⟩
    · exact ⟨effActOpn_full hfull, Same.refl _⟩
    · exact ⟨effActOpn_free hroom (freeAct_some hi hfree hbelow), ⟨rfl, rfl, rfl⟩⟩
  case cp =>
    refine completes_intro (eff := effActCp) rfl ?_
    rintro v s1 s' r jump - ⟨rfl, x, sc, hload, hsame, hopen, heven, hpc, htags, hrest, hroom, rfl, rfl⟩
    refine ⟨effActCp_pushes hload (wfield_low _ _) hopen (compRecordOk_of heven hpc htags hrest) hroom, hsame.trans ?_⟩
    unfold State.modDie
    split <;> exact ⟨rfl, rfl, rfl⟩
  case cmt =>
    refine completes_intro (eff := effActCmt) rfl ?_
    rintro v s1 s' r jump - ⟨rfl, rfl, hstate, rfl⟩
    exact ⟨effActCmt_drops (wfield_low _ _) hstate, ⟨rfl, rfl, rfl⟩⟩
  case abn =>
    refine completes_intro (eff := effActAbn) rfl ?_
    rintro v s1 s' r jump hs ⟨rfl, rfl, hopen, hconflict, hsame, hstate⟩
    rw [← (starts_same hs).1.1] at hstate
    exact ⟨(effActAbn_marks hopen hconflict).trans (congrArg Done.plain hstate.symm), hsame⟩
  case rty =>
    refine completes_intro (eff := effActRty) rfl ?_
    rintro v s1 s' r jump - ⟨rfl, rfl, hfrozen, rfl⟩
    exact ⟨effActRty_holds (wfield_low _ _) hfrozen, ⟨rfl, rfl, rfl⟩⟩
  case skp =>
    refine completes_intro (eff := effActSkp) rfl ?_
    rintro v s1 s' r jump - ⟨rfl, rfl, hfrozen, hsame, hstate⟩
    exact ⟨(effActSkp_drops (wfield_low _ _) hfrozen).trans (congrArg Done.plain hstate.symm), hsame⟩
  case st => exact gives_intro (eff := effActSt) rfl (fun v s1 _ => effActSt_gives _ v s1)
  case ret =>
    refine completes_intro (eff := effActRet) rfl ?_
    rintro v s1 s' r jump - ⟨rfl, rfl, hsame, seq, hcomp, hstate⟩
    exact ⟨(effActRet_ends hcomp).trans (congrArg Done.plain hstate.symm), hsame⟩

end Sys2Proof.Machine
end

section
/-! PROOF. LAUNCH (O41): what the distributor answers a record, and what a launch without predecessors leaves. -/

namespace Sys2Proof.Machine

theorem launchCode_alone {s : State} (htwin : s.me.twin = none) (q : Nat) (l : Launch) (key data : Nat) :
    s.launchCode q l key data = .ok (s.submit q l) := by
  unfold State.launchCode
  rw [htwin]
  rfl

/-- LAUNCH of a control record that the level may submit (R310). -/
theorem effLaunch_controls {o : Opnds} {v : Vals} {s sc : State} {x : Nat} {l : Launch} (hway : s.farDistributor s.cur = false)
    (hload : s.loadNear (effAddr o v) 64 = .ok (x, sc)) (hl : newLaunch 0 (wordsOf 8 x) sc.me.cid sc.myCl false = l)
    (hlevel : ¬ (sc.level = 0 ∧ l.privileged = true)) (hflag : l.flag 5 = true) :
    effLaunch o v s = Done.result (sc.control sc.myPart l).2 (.s (BitVec.ofNat 64 (sc.control sc.myPart l).1)) := by
  unfold effLaunch
  rw [hway, hload]
  dsimp only
  rw [hl, if_neg (by decide), if_neg (by simpa using hlevel), if_pos hflag]

/-- LAUNCH of another record: the code that its submission gives (R293). -/
theorem effLaunch_submits {o : Opnds} {v : Vals} {s sc t : State} {x k : Nat} {l : Launch} (hway : s.farDistributor s.cur = false)
    (hload : s.loadNear (effAddr o v) 64 = .ok (x, sc)) (hl : newLaunch 0 (wordsOf 8 x) sc.me.cid sc.myCl false = l)
    (hlevel : ¬ (sc.level = 0 ∧ l.privileged = true)) (htwin : sc.me.twin = none) (hflag : l.flag 5 = false)
    (hsubmit : sc.submit sc.myPart l = (k, t)) : effLaunch o v s = Done.result t (.s (BitVec.ofNat 64 k)) := by
  unfold effLaunch
  rw [hway, hload]
  dsimp only
  rw [hl, if_neg (by decide), if_neg (by simpa using hlevel), hflag, if_neg Bool.false_ne_true, launchCode_alone htwin, hsubmit]

theorem submit_illFormed {s : State} {q : Nat} {l : Launch} (hbad : s.illFormed q l = true) : s.submit q l = (1, s.cwTell l) := by
  unfold State.submit
  rw [if_pos hbad]

theorem submit_full {s : State} {q : Nat} {l : Launch} (hgood : s.illFormed q l = false) (hfull : 128 ≤ (s.part q).launches.length) :
    s.submit q l = (2, s) := by
  unfold State.submit
  rw [hgood, if_neg Bool.false_ne_true, if_pos hfull]

/-- Settles O41: LAUNCH by what the distributor answers its record; a launch without predecessors is put behind the others. -/
theorem launchResults : Obligations.LaunchResults := by
  unfold Obligations.LaunchResults
  refine ⟨fun e s => ?launch, fun s q l hnone => ?enqueue⟩
  case launch =>
    refine completes_intro (eff := effLaunch) rfl ?_
    rintro v s1 s' r jump - ⟨rfl, hway, x, sc, hload, -, hsame, htwin, hlevel, hcases⟩
    refine ⟨?_, hsame⟩
    rcases hcases with ⟨hflag, rfl, rfl⟩ | ⟨hflag, ⟨hbad, rfl, rfl⟩ | ⟨hgood, hfull, rfl, rfl⟩ | ⟨hgood, hroom, rfl, rfl⟩⟩
    · exact effLaunch_controls hway hload rfl hlevel hflag
    · exact effLaunch_submits hway hload rfl hlevel htwin hflag (submit_illFormed hbad)
    · exact effLaunch_submits hway hload rfl hlevel htwin hflag (submit_full hgood hfull)
    · exact effLaunch_submits hway hload rfl hlevel htwin hflag (submit_queued hgood hroom)
  case enqueue =>
    intro t
    have ht : t = s.modPart q (fun x => { x with launches := x.launches ++ [{ l with winRead := l.nw == 0 }], serial := x.serial + 1 }) :=
      enqueue_of_noPred hnone s q
    rw [ht, State.part_modPart_self]
    exact ⟨rfl, rfl, fun p hp => (State.part_modPart _ _ _ _).trans (if_neg hp), rfl, rfl, rfl, rfl⟩

end Sys2Proof.Machine
end

section
/-! PROOF. Trap messages and the lanes' replays (O49): a hop, a merge, a collector's event, and what a lane that holds keeps back. -/

namespace Sys2Proof.Machine

/-! ### A hop and a merge (R331) -/

theorem trapMessageHop_west {s : State} {k : Nat} {m : TrapMsg} (hm : s.traps[k]? = some m)
    (halone : firstSuch s.traps.length (fun j => j != k && (s.traps.getD j m).same m) = none) (hcol : 0 < m.col) :
    Sys2Proof.Machine.exec (.trapMessageHop k) s = .next { s with traps := s.traps.set k { m with col := m.col - 1 } } := by
  change execTrapMessageHop k s = _
  unfold execTrapMessageHop
  rw [hm]
  dsimp only
  rw [halone]
  exact if_pos hcol

/-- A message in column 0 enters its row's collector, behind those that it holds. -/
theorem trapMessageHop_collects {s : State} {k : Nat} {m : TrapMsg} (hm : s.traps[k]? = some m)
    (halone : firstSuch s.traps.length (fun j => j != k && (s.traps.getD j m).same m) = none) (hcol : m.col = 0)
    (hroom : (mget [] (s.die m.die).coll m.row).length < 32)
    (hfirst : firstOf s.traps k (fun x => x.die == m.die && x.row == m.row && x.col == 0) = true) :
    Sys2Proof.Machine.exec (.trapMessageHop k) s = .next ({ s with traps := s.traps.eraseIdx k }.modDie m.die (fun d =>
      { d with coll := mset d.coll m.row (mget [] (s.die m.die).coll m.row ++ [m]) })) := by
  change execTrapMessageHop k s = _
  unfold execTrapMessageHop
  rw [hm]
  dsimp only
  rw [halone]
  dsimp only
  rw [if_neg (by omega), hfirst, Bool.not_true, Bool.or_false, if_neg (by rw [decide_eq_true_eq]; omega)]

theorem trapMessageHop_merges {s : State} {k j : Nat} {m : TrapMsg} (hm : s.traps[k]? = some m)
    (hequal : firstSuch s.traps.length (fun j => j != k && (s.traps.getD j m).same m) = some j) :
    Sys2Proof.Machine.exec (.trapMessageHop k) s = .next { s with
      traps := (s.traps.modify j (fun x => { x with map := x.map ||| m.map, agent := 15 })).eraseIdx k } := by
  change execTrapMessageHop k s = _
  unfold execTrapMessageHop
  rw [hm]
  dsimp only
  rw [hequal]

/-- A place of a list is changed, and another one removed: the changed element stands in what is left. -/
theorem mem_eraseIdx_modify {α : Type} {l : List α} {j k : Nat} {x : α} (hx : l[j]? = some x) (hjk : j ≠ k) (f : α → α) :
    f x ∈ (l.modify j f).eraseIdx k :=
  List.mem_eraseIdx_iff_getElem?.2 ⟨j, hjk, by rw [List.getElem?_modify_eq, hx]; rfl⟩

/-! ### The collector (R332) -/

theorem collectorPost_posts {s : State} {die row : Nat} {m : TrapMsg} {rest : List TrapMsg} (hdie : die < 2)
    (hheld : mget [] (s.die die).coll row = m :: rest) (hroom : mailRoom (s.supBox (die * 4 + row % 4)) [] 32 = true) :
    Sys2Proof.Machine.exec (.collectorPost die row) s
      = .next ((s.modDie die (fun d => { d with coll := mset d.coll row rest })).supPut (die * 4 + row % 4) (eventEntry 32 m.flit)) := by
  change execCollectorPost die row s = _
  unfold execCollectorPost
  rw [hheld]
  dsimp only
  rw [Nat.mod_eq_of_lt hdie, hroom]
  rfl

/-- An event for a supervisor's core leaves the collectors of every die. -/
theorem supPut_coll (s : State) (n : Nat) (e : MailEntry) (die : Nat) (hdie : n / 4 = die) : ((s.supPut n e).die die).coll = (s.die die).coll := by
  subst hdie
  unfold State.supPut
  rw [State.die_modDie_self]

/-! ### The lanes (R383) -/

/-- Between dies, on a lane that holds, no message goes on. -/
theorem msgHeld_of_lane {s : State} {src dst : Nat} (hdies : dieOf src ≠ dieOf dst) (hholds : mget 0 s.replays (siteOf src / 16) ≠ 0) :
    s.msgHeld src dst = true := by
  have hlane : s.laneHolds (siteOf src / 16) = true := bne_iff_ne.2 hholds
  unfold State.msgHeld
  simp [hdies, hlane]

/-- Settles O49: a hop by the message's column, the collector by its oldest message, a lane by what it holds. -/
theorem trapMessageSteps : Obligations.TrapMessageSteps := by
  unfold Obligations.TrapMessageSteps
  refine ⟨fun s k m hm halone => ⟨fun hcol => ?west, fun hcol hroom hfirst => ?collects⟩, fun s k j m x hm hx hequal => ?merges,
    fun s die row m rest hdie hheld hroom => ?posts, fun s lane => ?lane, fun s k m hm hdies hholds => ?held⟩
  case west => exact ⟨_, trapMessageHop_west hm halone hcol, rfl⟩
  case collects =>
    refine ⟨_, trapMessageHop_collects hm halone hcol hroom hfirst, State.modDie_traps _ _ _, ?_, State.modDie_cores _ _ _⟩
    rw [State.die_modDie_self]
    exact mget_mset_self _ _ _ _
  case merges =>
    have hfound := hequal
    unfold firstSuch at hfound
    have hother := List.find?_some hfound
    obtain ⟨hj, -⟩ := Bool.and_eq_true_iff.1 hother
    have hk : k < s.traps.length := (List.getElem?_eq_some_iff.1 hm).1
    refine ⟨_, trapMessageHop_merges hm hequal, ?_, mem_eraseIdx_modify hx (bne_iff_ne.1 hj) _, rfl⟩
    rw [List.length_eraseIdx_of_lt (by rw [List.length_modify]; exact hk), List.length_modify]
    omega
  case posts =>
    refine ⟨_, collectorPost_posts hdie hheld hroom, ?_, ?_, ?_⟩
    · rw [supPut_coll _ _ _ die (by omega), State.die_modDie_self]
      exact mget_mset_self _ _ _ _
    · obtain ⟨-, -, hbox, -⟩ := supPut_fields (s.modDie die (fun d => { d with coll := mset d.coll row rest })) (die * 4 + row % 4) (eventEntry 32 m.flit)
      have hsame : (s.modDie die (fun d => { d with coll := mset d.coll row rest })).supBox (die * 4 + row % 4) = s.supBox (die * 4 + row % 4) := by
        unfold State.supBox
        rw [show (die * 4 + row % 4) / 4 = die by omega, State.die_modDie_self]
      rw [hbox, hsame]
      rfl
    · obtain ⟨-, hcores, -⟩ := supPut_fields (s.modDie die (fun d => { d with coll := mset d.coll row rest })) (die * 4 + row % 4) (eventEntry 32 m.flit)
      exact hcores.trans (State.modDie_cores _ _ _)
  case lane =>
    refine ⟨_, rfl, rfl, ?_, fun x hx => mget_mset_other _ _ _ _ _ hx⟩
    refine (mget_mset_self _ _ _ _).trans ?_
    unfold State.laneHolds
    by_cases h : mget 0 s.replays lane = 0 <;> simp [h]
  case held =>
    change execMessageArrival k s = _
    unfold execMessageArrival
    rw [hm]
    dsimp only
    rw [msgHeld_of_lane hdies hholds]
    rfl

end Sys2Proof.Machine
end

section
/-! PROOF. Swaps and compensation (O56): who is asked to make way, how a group comes back, and how a routine starts. -/

namespace Sys2Proof.Machine

theorem sameContexts_modCore (s : State) (p : Nat) {f : Core → Core} (hf : ∀ c k, (f c).context k = c.context k) :
    SameContexts s (s.modCore p f) := by
  intro q k
  rw [State.core_modCore]
  split
  · rename_i hq; rw [hq]; exact hf _ _
  · rfl

/-! ### Making way (R315, R316) -/

/-- A core that is in no gang is asked alone. -/
theorem gang_alone {s : State} {p : Nat} (h : (s.core p).memb = 0) : s.gang p = [p] := if_pos h

/-- A pre-emption is posted to a core; an earlier one stays. -/
def Core.preempted (c : Core) (sub : Nat) : Core :=
  { c with preempt := match c.preempt with
      | some k => some k
      | none => some sub }

/-- The core is to make way. -/
def Core.makesWay (c : Core) (high : Bool) : Core := { c with swapping := true, swapHigh := high }

theorem askSwap_alone {s : State} {p : Nat} (hmemb : (s.core p).memb = 0) (sub : Nat) (high : Bool) :
    s.askSwap p sub high = (s.modCore p (fun c => c.preempted sub)).modCore p (fun c => c.makesWay high) := by
  unfold State.askSwap State.postPreempt
  rw [gang_alone hmemb]
  rfl

theorem askSwap_leaves {s : State} {p : Nat} (hmemb : (s.core p).memb = 0) (hnone : (s.core p).preempt = none) (sub : Nat) (high : Bool) :
    ((s.askSwap p sub high).core p).swapping = true ∧ ((s.askSwap p sub high).core p).preempt = some sub
      ∧ SameMemory s (s.askSwap p sub high) ∧ SameContexts s (s.askSwap p sub high) := by
  rw [askSwap_alone hmemb]
  have hmemory := (sameMemory_modCore s p (f := fun c => c.preempted sub) (fun _ => rfl)).trans
    (sameMemory_modCore (s.modCore p (fun c => c.preempted sub)) p (f := fun c => c.makesWay high) (fun _ => rfl))
  have hcontexts := (sameContexts_modCore s p (f := fun c => c.preempted sub) (fun _ _ => rfl)).trans
    (sameContexts_modCore (s.modCore p (fun c => c.preempted sub)) p (f := fun c => c.makesWay high) (fun _ _ => rfl))
  refine ⟨?_, ?_, hmemory, hcontexts⟩
  · rw [State.core_modCore_self]; rfl
  · rw [State.core_modCore_self, State.core_modCore_self]
    unfold Core.makesWay Core.preempted
    rw [hnone]

theorem sliceExpiry_asks {s : State} {p q : Nat} {g : GroupRun} {l : Launch} (hruns : s.runsLaunch p = some (q, g, l))
    (hswap : (s.core p).swapping = false) (hnone : (s.core p).preempt = none) (hwanted : s.wanted q p l true = true)
    {due waits : Bool} (hdue : (l.slice != 0 && decide (l.slice ≤ g.ran)) = due) (hwaits : ((s.core p).ctl.run == .waiting) = waits)
    (hasks : (due || waits) = true) :
    Sys2Proof.Machine.exec (.sliceExpiry p) s = .next (s.askSwap p (if due then 1 else 4) true) := by
  change execSliceExpiry p s = _
  unfold execSliceExpiry
  rw [hruns]
  dsimp only
  rw [hdue, hwaits, hswap, hnone, hwanted, hasks]
  rfl

/-- A core whose counted wait has lasted LIM cycles, and which nothing has asked to make way yet. -/
structure LongWait (c : Core) : Prop where
  counted : c.counted = true
  counts : c.noCount = false
  stays : c.swapping = false
  free : c.preempt = none
  limited : c.twt ≠ 0
  lasted : c.twt.toNat ≤ c.waited

theorem LongWait.due {c : Core} (h : LongWait c) :
    (c.counted && !c.noCount && !c.swapping && c.preempt.isNone && c.twt != 0 && decide (c.twt.toNat ≤ c.waited)) = true := by
  rw [h.counted, h.counts, h.stays, h.free, bne_iff_ne.2 h.limited, decide_eq_true h.lasted]
  rfl

theorem longWaitExpiry_asks {s : State} {p q : Nat} {g : GroupRun} {l : Launch} (hruns : s.runsLaunch p = some (q, g, l))
    (hwait : LongWait (s.core p)) (hwanted : s.wanted q p l false = true) :
    Sys2Proof.Machine.exec (.longWaitExpiry p) s = .next (s.askSwap p 3 false) := by
  change execLongWaitExpiry p s = _
  unfold execLongWaitExpiry
  dsimp only
  rw [hruns]
  dsimp only
  rw [if_pos hwait.due, if_pos hwanted]

/-- With no other share for the unit, a core that is in no gang is not counted again. -/
theorem longWaitExpiry_uncounts {s : State} {p q : Nat} {g : GroupRun} {l : Launch} (hruns : s.runsLaunch p = some (q, g, l))
    (hwait : LongWait (s.core p)) (hwanted : s.wanted q p l false = false) (hmemb : (s.core p).memb = 0) :
    Sys2Proof.Machine.exec (.longWaitExpiry p) s = .next (s.modCore p (fun c => { c with noCount := true })) := by
  change execLongWaitExpiry p s = _
  unfold execLongWaitExpiry
  dsimp only
  rw [hruns]
  dsimp only
  rw [if_pos hwait.due, hwanted, if_neg Bool.false_ne_true, gang_alone hmemb]
  rfl

/-! ### Coming back (R316, R342) -/

theorem enterHandler_group (s : State) (p : Nat) (e : Entry) :
    ((s.enterHandler p e).core p).group = (s.core p).group ∧ ((s.enterHandler p e).core p).swaps = (s.core p).swaps := by
  unfold State.enterHandler
  rw [State.core_modCore_self]
  exact ⟨Core.setContext_group _ _ _, Core.setContext_swaps _ _ _⟩

/-- The entry of RESUME (R342). -/
def resumeEntry (info : Word) : Entry := { ctx := 0, cls := 0x11, sub := 0, info := info, epc := 0, seq := 0 }

theorem resumeAt_core (s : State) (p : Nat) (info : Word) :
    (s.resumeAt p info).core p = { (s.enterHandler p (resumeEntry info)).core p with tctx := 0 } := State.core_modCore_self _ _ _

theorem resumeAt_memory (s : State) (p : Nat) (info : Word) : SameMemory s (s.resumeAt p info) :=
  SameMemory.trans (sameMemory_of_mems (mems_enterHandler s p (resumeEntry info)))
    (sameMemory_modCore (s.enterHandler p (resumeEntry info)) p (f := fun c => { c with tctx := 0 }) (fun _ => rfl))

/-- A group that was set aside, and that nothing keeps out, comes back. -/
theorem swapResume_resumes {s : State} {p q : Nat} {w : Swapped} {rest : List Swapped} (hpart : s.partOf p = some q)
    (hout : s.swappedCore p = false) (hswaps : (s.core p).swaps = w :: rest) (hreplay : w.group.replay = false)
    (hgroup : (s.core p).group = none) (hidle : s.idleCore p = true) (hover : ∀ l ∈ (s.part q).launches, l.serial ≠ w.by') :
    Sys2Proof.Machine.exec (.swapResume p) s = .next ((s.modCore p (fun c => c.takeBack w rest)).resumeAt p 0) := by
  have hresume : s.resumeSwapped q p w rest = (s.modCore p (fun c => c.takeBack w rest)).resumeAt p 0 := by
    unfold State.resumeSwapped
    rw [hreplay]
    rfl
  have hnone : ∀ f : Launch → Bool, ((s.part q).launches.any (fun l => l.serial == w.by' && f l)) = false := fun f => by
    rw [List.any_eq_false]
    intro l hl
    rw [beq_eq_false_iff_ne.2 (hover l hl)]
    exact Bool.false_ne_true
  change execSwapResume p s = _
  unfold execSwapResume
  dsimp only
  rw [hpart]
  dsimp only
  rw [hout, hswaps]
  dsimp only
  rw [hgroup, hidle, hnone, hresume]
  rfl

/-! ### A compensation routine starts (R292, R353) -/

theorem compensationStart_starts {s : State} {d seq p h : Nat} {e : Chest} (hentry : (s.die (d % 2)).chestBy seq = some e)
    (hrunnable : s.runnable e = true) (hphys : s.physOf e.part e.lpid = some p) (hfree : (s.core p).freeHelperNo = some h)
    (hpoisoned : (s.core p).poisoned = false) (hdead : (s.core p).dead = false) :
    Sys2Proof.Machine.exec (.compensationStart d seq) s = .next ((s.modCore p (fun c => c.modContext h (fun x =>
      { startedHelper x (e.pc.setWidth 64) e.arg (BitVec.ofNat 64 e.id) (BitVec.ofNat 64 e.seq) (lvlOf c.ctl.tsw) with
        comp := some seq }))).mapChest (fun l => l.map (fun f => if f.seq == seq then { f with state := 2, helper := h } else f))) := by
  change execCompensationStart d seq s = _
  unfold execCompensationStart
  rw [hentry]
  dsimp only
  rw [hphys]
  dsimp only
  rw [hfree]
  dsimp only
  rw [hrunnable, hpoisoned, hdead]
  rfl

/-- Settles O56: making way by what is asked of a core alone, the return by the entry to its handler, a routine by its started helper. -/
theorem swapSteps : Obligations.SwapSteps := by
  unfold Obligations.SwapSteps
  refine ⟨fun s p q g l hruns hswap hnone hmemb hwanted => ⟨fun h0 hran => ?slice, fun hnotdue hwaits => ?waits⟩,
    fun s p q g l hruns hcounted hcount hswap hnone hmemb htwt hwaited => ⟨fun hwanted => ?long, fun hwanted => ?alone⟩,
    fun s p q w rest hpart hout hswaps hreplay hgroup hidle hover => ?resume, fun s d seq p h e hentry hrunnable hphys hfree hpoisoned hdead h1 => ?start⟩
  case slice =>
    have hdue : (l.slice != 0 && decide (l.slice ≤ g.ran)) = true := by rw [bne_iff_ne.2 h0, decide_eq_true hran]; rfl
    exact ⟨_, sliceExpiry_asks hruns hswap hnone hwanted hdue rfl rfl, askSwap_leaves hmemb hnone 1 true⟩
  case waits =>
    have hdue : (l.slice != 0 && decide (l.slice ≤ g.ran)) = false := by
      rcases hnotdue with h0 | hran
      · rw [h0]; rfl
      · rw [decide_eq_false (by omega), Bool.and_false]
    have hwait : ((s.core p).ctl.run == .waiting) = true := by rw [hwaits]; rfl
    exact ⟨_, sliceExpiry_asks hruns hswap hnone hwanted hdue hwait rfl, askSwap_leaves hmemb hnone 4 true⟩
  case long =>
    exact ⟨_, longWaitExpiry_asks hruns ⟨hcounted, hcount, hswap, hnone, htwt, hwaited⟩ hwanted, askSwap_leaves hmemb hnone 3 false⟩
  case alone =>
    refine ⟨_, longWaitExpiry_uncounts hruns ⟨hcounted, hcount, hswap, hnone, htwt, hwaited⟩ hwanted hmemb, ?_, ?_, ?_, ?_⟩
    · rw [State.core_modCore_self]
    · rw [State.core_modCore_self]; exact hswap
    · exact sameMemory_modCore s p (by intros; rfl)
    · exact sameContexts_modCore s p (by intros; rfl)
  case resume =>
    refine ⟨_, swapResume_resumes hpart hout hswaps hreplay hgroup hidle hover, ?_⟩
    obtain ⟨u, hu⟩ : ∃ u, s.modCore p (fun c => c.takeBack w rest) = u := ⟨_, rfl⟩
    have hucore : u.core p = (s.core p).takeBack w rest := by rw [← hu, State.core_modCore_self]
    have humemory : SameMemory s u := hu ▸ sameMemory_modCore s p (f := fun c => c.takeBack w rest) (fun _ => rfl)
    rw [hu, resumeAt_core]
    have hentry := enterHandler_tookEntry u p (resumeEntry 0)
    obtain ⟨hgroup', hswaps'⟩ := enterHandler_group u p (resumeEntry 0)
    have hctl : ((u.enterHandler p (resumeEntry 0)).core p).ctl = { (u.core p).context 0 with
      run := .ready, pc := (u.core p).hvec, rep := Rep.none, tsw := wput ((u.core p).context 0).tsw 0 2 1 } := hentry.context
    refine ⟨?_, ?_, hentry.handler, hentry.cause, hentry.info, hentry.epc.trans (by decide), rfl, ?_, ?_, ?_, humemory.trans (resumeAt_memory u p 0)⟩
    · exact hswaps'.trans (by rw [hucore]; rfl)
    · exact hgroup'.trans (by rw [hucore]; rfl)
    · exact (congrArg Context.pc hctl).trans (by rw [hucore]; rfl)
    · exact congrArg Context.run hctl
    · exact (congrArg (fun x : Context => lvlOf x.tsw) hctl).trans (lvlOf_wput _ (by decide))
  case start =>
    refine ⟨_, compensationStart_starts hentry hrunnable hphys hfree hpoisoned hdead, ?_⟩
    obtain ⟨u, hu⟩ : ∃ u, s.modCore p (fun c => c.modContext h (fun x =>
      { startedHelper x (e.pc.setWidth 64) e.arg (BitVec.ofNat 64 e.id) (BitVec.ofNat 64 e.seq) (lvlOf c.ctl.tsw) with
        comp := some seq })) = u := ⟨_, rfl⟩
    rw [hu]
    have hcontext : ∀ k, (u.core p).context k = if k = h then _ else (s.core p).context k := fun k => by
      rw [← hu, State.core_modCore_self]
      exact Core.context_modContext _ _ _ _
    have hsreg := startedHelper_sreg ((s.core p).context h) (e.pc.setWidth 64) e.arg (BitVec.ofNat 64 e.id) (BitVec.ofNat 64 e.seq) (lvlOf (s.core p).ctl.tsw)
    refine ⟨?_, fun k hk => (hcontext k).trans (if_neg hk), ?_⟩
    · intro x
      have hx := (hcontext h).trans (if_pos rfl)
      have hxx : x = _ := hx
      rw [hxx]
      exact ⟨rfl, rfl, hsreg 1, hsreg 2, hsreg 3, rfl⟩
    · exact SameMemory.trans (hu ▸ sameMemory_modCore s p (fun c => Core.modContext_mem c _ _)) ⟨fun _ => rfl, fun _ => rfl, rfl⟩

end Sys2Proof.Machine
end

section
/-! PROOF. Entries to the handler that no instruction raises (O57): each is an entry taken by its core, after what is dropped before it. -/

namespace Sys2Proof.Machine

/-! ### What an entry leaves, seen from the state before it -/

/-- From `s` to `t`, context `k` of core `p` has entered the handler with this class, subcause, information and PC (R326). -/
def HandlerEntered (s t : State) (p k cls sub : Nat) (info pc : Word) : Prop :=
  (t.core p).handler = some k ∧ (t.core p).cause = BitVec.ofNat 64 (sub * 256 + cls) ∧ (t.core p).info = info
    ∧ (t.core p).epc = pc &&& ~~~1#64 ∧ (t.core p).shadow.win = ((s.core p).context k).win
    ∧ ((t.core p).context k).pc = (s.core p).hvec ∧ ((t.core p).context k).run = .ready
    ∧ lvlOf ((t.core p).context k).tsw = 1 ∧ ((t.core p).context k).rep = Rep.none
    ∧ (∀ n, ((t.core p).context k).sreg n = ((s.core p).context k).sreg n
        ∧ ((t.core p).context k).vreg n = ((s.core p).context k).vreg n) ∧ SameMemory s t

/-- Before its entry, core `c` is core `p` of `s` but for bits of the context's CTX.TSW. -/
structure BeforeEntry (s : State) (p k : Nat) (c : Core) : Prop where
  context : ∃ b, c.context k = { (s.core p).context k with tsw := ((s.core p).context k).tsw ||| b }
  hvec : c.hvec = (s.core p).hvec

theorem BeforeEntry.of_same {s : State} {p k : Nat} {c : Core} (hcontext : c.context k = (s.core p).context k)
    (hhvec : c.hvec = (s.core p).hvec) : BeforeEntry s p k c := ⟨⟨0, by simp [hcontext]⟩, hhvec⟩

theorem BeforeEntry.trans {s u : State} {p k : Nat} {c : Core} (h : BeforeEntry s p k (u.core p)) (g : BeforeEntry u p k c) :
    BeforeEntry s p k c := by
  obtain ⟨⟨a, ha⟩, hhvec⟩ := h
  obtain ⟨⟨b, hb⟩, hhvec'⟩ := g
  refine ⟨⟨a ||| b, ?_⟩, hhvec'.trans hhvec⟩
  rw [hb, ha]
  simp [BitVec.or_assoc]

/-- Two cores have the same handler, TRAP registers, shadow and context `k`. -/
structure SameHandler (c d : Core) (k : Nat) : Prop where
  handler : d.handler = c.handler
  cause : d.cause = c.cause
  info : d.info = c.info
  epc : d.epc = c.epc
  shadow : d.shadow = c.shadow
  context : d.context k = c.context k

theorem SameHandler.refl (c : Core) (k : Nat) : SameHandler c c k := ⟨rfl, rfl, rfl, rfl, rfl, rfl⟩

theorem handlerEntered_of_tookEntry {s t : State} {p : Nat} {e : Entry} {c d : Core} (hbefore : BeforeEntry s p e.ctx c)
    (hentry : TookEntry c e d) (hafter : SameHandler d (t.core p) e.ctx) (hmemory : SameMemory s t) :
    HandlerEntered s t p e.ctx e.cls e.sub e.info e.epc := by
  obtain ⟨⟨b, hcontext⟩, hhvec⟩ := hbefore
  have hc := hafter.context.trans hentry.context
  rw [hcontext] at hc
  refine ⟨hafter.handler.trans hentry.handler, hafter.cause.trans hentry.cause, hafter.info.trans hentry.info, hafter.epc.trans hentry.epc,
    ?_, ?_, ?_, ?_, ?_, fun n => ⟨?_, ?_⟩, hmemory⟩
  · rw [hafter.shadow, hentry.shadow, hcontext]
  · rw [hc, hhvec]
  · rw [hc]
  · rw [hc]; exact lvlOf_wput _ (by decide)
  · rw [hc]
  · rw [hc]; rfl
  · rw [hc]; rfl

/-- With no handler active, an entry is taken at once (R327). -/
theorem deliver_of_none {s : State} {p : Nat} (h : (s.core p).handler = none) (e : Entry) : s.deliver p e = s.enterHandler p e := by
  unfold State.deliver
  rw [h]
  rfl

/-- Partial records are dropped from the core alone, and set bits of CTX.TSW (R70). -/
theorem dropAsm_core (s : State) (p k : Nat) : ∃ a m r b, (s.dropAsm p k).core p
    = { s.core p with asmC := a, asmM := m, asmR := r }.modContext k (fun x => { x with tsw := x.tsw ||| b }) :=
  ⟨_, _, _, _, State.core_modCore_self _ _ _⟩

theorem dropAsm_before (s : State) (p k : Nat) : BeforeEntry s p k ((s.dropAsm p k).core p) := by
  obtain ⟨a, m, r, b, hcore⟩ := dropAsm_core s p k
  rw [hcore]
  exact ⟨⟨b, Core.context_modContext_self _ _ _⟩, Core.modContext_hvec _ _ _⟩

theorem dropAsm_keeps (s : State) (p k : Nat) {α : Type} (g : Core → α) (hasm : ∀ (c : Core) a m r, g { c with asmC := a, asmM := m, asmR := r } = g c)
    (hcontext : ∀ (c : Core) (f : Context → Context), g (c.modContext k f) = g c) : g ((s.dropAsm p k).core p) = g (s.core p) := by
  obtain ⟨a, m, r, b, hcore⟩ := dropAsm_core s p k
  rw [hcore, hcontext, hasm]

theorem sameMemory_dropAsm (s : State) (p k : Nat) : SameMemory s (s.dropAsm p k) := sameMemory_of_mems (mems_dropAsm s p k)

theorem sameMemory_enterHandler (s : State) (p : Nat) (e : Entry) : SameMemory s (s.enterHandler p e) :=
  sameMemory_of_mems (mems_enterHandler s p e)

/-! ### Pre-emption (R334) -/

/-- A function of the state that changes one core, by that core alone, does so once for each of several cores. -/
theorem core_foldl_local {f : State → Nat → State} (hother : ∀ s r q, q ≠ r → (f s r).core q = s.core q)
    (hown : ∀ s u r, s.core r = u.core r → (f s r).core r = (f u r).core r) {l : List Nat} (hnodup : l.Nodup) {r : Nat} (hr : r ∈ l) (s : State) :
    (l.foldl f s).core r = (f s r).core r := by
  induction l generalizing s with
  | nil => cases hr
  | cons q l ih =>
    obtain ⟨hq, hl⟩ := List.nodup_cons.1 hnodup
    have hout : ∀ (l : List Nat) (s : State), r ∉ l → (l.foldl f s).core r = s.core r := by
      intro l
      induction l with
      | nil => exact fun _ _ => rfl
      | cons q l ih =>
        intro s hr
        rw [List.foldl_cons, ih _ (fun h => hr (List.mem_cons_of_mem _ h)), hother _ _ _ (fun h => hr (by rw [h]; exact List.mem_cons_self))]
    rw [List.foldl_cons]
    by_cases hrq : r = q
    · subst hrq
      exact hout l _ hq
    · have hrl : r ∈ l := (List.mem_cons.1 hr).resolve_left hrq
      rw [ih hl hrl]
      exact hown _ _ _ (hother _ _ _ hrq)

/-- The entry of a pre-emption. -/
def preemptEntryOf (c : Core) (sub : Nat) : Entry := { ctx := 0, cls := 0x0F, sub := sub, info := 0, epc := c.ctl.pc, seq := 0 }

/-- The pre-emption has been taken, and a member of a gang remembers where it was. -/
def Core.preemptTaken (c : Core) : Core :=
  { c with preempt := none, gpos := if c.memb = 0 && c.queue.isEmpty then none else some c.ctl.pc }

theorem preemptOne_eq (s : State) (p sub : Nat) : s.preemptOne p sub
    = (s.modCore p Core.preemptTaken).enterHandler p (preemptEntryOf ((s.modCore p Core.preemptTaken).core p) sub) := rfl

theorem enterHandler_preempt (s : State) (p : Nat) (e : Entry) : ((s.enterHandler p e).core p).preempt = (s.core p).preempt := by
  unfold State.enterHandler
  rw [State.core_modCore_self]
  exact Core.setContext_preempt _ _ _

theorem enterHandler_other (s : State) {p q : Nat} (h : q ≠ p) (e : Entry) : (s.enterHandler p e).core q = s.core q := by
  unfold State.enterHandler
  rw [State.core_modCore, if_neg h]

/-- A core's part of an entry turns on that core alone. -/
theorem enterHandler_own {s u : State} {p : Nat} (h : s.core p = u.core p) (e : Entry) :
    (s.enterHandler p e).core p = (u.enterHandler p e).core p := by
  unfold State.enterHandler
  rw [State.core_modCore_self, State.core_modCore_self, h]

theorem preemptOne_other (s : State) (sub : Nat) {p q : Nat} (h : q ≠ p) : (s.preemptOne p sub).core q = s.core q := by
  rw [preemptOne_eq, enterHandler_other _ h, State.core_modCore, if_neg h]

theorem preemptOne_own {s u : State} {p : Nat} (sub : Nat) (h : s.core p = u.core p) :
    (s.preemptOne p sub).core p = (u.preemptOne p sub).core p := by
  have hcore : (s.modCore p Core.preemptTaken).core p = (u.modCore p Core.preemptTaken).core p := by
    rw [State.core_modCore_self, State.core_modCore_self, h]
  rw [preemptOne_eq, preemptOne_eq, hcore]
  exact enterHandler_own hcore _

theorem preemptOne_enters (s : State) (p sub : Nat) :
    HandlerEntered s (s.preemptOne p sub) p 0 0x0F sub 0 (s.core p).ctl.pc ∧ ((s.preemptOne p sub).core p).preempt = none := by
  obtain ⟨u, hu⟩ : ∃ u, s.modCore p Core.preemptTaken = u := ⟨_, rfl⟩
  have hcore : u.core p = (s.core p).preemptTaken := by rw [← hu, State.core_modCore_self]
  have hmemory : SameMemory s u := hu ▸ sameMemory_modCore s p (f := Core.preemptTaken) (fun _ => rfl)
  have hbefore : BeforeEntry s p 0 (u.core p) := .of_same (by rw [hcore]; rfl) (by rw [hcore]; rfl)
  have hentered := handlerEntered_of_tookEntry hbefore (enterHandler_tookEntry u p (preemptEntryOf (u.core p) sub)) (SameHandler.refl _ _)
    (hmemory.trans (sameMemory_enterHandler _ _ _))
  rw [preemptOne_eq, hu]
  refine ⟨?_, ?_⟩
  · have hpc : (u.core p).ctl.pc = (s.core p).ctl.pc := by rw [hcore]; rfl
    rw [← hpc]
    exact hentered
  · rw [enterHandler_preempt, hcore]; rfl

theorem sameMemory_preemptOne (s : State) (p sub : Nat) : SameMemory s (s.preemptOne p sub) :=
  (sameMemory_modCore s p (f := Core.preemptTaken) (fun _ => rfl)).trans (sameMemory_enterHandler _ _ _)

theorem sameMemory_refl (s : State) : SameMemory s s := ⟨fun _ => rfl, fun _ => rfl, rfl⟩

/-- The cores that take a pre-emption together: the core and the other members of its gang, each once. -/
theorem nodup_mates (s : State) (p : Nat) : (p :: s.mates p).Nodup :=
  List.nodup_cons.2 ⟨fun h => absurd (List.of_mem_filter h) (by simp), (nodup_gang s p).filter _⟩

theorem HandlerEntered.of_core {s t u : State} {p k cls sub : Nat} {info pc : Word} (h : HandlerEntered s t p k cls sub info pc)
    (hcore : u.core p = t.core p) (hmemory : SameMemory s u) : HandlerEntered s u p k cls sub info pc := by
  obtain ⟨h1, h2, h3, h4, h5, h6, h7, h8, h9, h10, -⟩ := h
  unfold HandlerEntered
  rw [hcore]
  exact ⟨h1, h2, h3, h4, h5, h6, h7, h8, h9, h10, hmemory⟩

theorem preemptEntry_enters {s : State} {p sub : Nat} (hpending : (s.core p).preempt = some sub) (hready : s.preemptReady p = true) :
    ∃ t, Sys2Proof.Machine.exec (.preemptEntry p) s = .next t ∧ (t.core p).preempt = none
      ∧ ∀ r ∈ p :: s.mates p, HandlerEntered s t r 0 0x0F sub 0 (s.core r).ctl.pc := by
  have hexec : Sys2Proof.Machine.exec (.preemptEntry p) s = .next ((p :: s.mates p).foldl (fun s q => s.preemptOne q sub) s) := by
    change Host.Outcome.next (s.preemptEntry p) = _
    unfold State.preemptEntry
    rw [hpending]
    dsimp only
    rw [if_pos hready]
  have hmemory : SameMemory s ((p :: s.mates p).foldl (fun s q => s.preemptOne q sub) s) :=
    foldl_rel (R := SameMemory) sameMemory_refl SameMemory.trans _ _ (fun s q => sameMemory_preemptOne s q sub) s
  have hcore : ∀ r ∈ p :: s.mates p, ((p :: s.mates p).foldl (fun s q => s.preemptOne q sub) s).core r = (s.preemptOne r sub).core r :=
    fun r hr => core_foldl_local (fun s r q h => preemptOne_other s sub h) (fun s u r h => preemptOne_own sub h) (nodup_mates s p) hr s
  refine ⟨_, hexec, ?_, fun r hr => (preemptOne_enters s r sub).1.of_core (hcore r hr) hmemory⟩
  rw [hcore p List.mem_cons_self]
  exact (preemptOne_enters s p sub).2

/-! ### Late faults (R330) -/

/-- Core `p` of `u` is as it was in `s` before context `k`'s partial records were dropped and a gang left. -/
structure Dropped (s : State) (p k : Nat) (u : State) : Prop where
  before : BeforeEntry s p k (u.core p)
  memory : SameMemory s u
  handler : (u.core p).handler = (s.core p).handler

theorem dropAsm_dropped (s : State) (p k : Nat) : Dropped s p k (s.dropAsm p k) :=
  ⟨dropAsm_before s p k, sameMemory_dropAsm s p k,
    dropAsm_keeps s p k Core.handler (fun _ _ _ _ => rfl) (fun c f => Core.modContext_handler c k f)⟩

/-- What context `k` drops at a boundary: the control context leaves its gang too. -/
def State.dropFor (s : State) (p k : Nat) : State := if k = 0 then (s.dropAsm p k).leaveGang p else s.dropAsm p k

theorem dropFor_dropped (s : State) (p k : Nat) : Dropped s p k (s.dropFor p k) := by
  have hdrop := dropAsm_dropped s p k
  unfold State.dropFor
  split
  · obtain ⟨hbefore, hmemory, hhandler⟩ := hdrop
    have hquiet := quiet_leaveGang (s.dropAsm p k) p
    exact ⟨hbefore.trans (.of_same (hquiet.1 p k) (hquiet.alike.core Core.hvec (fun _ => rfl) p)), hmemory.trans hquiet.account.sameMemory,
      (hquiet.alike.core Core.handler (fun _ => rfl) p).trans hhandler⟩
  · exact hdrop

theorem dropFor_diverge (s : State) (p k : Nat) : ((s.dropFor p k).core p).diverge = (s.core p).diverge := by
  have hdrop := dropAsm_keeps s p k Core.diverge (fun _ _ _ _ => rfl) (fun c f => Core.modContext_diverge c k f)
  unfold State.dropFor
  split
  · exact ((quiet_leaveGang _ p).alike.core Core.diverge (fun _ => rfl) p).trans hdrop
  · exact hdrop

theorem BeforeEntry.pc {s : State} {p k : Nat} {c : Core} (h : BeforeEntry s p k c) : (c.context k).pc = ((s.core p).context k).pc := by
  obtain ⟨⟨b, hb⟩, -⟩ := h
  rw [hb]

/-- With no handler active, an entry that is delivered after the drop is entered. -/
theorem Dropped.delivers {s u : State} {p : Nat} {e : Entry} (h : Dropped s p e.ctx u) (hhandler : (s.core p).handler = none) :
    HandlerEntered s (u.deliver p e) p e.ctx e.cls e.sub e.info e.epc ∧ TookEntry (u.core p) e ((u.deliver p e).core p) := by
  rw [deliver_of_none (h.handler.trans hhandler)]
  have hentry := enterHandler_tookEntry u p e
  exact ⟨handlerEntered_of_tookEntry h.before hentry (SameHandler.refl _ _) (h.memory.trans (sameMemory_enterHandler _ _ _)), hentry⟩

theorem lateFaultEntry_enters {s : State} {p k : Nat} {r : RingEntry} (hlate : (s.core p).lateFault = some (k, r))
    (hboundary : (s.core p).atBoundary 0 = true) (hreplay : (s.core p).replay = none) (hhandler : (s.core p).handler = none) :
    ∃ t, Sys2Proof.Machine.exec (.lateFaultEntry p) s = .next t ∧ HandlerEntered s t p 0 r.cls r.sub r.info (s.core p).ctl.pc
      ∧ (t.core p).tctx.toNat / 2 ^ 20 % 16 = k % 16 := by
  have hdropped := dropFor_dropped s p 0
  obtain ⟨u, hu⟩ : ∃ u, (s.dropAsm p 0).leaveGang p = u := ⟨_, rfl⟩
  rw [show s.dropFor p 0 = u from hu] at hdropped
  have hpc : (u.core p).ctl.pc = (s.core p).ctl.pc := hdropped.before.pc
  have hexec : Sys2Proof.Machine.exec (.lateFaultEntry p) s = .next (u.deliver p
      { ctx := 0, cls := r.cls, sub := r.sub, info := r.info, epc := (u.core p).ctl.pc, seq := k }) := by
    change Host.Outcome.next (s.lateFaultEntry p) = _
    unfold State.lateFaultEntry
    dsimp only
    rw [hlate]
    dsimp only
    rw [hboundary, hreplay, hu]
    rfl
  obtain ⟨hentered, hentry⟩ := hdropped.delivers (e := { ctx := 0, cls := r.cls, sub := r.sub, info := r.info, epc := (u.core p).ctl.pc, seq := k }) hhandler
  refine ⟨_, hexec, hpc ▸ hentered, ?_⟩
  have hlvl : lvlOf ((u.core p).context 0).tsw < 4 := Nat.mod_lt _ (by decide)
  rw [hentry.tctx, BitVec.toNat_ofNat]
  dsimp only
  omega

/-! ### Divergences (R267) -/

/-- A divergence that is noted at a boundary is one of a context that runs. -/
theorem filter_boundary (c : Core) : (c.diverge.filter (fun d => (c.context d.1).run != .free)).filter (fun d => c.atBoundary d.1)
    = c.diverge.filter (fun d => c.atBoundary d.1) := by
  rw [List.filter_filter]
  refine List.filter_congr (fun d _ => ?_)
  cases hb : c.atBoundary d.1 with
  | false => rfl
  | true =>
    unfold Core.atBoundary Core.stands at hb
    simp only [Bool.and_eq_true, Bool.or_eq_true, beq_iff_eq] at hb
    obtain ⟨⟨-, hrun⟩, -⟩ := hb
    rcases hrun with h | h <;> rw [h] <;> rfl

theorem enterHandler_diverge (s : State) (p : Nat) (e : Entry) : ((s.enterHandler p e).core p).diverge = (s.core p).diverge := by
  unfold State.enterHandler
  rw [State.core_modCore_self]
  exact Core.setContext_diverge _ _ _

/-- The core's divergences of contexts that have ended are dropped. -/
def Core.liveDiverge (c : Core) : Core := { c with diverge := c.diverge.filter (fun d => (c.context d.1).run != .free) }

/-- A divergence is noted no more. -/
def Core.dropDiverge (c : Core) (d : Nat × Nat × BitVec 32) : Core := { c with diverge := c.diverge.erase d }

theorem divergeEntry_enters {s : State} {p k sub : Nat} {tag : BitVec 32}
    (hnow : (((s.core p).diverge.filter (fun d => (s.core p).atBoundary d.1)).find? (fun d => d.1 == 0)).or
      ((s.core p).diverge.filter (fun d => (s.core p).atBoundary d.1)).head? = some (k, sub, tag))
    (hsaved : (s.core p).saved = false) (hhandler : (s.core p).handler = none) :
    ∃ t, Sys2Proof.Machine.exec (.divergeEntry p) s = .next t
      ∧ HandlerEntered s t p k 0x10 sub (tag.setWidth 64) ((s.core p).context k).pc
      ∧ (t.core p).diverge = ((s.core p).diverge.filter (fun d => ((s.core p).context d.1).run != .free)).erase (k, sub, tag) := by
  obtain ⟨u, hu⟩ : ∃ u, s.modCore p Core.liveDiverge = u := ⟨_, rfl⟩
  obtain ⟨w, hw⟩ : ∃ w, u.modCore p (fun c => c.dropDiverge (k, sub, tag)) = w := ⟨_, rfl⟩
  have hucore : u.core p = (s.core p).liveDiverge := by rw [← hu, State.core_modCore_self]
  have hwcore : w.core p = (s.core p).liveDiverge.dropDiverge (k, sub, tag) := by rw [← hw, State.core_modCore_self, hucore]
  have hwmemory : SameMemory s w := by
    rw [← hw, ← hu]
    exact (sameMemory_modCore s p (f := Core.liveDiverge) (fun _ => rfl)).trans
      (sameMemory_modCore _ p (f := fun c => c.dropDiverge (k, sub, tag)) (fun _ => rfl))
  have hnext : (u.core p).divergeNow = some (k, sub, tag) := by
    rw [hucore]
    unfold Core.divergeNow
    rw [show (s.core p).liveDiverge.saved = false from hsaved, if_neg Bool.false_ne_true]
    dsimp only
    rw [show (s.core p).liveDiverge.diverge.filter (fun d => (s.core p).liveDiverge.atBoundary d.1) = _ from filter_boundary (s.core p)]
    exact hnow
  have hwx := dropFor_dropped w p k
  have hdiverge := dropFor_diverge w p k
  have hexec : Sys2Proof.Machine.exec (.divergeEntry p) s = .next ((w.dropFor p k).deliver p
      { ctx := k, cls := 0x10, sub := sub, info := tag.setWidth 64, epc := (((w.dropFor p k).core p).context k).pc, seq := 0 }) := by
    change Host.Outcome.next (s.divergeEntry p) = _
    unfold State.divergeEntry
    dsimp only
    rw [show s.modCore p (fun c => { c with diverge := c.diverge.filter (fun d => (c.context d.1).run != .free) }) = u from hu, hnext]
    dsimp only
    rw [show u.modCore p (fun c => { c with diverge := c.diverge.erase (k, sub, tag) }) = w from hw]
    rfl
  generalize w.dropFor p k = x at hwx hdiverge hexec
  have hbefore : BeforeEntry s p k (x.core p) := BeforeEntry.trans (.of_same (by rw [hwcore]; rfl) (by rw [hwcore]; rfl)) hwx.before
  have hdropped : Dropped s p k x := ⟨hbefore, hwmemory.trans hwx.memory, hwx.handler.trans (by rw [hwcore]; rfl)⟩
  rw [hbefore.pc] at hexec
  refine ⟨_, hexec, (Dropped.delivers (e := { ctx := k, cls := 0x10, sub := sub, info := tag.setWidth 64, epc := ((s.core p).context k).pc, seq := 0 })
    hdropped hhandler).1, ?_⟩
  rw [deliver_of_none (hdropped.handler.trans hhandler), enterHandler_diverge, hdiverge, hwcore]
  rfl

/-! ### RESUME (R333, R342) -/

/-- The state after message `n` of a context's resumption has been accepted. -/
def State.resumeTaken (s : State) (n : Nat) (m : Msg) : State := { s with msgs := s.msgs.eraseIdx n, accs := s.accs ++ [m] }

theorem resumeMessage_resumes {s : State} {n : Nat} {m : Msg} (hm : s.msgs[n]? = some m) (hkind : m.kind = 1) (hrefusal : s.refusal m = 0)
    (hturn : s.inTurn m n = true) (hgo : (m.word 0).getLsbD 8 = false) :
    Sys2Proof.Machine.exec (.resumeMessage n) s = .next ((s.resumeTaken n m).resumeCtx m.dst m.target (m.word 1)) := by
  change execResumeMessage n s = _
  unfold execResumeMessage
  rw [hm]
  dsimp only
  rw [hkind, hrefusal, hturn, hgo]
  rfl

/-- The PC of the push at which the core met a reserved code is forgotten. -/
def Core.pushForgotten (c : Core) : Core := { c with stopPc := none }

theorem dropAsm_run (s : State) (p k : Nat) : (((s.dropAsm p k).core p).context k).run = ((s.core p).context k).run := by
  obtain ⟨⟨b, hb⟩, -⟩ := dropAsm_before s p k
  rw [hb]

theorem dropAsm_lpid (s : State) (p k : Nat) : ((s.dropAsm p k).core p).lpid = (s.core p).lpid :=
  dropAsm_keeps s p k Core.lpid (fun _ _ _ _ => rfl) (fun c f => Core.modContext_lpid c k f)

theorem Dropped.pushForgotten {s u : State} {p k : Nat} (h : Dropped s p k u) : Dropped s p k (u.modCore p Core.pushForgotten) := by
  obtain ⟨hbefore, hmemory, hhandler⟩ := h
  have hcore : (u.modCore p Core.pushForgotten).core p = (u.core p).pushForgotten := State.core_modCore_self _ _ _
  exact ⟨hbefore.trans (.of_same (by rw [hcore]; rfl) (by rw [hcore]; rfl)),
    hmemory.trans (sameMemory_modCore u p (f := Core.pushForgotten) (fun _ => rfl)), by rw [hcore]; exact hhandler⟩

/-- The control context of a core without a logical number enters its handler with PC and TRAP.CTX 0 (R342). -/
theorem resumeCtx_unnumbered {s : State} {p : Nat} {info : Word} (hhandler : (s.core p).handler = none)
    (hnone : (s.core p).lpid = none ∨ ((s.core p).context 0).run = .stopped .noLogical) :
    HandlerEntered s (s.resumeCtx p 0 info) p 0 0x11 0 info 0 ∧ ((s.resumeCtx p 0 info).core p).tctx = 0
      ∧ (s.resumeCtx p 0 info).msgs = s.msgs ∧ (s.resumeCtx p 0 info).accs = s.accs := by
  have hdropped := (dropAsm_dropped s p 0).pushForgotten
  have hresume : s.resumeCtx p 0 info = ((s.dropAsm p 0).modCore p Core.pushForgotten).resumeAt p info := by
    have hcond : (0 = 0 && ((((s.dropAsm p 0).core p).context 0).run == .stopped .noLogical || ((s.dropAsm p 0).core p).lpid.isNone)) = true := by
      rw [dropAsm_run, dropAsm_lpid]
      rcases hnone with h | h <;> rw [h] <;> simp
    have hfree : (((s.dropAsm p 0).modCore p Core.pushForgotten).core p).handler = none := hdropped.handler.trans hhandler
    unfold State.resumeCtx
    dsimp only
    rw [if_pos hcond]
    refine if_pos ?_
    rw [show ((s.dropAsm p 0).core p).handler = none from (dropAsm_dropped s p 0).handler.trans hhandler]
    rfl
  rw [hresume]
  refine ⟨?_, ?_, rfl, rfl⟩
  · refine handlerEntered_of_tookEntry hdropped.before (enterHandler_tookEntry _ p (resumeEntry info)) ?_ (hdropped.memory.trans (resumeAt_memory _ p info))
    rw [resumeAt_core]
    exact ⟨rfl, rfl, rfl, rfl, rfl, rfl⟩
  · rw [resumeAt_core]

/-- Another stopped context enters its handler at the instruction that stopped it, or at the push that met a reserved code (R333). -/
theorem resumeCtx_stopped {s : State} {p k : Nat} {info : Word} (hhandler : (s.core p).handler = none)
    (hrun : ((s.core p).context k).run ≠ .stopped .noLogical) (hnumber : k = 0 → (s.core p).lpid ≠ none) :
    HandlerEntered s (s.resumeCtx p k info) p k 0x11 0 info
        (if ((s.core p).context k).run = .stopped .reserved then (s.core p).stopPc.getD ((s.core p).context k).pc else ((s.core p).context k).pc)
      ∧ (s.resumeCtx p k info).msgs = s.msgs ∧ (s.resumeCtx p k info).accs = s.accs := by
  obtain ⟨pc, hpc⟩ : ∃ pc, (if ((s.core p).context k).run = .stopped .reserved then (s.core p).stopPc.getD ((s.core p).context k).pc
    else ((s.core p).context k).pc) = pc := ⟨_, rfl⟩
  obtain ⟨w, hw⟩ : ∃ w, (s.dropAsm p k).modCore p (fun c => if k = 0 then c.pushForgotten else c) = w := ⟨_, rfl⟩
  have hstop : ((s.dropAsm p k).core p).stopPc = (s.core p).stopPc :=
    dropAsm_keeps s p k Core.stopPc (fun _ _ _ _ => rfl) (fun c f => Core.modContext_stopPc c k f)
  have hdropped : Dropped s p k w := by
    rw [← hw]
    by_cases hk : k = 0
    · simp only [if_pos hk]; exact (dropAsm_dropped s p k).pushForgotten
    · simp only [if_neg hk]
      have hdrop := dropAsm_dropped s p k
      exact ⟨by rw [State.core_modCore_self]; exact hdrop.before, hdrop.memory.trans (sameMemory_modCore _ p (fun _ => rfl)),
        by rw [State.core_modCore_self]; exact hdrop.handler⟩
  have hresume : s.resumeCtx p k info = w.deliver p { ctx := k, cls := 0x11, sub := 0, info := info, epc := pc, seq := 0 } := by
    have hcond : ¬ (k = 0 && ((((s.dropAsm p k).core p).context k).run == .stopped .noLogical || ((s.dropAsm p k).core p).lpid.isNone)) = true := by
      rw [dropAsm_run, dropAsm_lpid]
      simp only [Bool.and_eq_true, Bool.or_eq_true, decide_eq_true_eq, beq_iff_eq, Option.isNone_iff_eq_none]
      rintro ⟨hk, h | h⟩
      · exact hrun h
      · exact hnumber hk h
    unfold State.resumeCtx
    dsimp only
    rw [if_neg hcond, dropAsm_run, hstop, (dropAsm_before s p k).pc]
    simp only [beq_iff_eq]
    rw [hpc, ← hw]
    rfl
  have hdevice : w.msgs = s.msgs ∧ w.accs = s.accs := by rw [← hw]; exact ⟨rfl, rfl⟩
  rw [hresume, hpc]
  refine ⟨(hdropped.delivers (e := { ctx := k, cls := 0x11, sub := 0, info := info, epc := pc, seq := 0 }) hhandler).1, ?_⟩
  rw [deliver_of_none (hdropped.handler.trans hhandler)]
  exact hdevice

/-- Settles O57: each entry by what its core drops before it and by what the entry leaves of it. -/
theorem handlerEntrySteps : Obligations.HandlerEntrySteps := by
  unfold Obligations.HandlerEntrySteps
  refine ⟨fun s p sub hpending hready => ?preempt, fun s p k r hlate hboundary hreplay hhandler _ => ?late,
    fun s p k sub tag hnow hsaved hhandler _ => ?diverge, fun s n m hm hkind hrefusal hturn hgo hhandler => ⟨fun htarget hnone => ?unnumbered, fun hrun hnumber => ?stopped⟩⟩
  case preempt =>
    obtain ⟨t, hexec, hpreempt, hentered⟩ := preemptEntry_enters hpending hready
    exact ⟨t, hexec, hentered p List.mem_cons_self, hpreempt, fun r hr => hentered r (List.mem_cons_of_mem _ hr)⟩
  case late => exact lateFaultEntry_enters hlate hboundary hreplay hhandler
  case diverge => exact divergeEntry_enters hnow hsaved hhandler
  case unnumbered =>
    have hexec := resumeMessage_resumes hm hkind hrefusal hturn hgo
    rw [htarget] at hexec
    obtain ⟨hentered, htctx, hmsgs, haccs⟩ := resumeCtx_unnumbered (s := s.resumeTaken n m) (info := m.word 1) hhandler hnone
    exact ⟨_, hexec, hentered, htctx, hmsgs, haccs⟩
  case stopped =>
    obtain ⟨hentered, hmsgs, haccs⟩ := resumeCtx_stopped (s := s.resumeTaken n m) (info := m.word 1) hhandler hrun hnumber
    exact ⟨_, resumeMessage_resumes hm hkind hrefusal hturn hgo, hentered, hmsgs, haccs⟩

end Sys2Proof.Machine
end

section
/-! SUPPORT. What the engine of a checkpoint leaves as it was: cores, partitions, rule slots and barrier channels. -/

namespace Sys2Proof.Machine

/-- What no read or write of main memory changes: cores, partitions, rule slots and barrier channels. -/
def State.roster (s : State) : Map Core × Map Partition × Map Slot × Map Channel := (s.cores, s.parts, s.rules, s.chans)

theorem roster_cores {s t : State} (h : t.roster = s.roster) : t.cores = s.cores := congrArg (·.1) h

theorem roster_part {s t : State} (h : t.roster = s.roster) (q : Nat) : t.part q = s.part q := by
  have hparts : t.parts = s.parts := congrArg (·.2.1) h
  unfold State.part
  rw [hparts]

theorem roster_ite {c : Prop} [Decidable c] {s t u : State} (ht : t.roster = s.roster) (hu : u.roster = s.roster) :
    (if c then t else u).roster = s.roster := by
  split
  · exact ht
  · exact hu

/-! ### Walks and accesses (R57, R61 to R63) -/

theorem mend_roster (s : State) (as : List Nat) : (s.mend as).roster = s.roster := roster_ite rfl rfl

theorem heal_roster (s : State) (st : Store) (a n : Nat) : (s.heal st a n).roster = s.roster := roster_ite rfl rfl

theorem clearErr_roster (s : State) (st : Store) (a n : Nat) : (s.clearErr st a n).roster = s.roster := roster_ite rfl rfl

theorem marked_roster (c : Prop) [Decidable c] (s : State) (m : Mem) : (if c then s else { s with phys := m }).roster = s.roster :=
  roster_ite rfl rfl

theorem walk_roster {s : State} {z va acc : Nat} {cid : BitVec 12} {r : Tlb × State} (h : s.walk z cid va acc = .ok r) :
    r.2.roster = s.roster := by
  unfold State.walk at h
  dsimp only at h
  split at h
  · cases h
  · split at h
    · cases h
    · split at h
      · cases h
      · generalize (if (acc == 1 || acc == 2) = true then 0x100 else 0) = dirty at h
        split at h
        · cases h
        · injection h with h
          subst h
          exact (marked_roster _ _ _).trans (mend_roster s _)

theorem walksFirst_roster (s : State) (z : Nat) (cid : BitVec 12) (va : Nat) : (s.walksFirst z cid va).roster = s.roster := by
  refine foldl_keeps State.roster (fun u r => ?_) _ s
  split
  · exact walk_roster ‹_›
  · rfl

theorem translate_roster {s : State} {die va acc : Nat} {cid : BitVec 12} {r : Nat × State} (h : s.translate die cid va acc = .ok r) :
    r.2.roster = s.roster := by
  unfold State.translate at h
  grind [→ walk_roster, walksFirst_roster]

theorem onePage_roster {s : State} {g : Agent} {va n acc scope : Nat} {r : Piece × State} (h : s.onePage g va n acc scope = .ok r) :
    r.2.roster = s.roster := by
  unfold State.onePage at h
  grind [→ translate_roster]

theorem gcheck_roster {s : State} {g : Agent} {va n acc scope : Nat} {r : List Piece × State} (h : s.gcheck g va n acc scope = .ok r) :
    r.2.roster = s.roster := by
  unfold State.gcheck at h
  grind [→ onePage_roster]

theorem gwrite_roster (s : State) (ps : List Piece) (v : Nat) : (s.gwrite ps v).roster = s.roster := by
  induction ps generalizing s v with
  | nil => rfl
  | cons p ps ih =>
    unfold State.gwrite
    have hclear : (s.clearErr .phys p.pa p.n).roster = s.roster := clearErr_roster s _ _ _
    exact (ih _ _).trans (roster_ite hclear hclear)

theorem gload_roster {s : State} {g : Agent} {va n : Nat} {r : Nat × State} (h : s.gload g va n = .ok r) : r.2.roster = s.roster := by
  unfold State.gload at h
  split at h
  · cases h
  · rename_i hcheck
    cases h
    exact (foldl_keeps State.roster (fun u p => heal_roster u _ _ _) _ _).trans (gcheck_roster hcheck)

theorem gstore_roster {s t : State} {g : Agent} {va n v : Nat} (h : s.gstore g va n v = .ok t) : t.roster = s.roster := by
  unfold State.gstore at h
  split at h
  · cases h
  · rename_i hcheck
    cases h
    exact (gwrite_roster _ _ _).trans (gcheck_roster hcheck)

/-! ### The engine of a checkpoint -/

theorem ckptFault_roster (s : State) (g : Agent) (e : GFail) (acc : Nat) : (s.ckptFault g e acc).roster = s.roster :=
  roster_ite rfl (roster_ite rfl rfl)

theorem ckptPut_roster (s : State) (g : Agent) (ws : List (Nat × Nat × Nat)) : (s.ckptPut g ws).2.roster = s.roster := by
  induction ws generalizing s with
  | nil => rfl
  | cons w ws ih =>
    unfold State.ckptPut
    split
    · exact ckptFault_roster _ _ _ _
    · exact (ih _).trans (gstore_roster ‹_›)

theorem blockNow_roster (s : State) (q va : Nat) (cid : BitVec 12) (sl : Nat) : (s.blockNow q va cid sl).2.roster = s.roster := by
  unfold State.blockNow
  extract_lets g
  split
  · exact ckptFault_roster _ _ _ _
  · rename_i t htrans
    have ht : t.roster = s.roster := translate_roster htrans
    split
    · exact (ckptFault_roster _ _ _ _).trans ht
    · split
      · exact ht
      · exact (heal_roster _ _ _ _).trans ht

theorem blocksNow_roster (s : State) (q : Nat) (l : List (Nat × (Nat × BitVec 12 × Nat))) : (s.blocksNow q l).2.roster = s.roster := by
  induction l generalizing s with
  | nil => rfl
  | cons b l ih => exact (ih _).trans (blockNow_roster _ _ _ _ _)

/-- Taking a checkpoint changes nothing of cores, rule slots and channels. -/
theorem takeCkpt_keeps (s : State) (q : Nat) :
    (s.takeCkpt q).cores = s.cores ∧ (s.takeCkpt q).rules = s.rules ∧ (s.takeCkpt q).chans = s.chans := by
  unfold State.takeCkpt
  extract_lets c bs clean mine r got u todo st vers g cleared st'
  have hu : u.roster = s.roster := blocksNow_roster s q _
  have hcleared : cleared.2.roster = s.roster := by
    unfold cleared
    split
    · exact (ckptFault_roster _ _ _ _).trans hu
    · exact (ckptPut_roster _ _ _).trans ((gload_roster ‹_›).trans hu)
  exact ⟨congrArg (·.1) hcleared, congrArg (·.2.2.1) hcleared, congrArg (·.2.2.2) hcleared⟩

theorem ckptRelease_keeps (s : State) (q : Nat) :
    (s.ckptRelease q).cores = s.cores ∧ (s.ckptRelease q).rules = s.rules ∧ (s.ckptRelease q).chans = s.chans := by
  unfold State.ckptRelease
  split
  · exact takeCkpt_keeps s q
  · exact ⟨rfl, rfl, rfl⟩

/-- The count of a partition's releases toward its next checkpoint (R368). -/
def Ckpt.counted (c : Ckpt) : Ckpt :=
  if c.steps = 0 then c else if c.steps ≤ c.count + 1 then { c with count := 0 }.arm else { c with count := c.count + 1 }

theorem ckptRelease_untaken {s : State} {q : Nat} (h : ¬ ((s.part q).ckpt.armed = true ∧ (s.part q).ckpt.on = true)) :
    s.ckptRelease q = s.modCkpt q Ckpt.counted := by
  have hno : ((s.part q).ckpt.armed && (s.part q).ckpt.on) ≠ true := fun e => h (Bool.and_eq_true_iff.1 e)
  unfold State.ckptRelease
  rw [if_neg hno]
  rfl

end Sys2Proof.Machine
end

section
/-! PROOF. A barrier is released; a checkpoint is timed, copied and completed (R278, R368 to R371). -/

namespace Sys2Proof.Machine

/-! ### The channels that a release spans (R16, R278) -/

theorem spanOf_nodup (s : State) (ch : Nat) : (s.spanOf ch).Nodup := by
  unfold State.spanOf
  split
  · simp
  · simp

theorem chan_foldl_modChan (f : Channel → Channel) {ks : List Nat} (hks : ks.Nodup) (s : State) (x : Nat) :
    (ks.foldl (fun s k => s.modChan k f) s).chan x = if x ∈ ks then f (s.chan x) else s.chan x := by
  induction ks generalizing s with
  | nil => simp
  | cons k ks ih =>
    obtain ⟨hk, hks⟩ := List.nodup_cons.1 hks
    rw [List.foldl_cons, ih hks, State.chan_modChan]
    by_cases hx : x = k
    · subst hx; simp [hk]
    · simp [hx]

/-- A channel that has released. -/
def Channel.released (c : Channel) : Channel := { c with arr := [], rcnt := c.rcnt + 1 }

/-- The channels that channel `ch` spans have released. -/
def State.spanReleased (s : State) (ch : Nat) : State := (s.spanOf ch).foldl (fun s k => s.modChan k Channel.released) s

theorem spanReleased_roster (s : State) (ch : Nat) :
    (s.spanReleased ch).cores = s.cores ∧ (s.spanReleased ch).parts = s.parts ∧ (s.spanReleased ch).rules = s.rules
      ∧ (s.spanReleased ch).mems = s.mems := by
  have h := foldl_keeps (fun s : State => (s.cores, s.parts, s.rules, s.mems)) (f := fun s k => s.modChan k Channel.released)
    (fun _ _ => rfl) (s.spanOf ch) s
  simp only [Prod.mk.injEq] at h
  exact h

/-! ### The new interval of a member (R94, R365, R366) -/

/-- A core's undo log restarts, and its pairs age. -/
def State.newIntervalAt (s : State) (p : Nat) : State := (s.agePairs p).modCore p Core.newInterval

theorem core_mapPairs (s : State) {p x : Nat} (hx : x ≠ p) (f : Nat → Bool → Option Nat × Bool) : (s.mapPairs p f).core x = s.core x := by
  unfold State.mapPairs
  dsimp only
  rw [State.modCluster_core_get, State.core_modCore, if_neg hx]

/-- The ages that a core keeps of what it has matched. -/
def Core.matchedAged (c : Core) : Core := { c with matched := c.matched.map (fun m => (m.1 + pairAge, m.2)) }

theorem agePairs_cores (s : State) (p : Nat) : (s.agePairs p).cores = s.cores
    ∨ (s.agePairs p).cores = ((s.mapPairs p (fun n d => (some (n + pairAge), d))).modCore p Core.matchedAged).cores := by
  unfold State.agePairs
  split
  · exact Or.inl rfl
  · exact Or.inr rfl

theorem core_agePairs (s : State) {p x : Nat} (hx : x ≠ p) : (s.agePairs p).core x = s.core x := by
  unfold State.core
  rcases agePairs_cores s p with h | h <;> rw [h]
  exact ((State.core_modCore _ p x _).trans (if_neg hx)).trans (core_mapPairs s hx _)

theorem sameContexts_agePairs (s : State) (p : Nat) : SameContexts s (s.agePairs p) := by
  intro x k
  unfold State.core
  rcases agePairs_cores s p with h | h <;> rw [h]
  exact (sameContexts_modCore _ p (f := Core.matchedAged) (fun _ _ => rfl) x k).trans ((account_mapPairs s p _).contexts x k)

theorem agePairs_tables (s : State) (p : Nat) :
    (s.agePairs p).parts = s.parts ∧ (s.agePairs p).rules = s.rules ∧ (s.agePairs p).chans = s.chans := by
  unfold State.agePairs
  split <;> exact ⟨rfl, rfl, rfl⟩

theorem core_newIntervalAt (s : State) {p x : Nat} (hx : x ≠ p) : (s.newIntervalAt p).core x = s.core x :=
  ((State.core_modCore _ p x _).trans (if_neg hx)).trans (core_agePairs s hx)

theorem core_newIntervalAt_self (s : State) (p : Nat) : ((s.newIntervalAt p).core p).ulog = [] ∧ ((s.newIntervalAt p).core p).ovf = false := by
  unfold State.newIntervalAt
  rw [State.core_modCore_self]
  exact ⟨rfl, rfl⟩

theorem context_newInterval (c : Core) (k : Nat) : c.newInterval.context k = c.context k := rfl

theorem sameContexts_newIntervalAt (s : State) (p : Nat) : SameContexts s (s.newIntervalAt p) :=
  (sameContexts_agePairs s p).trans (sameContexts_modCore _ p context_newInterval)

theorem mems_newIntervalAt (s : State) (p : Nat) : (s.newIntervalAt p).mems = s.mems :=
  (mems_modCore (mem_newInterval _)).trans (mems_agePairs s p)

/-- The undo logs of these cores restart. -/
def State.newIntervals (s : State) (ps : List Nat) : State := ps.foldl State.newIntervalAt s

theorem newIntervals_tables (s : State) (ps : List Nat) :
    (s.newIntervals ps).parts = s.parts ∧ (s.newIntervals ps).rules = s.rules ∧ (s.newIntervals ps).chans = s.chans
      ∧ (s.newIntervals ps).mems = s.mems := by
  have hone : ∀ (u : State) (p : Nat), ((u.newIntervalAt p).parts, (u.newIntervalAt p).rules, (u.newIntervalAt p).chans, (u.newIntervalAt p).mems)
      = (u.parts, u.rules, u.chans, u.mems) := by
    intro u p
    obtain ⟨hparts, hrules, hchans⟩ := agePairs_tables u p
    simp only [Prod.mk.injEq]
    exact ⟨hparts, hrules, hchans, mems_newIntervalAt u p⟩
  have h := foldl_keeps (fun s : State => (s.parts, s.rules, s.chans, s.mems)) hone ps s
  simp only [Prod.mk.injEq] at h
  exact h

theorem sameContexts_newIntervals (s : State) (ps : List Nat) : SameContexts s (s.newIntervals ps) :=
  foldl_rel (R := SameContexts) (fun _ _ _ => rfl) SameContexts.trans ps _ sameContexts_newIntervalAt s

theorem core_newIntervals_outside {ps : List Nat} {x : Nat} (hx : x ∉ ps) (s : State) : (s.newIntervals ps).core x = s.core x := by
  induction ps generalizing s with
  | nil => rfl
  | cons p ps ih =>
    rw [List.mem_cons, not_or] at hx
    exact (ih hx.2 _).trans (core_newIntervalAt s hx.1)

theorem core_newIntervals_member {ps : List Nat} {x : Nat} (hx : x ∈ ps) (s : State) :
    ((s.newIntervals ps).core x).ulog = [] ∧ ((s.newIntervals ps).core x).ovf = false := by
  induction ps generalizing s with
  | nil => cases hx
  | cons p ps ih =>
    change ((State.newIntervals (s.newIntervalAt p) ps).core x).ulog = [] ∧ ((State.newIntervals (s.newIntervalAt p) ps).core x).ovf = false
    by_cases hmem : x ∈ ps
    · exact ih hmem _
    · rw [core_newIntervals_outside hmem, (List.mem_cons.1 hx).resolve_right hmem]
      exact core_newIntervalAt_self s p

/-! ### The exchange of the banks (R239) -/

/-- A slot exchanges its banks if it was asked to. -/
def Slot.exchanged (z : Slot) : Slot :=
  if z.pend = true then
    if z.spoiled = true then { z with pend := false, spoiled := false, ref := true } else { z with pend := false, active := !z.active }
  else z

theorem rule_foldl_modRule (f : Slot → Slot) {ns : List Nat} (hns : ns.Nodup) (s : State) (n : Nat) :
    (ns.foldl (fun s n => s.modRule n f) s).rule n = if n ∈ ns then f (s.rule n) else s.rule n := by
  induction ns generalizing s with
  | nil => simp
  | cons m ns ih =>
    obtain ⟨hm, hns⟩ := List.nodup_cons.1 hns
    rw [List.foldl_cons, ih hns, State.rule_modRule]
    by_cases hn : n = m
    · subst hn; simp [hm]
    · simp [hn]

theorem exchange_eq (s : State) (q : Nat) :
    s.exchange q = ((upTo 8).filter (fun n => (s.part q).rls.getLsbD n)).foldl (fun s n => s.modRule n Slot.exchanged) s := by
  unfold State.exchange
  congr 1
  funext u n
  congr 1
  funext z
  unfold Slot.exchanged
  cases z.pend <;> rfl

theorem rule_exchange (s : State) {q n : Nat} (hn : n < 8) (hrls : (s.part q).rls.getLsbD n = true) :
    (s.exchange q).rule n = (s.rule n).exchanged := by
  have hnodup : ((upTo 8).filter (fun n => (s.part q).rls.getLsbD n)).Nodup := List.nodup_range.filter _
  have hmem : n ∈ (upTo 8).filter (fun n => (s.part q).rls.getLsbD n) := List.mem_filter.2 ⟨List.mem_range.2 hn, hrls⟩
  rw [exchange_eq, rule_foldl_modRule Slot.exchanged hnodup, if_pos hmem]

theorem exchange_keeps (s : State) (q : Nat) :
    (s.exchange q).cores = s.cores ∧ (s.exchange q).parts = s.parts ∧ (s.exchange q).chans = s.chans := by
  have h := foldl_keeps (fun s : State => (s.cores, s.parts, s.chans)) (f := fun s n => s.modRule n Slot.exchanged)
    (fun _ _ => rfl) ((upTo 8).filter (fun n => (s.part q).rls.getLsbD n)) s
  rw [← exchange_eq, Prod.mk.injEq, Prod.mk.injEq] at h
  exact h

/-! ### The release (R278, R280) -/

/-- The release of the channel takes the partition's banks and checkpoints with it: device level, every arrival a BSTEP. -/
def Channel.boundary (c : Channel) : Prop := c.level = 3 ∧ ∀ a ∈ c.arr, a.step = true

theorem boundary_iff (c : Channel) : (decide (c.level = 3) && c.arr.all (·.step)) = true ↔ c.boundary := by
  rw [Bool.and_eq_true, decide_eq_true_eq, List.all_eq_true]
  rfl

/-- The cores of a channel's members. -/
def State.memberCores (s : State) (ch : Nat) : List Nat := (s.chan ch).members.filterMap (fun l => s.physOf (s.chan ch).part l)

/-- The channels have released, and from partition level on the members' intervals restart. -/
def State.intervalsReleased (s : State) (ch : Nat) : State :=
  if 1 ≤ (s.chan ch).level then (s.spanReleased ch).newIntervals (s.memberCores ch) else s.spanReleased ch

theorem physOf_congr {s t : State} (hparts : t.parts = s.parts) (q l : Nat) : t.physOf q l = s.physOf q l := by
  unfold State.physOf State.part
  rw [hparts]

theorem release_eq (s : State) (ch : Nat) [Decidable (s.chan ch).boundary] :
    s.release ch = if (s.chan ch).boundary
      then ((s.intervalsReleased ch).exchange (s.chan ch).part).ckptRelease (s.chan ch).part else s.intervalsReleased ch := by
  have hcores : (s.chan ch).members.filterMap (fun l => (s.spanReleased ch).physOf (s.chan ch).part l) = s.memberCores ch := by
    simp only [physOf_congr (spanReleased_roster s ch).2.1]
    rfl
  unfold State.intervalsReleased
  rw [← hcores]
  exact if_congr (boundary_iff _) rfl rfl

theorem intervalsReleased_tables (s : State) (ch : Nat) :
    (s.intervalsReleased ch).parts = s.parts ∧ (s.intervalsReleased ch).rules = s.rules
      ∧ (s.intervalsReleased ch).chans = (s.spanReleased ch).chans ∧ (s.intervalsReleased ch).mems = s.mems := by
  obtain ⟨-, hparts, hrules, hmems⟩ := spanReleased_roster s ch
  unfold State.intervalsReleased
  split
  · obtain ⟨hparts', hrules', hchans', hmems'⟩ := newIntervals_tables (s.spanReleased ch) (s.memberCores ch)
    exact ⟨hparts'.trans hparts, hrules'.trans hrules, hchans', hmems'.trans hmems⟩
  · exact ⟨hparts, hrules, rfl, hmems⟩

theorem core_spanReleased (s : State) (ch x : Nat) : (s.spanReleased ch).core x = s.core x := by
  unfold State.core
  rw [(spanReleased_roster s ch).1]

theorem sameContexts_intervalsReleased (s : State) (ch : Nat) : SameContexts s (s.intervalsReleased ch) := by
  have hspan : SameContexts s (s.spanReleased ch) := fun p k => by rw [core_spanReleased]
  unfold State.intervalsReleased
  split
  · exact hspan.trans (sameContexts_newIntervals _ _)
  · exact hspan

theorem core_intervalsReleased_outside (s : State) {ch x : Nat} (hx : x ∉ s.memberCores ch) : (s.intervalsReleased ch).core x = s.core x := by
  unfold State.intervalsReleased
  split
  · exact (core_newIntervals_outside hx _).trans (core_spanReleased s ch x)
  · exact core_spanReleased s ch x

theorem core_intervalsReleased_low (s : State) {ch : Nat} (hlevel : (s.chan ch).level = 0) (x : Nat) :
    (s.intervalsReleased ch).core x = s.core x := by
  unfold State.intervalsReleased
  rw [if_neg (by omega)]
  exact core_spanReleased s ch x

theorem core_intervalsReleased_member (s : State) {ch x : Nat} (hlevel : 1 ≤ (s.chan ch).level) (hx : x ∈ s.memberCores ch) :
    ((s.intervalsReleased ch).core x).ulog = [] ∧ ((s.intervalsReleased ch).core x).ovf = false := by
  unfold State.intervalsReleased
  rw [if_pos hlevel]
  exact core_newIntervals_member hx _

/-- What the exchange and the checkpoint of a boundary leave as it was. -/
theorem release_keeps (s : State) (ch : Nat) :
    (s.release ch).cores = (s.intervalsReleased ch).cores ∧ (s.release ch).chans = (s.intervalsReleased ch).chans := by
  classical
  rw [release_eq]
  split
  · obtain ⟨hcores, -, hchans⟩ := exchange_keeps (s.intervalsReleased ch) (s.chan ch).part
    obtain ⟨hcores', -, hchans'⟩ := ckptRelease_keeps ((s.intervalsReleased ch).exchange (s.chan ch).part) (s.chan ch).part
    exact ⟨hcores'.trans hcores, hchans'.trans hchans⟩
  · exact ⟨rfl, rfl⟩

theorem chan_release (s : State) (ch x : Nat) : (s.release ch).chan x = if x ∈ s.spanOf ch then (s.chan x).released else s.chan x := by
  have hchans : (s.release ch).chans = (s.spanReleased ch).chans := (release_keeps s ch).2.trans (intervalsReleased_tables s ch).2.2.1
  rw [← chan_foldl_modChan Channel.released (spanOf_nodup s ch) s x]
  exact congrArg (fun m => mget Channel.fresh m x) hchans

theorem core_release (s : State) (ch x : Nat) : (s.release ch).core x = (s.intervalsReleased ch).core x := by
  unfold State.core
  rw [(release_keeps s ch).1]

theorem part_exchanged (s : State) (ch q : Nat) : ((s.intervalsReleased ch).exchange (s.chan ch).part).part q = s.part q := by
  unfold State.part
  rw [(exchange_keeps _ _).2.1, (intervalsReleased_tables s ch).1]

theorem release_untaken {s : State} {ch : Nat} (hboundary : (s.chan ch).boundary)
    (h : ¬ ((s.part (s.chan ch).part).ckpt.armed = true ∧ (s.part (s.chan ch).part).ckpt.on = true)) :
    s.release ch = ((s.intervalsReleased ch).exchange (s.chan ch).part).modCkpt (s.chan ch).part Ckpt.counted := by
  classical
  rw [release_eq, if_pos hboundary]
  exact ckptRelease_untaken (by rw [part_exchanged]; exact h)

theorem sameMemory_release {s : State} {ch : Nat} (h : ¬ ((s.chan ch).boundary ∧ (s.part (s.chan ch).part).ckpt.armed = true
    ∧ (s.part (s.chan ch).part).ckpt.on = true)) : SameMemory s (s.release ch) := by
  classical
  have hmems : (s.intervalsReleased ch).mems = s.mems := (intervalsReleased_tables s ch).2.2.2
  refine sameMemory_of_mems ?_
  by_cases hboundary : (s.chan ch).boundary
  · rw [release_untaken hboundary (fun hck => h ⟨hboundary, hck⟩), mems_modCkpt, mems_exchange, hmems]
  · rw [release_eq, if_neg hboundary, hmems]

theorem rule_release {s : State} {ch n : Nat} (hboundary : (s.chan ch).boundary) (hn : n < 8)
    (hrls : (s.part (s.chan ch).part).rls.getLsbD n = true) : (s.release ch).rule n = (s.rule n).exchanged := by
  classical
  obtain ⟨hparts, hrules, -, -⟩ := intervalsReleased_tables s ch
  have hpart : (s.intervalsReleased ch).part (s.chan ch).part = s.part (s.chan ch).part := by unfold State.part; rw [hparts]
  have hrule : (s.intervalsReleased ch).rule n = s.rule n := by unfold State.rule; rw [hrules]
  rw [release_eq, if_pos hboundary, ← hrule, ← rule_exchange (s.intervalsReleased ch) hn (by rw [hpart]; exact hrls)]
  exact congrArg (fun m => mget Slot.fresh m n) (ckptRelease_keeps _ _).2.1

theorem ckpt_release {s : State} {ch : Nat} (hboundary : (s.chan ch).boundary)
    (harmed : (s.part (s.chan ch).part).ckpt.armed = false) :
    ((s.release ch).part (s.chan ch).part).ckpt = (s.part (s.chan ch).part).ckpt.counted := by
  rw [release_untaken hboundary (fun h => by rw [harmed] at h; cases h.1)]
  unfold State.modCkpt
  rw [State.part_modPart_self, part_exchanged]

theorem mem_memberCores {s : State} {ch x : Nat} : x ∈ s.memberCores ch ↔ ∃ l ∈ (s.chan ch).members, s.physOf (s.chan ch).part l = some x :=
  List.mem_filterMap

/-! ### The copy of a block (R369, R371) -/

/-- The packets of a block's buddy copy. -/
def State.buddyPackets (s : State) (q b sl n : Nat) (z : SendQueue) (m : Mem) : List Packet :=
  (upTo 6).map (fun k => { cl := 512 + q, cidx := sl, no := 6 * b + k, queue := n, peer := z.peer, bytes := breadList m (4096 * k) 4096,
                           tries := 0, sent := s.time })

theorem buddySend_none {s : State} {q : Nat} (h : (s.part q).ckpt.buddy = 0) (b sl : Nat) (m : Mem) : s.buddySend q b sl m = (true, s) := by
  unfold State.buddySend
  rw [if_pos h]

theorem buddySend_sent {s : State} {q sl n : Nat} {z : SendQueue} (hbuddy : (s.part q).ckpt.buddy ≠ 0) (hqueue : s.buddyQueue q = some (n, z))
    (hopen : s.portBars (ckptAgent sl q 0).master q (z.port % 8) = none) (b : Nat) (m : Mem) :
    s.buddySend q b sl m = (true, { s with packets := s.packets ++ s.buddyPackets q b sl n z m }) := by
  unfold State.buddySend
  rw [if_neg hbuddy, hqueue]
  dsimp only
  rw [hopen]
  rfl

/-- The record of a checkpoint once block `b` is copied. -/
def Ckpt.copied (c : Ckpt) (b : Nat) : Ckpt := { c with todo := merase c.todo b, done := c.done + 1 }

/-- Writes of block `b`'s image into the half. -/
def Ckpt.blockWrites (c : Ckpt) (b : Nat) (m : Mem) : List (Nat × Nat × Nat) :=
  (upTo 6).map (fun k => (c.base + 0x10000 + 0x6000 * b + 4096 * k, 4096, bread m (4096 * k) 4096))

theorem checkpointPageCopy_written {s u t : State} {q b sl : Nat} {m : Mem} (htodo : mfind (s.part q).ckpt.todo b = some (sl, m))
    (hput : s.ckptPut (ckptAgent sl q (s.part q).ckpt.cid) ((s.part q).ckpt.blockWrites b m) = (true, u))
    (hsend : u.buddySend q b sl m = (true, t)) :
    execCheckpointPageCopy q b s = .next (t.modCkpt q (fun c => c.copied b)) := by
  unfold Ckpt.blockWrites at hput
  unfold execCheckpointPageCopy
  simp only [htodo, hput, hsend, if_true]
  rfl

/-! ### The end of a checkpoint (R370) -/

theorem postSup_tables (s : State) (n : Nat) (e : MailEntry) : (s.postSup n e).cores = s.cores ∧ (s.postSup n e).parts = s.parts := by
  unfold State.postSup
  split
  · unfold State.supPut State.modDie
    split <;> exact ⟨rfl, rfl⟩
  · exact ⟨rfl, rfl⟩

/-- The record of a checkpoint once it has ended: the halves alternate. -/
def Ckpt.ended (c : Ckpt) : Ckpt := { c with active := false, half := 1 - c.half, seq := c.seq + 1, table := [], status := 0 }

theorem checkpointComplete_ends {s : State} {q : Nat} (hactive : (s.part q).ckpt.active = true) (htodo : (s.part q).ckpt.todo = [])
    (hsent : s.packets.any (fun k => k.buddyOf q) = false) :
    ∃ t, execCheckpointComplete q s = .next t ∧ (t.part q).ckpt = (s.part q).ckpt.ended ∧ t.cores = s.cores := by
  have hgo : (!(s.part q).ckpt.active || !(s.part q).ckpt.todo.isEmpty || s.packets.any (fun k => k.buddyOf q)) ≠ true := by
    rw [hactive, htodo, hsent]
    decide
  unfold execCheckpointComplete
  extract_lets c net s' st nb ws r st' u
  rw [if_neg hgo]
  refine ⟨_, rfl, ?_, ?_⟩
  all_goals
    have hr : r.2.roster = s.roster := by
      unfold r
      split
      · exact ckptPut_roster _ _ _
      · rfl
    obtain ⟨hcores, hparts⟩ := postSup_tables u (u.supOf q)
      (eventEntry 16 (0x0F + st' * 2 ^ 8 + c.half * 2 ^ 16 + c.step * 2 ^ 32 + c.done * 2 ^ 64))
  · have hu : (u.part q).ckpt = (r.2.part q).ckpt.ended := by
      unfold u State.modCkpt
      rw [State.part_modPart_self]
      rfl
    rw [← roster_part hr q, ← hu]
    exact congrArg (fun m => (mget Partition.fresh m q).ckpt) hparts
  · have hu : u.cores = r.2.cores := rfl
    exact hcores.trans (hu.trans (roster_cores hr))

/-- Settles O54: a release is one fold over the channels that it spans and one over its members' cores, and what follows
at a boundary, the exchange and the checkpoint, changes no core and no channel. -/
theorem barrierCheckpointSteps : Obligations.BarrierCheckpointSteps := by
  refine ⟨fun s ch hrel => ⟨s.release ch, ?exec, ?span, ?others, ?outside, ?members, ?contexts, ?memory, ?inside, ?boundary⟩,
    fun s q hticks harmed hdue => ⟨s.modCkpt q (fun c => if c.active then { c.arm with last := s.time } else c.arm), ?timer, ?idle, ?busy, rfl,
      fun _ => rfl, fun _ => rfl, rfl⟩,
    fun s u q b sl m htodo hput => ⟨fun hbuddy => ⟨_, ?copied, rfl⟩, fun n z hbuddy hqueue hopen => ?sent⟩,
    fun s q hactive htodo hsent => ?complete⟩
  case exec =>
    change execBarrierRelease ch s = _
    unfold execBarrierRelease
    rw [if_pos hrel]
  case span =>
    intro k hk
    rw [chan_release, if_pos hk]
    exact ⟨rfl, rfl, rfl⟩
  case others => exact fun x hx => (chan_release s ch x).trans (if_neg hx)
  case outside =>
    intro p hp
    rw [core_release]
    refine core_intervalsReleased_outside s (fun hmem => ?_)
    obtain ⟨l, hl, hphys⟩ := mem_memberCores.1 hmem
    exact hp l hl hphys
  case members =>
    intro l hl p hphys
    rw [core_release]
    exact ⟨fun hlevel => core_intervalsReleased_low s hlevel p,
      fun hlevel => core_intervalsReleased_member s hlevel (mem_memberCores.2 ⟨l, hl, hphys⟩)⟩
  case contexts =>
    intro p k
    rw [core_release]
    exact sameContexts_intervalsReleased s ch p k
  case memory => exact sameMemory_release
  case inside =>
    classical
    intro hboundary
    obtain ⟨hparts, hrules, -, -⟩ := intervalsReleased_tables s ch
    have houtside : s.release ch = s.intervalsReleased ch := (release_eq s ch).trans (if_neg hboundary)
    rw [houtside]
    exact ⟨hparts, hrules⟩
  case boundary => exact fun hboundary => ⟨fun n hn hrls => rule_release hboundary hn hrls, fun harmed => ckpt_release hboundary harmed⟩
  case timer =>
    have hgo : ((s.part q).ckpt.ticks = 0 || (s.part q).ckpt.armed || decide ((s.time - (s.part q).ckpt.last).toNat < (s.part q).ckpt.ticks))
        ≠ true := by
      rw [harmed, decide_eq_false hticks, decide_eq_false (Nat.not_lt.2 hdue)]
      decide
    exact if_neg hgo
  case idle =>
    intro hidle
    unfold State.modCkpt Ckpt.arm
    simp [hidle]
  case busy =>
    intro hbusy
    unfold State.modCkpt Ckpt.arm
    simp [hbusy, harmed]
  case copied => exact checkpointPageCopy_written htodo hput (buddySend_none hbuddy b sl m)
  case sent =>
    refine ⟨_, checkpointPageCopy_written htodo hput (buddySend_sent hbuddy hqueue hopen b m), ?_, ?_, fun i hi => ?_, rfl,
      fun _ => rfl, fun _ => rfl, rfl⟩
    · unfold State.modCkpt
      rw [State.part_modPart_self]
      rfl
    · exact List.length_append
    · refine ⟨_, List.mem_append_right _ (List.mem_map.2 ⟨i, List.mem_range.2 hi, rfl⟩), ?_, rfl, rfl, rfl⟩
      exact beq_self_eq_true _
  case complete =>
    obtain ⟨t, hexec, hckpt, hcores⟩ := checkpointComplete_ends hactive htodo hsent
    refine ⟨t, hexec, ?_, ?_, ?_, ?_, fun p k => ?_⟩
    · rw [hckpt]; rfl
    · rw [hckpt]; rfl
    · rw [hckpt]; rfl
    · rw [hckpt]; rfl
    · unfold State.core
      rw [hcores]

end Sys2Proof.Machine
end

section
/-! PROOF. Resets, scrubs of main memory, Markhor and the function level reset (R344, R376 to R378, R380, R386 to R388). -/

namespace Sys2Proof.Machine

/-! ### Memories with cells left out -/

theorem bget_filter (m : Mem) (f : Nat → Bool) (a : Nat) : bget (m.filter (fun c => f c.1)) a = if f a then bget m a else 0 := by
  induction m with
  | nil => simp [bget]
  | cons c m ih =>
    obtain ⟨k, w⟩ := c
    rw [List.filter_cons]
    by_cases hk : a = k
    · subst hk
      by_cases hf : f a = true
      · simp [hf, bget]
      · have hno : f a = false := Bool.eq_false_iff.2 hf
        rw [hno] at ih
        simpa [hno] using ih
    · split
      · simp only [bget, hk, if_false, ih]
      · simp only [bget, hk, if_false, ih]

theorem bget_hostCells (m : Mem) (a : Nat) : bget (hostCells m) a = if tierOf a = .host then bget m a else 0 :=
  (bget_filter m (fun a => tierOf a == .host) a).trans (by simp only [beq_iff_eq])

theorem bget_zeroPhys (s : State) (f : Nat → Bool) (a : Nat) : bget (s.zeroPhys f).phys a = if f a then 0 else bget s.phys a := by
  refine (bget_filter s.phys (fun a => !f a) a).trans ?_
  cases f a <;> rfl

theorem memWf_zeroPhys {s : State} (h : memWf s.phys = true) (f : Nat → Bool) : memWf (s.zeroPhys f).phys = true := memWf_filter _ h

/-! ### The scrub journals (R388) -/

theorem inJournal_journalAt {n a : Nat} (h : journalAt n ≤ a ∧ a < journalAt n + 8) : inJournal (n / 16) a = true := by
  unfold journalAt at h
  unfold inJournal
  rw [Bool.and_eq_true, decide_eq_true_eq, decide_eq_true_eq]
  omega

/-- A die other than die 0 has the journal region of die 1. -/
theorem inJournal_other {d : Nat} (hd : d ≠ 0) (a : Nat) : inJournal d a = inJournal 1 a := by
  unfold inJournal tierBase
  simp [hd]

theorem bget_setJournal {s : State} (h : memWf s.phys = true) {n a : Nat} (ha : inJournal (n / 16) a = false) (j : Option (Nat × Nat)) :
    bget (s.setJournal n j).phys a = bget s.phys a := by
  have hout : a < journalAt n ∨ journalAt n + 8 ≤ a := by
    by_contra hin
    rw [inJournal_journalAt (n := n) (a := a) (by omega)] at ha
    cases ha
  exact bget_bwrite_outside h _ _ _ hout

theorem memWf_setJournal {s : State} (h : memWf s.phys = true) (n : Nat) (j : Option (Nat × Nat)) : memWf (s.setJournal n j).phys = true :=
  memWf_bwrite _ _ _ h

theorem journal_setJournal_self {s : State} (h : memWf s.phys = true) (n : Nat) {tier chunk : Nat} (htier : tier < 2) (hchunk : chunk < 2 ^ 32) :
    (s.setJournal n (some (tier, chunk))).journal n = some (tier, chunk) := by
  have hword : bread (s.setJournal n (some (tier, chunk))).phys (journalAt n) 8 = 1 + 2 * tier + 256 * chunk := by
    refine (bread_bwrite_same _ _ _ h).trans (Nat.mod_eq_of_lt ?_)
    dsimp only
    omega
  have hodd : ¬ (1 + 2 * tier + 256 * chunk) % 2 = 0 := by omega
  have htag : (1 + 2 * tier + 256 * chunk) / 2 % 2 = tier := by omega
  have hnumber : (1 + 2 * tier + 256 * chunk) / 256 = chunk := by omega
  generalize hs : s.setJournal n (some (tier, chunk)) = t at hword ⊢
  unfold State.journal
  dsimp only
  rw [hword, if_neg hodd, htag, hnumber]

theorem journalAt_apart {m n : Nat} (hm : m < 32) (hn : n < 32) (h : n ≠ m) : journalAt n + 8 ≤ journalAt m ∨ journalAt m + 8 ≤ journalAt n := by
  unfold journalAt tierBase
  simp only [if_true]
  split <;> split <;> omega

theorem journal_setJournal_other {s : State} (h : memWf s.phys = true) {m n : Nat} (hm : m < 32) (hn : n < 32) (hne : n ≠ m)
    (j : Option (Nat × Nat)) : (s.setJournal m j).journal n = s.journal n := by
  unfold State.journal State.setJournal
  rw [bread_bwrite_apart _ _ _ _ _ h (journalAt_apart hm hn hne)]

/-- The journals of several slices name their first chunk. -/
def State.openJournals (s : State) (sls : List Nat) : State := sls.foldl (fun s sl => s.setJournal sl (some (0, 0))) s

theorem bget_openJournals {sls : List Nat} {a : Nat} (h0 : inJournal 0 a = false) (h1 : inJournal 1 a = false) {s : State}
    (h : memWf s.phys = true) : bget (s.openJournals sls).phys a = bget s.phys a := by
  induction sls generalizing s with
  | nil => rfl
  | cons sl sls ih =>
    have hout : inJournal (sl / 16) a = false := by
      by_cases hd : sl / 16 = 0
      · rw [hd]; exact h0
      · rw [inJournal_other hd]; exact h1
    exact (ih (memWf_setJournal h _ _)).trans (bget_setJournal h hout _)

theorem journal_openJournals {sls : List Nat} (hsls : ∀ sl ∈ sls, sl < 32) {n : Nat} (hn : n < 32) {s : State} (h : memWf s.phys = true)
    (hopen : n ∈ sls ∨ s.journal n = some (0, 0)) : (s.openJournals sls).journal n = some (0, 0) := by
  induction sls generalizing s with
  | nil => exact hopen.resolve_left List.not_mem_nil
  | cons sl sls ih =>
    refine ih (fun x hx => hsls x (List.mem_cons_of_mem _ hx)) (memWf_setJournal h _ _) ?_
    by_cases hsl : n = sl
    · rw [hsl]
      exact Or.inr (journal_setJournal_self h _ (by omega) (by omega))
    · rw [journal_setJournal_other h (hsls sl List.mem_cons_self) hn hsl]
      exact hopen.imp_left (fun hmem => (List.mem_cons.1 hmem).resolve_left hsl)

/-! ### Resets (R386, R387) -/

/-- A rebooted device with main memory kept, before its journals are opened. -/
def State.coldStart (s : State) : State := { s.rebooted with phys := s.phys, errs := s.errs.filter (fun m => m.store == .phys) }

theorem coldBoot_eq (s : State) : s.coldBoot = s.coldStart.openJournals (upTo 32) := rfl

theorem coldBoot_device (s : State) : s.coldBoot.cores = State.reset.cores ∧ s.coldBoot.parts = State.reset.parts ∧ s.coldBoot.time = 0 := by
  have h := foldl_keeps (fun s : State => (s.cores, s.parts, s.time)) (f := fun s sl => s.setJournal sl (some (0, 0))) (fun _ _ => rfl)
    (upTo 32) s.coldStart
  simp only [Prod.mk.injEq] at h
  exact h

/-! ### Scrubs of main memory (R388) -/

theorem journal_tier {s : State} {z tier chunk : Nat} (h : s.journal z = some (tier, chunk)) : tier < 2 := by
  unfold State.journal at h
  dsimp only at h
  split at h
  · cases h
  · injection h with h
    have htier := congrArg Prod.fst h
    dsimp only at htier
    omega

/-- What a slice's chunk zeroes: all of it beside the journals. -/
def chunkBeside (z tier chunk a : Nat) : Bool := inChunk z tier chunk a && !inJournal (z / 16) a

/-- A slice's chunk is scrubbed, and the next one is journalled. -/
def State.chunkScrubbed (s : State) (z tier chunk : Nat) : State :=
  (s.zeroPhys (chunkBeside z tier chunk)).setJournal z (some (tier, chunk + 1))

theorem journal_chunkScrubbed {s : State} (hwf : memWf s.phys = true) {z tier chunk : Nat} (hj : s.journal z = some (tier, chunk))
    (hnext : chunk + 1 < tierChunks tier) : (s.chunkScrubbed z tier chunk).journal z = some (tier, chunk + 1) := by
  refine journal_setJournal_self (memWf_zeroPhys hwf _) z (journal_tier hj) ?_
  unfold tierChunks at hnext
  split at hnext <;> omega

theorem hbmScrubChunk_eq {s : State} (hwf : memWf s.phys = true) {z tier chunk : Nat} (hj : s.journal z = some (tier, chunk))
    (hnext : chunk + 1 < tierChunks tier) : Sys2Proof.Machine.exec (.hbmScrubChunk z) s = .next (s.chunkScrubbed z tier chunk) := by
  have hopen : ¬ (upTo 16).all (fun k => ((s.chunkScrubbed z tier chunk).journal (16 * (z / 16) + k)).isNone) = true := by
    intro hall
    have hz := List.all_eq_true.1 hall (z % 16) (List.mem_range.2 (by omega))
    rw [Nat.div_add_mod, journal_chunkScrubbed hwf hj hnext] at hz
    cases hz
  change execHbmScrubChunk z s = _
  unfold execHbmScrubChunk
  rw [hj]
  dsimp only
  rw [if_pos hnext]
  exact congrArg _ (if_neg hopen)

theorem bget_chunkScrubbed {s : State} (hwf : memWf s.phys = true) (z tier chunk : Nat) {a : Nat} (ha : inJournal (z / 16) a = false) :
    bget (s.chunkScrubbed z tier chunk).phys a = if inChunk z tier chunk a then 0 else bget s.phys a := by
  unfold State.chunkScrubbed
  rw [bget_setJournal (memWf_zeroPhys hwf _) ha, bget_zeroPhys]
  unfold chunkBeside
  rw [ha, Bool.not_false, Bool.and_true]

/-- The bytes of a range that its slice has to zero. -/
def Range.zeroed (r : Range) (a : Nat) : Bool := decide (r.base ≤ a) && decide (a ≤ r.limit) && targetOf a == r.target && tierOf a != .host

theorem Range.zeroed_iff (r : Range) (a : Nat) :
    r.zeroed a = true ↔ r.base ≤ a ∧ a ≤ r.limit ∧ targetOf a = r.target ∧ tierOf a ≠ .host := by
  unfold Range.zeroed
  simp only [Bool.and_eq_true, decide_eq_true_eq, beq_iff_eq, bne_iff_ne, and_assoc]

/-- The range has been zeroed and has passed to partition `q`. -/
def State.rangePassed (s : State) (k q : Nat) (r : Range) : State :=
  { s.zeroPhys r.zeroed with ranges := s.ranges.set k { r with part := q, next := none } }

theorem rangeZeroing_eq {s : State} {k q : Nat} {r : Range} (hr : s.ranges[k]? = some r) (hq : r.next = some q) :
    Sys2Proof.Machine.exec (.rangeZeroing k) s = .next (s.rangePassed k q r) := by
  change execRangeZeroing k s = _
  unfold execRangeZeroing
  rw [hr]
  dsimp only
  rw [hq]
  rfl

theorem bget_rangePassed (s : State) (k q : Nat) (r : Range) (a : Nat) : bget (s.rangePassed k q r).phys a
    = if r.base ≤ a ∧ a ≤ r.limit ∧ targetOf a = r.target ∧ tierOf a ≠ .host then 0 else bget s.phys a :=
  (bget_zeroPhys s r.zeroed a).trans (if_congr (r.zeroed_iff a) rfl rfl)

/-! ### Evidence (R377) -/

theorem length_bytesOf (n x : Nat) : (bytesOf n x).length = n := by
  induction n generalizing x with
  | zero => rfl
  | succ n ih => rw [bytesOf, List.length_cons, ih]

/-- The field of 64 bytes behind the first 32 bytes of a record. -/
theorem field_of_record {head field : List Byte} (hhead : head.length = 32) (hfield : field.length = 64) (a b c d e f : List Byte) :
    ((head ++ field ++ a ++ b ++ c ++ d ++ e ++ f).drop 32).take 64 = field := by
  simp only [List.append_assoc]
  rw [← hhead, List.drop_left, ← hfield, List.take_left]

theorem evidence_length (s : State) (fn : Nat) (nonce : VWord) : (s.evidence fn nonce).1.length = 0x290 + 4627 := by
  simp [State.evidence, length_bytesOf, upTo]

theorem evidence_nonce (s : State) (fn : Nat) (nonce : VWord) :
    ((s.evidence fn nonce).1.drop 32).take 64 = bytesOf 64 nonce.toNat := by
  unfold State.evidence
  dsimp only
  refine field_of_record ?_ (length_bytesOf _ _) _ _ _ _ _ _
  simp [length_bytesOf]

/-- The answer to an evidence request stands in its result. -/
def State.evidenced (s : State) (fn : Nat) (nonce : VWord) : State :=
  let r := s.evidence fn nonce
  { r.2 with secure := { r.2.secure with asks := merase r.2.secure.asks fn, results := mset r.2.secure.results fn (0, r.1) } }

theorem evidenceRequest_eq {s : State} {fn : Nat} {nonce : VWord} (h : mfind s.secure.asks fn = some nonce) :
    Sys2Proof.Machine.exec (.evidenceRequest fn) s = .next (s.evidenced fn nonce) := by
  change execEvidenceRequest fn s = _
  unfold execEvidenceRequest
  rw [h]
  rfl

/-! ### Firmware (R378) -/

/-- The device state when an image is activated. -/
def Secure.activated (v : Secure) (svn image : Nat) : Secure :=
  { v with
    sessions := [], asks := [], results := v.asks.foldl (fun r a => mset r a.1 (3, [])) v.results
    keyAsks := [], keyResults := v.keyAsks.foldl (fun r a => mset r a 3) v.keyResults
    svn := svn, image := image, fuse := min 64 (max v.fuse svn), staged := none, activate := 0 }

/-- The device state when an image is refused. -/
def Secure.refused (v : Secure) (why : Nat) : Secure := { v with staged := none, activate := why }

/-- What activating an image leaves of the device state: 1 SIGN, 2 REVERT, or the image. -/
def Secure.activation (v : Secure) (svn image : Nat) : Secure :=
  if Config.signed svn image = false then v.refused 1 else if svn < v.fuse then v.refused 2 else v.activated svn image

theorem firmwareActivate_eq {s : State} {svn image : Nat} (h : s.secure.staged = some (svn, image)) :
    Sys2Proof.Machine.exec .firmwareActivate s = .next { s with secure := s.secure.activation svn image } := by
  change execFirmwareActivate s = _
  unfold execFirmwareActivate Secure.activation
  rw [h]
  dsimp only
  cases Config.signed svn image with
  | false => rfl
  | true =>
    by_cases hold : svn < s.secure.fuse
    · simp only [hold]; rfl
    · simp only [hold]; rfl

theorem activation_staged (v : Secure) (svn image : Nat) : (v.activation svn image).staged = none := by
  unfold Secure.activation
  split
  · rfl
  · split <;> rfl

theorem activation_unsigned (v : Secure) {svn image : Nat} (h : Config.signed svn image = false) :
    v.activation svn image = v.refused 1 := if_pos h

theorem activation_old {v : Secure} {svn image : Nat} (h : Config.signed svn image = true) (hold : svn < v.fuse) :
    v.activation svn image = v.refused 2 := (if_neg (by rw [h]; decide)).trans (if_pos hold)

theorem activation_new {v : Secure} {svn image : Nat} (h : Config.signed svn image = true) (hnew : v.fuse ≤ svn) :
    v.activation svn image = v.activated svn image := (if_neg (by rw [h]; decide)).trans (if_neg (by omega))

/-! ### Sessions and keys (R344, R376, R378) -/

theorem securedSessionOpen_eq {s : State} {r : Nat} (h : mfind s.secure.sessions r = none) :
    Sys2Proof.Machine.exec (.securedSessionOpen r) s = .next { s.draw.2 with secure := { s.draw.2.secure with
      sessions := mset s.draw.2.secure.sessions r (Config.sessionKey s.draw.1 r) } } := by
  change execSecuredSessionOpen r s = _
  unfold execSecuredSessionOpen
  rw [h]

/-- A requester is told how its key delivery ended. -/
def Secure.keyTold (v : Secure) (r st : Nat) : Secure :=
  { v with keyAsks := v.keyAsks.filter (fun x => x != r), keyResults := mset v.keyResults r st }

theorem keyTold_result (v : Secure) (r st : Nat) : mfind (v.keyTold r st).keyResults r = some st :=
  (mfind_mset v.keyResults r r st).trans (if_pos rfl)

theorem keyTold_asks (v : Secure) (r st : Nat) : r ∉ (v.keyTold r st).keyAsks := by
  simp [Secure.keyTold]

theorem keyDelivery_unopened {s : State} {r : Nat} (h : mfind s.secure.sessions r = none) (q : Nat) (k m : BitVec 128) :
    Sys2Proof.Machine.exec (.keyDelivery q r k m) s = .next { s with secure := s.secure.keyTold r 3 } :=
  if_pos (by rw [h]; rfl)

theorem session_open {s : State} {r : Nat} (h : mfind s.secure.sessions r ≠ none) : ¬ (mfind s.secure.sessions r).isNone = true := by
  rw [Option.isNone_iff_eq_none]
  exact h

theorem keyDelivery_begins {s : State} {r : Nat} (h : mfind s.secure.sessions r ≠ none) (hask : r ∉ s.secure.keyAsks) (q : Nat) (k m : BitVec 128) :
    Sys2Proof.Machine.exec (.keyDelivery q r k m) s
      = .next { s with secure := { s.secure with keyAsks := s.secure.keyAsks ++ [r] } } := by
  refine (if_neg (session_open h)).trans (if_pos ?_)
  simpa using hask

/-- A partition with this key and this grant table. -/
def Partition.keyed (x : Partition) (k m : BitVec 128) (gs : List Grant) : Partition := { x with key := some (k, m), grants := gs }

/-- A key and a grant table are installed. -/
def State.keyed (s : State) (q r : Nat) (k m : BitVec 128) (gs : List Grant) : State :=
  let t := s.modPart q (fun x => x.keyed k m gs)
  { t with secure := t.secure.keyTold r 0 }

theorem part_keyed (s : State) (q r : Nat) (k m : BitVec 128) (gs : List Grant) (p : Nat) :
    (s.keyed q r k m gs).part p = if p = q then (s.part q).keyed k m gs else s.part p := State.part_modPart s q p (fun x => x.keyed k m gs)

theorem keyDelivery_installs {s : State} {q r : Nat} {k : BitVec 128} {gs : List Grant} (h : mfind s.secure.sessions r ≠ none)
    (hask : r ∈ s.secure.keyAsks)
    (hgrants : withGroup (s.part q).grants (mget (0, 0) s.secure.keyGroups r).1 (mget (0, 0) s.secure.keyGroups r).2 = some gs)
    (hk : k ≠ 0) (hfree : s.registered q = 0) (hq : q < 16) (m : BitVec 128) :
    Sys2Proof.Machine.exec (.keyDelivery q r k m) s = .next (s.keyed q r k m gs) := by
  have hgo : (k != 0 && s.registered q == 0 && decide (q < 16)) = true := by
    rw [bne_iff_ne.2 hk, hfree, decide_eq_true hq]
    rfl
  have hasked : ¬ (!(s.secure.keyAsks.contains r)) = true := by simp [hask]
  change execKeyDelivery q r k m s = _
  unfold execKeyDelivery
  dsimp only
  rw [if_neg (session_open h), if_neg hasked, hgrants]
  exact if_pos hgo

/-! ### The function level reset (R380) -/

/-- What one step of a fold establishes and every step keeps holds after the fold. -/
theorem foldl_establishes {σ α : Type} {f : σ → α → σ} {P : σ → Prop} {a : α} (hkeep : ∀ s b, P s → P (f s b)) (hown : ∀ s, P (f s a))
    {l : List α} (ha : a ∈ l) (s : σ) : P (l.foldl f s) := by
  have hkeeps : ∀ (l : List α) (s : σ), P s → P (l.foldl f s) := by
    intro l
    induction l with
    | nil => exact fun _ h => h
    | cons b l ih => exact fun s h => ih _ (hkeep s b h)
  induction l generalizing s with
  | nil => cases ha
  | cons b l ih =>
    rcases List.mem_cons.1 ha with rfl | hmem
    · exact hkeeps l _ (hown s)
    · exact ih hmem _

/-- What a core runs and has queued for the engines of its cluster. -/
def Core.engaged (c : Core) : Option GroupRun × Option Nat × List CopyReq × List MatCmd := (c.group, c.handler, c.fifo, c.mq)

theorem engaged_flrStop (c : Core) : c.flrStop.engaged = (none, none, [], []) := by
  unfold Core.flrStop
  dsimp only
  split <;> rfl

/-- A core of the partition leaves its gang and stops. -/
def State.flrStopAt (s : State) (p : Nat) : State := (s.leaveGang p).modCore p Core.flrStop

theorem engaged_flrStopAt (s : State) (p x : Nat) :
    ((s.flrStopAt p).core x).engaged = if x = p then (none, none, [], []) else (s.core x).engaged := by
  unfold State.flrStopAt
  rw [State.core_modCore]
  split
  · exact engaged_flrStop _
  · exact (quiet_leaveGang s p).alike.core Core.engaged (fun _ => rfl) x

theorem engaged_releaseCopy (s : State) (w : Paired) (x : Nat) : ((s.releaseCopy w).core x).engaged = (s.core x).engaged := by
  unfold State.releaseCopy
  split
  · rw [State.core_modCore]
    split
    · rename_i hx; rw [hx]; rfl
    · rfl
  · rfl

theorem engaged_dropPaired (s : State) (mine : Paired → Bool) (x : Nat) : ((s.dropPaired mine).core x).engaged = (s.core x).engaged :=
  foldl_keeps (fun s : State => (s.core x).engaged) (fun s w => engaged_releaseCopy s w x) _ _

/-- The cores of the partition have stopped, and what of theirs waits to be compared is dropped. -/
def State.flrStopped (s : State) (q : Nat) : State :=
  ((s.flrCores q).foldl State.flrStopAt (s.flrAbort q)).dropPaired (fun w => (s.flrCores q).contains w.core)

theorem mapChest_cores (s : State) (f : List Chest → List Chest) : (s.mapChest f).cores = s.cores := rfl

theorem flrBegin_cores (s : State) (q : Nat) : (s.flrBegin q).cores = (s.flrStopped q).cores := by
  unfold State.flrBegin
  extract_lets ps stopped dropped pruned chest emptied
  have hdropped : dropped = s.flrStopped q := rfl
  clear_value dropped
  have hemptied : emptied.cores = chest.cores := by
    unfold emptied
    exact foldl_keeps State.cores (fun _ _ => State.modCluster_cores _ _ _) _ chest
  have hchest : chest.cores = pruned.cores := mapChest_cores _ _
  have hpruned : pruned.cores = dropped.cores := rfl
  rw [State.modPart_cores, hemptied, hchest, hpruned, hdropped]

theorem engaged_flrBegin (s : State) {q p : Nat} (hp : p ∈ s.flrCores q) : ((s.flrBegin q).core p).engaged = (none, none, [], []) := by
  have hstop : (((s.flrCores q).foldl State.flrStopAt (s.flrAbort q)).core p).engaged = (none, none, [], []) := by
    refine foldl_establishes (P := fun u : State => (u.core p).engaged = (none, none, [], [])) (fun u b h => ?_) (fun u => ?_) hp _
    · rw [engaged_flrStopAt]
      split
      · rfl
      · exact h
    · rw [engaged_flrStopAt, if_pos rfl]
  unfold State.core
  rw [flrBegin_cores]
  exact (engaged_dropPaired _ _ p).trans hstop

/-- A core after the reset. -/
def Core.flrEmptied (c : Core) : Core := { c with mbox := [], resv := [], cq := [], west := [], east := [], ring := [] }

/-- The cores of the partition are emptied. -/
def State.flrEmptied (s : State) (q : Nat) : State := (s.flrCores q).foldl (fun s p => s.modCore p Core.flrEmptied) s

/-- The clusters of the partition are scrubbed. -/
def State.flrScrubbed (s : State) (q : Nat) : State := ((s.flrEmptied q).clustersOf q).foldl State.scrubCluster (s.flrEmptied q)

/-- The partition's inbox starts over. -/
def Partition.restarted (x : Partition) : Partition := { x with stopped := false, inbox := [], head := 0, tail := 0 }

theorem flrEnd_eq (s : State) (q : Nat) : s.flrEnd q = (s.flrScrubbed q).modPart q Partition.restarted := rfl

theorem cluster_flrEmptied (s : State) (q cl : Nat) : (s.flrEmptied q).cluster cl = s.cluster cl := cluster_foldl_modCore _ _ s cl

theorem clustersOf_flrEmptied (s : State) (q : Nat) : (s.flrEmptied q).clustersOf q = s.clustersOf q := by
  unfold State.clustersOf
  simp only [cluster_flrEmptied]

theorem part_of_mem_clustersOf {s : State} {q cl : Nat} (h : cl ∈ s.clustersOf q) : (s.cluster cl).part = some q := by
  have hkept := (List.mem_filter.1 h).2
  rw [Bool.and_eq_true, beq_iff_eq] at hkept
  exact hkept.2

theorem mbox_flrEmptied (s : State) {q p : Nat} (hp : p ∈ s.flrCores q) : ((s.flrEmptied q).core p).mbox = [] := by
  refine foldl_establishes (P := fun u : State => (u.core p).mbox = []) (fun u b h => ?_) (fun u => ?_) hp s
  · rw [State.core_modCore]
    split
    · rfl
    · exact h
  · rw [State.core_modCore_self]
    rfl

theorem mbox_flrScrubbed (s : State) {q p : Nat} (hp : p ∈ s.flrCores q) : ((s.flrScrubbed q).core p).mbox = [] := by
  refine (foldl_keeps (fun u : State => (u.core p).mbox) (fun u cl => ?_) _ _).trans (mbox_flrEmptied s hp)
  rw [scrubCluster_core]
  split <;> rfl

theorem mem_flrScrubbed (s : State) {q p : Nat} (hp : p ∈ s.flrCores q) : ((s.flrScrubbed q).core p).mem = [] := by
  obtain ⟨cl, hcl, hcore⟩ := List.mem_flatMap.1 hp
  rw [← clustersOf_flrEmptied] at hcl
  refine foldl_establishes (P := fun u : State => (u.core p).mem = []) (fun u b h => ?_) (fun u => ?_) hcl _
  · rw [scrubCluster_core]
    split
    · rfl
    · exact h
  · rw [scrubCluster_core, if_pos hcore]
    rfl

theorem clusterMem_flrScrubbed (s : State) {q cl : Nat} (hcl : cl ∈ s.clustersOf q) : ((s.flrScrubbed q).cluster cl).mem = [] := by
  rw [← clustersOf_flrEmptied] at hcl
  refine foldl_establishes (P := fun u : State => (u.cluster cl).mem = []) (fun u b h => ?_) (fun u => ?_) hcl _
  · rw [scrubCluster_cluster]
    split
    · rfl
    · exact h
  · rw [scrubCluster_cluster, if_pos rfl]
    rfl

theorem clusterPart_flrScrubbed (s : State) (q cl : Nat) : ((s.flrScrubbed q).cluster cl).part = (s.cluster cl).part := by
  refine (foldl_keeps (fun u : State => (u.cluster cl).part) (fun u b => ?_) _ _).trans (by rw [cluster_flrEmptied])
  rw [scrubCluster_cluster]
  split
  · rename_i hcl; rw [hcl]; rfl
  · rfl

theorem phys_flrScrubbed (s : State) (q : Nat) : (s.flrScrubbed q).phys = s.phys :=
  (foldl_keeps State.phys scrubCluster_phys _ _).trans (phys_foldl_modCore _ _ s)

theorem functionLevelReset_begins {s : State} {q : Nat} (h : (s.part q).stopped = false) :
    Sys2Proof.Machine.exec (.functionLevelReset q) s = .next (s.flrBegin q) := if_pos (by rw [h]; rfl)

theorem functionLevelReset_ends {s : State} {q : Nat} (h : (s.part q).stopped = true) (hquiet : s.flrQuiet q = true) :
    Sys2Proof.Machine.exec (.functionLevelReset q) s = .next (s.flrEnd q) := (if_neg (by rw [h]; decide)).trans (if_pos hquiet)

theorem flrBegin_part (s : State) (q : Nat) : ((s.flrBegin q).part q).stopped = true ∧ ((s.flrBegin q).part q).launches = []
    ∧ ((s.flrBegin q).part q).inbox = [] ∧ ((s.flrBegin q).part q).acts = [] := by
  unfold State.flrBegin
  rw [State.part_modPart_self]
  exact ⟨rfl, rfl, rfl, rfl⟩

/-- Settles O60: each step by its equation; the journals by what a write leaves at the other journals, and the function level
reset by what each core's stop and each cluster's scrub establishes and the later ones keep. -/
theorem resetSecuritySteps : Obligations.ResetSecuritySteps := by
  refine ⟨fun s => ⟨⟨s.coldBoot, rfl, ?cold⟩, ⟨_, rfl, rfl, rfl, rfl, rfl, rfl⟩, ⟨_, rfl, rfl, rfl, bget_hostCells s.phys⟩⟩,
    fun s z tier chunk hwf hj hnext => ⟨_, hbmScrubChunk_eq hwf hj hnext, journal_chunkScrubbed hwf hj hnext,
      fun a ha => bget_chunkScrubbed hwf z tier chunk ha, rfl⟩,
    fun s k q r hr hq => ⟨s.rangePassed k q r, { r with part := q, next := none }, rangeZeroing_eq hr hq, ?range, rfl, rfl,
      bget_rangePassed s k q r, rfl⟩,
    fun s fn nonce hask => ⟨s.evidenced fn nonce, (s.evidence fn nonce).1, evidenceRequest_eq hask, ?result, mfind_merase_self _ _,
      evidence_length s fn nonce, evidence_nonce s fn nonce, rfl, rfl, rfl⟩,
    fun s svn image hstaged => ⟨_, firmwareActivate_eq hstaged, activation_staged _ _ _, ?unsigned, ?old, ?new, rfl⟩,
    fun s r => ⟨fun hnone => ⟨_, securedSessionOpen_eq hnone, ?opened, rfl⟩, ⟨_, rfl, mfind_merase_self _ _, fun x hx => mfind_merase_other _ hx⟩,
      fun q h m hnone => ⟨_, keyDelivery_unopened hnone q h m, keyTold_result _ _ _, rfl, rfl⟩,
      fun q h m hopen hask => ⟨_, keyDelivery_begins hopen hask q h m, List.mem_append_right _ List.mem_cons_self, rfl, rfl⟩,
      fun q h m gs hopen hask hgrants hh hfree hq => ⟨_, keyDelivery_installs hopen hask hgrants hh hfree hq m, ?key⟩⟩,
    fun s q => ⟨fun hrun => ⟨_, functionLevelReset_begins hrun, ?begins⟩, fun hstopped hquiet => ⟨_, functionLevelReset_ends hstopped hquiet, ?ends⟩⟩⟩
  case cold =>
    obtain ⟨hcores, hparts, htime⟩ := coldBoot_device s
    have hwf : memWf s.phys = true → memWf s.coldStart.phys = true := id
    refine ⟨hcores, hparts, htime, fun h => ⟨fun n hn => ?_, fun a h0 h1 => ?_⟩⟩
    · exact journal_openJournals (fun sl hsl => List.mem_range.1 hsl) hn (hwf h) (Or.inl (List.mem_range.2 hn))
    · exact bget_openJournals h0 h1 (hwf h)
  case range =>
    have hk : k < s.ranges.length := (List.getElem?_eq_some_iff.1 hr).1
    exact List.getElem?_set_self hk
  case result => exact (mfind_mset _ fn fn _).trans (if_pos rfl)
  case unsigned =>
    intro h
    rw [activation_unsigned _ h]
    exact ⟨rfl, rfl, rfl⟩
  case old =>
    intro h hold
    rw [activation_old h hold]
    exact ⟨rfl, rfl⟩
  case new =>
    intro h hnew
    rw [activation_new h hnew]
    refine ⟨rfl, rfl, rfl, rfl, ?_⟩
    exact congrArg (min 64) (Nat.max_eq_right hnew)
  case opened =>
    rw [mfind_mset, if_pos rfl]
    exact Option.some_ne_none _
  case key =>
    have hq' : (s.keyed q r h m gs).part q = (s.part q).keyed h m gs := (part_keyed s q r h m gs q).trans (if_pos rfl)
    rw [hq']
    exact ⟨rfl, rfl, keyTold_result _ _ _, keyTold_asks _ _ _, fun p hp => (part_keyed s q r h m gs p).trans (if_neg hp), rfl⟩
  case begins =>
    obtain ⟨hstop, hlaunches, hinbox, hacts⟩ := flrBegin_part s q
    refine ⟨hstop, hlaunches, hinbox, hacts, fun p hp => ?_, sameMemory_of_mems (mems_flrBegin s q)⟩
    have hengaged := engaged_flrBegin s hp
    simp only [Core.engaged, Prod.mk.injEq] at hengaged
    exact hengaged
  case ends =>
    have hpart : (s.flrEnd q).part q = ((s.flrScrubbed q).part q).restarted := by
      rw [flrEnd_eq, State.part_modPart_self]
    rw [hpart, flrEnd_eq]
    simp only [State.modPart_core_get, State.modPart_cluster_get, State.modPart_phys]
    exact ⟨rfl, rfl, rfl, fun p hp => ⟨mem_flrScrubbed s hp, mbox_flrScrubbed s hp⟩,
      fun cl hcl => ⟨clusterMem_flrScrubbed s hcl, (clusterPart_flrScrubbed s q cl).trans (part_of_mem_clustersOf hcl)⟩, phys_flrScrubbed s q⟩

end Sys2Proof.Machine
end
